-- ==== Sys2Proof/Word.lean ====
section
/-! DEFINITION. The words of the machine and their plainest arithmetic: bytes, little-endian
numbers (spec R9) and bit fields of a natural number. Nothing here knows the TS2. -/

namespace Sys2Proof

/-- One byte. -/
abbrev Byte := BitVec 8

/-- The unsigned field of `w` bits of `x` that begins at bit `lo`. -/
def bitsOf (x lo w : Nat) : Nat := x / 2 ^ lo % 2 ^ w

/-- Bit `k` of `x`. -/
def bitOf (x k : Nat) : Bool := x / 2 ^ k % 2 == 1

/-- `x` with the field of `w` bits at bit `lo` replaced by the low `w` bits of `v`. -/
def setBits (x lo w v : Nat) : Nat :=
  x / 2 ^ (lo + w) * 2 ^ (lo + w) + v % 2 ^ w * 2 ^ lo + x % 2 ^ lo

/-- The little-endian number of a list of bytes (R9). -/
def leNat : List Byte → Nat
  | [] => 0
  | b :: r => b.toNat + 256 * leNat r

/-- The `n` bytes of `v`, least significant first (R9). -/
def leBytes : Nat → Nat → List Byte
  | 0, _ => []
  | n + 1, v => BitVec.ofNat 8 v :: leBytes n (v / 256)

/-- The two's-complement reading of the low `w` bits of `x`. -/
def signedOf (w x : Nat) : Int :=
  let y : Nat := x % 2 ^ w
  if 2 * y < 2 ^ w then (y : Int) else (y : Int) - (2 ^ w : Nat)

/-- The low `w` bits of the two's-complement form of `z`. -/
def unsignedOf (w : Nat) (z : Int) : Nat := (z % ((2 ^ w : Nat) : Int)).toNat

/-- One, or zero. -/
def natOfBool (b : Bool) : Nat := if b then 1 else 0

end Sys2Proof
end

