-- ==== Sys2Proof/Syntax.lean ====
section
/-! DEFINITION. The commands of the block: one constructor of `Instr` for each row of
spec/opcode_table.json, with what the step receives from outside as its operands.
A row of a Pelkai instruction names the admitted instruction that starts (spec R77, R252);
a row of a message carries the message (R219, R195, R318); a row of a host access carries the
access (R339, R342); an analogue or environment event carries the reading. -/

namespace Sys2Proof

/-- A control message on TC0 (R219), field by field; `digest` holds the four 64-bit lanes of
bytes 32 to 63. -/
structure CtlMsg where
  type    : Nat := 0
  reason  : Nat := 0
  mon     : Nat := 0
  nf      : Bool := false
  ov      : Bool := false
  policy  : Nat := 0
  wide    : Bool := false
  replays : Nat := 0
  step    : Nat := 0
  bcstep  : Nat := 0
  version : Nat := 0
  origin  : Nat := 0
  count   : Nat := 0
  subject : Nat := 0
  detail  : Nat := 0
  ckpt    : Nat := 0xffffffff
  digest  : List Nat := [0, 0, 0, 0]
  deriving DecidableEq, Repr

/-- A reduction block on TC1 (R195, R196); `body` holds the elements the block carries:
I26 contributions, I40 sums or BF16 patterns, by `kind`. -/
structure RedBlock where
  kind    : Nat := 0
  nf      : Bool := false
  ov      : Bool := false
  last    : Bool := false
  changed : Bool := false
  eb      : Nat := 0
  pk      : Nat := 0
  attempt : Nat := 0
  bucket  : Nat := 0
  step    : Nat := 0
  first   : Nat := 0
  body    : List Int := []
  deriving DecidableEq, Repr

/-- The payload of a link block by its type and class (R319). -/
inductive Payload where
  /-- TC0: a control message. -/
  | ctl (m : CtlMsg)
  /-- TC1: a reduction block. -/
  | red (b : RedBlock)
  /-- TC2: bytes `data` of stream `stream` at `offset`. -/
  | bulk (stream offset : Nat) (data : List Byte)
  /-- FENCE: the step withdrawn and the sender's VERSION. -/
  | fence (step version : Nat)
  /-- NAK: reason and the SEQ concerned. -/
  | nak (reason seq : Nat)
  /-- CREDIT_SYNC: absolute credits of TC0 to TC2. -/
  | creditSync (c0 c1 c2 : Nat)
  /-- IDENT: FABRIC_ID, ID_TAG and the mask of locked lanes. -/
  | ident (fabricId idTag lanes : Nat)
  /-- IDLE: nothing. -/
  | idle
  deriving DecidableEq, Repr

/-- A link block as it arrives intact (R318). `btype`: 0 IDLE, 1 DATA, 2 FENCE, 3 NAK,
4 CREDIT_SYNC, 5 IDENT. `resv`: some reserved header bit is set; `payResv`: some reserved bit of a fence or bulk payload
is (R332). -/
structure LinkBlock where
  btype : Nat := 0
  tc    : Nat := 0
  resv  : Bool := false
  payResv : Bool := false
  hops  : Nat := 0
  seq   : Nat := 0
  ack   : Nat := 0
  cr0   : Nat := 0
  cr1   : Nat := 0
  cr2   : Nat := 0
  dest  : Nat := 0
  src   : Nat := 0
  pay   : Payload := .idle
  deriving DecidableEq, Repr

/-- The kinds of checked unit (R230, R232, R233). -/
inductive UnitKind where
  | grid | row | update | adder
  deriving DecidableEq, Repr

/-- What the re-execution of a digital disagreement agrees with (R232). -/
inductive ArbVerdict where
  | original | checker | neither
  deriving DecidableEq, Repr

/-- The kinds of unit that sleep on their own (R358), in the order of the bits of SLEEP_EN. -/
inductive SleepKind where
  | tile | grid | row | stream | mover | update
  deriving DecidableEq, Repr

/-- How an access to host memory ends (R346). -/
inductive HostOutcome where
  | ok | error | poison
  deriving DecidableEq, Repr

/-- What a scrub or a read finds in one line (R347, R348). -/
inductive EccOutcome where
  | clean | corrected | uncorrectable
  deriving DecidableEq, Repr

/-- A wake trigger by its code in PWR.STATUS.WAKE (R363, R370). -/
inductive WakeCause where
  | doorbell | request | hostAccess | takeover | service
  deriving DecidableEq, Repr

/-- An access through the debug access port under a granted level (R390). -/
inductive DapOp where
  | readRing (ext : Bool) (off : Nat)
  | readTrace (unit : Nat)
  | haltPuppeteer
  | stepPuppeteer
  | resumePuppeteer
  | readMem (space addr : Nat)
  | writeMem (space addr : Nat) (b : Byte)
  | readReg (off : Nat)
  | writeReg (off value : Nat)
  deriving DecidableEq, Repr

/-- The mover-block CRCs of an instruction: the mismatches, and the block whose second reading mismatches too: the number
of its descriptor and its number in that (R188, R231). -/
structure MoverCrc where
  fails : Nat := 0
  bad   : Option (Nat × Nat) := none
  deriving DecidableEq, Repr

/-- One 26-reading set of a converter: the raw codes in the order of R119. -/
abbrev Readings := List Int

/-- What a boot reads: the highest sensor reading, and for the tiles whose calibration reads other codes than R119 expects, by
number, the raw codes of their converters by column group. -/
structure BootReads where
  hottest : Int := 0
  fits : List (Nat × List (List Readings)) := []
  deriving DecidableEq, Repr

/-- The commands: one constructor per row of the operation table, family by family. -/
inductive Instr where
  | ctlNop (id : Nat)
  | ctlJoin (id : Nat)
  | ctlTset (id : Nat)
  | ctlTclr (id : Nat)
  | ctlFence (id : Nat)
  | ctlMark (id : Nat)
  | memAlloc (id : Nat)
  | memFree (id : Nat)
  | memDset (id : Nat)
  | memQuota (id : Nat)
  | memFill (id : Nat)
  | movCopy (id : Nat) (crc : MoverCrc)
  | movList (id : Nat) (crc : MoverCrc)
  | vecAdd (id : Nat)
  | vecSub (id : Nat)
  | vecMul (id : Nat)
  | vecFma (id : Nat)
  | vecMin (id : Nat)
  | vecMax (id : Nat)
  | vecAbs (id : Nat)
  | vecNeg (id : Nat)
  | vecAnd (id : Nat)
  | vecOr (id : Nat)
  | vecXor (id : Nat)
  | vecNot (id : Nat)
  | vecShl (id : Nat)
  | vecShr (id : Nat)
  | vecSar (id : Nat)
  | vecCmp (id : Nat)
  | vecSel (id : Nat)
  | vecFunc (id : Nat)
  | vecCvt (id : Nat)
  | vecGather (id : Nat)
  | vecScatadd (id : Nat)
  | vecSegsum (id : Nat)
  | vecSegmax (id : Nat)
  | vecSort (id : Nat)
  | vecTopk (id : Nat)
  | vecHist (id : Nat)
  | valPush (id : Nat) (crc : MoverCrc)
  | valPop (id : Nat) (crc : MoverCrc)
  | valDrop (id : Nat)
  | arrPlace (id : Nat)
  | arrProgram (id : Nat)
  | arrRelease (id : Nat)
  | arrFwd (id : Nat)
  | arrLread (id : Nat)
  | arrFallback (id : Nat)
  | arrCalib (id : Nat)
  | grdFwd (id : Nat)
  | grdDx (id : Nat)
  | grdDw (id : Nat)
  | rowNorm (id : Nat)
  | rowNormb (id : Nat)
  | rowSmax (id : Nat)
  | rowSmaxb (id : Nat)
  | rowLse (id : Nat)
  | rowLseb (id : Nat)
  | colBucket (id : Nat)
  | colPass (id : Nat)
  | colUpdcfg (id : Nat)
  | colAvgreset (id : Nat)
  | svcSeed (id : Nat)
  | svcCkpt (id : Nat)
  | svcScrub (id : Nat)
  | svcRecord (id : Nat)
  /-- The scheduler admits the record at HEAD of queue `q`. -/
  | recordAdmission (q : Nat)
  /-- The open chain of queue `q` closes (R174). -/
  | chainClose (q : Nat)
  | instructionCompletion (id : Nat)
  | stall
  /-- An item of instruction `id` ends on `grid`; `agree` is its residue verdict (R144, R230). -/
  | gridItem (id grid : Nat) (agree : Bool)
  /-- The re-execution of a disagreement on unit `unit` of kind `kind`, in instruction `id`. -/
  | digitalArbitration (kind : UnitKind) (unit id : Nat) (v : ArbVerdict)
  /-- The re-read of the row group in dispute on `tile` as two groups of 64 rows: the codes of its live columns in the four
  slice positions of the lower rows and of the upper ones (R127). -/
  | arrayArbitration (tile : Nat) (low high : List (List Int))
  /-- A part of instruction `id` fails on unit `unit` (number of R415). -/
  | partFailure (id unit : Nat)
  | ftqPost
  | valleyPrefetch
  /-- The transfer of the page with sequence number `page` ends. -/
  | pageTransferDone (page : Nat)
  /-- The 64-bit value `v` is written to the doorbell of queue `q`. -/
  | doorbell (q v : Nat)
  | ingestWake (v : Nat)
  | stepLaunch
  | tokenClearAll
  | run (on : Bool)
  | queueCfg (q v : Nat)
  | cqCfg (n v : Nat)
  | cqHead (n head : Nat)
  /-- A host write of MEM.VALLEY_QUOTA, or of SCH.DEFER_QUOTA when `defer` is true. -/
  | quotaWrite (defer : Bool) (v : Nat)
  | linfoWrite (v : Nat)
  | forceProbe
  | qclear
  /-- A host access of `bytes` bytes at offset `off` of BAR `bar` (R339): a write of `v`, or a read. -/
  | registerWrite (bar off bytes : Nat) (v : Option Nat)
  | headSeqRead
  | evtRate (v : Nat)
  | msixUnmask (vec : Nat)
  | programLoad
  | loopLaunch
  | settleExpiry
  /-- The puppeteer looks at PROD; `o` is how its read of host memory ends. -/
  | ingestPoll (o : HostOutcome)
  /-- The puppeteer reads the entry at the cursor; `o` is the outcome of the second try at the
  latest (R306). -/
  | ingestTake (o : HostOutcome)
  /-- The copy of the batch ends with outcome `o` (of the second try at the latest). -/
  | batchPresent (o : HostOutcome)
  | ingestStall
  /-- A write of `v` to SCH.SVC_CMD, whose block names the row's command (R313). -/
  | loopStart (v : Nat)
  | loopStop (v : Nat)
  | loopRestart (v : Nat)
  | restoreHost (v : Nat)
  | ckptNow (v : Nat)
  | fwStage (v : Nat)
  | fwActivate (v : Nat)
  | serviceBadCmd (v : Nat)
  | readySend
  /-- READY from the child of rank `from_`. -/
  | ready (from_ : Nat) (m : CtlMsg)
  | fail (from_ : Nat) (m : CtlMsg)
  | commit (m : CtlMsg)
  | veto (m : CtlMsg)
  | clear (from_ : Nat) (m : CtlMsg)
  | resume (m : CtlMsg)
  | rollback (m : CtlMsg)
  | rollbackComplete
  | heartbeatSend
  | heartbeat (from_ : Nat) (m : CtlMsg)
  | heartbeatMiss (f : Nat)
  | failnote (from_ : Nat) (m : CtlMsg)
  | takeover (from_ : Nat) (m : CtlMsg)
  | digestCompute
  | digestDown (m : CtlMsg)
  | digestUp (from_ : Nat) (m : CtlMsg)
  | checkpointConfirm
  | join (from_ : Nat) (m : CtlMsg)
  | joined (m : CtlMsg)
  | table (m : CtlMsg)
  | bucketRelease (id : Nat)
  | bucketEntry
  /-- The next group of bucket `b` leaves (or, at the owner, reaches the update engine). -/
  | groupSend (b : Nat)
  | up26 (from_ : Nat) (b : RedBlock)
  | up40 (from_ : Nat) (b : RedBlock)
  | updateGroup (b : Nat)
  | down (b : RedBlock)
  | probeUp (from_ : Nat) (b : RedBlock)
  | probeDown (b : RedBlock)
  | end_ (b : RedBlock)
  | retry (b : RedBlock)
  /-- A FENCE block arrives on port `p`. -/
  | fence (p : Nat) (b : LinkBlock)
  | bulkData (p : Nat) (b : LinkBlock)
  | nak (p : Nat) (b : LinkBlock)
  | creditSync (p : Nat) (b : LinkBlock)
  | ident (p : Nat) (b : LinkBlock)
  /-- An IDLE block, or any other intact block's link header, arrives on port `p`. -/
  | idle (p : Nat) (b : LinkBlock)
  | blockSend (p : Nat)
  | blockForward (p : Nat)
  | fecUncorrectable (p : Nat)
  | blockCrcFail (p : Nat)
  | ackTimeout (p : Nat)
  | resendLimit (p : Nat)
  | violationLimit (p : Nat)
  /-- A training of port `p` ends with the lanes of mask `lanes` locked, signal on `signal`,
  and the partner's IDENT. -/
  | linkTraining (p lanes : Nat) (signal : Bool) (fabricId idTag : Nat)
  | lossOfLock (p : Nat)
  | trainingRetry (p : Nat)
  | retrain (p : Nat)
  | unquarantine (p : Nat)
  | portEnable (p : Nat) (en : Bool)
  | routeLoad
  | calibrationDue (tile : Nat)
  /-- A calibration of `tile`: per column group, the raw codes of its 32 converters. -/
  | calibration (tile : Nat) (ys : List (List Readings))
  | levelCrossingStart (layer : Nat)
  /-- A row write of `tile` ends; `failed` lists the physical columns whose cell failed twice. -/
  | rowWrite (tile : Nat) (failed : List Nat)
  | wearWarn (tile : Nat)
  | wearRetire (tile : Nat)
  | suspectReprogram (tile : Nat)
  /-- Patrol scrub reads the HBM line at byte address `addr`. -/
  | patrolScrub (addr : Nat) (o : EccOutcome)
  | hbmRowRepair (row : Nat)
  | requestIdle
  | requestDoze
  | requestDeep
  | d3hotEntry
  | d0Return
  | dozeEntry
  | deepEntry
  | dozeExit (w : WakeCause)
  | deepExit (w : WakeCause)
  | hbmSelfRefreshReturn
  | unitSleep (k : SleepKind) (n : Nat)
  | unitWake (k : SleepKind) (n : Nat)
  /-- The cluster sensors and the hottest of all sensors, in units of 0.25 °C. -/
  | thermalSample (temps : List Int) (hottest : Int)
  | throttleRelease
  | thermalTrip
  | pwrEnHigh
  | pwrEnLow
  | powerGood
  /-- The input voltage at J1 in units of 10 mV, held for `us` microseconds. -/
  | inputOutOfRange (v us : Nat)
  | inputPowerRemoved
  | coldRstN (us : Nat)
  | perstAssert
  | perstDeassert
  | hotReset
  | busMasterEnable
  | devReset (v : Nat)
  | serviceReset (v : Nat)
  | puppeteerWatchdog
  | tileReset (v : Nat)
  /-- The boot runs to its end: whether the self-tests passed, and what it reads. -/
  | boot (selfTest : Bool) (reads : BootReads)
  | bootWatchdog
  /-- `stuck`: the position that does not verify, if any (R410). -/
  | rollbackAdvance (stuck : Option Nat)
  | entropyHealthFail (alg : Nat)
  | nonce
  | debugReq (arg : Nat)
  | debugRel
  /-- `stuck`: the fuse bit that does not verify, if any (R409). -/
  | lifecycle (arg : Nat) (stuck : Option Nat)
  | keyRotate (stuck : Option Nat)
  | scrubAll
  | features (stuck : Option Nat)
  | secBadCmd (v : Nat)
  | dapAccess (op : DapOp)
  /-- A host access to the HBM window: a read of `len` bytes, or a write of `data`. -/
  | windowAccess (addr len : Nat) (data : Option (List Byte))
  | decoderCommit (size ways : Nat)
  | cacheResponse (tag : Nat) (o : HostOutcome)
  | hostAccessTimeout (tag : Nat)
  /-- `cachemem`: the CXL.cachemem stream, else CXL.io. -/
  | ideIntegrityFail (cachemem : Bool)
  | ideKm (cachemem : Bool)
  | doeDiscovery (index : Nat)
  | cdatTableAccess (handle : Nat)
  | getCertificate (slot : Nat)
  | challenge (slot : Nat) (nonce : List Byte)
  | getMeasurements (nonce : List Byte)
  | attestationReport (nonce : List Byte)
  | setEndpointId (eid : Nat)
  | getEndpointId
  | getMctpVersionSupport (type : Nat)
  | getMessageTypeSupport
  | getTid
  | getPldmVersion (type : Nat)
  | getPldmTypes
  | getPldmCommands (type : Nat)
  | getPdr (handle : Nat)
  | getSensorReading (sensor : Nat)
  | getStateSensorReadings (sensor : Nat)
  | requestUpdate
  /-- The transfer of an image ends: its header fields and its body's length and identity. -/
  | firmwareTransfer (image : List Byte)
  | activateFirmware
  | submit (v : Nat)
  | eventRecord
  | interruptHoldoff
  | extensionCopy
  | evtLost
  | suppressionWindow
  | replayEnter
  | replayExit
  | kernelTable
  | inputPowerApplied
  | cxlLinkUp (cxl : Bool) (width speed : Nat)
  | memorySpaceEnable
  | spdmSessionStart
  | spdmSessionEnd
  deriving DecidableEq, Repr

end Sys2Proof
end

