-- ==== Sys2Proof/Config.lean ====
section
/-! DEFINITION. What an implementation fixes and the free values: constants without a body, so that
no proof can see what they are. Each is named in notes/assumptions. -/

namespace Sys2Proof.Config

/-- Where an allocator would like to place its next allocation (R81 says only that it is contiguous
and fits); applied to the counter of free values. -/
opaque allocHint : Nat → Nat

/-- Whether a byte of the destination of a BAD mover descriptor is new (R186 allows any mixture of
old and new bytes); applied to the counter of free values and the address. -/
opaque tornByte : Nat → Nat → Bool

/-- What a byte at an address beyond its memory reads as, by space and address: no memory answers there (R344 to R346). -/
opaque absentByte : Nat → Nat → Byte

/-- The F32 pattern that a function of R172 gives where it has no mathematical value (LOG of a number
that is not positive, RECIP of a zero, RSQRT of a number that is not positive): by function code and
argument pattern. -/
opaque unstatedFunc : Nat → Nat → Nat

/-- The error of a converter code against its ideal code (R123), before it is held to the bound; applied
to the counter of free values and the conversion. -/
opaque codeError : Nat → Nat → Int

/-- The error of a checksum column's code (R125), before it is held to its bound; applied to the counter of free values and
the conversion. -/
opaque checksumError : Nat → Nat → Int

/-- How far a checksum cell lies from the mean that it was written to, in 2 ^ -20 of a doubled level, before it is held to
1/32 (R89): by tile, row and the row's count of writes. -/
opaque checksumCell : Nat → Nat → Nat → Int

/-- Whether the module was shipped less than three months ago (R123), by the always-on count. -/
opaque shippedLately : Nat → Bool

/-- The input energy of a step in mJ, which the step record carries (R428); applied to the counter of free
values. -/
opaque stepEnergy : Nat → Nat

/-- A word that a failed read leaves open (R306): applied to the counter of free values. -/
opaque freeWord : Nat → Nat

/-- Whether an Ed25519, and an ML-DSA-65, signature verifies: public key, message, signature (R374). -/
opaque edVerify : List Byte → List Byte → List Byte → Bool
opaque mlVerify : List Byte → List Byte → List Byte → Bool

/-- The public keys of a seed, and the signatures of a message with the keys of a seed (R379, R381). -/
opaque edPublic : List Byte → List Byte
opaque mlPublic : List Byte → List Byte
opaque edSign : List Byte → List Byte → List Byte
opaque mlSign : List Byte → List Byte → List Byte

/-- The SHA-512 digests of Eblum's manufacturing keys, and of the boot ROM (R375, R381). -/
opaque romEdDigest : Nat
opaque romMlDigest : Nat
opaque romDigest : List Byte

/-- The certificate chain of an algorithm (0 Ed25519, 1 ML-DSA-65) for an alias public key (R381). -/
opaque certChain : Nat → List Byte → List Byte

/-- 32 bytes of the random bit generator (R395); applied to the counter of free values. -/
opaque random : Nat → Nat

/-- The first address of the HBM row that holds an address (R347). -/
opaque hbmRow : Nat → Nat

/-- The HBM stack that holds an address, modulo 24: the hash of R344 is not given. -/
opaque hbmStack : Nat → Nat

/-- A sensor of the module (R453) and of an event's unit (R416), as sampled: applied to the counter of free
values and the sensor. -/
opaque sensor : Nat → Nat → Int

end Sys2Proof.Config
end

