-- ==== Sys2Proof/Machine/Maps.lean ====
section
/-! DEFINITION. Finite maps keyed by natural numbers, as lists in strictly rising order of keys:
the one shape in which the state holds memories, register fields, tokens, tiles and frames. -/

namespace Sys2Proof.Machine

/-- The value at key `k`, if listed. -/
def mget {α : Type} (k : Nat) : List (Nat × α) → Option α
  | [] => none
  | p :: r => if p.1 = k then some p.2 else mget k r

/-- The map with `v` at key `k`. -/
def mput {α : Type} (k : Nat) (v : α) : List (Nat × α) → List (Nat × α)
  | [] => [(k, v)]
  | p :: r =>
    if k < p.1 then (k, v) :: p :: r
    else if p.1 = k then (k, v) :: r
    else p :: mput k v r

/-- The map without key `k`. -/
def mdel {α : Type} (k : Nat) : List (Nat × α) → List (Nat × α)
  | [] => []
  | p :: r => if p.1 = k then mdel k r else p :: mdel k r

/-- The keys rise strictly. -/
def msorted {α : Type} : List (Nat × α) → Bool
  | [] => true
  | [_] => true
  | p :: q :: r => decide (p.1 < q.1) && msorted (q :: r)

/-- The map with the value at `k` changed by `f`, when it is listed. -/
def mmod {α : Type} (k : Nat) (f : α → α) (m : List (Nat × α)) : List (Nat × α) :=
  match mget k m with
  | some v => mput k (f v) m
  | none => m

end Sys2Proof.Machine
end

