-- ==== Sys2Proof/Machine/Regs.lean ====
section
/-! DEFINITION. The registers of BAR0, field by field, from the register maps of spec/03 to
spec/19: offset in BAR0 (R338), bits, reset value, access code (R12) and, for an address or a
size, how many low bits read as zero (R13). -/

namespace Sys2Proof.Machine

/-- The access codes of R12. -/
inductive Acc where
  | ro | rw | w1c | rws | wo
  deriving DecidableEq, Repr

/-- One register field. -/
structure Fld where
  off   : Nat
  lo    : Nat
  w     : Nat
  rst   : Nat
  acc   : Acc
  align : Nat
  deriving DecidableEq, Repr

/-- A field's place in the register file. -/
def Fld.key (f : Fld) : Nat := f.off * 64 + f.lo

namespace F

/-- `SCH.CTRL.STEPLAUNCH` (R86). -/
def schCtrlStepLaunch : Fld := ⟨0x10000, 2, 1, 0, .wo, 0⟩
/-- `SCH.CTRL.TOKENCLEARALL` (R86). -/
def schCtrlTokenClearAll : Fld := ⟨0x10000, 1, 1, 0, .wo, 0⟩
/-- `SCH.CTRL.RUN` (R86). -/
def schCtrlRun : Fld := ⟨0x10000, 0, 1, 0, .rw, 0⟩
/-- `SCH.STATUS.STALL` (R86). -/
def schStatusStall : Fld := ⟨0x10008, 2, 1, 0, .w1c, 0⟩
/-- `SCH.STATUS.FULL` (R86). -/
def schStatusFull : Fld := ⟨0x10008, 1, 1, 0, .ro, 0⟩
/-- `SCH.STATUS.ACTIVE` (R86). -/
def schStatusActive : Fld := ⟨0x10008, 0, 1, 0, .ro, 0⟩
/-- `SCH.DT_BASE` (R86). -/
def schDtBase : Fld := ⟨0x10010, 0, 48, 0, .rw, 16⟩
/-- `SCH.DT_COUNT` (R86). -/
def schDtCount : Fld := ⟨0x10018, 0, 16, 0, .rw, 0⟩
/-- `SCH.INFLIGHT` (R86). -/
def schInflight : Fld := ⟨0x10020, 0, 15, 0, .ro, 0⟩
/-- `SCH.CLASS_WEIGHT.W3` (R86). -/
def schClassWeightW3 : Fld := ⟨0x10028, 16, 8, 1, .rw, 0⟩
/-- `SCH.CLASS_WEIGHT.W2` (R86). -/
def schClassWeightW2 : Fld := ⟨0x10028, 8, 8, 2, .rw, 0⟩
/-- `SCH.CLASS_WEIGHT.W1` (R86). -/
def schClassWeightW1 : Fld := ⟨0x10028, 0, 8, 4, .rw, 0⟩
/-- `SCH.DEFER_QUOTA` (R86). -/
def schDeferQuota : Fld := ⟨0x10030, 0, 32, 0x2000000, .rw, 0⟩
/-- `SCH.STALL_TIMEOUT` (R86). -/
def schStallTimeout : Fld := ⟨0x10038, 0, 32, 0x7a12, .rw, 0⟩
/-- `SCH.RANK_TABLE` (R86). -/
def schRankTable : Fld := ⟨0x10040, 0, 48, 0, .rw, 6⟩
/-- `SCH.RANK.VERSION` (R86). -/
def schRankVersion : Fld := ⟨0x10048, 32, 32, 0, .ro, 0⟩
/-- `SCH.RANK.VALID` (R86). -/
def schRankValid : Fld := ⟨0x10048, 31, 1, 0, .ro, 0⟩
/-- `SCH.RANK.RANK` (R86). -/
def schRankRank : Fld := ⟨0x10048, 0, 15, 0, .ro, 0⟩
/-- `SCH.Qn_BASE` (R86). -/
def schQBase (n : Nat) : Fld := ⟨0x11000 + 0x40 * n, 0, 48, 0, .rw, 12⟩
/-- `SCH.Qn_CFG.EN` (R86). -/
def schQCfgEn (n : Nat) : Fld := ⟨0x11008 + 0x40 * n, 31, 1, 0, .rw, 0⟩
/-- `SCH.Qn_CFG.STEP` (R86). -/
def schQCfgStep (n : Nat) : Fld := ⟨0x11008 + 0x40 * n, 30, 1, 0, .rw, 0⟩
/-- `SCH.Qn_CFG.CQ` (R86). -/
def schQCfgCq (n : Nat) : Fld := ⟨0x11008 + 0x40 * n, 24, 6, 0, .rw, 0⟩
/-- `SCH.Qn_CFG.LOG2SIZE` (R86). -/
def schQCfgLog2size (n : Nat) : Fld := ⟨0x11008 + 0x40 * n, 16, 5, 4, .rw, 0⟩
/-- `SCH.Qn_CFG.CLASS` (R86). -/
def schQCfgClass (n : Nat) : Fld := ⟨0x11008 + 0x40 * n, 0, 2, 3, .rw, 0⟩
/-- `SCH.Qn_PTR.TAIL` (R86). -/
def schQPtrTail (n : Nat) : Fld := ⟨0x11010 + 0x40 * n, 32, 16, 0, .ro, 0⟩
/-- `SCH.Qn_PTR.HEAD` (R86). -/
def schQPtrHead (n : Nat) : Fld := ⟨0x11010 + 0x40 * n, 0, 16, 0, .ro, 0⟩
/-- `SCH.Qn_LOOP.END` (R86). -/
def schQLoopEnd (n : Nat) : Fld := ⟨0x11018 + 0x40 * n, 16, 16, 0, .rw, 0⟩
/-- `SCH.Qn_LOOP.START` (R86). -/
def schQLoopStart (n : Nat) : Fld := ⟨0x11018 + 0x40 * n, 0, 16, 0, .rw, 0⟩
/-- `SCH.CQn_BASE` (R86). -/
def schCqBase (n : Nat) : Fld := ⟨0x11020 + 0x40 * n, 0, 48, 0, .rw, 12⟩
/-- `SCH.CQn_CFG.EN` (R86). -/
def schCqCfgEn (n : Nat) : Fld := ⟨0x11028 + 0x40 * n, 31, 1, 0, .rw, 0⟩
/-- `SCH.CQn_CFG.INT` (R86). -/
def schCqCfgInt (n : Nat) : Fld := ⟨0x11028 + 0x40 * n, 30, 1, 0, .rw, 0⟩
/-- `SCH.CQn_CFG.VECTOR` (R86). -/
def schCqCfgVector (n : Nat) : Fld := ⟨0x11028 + 0x40 * n, 16, 11, 0, .rw, 0⟩
/-- `SCH.CQn_CFG.LOG2SIZE` (R86). -/
def schCqCfgLog2size (n : Nat) : Fld := ⟨0x11028 + 0x40 * n, 0, 5, 4, .rw, 0⟩
/-- `SCH.CQn_PTR.TAIL` (R86). -/
def schCqPtrTail (n : Nat) : Fld := ⟨0x11030 + 0x40 * n, 32, 16, 0, .ro, 0⟩
/-- `SCH.CQn_PTR.HEAD` (R86). -/
def schCqPtrHead (n : Nat) : Fld := ⟨0x11030 + 0x40 * n, 0, 16, 0, .rw, 0⟩
/-- `MEM.SCRATCH_FREE` (R88). -/
def memScratchFree : Fld := ⟨0x20000, 0, 32, 0, .ro, 0⟩
/-- `MEM.HEAP_FREE` (R88). -/
def memHeapFree : Fld := ⟨0x20008, 0, 48, 0, .ro, 0⟩
/-- `MEM.HEAP_BASE` (R88). -/
def memHeapBase : Fld := ⟨0x20010, 0, 48, 0, .rw, 21⟩
/-- `MEM.HEAP_SIZE` (R88). -/
def memHeapSize : Fld := ⟨0x20018, 0, 48, 0, .rw, 21⟩
/-- `MEM.VALLEY_QUOTA.HBMPAGES` (R88). -/
def memValleyQuotaHbmPages : Fld := ⟨0x20020, 32, 32, 0, .rw, 0⟩
/-- `MEM.VALLEY_QUOTA.CHIPPAGES` (R88). -/
def memValleyQuotaChipPages : Fld := ⟨0x20020, 0, 8, 0x80, .rw, 0⟩
/-- `MEM.VALLEY_USE.HBMPAGES` (R88). -/
def memValleyUseHbmPages : Fld := ⟨0x20028, 32, 32, 0, .ro, 0⟩
/-- `MEM.VALLEY_USE.CHIPPAGES` (R88). -/
def memValleyUseChipPages : Fld := ⟨0x20028, 0, 8, 0, .ro, 0⟩
/-- `MEM.SEESAW_PARAMS` (R88). -/
def memSeesawParams : Fld := ⟨0x20030, 0, 40, 0, .rw, 0⟩
/-- `MEM.FAIL_COUNT` (R88). -/
def memFailCount : Fld := ⟨0x20038, 0, 32, 0, .ro, 0⟩
/-- `ARR.CTRL.RESERVETILES` (R116). -/
def arrCtrlReserveTiles : Fld := ⟨0x30000, 16, 16, 0, .rw, 0⟩
/-- `ARR.CTRL.DBGROWS256` (R116). -/
def arrCtrlDbgRows256 : Fld := ⟨0x30000, 2, 1, 0, .rw, 0⟩
/-- `ARR.CTRL.AUTORANGE` (R116). -/
def arrCtrlAutorange : Fld := ⟨0x30000, 1, 1, 1, .rw, 0⟩
/-- `ARR.STATUS.WRITING` (R116). -/
def arrStatusWriting : Fld := ⟨0x30008, 48, 14, 0, .ro, 0⟩
/-- `ARR.STATUS.FREE` (R116). -/
def arrStatusFree : Fld := ⟨0x30008, 32, 14, 0, .ro, 0⟩
/-- `ARR.STATUS.HEALTHY` (R116). -/
def arrStatusHealthy : Fld := ⟨0x30008, 0, 14, 0, .ro, 0⟩
/-- `ARR.WCFG.VERIFYLIMIT` (R116). -/
def arrWcfgVerifyLimit : Fld := ⟨0x30010, 24, 5, 0x18, .rw, 0⟩
/-- `ARR.WCFG.CELLBUDGET` (R116). -/
def arrWcfgCellBudget : Fld := ⟨0x30010, 0, 18, 0x20000, .rw, 0⟩
/-- `ARR.RANGE_CFG.MINCONVLOG2` (R116). -/
def arrRangeCfgMinConvLog2 : Fld := ⟨0x30018, 32, 8, 0x10, .rw, 0⟩
/-- `ARR.RANGE_CFG.HEADLOG2` (R116). -/
def arrRangeCfgHeadLog2 : Fld := ⟨0x30018, 16, 8, 0xc, .rw, 0⟩
/-- `ARR.RANGE_CFG.CLIPLOG2` (R116). -/
def arrRangeCfgClipLog2 : Fld := ⟨0x30018, 0, 8, 0xa, .rw, 0⟩
/-- `ARR.WEAR_CFG.RETIRE` (R116). -/
def arrWearCfgRetire : Fld := ⟨0x30020, 24, 24, 0x989680, .rw, 0⟩
/-- `ARR.WEAR_CFG.WARN` (R116). -/
def arrWearCfgWarn : Fld := ⟨0x30020, 0, 24, 0xf4240, .rw, 0⟩
/-- `ARR.TSEL.COL` (R116). -/
def arrTselCol : Fld := ⟨0x30028, 16, 9, 0, .rw, 0⟩
/-- `ARR.TSEL.TILE` (R116). -/
def arrTselTile : Fld := ⟨0x30028, 0, 14, 0, .rw, 0⟩
/-- `ARR.TINFO.WEAR` (R116). -/
def arrTinfoWear : Fld := ⟨0x30030, 40, 24, 0, .ro, 0⟩
/-- `ARR.TINFO.SPAREFOR` (R116). -/
def arrTinfoSpareFor : Fld := ⟨0x30030, 32, 8, 0, .ro, 0⟩
/-- `ARR.TINFO.SPAREVALID` (R116). -/
def arrTinfoSpareValid : Fld := ⟨0x30030, 31, 1, 0, .ro, 0⟩
/-- `ARR.TINFO.SEALED` (R116). -/
def arrTinfoSealed : Fld := ⟨0x30030, 30, 1, 0, .ro, 0⟩
/-- `ARR.TINFO.BUSY` (R116). -/
def arrTinfoBusy : Fld := ⟨0x30030, 29, 1, 0, .ro, 0⟩
/-- `ARR.TINFO.FACTORY` (R116). -/
def arrTinfoFactory : Fld := ⟨0x30030, 28, 1, 0, .ro, 0⟩
/-- `ARR.TINFO.STATE` (R116). -/
def arrTinfoState : Fld := ⟨0x30030, 26, 2, 0, .ro, 0⟩
/-- `ARR.TINFO.LAYER` (R116). -/
def arrTinfoLayer : Fld := ⟨0x30030, 12, 12, 0, .ro, 0⟩
/-- `ARR.TINFO.REASON` (R116). -/
def arrTinfoReason : Fld := ⟨0x30030, 0, 4, 0, .ro, 0⟩
/-- `ARR.TCOL.SCALE` (R116). -/
def arrTcolScale : Fld := ⟨0x30038, 48, 16, 0, .ro, 0⟩
/-- `ARR.TCOL.FAILED` (R116). -/
def arrTcolFailed : Fld := ⟨0x30038, 32, 1, 0, .ro, 0⟩
/-- `ARR.TCOL.CLIP` (R116). -/
def arrTcolClip : Fld := ⟨0x30038, 0, 32, 0, .ro, 0⟩
/-- `ARR.LSEL.LAYER` (R116). -/
def arrLselLayer : Fld := ⟨0x30040, 0, 12, 0, .rw, 0⟩
/-- `ARR.LINFO.PLACED` (R116). -/
def arrLinfoPlaced : Fld := ⟨0x30048, 63, 1, 0, .ro, 0⟩
/-- `ARR.LINFO.WT` (R116). -/
def arrLinfoWt : Fld := ⟨0x30048, 62, 1, 0, .ro, 0⟩
/-- `ARR.LINFO.RANGE` (R116). -/
def arrLinfoRange : Fld := ⟨0x30048, 60, 2, 0, .rw, 0⟩
/-- `ARR.LINFO.AUTO` (R116). -/
def arrLinfoAuto : Fld := ⟨0x30048, 59, 1, 0, .rw, 0⟩
/-- `ARR.LINFO.FALLBACK` (R116). -/
def arrLinfoFallback : Fld := ⟨0x30048, 58, 1, 0, .ro, 0⟩
/-- `ARR.LINFO.ROWTILES` (R116). -/
def arrLinfoRowTiles : Fld := ⟨0x30048, 16, 14, 0, .ro, 0⟩
/-- `ARR.LINFO.COLTILES` (R116). -/
def arrLinfoColTiles : Fld := ⟨0x30048, 0, 14, 0, .ro, 0⟩
/-- `ARR.LSTAT.CONV` (R116). -/
def arrLstatConv : Fld := ⟨0x30050, 32, 32, 0, .ro, 0⟩
/-- `ARR.LSTAT.CLIPS` (R116). -/
def arrLstatClips : Fld := ⟨0x30050, 0, 32, 0, .ro, 0⟩
/-- `ARR.CAL_CFG.DT` (R142). -/
def arrCalCfgDt : Fld := ⟨0x30058, 32, 8, 0x10, .rw, 0⟩
/-- `ARR.CAL_CFG.INTERVAL` (R142). -/
def arrCalCfgInterval : Fld := ⟨0x30058, 16, 8, 0x64, .rw, 0⟩
/-- `ARR.CAL_CFG.CONVLOG2` (R142). -/
def arrCalCfgConvLog2 : Fld := ⟨0x30058, 0, 5, 0x14, .rw, 0⟩
/-- `ARR.CS_CFG.GROSS` (R142). -/
def arrCsCfgGross : Fld := ⟨0x30060, 32, 16, 0x1800, .rw, 0⟩
/-- `ARR.CS_CFG.MINLOG2` (R142). -/
def arrCsCfgMinLog2 : Fld := ⟨0x30060, 16, 8, 0xa, .rw, 0⟩
/-- `ARR.CS_CFG.DRIFT` (R142). -/
def arrCsCfgDrift : Fld := ⟨0x30060, 0, 16, 0x60, .rw, 0⟩
/-- `ARR.OUT_CFG.MAXSHARE` (R142). The write drops the low six bits, so that a read shows the multiple of 64 that is used: the
table says how a value is rounded, not whether a read shows it rounded or as written. DESIGN CHOICE. -/
def arrOutCfgMaxShare : Fld := ⟨0x30068, 16, 11, 0x400, .rw, 6⟩
/-- `ARR.OUT_CFG.BASESHARE` (R142), read back rounded as MAXSHARE is. DESIGN CHOICE. -/
def arrOutCfgBaseShare : Fld := ⟨0x30068, 0, 9, 0x40, .rw, 6⟩
/-- `ARR.OUT_STATUS.FREE` (R142). -/
def arrOutStatusFree : Fld := ⟨0x30070, 32, 23, 0x400000, .ro, 0⟩
/-- `ARR.OUT_STATUS.CLAMPS` (R142). -/
def arrOutStatusClamps : Fld := ⟨0x30070, 0, 32, 0, .ro, 0⟩
/-- `ARR.MON_CFG.THRESH` (R142). -/
def arrMonCfgThresh : Fld := ⟨0x30078, 48, 16, 0x400, .rw, 0⟩
/-- `ARR.MON_CFG.WARMUP` (R142). -/
def arrMonCfgWarmup : Fld := ⟨0x30078, 32, 8, 0x10, .rw, 0⟩
/-- `ARR.MON_CFG.HISTLOG2` (R142). -/
def arrMonCfgHistLog2 : Fld := ⟨0x30078, 24, 5, 5, .rw, 0⟩
/-- `ARR.MON_CFG.GRADACTION` (R142). -/
def arrMonCfgGradAction : Fld := ⟨0x30078, 8, 2, 0, .rw, 0⟩
/-- `ARR.MON_CFG.GRADEN` (R142). -/
def arrMonCfgGradEn : Fld := ⟨0x30078, 1, 1, 1, .rw, 0⟩
/-- `ARR.MON_CFG.FWDEN` (R142). -/
def arrMonCfgFwdEn : Fld := ⟨0x30078, 0, 1, 1, .rw, 0⟩
/-- `ARR.TCAL.FLAGS` (R142). -/
def arrTcalFlags : Fld := ⟨0x30080, 56, 8, 0, .ro, 0⟩
/-- `ARR.TCAL.SUSPECT` (R142). -/
def arrTcalSuspect : Fld := ⟨0x30080, 55, 1, 0, .ro, 0⟩
/-- `ARR.TCAL.SINGULARRUN` (R142). -/
def arrTcalSingularRun : Fld := ⟨0x30080, 50, 3, 0, .ro, 0⟩
/-- `ARR.TCAL.TEMP` (R142). -/
def arrTcalTemp : Fld := ⟨0x30080, 32, 16, 0, .ro, 0⟩
/-- `ARR.TCAL.COUNT` (R142). -/
def arrTcalCount : Fld := ⟨0x30080, 0, 32, 0, .ro, 0⟩
/-- `ARR.TFIT.GAIN` (R142). -/
def arrTfitGain : Fld := ⟨0x30088, 48, 16, 0x4000, .ro, 0⟩
/-- `ARR.TFIT.OFFSET` (R142). -/
def arrTfitOffset : Fld := ⟨0x30088, 32, 16, 0, .ro, 0⟩
/-- `ARR.TFIT.ALPHA` (R142). -/
def arrTfitAlpha : Fld := ⟨0x30088, 16, 16, 0, .ro, 0⟩
/-- `ARR.TFIT.BETA` (R142). -/
def arrTfitBeta : Fld := ⟨0x30088, 0, 16, 0, .ro, 0⟩
/-- `ARR.LMON.HIST` (R142). -/
def arrLmonHist : Fld := ⟨0x30090, 32, 32, 0, .ro, 0⟩
/-- `ARR.LMON.STEPS` (R142). -/
def arrLmonSteps : Fld := ⟨0x30090, 16, 16, 0, .ro, 0⟩
/-- `ARR.LMON.JUMP` (R142). -/
def arrLmonJump : Fld := ⟨0x30090, 3, 1, 0, .w1c, 0⟩
/-- `ARR.LMON.FWDACTION` (R142). -/
def arrLmonFwdAction : Fld := ⟨0x30090, 0, 2, 1, .rw, 0⟩
/-- `ARR.LOUT.CLAMPS` (R142). -/
def arrLoutClamps : Fld := ⟨0x30098, 32, 32, 0, .ro, 0⟩
/-- `ARR.LOUT.SLOTS` (R142). -/
def arrLoutSlots : Fld := ⟨0x30098, 0, 23, 0, .ro, 0⟩
/-- `GRD.STATUS.DXSPREAD` (R166). -/
def grdStatusDxSpread : Fld := ⟨0x40000, 49, 1, 0, .ro, 0⟩
/-- `GRD.STATUS.DWSPREAD` (R166). -/
def grdStatusDwSpread : Fld := ⟨0x40000, 48, 1, 0, .ro, 0⟩
/-- `GRD.STATUS.AWAKE` (R166). -/
def grdStatusAwake : Fld := ⟨0x40000, 32, 9, 0, .ro, 0⟩
/-- `GRD.STATUS.DWHALFBUSY` (R166). -/
def grdStatusDwHalfBusy : Fld := ⟨0x40000, 8, 8, 0, .ro, 0⟩
/-- `GRD.STATUS.DXHALFBUSY` (R166). -/
def grdStatusDxHalfBusy : Fld := ⟨0x40000, 0, 8, 0, .ro, 0⟩
/-- `GRD.DEFER.PEAK` (R166). -/
def grdDeferPeak : Fld := ⟨0x40008, 32, 32, 0, .ro, 0⟩
/-- `GRD.DEFER.HELD` (R166). -/
def grdDeferHeld : Fld := ⟨0x40008, 0, 32, 0, .ro, 0⟩
/-- `GRD.ITEMS` (R166). -/
def grdItems : Fld := ⟨0x40010, 0, 64, 0, .ro, 0⟩
/-- `GRD.QMASK0` (R166). -/
def grdQmask0 : Fld := ⟨0x40018, 0, 64, 0, .ro, 0⟩
/-- `GRD.QMASK1` (R166). -/
def grdQmask1 : Fld := ⟨0x40020, 0, 64, 0, .ro, 0⟩
/-- `GRD.QMASK2` (R166). -/
def grdQmask2 : Fld := ⟨0x40028, 0, 64, 0, .ro, 0⟩
/-- `GRD.QMASK3` (R166). -/
def grdQmask3 : Fld := ⟨0x40030, 0, 64, 0, .ro, 0⟩
/-- `ROW.STATUS.SIDEUSED` (R167). -/
def rowStatusSideUsed : Fld := ⟨0x50000, 32, 19, 0, .ro, 0⟩
/-- `ROW.STATUS.BUSY` (R167). -/
def rowStatusBusy : Fld := ⟨0x50000, 0, 6, 0, .ro, 0⟩
/-- `ROW.SIDE.SPILLED` (R167). -/
def rowSideSpilled : Fld := ⟨0x50008, 32, 32, 0, .ro, 0⟩
/-- `ROW.SIDE.FRAMES` (R167). -/
def rowSideFrames : Fld := ⟨0x50008, 0, 17, 0, .ro, 0⟩
/-- `ROW.ROWS_MASKED` (R167). -/
def rowRowsMasked : Fld := ⟨0x50010, 0, 32, 0, .ro, 0⟩
/-- `ROW.ROWS_INF` (R167). -/
def rowRowsInf : Fld := ⟨0x50018, 0, 32, 0, .ro, 0⟩
/-- `ROW.ROWS_NAN` (R167). -/
def rowRowsNan : Fld := ⟨0x50020, 0, 32, 0, .ro, 0⟩
/-- `MEM.VALLEY_CFG.PREFETCH` (R168). -/
def memValleyCfgPrefetch : Fld := ⟨0x20040, 0, 5, 4, .rw, 0⟩
/-- `MEM.VALLEY_STATE.DRAIN` (R168). -/
def memValleyStateDrain : Fld := ⟨0x20048, 63, 1, 0, .ro, 0⟩
/-- `MEM.VALLEY_STATE.FRAMES` (R168). -/
def memValleyStateFrames : Fld := ⟨0x20048, 32, 17, 0, .ro, 0⟩
/-- `MEM.VALLEY_STATE.INPLACE` (R168). -/
def memValleyStateInplace : Fld := ⟨0x20048, 0, 32, 0, .ro, 0⟩
/-- `MEM.VALLEY_PEAK` (R168). -/
def memValleyPeak : Fld := ⟨0x20050, 0, 40, 0, .ro, 0⟩
/-- `VEC.STATUS.CHAIN` (R189). -/
def vecStatusChain : Fld := ⟨0x60000, 16, 1, 0, .ro, 0⟩
/-- `VEC.STATUS.BUSY` (R189). -/
def vecStatusBusy : Fld := ⟨0x60000, 0, 5, 0, .ro, 0⟩
/-- `VEC.FTQ.HOLDS` (R189). -/
def vecFtqHolds : Fld := ⟨0x60008, 32, 32, 0, .ro, 0⟩
/-- `VEC.FTQ.PEAK` (R189). -/
def vecFtqPeak : Fld := ⟨0x60008, 16, 13, 0, .ro, 0⟩
/-- `VEC.FTQ.USED` (R189). -/
def vecFtqUsed : Fld := ⟨0x60008, 0, 13, 0, .ro, 0⟩
/-- `VEC.INDEX_OOB` (R189). -/
def vecIndexOob : Fld := ⟨0x60010, 0, 32, 0, .ro, 0⟩
/-- `VEC.EMPTY_SEGMENTS` (R189). -/
def vecEmptySegments : Fld := ⟨0x60018, 0, 32, 0, .ro, 0⟩
/-- `MOV.STATUS` (R190). -/
def movStatus : Fld := ⟨0x70000, 0, 7, 0, .ro, 0⟩
/-- `MOV.BAD_COUNT` (R190). -/
def movBadCount : Fld := ⟨0x70008, 0, 32, 0, .ro, 0⟩
/-- `MOV.CRC_FAIL` (R190). -/
def movCrcFail : Fld := ⟨0x70010, 0, 32, 0, .ro, 0⟩
/-- `MOV.CHn_HEAD` (R190). -/
def movChHead (n : Nat) : Fld := ⟨0x71000 + 0x20 * n, 0, 48, 0, .ro, 0⟩
/-- `MOV.CHn_STATUS.DONE` (R190). -/
def movChStatusDone (n : Nat) : Fld := ⟨0x71008 + 0x20 * n, 32, 32, 0, .ro, 0⟩
/-- `MOV.CHn_STATUS.ACTIVE` (R190). -/
def movChStatusActive (n : Nat) : Fld := ⟨0x71008 + 0x20 * n, 31, 1, 0, .ro, 0⟩
/-- `MOV.CHn_STATUS.PUPPETEER` (R190). -/
def movChStatusPuppeteer (n : Nat) : Fld := ⟨0x71008 + 0x20 * n, 30, 1, 0, .ro, if 56 ≤ n then 1 else 0⟩
/-- `MOV.CHn_STATUS.CHAINBROKEN` (R190). -/
def movChStatusChainBroken (n : Nat) : Fld := ⟨0x71008 + 0x20 * n, 29, 1, 0, .w1c, 0⟩
/-- `MOV.CHn_STATUS.BAD` (R190). -/
def movChStatusBad (n : Nat) : Fld := ⟨0x71008 + 0x20 * n, 0, 16, 0, .ro, 0⟩
/-- `COL.CTRL.FORCEPROBE` (R217). -/
def colCtrlForceProbe : Fld := ⟨0x80000, 0, 1, 0, .wo, 0⟩
/-- `COL.STATUS.NEXT` (R217). -/
def colStatusNext : Fld := ⟨0x80008, 32, 16, 0, .ro, 0⟩
/-- `COL.STATUS.OWNING` (R217). -/
def colStatusOwning : Fld := ⟨0x80008, 8, 7, 0, .ro, 0⟩
/-- `COL.STATUS.INIF` (R217). -/
def colStatusInIf : Fld := ⟨0x80008, 0, 7, 0, .ro, 0⟩
/-- `COL.UPD_TABLE` (R217). -/
def colUpdTable : Fld := ⟨0x80010, 0, 48, 0, .rw, 16⟩
/-- `COL.BUCKET_LIMIT` (R217). -/
def colBucketLimit : Fld := ⟨0x80018, 0, 17, 1, .rw, 0⟩
/-- `COL.AVG_BASE` (R217). -/
def colAvgBase : Fld := ⟨0x80020, 0, 48, 0, .ro, 0⟩
/-- `COL.HIST_BASE` (R217). -/
def colHistBase : Fld := ⟨0x80028, 0, 48, 0, .ro, 0⟩
/-- `COL.SILENT_CFG.THRESH` (R217). -/
def colSilentCfgThresh : Fld := ⟨0x80030, 0, 16, 0x40, .rw, 0⟩
/-- `COL.COUNTERS.BCSTEP` (R217). -/
def colCountersBcstep : Fld := ⟨0x80038, 32, 32, 0, .ro, 0⟩
/-- `COL.COUNTERS.STEP` (R217). -/
def colCountersStep : Fld := ⟨0x80038, 0, 32, 0, .ro, 0⟩
/-- `COL.RETRIES` (R217). -/
def colRetries : Fld := ⟨0x80040, 0, 32, 0, .ro, 0⟩
/-- `COL.PROBES` (R217). -/
def colProbes : Fld := ⟨0x80048, 0, 32, 0, .ro, 0⟩
/-- `COL.UPD_SAT` (R217). -/
def colUpdSat : Fld := ⟨0x80050, 0, 32, 0, .ro, 0⟩
/-- `COL.PASS_CFG.SETTLE` (R247). -/
def colPassCfgSettle : Fld := ⟨0x80058, 32, 8, 0x40, .rw, 0⟩
/-- `COL.PASS_CFG.REPLAYLIMIT` (R247). -/
def colPassCfgReplayLimit : Fld := ⟨0x80058, 8, 4, 3, .rw, 0⟩
/-- `COL.PASS_CFG.OVPOLICY` (R247). -/
def colPassCfgOvPolicy : Fld := ⟨0x80058, 4, 2, 1, .rw, 0⟩
/-- `COL.PASS_CFG.NFPOLICY` (R247). -/
def colPassCfgNfPolicy : Fld := ⟨0x80058, 0, 2, 1, .rw, 0⟩
/-- `COL.PASS_STATUS.REPLAYS` (R247). -/
def colPassStatusReplays : Fld := ⟨0x80060, 48, 16, 0, .ro, 0⟩
/-- `COL.PASS_STATUS.LASTPOLICY` (R247). -/
def colPassStatusLastPolicy : Fld := ⟨0x80060, 40, 2, 0, .ro, 0⟩
/-- `COL.PASS_STATUS.LASTREASON` (R247). -/
def colPassStatusLastReason : Fld := ⟨0x80060, 32, 8, 0, .ro, 0⟩
/-- `COL.PASS_STATUS.STATE` (R247). -/
def colPassStatusState : Fld := ⟨0x80060, 0, 4, 0, .ro, 0⟩
/-- `COL.DIGEST_CFG.ACTION` (R247). -/
def colDigestCfgAction : Fld := ⟨0x80068, 16, 1, 0, .rw, 0⟩
/-- `COL.DIGEST_CFG.K` (R247). -/
def colDigestCfgK : Fld := ⟨0x80068, 0, 16, 0xc8, .rw, 0⟩
/-- `COL.DIGEST0` (R247). -/
def colDigest0 : Fld := ⟨0x80070, 0, 64, 0, .ro, 0⟩
/-- `COL.DIGEST1` (R247). -/
def colDigest1 : Fld := ⟨0x80078, 0, 64, 0, .ro, 0⟩
/-- `COL.DIGEST2` (R247). -/
def colDigest2 : Fld := ⟨0x80080, 0, 64, 0, .ro, 0⟩
/-- `COL.DIGEST3` (R247). -/
def colDigest3 : Fld := ⟨0x80088, 0, 64, 0, .ro, 0⟩
/-- `COL.DIGEST_STATUS.STEP` (R247). -/
def colDigestStatusStep : Fld := ⟨0x80090, 32, 32, 0, .ro, 0⟩
/-- `COL.DIGEST_STATUS.MISMATCH` (R247). -/
def colDigestStatusMismatch : Fld := ⟨0x80090, 16, 16, 0, .ro, 0⟩
/-- `COL.DIGEST_STATUS.LOWEST` (R247). -/
def colDigestStatusLowest : Fld := ⟨0x80090, 0, 16, 0xffff, .ro, 0⟩
/-- `COL.CKPT_BASE` (R247). -/
def colCkptBase : Fld := ⟨0x80098, 0, 48, 0, .ro, 0⟩
/-- `COL.CKPT_STATUS.GLOBAL` (R247). -/
def colCkptStatusGlobal : Fld := ⟨0x800a0, 32, 32, 0xffffffff, .ro, 0⟩
/-- `COL.CKPT_STATUS.LOCAL` (R247). -/
def colCkptStatusLocal : Fld := ⟨0x800a0, 0, 32, 0xffffffff, .ro, 0⟩
/-- `COL.EPOCH_PTR` (R247). -/
def colEpochPtr : Fld := ⟨0x800a8, 0, 48, 0, .ro, 0⟩
/-- `COL.EPOCH.VALID` (R247). -/
def colEpochValid : Fld := ⟨0x800b0, 33, 1, 0, .ro, 0⟩
/-- `COL.EPOCH.SEL` (R247). -/
def colEpochSel : Fld := ⟨0x800b0, 32, 1, 0, .ro, 0⟩
/-- `COL.EPOCH.STEP` (R247). -/
def colEpochStep : Fld := ⟨0x800b0, 0, 32, 0, .ro, 0⟩
/-- `COL.RECOVERY.PHASE` (R247). -/
def colRecoveryPhase : Fld := ⟨0x800b8, 62, 2, 0, .ro, 0⟩
/-- `COL.RECOVERY.SPARE` (R247). -/
def colRecoverySpare : Fld := ⟨0x800b8, 32, 16, 0xffff, .ro, 0⟩
/-- `COL.RECOVERY.FAILED` (R247). -/
def colRecoveryFailed : Fld := ⟨0x800b8, 16, 16, 0xffff, .ro, 0⟩
/-- `COL.RECOVERY.LEADER` (R247). -/
def colRecoveryLeader : Fld := ⟨0x800b8, 0, 16, 0xffff, .ro, 0⟩
/-- `COL.CHECKS.VETOES` (R247). -/
def colChecksVetoes : Fld := ⟨0x800c0, 48, 16, 0, .ro, 0⟩
/-- `COL.CHECKS.CHECKER` (R247). -/
def colChecksChecker : Fld := ⟨0x800c0, 32, 16, 0, .ro, 0⟩
/-- `COL.CHECKS.UNIT` (R247). -/
def colChecksUnit : Fld := ⟨0x800c0, 16, 16, 0, .ro, 0⟩
/-- `COL.CHECKS.UNSETTLED` (R247). -/
def colChecksUnsettled : Fld := ⟨0x800c0, 0, 16, 0, .ro, 0⟩
/-- `COL.QUARANTINE.QCLEAR` (R247). -/
def colQuarantineQclear : Fld := ⟨0x800c8, 63, 1, 0, .wo, 0⟩
/-- `COL.QUARANTINE.ADDERPORTS` (R247). -/
def colQuarantineAdderPorts : Fld := ⟨0x800c8, 16, 4, 0, .ro, 0⟩
/-- `COL.QUARANTINE.UPDSLICES` (R247). -/
def colQuarantineUpdSlices : Fld := ⟨0x800c8, 8, 3, 0, .ro, 0⟩
/-- `COL.QUARANTINE.ROWS` (R247). -/
def colQuarantineRows : Fld := ⟨0x800c8, 0, 6, 0, .ro, 0⟩
/-- `SCH.LOOP.STEPLIMIT` (R315). -/
def schLoopStepLimit : Fld := ⟨0x10050, 32, 32, 0, .ro, 0⟩
/-- `SCH.LOOP.STATE` (R315). -/
def schLoopState : Fld := ⟨0x10050, 8, 2, 0, .ro, 0⟩
/-- `SCH.LOOP.REASON` (R315). -/
def schLoopReason : Fld := ⟨0x10050, 0, 8, 0, .ro, 0⟩
/-- `SCH.INGEST_BASE` (R315). -/
def schIngestBase : Fld := ⟨0x10058, 0, 48, 0, .rw, 12⟩
/-- `SCH.INGEST_CFG.TIMEOUT` (R315). -/
def schIngestCfgTimeout : Fld := ⟨0x10060, 48, 16, 0x3e8, .rw, 0⟩
/-- `SCH.INGEST_CFG.POLL` (R315). -/
def schIngestCfgPoll : Fld := ⟨0x10060, 32, 16, 0xa, .rw, 0⟩
/-- `SCH.INGEST_CFG.SAFE` (R315). -/
def schIngestCfgSafe : Fld := ⟨0x10060, 8, 1, 1, .rw, 0⟩
/-- `SCH.INGEST_CFG.LOG2` (R315). -/
def schIngestCfgLog2 : Fld := ⟨0x10060, 0, 5, 0xa, .rw, 0⟩
/-- `SCH.INGEST_TAKEN` (R315). -/
def schIngestTaken : Fld := ⟨0x10068, 0, 64, 0, .ro, 0⟩
/-- `SCH.INGEST_KEEP` (R315). -/
def schIngestKeep : Fld := ⟨0x10070, 0, 64, 0, .ro, 0⟩
/-- `SCH.BATCH_BASE` (R315). -/
def schBatchBase : Fld := ⟨0x10078, 0, 48, 0, .rw, 21⟩
/-- `SCH.BATCH_SIZE` (R315). -/
def schBatchSize : Fld := ⟨0x10080, 0, 40, 0, .rw, 21⟩
/-- `SCH.CKPT_CFG.HOSTEN` (R315). -/
def schCkptCfgHostEn : Fld := ⟨0x10088, 48, 1, 0, .rw, 0⟩
/-- `SCH.CKPT_CFG.HOSTEVERY` (R315). -/
def schCkptCfgHostEvery : Fld := ⟨0x10088, 40, 8, 1, .rw, 0⟩
/-- `SCH.CKPT_CFG.INTERVAL` (R315). -/
def schCkptCfgInterval : Fld := ⟨0x10088, 0, 32, 0x3e8, .rw, 0⟩
/-- `SCH.HOST_CKPT` (R315). -/
def schHostCkpt : Fld := ⟨0x10090, 0, 48, 0, .rw, 12⟩
/-- `SCH.HOST_CKPT_SIZE` (R315). -/
def schHostCkptSize : Fld := ⟨0x10098, 0, 48, 0, .rw, 0⟩
/-- `SCH.REC_BASE` (R315). -/
def schRecBase : Fld := ⟨0x100a0, 0, 48, 0, .rw, 12⟩
/-- `SCH.REC_CFG.COUNT` (R315). -/
def schRecCfgCount : Fld := ⟨0x100a8, 32, 32, 0, .ro, 0⟩
/-- `SCH.REC_CFG.LOG2` (R315). -/
def schRecCfgLog2 : Fld := ⟨0x100a8, 0, 5, 8, .rw, 0⟩
/-- `SCH.STRAG_CFG.COUNT` (R315). -/
def schStragCfgCount : Fld := ⟨0x100b0, 16, 8, 0x10, .rw, 0⟩
/-- `SCH.STRAG_CFG.FLOOR` (R315). -/
def schStragCfgFloor : Fld := ⟨0x100b0, 0, 16, 0x20, .rw, 0⟩
/-- `SCH.STRAG_HIST` (R315). -/
def schStragHist : Fld := ⟨0x100b8, 0, 64, 0, .ro, 0⟩
/-- `SCH.SVC_CMD.HOST` (R315). -/
def schSvcCmdHost : Fld := ⟨0x100c0, 63, 1, 0, .rw, 0⟩
/-- `SCH.SVC_CMD` (R315). -/
def schSvcCmd : Fld := ⟨0x100c0, 0, 48, 0, .rw, 6⟩
/-- `SCH.SVC_STATUS.BUSY` (R315). -/
def schSvcStatusBusy : Fld := ⟨0x100c8, 63, 1, 0, .ro, 0⟩
/-- `SCH.SVC_STATUS.ACTIVATE` (R315). -/
def schSvcStatusActivate : Fld := ⟨0x100c8, 34, 1, 0, .ro, 0⟩
/-- `SCH.SVC_STATUS.STAGED` (R315). -/
def schSvcStatusStaged : Fld := ⟨0x100c8, 33, 1, 0, .ro, 0⟩
/-- `SCH.SVC_STATUS.BANK` (R315). -/
def schSvcStatusBank : Fld := ⟨0x100c8, 32, 1, 0, .ro, 0⟩
/-- `SCH.SVC_STATUS.LASTTAG` (R315). -/
def schSvcStatusLastTag : Fld := ⟨0x100c8, 16, 16, 0, .ro, 0⟩
/-- `SCH.SVC_STATUS.LASTSTATUS` (R315). -/
def schSvcStatusLastStatus : Fld := ⟨0x100c8, 0, 16, 0, .ro, 0⟩
/-- `FAB.CTRL.ROUTELOAD` (R334). -/
def fabCtrlRouteLoad : Fld := ⟨0x90000, 8, 1, 0, .wo, 0⟩
/-- `FAB.CTRL.HOPS` (R334). -/
def fabCtrlHops : Fld := ⟨0x90000, 0, 6, 0x10, .rw, 0⟩
/-- `FAB.NODE_ID.FABRIC` (R334). -/
def fabNodeIdFabric : Fld := ⟨0x90008, 16, 16, 0, .rw, 0⟩
/-- `FAB.NODE_ID.NODE` (R334). -/
def fabNodeIdNode : Fld := ⟨0x90008, 0, 16, 0, .rw, 0⟩
/-- `FAB.ROUTE_BASE` (R334). -/
def fabRouteBase : Fld := ⟨0x90010, 0, 48, 0, .rw, 12⟩
/-- `FAB.LINK_CFG.ACKTIMEOUT` (R334). -/
def fabLinkCfgAckTimeout : Fld := ⟨0x90018, 32, 16, 0xfa0, .rw, 0⟩
/-- `FAB.LINK_CFG.RESENDLIMIT` (R334). -/
def fabLinkCfgResendLimit : Fld := ⟨0x90018, 24, 4, 8, .rw, 0⟩
/-- `FAB.LINK_CFG.TC2WEIGHT` (R334). -/
def fabLinkCfgTc2Weight : Fld := ⟨0x90018, 8, 8, 1, .rw, 0⟩
/-- `FAB.LINK_CFG.TC1WEIGHT` (R334). -/
def fabLinkCfgTc1Weight : Fld := ⟨0x90018, 0, 8, 3, .rw, 0⟩
/-- `FAB.VIOL_CFG.LIMIT` (R334). -/
def fabViolCfgLimit : Fld := ⟨0x90020, 32, 16, 0x40, .rw, 0⟩
/-- `FAB.VIOL_CFG.WINDOW` (R334). -/
def fabViolCfgWindow : Fld := ⟨0x90020, 0, 32, 0x2faf08, .rw, 0⟩
/-- `FAB.STATUS.QUARANTINED` (R334). -/
def fabStatusQuarantined : Fld := ⟨0x90028, 16, 12, 0, .ro, 0⟩
/-- `FAB.STATUS.UP` (R334). -/
def fabStatusUp : Fld := ⟨0x90028, 0, 12, 0, .ro, 0⟩
/-- `FAB.Pn_CTRL.UNQUARANTINE` (R334). -/
def fabPCtrlUnquarantine (n : Nat) : Fld := ⟨0x91000 + 0x40 * n, 2, 1, 0, .wo, 0⟩
/-- `FAB.Pn_CTRL.RETRAIN` (R334). -/
def fabPCtrlRetrain (n : Nat) : Fld := ⟨0x91000 + 0x40 * n, 1, 1, 0, .wo, 0⟩
/-- `FAB.Pn_CTRL.EN` (R334). -/
def fabPCtrlEn (n : Nat) : Fld := ⟨0x91000 + 0x40 * n, 0, 1, 1, .rw, 0⟩
/-- `FAB.Pn_STATUS.REPLAY` (R334). -/
def fabPStatusReplay (n : Nat) : Fld := ⟨0x91008 + 0x40 * n, 32, 11, 0, .ro, 0⟩
/-- `FAB.Pn_STATUS.STATE` (R334). -/
def fabPStatusState (n : Nat) : Fld := ⟨0x91008 + 0x40 * n, 12, 4, 0, .ro, 0⟩
/-- `FAB.Pn_STATUS.WIDTH` (R334). -/
def fabPStatusWidth (n : Nat) : Fld := ⟨0x91008 + 0x40 * n, 8, 3, 0, .ro, 0⟩
/-- `FAB.Pn_STATUS.LANES` (R334). -/
def fabPStatusLanes (n : Nat) : Fld := ⟨0x91008 + 0x40 * n, 4, 4, 0, .ro, 0⟩
/-- `FAB.Pn_STATUS.DOWNREASON` (R334). -/
def fabPStatusDownReason (n : Nat) : Fld := ⟨0x91008 + 0x40 * n, 0, 4, 0, .ro, 0⟩
/-- `FAB.Pn_ERR.FECUNCORR` (R334). -/
def fabPErrFecUncorr (n : Nat) : Fld := ⟨0x91010 + 0x40 * n, 48, 16, 0, .ro, 0⟩
/-- `FAB.Pn_ERR.CRCFAIL` (R334). -/
def fabPErrCrcFail (n : Nat) : Fld := ⟨0x91010 + 0x40 * n, 32, 16, 0, .ro, 0⟩
/-- `FAB.Pn_ERR.FECCORR` (R334). -/
def fabPErrFecCorr (n : Nat) : Fld := ⟨0x91010 + 0x40 * n, 0, 32, 0, .ro, 0⟩
/-- `FAB.Pn_VIOL.TOTAL` (R334). -/
def fabPViolTotal (n : Nat) : Fld := ⟨0x91018 + 0x40 * n, 48, 16, 0, .ro, 0⟩
/-- `FAB.Pn_VIOL.WINDOWCOUNT` (R334). -/
def fabPViolWindowCount (n : Nat) : Fld := ⟨0x91018 + 0x40 * n, 32, 16, 0, .ro, 0⟩
/-- `FAB.Pn_VIOL.FAILEDSRC` (R334). -/
def fabPViolFailedSrc (n : Nat) : Fld := ⟨0x91018 + 0x40 * n, 16, 16, 0, .ro, 0⟩
/-- `FAB.Pn_VIOL.LASTKIND` (R334). -/
def fabPViolLastKind (n : Nat) : Fld := ⟨0x91018 + 0x40 * n, 0, 4, 0, .ro, 0⟩
/-- `FAB.Pn_PARTNER.VALID` (R334). -/
def fabPPartnerValid (n : Nat) : Fld := ⟨0x91020 + 0x40 * n, 32, 1, 0, .ro, 0⟩
/-- `FAB.Pn_PARTNER.FABRICID` (R334). -/
def fabPPartnerFabricId (n : Nat) : Fld := ⟨0x91020 + 0x40 * n, 0, 32, 0, .ro, 0⟩
/-- `FAB.Pn_PARTNER_TAG` (R334). -/
def fabPPartnerTag (n : Nat) : Fld := ⟨0x91028 + 0x40 * n, 0, 64, 0, .ro, 0⟩
/-- `CXL.STATUS.IDECM` (R354). -/
def cxlStatusIdeCm : Fld := ⟨0xa0000, 19, 1, 0, .ro, 0⟩
/-- `CXL.STATUS.IDEIO` (R354). -/
def cxlStatusIdeIo : Fld := ⟨0xa0000, 18, 1, 0, .ro, 0⟩
/-- `CXL.STATUS.WINCOMMITTED` (R354). -/
def cxlStatusWinCommitted : Fld := ⟨0xa0000, 17, 1, 0, .ro, 0⟩
/-- `CXL.STATUS.MODE` (R354). -/
def cxlStatusMode : Fld := ⟨0xa0000, 16, 1, 0, .ro, 0⟩
/-- `CXL.STATUS.SPEED` (R354). -/
def cxlStatusSpeed : Fld := ⟨0xa0000, 8, 4, 0, .ro, 0⟩
/-- `CXL.STATUS.WIDTH` (R354). -/
def cxlStatusWidth : Fld := ⟨0xa0000, 0, 5, 0, .ro, 0⟩
/-- `CXL.WIN.BASE` (R354). -/
def cxlWinBase : Fld := ⟨0xa0008, 0, 11, 0, .rw, 0⟩
/-- `CXL.CQ_LOC` (R354). -/
def cxlCqLoc : Fld := ⟨0xa0010, 0, 64, 0, .rw, 0⟩
/-- `CXL.VIOL.TOTAL` (R354). -/
def cxlViolTotal : Fld := ⟨0xa0018, 32, 32, 0, .ro, 0⟩
/-- `CXL.VIOL.LASTKIND` (R354). -/
def cxlViolLastKind : Fld := ⟨0xa0018, 0, 4, 0, .ro, 0⟩
/-- `CXL.HOST_ERR.TIMEOUT` (R354). -/
def cxlHostErrTimeout : Fld := ⟨0xa0020, 48, 16, 0, .ro, 0⟩
/-- `CXL.HOST_ERR.ABORT` (R354). -/
def cxlHostErrAbort : Fld := ⟨0xa0020, 32, 16, 0, .ro, 0⟩
/-- `CXL.HOST_ERR.POISON` (R354). -/
def cxlHostErrPoison : Fld := ⟨0xa0020, 16, 16, 0, .ro, 0⟩
/-- `CXL.HOST_ERR.LOST` (R354). -/
def cxlHostErrLost : Fld := ⟨0xa0020, 0, 16, 0, .ro, 0⟩
/-- `MEM.ECC_HBM.CORR` (R355). -/
def memEccHbmCorr : Fld := ⟨0x20058, 32, 32, 0, .ro, 0⟩
/-- `MEM.ECC_HBM.UNCORR` (R355). -/
def memEccHbmUncorr : Fld := ⟨0x20058, 0, 32, 0, .ro, 0⟩
/-- `MEM.ECC_SRAM.CORR` (R355). -/
def memEccSramCorr : Fld := ⟨0x20060, 32, 32, 0, .ro, 0⟩
/-- `MEM.ECC_SRAM.UNCORR` (R355). -/
def memEccSramUncorr : Fld := ⟨0x20060, 0, 32, 0, .ro, 0⟩
/-- `MEM.ECC_LAST.VALID` (R355). -/
def memEccLastValid : Fld := ⟨0x20068, 63, 1, 0, .w1c, 0⟩
/-- `MEM.ECC_LAST.SPACE` (R355). -/
def memEccLastSpace : Fld := ⟨0x20068, 61, 2, 0, .ro, 0⟩
/-- `MEM.ECC_LAST.ADDR` (R355). -/
def memEccLastAddr : Fld := ⟨0x20068, 0, 48, 0, .ro, 0⟩
/-- `MEM.SCRUB_CFG.HOURS` (R355). -/
def memScrubCfgHours : Fld := ⟨0x20070, 0, 8, 0x18, .rw, 0⟩
/-- `PWR.CTRL.REQ` (R370). -/
def pwrCtrlReq : Fld := ⟨0xb0000, 0, 2, 0, .rw, 0⟩
/-- `PWR.STATUS.HOLD` (R370). -/
def pwrStatusHold : Fld := ⟨0xb0008, 40, 7, 0, .ro, 0⟩
/-- `PWR.STATUS.WAKE` (R370). -/
def pwrStatusWake : Fld := ⟨0xb0008, 32, 3, 0, .ro, 0⟩
/-- `PWR.STATUS.PENDING` (R370). -/
def pwrStatusPending : Fld := ⟨0xb0008, 16, 3, 7, .ro, 0⟩
/-- `PWR.STATUS.MOVING` (R370). -/
def pwrStatusMoving : Fld := ⟨0xb0008, 3, 1, 0, .ro, 0⟩
/-- `PWR.STATUS.STATE` (R370). -/
def pwrStatusState : Fld := ⟨0xb0008, 0, 3, 1, .ro, 0⟩
/-- `PWR.SLEEP_CFG.TILEHOLD` (R370). -/
def pwrSleepCfgTileHold : Fld := ⟨0xb0010, 32, 16, 0xa, .rw, 0⟩
/-- `PWR.SLEEP_CFG.UNITHOLD` (R370). -/
def pwrSleepCfgUnitHold : Fld := ⟨0xb0010, 16, 16, 0x7d0, .rw, 0⟩
/-- `PWR.SLEEP_CFG.SLEEPEN` (R370). -/
def pwrSleepCfgSleepEn : Fld := ⟨0xb0010, 0, 6, 0x3f, .rw, 0⟩
/-- `PWR.INT.EN` (R370). -/
def pwrIntEn : Fld := ⟨0xb0018, 31, 1, 0, .rw, 0⟩
/-- `PWR.INT.VECTOR` (R370). -/
def pwrIntVector : Fld := ⟨0xb0018, 16, 11, 0, .rw, 0⟩
/-- `PWR.AON_COUNT` (R370). -/
def pwrAonCount : Fld := ⟨0xb0020, 0, 64, 0, .ro, 0⟩
/-- `PWR.THERMAL.HOTTEST` (R370). -/
def pwrThermalHottest : Fld := ⟨0xb0028, 48, 16, 0, .ro, 0⟩
/-- `PWR.THERMAL.THROTTLE` (R370). -/
def pwrThermalThrottle : Fld := ⟨0xb0028, 32, 8, 0x6e, .rw, 0⟩
/-- `PWR.THERMAL.LASTTRIP` (R370). -/
def pwrThermalLastTrip : Fld := ⟨0xb0028, 1, 1, 0, .ro, 0⟩
/-- `PWR.THERMAL.THROTTLED` (R370). -/
def pwrThermalThrottled : Fld := ⟨0xb0028, 0, 1, 0, .ro, 0⟩
/-- `PWR.COUNTS.DOZE` (R370). -/
def pwrCountsDoze : Fld := ⟨0xb0030, 32, 32, 0, .ro, 0⟩
/-- `PWR.COUNTS.DEEP` (R370). -/
def pwrCountsDeep : Fld := ⟨0xb0030, 16, 16, 0, .ro, 0⟩
/-- `PWR.COUNTS.THROTTLES` (R370). -/
def pwrCountsThrottles : Fld := ⟨0xb0030, 0, 16, 0, .ro, 0⟩
/-- `SEC.STATUS.SELFTESTFAIL` (R396). -/
def secStatusSelftestFail : Fld := ⟨0xc0000, 31, 1, 0, .ro, 0⟩
/-- `SEC.STATUS.APPROVED` (R396). -/
def secStatusApproved : Fld := ⟨0xc0000, 30, 1, 0, .ro, 0⟩
/-- `SEC.STATUS.TAINT` (R396). -/
def secStatusTaint : Fld := ⟨0xc0000, 29, 1, 0, .ro, 0⟩
/-- `SEC.STATUS.IDEREQ` (R396). -/
def secStatusIdeReq : Fld := ⟨0xc0000, 28, 1, 0, .ro, 0⟩
/-- `SEC.STATUS.PENDINGLC` (R396). -/
def secStatusPendingLc : Fld := ⟨0xc0000, 16, 4, 0xf, .ro, 0⟩
/-- `SEC.STATUS.DEBUG` (R396). -/
def secStatusDebug : Fld := ⟨0xc0000, 8, 2, 0, .ro, 0⟩
/-- `SEC.STATUS.LIFECYCLE` (R396). -/
def secStatusLifecycle : Fld := ⟨0xc0000, 0, 4, 0, .ro, 0⟩
/-- `SEC.CMD.ARG` (R396). -/
def secCmdArg : Fld := ⟨0xc0008, 8, 8, 0, .wo, 0⟩
/-- `SEC.CMD.CMD` (R396). -/
def secCmdCmd : Fld := ⟨0xc0008, 0, 8, 0, .wo, 0⟩
/-- `SEC.CMD_ADDR` (R396). -/
def secCmdAddr : Fld := ⟨0xc0010, 0, 48, 0, .rw, 6⟩
/-- `SEC.CMD_STATUS.BUSY` (R396). -/
def secCmdStatusBusy : Fld := ⟨0xc0018, 63, 1, 0, .ro, 0⟩
/-- `SEC.CMD_STATUS.LASTCMD` (R396). -/
def secCmdStatusLastCmd : Fld := ⟨0xc0018, 8, 8, 0, .ro, 0⟩
/-- `SEC.CMD_STATUS.STATUS` (R396). -/
def secCmdStatusStatus : Fld := ⟨0xc0018, 0, 8, 0, .ro, 0⟩
/-- `SEC.NONCE0` (R396). -/
def secNonce0 : Fld := ⟨0xc0020, 0, 64, 0, .ro, 0⟩
/-- `SEC.NONCE1` (R396). -/
def secNonce1 : Fld := ⟨0xc0028, 0, 64, 0, .ro, 0⟩
/-- `SEC.NONCE2` (R396). -/
def secNonce2 : Fld := ⟨0xc0030, 0, 64, 0, .ro, 0⟩
/-- `SEC.NONCE3` (R396). -/
def secNonce3 : Fld := ⟨0xc0038, 0, 64, 0, .ro, 0⟩
/-- `SEC.ID_TAG` (R396). -/
def secIdTag : Fld := ⟨0xc0040, 0, 64, 0, .ro, 0⟩
/-- `SEC.FW.FUSEGEN` (R396). -/
def secFwFuseGen : Fld := ⟨0xc0048, 40, 8, 0, .ro, 0⟩
/-- `SEC.FW.ROLLBACK` (R396). -/
def secFwRollback : Fld := ⟨0xc0048, 32, 8, 0, .ro, 0⟩
/-- `SEC.FW.SVN` (R396). -/
def secFwSvn : Fld := ⟨0xc0048, 16, 8, 0, .ro, 0⟩
/-- `SEC.SCRUB.RUNNING` (R396). -/
def secScrubRunning : Fld := ⟨0xc0050, 63, 1, 0, .ro, 0⟩
/-- `SEC.SCRUB.FAILED` (R396). -/
def secScrubFailed : Fld := ⟨0xc0050, 32, 14, 0, .ro, 0⟩
/-- `SEC.SCRUB.SCRUBBED` (R396). -/
def secScrubScrubbed : Fld := ⟨0xc0050, 0, 14, 0, .ro, 0⟩
/-- `DEV.ID.PART` (R411). -/
def devIdPart : Fld := ⟨0x0, 16, 16, 0x7502, .ro, 0⟩
/-- `DEV.ID.STEPPING` (R411). -/
def devIdStepping : Fld := ⟨0x0, 0, 8, 0, .ro, 0⟩
/-- `DEV.BOOT.CAUSE` (R411). -/
def devBootCause : Fld := ⟨0x8, 12, 4, 0, .ro, 0⟩
/-- `DEV.BOOT.FAIL` (R411). -/
def devBootFail : Fld := ⟨0x8, 11, 1, 0, .ro, 0⟩
/-- `DEV.BOOT.TRIAL` (R411). -/
def devBootTrial : Fld := ⟨0x8, 10, 1, 0, .ro, 0⟩
/-- `DEV.BOOT.BANK` (R411). -/
def devBootBank : Fld := ⟨0x8, 9, 1, 0, .ro, 0⟩
/-- `DEV.BOOT.READY` (R411). -/
def devBootReady : Fld := ⟨0x8, 8, 1, 0, .ro, 0⟩
/-- `DEV.BOOT.STAGE` (R411). -/
def devBootStage : Fld := ⟨0x8, 0, 4, 0, .ro, 0⟩
/-- `DEV.RESET.KEY` (R411). -/
def devResetKey : Fld := ⟨0x10, 8, 8, 0, .wo, 0⟩
/-- `DEV.RESET.TYPE` (R411). -/
def devResetType : Fld := ⟨0x10, 0, 2, 0, .wo, 0⟩
/-- `DEV.TILE_RESET.GO` (R411). -/
def devTileResetGo : Fld := ⟨0x18, 31, 1, 0, .wo, 0⟩
/-- `DEV.TILE_RESET.TILE` (R411). -/
def devTileResetTile : Fld := ⟨0x18, 0, 14, 0, .wo, 0⟩
/-- `DEV.RESET_COUNT.SERVICE` (R411). -/
def devResetCountService : Fld := ⟨0x20, 48, 16, 0, .rws, 0⟩
/-- `DEV.RESET_COUNT.DEVICE` (R411). -/
def devResetCountDevice : Fld := ⟨0x20, 32, 16, 0, .rws, 0⟩
/-- `DEV.RESET_COUNT.HOT` (R411). -/
def devResetCountHot : Fld := ⟨0x20, 16, 16, 0, .rws, 0⟩
/-- `DEV.RESET_COUNT.PERST` (R411). -/
def devResetCountPerst : Fld := ⟨0x20, 0, 16, 0, .rws, 0⟩
/-- `DEV.SCRATCH` (R411). -/
def devScratch : Fld := ⟨0x28, 0, 64, 0, .rws, 0⟩
/-- `DEV.TILE_RESET_COUNT` (R411). -/
def devTileResetCount : Fld := ⟨0x40, 0, 32, 0, .rws, 0⟩
/-- `OTP.STATUS.ROLLBACK` (R412). -/
def otpStatusRollback : Fld := ⟨0xd0000, 24, 8, 0, .ro, 0⟩
/-- `OTP.STATUS.RETIRED` (R412). -/
def otpStatusRetired : Fld := ⟨0xd0000, 23, 1, 0, .ro, 0⟩
/-- `OTP.STATUS.RETIREBITS` (R412). -/
def otpStatusRetireBits : Fld := ⟨0xd0000, 16, 6, 0, .ro, 0⟩
/-- `OTP.STATUS.CORRUPT` (R412). -/
def otpStatusCorrupt : Fld := ⟨0xd0000, 15, 1, 0, .ro, 0⟩
/-- `OTP.STATUS.PARTIAL` (R412). -/
def otpStatusPartial : Fld := ⟨0xd0000, 8, 4, 0, .ro, 0⟩
/-- `OTP.STATUS.SEALED` (R412). -/
def otpStatusSealed : Fld := ⟨0xd0000, 4, 4, 0, .ro, 0⟩
/-- `OTP.STATUS.EFFECTIVE` (R412). -/
def otpStatusEffective : Fld := ⟨0xd0000, 0, 4, 0, .ro, 0⟩
/-- `OTP.FEATURES` (R412). -/
def otpFeatures : Fld := ⟨0xd0008, 0, 32, 0, .ro, 0⟩
/-- `OTP.READ_ADDR` (R412). -/
def otpReadAddr : Fld := ⟨0xd0010, 3, 11, 0, .rw, 0⟩
/-- `OTP.READ_DATA` (R412). -/
def otpReadData : Fld := ⟨0xd0018, 0, 64, 0, .ro, 0⟩
/-- `EVT.CTRL.MIRROREN` (R429). -/
def evtCtrlMirrorEn : Fld := ⟨0xe0000, 0, 1, 0, .rw, 0⟩
/-- `EVT.STATUS.DROPPED` (R429). -/
def evtStatusDropped : Fld := ⟨0xe0008, 48, 16, 0, .ro, 0⟩
/-- `EVT.STATUS.EXTGAP` (R429). -/
def evtStatusExtGap : Fld := ⟨0xe0008, 32, 16, 0, .ro, 0⟩
/-- `EVT.STATUS.MIRRORLOST` (R429). -/
def evtStatusMirrorLost : Fld := ⟨0xe0008, 16, 16, 0, .ro, 0⟩
/-- `EVT.RSEL.RING` (R429). -/
def evtRselRing : Fld := ⟨0xe0010, 16, 2, 0, .rw, 0⟩
/-- `EVT.RSEL.PAGE` (R429). -/
def evtRselPage : Fld := ⟨0xe0010, 0, 11, 0, .rw, 0⟩
/-- `EVT.HEAD_SEQ` (R429). -/
def evtHeadSeq : Fld := ⟨0xe0018, 0, 64, 0, .ro, 0⟩
/-- `EVT.HEAD_OFF` (R429). -/
def evtHeadOff : Fld := ⟨0xe0020, 0, 32, 0, .ro, 0⟩
/-- `EVT.TAIL_SEQ` (R429). -/
def evtTailSeq : Fld := ⟨0xe0028, 0, 64, 0, .ro, 0⟩
/-- `EVT.TAIL_OFF` (R429). -/
def evtTailOff : Fld := ⟨0xe0030, 0, 32, 0, .ro, 0⟩
/-- `EVT.MIRROR_BASE` (R429). -/
def evtMirrorBase : Fld := ⟨0xe0038, 0, 48, 0, .rw, 12⟩
/-- `EVT.MIRROR_CFG` (R429). -/
def evtMirrorCfg : Fld := ⟨0xe0040, 0, 5, 0x10, .rw, 0⟩
/-- `EVT.INT.HOLDOFF` (R429). -/
def evtIntHoldoff : Fld := ⟨0xe0048, 48, 16, 0x64, .rw, 0⟩
/-- `EVT.INT.MINSEV` (R429). -/
def evtIntMinSev : Fld := ⟨0xe0048, 32, 2, 2, .rw, 0⟩
/-- `EVT.INT.EN` (R429). -/
def evtIntEn : Fld := ⟨0xe0048, 31, 1, 0, .rw, 0⟩
/-- `EVT.INT.VECTOR` (R429). -/
def evtIntVector : Fld := ⟨0xe0048, 16, 11, 0, .rw, 0⟩
/-- `EVT.RATE_SEL` (R429). -/
def evtRateSel : Fld := ⟨0xe0050, 0, 16, 0, .rw, 0⟩
/-- `EVT.RATE.SUPPRESSED` (R429). -/
def evtRateSuppressed : Fld := ⟨0xe0058, 32, 32, 0, .ro, 0⟩
/-- `EVT.RATE.MASK` (R429). -/
def evtRateMask : Fld := ⟨0xe0058, 24, 1, 0, .rws, 0⟩
/-- `EVT.RATE.BURST` (R429). -/
def evtRateBurst : Fld := ⟨0xe0058, 16, 8, 0x10, .rws, 0⟩
/-- `EVT.RATE.RATE` (R429). -/
def evtRateRate : Fld := ⟨0xe0058, 0, 16, 0x40, .rws, 0⟩
/-- `DEV.REPLAY_CTRL.KEY` (R443). -/
def devReplayCtrlKey : Fld := ⟨0x30, 8, 8, 0, .wo, 0⟩
/-- `DEV.REPLAY_CTRL.EXIT` (R443). -/
def devReplayCtrlExit : Fld := ⟨0x30, 1, 1, 0, .wo, 0⟩
/-- `DEV.REPLAY_CTRL.ENTER` (R443). -/
def devReplayCtrlEnter : Fld := ⟨0x30, 0, 1, 0, .wo, 0⟩
/-- `DEV.REPLAY_STATUS.TABLES` (R443). -/
def devReplayStatusTables : Fld := ⟨0x38, 32, 32, 0, .ro, 0⟩
/-- `DEV.REPLAY_STATUS.REFUSE` (R443). -/
def devReplayStatusRefuse : Fld := ⟨0x38, 20, 4, 0, .ro, 0⟩
/-- `DEV.REPLAY_STATUS.LOADREFUSED` (R443). -/
def devReplayStatusLoadRefused : Fld := ⟨0x38, 16, 1, 0, .w1c, 0⟩
/-- `DEV.REPLAY_STATUS.STATE` (R443). -/
def devReplayStatusState : Fld := ⟨0x38, 0, 2, 0, .ro, 0⟩
end F

/-- One row of the register table: first offset, stride, how many, and the fields. -/
structure RegRow where
  off    : Nat
  stride : Nat
  count  : Nat
  flds   : Nat → List Fld

/-- The registers of block DEV. -/
def regRowsDev : List RegRow := [
  ⟨0x0, 8, 1, fun _ => [F.devIdPart, F.devIdStepping]⟩,
  ⟨0x8, 8, 1, fun _ => [F.devBootCause, F.devBootFail, F.devBootTrial, F.devBootBank, F.devBootReady, F.devBootStage]⟩,
  ⟨0x10, 8, 1, fun _ => [F.devResetKey, F.devResetType]⟩,
  ⟨0x18, 8, 1, fun _ => [F.devTileResetGo, F.devTileResetTile]⟩,
  ⟨0x20, 8, 1, fun _ => [F.devResetCountService, F.devResetCountDevice, F.devResetCountHot, F.devResetCountPerst]⟩,
  ⟨0x28, 8, 1, fun _ => [F.devScratch]⟩,
  ⟨0x40, 8, 1, fun _ => [F.devTileResetCount]⟩,
  ⟨0x30, 8, 1, fun _ => [F.devReplayCtrlKey, F.devReplayCtrlExit, F.devReplayCtrlEnter]⟩,
  ⟨0x38, 8, 1, fun _ => [F.devReplayStatusTables, F.devReplayStatusRefuse, F.devReplayStatusLoadRefused, F.devReplayStatusState]⟩]

/-- The registers of block SCH. -/
def regRowsSch : List RegRow := [
  ⟨0x10000, 8, 1, fun _ => [F.schCtrlStepLaunch, F.schCtrlTokenClearAll, F.schCtrlRun]⟩,
  ⟨0x10008, 8, 1, fun _ => [F.schStatusStall, F.schStatusFull, F.schStatusActive]⟩,
  ⟨0x10010, 8, 1, fun _ => [F.schDtBase]⟩,
  ⟨0x10018, 8, 1, fun _ => [F.schDtCount]⟩,
  ⟨0x10020, 8, 1, fun _ => [F.schInflight]⟩,
  ⟨0x10028, 8, 1, fun _ => [F.schClassWeightW3, F.schClassWeightW2, F.schClassWeightW1]⟩,
  ⟨0x10030, 8, 1, fun _ => [F.schDeferQuota]⟩,
  ⟨0x10038, 8, 1, fun _ => [F.schStallTimeout]⟩,
  ⟨0x10040, 8, 1, fun _ => [F.schRankTable]⟩,
  ⟨0x10048, 8, 1, fun _ => [F.schRankVersion, F.schRankValid, F.schRankRank]⟩,
  ⟨0x11000, 0x40, 64, fun n => [F.schQBase n]⟩,
  ⟨0x11008, 0x40, 64, fun n => [F.schQCfgEn n, F.schQCfgStep n, F.schQCfgCq n, F.schQCfgLog2size n, F.schQCfgClass n]⟩,
  ⟨0x11010, 0x40, 64, fun n => [F.schQPtrTail n, F.schQPtrHead n]⟩,
  ⟨0x11018, 0x40, 64, fun n => [F.schQLoopEnd n, F.schQLoopStart n]⟩,
  ⟨0x11020, 0x40, 64, fun n => [F.schCqBase n]⟩,
  ⟨0x11028, 0x40, 64, fun n => [F.schCqCfgEn n, F.schCqCfgInt n, F.schCqCfgVector n, F.schCqCfgLog2size n]⟩,
  ⟨0x11030, 0x40, 64, fun n => [F.schCqPtrTail n, F.schCqPtrHead n]⟩,
  ⟨0x10050, 8, 1, fun _ => [F.schLoopStepLimit, F.schLoopState, F.schLoopReason]⟩,
  ⟨0x10058, 8, 1, fun _ => [F.schIngestBase]⟩,
  ⟨0x10060, 8, 1, fun _ => [F.schIngestCfgTimeout, F.schIngestCfgPoll, F.schIngestCfgSafe, F.schIngestCfgLog2]⟩,
  ⟨0x10068, 8, 1, fun _ => [F.schIngestTaken]⟩,
  ⟨0x10070, 8, 1, fun _ => [F.schIngestKeep]⟩,
  ⟨0x10078, 8, 1, fun _ => [F.schBatchBase]⟩,
  ⟨0x10080, 8, 1, fun _ => [F.schBatchSize]⟩,
  ⟨0x10088, 8, 1, fun _ => [F.schCkptCfgHostEn, F.schCkptCfgHostEvery, F.schCkptCfgInterval]⟩,
  ⟨0x10090, 8, 1, fun _ => [F.schHostCkpt]⟩,
  ⟨0x10098, 8, 1, fun _ => [F.schHostCkptSize]⟩,
  ⟨0x100a0, 8, 1, fun _ => [F.schRecBase]⟩,
  ⟨0x100a8, 8, 1, fun _ => [F.schRecCfgCount, F.schRecCfgLog2]⟩,
  ⟨0x100b0, 8, 1, fun _ => [F.schStragCfgCount, F.schStragCfgFloor]⟩,
  ⟨0x100b8, 8, 1, fun _ => [F.schStragHist]⟩,
  ⟨0x100c0, 8, 1, fun _ => [F.schSvcCmdHost, F.schSvcCmd]⟩,
  ⟨0x100c8, 8, 1, fun _ => [F.schSvcStatusBusy, F.schSvcStatusActivate, F.schSvcStatusStaged, F.schSvcStatusBank, F.schSvcStatusLastTag, F.schSvcStatusLastStatus]⟩]

/-- The registers of block MEM. -/
def regRowsMem : List RegRow := [
  ⟨0x20000, 8, 1, fun _ => [F.memScratchFree]⟩,
  ⟨0x20008, 8, 1, fun _ => [F.memHeapFree]⟩,
  ⟨0x20010, 8, 1, fun _ => [F.memHeapBase]⟩,
  ⟨0x20018, 8, 1, fun _ => [F.memHeapSize]⟩,
  ⟨0x20020, 8, 1, fun _ => [F.memValleyQuotaHbmPages, F.memValleyQuotaChipPages]⟩,
  ⟨0x20028, 8, 1, fun _ => [F.memValleyUseHbmPages, F.memValleyUseChipPages]⟩,
  ⟨0x20030, 8, 1, fun _ => [F.memSeesawParams]⟩,
  ⟨0x20038, 8, 1, fun _ => [F.memFailCount]⟩,
  ⟨0x20040, 8, 1, fun _ => [F.memValleyCfgPrefetch]⟩,
  ⟨0x20048, 8, 1, fun _ => [F.memValleyStateDrain, F.memValleyStateFrames, F.memValleyStateInplace]⟩,
  ⟨0x20050, 8, 1, fun _ => [F.memValleyPeak]⟩,
  ⟨0x20058, 8, 1, fun _ => [F.memEccHbmCorr, F.memEccHbmUncorr]⟩,
  ⟨0x20060, 8, 1, fun _ => [F.memEccSramCorr, F.memEccSramUncorr]⟩,
  ⟨0x20068, 8, 1, fun _ => [F.memEccLastValid, F.memEccLastSpace, F.memEccLastAddr]⟩,
  ⟨0x20070, 8, 1, fun _ => [F.memScrubCfgHours]⟩]

/-- The registers of block ARR. -/
def regRowsArr : List RegRow := [
  ⟨0x30000, 8, 1, fun _ => [F.arrCtrlReserveTiles, F.arrCtrlDbgRows256, F.arrCtrlAutorange]⟩,
  ⟨0x30008, 8, 1, fun _ => [F.arrStatusWriting, F.arrStatusFree, F.arrStatusHealthy]⟩,
  ⟨0x30010, 8, 1, fun _ => [F.arrWcfgVerifyLimit, F.arrWcfgCellBudget]⟩,
  ⟨0x30018, 8, 1, fun _ => [F.arrRangeCfgMinConvLog2, F.arrRangeCfgHeadLog2, F.arrRangeCfgClipLog2]⟩,
  ⟨0x30020, 8, 1, fun _ => [F.arrWearCfgRetire, F.arrWearCfgWarn]⟩,
  ⟨0x30028, 8, 1, fun _ => [F.arrTselCol, F.arrTselTile]⟩,
  ⟨0x30030, 8, 1, fun _ => [F.arrTinfoWear, F.arrTinfoSpareFor, F.arrTinfoSpareValid, F.arrTinfoSealed, F.arrTinfoBusy, F.arrTinfoFactory, F.arrTinfoState, F.arrTinfoLayer, F.arrTinfoReason]⟩,
  ⟨0x30038, 8, 1, fun _ => [F.arrTcolScale, F.arrTcolFailed, F.arrTcolClip]⟩,
  ⟨0x30040, 8, 1, fun _ => [F.arrLselLayer]⟩,
  ⟨0x30048, 8, 1, fun _ => [F.arrLinfoPlaced, F.arrLinfoWt, F.arrLinfoRange, F.arrLinfoAuto, F.arrLinfoFallback, F.arrLinfoRowTiles, F.arrLinfoColTiles]⟩,
  ⟨0x30050, 8, 1, fun _ => [F.arrLstatConv, F.arrLstatClips]⟩,
  ⟨0x30058, 8, 1, fun _ => [F.arrCalCfgDt, F.arrCalCfgInterval, F.arrCalCfgConvLog2]⟩,
  ⟨0x30060, 8, 1, fun _ => [F.arrCsCfgGross, F.arrCsCfgMinLog2, F.arrCsCfgDrift]⟩,
  ⟨0x30068, 8, 1, fun _ => [F.arrOutCfgMaxShare, F.arrOutCfgBaseShare]⟩,
  ⟨0x30070, 8, 1, fun _ => [F.arrOutStatusFree, F.arrOutStatusClamps]⟩,
  ⟨0x30078, 8, 1, fun _ => [F.arrMonCfgThresh, F.arrMonCfgWarmup, F.arrMonCfgHistLog2, F.arrMonCfgGradAction, F.arrMonCfgGradEn, F.arrMonCfgFwdEn]⟩,
  ⟨0x30080, 8, 1, fun _ => [F.arrTcalFlags, F.arrTcalSuspect, F.arrTcalSingularRun, F.arrTcalTemp, F.arrTcalCount]⟩,
  ⟨0x30088, 8, 1, fun _ => [F.arrTfitGain, F.arrTfitOffset, F.arrTfitAlpha, F.arrTfitBeta]⟩,
  ⟨0x30090, 8, 1, fun _ => [F.arrLmonHist, F.arrLmonSteps, F.arrLmonJump, F.arrLmonFwdAction]⟩,
  ⟨0x30098, 8, 1, fun _ => [F.arrLoutClamps, F.arrLoutSlots]⟩]

/-- The registers of block GRD. -/
def regRowsGrd : List RegRow := [
  ⟨0x40000, 8, 1, fun _ => [F.grdStatusDxSpread, F.grdStatusDwSpread, F.grdStatusAwake, F.grdStatusDwHalfBusy, F.grdStatusDxHalfBusy]⟩,
  ⟨0x40008, 8, 1, fun _ => [F.grdDeferPeak, F.grdDeferHeld]⟩,
  ⟨0x40010, 8, 1, fun _ => [F.grdItems]⟩,
  ⟨0x40018, 8, 1, fun _ => [F.grdQmask0]⟩,
  ⟨0x40020, 8, 1, fun _ => [F.grdQmask1]⟩,
  ⟨0x40028, 8, 1, fun _ => [F.grdQmask2]⟩,
  ⟨0x40030, 8, 1, fun _ => [F.grdQmask3]⟩]

/-- The registers of block ROW. -/
def regRowsRow : List RegRow := [
  ⟨0x50000, 8, 1, fun _ => [F.rowStatusSideUsed, F.rowStatusBusy]⟩,
  ⟨0x50008, 8, 1, fun _ => [F.rowSideSpilled, F.rowSideFrames]⟩,
  ⟨0x50010, 8, 1, fun _ => [F.rowRowsMasked]⟩,
  ⟨0x50018, 8, 1, fun _ => [F.rowRowsInf]⟩,
  ⟨0x50020, 8, 1, fun _ => [F.rowRowsNan]⟩]

/-- The registers of block VEC. -/
def regRowsVec : List RegRow := [
  ⟨0x60000, 8, 1, fun _ => [F.vecStatusChain, F.vecStatusBusy]⟩,
  ⟨0x60008, 8, 1, fun _ => [F.vecFtqHolds, F.vecFtqPeak, F.vecFtqUsed]⟩,
  ⟨0x60010, 8, 1, fun _ => [F.vecIndexOob]⟩,
  ⟨0x60018, 8, 1, fun _ => [F.vecEmptySegments]⟩]

/-- The registers of block MOV. -/
def regRowsMov : List RegRow := [
  ⟨0x70000, 8, 1, fun _ => [F.movStatus]⟩,
  ⟨0x70008, 8, 1, fun _ => [F.movBadCount]⟩,
  ⟨0x70010, 8, 1, fun _ => [F.movCrcFail]⟩,
  ⟨0x71000, 0x20, 64, fun n => [F.movChHead n]⟩,
  ⟨0x71008, 0x20, 64, fun n => [F.movChStatusDone n, F.movChStatusActive n, F.movChStatusPuppeteer n, F.movChStatusChainBroken n, F.movChStatusBad n]⟩]

/-- The registers of block COL. -/
def regRowsCol : List RegRow := [
  ⟨0x80000, 8, 1, fun _ => [F.colCtrlForceProbe]⟩,
  ⟨0x80008, 8, 1, fun _ => [F.colStatusNext, F.colStatusOwning, F.colStatusInIf]⟩,
  ⟨0x80010, 8, 1, fun _ => [F.colUpdTable]⟩,
  ⟨0x80018, 8, 1, fun _ => [F.colBucketLimit]⟩,
  ⟨0x80020, 8, 1, fun _ => [F.colAvgBase]⟩,
  ⟨0x80028, 8, 1, fun _ => [F.colHistBase]⟩,
  ⟨0x80030, 8, 1, fun _ => [F.colSilentCfgThresh]⟩,
  ⟨0x80038, 8, 1, fun _ => [F.colCountersBcstep, F.colCountersStep]⟩,
  ⟨0x80040, 8, 1, fun _ => [F.colRetries]⟩,
  ⟨0x80048, 8, 1, fun _ => [F.colProbes]⟩,
  ⟨0x80050, 8, 1, fun _ => [F.colUpdSat]⟩,
  ⟨0x80058, 8, 1, fun _ => [F.colPassCfgSettle, F.colPassCfgReplayLimit, F.colPassCfgOvPolicy, F.colPassCfgNfPolicy]⟩,
  ⟨0x80060, 8, 1, fun _ => [F.colPassStatusReplays, F.colPassStatusLastPolicy, F.colPassStatusLastReason, F.colPassStatusState]⟩,
  ⟨0x80068, 8, 1, fun _ => [F.colDigestCfgAction, F.colDigestCfgK]⟩,
  ⟨0x80070, 8, 1, fun _ => [F.colDigest0]⟩,
  ⟨0x80078, 8, 1, fun _ => [F.colDigest1]⟩,
  ⟨0x80080, 8, 1, fun _ => [F.colDigest2]⟩,
  ⟨0x80088, 8, 1, fun _ => [F.colDigest3]⟩,
  ⟨0x80090, 8, 1, fun _ => [F.colDigestStatusStep, F.colDigestStatusMismatch, F.colDigestStatusLowest]⟩,
  ⟨0x80098, 8, 1, fun _ => [F.colCkptBase]⟩,
  ⟨0x800a0, 8, 1, fun _ => [F.colCkptStatusGlobal, F.colCkptStatusLocal]⟩,
  ⟨0x800a8, 8, 1, fun _ => [F.colEpochPtr]⟩,
  ⟨0x800b0, 8, 1, fun _ => [F.colEpochValid, F.colEpochSel, F.colEpochStep]⟩,
  ⟨0x800b8, 8, 1, fun _ => [F.colRecoveryPhase, F.colRecoverySpare, F.colRecoveryFailed, F.colRecoveryLeader]⟩,
  ⟨0x800c0, 8, 1, fun _ => [F.colChecksVetoes, F.colChecksChecker, F.colChecksUnit, F.colChecksUnsettled]⟩,
  ⟨0x800c8, 8, 1, fun _ => [F.colQuarantineQclear, F.colQuarantineAdderPorts, F.colQuarantineUpdSlices, F.colQuarantineRows]⟩]

/-- The registers of block FAB. -/
def regRowsFab : List RegRow := [
  ⟨0x90000, 8, 1, fun _ => [F.fabCtrlRouteLoad, F.fabCtrlHops]⟩,
  ⟨0x90008, 8, 1, fun _ => [F.fabNodeIdFabric, F.fabNodeIdNode]⟩,
  ⟨0x90010, 8, 1, fun _ => [F.fabRouteBase]⟩,
  ⟨0x90018, 8, 1, fun _ => [F.fabLinkCfgAckTimeout, F.fabLinkCfgResendLimit, F.fabLinkCfgTc2Weight, F.fabLinkCfgTc1Weight]⟩,
  ⟨0x90020, 8, 1, fun _ => [F.fabViolCfgLimit, F.fabViolCfgWindow]⟩,
  ⟨0x90028, 8, 1, fun _ => [F.fabStatusQuarantined, F.fabStatusUp]⟩,
  ⟨0x91000, 0x40, 12, fun n => [F.fabPCtrlUnquarantine n, F.fabPCtrlRetrain n, F.fabPCtrlEn n]⟩,
  ⟨0x91008, 0x40, 12, fun n => [F.fabPStatusReplay n, F.fabPStatusState n, F.fabPStatusWidth n, F.fabPStatusLanes n, F.fabPStatusDownReason n]⟩,
  ⟨0x91010, 0x40, 12, fun n => [F.fabPErrFecUncorr n, F.fabPErrCrcFail n, F.fabPErrFecCorr n]⟩,
  ⟨0x91018, 0x40, 12, fun n => [F.fabPViolTotal n, F.fabPViolWindowCount n, F.fabPViolFailedSrc n, F.fabPViolLastKind n]⟩,
  ⟨0x91020, 0x40, 12, fun n => [F.fabPPartnerValid n, F.fabPPartnerFabricId n]⟩,
  ⟨0x91028, 0x40, 12, fun n => [F.fabPPartnerTag n]⟩]

/-- The registers of block CXL. -/
def regRowsCxl : List RegRow := [
  ⟨0xa0000, 8, 1, fun _ => [F.cxlStatusIdeCm, F.cxlStatusIdeIo, F.cxlStatusWinCommitted, F.cxlStatusMode, F.cxlStatusSpeed, F.cxlStatusWidth]⟩,
  ⟨0xa0008, 8, 1, fun _ => [F.cxlWinBase]⟩,
  ⟨0xa0010, 8, 1, fun _ => [F.cxlCqLoc]⟩,
  ⟨0xa0018, 8, 1, fun _ => [F.cxlViolTotal, F.cxlViolLastKind]⟩,
  ⟨0xa0020, 8, 1, fun _ => [F.cxlHostErrTimeout, F.cxlHostErrAbort, F.cxlHostErrPoison, F.cxlHostErrLost]⟩]

/-- The registers of block PWR. -/
def regRowsPwr : List RegRow := [
  ⟨0xb0000, 8, 1, fun _ => [F.pwrCtrlReq]⟩,
  ⟨0xb0008, 8, 1, fun _ => [F.pwrStatusHold, F.pwrStatusWake, F.pwrStatusPending, F.pwrStatusMoving, F.pwrStatusState]⟩,
  ⟨0xb0010, 8, 1, fun _ => [F.pwrSleepCfgTileHold, F.pwrSleepCfgUnitHold, F.pwrSleepCfgSleepEn]⟩,
  ⟨0xb0018, 8, 1, fun _ => [F.pwrIntEn, F.pwrIntVector]⟩,
  ⟨0xb0020, 8, 1, fun _ => [F.pwrAonCount]⟩,
  ⟨0xb0028, 8, 1, fun _ => [F.pwrThermalHottest, F.pwrThermalThrottle, F.pwrThermalLastTrip, F.pwrThermalThrottled]⟩,
  ⟨0xb0030, 8, 1, fun _ => [F.pwrCountsDoze, F.pwrCountsDeep, F.pwrCountsThrottles]⟩]

/-- The registers of block SEC. -/
def regRowsSec : List RegRow := [
  ⟨0xc0000, 8, 1, fun _ => [F.secStatusSelftestFail, F.secStatusApproved, F.secStatusTaint, F.secStatusIdeReq, F.secStatusPendingLc, F.secStatusDebug, F.secStatusLifecycle]⟩,
  ⟨0xc0008, 8, 1, fun _ => [F.secCmdArg, F.secCmdCmd]⟩,
  ⟨0xc0010, 8, 1, fun _ => [F.secCmdAddr]⟩,
  ⟨0xc0018, 8, 1, fun _ => [F.secCmdStatusBusy, F.secCmdStatusLastCmd, F.secCmdStatusStatus]⟩,
  ⟨0xc0020, 8, 1, fun _ => [F.secNonce0]⟩,
  ⟨0xc0028, 8, 1, fun _ => [F.secNonce1]⟩,
  ⟨0xc0030, 8, 1, fun _ => [F.secNonce2]⟩,
  ⟨0xc0038, 8, 1, fun _ => [F.secNonce3]⟩,
  ⟨0xc0040, 8, 1, fun _ => [F.secIdTag]⟩,
  ⟨0xc0048, 8, 1, fun _ => [F.secFwFuseGen, F.secFwRollback, F.secFwSvn]⟩,
  ⟨0xc0050, 8, 1, fun _ => [F.secScrubRunning, F.secScrubFailed, F.secScrubScrubbed]⟩]

/-- The registers of block OTP. -/
def regRowsOtp : List RegRow := [
  ⟨0xd0000, 8, 1, fun _ => [F.otpStatusRollback, F.otpStatusRetired, F.otpStatusRetireBits, F.otpStatusCorrupt, F.otpStatusPartial, F.otpStatusSealed, F.otpStatusEffective]⟩,
  ⟨0xd0008, 8, 1, fun _ => [F.otpFeatures]⟩,
  ⟨0xd0010, 8, 1, fun _ => [F.otpReadAddr]⟩,
  ⟨0xd0018, 8, 1, fun _ => [F.otpReadData]⟩]

/-- The registers of block EVT. -/
def regRowsEvt : List RegRow := [
  ⟨0xe0000, 8, 1, fun _ => [F.evtCtrlMirrorEn]⟩,
  ⟨0xe0008, 8, 1, fun _ => [F.evtStatusDropped, F.evtStatusExtGap, F.evtStatusMirrorLost]⟩,
  ⟨0xe0010, 8, 1, fun _ => [F.evtRselRing, F.evtRselPage]⟩,
  ⟨0xe0018, 8, 1, fun _ => [F.evtHeadSeq]⟩,
  ⟨0xe0020, 8, 1, fun _ => [F.evtHeadOff]⟩,
  ⟨0xe0028, 8, 1, fun _ => [F.evtTailSeq]⟩,
  ⟨0xe0030, 8, 1, fun _ => [F.evtTailOff]⟩,
  ⟨0xe0038, 8, 1, fun _ => [F.evtMirrorBase]⟩,
  ⟨0xe0040, 8, 1, fun _ => [F.evtMirrorCfg]⟩,
  ⟨0xe0048, 8, 1, fun _ => [F.evtIntHoldoff, F.evtIntMinSev, F.evtIntEn, F.evtIntVector]⟩,
  ⟨0xe0050, 8, 1, fun _ => [F.evtRateSel]⟩,
  ⟨0xe0058, 8, 1, fun _ => [F.evtRateSuppressed, F.evtRateMask, F.evtRateBurst, F.evtRateRate]⟩]

/-- The registers of BAR0. -/
def regRows : List RegRow :=
  regRowsDev ++ regRowsSch ++ regRowsMem ++ regRowsArr ++ regRowsGrd ++ regRowsRow ++ regRowsVec ++ regRowsMov ++ regRowsCol ++ regRowsFab ++ regRowsCxl ++ regRowsPwr ++ regRowsSec ++ regRowsOtp ++ regRowsEvt

/-- The fields of the register at offset `off` of BAR0, if there is one. -/
def fieldsAt (off : Nat) : Option (List Fld) :=
  (regRows.find? (fun r => decide (r.off ≤ off) && decide (off < r.off + r.stride * r.count) &&
    (off - r.off) % r.stride == 0)).map (fun r => r.flds ((off - r.off) / r.stride))

end Sys2Proof.Machine
end

