-- ==== Sys2Proof/Machine/State.lean ====
section
/-! DEFINITION. The state of one TS2-M24: plain data, holding every piece of state the spec gives
the device, beside the queue of waiting commands. INVENTORY.md lists each piece with its rule. -/

namespace Sys2Proof.Machine

/-- Why the machine stops: no rule stops it, so no command raises a fault. -/
inductive Fault where
  deriving DecidableEq, Repr

/-- Why the machine refuses a command. -/
inductive Refusal where
  /-- Raised by Dispatch for a command without a meaning. Safe. -/
  | notModelled (mnemonic : String)
  deriving DecidableEq, Repr

/-- A token that is not CLEAR (R73). -/
inductive Tok where
  | set | poisoned
  deriving DecidableEq, Repr

/-- A tensor descriptor (R68). `resv`: a reserved bit is set. -/
structure Desc where
  format    : Nat := 0
  loc       : Nat := 0
  ndim      : Nat := 0
  block     : Nat := 0
  scale     : Nat := 0
  valid     : Bool := false
  autoalloc : Bool := false
  spill     : Bool := false
  bound     : Bool := false
  spilled   : Bool := false
  freed     : Bool := false
  fixedE    : Nat := 0
  base      : Nat := 0
  stride    : List Nat := [0, 0, 0, 0, 0]
  ext       : List Nat := [0, 0, 0, 0, 0]
  expOff    : Int := 0
  expStride : List Nat := [0, 0, 0, 0]
  deriving DecidableEq, Repr

/-- An instruction record (R248). -/
structure Rec where
  opcode : Nat := 0
  iclass : Nat := 0
  flags  : Nat := 0
  imm0   : Nat := 0
  wait   : Nat := 0
  signal : Nat := 0
  h0     : Nat := 0xffff
  h1     : Nat := 0xffff
  h2     : Nat := 0xffff
  h3     : Nat := 0xffff
  imm1   : Nat := 0
  imm2   : Nat := 0
  deriving DecidableEq, Repr

/-- A piece of storage that R75 compares: bytes of a space (0 scratchpad, 1 HBM, 2 host), a valley
frame, a layer, or parameter offsets of the seesaw. Ranges run from `lo` to below `hi`. -/
inductive Stor where
  | bytes (space lo hi : Nat)
  | frame (n : Nat)
  | layer (h : Nat)
  | params (lo hi : Nat)
  deriving DecidableEq, Repr

/-- Where an admitted instruction stands: waiting to start, running (its items or its pass are
out), or executed and about to complete. -/
inductive Phase where
  | waiting | running | done
  deriving DecidableEq, Repr

/-- A list of values encoded for a descriptor: the raw elements, or for a block format the blocks
with their first flat element, exponent and mantissas; and the counts of R54. -/
structure Encoded where
  elems  : List Nat := []
  blocks : List (Nat × (Nat × List Nat)) := []
  sat    : Nat := 0
  nf     : Nat := 0
  deriving DecidableEq, Repr

/-- An instruction in flight (R77). -/
structure Inst where
  id       : Nat := 0
  queue    : Nat := 0
  index    : Nat := 0
  cls      : Nat := 0
  cq       : Nat := 0
  /-- The step number of a step-body instruction (R253). -/
  step     : Option Nat := none
  code     : Rec := {}
  /-- Bound descriptors by slot: 0 to 3 are H0 to H3, 4 and above the handles in immediates (R281). -/
  slots    : List (Nat × (Nat × Desc)) := []
  phase    : Phase := .waiting
  status   : Nat := 0
  sat      : Nat := 0
  nf       : Nat := 0
  result   : Nat := 0
  /-- A bind placed an operand in HBM (R81). -/
  spilled  : Bool := false
  /-- The ids of the closed chain the record belongs to (R174); a record in none has its own id. -/
  chain    : List Nat := []
  /-- The chain has not closed yet. -/
  open_    : Bool := false
  /-- The producer a finished-tile consumer is bound to, its OPCODE and ICLASS, and the finished tiles that the consumer
  has processed (R177). -/
  producer : Option Nat := none
  prodOp   : Nat := 0
  took     : List Nat := []
  /-- That producer had failed before the consumer was admitted (R178). -/
  depBad   : Bool := false
  /-- The tick of its admission. -/
  since    : Nat := 0
  /-- Grid items still out (R144), and all of them. -/
  items    : Nat := 0
  work     : Nat := 0
  /-- Items ran on the other half (R300). -/
  otherHalf : Bool := false
  /-- What the instruction writes when its last item ends. -/
  pend     : List (Desc × Encoded) := []
  /-- Items not settled yet by output tile, and the disagreements among them: grid and output tile (R144, R231). -/
  left     : List Nat := []
  doubt    : List (Nat × Nat) := []
  /-- How many finished tiles there will be, those there are in the order of their posts, and the posts made (R176). -/
  tiles    : Nat := 0
  made     : List Nat := []
  posted   : Nat := 0
  /-- The next post is held because the queue was full (R178). -/
  held     : Bool := false
  /-- A deferred GRD.DW (R147), and one that R79 raised. -/
  deferred : Bool := false
  raised   : Bool := false
  /-- Frames consumed when the instruction completes (R282). -/
  consume  : List Nat := []
  /-- The frame that the instruction took as it was admitted, and the status it ends with where it could take none (R152). -/
  creates  : Option Nat := none
  claim    : Nat := 0
  /-- Tiles whose seal (ARR.PROGRAM) or calibration (ARR.CALIB) the instruction waits for. -/
  wants    : List Nat := []
  /-- Released to the network interface (R23). -/
  released : Bool := false
  /-- The instruction was executed again after a failed part (R171). -/
  again    : Nat := 0
  /-- For a CTL.FENCE: the first admission number it covers, and whether a covered record ended
  without success (R263). -/
  covers   : Nat × Bool := (0, false)
  deriving DecidableEq, Repr

/-- What the scheduler keeps for one submission queue beside its registers. -/
structure QSt where
  /-- The admission number from which the next CTL.FENCE covers (R263). -/
  fenceFrom : Nat := 0
  /-- A covered record completed with a status that is no success. -/
  fenceBad  : Bool := false
  /-- Members of the chain being built (R174). -/
  chain     : List Nat := []
  /-- Storage named by failed instructions (R75). -/
  failed    : List (Bool × Stor) := []
  /-- By destination handle, the latest admitted instruction that names it: its id, its ICLASS and
  OPCODE, and its status once it has completed (R177). -/
  recent    : List (Nat × (Nat × Nat × Option Nat)) := []
  deriving DecidableEq, Repr

/-- Allocated storage: the handle that holds it, its first byte and its size (R81). -/
structure Alloc where
  handle : Nat
  base   : Nat
  size   : Nat
  deriving DecidableEq, Repr

/-- The scheduler and the control engine. -/
structure Sch where
  tokens       : List (Nat × Tok) := []
  inflight     : List Inst := []
  nextId       : Nat := 0
  queues       : List (Nat × QSt) := []
  /-- Completion records held per completion queue, oldest first (R65). -/
  cqHeld       : List (Nat × List (List Byte)) := []
  /-- Completion queues for which a record waits beyond the 256 that are held: EV_SCH_CQ_FULL has been raised, and no
  queue bound to them admits (R65). -/
  cqFull       : List Nat := []
  /-- Completion queues in a pass of PHASE 0 (R254). -/
  cqWrap       : List Nat := []
  /-- The tick at which an instruction last started or completed, and whether a stall has been declared since (R80). -/
  lastProgress : Nat := 0
  stallSeen    : Bool := false
  /-- Admissions left to classes 1, 2 and 3 in the round of R64, and the queue last served. -/
  credit       : List Nat := [4, 2, 1]
  lastServed   : List Nat := [63, 63, 63, 63]
  scratchAllocs : List Alloc := []
  heapAllocs   : List Alloc := []
  /-- Bytes at the top of the heap that the load reserved (R59, R82). -/
  reserved     : Nat := 0
  deferInEffect : Nat := 0x2000000
  /-- Deferral has exceeded its quota and has not fallen below it again (R79); handle, space and ranges of the dY of the
  GRD.DX that have completed (R147). -/
  raising      : Bool := false
  dxDone       : List (Nat × List (Nat × Nat)) := []
  deriving DecidableEq, Repr

/-- The state of a valley frame number; ABSENT is not listed (R152). -/
inductive FrameState where
  | pending | present | consumed | poisoned
  deriving DecidableEq, Repr

/-- A valley frame (R151); a stat frame also holds the header fields of R163. -/
structure Frame where
  state  : FrameState := .pending
  /-- The instruction that pushes it. -/
  owner  : Nat := 0
  format : Nat := 0
  block  : Nat := 0
  ndim   : Nat := 0
  ext    : List Nat := []
  data   : List Byte := []
  bytes  : Nat := 0
  /-- First byte in the run of pages; unused while the frame lies in the side memory. -/
  start  : Nat := 0
  seq    : Nat := 0
  /-- KIND, FLAGS, ROWS and ROW_LEN of a stat frame. -/
  stat   : Option (Nat × Nat × Nat × Nat) := none
  side   : Bool := false
  /-- Its step has committed; it goes when the last instruction that names it completes (R27). -/
  old    : Bool := false
  deriving DecidableEq, Repr

/-- Where a valley page is (R154 to R156). -/
inductive PageAt where
  | chip (base : Nat) | hbm | toChip (base : Nat)
  deriving DecidableEq, Repr

/-- The valley and the side memory. -/
structure Valley where
  frames     : List (Nat × Frame) := []
  pages      : List (Nat × PageAt) := []
  fill       : Nat := 0
  nextSeq    : Nat := 0
  drain      : Bool := false
  orderSeen  : Bool := false
  lastPopped : Option Nat := none
  peak       : Nat := 0
  spillSeen  : Bool := false
  chipQuota  : Nat := 128
  hbmQuota   : Nat := 0
  prefetch   : Nat := 4
  /-- Pages brought back in drain, by number. -/
  back       : List Nat := []
  deriving DecidableEq, Repr

/-- An item that a grid runs (R144): its instruction, its number among the instruction's items, whether that is a GRD.DW, whether it was dX-class work as the item
started (R143), and whether the result is still wanted (R150, R234). -/
structure GridRun where
  grid : Nat
  inst : Nat
  item : Nat := 0
  dw   : Bool := false
  dx   : Bool := false
  live : Bool := true
  deriving DecidableEq, Repr

/-- The checked units: posts, disagreements, quarantine and sleep. -/
structure Units where
  /-- The grids that run an item. -/
  running  : List GridRun := []
  /-- Posts in the finished-tile queue, oldest first: the producer's id and the tile (R178). -/
  ftq      : List (Nat × Nat) := []
  /-- Disagreements and failed parts not settled yet: kind, unit and instruction. -/
  unsettled : List (UnitKind × Nat × Nat) := []
  /-- Quarantined units, by kind and number (R233). -/
  quarantined : List (UnitKind × Nat) := []
  /-- Units awake (R358), by kind and number; tiles that sleep, with the tick at which they fell asleep. -/
  awake    : List (SleepKind × Nat) := []
  slept    : List (Nat × Nat) := []
  /-- For an awake unit the tick at which it woke, or a grid ended its last item: its idle time counts from there. -/
  woke     : List (Nat × Nat) := []
  deriving DecidableEq, Repr

/-- An event on its way to the recorder (R414); `summary` and `payload` as there. -/
structure Event where
  code    : Nat := 0
  unit    : Nat := 0xffff
  time    : Nat := 0
  step    : Nat := 0
  instep  : Bool := false
  summary : Bool := false
  queue   : Nat := 0xff
  index   : Nat := 0
  opc     : Nat := 0
  arg0    : Nat := 0
  arg1    : Nat := 0
  payload : List Byte := []
  /-- The cluster temperature of a tile when it happened, in 0.25 °C (R416). -/
  temp    : Int := 100
  /-- The severity a BG-1 event carries (R440). -/
  legacySev : Nat := 0
  deriving DecidableEq, Repr

/-- What the recorder keeps for one event code (R421, R423). `level` counts 1/3,125,000 tokens. -/
structure Rate where
  mask       : Bool := false
  burst      : Nat := 16
  rate       : Nat := 64
  suppressed : Nat := 0
  level      : Nat := 50000000
  at_        : Nat := 0
  winCount   : Nat := 0
  winFirst   : Nat := 0
  winLast    : Nat := 0
  deriving DecidableEq, Repr

/-- A record in a ring: its sequence number (none for a pad), offset and bytes. -/
structure RingRec where
  seq   : Option Nat
  off   : Nat
  bytes : List Byte
  deriving DecidableEq, Repr

/-- A ring of whole records, oldest first, the offset of the next and its sequence number (R413, R418). -/
structure Ring where
  recs : List RingRec := []
  head : Nat := 0
  next : Nat := 0
  deriving DecidableEq, Repr

/-- The event recorder (spec/18). -/
structure Evt where
  front     : List Event := []
  dropped   : Nat := 0
  nextSeq   : Nat := 0
  ring      : Ring := {}
  ext       : Ring := {}
  mirror    : Ring := {}
  rates     : List (Nat × Rate) := []
  window    : Nat := 0
  lastMsg   : Option Nat := none
  owed      : Bool := false
  deriving DecidableEq, Repr

/-- A norm: none, non-finite, or an F32 pattern. -/
inductive Norm where
  | none | nonFinite | f32 (p : Nat)
  deriving DecidableEq, Repr

/-- An answer of the DOE mailbox, of SPDM, MCTP or PLDM, by what this manual gives it (R336, R350, R381,
R452 to R454). -/
inductive Reply where
  /-- The DOE error response; the SPDM error Unsupported. -/
  | doeError | unsupported
  /-- DOE discovery: index, vendor, object type and the next index. -/
  | discovery (index vendor type next : Nat)
  /-- CDAT: bytes of the window, its read latency in ns and its bandwidth in GB/s. -/
  | cdat (size latency bandwidth : Nat)
  /-- A certificate chain. -/
  | chain (b : List Byte)
  /-- A challenge answered for a slot and a nonce, with a signature. -/
  | challenge (slot : Nat) (nonce sig : List Byte)
  /-- The measurement blocks, signed. -/
  | measurements (m : List (List Byte)) (nonce sig : List Byte)
  /-- The ML-DSA-65 chain and the attestation report. -/
  | report (mlChain report : List Byte)
  /-- A secure session. -/
  | session (open_ : Bool)
  /-- MCTP control: command, completion code and data. -/
  | mctp (command code : Nat) (data : List Int)
  /-- PLDM: type, command, completion code and data. -/
  | pldm (type command code : Nat) (data : List Int)
  deriving DecidableEq, Repr

/-- What the device has sent, oldest first. -/
structure Out where
  /-- The 276 bytes of each link block, with the port it left on (R318). -/
  link : List (Nat × List Byte) := []
  /-- MSI-X vectors. -/
  msix : List Nat := []
  /-- Answers over DOE and SPDM. -/
  doe  : List Reply := []
  /-- Answers over MCTP and PLDM. -/
  mctp : List Reply := []
  /-- Data returned by window reads and the debug port; the flag is poison. -/
  data : List (List Byte × Bool) := []
  deriving DecidableEq, Repr

/-- A digest comparison in progress (R236). -/
structure DigestRun where
  step : Nat
  own  : Option (List Nat) := none
  root : Option (List Nat) := none
  /-- DIGEST_UP of the children: rank, COUNT and SUBJECT. -/
  ups  : List (Nat × Nat × Nat) := []
  deriving DecidableEq, Repr

/-- A checkpoint taken and not confirmed yet (R238, R309): the step, its local area, the instructions
and the command that wait for it, whether the comparison of its step was clean, and the address of a host copy that
is still to be written. -/
structure CkptJob where
  step  : Nat
  area  : Nat
  host  : Option Nat := none
  ids   : List Nat := []
  cmd   : Bool := false
  clean : Bool := false
  deriving DecidableEq, Repr

/-- A takeover sequence (R242, R243): failed ranks in ascending order, the spares declared failed, the
highest VERSION accepted, the assignments of failed ranks to spares, and the leader's own TAKEOVER that
it has not sent yet. -/
structure Takeover where
  active   : Bool := false
  failed   : List Nat := []
  version  : Nat := 0
  assigns  : List (Nat × Nat) := []
  proposal : Option CtlMsg := none
  /-- It waits with SUBJECT 0xffff for a spare or a checkpoint. -/
  waits    : Bool := false
  deriving DecidableEq, Repr

/-- The step and its pass as this rank sees them (spec/09). -/
structure Pass where
  /-- A step has been launched and its pass has not answered. -/
  launched : Bool := false
  /-- REASON and DETAIL of the failed check this rank has to report, first seen (R221), and the policy
  that a COL.PASS with its veto operand requests. -/
  fail     : Option (Nat × Nat) := none
  request  : Nat := 0
  /-- The run seed, and the one that takes effect at the next launch (R52, R299). -/
  seed     : Nat := 0
  nextSeed : Option Nat := none
  /-- The step runs as a replay with WIDE set (R223), and the next replay will. -/
  wide     : Bool := false
  nextWide : Bool := false
  /-- COL.PASS admitted in the step, and the one that has been dispatched. -/
  passes   : Nat := 0
  passId   : Option Nat := none
  /-- READY of the children, the FAILs held or forwarded in order of arrival, and whether this rank has
  sent its own. -/
  readies  : List (Nat × CtlMsg) := []
  fails    : List CtlMsg := []
  failSent : Bool := false
  /-- The READY this rank has combined. -/
  ready    : Option CtlMsg := none
  /-- What the root has answered with and not acted on yet. -/
  answer   : Option CtlMsg := none
  /-- The root's consecutive vetoes with policy REPLAY, and their step. -/
  vetoes   : Nat := 0
  vetoStep : Nat := 0
  /-- The DETAIL of an uncorrectable error in committed state, to report at every launch until a rollback (R221). -/
  statePending : Option Nat := none
  /-- Recovery (R226): one is in progress; CLEARs of the children, with rank, DETAIL, COUNT and CKPT;
  this rank's CLEAR has been sent; the policy recovered from (4 for a takeover); the target of a
  rollback; the stage of R241 (1 waits for the checkpoint, 2 reprograms). -/
  recover  : Bool := false
  clears   : List (Nat × Nat × Nat × Nat) := []
  clearSent : Bool := false
  policy   : Nat := 0
  target   : Nat := 0
  stage    : Nat := 0
  /-- This spare has taken over a rank in the recovery. -/
  tookOver : Bool := false
  /-- The local area that a copy from a buddy fills, and whether the rank's own EPOCH stands in for that of the copy
  (R234, R242, R244). -/
  into     : Nat := 0
  ownEpoch : Bool := false
  /-- Digests: the interval in effect, the comparisons in progress, a pending mismatch at the root. -/
  digK     : Nat := 200
  digs     : List DigestRun := []
  digBad   : Bool := false
  /-- Checkpoints: jobs, those asked of the next committed step (SVC.CKPT ids, CKPT_NOW), how many have
  been taken since load, and the next host area. -/
  ckpts    : List CkptJob := []
  ckptIds  : List Nat := []
  ckptCmd  : Bool := false
  /-- A deferred checkpoint is due at the next committed step. -/
  ckptDue  : Bool := false
  ckptNo   : Nat := 0
  hostArea : Nat := 0
  /-- Heartbeats: the tick of the last one sent, and the last tick each neighbour was heard. -/
  beat     : Nat := 0
  heard    : List (Nat × Nat) := []
  /-- FAILNOTEs seen: failed rank and VERSION. -/
  noted    : List (Nat × Nat) := []
  tko      : Takeover := {}
  /-- Devices that asked to join, at the leader (FABRIC_ID, ID_TAG, and the entry each was told), and the TABLE that
  the next COMMIT applies. -/
  joins    : List (Nat × Nat × Nat) := []
  table    : Option CtlMsg := none
  /-- The tick of the launch of the attempt that runs, or of one that has ended in a REPLAY (R311). -/
  attemptAt : Option Nat := none
  deriving DecidableEq, Repr

/-- A bucket of the step (R194 to R215). -/
structure Bucket where
  b        : Nat
  id       : Nat
  layer    : Nat
  first    : Nat
  count    : Nat
  grad     : Desc
  entered  : Bool := false
  /-- The probe: running, this rank's PROBE_UP sent, PKs of the children. -/
  probing  : Bool := false
  probeSent : Bool := false
  childPk  : List (Nat × Nat) := []
  eb       : Nat := 0
  attempt  : Nat := 0
  /-- Blocks of the children held for the attempt, with their rank. -/
  blocks   : List (Nat × RedBlock) := []
  /-- Groups sent upward, or at the owner complete and given to the update engine; groups updated. -/
  sent     : Nat := 0
  done     : Nat := 0
  nf       : Bool := false
  ov       : Bool := false
  pk       : Nat := 0
  changed  : Bool := false
  /-- At the owner, a parameter of the update is not finite (R39). -/
  updNf    : Bool := false
  /-- The rank's own contributions that saturated, and its non-finite elements. -/
  sat      : Nat := 0
  nfc      : Nat := 0
  /-- Elements received from above; at the owner, sent down. -/
  got      : Nat := 0
  /-- At the owner, the sum of squares of the reduced gradient. -/
  sumSq    : Rat := 0
  deriving DecidableEq, Repr

/-- What the END of a bucket left for the pass (R211, R214, R216). -/
structure Ended where
  b       : Nat
  layer   : Nat
  first   : Nat
  count   : Nat
  /-- Exponent and number of the final attempt. -/
  eb      : Nat := 0
  attempt : Nat := 0
  pk      : Nat
  nf      : Bool
  ov      : Bool
  changed : Bool
  /-- The owner's gradient norm (R135), with the average's slot written in the step. -/
  norm    : Norm := .none
  avg     : Bool := false
  deriving DecidableEq, Repr

/-- The collective engine (spec/08). -/
structure Col where
  /-- Buckets of the step between their release and their END, in order of admission. -/
  buckets  : List Bucket := []
  ends     : List Ended := []
  /-- Blocks that arrived before their bucket entered, with their rank (R198). -/
  early    : List (Nat × RedBlock) := []
  /-- Buckets admitted in the step, and the index of the next to enter. -/
  admitted : List (Nat × Nat × Nat × Nat) := []
  next     : Nat := 0
  /-- Layer, FIRST and COUNT by bucket in the last committed step since load (R296). -/
  map      : List (Nat × Nat × Nat × Nat) := []
  /-- Entry images and an average reset that the next launch applies (R297). -/
  updcfg   : List (Nat × List Byte) := []
  avgreset : Bool := false
  /-- Layers of which EV_COL_SILENT_LAYER has told since their SILENT was last 0 (R216). -/
  silentTold : List Nat := []
  /-- FORCE_PROBE has been written; every bucket of the step probes. -/
  force    : Bool := false
  probeAll : Bool := false
  probes   : Nat := 0
  retries  : Nat := 0
  /-- Gradient-norm histories by bucket: h in F32 and the count (R136). -/
  mon      : List (Nat × Nat × Nat) := []
  /-- Step tokens of the settle time: the tick from which buckets may enter (R226). -/
  settleAt : Nat := 0
  deriving DecidableEq, Repr

/-- A block that this device originated and has not put on a link yet; `port` for one that goes out on a
given port. -/
structure Origin where
  tc   : Nat
  dest : Nat
  pay  : Payload
  port : Option Nat := none
  deriving DecidableEq, Repr

/-- A fabric port (spec/13), beside its registers. -/
structure Port where
  /-- Next SEQ to send, and next SEQ expected. -/
  txSeq   : Nat := 0
  rxSeq   : Nat := 0
  /-- Blocks kept until acknowledged, oldest first; SEQs to resend; resends made by SEQ. -/
  replay  : List (Nat × LinkBlock) := []
  resend  : List Nat := []
  resent  : List (Nat × Nat) := []
  /-- Blocks held behind a gap, by SEQ, and the missing SEQs that a NAK has named. -/
  held    : List (Nat × LinkBlock) := []
  asked   : List Nat := []
  /-- Credits this side may spend, the most the partner has granted, credits to return, and credits the
  partner may spend here; for TC0, TC1 and TC2. -/
  credit  : List Nat := [0, 0, 0]
  grant   : List Nat := [0, 0, 0]
  owed    : List Nat := [0, 0, 0]
  avail   : List Nat := [16, 512, 256]
  /-- Tick at which ACK last advanced, and the start of the violation window. -/
  ackAt   : Nat := 0
  winAt   : Nat := 0
  /-- Unsequenced blocks to send, oldest first. -/
  ctl     : List Payload := []
  /-- Turns left to TC1 and TC2 in the weighted round robin. -/
  turns   : Nat × Nat := (3, 1)
  /-- The partner's fence is awaited; it arrived before this side withdrew. -/
  fencing : Bool := false
  fenceIn : Bool := false
  /-- The training that runs is a fast one; the saved equalization exists; the tick a training failed. -/
  fast    : Bool := false
  equal   : Bool := false
  failAt  : Nat := 0
  /-- The width that the last training gave; 0 before the first (R317). -/
  width   : Nat := 0
  /-- STEP of the reduction block that the port carried last, in either direction (R333). -/
  red     : Option Nat := none
  deriving DecidableEq, Repr

/-- The fabric (spec/13). -/
structure Fab where
  ports   : List (Nat × Port) := []
  /-- The route table on chip, by node number; zero entries are not listed. -/
  routes  : List (Nat × Nat) := []
  orig    : List Origin := []
  /-- Blocks accepted for another destination, with their ingress port, oldest first. -/
  ingress : List (Nat × LinkBlock) := []
  /-- Ports on which a reduction block for a bucket that has not entered keeps its credit, with the bucket (R198). -/
  heldRed : List (Nat × Nat) := []
  /-- Bulk blocks received: SRC, STREAM, OFFSET and data. -/
  bulk    : List (Nat × Nat × Nat × List Byte) := []
  /-- The FABRIC_ID in effect on each port since its last full training. -/
  nodeId  : List (Nat × Nat) := []
  deriving DecidableEq, Repr

/-- The seesaw: two weight epochs, by parameter offset, BF16 patterns; zero is not listed (R59). -/
structure Seesaw where
  epoch0  : List (Nat × Nat) := []
  epoch1  : List (Nat × Nat) := []
  /-- Ranges of offsets written to the shadow epoch in the step in progress. -/
  written : List (Nat × Nat) := []
  deriving DecidableEq, Repr

/-- The loaded program (R59, R84). -/
structure Load where
  loaded   : Bool := false
  /-- The values the load took: heap, parameters of the seesaw (R88), and N of the rank table. -/
  heapBase : Nat := 0
  heapSize : Nat := 0
  params   : Nat := 0
  buckets  : Nat := 0
  n        : Nat := 0
  /-- A MOV may write the seesaw: since a load or rollback no step was launched (R71). -/
  seesawOpen : Bool := false
  deriving DecidableEq, Repr

/-- A batch slot (R305). -/
inductive SlotState where
  | free | filling | present
  deriving DecidableEq, Repr

/-- A batch slot: its state, and the entry it was filled from. -/
structure BatchSlot where
  state  : SlotState := .free
  /-- The cursor of the entry taken. -/
  cursor : Nat := 0
  id     : Nat := 0
  length : Nat := 0
  addr   : Nat := 0
  deriving DecidableEq, Repr

/-- A service command that runs (R313): code, block space and address, TAG, ARG0, ARG1. -/
structure SvcCmd where
  cmd   : Nat
  space : Nat
  addr  : Nat
  tag   : Nat
  arg0  : Nat
  arg1  : Nat
  /-- For CKPT_NOW: the step whose checkpoint it waits for, once known. -/
  step  : Option Nat := none
  deriving DecidableEq, Repr

/-- What the step record of the step in progress gathers (R311, R428). -/
structure StepAcc where
  attempts : Nat := 0
  start    : Nat := 0
  reason   : Nat := 0
  sat      : Nat := 0
  nf       : Nat := 0
  clips    : Nat := 0
  clamps   : Nat := 0
  rows     : Nat := 0
  retries  : Nat := 0
  probed   : Bool := false
  rered    : Bool := false
  fallback : Bool := false
  throttled : Bool := false
  wide     : Bool := false
  /-- The timers of R311, in ticks. -/
  tForward : Nat := 0
  tDx      : Nat := 0
  tDw      : Nat := 0
  tUpdate  : Nat := 0
  tRed     : Nat := 0
  tPass    : Nat := 0
  tIngest  : Nat := 0
  tRewrite : Nat := 0
  tReplay  : Nat := 0
  firstSeq : Option Nat := none
  lastSeq  : Option Nat := none
  tempMax  : Int := -32768
  /-- The first GRD.DX of the step, by its number. -/
  firstDx  : Option Nat := none
  deriving DecidableEq, Repr

/-- What the puppeteer launches next (R303). -/
inductive NextLaunch where
  | none | next | replay
  deriving DecidableEq, Repr

/-- The puppeteer (spec/12). -/
structure Pup where
  slot0     : BatchSlot := {}
  slot1     : BatchSlot := {}
  /-- The slot that holds the batch of the step in progress: 0 or 1. -/
  current   : Nat := 0
  /-- The step in progress holds that slot. -/
  mine      : Bool := false
  /-- The cursor after the slot of the last committed or skipped step (R308). -/
  keepFrom  : Nat := 0
  stallSeen : Bool := false
  waitFrom  : Option Nat := none
  /-- The tick from which PROD is read again, and PROD as last read. -/
  polled    : Nat := 0
  prod      : Nat := 0
  settled   : Bool := true
  next      : NextLaunch := .none
  cmd       : Option SvcCmd := none
  /-- The value of SCH.SVC_CMD whose block cannot be read yet (R313). -/
  cmdAt     : Option Nat := none
  acc       : StepAcc := {}
  straggler : Bool := false
  /-- The step record of the last committed step. -/
  lastRec   : List Byte := []
  /-- LOG2 of the ingest ring in effect since LOOP_START. -/
  ringLog2  : Nat := 10
  /-- Failed reads of the entry, or of the batch, that is being taken (R306). -/
  readFails : Nat := 0
  /-- A STEP_LAUNCH waits until no instruction of the committed step is in flight (R87). -/
  swLaunch  : Bool := false
  deriving DecidableEq, Repr

/-- A device write to host memory without an answer yet (R346): its tag, its pieces and what they overwrote,
and whether it has been retried. `mirror`: a record of the mirror (R420). -/
structure HostWrite where
  tag    : Nat
  mirror : Bool := false
  parts  : List (Nat × List Byte) := []
  old    : List (Nat × List Byte) := []
  again  : Bool := false
  deriving DecidableEq, Repr

/-- The host link (spec/14). -/
structure Cxl where
  /-- MSI-X vectors that are unmasked, and those whose PBA bit is set (R349). -/
  msixOpen : List Nat := []
  /-- Address and data words of the MSI-X table that are not zero, by their number of 4 bytes. -/
  msixWords : List (Nat × Nat) := []
  pba      : List Nat := []
  /-- Instructions one of whose accesses to host memory met a bus error (R346). -/
  badHost  : List Nat := []
  /-- Writes to host memory that are outstanding, and the next tag. -/
  outs     : List HostWrite := []
  nextTag  : Nat := 0
  /-- The link is up; Bus Master Enable; Memory Space Enable; the function is in D3hot. -/
  up       : Bool := false
  bme      : Bool := false
  mse      : Bool := false
  d3hot    : Bool := false
  /-- CXL.cachemem traffic is refused until IDE_KM establishes the stream again (R351). -/
  cmRefused : Bool := false
  /-- Uncorrectable errors reported through AER and the RAS capability (R351). -/
  ras      : Nat := 0
  /-- The HDM decoder's Err Not Committed (R341). -/
  commitErr : Bool := false
  deriving DecidableEq, Repr

/-- Power (spec/15, spec/20). -/
structure Power where
  /-- The rails are up; the power-up sequence runs; the input is in range and mated; PWR_EN; PERST#. -/
  on       : Bool := true
  rising   : Bool := false
  /-- The level of the sixteen position pins, left open (R445). -/
  pos      : Nat := 0xffff
  inputOk  : Bool := true
  enable   : Bool := true
  perst    : Bool := false
  /-- The trip record of module flash: the hottest reading (R369). -/
  trip     : Option Int := none
  /-- The tick since which HOTTEST has been at or below THROTTLE - 5 °C (R368). -/
  coolAt   : Option Nat := none
  /-- A wake trigger has been recognized: its code in PWR.STATUS.WAKE. -/
  wake     : Option Nat := none
  /-- The Deep save area holds a save (R365); what the Deep wake latch holds, in order. -/
  saved    : Bool := false
  latch    : List Instr := []
  /-- HBM is in self-refresh; the tick of its last access in Doze. -/
  selfRefresh : Bool := false
  hbmAt    : Nat := 0
  /-- The tick of the last array wake. -/
  arrayWake : Nat := 0
  deriving DecidableEq, Repr

/-- A firmware image in a bank, by what R375 to R377 check: the header's fields, the digests of the two
public keys, whether each signature verifies, and the digests of body and header. -/
structure Image where
  magic     : Nat := 0x5453f001
  format    : Nat := 1
  flags     : Nat := 0
  svn       : Nat := 0
  length    : Nat := 64
  build     : Nat := 0
  bodyDigest : List Byte := []
  /-- Reserved header fields and bytes 5,613 to 5,631 are zero. -/
  zeros     : Bool := true
  edDigest  : Nat := 0
  mlDigest  : Nat := 0
  edOk      : Bool := true
  mlOk      : Bool := true
  bodyLen   : Nat := 64
  bodySha   : List Byte := []
  headerSha : List Byte := []
  deriving DecidableEq, Repr

/-- Boot, module flash and what a boot leaves (spec/17). -/
structure Boot where
  /-- The boot that is due: its cause, as DEV.BOOT.CAUSE; the tick of its trigger. -/
  awaits  : Option Nat := some 0
  since   : Nat := 0
  /-- The device answers as in the error state of R372. -/
  stopped : Bool := false
  /-- The banks of module flash, and the boot record (R399). -/
  bank0   : Option Image := some {}
  bank1   : Option Image := some {}
  active  : Nat := 0
  next    : Option Nat := none
  trial   : Bool := false
  /-- The image that runs and its bank; a PLDM update is in progress (R454). -/
  running : Option Image := none
  bank    : Nat := 0
  update  : Bool := false
  deriving DecidableEq, Repr

/-- The fuse array (R406): the four generations, the retirement word and the rollback thermometer, each as the
number that its bits spell. -/
structure Fuses where
  gens   : List Nat := [0, 0, 0, 0]
  retire : Nat := 0
  thermo : Nat := 0
  deriving DecidableEq, Repr

/-- The security subsystem beside its registers (spec/16). -/
structure Sec where
  /-- The device identity digest, 64 bytes, empty for none (R380); the seed of the alias keys (R379). -/
  identity : List Byte := []
  aliasSeed : List Byte := []
  nonce    : Option Nat := none
  /-- The certificates of module flash exist; SPDM sessions. -/
  certs    : Bool := true
  sessions : Nat := 0
  /-- The puppeteer is halted by the debugger. -/
  halted   : Bool := false
  /-- A scrub (R388): tiles left and tiles that failed; it belongs to a SEC command; its tiles in all. -/
  scrubLeft : List Nat := []
  scrubBad  : List Nat := []
  scrubCmd  : Bool := false
  scrubOf   : Nat := 0
  /-- The tick at which the last scrub ended. -/
  scrubTime : Nat := 0
  deriving DecidableEq, Repr

/-- Belgar replay (spec/19): queued tables, APERTURE, OVERRUN, the last RESULT and the carries. -/
structure Belgar where
  queue    : List Nat := []
  aperture : Nat := 0
  overrun  : Nat := 0
  result   : Nat := 0
  carry    : List Int := List.replicate 256 0
  deriving DecidableEq, Repr

/-- ECC of HBM (R347): corrected errors by the first address of their row since cold reset, and the rows
logged for repair. -/
structure Ecc where
  rows    : List (Nat × Nat) := []
  repairs : List Nat := []
  deriving DecidableEq, Repr

/-- The fit of a column group (R120, R121): gain in 2 ^ -14, offset in 2 ^ -8, α in 2 ^ -20 and β in
2 ^ -12 per °C; `temp` in 0.25 °C; `ever` once it has fitted since the last full programming, `done` once it has since
the last array wake too. -/
structure Fit where
  gain  : Nat := 0x4000
  off   : Int := 0
  alpha : Int := 0
  beta  : Int := 0
  temp  : Int := 0
  ever  : Bool := false
  done  : Bool := false
  run   : Nat := 0
  flag  : Bool := false
  deriving DecidableEq, Repr

/-- What a batch of row writes is (R107). -/
inductive BatchKind where
  | restore | crossing | program | scrub
  deriving DecidableEq, Repr

/-- A batch of row writes of one tile (R106 to R114): the rows left, whether it writes the shadow epoch,
the EPOCH_STEP of its seal, and whether it programs the tile in full. -/
structure Batch where
  kind   : BatchKind
  rows   : List Nat
  shadow : Bool := false
  step   : Nat := 0
  full   : Bool := false
  /-- Order among the crossing batches (R107). -/
  order  : Nat := 0
  /-- It writes the spare of a column remapped while it ran, in every row (R110). -/
  spare  : Bool := false
  /-- It programs the tile for ARR.PROGRAM or as a suspect one (R140). -/
  renew  : Bool := false
  deriving DecidableEq, Repr

/-- An array tile: the header of R112, and what calibration, checksum, outliers and writing keep. -/
structure Tile where
  sealed     : Bool := true
  state      : Nat := 0
  reason     : Nat := 0
  spareValid : Bool := false
  spareFor   : Nat := 0
  layer      : Nat := 0
  rowTile    : Nat := 0
  colTile    : Nat := 0
  epochStep  : Nat := 0
  /-- Row write counts that are not zero. -/
  wear       : List (Nat × Nat) := []
  factory    : Bool := false
  /-- Doubled levels that are not zero, by row × 256 + logical column (R91). -/
  levels     : List (Nat × Int) := []
  /-- The sums of a row's 256 doubled levels that the checksum cells were written to, where not zero (R89). -/
  checksum   : List (Nat × Int) := []
  failedCols : List Nat := []
  /-- Clips by physical column since the tile was placed. -/
  clips      : List (Nat × Nat) := []
  dirty      : List Nat := []
  /-- The dirty rows belong to a step that has committed (R27). -/
  late       : Bool := false
  batch      : Option Batch := none
  /-- Rows rewritten in the step in progress (R28). -/
  rewritten  : List Nat := []
  /-- Outlier slots sealed with the levels, and the committed set: d in F32 by row × 256 + column. -/
  slots      : List (Nat × Nat) := []
  comSlots   : List (Nat × Nat) := []
  clamps     : Nat := 0
  comClamps  : Nat := 0
  share      : Nat := 0
  calCount   : Nat := 0
  fits       : List Fit := [{}, {}, {}, {}, {}, {}, {}, {}]
  due        : Bool := false
  /-- No ARR.FWD before a calibration (R118, R126, R286). -/
  calFirst   : Bool := false
  convs      : Nat := 0
  lastCal    : Nat := 0
  lastFit    : Int := 0
  suspect    : Bool := false
  /-- A checksum column found at fault: retired once the pass answers (R127). -/
  csFault    : Bool := false
  /-- The pass has answered since the tile was found suspect or its checksum column at fault (R109, R126). -/
  answered   : Bool := false
  /-- Drift baselines by slice position, F32 (R125); sums and counts of the step. -/
  base       : List (Option Nat) := [none, none, none, none]
  csSum      : List Int := [0, 0, 0, 0]
  csCount    : List Nat := [0, 0, 0, 0]
  devRun     : Nat := 0
  /-- Qualifying steps since the tile was reprogrammed as suspect (R126). -/
  sinceRe    : Option Nat := none
  warned     : Bool := false
  /-- Since its layer entered fallback: 1 programmed in full, 2 and then calibrated clean (R140). -/
  fresh      : Nat := 0
  deriving DecidableEq, Repr

/-- A placed layer (R103, R285), with what R101, R102, R116, R135 and R139 keep for it. -/
structure Layer where
  wt        : Bool := false
  inDim     : Nat := 0
  outDim    : Nat := 0
  /-- First parameter offset of its masters. -/
  master    : Nat := 0
  /-- The tile of position rt × CT + ct; none when no tile holds it. -/
  tiles     : List (Option Nat) := []
  programmed : Bool := false
  /-- BF16 column scales by output (R104). -/
  scales    : List Nat := []
  range     : Nat := 2
  auto      : Bool := true
  pendInfo  : Option (Bool × Nat) := none
  fallback  : Bool := false
  /-- How the layer entered fallback: the routes of R139 (0 monitor, 1 no tile, 2 program). -/
  route     : Nat := 0
  pendFall  : Option Nat := none
  pendClear : Bool := false
  /-- Conversions, clips and conversions of |q| ≥ 16 in the step, and the counts of the last committed. -/
  n         : Nat := 0
  c         : Nat := 0
  h         : Nat := 0
  lastN     : Nat := 0
  lastC     : Nat := 0
  /-- The forward norm of the step: sum of squares, elements, and a non-finite element. -/
  sumSq     : Rat := 0
  elems     : Nat := 0
  nonFin    : Bool := false
  hist      : Nat := 0
  steps     : Nat := 0
  jump      : Bool := false
  /-- The jump of the step has been noted (R137). -/
  jumped    : Bool := false
  action    : Nat := 1
  /-- EV_ARR_OUTLIER_FULL has been raised in the step. -/
  fullSeen  : Bool := false
  /-- The level-crossing writes of the step have started (R25). -/
  crossed   : Bool := false
  deriving DecidableEq, Repr

/-- A gross disagreement of a checksum, as the tile captures it (R127): the instruction and its step, the layer, the block
of the input with its exponent and mantissas, the codes of the live columns by slice position, and how many there have been
of the same tile and instruction. -/
structure Dispute where
  tile  : Nat
  id    : Nat
  step  : Option Nat := none
  layer : Nat := 0
  block : Nat := 0
  exp   : Nat := 0
  mant  : List Int := []
  codes : List (List Int) := []
  count : Nat := 1
  deriving DecidableEq, Repr

/-- The arrays (spec/04, spec/05). -/
structure Arr where
  layers   : List (Nat × Layer) := []
  /-- Tiles that differ from a scrubbed free one. -/
  tiles    : List (Nat × Tile) := []
  /-- Gross disagreements not settled yet (R127). -/
  disputes : List Dispute := []
  /-- Cluster temperatures in 0.25 °C that differ from 25 °C. -/
  temps    : List (Nat × Int) := []
  /-- Clusters in an excursion of R124. -/
  hotClusters : List Nat := []
  crossings : Nat := 0
  allFallback : Bool := false
  deriving DecidableEq, Repr

/-- The machine. -/
structure State where
  /-- The commands that wait, first in, first out. -/
  pending : List Instr := []
  /-- The counter that free values are applied to (the model's own field). -/
  freeCtr : Nat := 0
  /-- The always-on counter (R356). -/
  aon     : Nat := 0
  /-- The register file: the value of every field that differs from its reset value. -/
  regs    : List (Nat × Nat) := []
  /-- HBM, scratchpad and host memory: every byte that is not zero (R344 to R346). -/
  hbm     : List Host.Cell := []
  scratch : List Host.Cell := []
  host    : List Host.Cell := []
  /-- Poisoned and poison-tagged lines: space and line, with the instruction that tagged it
  (R234, R348). -/
  poison  : List (Nat × Nat × Option Nat) := []
  sch     : Sch := {}
  val     : Valley := {}
  units   : Units := {}
  evt     : Evt := {}
  pass    : Pass := {}
  col     : Col := {}
  fab     : Fab := {}
  seesaw  : Seesaw := {}
  arr     : Arr := {}
  pup     : Pup := {}
  load    : Load := {}
  cxl     : Cxl := {}
  pwr     : Power := {}
  boot    : Boot := {}
  fuses   : Fuses := {}
  sec     : Sec := {}
  bel     : Belgar := {}
  ecc     : Ecc := {}
  /-- The MCTP endpoint ID (R452). -/
  eid     : Nat := 0
  out     : Out := {}
  deriving DecidableEq, Repr

/-- Generation 0 of the fuses as the module ships (R407, R456): FORMAT 1, lifecycle OPEN, BELGAR set, its CRC and its
SEAL. The key digests and the identity seed are zero (the model's choice, notes/assumptions). -/
def factoryGen : Nat := 1 + 2 ^ 16 + 2 * 2 ^ 32 + 3585048927 * 2 ^ 16320 + 0xffffffff * 2 ^ 16352

/-- Right after a cold reset (R360, R397, R401, R408): power is good, the fuses are loaded, and the boot is due. The
register file lists the fields that do not read as their reset value, OTP.STATUS, OTP.FEATURES, SEC.STATUS and SEC.FW. -/
def State.reset : State := {
  regs := [(0x90008 * 64, 0xffff), (0xc0000 * 64, 1), (0xd0000 * 64 + 4, 1), (0xd0008 * 64, 2)]
  fuses := { gens := [factoryGen, 0, 0, 0] } }

end Sys2Proof.Machine
end

