-- ==== Sys2Proof/Machine/Ops.lean ====
section
/-! DEFINITION. The named operations over registers, memory, tokens, events and interrupts. -/

namespace Sys2Proof.Machine

/-! ### Registers -/

/-- The value a field holds. -/
def State.f (s : State) (x : Fld) : Nat := (mget x.key s.regs).getD x.rst

/-- The register file with a field set; only values other than the reset value are listed. -/
def regsSet (x : Fld) (v : Nat) (m : List (Nat × Nat)) : List (Nat × Nat) :=
  if v % 2 ^ x.w = x.rst then mdel x.key m else mput x.key (v % 2 ^ x.w) m

/-- The state with a field set to `v`. -/
def State.setF (s : State) (x : Fld) (v : Nat) : State := { s with regs := regsSet x v s.regs }

/-- A count raised by `n`; it saturates at its width. -/
def State.addF (s : State) (x : Fld) (n : Nat) : State :=
  s.setF x (min (2 ^ x.w - 1) (s.f x + n))

/-- A single-bit field as a truth value. -/
def State.fb (s : State) (x : Fld) : Bool := s.f x == 1

/-- Several fields set to zero. -/
def State.clearF (s : State) (xs : List Fld) : State := xs.foldl (fun t x => t.setF x 0) s

/-! ### Memory (R344 to R346) -/

/-- Bytes of HBM. -/
def hbmTop : Nat := 0x12000000000
/-- First byte of the firmware region. -/
def hbmProgTop : Nat := 0x11fc0000000
/-- Bytes of scratchpad. -/
def scratchTop : Nat := 0x18000000
/-- First address beyond host physical memory. -/
def hostTop : Nat := 2 ^ 48

/-- What a byte that no one has written reads as. -/
def emptyByte : Byte := 0

/-- One byte of a memory. -/
def memGet (a : Nat) (m : List Host.Cell) : Byte := (mget a m).getD emptyByte

/-- A memory with one byte written. -/
def memSet (a : Nat) (b : Byte) (m : List Host.Cell) : List Host.Cell :=
  if b = emptyByte then mdel a m else mput a b m

/-- The canonical form: addresses rise strictly, and no listed byte equals an unlisted one. -/
def Memory.wf (m : List Host.Cell) : Bool := msorted m && m.all (fun c => c.2 != emptyByte)

/-- The memory of a space: 0 scratchpad, 1 HBM, any other host. -/
def State.mem (s : State) (space : Nat) : List Host.Cell :=
  if space = 0 then s.scratch else if space = 1 then s.hbm else s.host

/-- The state with the memory of a space replaced. -/
def State.setMem (s : State) (space : Nat) (m : List Host.Cell) : State :=
  if space = 0 then { s with scratch := m }
  else if space = 1 then { s with hbm := m }
  else { s with host := m }

/-- The size of a space. -/
def spaceTop (space : Nat) : Nat :=
  if space = 0 then scratchTop else if space = 1 then hbmTop else hostTop

/-- The first address of a space that programs may not name (R344). -/
def spaceLimit (space : Nat) : Nat :=
  if space = 0 then scratchTop else if space = 1 then hbmProgTop else hostTop

/-- One byte of a space; beyond its end no memory answers, and the byte is a free value. -/
def State.rd (s : State) (space a : Nat) : Byte :=
  if spaceTop space ≤ a then Config.absentByte space a else memGet a (s.mem space)

/-- One byte written; beyond the end of the space it goes nowhere. -/
def State.wr (s : State) (space a : Nat) (b : Byte) : State :=
  if spaceTop space ≤ a then s else s.setMem space (memSet a b (s.mem space))

/-- `n` bytes from address `a`. -/
def State.rdBytes (s : State) (space a n : Nat) : List Byte :=
  (List.range n).map (fun i => s.rd space (a + i))

/-- Bytes written from address `a` on. -/
def State.wrBytes (s : State) (space a : Nat) : List Byte → State
  | [] => s
  | b :: r => (s.wr space a b).wrBytes space (a + 1) r

/-- The little-endian number of `n` bytes at `a` (R9). -/
def State.rdNat (s : State) (space a n : Nat) : Nat := leNat (s.rdBytes space a n)

/-- A number written little-endian in `n` bytes. -/
def State.wrNat (s : State) (space a n v : Nat) : State := s.wrBytes space a (leBytes n v)

/-- `n` bytes from `a` in a space set to zero. -/
def State.zeroRange (s : State) (space a n : Nat) : State :=
  s.setMem space ((s.mem space).filter (fun c => decide (c.1 < a) || decide (a + n ≤ c.1)))

/-- A line of a space is poisoned or poison-tagged. -/
def State.isPoisoned (s : State) (space line : Nat) : Bool :=
  s.poison.any (fun p => p.1 == space && p.2.1 == line)

/-- Some byte of the range lies in a poisoned line. -/
def State.poisonedRange (s : State) (space a n : Nat) : Bool :=
  s.poison.any (fun p => p.1 == space && decide (p.2.1 * 64 < a + n) && decide (a < p.2.1 * 64 + 64))

/-- The state with a line poisoned, or tagged by an instruction. -/
def State.addPoison (s : State) (space line : Nat) (by_ : Option Nat) : State :=
  if s.isPoisoned space line then s else { s with poison := s.poison ++ [(space, line, by_)] }

/-- A full-line write clears the poison of every line the range covers whole (R348). -/
def State.unpoison (s : State) (space a n : Nat) : State :=
  { s with poison := s.poison.filter (fun p =>
      !(p.1 == space && decide (a ≤ p.2.1 * 64) && decide (p.2.1 * 64 + 64 ≤ a + n))) }

/-! ### Free values -/

/-- The state after one free value has been taken. -/
def State.tick (s : State) : State := { s with freeCtr := s.freeCtr + 1 }

/-! ### Tokens (R73, R74) -/

/-- The state of a token: none is CLEAR. -/
def State.tok (s : State) (t : Nat) : Option Tok := mget t s.sch.tokens

/-- A token set or cleared. -/
def State.putTok (s : State) (t : Nat) (v : Option Tok) : State :=
  { s with sch := { s.sch with tokens := match v with
      | some x => mput t x s.sch.tokens
      | none => mdel t s.sch.tokens } }

/-- A completion signals a token: POISONED wins over SET, and 0 names none (R73, R74). -/
def State.signal (s : State) (t : Nat) (ok : Bool) : State :=
  if t = 0 then s
  else if ok then (match s.tok t with
    | none => s.putTok t (some .set)
    | some _ => s)
  else s.putTok t (some .poisoned)

/-- Every step token cleared (R73). -/
def State.clearStepTokens (s : State) : State :=
  { s with sch := { s.sch with tokens := s.sch.tokens.filter (fun t => decide (0xf000 ≤ t.1)) } }

/-- Every token cleared. -/
def State.clearTokens (s : State) : State := { s with sch := { s.sch with tokens := [] } }

/-! ### Counters of the step (R17) -/

/-- The last committed step. -/
def State.c (s : State) : Nat := s.f F.colCountersStep

/-- The step in progress. -/
def State.stepNow (s : State) : Nat := s.c + 1

/-! ### Interrupts (R349) -/

/-- A vector raised: sent when it is unmasked, else its PBA bit is set. -/
def State.msi (s : State) (v : Nat) : State :=
  if s.cxl.msixOpen.contains v then { s with out := { s.out with msix := s.out.msix ++ [v] } }
  else if s.cxl.pba.contains v then s
  else { s with cxl := { s.cxl with pba := s.cxl.pba ++ [v] } }

/-! ### Events (R421, R422, R426) -/

/-- Unit numbers of R415. -/
def unitSched : Nat := 0x3300
def unitPuppeteer : Nat := 0x3301
def unitNet : Nat := 0x3302
def unitCxl : Nat := 0x3303
def unitSec : Nat := 0x3304
def unitPwr : Nat := 0x3305
def unitEvt : Nat := 0x3306
def unitSide : Nat := 0x3307
def unitPool : Nat := 0x3308
def unitDevice : Nat := 0xffff

/-- Codes of severity WARNING, ERROR and CRITICAL (R426); any other listed code is INFO. -/
def warnCodes : List Nat := [0x0002, 0x0021, 0x0024, 0x0031, 0x0032, 0x0033, 0x0034, 0x0036, 0x1002,
  0x1003, 0x1005, 0x1006, 0x1007, 0x1009, 0x100a, 0x100b, 0x100d, 0x100e, 0x100f, 0x3101, 0x4001,
  0x5002, 0x5003, 0x5101, 0x5103, 0x5105, 0x510a, 0x510e, 0x6002, 0x6004, 0x6006, 0x6007, 0x6008,
  0x8001, 0x8002, 0x8003, 0x9003, 0xa007, 0xa00a, 0xb006]
def errorCodes : List Nat := [0x0012, 0x0023, 0x0025, 0x0035, 0x1004, 0x1008, 0x100c, 0x1011, 0x2001,
  0x4002, 0x5102, 0x5106, 0x5107, 0x5109, 0x6005, 0x6009, 0x8004, 0xa002, 0xa006, 0xa00b, 0xb001,
  0xb005]
def criticalCodes : List Nat := [0x0013, 0x0022, 0x5104, 0x510b, 0x510c, 0x510d, 0x9004, 0xa001,
  0xa003, 0xa004, 0xa008, 0xa009]

/-- The severity of a code (R426). The codes of Belgar replay carry theirs (R440). -/
def severity (e : Event) : Nat :=
  if 0x7000 ≤ e.code ∧ e.code < 0x8000 then e.legacySev
  else if criticalCodes.contains e.code then 3
  else if errorCodes.contains e.code then 2
  else if warnCodes.contains e.code then 1
  else 0

/-- A bucket brought up to the present tick (R421). -/
def Rate.upTo (r : Rate) (now : Nat) : Rate :=
  { r with level := min (max 1 r.burst * 3125000) (r.level + (now - r.at_) * r.rate), at_ := now }

/-- What the recorder keeps for a code. -/
def State.rateOf (s : State) (code : Nat) : Rate := (mget code s.evt.rates).getD {}

/-- The state with what the recorder keeps for a code replaced. -/
def State.putRate (s : State) (code : Nat) (r : Rate) : State :=
  { s with evt := { s.evt with rates := mput code r s.evt.rates } }

/-- An event that has passed its bucket enters the front end, or is dropped (R422). -/
def State.frontPush (s : State) (e : Event) : State :=
  if s.evt.front.length < 512 then { s with evt := { s.evt with front := s.evt.front ++ [e] } }
  else ({ s with evt := { s.evt with dropped := s.evt.dropped + 1 } }).addF F.evtStatusDropped 1

/-- An event stamped with the time, the step and the temperature of its tile (R414, R416). -/
def State.stamp (s : State) (e : Event) : Event := { e with
  time := s.aon, instep := s.pass.launched, step := if s.load.loaded then s.stepNow else 0
  temp := if s.f F.pwrStatusState = 3 then -32768 else (mget (e.unit / 64) s.arr.temps).getD 100 }

/-- An event happens: it is stamped and passes its code's bucket, or is suppressed (R416, R421). -/
def State.raise (s : State) (e0 : Event) : State :=
  let e := s.stamp e0
  let r := (s.rateOf e.code).upTo s.aon
  let sup := min 0xffffffff (r.suppressed + 1)
  if severity e = 3 then s.frontPush e
  else if r.mask then s.putRate e.code { r with suppressed := sup }
  else if 3125000 ≤ r.level then (s.putRate e.code { r with level := r.level - 3125000 }).frontPush e
  else s.putRate e.code { r with
    suppressed := sup, winCount := r.winCount + 1, winLast := s.aon,
    winFirst := if r.winCount = 0 then s.aon else r.winFirst }

/-- An event of a unit with its arguments and no instruction. -/
def State.ev (s : State) (code unit arg0 arg1 : Nat) : State :=
  s.raise { code := code, unit := unit, arg0 := arg0, arg1 := arg1 }

/-- An event that names an instruction. -/
def State.evI (s : State) (code unit arg0 arg1 : Nat) (i : Inst) : State :=
  s.raise { code := code, unit := unit, arg0 := arg0, arg1 := arg1, queue := i.queue,
            index := i.index, opc := i.code.opcode + 4096 * i.code.iclass }

/-- A host protocol violation of kind `k` (R352). -/
def State.violation (s : State) (k : Nat) : State :=
  ((s.addF F.cxlViolTotal 1).setF F.cxlViolLastKind k).ev 0x8002 unitCxl k 0

/-! ### Failed checks (R221) -/

/-- Reason codes of a veto (R223). -/
def rsnCheck : Nat := 1
def rsnNonfinite : Nat := 2
def rsnOverflow : Nat := 3
def rsnCounter : Nat := 4
def rsnBucket : Nat := 5
def rsnProgram : Nat := 6
def rsnMonitor : Nat := 7
def rsnState : Nat := 8
def rsnDigest : Nat := 9
def rsnRequest : Nat := 10
def rsnTable : Nat := 11

/-- The order in which reasons weigh (R222), and the place of a reason in it. -/
def reasonOrder : List Nat := [rsnState, rsnTable, rsnProgram, rsnBucket, rsnDigest, rsnCounter, rsnCheck,
  rsnNonfinite, rsnOverflow, rsnMonitor, rsnRequest]
def reasonRank (r : Nat) : Nat := (reasonOrder.findIdx? (fun x => x == r)).getD 11

/-- The pass state changed by a function. -/
def State.modPass (s : State) (g : Pass → Pass) : State := { s with pass := g s.pass }

/-- The puppeteer's state changed by a function. -/
def State.modPup (s : State) (g : Pup → Pup) : State := { s with pup := g s.pup }

/-- A FAIL to send, with REASON and DETAIL. -/
def State.putFail (s : State) (reason detail : Nat) : State :=
  s.modPass (fun p => { p with fail := some (reason, detail), failSent := false })

/-- A failed check of the step in progress to report; a later one stands when its reason comes earlier in
the order of R222. -/
def State.failCheck (s : State) (reason detail : Nat) : State :=
  if !s.pass.launched then s
  else match s.pass.fail with
    | none => s.putFail reason detail
    | some x => if reasonRank reason < reasonRank x.1 then s.putFail reason detail else s

/-- The event code of a failure by an uncorrectable error, EV_MEM_ECC_UNCORR, in DETAIL. -/
def eccCode : Nat := 0xb005

/-- An uncorrectable error in committed state (R234): reason STATE in the step in progress, and at every launch until the
rank has rolled back (R221, R458). -/
def State.stateError (s : State) (unit : Nat) : State :=
  let detail := unit * 65536 + eccCode
  (s.failCheck rsnState detail).modPass (fun p => { p with statePending := some (p.statePending.getD detail) })

/-! ### Instructions in flight -/

/-- The instruction of number `id`. -/
def State.inst (s : State) (id : Nat) : Option Inst := s.sch.inflight.find? (fun i => i.id == id)

/-- The state with an instruction replaced. -/
def State.putInst (s : State) (i : Inst) : State :=
  { s with sch := { s.sch with inflight := s.sch.inflight.map (fun j => if j.id = i.id then i else j) } }

/-- The state with an instruction changed. -/
def State.modInst (s : State) (id : Nat) (g : Inst → Inst) : State :=
  { s with sch := { s.sch with inflight := s.sch.inflight.map (fun j => if j.id = id then g j else j) } }

/-- The state with every instruction in flight changed. -/
def State.modAll (s : State) (g : Inst → Inst) : State :=
  { s with sch := { s.sch with inflight := s.sch.inflight.map g } }

/-- The state without an instruction. -/
def State.dropInst (s : State) (id : Nat) : State :=
  { s with sch := { s.sch with inflight := s.sch.inflight.filter (fun j => j.id != id) } }

/-- What the scheduler keeps for a queue. -/
def State.qst (s : State) (q : Nat) : QSt := (mget q s.sch.queues).getD {}

/-- The same replaced. -/
def State.putQst (s : State) (q : Nat) (x : QSt) : State :=
  { s with sch := { s.sch with queues := mput q x s.sch.queues } }

/-- Progress of the scheduler at this tick (R80). -/
def State.progress (s : State) : State :=
  { s with sch := { s.sch with lastProgress := s.aon, stallSeen := false } }

/-- The next state of a command that only changes the state. -/
def ok (s : State) : Host.Outcome State Fault Refusal := .next s

end Sys2Proof.Machine
end

