-- ==== Sys2Proof/Machine/Access.lean ====
section
/-! DEFINITION. Whether a host access reaches the device and what answers it (R339, R363, R365, R372, R383,
R398), wake triggers (R361, R366), and bus errors of accesses to host memory (R346). -/

namespace Sys2Proof.Machine

/-! ### Power and wake triggers -/

/-- The device state requested or held as PWR.STATUS.STATE: 1 Active or Idle, 2 Doze, 3 Deep (R359). -/
def State.pst_ (s : State) : Nat := s.f F.pwrStatusState

/-- The device state as shown: Active is Idle with a unit awake (R359). -/
def State.powerState (s : State) : Nat := if s.pst_ = 1 ∧ !s.units.awake.isEmpty then 0 else s.pst_

/-- An interrupt of the PWR block (R370). -/
def State.pwrInt (s : State) : State := if s.fb F.pwrIntEn then s.msi (s.f F.pwrIntVector) else s

/-- A wake trigger: it abandons an entry in progress, or begins the exit from Doze or Deep, and writes 0 to REQ
(R361, R366). -/
def State.wakeUp (s : State) (code : Nat) : State :=
  let drop (t : State) : State := (t.setF F.pwrCtrlReq 0).setF F.pwrStatusPending 7
  if s.pst_ = 1 then
    (if s.fb F.pwrStatusMoving then (drop s).setF F.pwrStatusMoving 0 else s)
  else
    let t := (drop s).setF F.pwrStatusMoving 1
    { t with pwr := { t.pwr with wake := some (t.pwr.wake.getD code) } }

/-- HBM leaves self-refresh for an access in Doze (R363). -/
def State.touchHbm (s : State) : State :=
  if s.pst_ = 2 then { s with pwr := { s.pwr with selfRefresh := false, hbmAt := s.aon } } else s

/-! ### Host accesses -/

/-- The host's accesses reach the device: it is powered and ready, and its link is up (R398). -/
def State.reachable (s : State) : Bool :=
  s.pwr.on && s.cxl.up && (s.fb F.devBootReady || s.boot.stopped)

/-- The IDE streams that the lifecycle requires are not all secure (R383). -/
def State.ideShut (s : State) : Bool :=
  s.f F.secStatusLifecycle == 2 && s.fb F.secStatusIdeReq &&
  !(s.fb F.cxlStatusIdeIo && (s.fb F.cxlStatusMode || s.fb F.cxlStatusIdeCm))

/-- Accesses outside the SEC block are refused (R372, R383). -/
def State.barClosed (s : State) : Bool := s.boot.stopped || s.ideShut

/-- An access is held by the Deep wake latch; of the doorbells of a queue the latest (R365). -/
def State.latchAccess (s : State) (c : Instr) : State :=
  let same (x : Instr) : Bool := match c, x with
    | .doorbell q _, .doorbell r _ => q == r
    | _, _ => false
  let code := match c with
    | .doorbell _ _ => 1
    | .requestIdle => 2
    | _ => 3
  ({ s with pwr := { s.pwr with latch := s.pwr.latch.filter (fun x => !same x) ++ [c] } }).wakeUp code

/-- Accesses to a BAR reach the device: memory space is enabled too. -/
def State.barReached (s : State) : Bool := s.reachable && s.cxl.mse

/-- A host access `c` to a BAR with the effect `run`: in Deep the latch holds it, and where its block is closed it
is a violation of kind BAR_OFFSET. `sec` for the SEC block. -/
def State.hostAccess (s : State) (c : Instr) (sec : Bool) (run : State → State) :
    Host.Outcome State Fault Refusal :=
  if !s.barReached then .next s
  else if s.pst_ = 3 then .next (s.latchAccess c)
  else if !sec && s.barClosed then .next (s.violation 5)
  else .next (run s)

/-! ### Accesses to host memory (R346, R403) -/

/-- The device may send requests to host memory. -/
def State.hostReady (s : State) : Bool := s.pwr.on && s.cxl.up && s.cxl.bme && !s.ideShut && !s.cxl.cmRefused

/-- A bus error counted; a timeout has a count of its own. -/
def State.busError (s : State) (o : HostOutcome) : State :=
  match o with
  | .ok => s
  | .error => s.addF F.cxlHostErrAbort 1
  | .poison => s.addF F.cxlHostErrPoison 1

/-- A write to host memory under a tag of its own, 4 n + 1; it stands until its answer comes (R346). `mirror` for
the event mirror. -/
def State.hostWrite (s : State) (mirror : Bool) (parts : List (Nat × List Byte)) : State :=
  let old := parts.map (fun (x : Nat × List Byte) => (x.1, s.rdBytes 2 x.1 x.2.length))
  let t := parts.foldl (fun (t : State) x => t.wrBytes 2 x.1 x.2) s
  let w : HostWrite := { tag := 4 * s.cxl.nextTag + 1, mirror := mirror, parts := parts, old := old }
  { t with cxl := { t.cxl with outs := t.cxl.outs ++ [w], nextTag := t.cxl.nextTag + 1 } }

end Sys2Proof.Machine
end

