-- ==== Sys2Proof/Machine/Num.lean ====
section
/-! DEFINITION. The number formats and arithmetic rules of spec/02: exact values, rounding
(R50, R51, R457), F32 and BF16 (R40), blocks (R32, R33), array weight levels (R38, R39),
integer containers (R42), I26 contributions (R43) and grid accumulation (R45, R49). -/

namespace Sys2Proof.Machine

/-- Two to the power `e`. -/
def pow2 (e : Int) : Rat :=
  if 0 ≤ e then ((2 ^ e.toNat : Nat) : Rat) else mkRat 1 (2 ^ (-e).toNat)

/-- The exact magnitude of a rational. -/
def qabs (q : Rat) : Rat := if q < 0 then -q else q

/-- The largest `k` with `2 ^ k ≤ q`, for a positive `q`. -/
def ilog2 (q : Rat) : Int :=
  let k : Int := (Nat.log2 q.num.toNat : Int) - (Nat.log2 q.den : Int)
  if pow2 k ≤ q then k else k - 1

/-- A rounding mode (R50): to nearest-even, toward zero, or stochastic with its random bits. -/
inductive Rnd where
  | rne
  | rtz
  | sr (bits : Nat)
  deriving DecidableEq, Repr

/-- A non-negative magnitude in units of the destination's spacing, rounded (R50, R457). -/
def roundMag (r : Rnd) (m : Rat) : Nat :=
  let lo : Nat := m.floor.toNat
  let fr : Rat := m - (lo : Rat)
  match r with
  | .rtz => lo
  | .rne =>
    if fr < 1 / 2 then lo else if 1 / 2 < fr then lo + 1 else if lo % 2 = 0 then lo else lo + 1
  | .sr bits => if 65536 ≤ (fr * 65536).floor.toNat + bits % 65536 then lo + 1 else lo

/-- A rational rounded to an integer: the sign is kept and the magnitude rounds. -/
def roundInt (r : Rnd) (q : Rat) : Int :=
  if q < 0 then -(roundMag r (-q) : Int) else (roundMag r q : Int)

/-- The value of one element: a NaN, an infinity, minus zero, or an exact number. -/
inductive Val where
  | nan
  | inf (neg : Bool)
  | negZero
  | fin (q : Rat)
  deriving DecidableEq, Repr

namespace Val

/-- NaN or infinite. -/
def nonFinite : Val → Bool
  | .nan => true
  | .inf _ => true
  | .negZero => false
  | .fin _ => false

/-- The number a finite value denotes; zero for the others. -/
def rat : Val → Rat
  | .fin q => q
  | .nan => 0
  | .inf _ => 0
  | .negZero => 0

/-- The sign bit. -/
def neg : Val → Bool
  | .nan => false
  | .inf n => n
  | .negZero => true
  | .fin q => decide (q < 0)

/-- An exact number with the sign a zero takes. -/
def ofRat (q : Rat) (negWhenZero : Bool) : Val :=
  if q = 0 then (if negWhenZero then .negZero else .fin 0) else .fin q

/-- IEEE 754 negation of an exact value. -/
def negate : Val → Val
  | .nan => .nan
  | .inf n => .inf (!n)
  | .negZero => .fin 0
  | .fin q => if q = 0 then .negZero else .fin (-q)

/-- The exact sum (R40): zero sums are +0 unless both are −0. -/
def add : Val → Val → Val
  | .nan, _ => .nan
  | .inf _, .nan => .nan
  | .inf a, .inf b => if a = b then .inf a else .nan
  | .inf a, .negZero => .inf a
  | .inf a, .fin _ => .inf a
  | .negZero, .nan => .nan
  | .negZero, .inf b => .inf b
  | .negZero, .negZero => .negZero
  | .negZero, .fin q => .fin q
  | .fin _, .nan => .nan
  | .fin _, .inf b => .inf b
  | .fin p, .negZero => .fin p
  | .fin p, .fin q => .fin (p + q)

/-- The exact difference. -/
def sub (a b : Val) : Val := a.add b.negate

/-- The value is a zero. -/
def isZero : Val → Bool
  | .negZero => true
  | .fin q => decide (q = 0)
  | .nan => false
  | .inf _ => false

/-- The exact product (R40): the sign of a zero or an infinity is the exclusive or. -/
def mul (a b : Val) : Val :=
  if a = .nan ∨ b = .nan then .nan
  else
    let s := a.neg != b.neg
    if a.nonFinite || b.nonFinite then
      if a.isZero || b.isZero then .nan else .inf s
    else ofRat (a.rat * b.rat) s

/-- The exact multiply-add. -/
def fma (a b c : Val) : Val := (a.mul b).add c

/-- `a` is below `b` in the order of numbers (both zeros equal; false with a NaN). -/
def lt (a b : Val) : Bool :=
  match a, b with
  | .nan, _ => false
  | .inf _, .nan => false
  | .inf n, .inf m => n && !m
  | .inf n, .negZero => n
  | .inf n, .fin _ => n
  | .negZero, .nan => false
  | .negZero, .inf m => !m
  | .negZero, .negZero => false
  | .negZero, .fin q => decide (0 < q)
  | .fin _, .nan => false
  | .fin _, .inf m => !m
  | .fin p, .negZero => decide (p < 0)
  | .fin p, .fin q => decide (p < q)

/-- `a` equals `b` as numbers (both zeros equal; false with a NaN). -/
def eq (a b : Val) : Bool :=
  !(a == .nan) && !(b == .nan) && !a.lt b && !b.lt a

end Val

/-- A result with its two counts: saturated, and non-finite (R54). -/
structure Counted (α : Type) where
  val : α
  sat : Nat := 0
  nf  : Nat := 0
  deriving DecidableEq, Repr

/-! ### Floating formats (R40) -/

/-- The value of a pattern with 8 exponent bits and `f` fraction bits. -/
def floatVal (f p : Nat) : Val :=
  let s := bitOf p (f + 8)
  let e := bitsOf p f 8
  let m := bitsOf p 0 f
  if e = 255 then (if m = 0 then .inf s else .nan)
  else
    let mag : Rat :=
      if e = 0 then (m : Rat) * pow2 (-126 - f) else ((2 ^ f + m : Nat) : Rat) * pow2 (e - 127 - f)
    Val.ofRat (if s then -mag else mag) s

/-- The magnitude pattern of a non-negative number, and whether it left the range. The grid is
continued above the largest finite magnitude with the spacing there (R457). -/
def floatMag (f : Nat) (r : Rnd) (q : Rat) : Nat × Bool :=
  if q = 0 then (0, false)
  else
    let e : Int := max (-126) (min 127 (ilog2 q))
    let p : Nat := (e + 126).toNat * 2 ^ f + roundMag r (q * pow2 (f - e))
    if 255 * 2 ^ f ≤ p then (255 * 2 ^ f - 1, true) else (p, false)

/-- The pattern of a value in a floating format, rounded once; overflow saturates to the
largest finite value (R53), a NaN is the canonical quiet NaN (R40). -/
def floatEnc (f : Nat) (r : Rnd) (v : Val) : Counted Nat :=
  let sgn (n : Bool) : Nat := if n then 2 ^ (f + 8) else 0
  match v with
  | .nan => { val := 255 * 2 ^ f + 2 ^ (f - 1), nf := 1 }
  | .inf n => { val := sgn n + 255 * 2 ^ f, nf := 1 }
  | .negZero => { val := sgn true }
  | .fin q =>
    let m := floatMag f r (qabs q)
    { val := sgn (decide (q < 0)) + m.1, sat := natOfBool m.2 }

/-- Value of an F32 pattern. -/
def f32Val (p : Nat) : Val := floatVal 23 p

/-- Value of a BF16 pattern. -/
def bf16Val (p : Nat) : Val := floatVal 7 p

/-- A value rounded once to F32, as a value. -/
def toF32 (v : Val) : Val := f32Val (floatEnc 23 .rne v).val

/-- A value rounded once to BF16, as a pattern. -/
def toBf16 (v : Val) : Nat := (floatEnc 7 .rne v).val

/-! ### Stochastic rounding (R51, R52) -/

/-- The mixing function of R51, modulo 2 ^ 64. -/
def mix (x : Nat) : Nat :=
  let x := x ^^^ (x / 2 ^ 32)
  let x := x * 0x8b3f5a17c6e924d5 % 2 ^ 64
  let x := x ^^^ (x / 2 ^ 29)
  let x := x * 0xe4a10f937b26c8b1 % 2 ^ 64
  x ^^^ (x / 2 ^ 32)

/-- The generator's bits for one element (R51, R52). -/
def srBits (seed step index handle : Nat) : Nat :=
  let k := mix ((seed % 2 ^ 64) ^^^ (handle % 2 ^ 16 * 2 ^ 48) ^^^ 0x5e5a0001)
  let k := mix (k ^^^ (step % 2 ^ 64))
  mix (k ^^^ (index % 2 ^ 64))

/-- Stochastic rounding of an F32 pattern to BF16, bit for bit (R51). -/
def srRound (p bits : Nat) : Counted Nat :=
  let sgn := if bitOf p 31 then 0x8000 else 0
  let mag := p % 2 ^ 31
  if 0x7f800000 < mag then { val := 0x7fc0, nf := 1 }
  else if mag = 0x7f800000 then { val := sgn + 0x7f80, nf := 1 }
  else
    let q := (mag + bits % 65536) / 65536
    if 0x7f80 ≤ q then { val := sgn + 0x7f7f, sat := 1 } else { val := sgn + q }

/-! ### Blocks (R32, R33) -/

/-- The smallest `e` with `big < c × 2 ^ e`, `c` being 127.5, or 127 under SR. -/
def leastExp (c big : Rat) : Int :=
  let k := ilog2 big - 7
  if big < c * pow2 k then k
  else if big < c * pow2 (k + 1) then k + 1
  else k + 2

/-- The exponent byte a writer chooses for the live values of one block (R33). -/
def chooseExponent (r : Rnd) (vs : List Val) : Nat :=
  if vs.any Val.nonFinite then 0xff
  else
    let big := vs.foldl (fun a v => max a (qabs v.rat)) 0
    if big = 0 then 0
    else
      let c : Rat := match r with
        | .sr _ => 127
        | .rne => 255 / 2
        | .rtz => 255 / 2
      (max (-126) (min 127 (leastExp c big)) + 127).toNat

/-- One mantissa of a block with exponent byte `E`, and whether the clamp changed it (R33). -/
def mantissa (r : Rnd) (E : Nat) (q : Rat) : Int × Bool :=
  let m := roundInt r (q * pow2 (127 - (E : Int)))
  if 127 < m then (127, true) else if m < -127 then (-127, true) else (m, false)

/-- The value of the mantissa byte `m` under the exponent byte `E` (R32). -/
def blockVal (E m : Nat) : Val :=
  if E = 0 then .fin 0
  else if E = 0xff then .nan
  else .fin ((signedOf 8 m : Rat) * pow2 ((E : Int) - 127))

/-- A block's live values written: exponent byte and mantissa bytes, with the counts of R54.
`bits i` is the mode of live element `i`. -/
def encodeBlock (mode : Nat → Rnd) (vs : List Val) : Counted (Nat × List Nat) :=
  let E := chooseExponent (mode 0) vs
  if E = 0xff then { val := (0xff, vs.map (fun _ => 0)), nf := vs.length }
  else if E = 0 then { val := (0, vs.map (fun _ => 0)) }
  else
    let ms := vs.zipIdx.map (fun v => mantissa (mode v.2) E v.1.rat)
    { val := (E, ms.map (fun m => unsignedOf 8 m.1)), sat := ms.countP (fun m => m.2) }

/-! ### Array weights (R38, R39), with levels doubled so that they are integers -/

/-- Twice the level of a 2-bit code; `wt` says ternary. -/
def level2 (wt : Bool) (code : Nat) : Int :=
  if wt then (match code % 4 with | 1 => 2 | 3 => -2 | _ => 0)
  else 2 * ((code % 4 : Nat) : Int) - 3

/-- The code of a finite ratio (R39). -/
def levelCode (wt : Bool) (r : Rat) : Nat :=
  if wt then (if r < -1 / 2 then 3 else if r < 1 / 2 then 0 else 1)
  else (if r < -1 then 0 else if r < 0 then 1 else if r < 1 then 2 else 3)

/-- The ratio is an outlier (R39). -/
def isOutlier (wt : Bool) (r : Rat) : Bool := decide ((if wt then 3 / 2 else 2 : Rat) < qabs r)

/-- The four 2-bit slices of a mantissa, most significant first (R36). -/
def slices (m : Int) : List Int := [m / 64, m / 16 % 4, m / 4 % 4, m % 4]

/-! ### Integers (R42, R53) -/

/-- An integer held to the range of a `w`-bit integer. -/
def saturateInt (signed : Bool) (w : Nat) (z : Int) : Counted Int :=
  let lo : Int := if signed then -(2 ^ (w - 1) : Nat) else 0
  let hi : Int := if signed then ((2 ^ (w - 1) : Nat) : Int) - 1 else ((2 ^ w : Nat) : Int) - 1
  if z < lo then { val := lo, sat := 1 } else if hi < z then { val := hi, sat := 1 }
  else { val := z }

/-- An I26 contribution of a gradient element in a bucket of exponent byte `eb` (R43):
`sat` is the overflow flag's cause and `nf` the non-finite flag's. -/
def toI26 (r : Rnd) (eb : Nat) (v : Val) : Counted Int :=
  if v.nonFinite then { val := 0, nf := 1 }
  else saturateInt true 26 (roundInt r (v.rat * pow2 (152 - (eb : Int))))

/-- The value of an I26 or I40 element of unit 2 ^ (eb − 152) (R30). -/
def unit152 (eb : Nat) (c : Int) : Val := .fin ((c : Rat) * pow2 ((eb : Int) - 152))

/-! ### Grid accumulation (R45, R49) -/

/-- One term of a grid output: the integer product and its exponent; `none` when a block is
non-finite. A term of a zero block is not in the list. -/
structure Term where
  t : Int
  f : Int
  deriving DecidableEq, Repr

/-- The exact value of an output element from its terms, on a window of `win` bits: 16 by
R45, 64 by R49. -/
def gridSum (win : Int) (ts : List Term) : Rat :=
  match ts with
  | [] => 0
  | t0 :: _ =>
    let anchor := ts.foldl (fun a t => max a t.f) t0.f
    let acc := ts.foldl (fun (a : Int) t =>
      let sh := t.f - anchor + win
      if 0 ≤ sh then a + t.t * ((2 ^ sh.toNat : Nat) : Int)
      else a + roundInt .rne ((t.t : Rat) * pow2 sh)) 0
    (acc : Rat) * pow2 (anchor - win)

/-- A factor of a grid term: a mantissa and its exponent, or a zero or non-finite block. -/
inductive Factor where
  | zero
  | bad
  | num (m : Int) (e : Int)
  deriving DecidableEq, Repr

/-- The factor of a block element (R45). -/
def blockFactor (E m : Nat) : Factor :=
  if E = 0 then .zero else if E = 0xff then .bad else .num (signedOf 8 m) ((E : Int) - 127)

/-- The factor of a BF16 master in mode WIDE (R49). -/
def wideFactor (p : Nat) : Factor :=
  let e := bitsOf p 7 8
  let m := bitsOf p 0 7
  if e = 255 then .bad
  else
    let s : Int := if bitOf p 15 then -1 else 1
    if e = 0 then .num (s * (m : Int)) (1 - 134) else .num (s * ((128 + m : Nat) : Int)) ((e : Int) - 134)

/-- The value of one output element from its pairs of factors (R45, R49, R55). -/
def gridOutput (win : Int) (ps : List (Factor × Factor)) : Val :=
  if ps.any (fun p => p.1 == .bad || p.2 == .bad) then .nan
  else
    .fin (gridSum win (ps.filterMap (fun p =>
      match p with
      | (.num a e, .num b f) => some { t := a * b, f := e + f }
      | (.zero, _) => none
      | (.bad, _) => none
      | (.num _ _, .zero) => none
      | (.num _ _, .bad) => none)))

end Sys2Proof.Machine
end

