-- ==== Sys2Proof/Machine/Operands.lean ====
section
/-! DEFINITION. Every operand form: instruction records (R248), descriptors (R68 to R70), tensors in
each location, element by element, and the storage that an operand names (R75). -/

namespace Sys2Proof.Machine

/-! ### Records and descriptors as bytes -/

/-- The 32 bytes of a record, read (R248). -/
def Rec.ofBytes (b : List Byte) : Rec :=
  let w := leNat b
  { opcode := bitsOf w 0 12, iclass := bitsOf w 12 4, flags := bitsOf w 16 8, imm0 := bitsOf w 24 8,
    wait := bitsOf w 32 16, signal := bitsOf w 48 16, h0 := bitsOf w 64 16, h1 := bitsOf w 80 16,
    h2 := bitsOf w 96 16, h3 := bitsOf w 112 16, imm1 := bitsOf w 128 64, imm2 := bitsOf w 192 64 }

/-- The bytes of a record. -/
def Rec.bytes (r : Rec) : List Byte :=
  leBytes 2 (r.opcode + 4096 * r.iclass) ++ leBytes 1 r.flags ++ leBytes 1 r.imm0 ++
  leBytes 2 r.wait ++ leBytes 2 r.signal ++ leBytes 2 r.h0 ++ leBytes 2 r.h1 ++ leBytes 2 r.h2 ++
  leBytes 2 r.h3 ++ leBytes 8 r.imm1 ++ leBytes 8 r.imm2

/-- ICLASS and OPCODE together, as one number. -/
def Rec.op (r : Rec) : Nat := r.opcode + 4096 * r.iclass

/-- The 64 bytes of a descriptor, read (R68). -/
def Desc.ofBytes (b : List Byte) : Desc :=
  let w := leNat b
  { format := bitsOf w 0 8, loc := bitsOf w 8 3, ndim := bitsOf w 11 3, block := bitsOf w 14 2,
    scale := bitsOf w 16 2, valid := bitOf w 18, autoalloc := bitOf w 19, spill := bitOf w 20,
    bound := bitOf w 21, spilled := bitOf w 22, freed := bitOf w 23, fixedE := bitsOf w 24 8,
    base := bitsOf w 32 48,
    stride := [bitsOf w 80 16, bitsOf w 256 32, bitsOf w 288 32, bitsOf w 320 32, bitsOf w 352 32],
    ext := [bitsOf w 96 32, bitsOf w 128 32, bitsOf w 160 32, bitsOf w 192 32, bitsOf w 224 32],
    expOff := signedOf 32 (bitsOf w 384 32),
    expStride := [bitsOf w 416 24, bitsOf w 440 24, bitsOf w 464 24, bitsOf w 488 24] }

/-- Element `k` of a list of numbers; 0 beyond its end. -/
def nth (l : List Nat) (k : Nat) : Nat := l.getD k 0

/-- The bytes of a descriptor. -/
def Desc.bytes (d : Desc) : List Byte :=
  leBytes 1 d.format ++ leBytes 1 (d.loc + 8 * d.ndim + 64 * d.block) ++
  leBytes 1 (d.scale + 4 * natOfBool d.valid + 8 * natOfBool d.autoalloc + 16 * natOfBool d.spill +
    32 * natOfBool d.bound + 64 * natOfBool d.spilled + 128 * natOfBool d.freed) ++
  leBytes 1 d.fixedE ++ leBytes 6 d.base ++ leBytes 2 (nth d.stride 0) ++
  leBytes 4 (nth d.ext 0) ++ leBytes 4 (nth d.ext 1) ++ leBytes 4 (nth d.ext 2) ++
  leBytes 4 (nth d.ext 3) ++ leBytes 4 (nth d.ext 4) ++
  leBytes 4 (nth d.stride 1) ++ leBytes 4 (nth d.stride 2) ++ leBytes 4 (nth d.stride 3) ++
  leBytes 4 (nth d.stride 4) ++ leBytes 4 (unsignedOf 32 d.expOff) ++
  leBytes 3 (nth d.expStride 0) ++ leBytes 3 (nth d.expStride 1) ++ leBytes 3 (nth d.expStride 2) ++
  leBytes 3 (nth d.expStride 3)

/-! ### Formats (R30) -/

/-- Bits of storage per element (R30). -/
def fmtBits (f : Nat) : Nat :=
  if f = 0 ∨ f = 7 ∨ f = 9 ∨ f = 0xc then 32
  else if f = 1 ∨ f = 0xa ∨ f = 0xd then 16
  else if f = 8 ∨ f = 0x12 then 64
  else if f = 5 ∨ f = 6 ∨ f = 0x11 then 2
  else if f = 0xf ∨ f = 0x10 then 4
  else 8

/-- A listed format code. -/
def fmtListed (f : Nat) : Bool := decide (f ≤ 0x12)
/-- A8, G8 or W8. -/
def fmtBlock (f : Nat) : Bool := f == 2 || f == 3 || f == 4
/-- A packed format of 2 or 4 bits. -/
def fmtPacked (f : Nat) : Bool := decide (fmtBits f < 8)
/-- An integer format of the table, I26 and I40 apart. -/
def fmtInt (f : Nat) : Bool := decide (9 ≤ f) && decide (f ≤ 0x12)
/-- A signed integer format. -/
def fmtSigned (f : Nat) : Bool := f == 9 || f == 0xa || f == 0xb || f == 0xf
/-- A format of the floating class of R172. -/
def fmtFloat (f : Nat) : Bool := f == 0 || f == 1 || fmtBlock f

/-! ### Layout (R34, R70) -/

/-- The block size of a descriptor. -/
def Desc.B (d : Desc) : Nat := 16 * 2 ^ d.block

/-- The number of elements. -/
def Desc.count (d : Desc) : Nat := (d.ext.take d.ndim).foldl (fun a e => a * e) 1

/-- The extent of dimension `i`, 1 for an unused one. -/
def Desc.e (d : Desc) (i : Nat) : Nat := if i < d.ndim then nth d.ext i else 1

/-- Blocks along dimension 0. -/
def Desc.blocks0 (d : Desc) : Nat := (d.e 0 + d.B - 1) / d.B

/-- EXTENT0, rounded up to whole blocks for a block format. -/
def Desc.width0 (d : Desc) : Nat := if fmtBlock d.format then d.blocks0 * d.B else d.e 0

/-- The strides of the compact layout of R70. -/
def Desc.compactStride (d : Desc) : List Nat :=
  let s1 := d.width0
  let s2 := s1 * d.e 1
  let s3 := s2 * d.e 2
  let s4 := s3 * d.e 3
  let keep (i v : Nat) : Nat := if i < d.ndim then v else 0
  [1, keep 1 s1, keep 2 s2, keep 3 s3, keep 4 s4]

/-- Elements of storage of the compact layout. -/
def Desc.compactElems (d : Desc) : Nat := d.width0 * d.e 1 * d.e 2 * d.e 3 * d.e 4

/-- Bytes of the compact mantissas or elements. -/
def Desc.bodyBytes (d : Desc) : Nat := (d.compactElems * fmtBits d.format + 7) / 8

/-- Bytes of the exponent plane. -/
def Desc.planeBytes (d : Desc) : Nat :=
  if fmtBlock d.format then d.blocks0 * d.e 1 * d.e 2 * d.e 3 * d.e 4 else 0

/-- The next multiple of `m`. -/
def roundUp (x m : Nat) : Nat := (m - 1 + x) / m * m

/-- Bytes of the whole tensor in compact layout (R70). -/
def Desc.compactBytes (d : Desc) : Nat :=
  if fmtBlock d.format then roundUp d.bodyBytes 64 + d.planeBytes else d.bodyBytes

/-- The descriptor with the compact layout filled in (R70). -/
def Desc.compact (d : Desc) : Desc :=
  let keep (i v : Nat) : Nat := if i < d.ndim then v else 0
  let p1 := d.blocks0
  let p2 := p1 * d.e 1
  let p3 := p2 * d.e 2
  let p4 := p3 * d.e 3
  if fmtBlock d.format then
    { d with stride := d.compactStride, expOff := (roundUp d.bodyBytes 64 : Nat),
             expStride := [keep 1 p1, keep 2 p2, keep 3 p3, keep 4 p4] }
  else { d with stride := d.compactStride, expOff := 0, expStride := [0, 0, 0, 0] }

/-- The layout by which a tensor is read: its own, or the compact one where BASE names no bytes
(R69); a frame begins at byte 0 of its storage. -/
def Desc.layout (d : Desc) : Desc :=
  if d.loc = 3 then { d.compact with base := 0 }
  else if 4 ≤ d.loc then d.compact else d

/-- The indices of flat element `k`, dimension 0 fastest. -/
def Desc.idx (d : Desc) (k : Nat) : List Nat :=
  let i0 := k % d.e 0
  let r := k / d.e 0
  let i1 := r % d.e 1
  let r := r / d.e 1
  let i2 := r % d.e 2
  let r := r / d.e 2
  [i0, i1, i2, r % d.e 3, r / d.e 3]

/-- The element offset of flat element `k` under the descriptor's strides. -/
def Desc.off (d : Desc) (k : Nat) : Nat :=
  ((d.idx k).zip d.stride).foldl (fun a p => a + p.1 * p.2) 0

/-- The byte offset, from BASE, of the exponent of flat element `k`. -/
def Desc.expAt (d : Desc) (k : Nat) : Int :=
  let ix := d.idx k
  d.expOff + ((nth ix 0 / d.B + ((ix.drop 1).zip d.expStride).foldl (fun a p => a + p.1 * p.2) 0 : Nat) : Int)

/-- The byte address of the exponent of flat element `k`. -/
def Desc.expAddr (d : Desc) (k : Nat) : Nat := ((d.base : Int) + d.expAt k).toNat

/-- A dimension along which a source is broadcast (R169): a zero stride of a tensor in memory. -/
def Desc.broadcast (d : Desc) (k : Nat) : Bool := decide (d.loc ≤ 2) && nth d.stride k == 0

/-! ### Reading elements -/

/-- The space number of a location that lies in memory (R183's numbers). -/
def locSpace (loc : Nat) : Nat := if loc = 0 then 0 else if loc = 1 then 1 else 2

/-- A valley frame. -/
def State.frame (s : State) (n : Nat) : Option Frame := mget n s.val.frames

/-- One byte of an operand at byte address `a` of its layout. -/
def State.opByte (s : State) (d : Desc) (a : Nat) : Byte :=
  if d.loc = 3 then (match s.frame (d.base % 2 ^ 32) with
    | some f => f.data.getD a 0
    | none => 0)
  else s.rd (locSpace d.loc) a

/-- `w` bits at bit address `b` of an operand. -/
def State.opBits (s : State) (d : Desc) (b w : Nat) : Nat :=
  if w < 8 then bitsOf (s.opByte d (b / 8)).toNat (b % 8) w
  else leNat ((List.range (w / 8)).map (fun i => s.opByte d (b / 8 + i)))

/-- The committed parameter of the seesaw at offset `p` (R71); bit pattern of a BF16. -/
def State.master (s : State) (p : Nat) : Nat :=
  (mget p (if s.fb F.colEpochSel then s.seesaw.epoch1 else s.seesaw.epoch0)).getD 0

/-- The raw bits of flat element `k` of an operand. -/
def State.elem (s : State) (d : Desc) (k : Nat) : Nat :=
  if d.loc = 5 then s.master (d.base + k)
  else
    let l := d.layout
    s.opBits d (l.base * 8 + l.off k * fmtBits d.format) (fmtBits d.format)

/-- The exponent byte of flat element `k` of a block operand. -/
def State.elemExp (s : State) (d : Desc) (k : Nat) : Nat := (s.opByte d (d.layout.expAddr k)).toNat

/-- The value of raw bits in a format; `eb` is the exponent of I26 and I40 (R30). -/
def rawVal (fmt eb raw : Nat) : Val :=
  if fmt = 0 then f32Val raw
  else if fmt = 1 then bf16Val raw
  else if fmt = 7 then unit152 eb (signedOf 26 raw)
  else if fmt = 8 then unit152 eb (signedOf 40 raw)
  else if fmtSigned fmt then .fin (signedOf (fmtBits fmt) raw)
  else .fin (raw % 2 ^ fmtBits fmt : Nat)

/-- The value of flat element `k`. -/
def State.elemVal (s : State) (d : Desc) (eb k : Nat) : Val :=
  if fmtBlock d.format then blockVal (s.elemExp d k) (s.elem d k) else rawVal d.format eb (s.elem d k)

/-- The values of an operand, in descriptor order. -/
def State.vals (s : State) (d : Desc) (eb : Nat) : List Val :=
  (List.range d.count).map (s.elemVal d eb)

/-! ### Writing elements -/

/-- The raw bits of a value written to a format that is no block format, with its counts. -/
def encElem (fmt eb : Nat) (r : Rnd) (v : Val) : Counted Nat :=
  if fmt = 0 then floatEnc 23 r v
  else if fmt = 1 then floatEnc 7 r v
  else if fmt = 7 then
    let c := toI26 r eb v
    { val := unsignedOf 32 c.val, sat := c.sat, nf := c.nf }
  else
    let w := fmtBits fmt
    match v with
    | .nan => { val := 0, nf := 1 }
    | .inf n => { val := unsignedOf w (saturateInt (fmtSigned fmt) w (if n then -(2 ^ 64) else 2 ^ 64)).val, nf := 1 }
    | .negZero => { val := 0 }
    | .fin q =>
      let c := saturateInt (fmtSigned fmt) w (roundInt r q)
      { val := unsignedOf w c.val, sat := c.sat }

/-- A block written under SCALE FIXED: the exponent is given (R68). -/
def encodeFixed (E : Nat) (mode : Nat → Rnd) (vs : List Val) : Counted (Nat × List Nat) :=
  if vs.any Val.nonFinite || E == 0xff then { val := (0xff, vs.map (fun _ => 0)), nf := vs.length }
  else if E = 0 then { val := (0, vs.map (fun _ => 0)) }
  else
    let ms := vs.zipIdx.map (fun v => mantissa (mode v.2) E v.1.rat)
    { val := (E, ms.map (fun m => unsignedOf 8 m.1)), sat := ms.countP (fun m => m.2) }

/-- `w` bits of value `v` written at bit address `b`. -/
def State.wrBits (s : State) (space b w v : Nat) : State :=
  if w < 8 then s.wr space (b / 8) (BitVec.ofNat 8 (setBits (s.rd space (b / 8)).toNat (b % 8) w v))
  else s.wrBytes space (b / 8) (leBytes (w / 8) v)

/-- Raw elements written to an operand in memory from flat element `k` on. -/
def State.wrElems (s : State) (d : Desc) (k : Nat) : List Nat → State
  | [] => s
  | v :: r =>
    (s.wrBits (locSpace d.loc) (d.base * 8 + d.off k * fmtBits d.format) (fmtBits d.format) v).wrElems
      d (k + 1) r

/-- A block's exponent, mantissas and padding written; `k` is its first flat element (R34). -/
def State.wrBlock (s : State) (d : Desc) (k : Nat) (b : Nat × List Nat) : State :=
  let space := locSpace d.loc
  let a := d.base + d.off k
  (s.wrBytes space a ((b.2 ++ List.replicate (d.B - b.2.length) 0).map (BitVec.ofNat 8))).wr
    space (d.expAddr k) (BitVec.ofNat 8 b.1)

/-- Values cut into the blocks of rows of `n` elements, with the flat index of each block's
first element. -/
def cutBlocks (B n : Nat) (vs : List Val) : List (Nat × List Val) :=
  let rows := vs.length / n
  let per := (n + B - 1) / B
  (List.range (rows * per)).map (fun j =>
    let k := j / per * n + j % per * B
    (k, (vs.drop k).take (min B (n - j % per * B))))

/-- Values rounded to a descriptor's format; `mode k` is the mode of flat element `k` (R33, R50). -/
def encodeVals (d : Desc) (eb : Nat) (mode : Nat → Rnd) (vs : List Val) : Encoded :=
  if fmtBlock d.format then
    let bs := (cutBlocks d.B (d.e 0) vs).map (fun b =>
      let m := fun i => mode (b.1 + i)
      (b.1, if d.scale = 1 then encodeFixed d.fixedE m b.2 else encodeBlock m b.2))
    { blocks := bs.map (fun b => (b.1, b.2.val)), sat := (bs.map (fun b => b.2.sat)).sum,
      nf := (bs.map (fun b => b.2.nf)).sum }
  else
    let es := vs.zipIdx.map (fun v => encElem d.format eb (mode v.2) v.1)
    { elems := es.map (fun e => e.val), sat := (es.map (fun e => e.sat)).sum,
      nf := (es.map (fun e => e.nf)).sum }

/-- The values an encoding stands for, in flat order. -/
def Encoded.vals (e : Encoded) (d : Desc) (eb : Nat) : List Val :=
  if fmtBlock d.format then e.blocks.flatMap (fun b => b.2.2.map (blockVal b.2.1))
  else e.elems.map (rawVal d.format eb)

/-- The byte at address `a` holds an element, a padding mantissa or an exponent of the tensor. -/
def Desc.touches (d : Desc) (a : Nat) : Bool :=
  let w := fmtBits d.format
  (List.range d.count).any (fun k =>
    let lo := (d.base * 8 + d.off k * w) / 8
    if fmtBlock d.format then
      (k % d.e 0 % d.B == 0 && decide (lo ≤ a) && decide (a < lo + d.B)) || a == d.expAddr k
    else decide (lo ≤ a) && decide (a < lo + (w + 7) / 8))

/-- A tensor was written whole: the poison of every line it covers whole is gone (R348). -/
def State.coverLines (s : State) (d : Desc) : State :=
  if s.poison.isEmpty then s
  else { s with poison := s.poison.filter (fun p =>
    !(p.1 == locSpace d.loc && (List.range 64).all (fun j => d.touches (p.2.1 * 64 + j)))) }

/-- An encoding written to a destination in memory, whole within one command: a read that no token orders against it
finds only old bytes or only new ones, where R57 allows any mixture (DESIGN CHOICE, notes/assumptions). -/
def State.wrEncoded (s : State) (d : Desc) (e : Encoded) : State :=
  (if fmtBlock d.format then e.blocks.foldl (fun t b => t.wrBlock d b.1 b.2) s
   else s.wrElems d 0 e.elems).coverLines d

/-- Of an encoding, the elements of which `p` holds written to a destination in memory; `p` takes whole blocks. -/
def State.wrPart (s : State) (d : Desc) (e : Encoded) (p : Nat → Bool) : State :=
  if fmtBlock d.format then (e.blocks.filter (fun b => p b.1)).foldl (fun t b => t.wrBlock d b.1 b.2) s
  else (e.elems.zipIdx.filter (fun v => p v.2)).foldl (fun t v => t.wrElems d v.2 [v.1]) s

/-- The bytes of an encoding in the compact layout, for a valley frame (R151). -/
def Encoded.frameBytes (e : Encoded) (d : Desc) : List Byte :=
  if fmtBlock d.format then
    let body := e.blocks.flatMap (fun b =>
      (b.2.2 ++ List.replicate (d.B - b.2.2.length) 0).map (BitVec.ofNat 8))
    body ++ List.replicate (roundUp d.bodyBytes 64 - d.bodyBytes) 0 ++
      e.blocks.map (fun b => BitVec.ofNat 8 b.2.1)
  else e.elems.flatMap (fun v => leBytes (fmtBits d.format / 8) v)

/-! ### Storage named by an operand (R75) -/

/-- The byte ranges of a tensor in memory: its elements, and its exponent plane. -/
def Desc.ranges (d : Desc) : List (Nat × Nat) :=
  let span (ss : List Nat) (es : List Nat) : Nat :=
    (ss.zip es).foldl (fun a p => a + p.1 * (p.2 - 1)) 0
  let last := span d.stride [d.width0, d.e 1, d.e 2, d.e 3, d.e 4]
  let body := (d.base, d.base + ((last + 1) * fmtBits d.format + 7) / 8)
  if fmtBlock d.format then
    let p := ((d.base : Int) + d.expOff).toNat
    [body, (p, p + span d.expStride [d.e 1, d.e 2, d.e 3, d.e 4] + d.blocks0)]
  else [body]

/-- The storage a descriptor names (R75); a layer that is not placed is none. -/
def Desc.stor (d : Desc) : List Stor :=
  if d.loc = 3 then [.frame (d.base % 2 ^ 32)]
  else if d.loc = 4 then (if d.bound then [.layer (d.base % 2 ^ 16)] else [])
  else if d.loc = 5 then [.params d.base (d.base + d.count)]
  else d.ranges.map (fun r => .bytes (locSpace d.loc) r.1 r.2)

/-- Two pieces of storage overlap; `masters h` is the range of offsets of layer `h` (R75). -/
def Stor.overlaps (masters : Nat → Option (Nat × Nat)) (a b : Stor) : Bool :=
  match a, b with
  | .bytes x l h, .bytes y m k => x == y && decide (l < k) && decide (m < h)
  | .bytes _ _ _, .frame _ => false
  | .bytes _ _ _, .layer _ => false
  | .bytes _ _ _, .params _ _ => false
  | .frame x, .frame y => x == y
  | .frame _, .bytes _ _ _ => false
  | .frame _, .layer _ => false
  | .frame _, .params _ _ => false
  | .layer x, .layer y => x == y
  | .layer x, .params l h => (match masters x with
    | some r => decide (r.1 < h) && decide (l < r.2)
    | none => false)
  | .layer _, .bytes _ _ _ => false
  | .layer _, .frame _ => false
  | .params l h, .params m k => decide (l < k) && decide (m < h)
  | .params l h, .layer x => (match masters x with
    | some r => decide (r.1 < h) && decide (l < r.2)
    | none => false)
  | .params _ _, .bytes _ _ _ => false
  | .params _ _, .frame _ => false

/-- Two operands in memory overlap in byte ranges (R170, R271). -/
def Desc.overlaps (a b : Desc) : Bool :=
  a.stor.any (fun x => b.stor.any (fun y => x.overlaps (fun _ => none) y))

/-! ### Descriptor checks (R69) -/

/-- The checks of R69 that do not depend on how the tensor is used. Of BASE, the bits above the frame number (LOC valley)
and above the layer handle (LOC layer) have no meaning in R68 and no check in R69: they are ignored (DESIGN CHOICE,
notes/assumptions). -/
def Desc.checked (d : Desc) : Bool :=
  let used (l : List Nat) : List Nat := l.take d.ndim
  let blk := fmtBlock d.format
  let named := decide (d.loc ≤ 2)
  let strides := d.stride.drop 1
  fmtListed d.format && decide (d.loc ≤ 5) && decide (d.scale ≤ 1) &&
  (blk || (d.block == 0 && d.scale == 0 && d.expOff == 0 && d.expStride.all (· == 0))) &&
  (d.scale == 1 || d.fixedE == 0) &&
  decide (1 ≤ d.ndim) && decide (d.ndim ≤ 5) &&
  (used d.ext).all (fun e => decide (1 ≤ e)) && (d.ext.drop d.ndim).all (· == 0) &&
  (d.stride.drop d.ndim).all (· == 0) && (d.expStride.drop (d.ndim - 1)).all (· == 0) &&
  !d.spilled &&
  (if d.autoalloc then
     decide (d.loc ≤ 1) && d.base == 0 && d.stride.all (· == 0) && d.expOff == 0 &&
     d.expStride.all (· == 0)
   else if named then
     (!blk || (nth d.stride 0 == 1 && (strides.take (d.ndim - 1)).all (fun x => x % d.B == 0))) &&
     (!fmtPacked d.format || (nth d.stride 0 == 1 &&
       (strides.take (d.ndim - 1)).all (fun x => x * fmtBits d.format % 8 == 0))) &&
     (if blk || fmtPacked d.format then d.base % 64 == 0 else d.base % (fmtBits d.format / 8) == 0) &&
     d.ranges.all (fun r => decide (r.2 ≤ spaceLimit (locSpace d.loc))) &&
     decide (0 ≤ (d.base : Int) + d.expOff)
   else d.stride.all (· == 0) && d.expOff == 0 && d.expStride.all (· == 0)) &&
  (d.loc != 4 || ((d.format == 5 || d.format == 6) && d.ndim == 2)) &&
  (d.loc != 5 || d.format == 1) &&
  (d.loc != 3 || decide (d.base % 2 ^ 32 ≤ 65535))

/-- A tensor written by an instruction has no zero stride (R69). -/
def Desc.destOk (d : Desc) : Bool :=
  decide (3 ≤ d.loc) || (d.stride.take d.ndim).all (fun x => decide (1 ≤ x))

/-- A tensor lies in the compact layout of R70 (R296). -/
def Desc.isCompact (d : Desc) : Bool := d.stride == d.compactStride

end Sys2Proof.Machine
end

