-- ==== Sys2Proof/Machine/Flags.lean ====
section
/-! DEFINITION. Status codes (R255, R256) and the counts a completion
carries (R54). -/

namespace Sys2Proof.Machine

/-- Status codes of R255. -/
def stOk : Nat := 0x00
def stOkSpilled : Nat := 0x01
def stRecordInvalid : Nat := 0x10
def stDescInvalid : Nat := 0x11
def stDescUnbound : Nat := 0x12
def stOperandFormat : Nat := 0x13
def stShapeMismatch : Nat := 0x14
def stOperandAlias : Nat := 0x15
def stChainInvalid : Nat := 0x16
def stFtqInvalid : Nat := 0x17
def stRowLength : Nat := 0x18
def stReduceLength : Nat := 0x19
def stIndexRange : Nat := 0x1a
def stSegmentInvalid : Nat := 0x1b
def stImmInvalid : Nat := 0x1c
def stDepFailed : Nat := 0x20
def stMemFull : Nat := 0x21
def stValleyFull : Nat := 0x22
def stValleyEmpty : Nat := 0x23
def stFrameExists : Nat := 0x24
def stSeesawBusy : Nat := 0x25
def stPlaceNospace : Nat := 0x28
def stPlaceNohandle : Nat := 0x29
def stLayerUnprogrammed : Nat := 0x2a
def stBucketInvalid : Nat := 0x2b
def stMovBad : Nat := 0x30
def stMovChain : Nat := 0x31
def stHwUnavailable : Nat := 0x38
def stNotPermitted : Nat := 0x39
def stCheckFailed : Nat := 0x3a

/-- A success status (R256). -/
def isSuccess (st : Nat) : Bool := decide (st < 0x10)

/-- A count held to 0xffff_ffff (R54). -/
def cap32 (n : Nat) : Nat := min 0xffffffff n

/-- The first of a list of checks that fails gives the status; none failing gives OK. -/
def firstFail : List (Bool × Nat) → Nat
  | [] => stOk
  | c :: r => if c.1 then firstFail r else c.2

/-- An instruction that ends with a status. -/
def Inst.end_ (i : Inst) (st : Nat) : Inst := { i with phase := .done, status := st }

/-- An instruction executed: its counts and result, OK or OK_SPILLED by its binds (R81). -/
def Inst.finish (i : Inst) (sat nf result : Nat) : Inst :=
  { i with phase := .done, status := if i.spilled then stOkSpilled else stOk,
           sat := cap32 sat, nf := cap32 nf, result := result }

/-- The 32 bytes of a completion record (R253). `phase` is PHASE, `step` STEP, `time` TIME. -/
def completionRecord (i : Inst) (phase : Bool) (step time : Nat) : List Byte :=
  leBytes 2 i.index ++ leBytes 1 (i.queue % 64 + 128 * natOfBool phase) ++ leBytes 1 i.status ++
  leBytes 2 i.code.op ++ leBytes 2 i.code.signal ++ leBytes 4 i.sat ++ leBytes 4 i.nf ++
  leBytes 4 step ++ leBytes 4 time ++ leBytes 8 i.result

end Sys2Proof.Machine
end

