-- ==== Sys2Proof/Machine/Alloc.lean ====
section
/-! DEFINITION. The hardware managers of R81: scratchpad and heap allocators, the valley pager
(R154 to R156) and the side memory (R164). -/

namespace Sys2Proof.Machine

/-! ### Finding room -/

/-- A range of `size` bytes at `b` is on the granule, inside the limits and free. -/
def fitsAt (lo hi gran size : Nat) (used : List (Nat × Nat)) (b : Nat) : Bool :=
  decide (lo ≤ b) && decide (b + size ≤ hi) && b % gran == 0 &&
  used.all (fun u => decide (u.1 + u.2 ≤ b) || decide (b + size ≤ u.1))

/-- A place for `size` bytes: the implementation's own choice where that fits, else the first free
place. `used` lists base and size of what is taken. -/
def findRoom (hint lo hi gran size : Nat) (used : List (Nat × Nat)) : Option Nat :=
  (hint :: lo :: used.map (fun u => roundUp (u.1 + u.2) gran)).find? (fitsAt lo hi gran size used)

/-- Bytes of a valley page. -/
def pageBytes : Nat := 0x200000

/-- The page lies on chip, or is on its way there. -/
def PageAt.chipBase : PageAt → Option Nat
  | .chip b => some b
  | .toChip b => some b
  | .hbm => none

/-- The page takes a slot of the HBM quota: it lies there, or is being read from there (R155). -/
def PageAt.inHbm : PageAt → Bool
  | .chip _ => false
  | .toChip _ => true
  | .hbm => true

/-- Valley pages in scratchpad, and in the HBM quota. -/
def State.chipPages (s : State) : Nat := s.val.pages.countP (fun p => p.2.chipBase.isSome)
def State.hbmPages (s : State) : Nat := s.val.pages.countP (fun p => p.2.inHbm)

/-- Ranges of scratchpad that are taken. -/
def State.scratchUsed (s : State) : List (Nat × Nat) :=
  s.sch.scratchAllocs.map (fun a => (a.base, a.size)) ++
  s.val.pages.filterMap (fun p => p.2.chipBase.map (fun b => (b, pageBytes)))

/-- Room in scratchpad, on 4 KiB pages. -/
def State.scratchRoom (s : State) (size : Nat) : Option Nat :=
  findRoom (Config.allocHint s.freeCtr) 0 scratchTop 4096 size s.scratchUsed

/-- The oldest valley page on chip: its sequence number and place. -/
def State.oldestChip (s : State) : Option (Nat × Nat) :=
  s.val.pages.findSome? (fun p => match p.2 with
    | .chip b => some (p.1, b)
    | .hbm => none
    | .toChip _ => none)

/-- The oldest on-chip page written to the HBM quota, when that has room. -/
def State.evictOldest (s : State) : Option (State × Nat) :=
  match s.oldestChip with
  | some (q, b) =>
    if s.hbmPages < s.val.hbmQuota then
      some ({ s with val := { s.val with pages := mput q .hbm s.val.pages } }, b)
    else none
  | none => none

/-- Room in scratchpad, evicting valley pages oldest first while there is none; the evictions stand although they
were not enough (R81). -/
def State.makeRoom (s : State) (size : Nat) : Nat → State × Option Nat
  | 0 => (s.tick, s.scratchRoom size)
  | k + 1 =>
    match s.scratchRoom size with
    | some b => (s.tick, some b)
    | none => (match s.evictOldest with
      | some (t, _) => t.makeRoom size k
      | none => (s, none))

/-- Bytes of the heap that are free (R82, R88). -/
def State.heapFree (s : State) : Nat :=
  s.load.heapSize - s.sch.reserved - (s.sch.heapAllocs.map (fun a => a.size)).sum -
    s.val.hbmQuota * pageBytes

/-- Room in the HBM heap, on granules of 64 KiB. -/
def State.heapRoom (s : State) (size : Nat) : Option Nat :=
  if size ≤ s.heapFree then
    findRoom (Config.allocHint s.freeCtr) s.load.heapBase
      (s.load.heapBase + s.load.heapSize - s.sch.reserved) 65536 size
      (s.sch.heapAllocs.map (fun a => (a.base, a.size)))
  else none

/-- An allocation that found no room: counted and reported (R81). -/
def State.memFull (s : State) (size : Nat) : State :=
  (s.addF F.memFailCount 1).ev 0xb001 unitSched 0 size

/-- A push that found no room: counted (R81, R88). -/
def State.valleyFull (s : State) : State := s.addF F.memFailCount 1

/-- Storage for a descriptor taken from the HBM heap. -/
def State.heapFor (s : State) (h : Nat) (d : Desc) (sp : Bool) : State × Option Desc :=
  let size := roundUp (max 1 d.compactBytes) 65536
  match s.heapRoom size with
  | some b => ({ s.tick with sch := { s.tick.sch with
      heapAllocs := s.sch.heapAllocs ++ [{ handle := h, base := b, size := size }] } },
      some { d.compact with base := b, loc := 1, spilled := sp, bound := true })
  | none => (s, none)

/-- Storage taken for a descriptor with AUTOALLOC (R70, R81): the descriptor as bound, or none where the managers are
full; pages evicted on the way stay evicted. -/
def State.allocFor (s : State) (h : Nat) (d : Desc) : State × Option Desc :=
  let size := roundUp (max 1 d.compactBytes) 4096
  if d.loc = 1 then s.heapFor h d false
  else
    let r := s.makeRoom size s.val.pages.length
    match r.2 with
    | some b => ({ r.1 with sch := { r.1.sch with
        scratchAllocs := r.1.sch.scratchAllocs ++ [{ handle := h, base := b, size := size }] } },
        some { d.compact with base := b, bound := true })
    | none => if d.spill then r.1.heapFor h d true else (r.1, none)

/-- The storage of a handle released (R82). -/
def State.freeStorage (s : State) (h : Nat) : State :=
  { s with sch := { s.sch with
      scratchAllocs := s.sch.scratchAllocs.filter (fun a => a.handle != h),
      heapAllocs := s.sch.heapAllocs.filter (fun a => a.handle != h) } }

/-! ### The valley -/

/-- Page `q` for a push (R154). -/
def State.addPage (s : State) (q : Nat) : Option State :=
  let put (t : State) (p : PageAt) : State := { t with val := { t.val with pages := mput q p t.val.pages } }
  let room := if s.chipPages < min 128 s.val.chipQuota then s.scratchRoom pageBytes else none
  match room with
  | some b => some (put s.tick (.chip b))
  | none =>
    if s.oldestChip.isSome then (s.evictOldest).map (fun e => put e.1 (.chip e.2))
    else if s.hbmPages < s.val.hbmQuota then some (put s .hbm)
    else none

/-- Pages `q`, `q` + 1 and so on, as many as asked. -/
def State.growPages (s : State) (q : Nat) : Nat → Option State
  | 0 => some s
  | k + 1 => match s.addPage q with
    | some t => t.growPages (q + 1) k
    | none => none

/-- The pages that the first `n` bytes of the run reach into. -/
def pagesTo (n : Nat) : Nat := (pageBytes - 1 + n) / pageBytes

/-- Storage for a frame of `bytes` bytes: the state and the frame's first byte (R154). Of a frame that the quotas cannot
take, no page is taken or moved (DESIGN CHOICE). -/
def State.takeFrame (s : State) (bytes : Nat) : Option (State × Nat) :=
  let start := roundUp s.val.fill 64
  let old := pagesTo s.val.fill
  (s.growPages old (pagesTo (start + bytes) - old)).map (fun t =>
    ({ t with val := { t.val with fill := start + bytes } }, start))

/-- Bytes of the frames that lie in valley pages. -/
def State.heldBytes (s : State) : Nat :=
  ((s.val.frames.filter (fun f => !f.2.side)).map (fun f => f.2.bytes)).sum

/-- The largest bytes held at once, brought up to date (R168). -/
def State.notePeak (s : State) : State :=
  { s with val := { s.val with peak := max s.val.peak s.heldBytes } }

/-- A frame entered under its number. -/
def State.putFrame (s : State) (n : Nat) (f : Frame) : State :=
  { s with val := { s.val with frames := mput n f s.val.frames } }

/-- The outcome of asking for a new frame. -/
inductive Pushed where
  | made (s : State)
  | failed (status : Nat)

/-- Instruction `id` takes frame `n` with compact storage for `d` (R151 to R154): FRAME_EXISTS, VALLEY_FULL, or
the frame PENDING. -/
def State.pushFrame (s : State) (id n : Nat) (d : Desc) : Pushed :=
  match s.frame n with
  | some _ => .failed stFrameExists
  | none =>
    match s.takeFrame d.compactBytes with
    | none => .failed stValleyFull
    | some (t, start) =>
      .made (({ t with val := { t.val with nextSeq := t.val.nextSeq + 1 } }).putFrame n
        { state := .pending, owner := id, format := d.format, block := d.block, ndim := d.ndim, ext := d.ext,
          bytes := d.compactBytes, start := start, seq := t.val.nextSeq }).notePeak

/-- Sequence numbers of the pages a frame lies in. -/
def Frame.pages (f : Frame) : List Nat :=
  if f.side || f.bytes == 0 then []
  else
    let a := f.start / pageBytes
    (List.range ((f.start + f.bytes - 1) / pageBytes - a + 1)).map (fun i => a + i)

/-- Some page of the frame is in transfer (R156). -/
def State.inTransfer (s : State) (f : Frame) : Bool :=
  f.pages.any (fun q => match mget q s.val.pages with
    | some (.toChip _) => true
    | some (.chip _) => false
    | some .hbm => false
    | none => false)

/-- Pages of the frame that lie in HBM. -/
def State.pagesInHbm (s : State) (f : Frame) : Nat :=
  f.pages.countP (fun q => mget q s.val.pages == some .hbm)

/-- A read of a frame: reads in place are counted (R156). -/
def State.readFrame (s : State) (f : Frame) : State :=
  s.addF F.memValleyStateInplace (s.pagesInHbm f)

/-- A frame consumed (R152, R153, R155): drain begins, and reads out of descending order are
reported once per step. -/
def State.consumeFrame (s : State) (n : Nat) : State :=
  match s.frame n with
  | none => s
  | some f =>
    let late := match s.val.lastPopped with
      | some m => decide (m < n)
      | none => false
    let t := s.putFrame n { f with state := .consumed }
    let t := { t with val := { t.val with drain := true, lastPopped := some n } }
    if late && !s.val.orderSeen then
      ({ t with val := { t.val with orderSeen := true } }).ev 0xb002 unitSched n 0
    else t

/-- A frame is named by an instruction in flight. -/
def State.frameNamed (s : State) (n : Nat) : Bool :=
  s.sch.inflight.any (fun i => i.creates == some n || i.consume.contains n ||
    i.slots.any (fun x => x.2.2.loc == 3 && x.2.2.base % 2 ^ 32 == n))

/-- The frames that stay, with the pages that they lie in. -/
def State.keepFrames (s : State) (fs : List (Nat × Frame)) : State :=
  { s with val := { s.val with
      frames := fs, pages := s.val.pages.filter (fun p => fs.any (fun f => f.2.pages.contains p.1)),
      fill := if fs.isEmpty then 0 else s.val.fill } }

/-- Every frame and page of the step released (R153); `keep` keeps what instructions in flight
name until they complete (R27). -/
def State.releaseValley (s : State) (keep : Bool) : State :=
  let t := s.keepFrames (if keep then (s.val.frames.filter (fun f => s.frameNamed f.1)).map
      (fun f => (f.1, { f.2 with old := true })) else [])
  { t with val := { t.val with
      nextSeq := 0, drain := false, orderSeen := false, lastPopped := none, spillSeen := false, peak := 0, back := [] } }

/-- Oldest pages written out, while the on-chip quota is exceeded and the HBM quota takes them (R153). -/
def State.pageOut (s : State) : Nat → State
  | 0 => s
  | k + 1 =>
    if s.chipPages ≤ min 128 s.val.chipQuota then s
    else match s.evictOldest with
      | some e => e.1.pageOut k
      | none => s

/-! ### The side memory (R163, R164) -/

/-- Bytes of the side memory. -/
def sideBytes : Nat := 0x1000000

/-- Bytes of a stat record of `rows` rows. -/
def statRecord (rows : Nat) : Nat := 64 + roundUp (8 * rows) 64

/-- Bytes of the side memory in use. -/
def State.sideUsed (s : State) : Nat :=
  ((s.val.frames.filter (fun f => f.2.side)).map (fun f => match f.2.stat with
    | some (_, _, rows, _) => statRecord rows
    | none => 0)).sum

/-- The oldest stat frame of the side memory, by SEQ. -/
def State.oldestSide (s : State) : Option (Nat × Frame) :=
  (s.val.frames.filter (fun f => f.2.side)).foldl (fun a f => match a with
    | none => some f
    | some g => if f.2.seq < g.2.seq then some f else some g) none

/-- Oldest stat frames moved into valley pages until `need` bytes fit: the state and how many
moved; none when the valley cannot take them all, and then none has moved and nothing is raised (R164; DESIGN CHOICE:
the rule does not say what becomes of those that could be moved). -/
def State.spillSide (s : State) (need moved : Nat) : Nat → Option (State × Nat)
  | 0 => if s.sideUsed + need ≤ sideBytes then some (s, moved) else none
  | k + 1 =>
    if s.sideUsed + need ≤ sideBytes then some (s, moved)
    else match s.oldestSide with
      | none => none
      | some (n, f) => (match s.takeFrame f.bytes with
        | none => none
        | some (t, start) =>
          (t.putFrame n { f with side := false, start := start }).notePeak.spillSide need (moved + 1) k)

/-- Instruction `id` takes stat frame `n` (R162 to R164): FRAME_EXISTS, VALLEY_FULL, or the frame PENDING. -/
def State.pushStat (s : State) (id n : Nat) (d : Desc) (kind rows rowLen : Nat) : Pushed :=
  let f : Frame := {
    state := .pending, owner := id, ndim := 2, ext := d.ext, bytes := 8 * rows,
    seq := s.val.nextSeq, stat := some (kind, 0, rows, rowLen) }
  match s.frame n with
  | some _ => .failed stFrameExists
  | none =>
    let s1 := { s with val := { s.val with nextSeq := s.val.nextSeq + 1 } }
    if sideBytes < statRecord rows then
      (match s1.takeFrame (8 * rows) with
        | none => .failed stValleyFull
        | some (t, start) =>
          .made (t.putFrame n { f with start := start }).notePeak)
    else match s1.spillSide (statRecord rows) 0 s1.val.frames.length with
      | none => .failed stValleyFull
      | some (t, moved) =>
        let t := t.putFrame n { f with side := true }
        if 0 < moved && !s.val.spillSeen then
          .made (({ t with val := { t.val with spillSeen := true } }).ev 0x3001 unitSide moved 0)
        else .made t

end Sys2Proof.Machine
end

