-- ==== Sys2Proof/Machine/Sched.lean ====
section
/-! DEFINITION. The scheduler: what each record may hold (R248 to R251), binding (R70, R252),
chains (R174, R175), finished-tile consumers (R177), hazards (R75), readiness, and completion
records (R253 to R257). -/

namespace Sys2Proof.Machine

/-! ### What a record may hold -/

/-- The slots, flags and immediate bits that an instruction defines. Slot needs: 0 unused, 1
optional, 2 required. `imms` lists the handles in immediates with their needs (R281). -/
structure OpInfo where
  h     : List Nat
  flags : Nat := 0
  m0    : Nat := 0
  m1    : Nat := 0
  m2    : Nat := 0
  imms  : List (Nat × Nat) := []
  deriving DecidableEq, Repr

/-- The mask of `w` bits at bit `lo`. -/
def bitMask (lo w : Nat) : Nat := (2 ^ w - 1) * 2 ^ lo

/-- A flag of a record. -/
def Rec.flag (r : Rec) (k : Nat) : Bool := bitOf r.flags k

/-- The CTL, MEM, MOV and VAL instructions (R260, R265, R270, R277). -/
def opInfoMem (r : Rec) : Option OpInfo :=
  match r.op with
  | 0x0000 => some { h := [0, 0, 0, 0] }
  | 0x0001 => some { h := [0, 0, 0, 0], m1 := bitMask 0 64, m2 := bitMask 0 48 }
  | 0x0002 => some { h := [0, 0, 0, 0], m1 := bitMask 0 32 }
  | 0x0003 => some { h := [0, 0, 0, 0], m1 := bitMask 0 32 }
  | 0x0004 => some { h := [0, 0, 0, 0] }
  | 0x0005 => some { h := [1, 0, 0, 0], m1 := bitMask 0 32, m2 := bitMask 0 32 }
  | 0x1000 => some { h := [2, 0, 0, 0] }
  | 0x1001 => some { h := [2, 0, 0, 0] }
  | 0x1002 => some { h := [2, 0, 0, 0], m1 := bitMask 0 48 }
  | 0x1003 => some { h := [0, 0, 0, 0], m0 := bitMask 0 3, m1 := bitMask 0 8 + bitMask 32 32,
                     m2 := bitMask 0 32 }
  | 0x1004 => some { h := [2, 0, 0, 0], m1 := bitMask 0 64 }
  | 0x2000 => some { h := [2, 2, 0, 0], m0 := bitMask 0 8 }
  | 0x2001 => some { h := [0, 0, 0, 0], m1 := bitMask 0 48 }
  | 0x8000 => some { h := [2, 2, 0, 0] }
  | 0x8001 => some { h := [2, 2, 0, 0], flags := bitMask 3 1 }
  | 0x8002 => some { h := [0, 2, 0, 0] }
  | _ => none

/-- Bits 1 and 2 of FLAGS: LINK and FTQ, for VEC instructions (R250). -/
def vecFlags : Nat := bitMask 1 2

/-- The VEC instructions (R273 to R275). -/
def opInfoVec (r : Rec) : Option OpInfo :=
  let sc := r.flag 3
  let scalar (h3 : Nat) (m0 : Nat) : Option OpInfo :=
    some { h := [2, 2, if sc then 0 else 2, h3], flags := vecFlags + bitMask 3 1, m0 := m0,
           m1 := if sc then bitMask 0 64 else 0 }
  let unary (m0 m1 : Nat) : Option OpInfo :=
    some { h := [2, 2, 0, 0], flags := vecFlags, m0 := m0, m1 := m1 }
  let shift : Option OpInfo :=
    some { h := [2, 2, 1, 0], flags := vecFlags, m0 := if r.h2 = 0xffff then bitMask 0 8 else 0 }
  match r.op with
  | 0x3000 => scalar 0 0
  | 0x3001 => scalar 0 0
  | 0x3002 => scalar 0 0
  | 0x3003 => scalar 2 0
  | 0x3004 => scalar 0 0
  | 0x3005 => scalar 0 0
  | 0x3006 => unary 0 0
  | 0x3007 => unary 0 0
  | 0x3008 => scalar 0 0
  | 0x3009 => scalar 0 0
  | 0x300a => scalar 0 0
  | 0x300b => unary 0 0
  | 0x300c => shift
  | 0x300d => shift
  | 0x300e => shift
  | 0x300f => scalar 0 (bitMask 0 8)
  | 0x3010 => some { h := [2, 2, 2, 2], flags := vecFlags }
  | 0x3011 => unary (bitMask 0 8) 0
  | 0x3012 => unary (bitMask 0 8) (bitMask 0 8)
  | 0x3020 => some { h := [2, 2, 2, 0], flags := vecFlags, m0 := bitMask 0 1 }
  | 0x3021 => some { h := [2, 2, 2, 0], flags := vecFlags, m0 := bitMask 0 1 }
  | 0x3022 => some { h := [2, 2, 2, 0], flags := vecFlags }
  | 0x3023 => some { h := [2, 2, 2, 0], flags := vecFlags }
  | 0x3024 => some { h := [2, 2, 1, if r.h2 = 0xffff then 0 else 2], flags := vecFlags + bitMask 4 1 }
  | 0x3025 => some { h := [2, 2, 0, 2], flags := vecFlags, m1 := bitMask 0 13 }
  | 0x3026 => some { h := [2, 2, 0, 0], flags := vecFlags, m1 := bitMask 0 64 }
  | _ => none

/-- The ARR, GRD, COL and SVC instructions (R284, R290, R295, R298). -/
def opInfoUnits (r : Rec) : Option OpInfo :=
  match r.op with
  | 0x4000 => some { h := [2, 2, 0, 0] }
  | 0x4001 => some { h := [2, 0, 0, 0] }
  | 0x4002 => some { h := [2, 0, 0, 0] }
  | 0x4003 => some { h := [2, 2, 2, if r.flag 3 then 2 else 0],
                     flags := if r.flag 3 then bitMask 3 1 else bitMask 4 1, m0 := bitMask 0 8 }
  | 0x4004 => some { h := [2, 2, 0, 0] }
  | 0x4005 => some { h := [2, 0, 0, 0], m0 := bitMask 0 1 }
  | 0x4006 => some { h := [2, 0, 0, 0] }
  | 0x5000 => some { h := [2, 2, 2, 0], flags := if r.imm0 = 0 then bitMask 7 1 else 0,
                     m0 := bitMask 0 8 }
  | 0x5001 => some { h := [2, 2, 2, 0] }
  | 0x5002 => some { h := [2, 2, 2, 0], flags := bitMask 5 2 }
  | 0x7000 => some { h := [2, 0, 0, 0], m1 := bitMask 0 28, m2 := bitMask 0 55 }
  | 0x7001 => some { h := [0, 0, 0, 0], flags := bitMask 3 1, m0 := if r.flag 3 then bitMask 0 2 else 0 }
  | 0x7002 => some { h := [0, 0, 0, 0], m1 := bitMask 0 48, m2 := bitMask 0 12 }
  | 0x7003 => some { h := [0, 0, 0, 0] }
  | 0x9000 => some { h := [0, 0, 0, 0], m1 := bitMask 0 64 }
  | 0x9001 => some { h := [if r.flag 3 then 2 else 0, 0, 0, 0], flags := bitMask 3 1 }
  | 0x9002 => some { h := [0, 0, 0, 0] }
  | 0x9003 => some { h := [2, 0, 0, 0] }
  | _ => none

/-- STASH and RECOMP of a row forward: both at once is not defined (R283). -/
def rowFwdFlags (r : Rec) : Nat := if r.flag 3 then bitMask 3 1 else bitMask 3 2

/-- The need of STAT in a row forward (R294). -/
def rowStatNeed (r : Rec) : Nat := if r.flag 3 || r.flag 4 then 2 else 0

/-- The ROW instructions (R293). -/
def opInfoRow (r : Rec) : Option OpInfo :=
  let stat := bitsOf r.imm2 0 16
  let rms := bitOf r.imm0 0
  match r.op with
  | 0x6000 => some { h := [2, 2, 2, if rms then 0 else 2], flags := rowFwdFlags r, m0 := bitMask 0 1,
                     m1 := bitMask 0 32, m2 := bitMask 0 32,
                     imms := [(stat, rowStatNeed r), (bitsOf r.imm2 16 16, 1)] }
  | 0x6001 => some { h := [2, 2, 2, 2], flags := bitMask 5 2, m0 := bitMask 0 1, m1 := bitMask 0 16,
                     m2 := bitMask 0 32,
                     imms := [(bitsOf r.imm1 0 16, 2), (stat, 2),
                              (bitsOf r.imm2 16 16, if rms then 0 else 2)] }
  | 0x6002 => some { h := [2, 2, 1, 1], flags := rowFwdFlags r, m0 := bitMask 0 1, m1 := bitMask 0 32,
                     m2 := bitMask 0 16 + bitMask 32 32, imms := [(stat, rowStatNeed r)] }
  | 0x6003 => some { h := [2, 2, 2, 1], flags := bitMask 5 1, m0 := bitMask 0 2, m1 := bitMask 0 32,
                     m2 := bitMask 0 16 + bitMask 32 32, imms := [(stat, 2)] }
  | 0x6004 => some { h := [2, 2, 1, 1], flags := rowFwdFlags r, m0 := bitMask 0 1, m1 := bitMask 0 32,
                     m2 := bitMask 0 16 + bitMask 32 32, imms := [(stat, rowStatNeed r)] }
  | 0x6005 => some { h := [2, 2, 2, 1], flags := bitMask 5 1, m0 := bitMask 0 1, m1 := bitMask 0 32,
                     m2 := bitMask 0 16 + bitMask 32 32, imms := [(stat, 2)] }
  | _ => none

/-- What an instruction defines; none for a reserved ICLASS or OPCODE (R251). -/
def opInfo (r : Rec) : Option OpInfo :=
  if r.iclass = 3 then opInfoVec r
  else if r.iclass = 6 then opInfoRow r
  else if r.iclass ≤ 2 ∨ r.iclass = 8 then opInfoMem r
  else opInfoUnits r

/-- The handle slots of a record. -/
def Rec.h (r : Rec) (k : Nat) : Nat :=
  if k = 0 then r.h0 else if k = 1 then r.h1 else if k = 2 then r.h2 else r.h3

/-- The record breaks no rule of stage 1 before binding (R248 to R252). -/
def Rec.valid (r : Rec) : Bool :=
  match opInfo r with
  | none => false
  | some o =>
    (r.flags &&& (255 - (1 ||| o.flags))) == 0 && (r.imm0 &&& (bitMask 0 8 - o.m0)) == 0 &&
    (r.imm1 &&& (bitMask 0 64 - o.m1)) == 0 && (r.imm2 &&& (bitMask 0 64 - o.m2)) == 0 &&
    (List.range 4).all (fun k => nth o.h k != 0 || r.h k == 0xffff) &&
    o.imms.all (fun x => x.2 != 0 || x.1 == 0xffff)

/-! ### How the slots of an instruction are used -/

/-- An element-wise VEC instruction, VEC.CVT included (R172). -/
def Rec.elementwise (r : Rec) : Bool := r.iclass == 3 && decide (r.opcode ≤ 0x12)

/-- The slots that an instruction writes. -/
def Rec.writes (r : Rec) : List Nat :=
  if r.iclass = 3 then (if r.opcode = 0x24 ∨ r.opcode = 0x25 then [0, 3] else [0])
  else match r.op with
    | 0x4003 => [0, 3]
    | 0x6000 => if r.flag 3 then [0, 4, 5] else [0, 5]
    | 0x6001 => [0, 5, 6]
    | 0x6002 => if r.flag 3 then [0, 3, 4] else [0, 3]
    | 0x6004 => if r.flag 3 then [0, 3, 4] else [0, 3]
    | 0x7000 => []
    | 0x8002 => []
    | 0x4005 => []
    | 0x4006 => []
    | _ => [0]

/-- A slot that must name a layer (R280, R284). -/
def Rec.layerSlot (r : Rec) (k : Nat) : Bool :=
  r.iclass == 4 && (match r.opcode with
    | 3 => k == 2
    | 4 => k == 1
    | _ => k == 0)

/-- A slot in which a valley frame is accepted (R277, R282). -/
def Rec.frameSlot (r : Rec) (k : Nat) : Bool :=
  match r.op with
  | 0x8000 => k == 0
  | 0x8001 => k == 1
  | 0x8002 => k == 1
  | 0x4003 => k == 3
  | 0x5000 => k == 1 || (k == 2 && r.imm0 == 0)
  | 0x5002 => k == 1
  | 0x6001 => k == 1 || k == 4
  | 0x6003 => k == 1 || k == 4
  | 0x6005 => k == 1 || k == 4
  | 0x6000 => k == 4
  | 0x6002 => k == 4
  | 0x6004 => k == 4
  | _ => false

/-- The frame slot that the instruction creates, if it does. -/
def Rec.createSlot (r : Rec) : Option Nat :=
  match r.op with
  | 0x8000 => some 0
  | 0x4003 => if r.flag 3 then some 3 else none
  | 0x6000 => if r.flag 3 then some 4 else none
  | 0x6002 => if r.flag 3 then some 4 else none
  | 0x6004 => if r.flag 3 then some 4 else none
  | _ => none

/-- A slot whose location is checked at the start, after the format and the shape: the operands of MOV.COPY, the source
of VAL.PUSH and the destination of VAL.POP (R271, R278, R279). -/
def Rec.locLater (r : Rec) (k : Nat) : Bool :=
  r.op == 0x2000 || (r.op == 0x8000 && k == 1) || (r.op == 0x8001 && k == 0)

/-- A location that the slot may name (R71, R282). -/
def Rec.locOk (r : Rec) (k loc : Nat) : Bool :=
  if r.locLater k then true
  else if r.frameSlot k && (r.iclass == 8 || k == 3 || decide (4 ≤ k)) then loc == 3
  else if loc = 3 then r.frameSlot k
  else if loc = 2 then r.iclass == 2 || r.iclass == 9
  else if loc = 5 then r.iclass == 2 || !r.writes.contains k
  else decide (loc ≤ 1)

/-- The operand of a slot, if bound: its handle and descriptor. -/
def Inst.slot (i : Inst) (k : Nat) : Option (Nat × Desc) := mget k i.slots

/-- The descriptor of a slot; an empty one where the slot is not bound. -/
def Inst.d (i : Inst) (k : Nat) : Desc := ((i.slot k).map (fun x => x.2)).getD {}

/-- A slot is bound. -/
def Inst.has (i : Inst) (k : Nat) : Bool := (i.slot k).isSome

/-! ### Binding (R69, R70, R252) -/

/-- The HBM address of entry `h` of the descriptor table. -/
def State.descAddr (s : State) (h : Nat) : Nat := s.f F.schDtBase + 64 * h

/-- Entry `h` of the descriptor table, as it stands. -/
def State.descEntry (s : State) (h : Nat) : Desc := Desc.ofBytes (s.rdBytes 1 (s.descAddr h) 64)

/-- The entry rewritten. -/
def State.putEntry (s : State) (h : Nat) (d : Desc) : State := s.wrBytes 1 (s.descAddr h) d.bytes

/-- What a bind answers: the state with the descriptor and whether it spilled, or a status. -/
inductive Bound where
  | good (s : State) (d : Desc) (spilled : Bool)
  | bad (s : State) (status : Nat)

/-- Handle `h` bound for slot `k` of a record (R67, R69 to R71, R266, R280). -/
def State.bind (s : State) (r : Rec) (k h : Nat) : Bound :=
  let d := s.descEntry h
  if s.f F.schDtCount ≤ h then .bad s stDescInvalid
  else if r.op = 0x1001 ∨ r.op = 0x1002 then .good s d false
  else if !d.valid then .bad s stDescInvalid
  else if d.freed && r.op != 0x1000 then .bad s stDescUnbound
  else if r.layerSlot k then
    if d.loc != 4 then .bad s stDescInvalid
    else if r.op = 0x4000 then
      (if d.bound || d.checked then .good s d false else .bad s stDescInvalid)
    else if d.bound then .good s d false
    else .bad s stDescUnbound
  else if r.locLater k && d.loc == 4 then (if d.checked then .good s d false else .bad s stDescInvalid)
  else if !(if r.iclass = 1 then d.loc != 4 && d.loc != 2 else r.locOk k d.loc) then .bad s stDescInvalid
  else
    let dest := r.writes.contains k && r.iclass != 1 || r.op == 0x1004
    if d.bound then (if dest && !d.destOk then .bad s stDescInvalid else .good s d false)
    else if !d.checked || (dest && !d.autoalloc && !d.destOk) then .bad s stDescInvalid
    else if d.autoalloc then
      let r := s.allocFor h d
      (match r.2 with
        | none => .bad (r.1.memFull d.compactBytes) stMemFull
        | some e =>
          let e := { e with freed := false }
          .good (r.1.putEntry h e) e e.spilled)
    else
      let e := { d with bound := true, freed := false }
      .good (s.putEntry h e) e false

/-- Slots bound in order; the first that fails decides the status (R252). A need of 3 asks for a handle that is not
null and binds nothing (R249, R174). -/
def bindSlots (s : State) (i : Inst) : List (Nat × Nat × Nat) → State × Inst
  | [] => (s, i)
  | (k, h, need) :: rest =>
    if h = 0xffff then
      (if 2 ≤ need then (s, i.end_ stDescInvalid) else bindSlots s i rest)
    else if need = 3 then bindSlots s i rest
    else match s.bind i.code k h with
      | .bad t st => (t, i.end_ st)
      | .good t d sp =>
        bindSlots t { i with slots := mput k (h, d) i.slots, spilled := i.spilled || sp } rest

/-- The slots a record binds at admission. Of H0 of a VEC record, and of the intermediate source of a chain, only
that they are not null is asked (R175, R249, R252). -/
def admitSlots (r : Rec) (joins : Bool) : List (Nat × Nat × Nat) :=
  match opInfo r with
  | none => []
  | some o =>
    let need (k : Nat) : Nat := if r.iclass = 3 ∧ (k = 0 ∨ (joins ∧ k = 1)) then 3 else nth o.h k
    (if r.iclass = 3 then [1, 2, 3, 0] else [0, 1, 2, 3]).map (fun k => (k, r.h k, need k)) ++ o.imms.zipIdx.map (fun x => (4 + x.2, x.1.1, x.1.2))

/-! ### Chains (R174, R175) -/

/-- The record can be the first member of a chain. -/
def Rec.canLead (r : Rec) : Bool := (r.elementwise || r.op == 0x3020) && !r.flag 1

/-- The batch window of a step-body record (R307): the descriptor redirected, or none where it lies across the boundary of
slot 0, its exponent plane included. -/
def State.redirect (s : State) (d : Desc) : Option Desc :=
  let b := s.f F.schBatchBase
  let n := s.f F.schBatchSize
  if d.loc ≠ 1 ∨ n = 0 then some d
  else if d.ranges.all (fun r => decide (b ≤ r.1) && decide (r.2 ≤ b + n)) then
    some { d with base := d.base + (if s.pup.current = 1 then n else 0) }
  else if d.ranges.any (fun r => decide (r.1 < b + n) && decide (b < r.2)) then none
  else some d

/-- The slots of a step-body instruction that `mine` names redirected to the batch of the step (R307). -/
def State.redirectSlots (s : State) (mine : Nat → Bool) (i : Inst) : Inst :=
  if i.step.isNone || i.phase != .waiting then i
  else if i.slots.any (fun x => mine x.1 && (s.redirect x.2.2).isNone) then i.end_ stDescInvalid
  else { i with slots := i.slots.map (fun x =>
    if mine x.1 then (x.1, (x.2.1, (s.redirect x.2.2).getD x.2.2)) else x) }

/-- An instruction's slots bound to H0, for the last member of its chain. -/
def State.bindLast (s : State) (id : Nat) : State :=
  match s.inst id with
  | none => s
  | some i =>
    if i.phase = .waiting then
      let r := bindSlots s i [(0, i.code.h0, 2)]
      r.1.putInst (r.1.redirectSlots (fun k => k == 0) r.2)
    else s

/-- Every member of a chain ends with a status, unless it has ended already. -/
def State.endChain (s : State) (ids : List Nat) (st : Nat) : State :=
  ids.foldl (fun t m => t.modInst m (fun i => if i.phase = .done then i else i.end_ st)) s

/-- The first failure among the members of a chain, if one failed. -/
def State.chainFail (s : State) (ids : List Nat) : Option Nat :=
  ids.findSome? (fun m => match s.inst m with
    | some i => if i.phase = .done && !isSuccess i.status then some i.status else none
    | none => none)

/-- The open chain of a queue closes: every member learns the members, and the last one's
destination is bound; a failed bind ends every member (R175, R252). -/
def State.closeChain (s : State) (q : Nat) : State :=
  let x := s.qst q
  let ids := x.chain
  let s := s.putQst q { x with chain := [] }
  let s := ids.foldl (fun t m => t.modInst m (fun i => { i with chain := ids, open_ := false })) s
  match ids.getLast? with
  | none => s
  | some last =>
    let t := s.bindLast last
    match t.chainFail ids with
    | some st => t.endChain ids st
    | none => t

/-! ### Hazards (R75) and references -/

/-- Parameter offsets of a placed layer's masters. -/
def State.masters (s : State) (h : Nat) : Option (Nat × Nat) :=
  (mget h s.arr.layers).map (fun l => (l.master, l.master + l.inDim * l.outDim))

/-- The storage an instruction names, each with whether it is written. -/
def Inst.access (i : Inst) : List (Bool × Stor) :=
  if i.code.iclass = 1 ∧ i.code.opcode ≤ 2 then []
  else i.slots.flatMap (fun x => x.2.2.stor.map (fun z => (i.code.writes.contains x.1, z)))

/-- Two instructions name overlapping storage and one of them writes it. -/
def State.conflict (s : State) (a b : Inst) : Bool :=
  a.access.any (fun x => b.access.any (fun y => (x.1 || y.1) && x.2.overlaps s.masters y.2))

/-- An instruction overlaps storage that a failed one of its queue named (R75). -/
def State.behindFailed (s : State) (i : Inst) : Bool :=
  i.access.any (fun x => (s.qst i.queue).failed.any (fun y =>
    (x.1 || y.1) && x.2.overlaps s.masters y.2))

/-- The members an instruction runs with: its chain, or itself. -/
def Inst.members (i : Inst) : List Nat := if i.chain.isEmpty then [i.id] else i.chain

/-- A member of a chain after the first: the chain awaits the first member's token only (R174). -/
def Inst.laterMember (i : Inst) (m : Nat) : Bool := i.members.head? != some m

/-- Earlier instructions of the queue have completed as far as `i` needs: no hazard, and no fence
ahead (R75, R263). -/
def State.clearAhead (s : State) (i : Inst) : Bool :=
  s.sch.inflight.all (fun j =>
    decide (i.id ≤ j.id) || j.queue != i.queue || i.members.contains j.id ||
    ((j.code.op != 0x0004) && (i.producer == some j.id || !s.conflict i j)))

/-- The frames an instruction reads. -/
def Inst.framesRead (i : Inst) : List Nat :=
  i.slots.filterMap (fun x =>
    if x.2.2.loc = 3 ∧ i.code.createSlot ≠ some x.1 then some (x.2.2.base % 2 ^ 32) else none)

/-- The push of a frame stands behind the instruction in its queue, which then finds the number as it was before (R75). -/
def State.pushedLater (s : State) (i : Inst) (f : Frame) : Bool :=
  decide (i.id < f.owner) && (match s.inst f.owner with
    | some j => j.queue == i.queue
    | none => false)

/-- A frame read waits: its push is out, or a page is in transfer (R152, R156). -/
def State.frameWaits (s : State) (i : Inst) (n : Nat) : Bool :=
  match s.frame n with
  | none => false
  | some f => (f.state == .pending && !s.pushedLater i f) || (f.state != .consumed && s.inTransfer f)

/-- The status a read of a frame ends with, OK when the frame is PRESENT and as described
(R151, R152). -/
def State.frameStatus (s : State) (d : Desc) : Nat :=
  match s.frame (d.base % 2 ^ 32) with
  | none => stValleyEmpty
  | some f =>
    match f.state with
    | .consumed => stValleyEmpty
    | .poisoned => stDepFailed
    | .pending => stValleyEmpty
    | .present =>
      if f.format = d.format ∧ f.block = d.block ∧ f.ndim = d.ndim ∧ f.ext = d.ext then stOk
      else stDescInvalid

/-- The first status other than OK among the frames an instruction reads. -/
def State.framesStatus (s : State) (i : Inst) : Nat :=
  (i.slots.findSome? (fun x =>
    if x.2.2.loc = 3 ∧ i.code.createSlot ≠ some x.1 then
      (let st := s.frameStatus x.2.2; if st = stOk then none else some st)
    else none)).getD stOk

/-- The producer of a consumer has run, or has posted a tile (R177). -/
def State.producerReady (s : State) (i : Inst) : Bool :=
  match i.producer with
  | none => true
  | some p => (match s.inst p with
    | none => true
    | some j => j.phase == .done || decide (0 < j.posted))

/-- The tokens that a CTL.JOIN waits on (R261). -/
def Rec.joinTokens (r : Rec) : List Nat :=
  [r.wait, bitsOf r.imm1 0 16, bitsOf r.imm1 16 16, bitsOf r.imm1 32 16, bitsOf r.imm1 48 16,
   bitsOf r.imm2 0 16, bitsOf r.imm2 16 16, bitsOf r.imm2 32 16].filter (fun t => t != 0)

/-- The wait token of an instruction allows a start, or its failure (R74). CTL.JOIN waits by R261. -/
def State.tokenReady (s : State) (i : Inst) : Bool :=
  i.code.op == 0x0001 || i.code.wait == 0 || (s.tok i.code.wait).isSome

/-- An instruction of a closed chain, or of none, whose turn has come: it waits, and tokens,
hazards, fences, frames and producer allow it. -/
def State.ready (s : State) (i : Inst) : Bool :=
  i.phase == .waiting && !i.open_ && i.members.all (fun m => match s.inst m with
    | none => true
    | some j => (s.tokenReady j || i.laterMember m) && s.clearAhead j && s.producerReady j &&
        j.framesRead.all (fun n => !s.frameWaits j n))

/-- A ready instruction must end with DEP_FAILED (R74, R75, R178). -/
def State.depFailed (s : State) (i : Inst) : Bool :=
  i.members.any (fun m => match s.inst m with
    | none => false
    | some j => (!i.laterMember m && j.code.wait != 0 && s.tok j.code.wait == some .poisoned) ||
        s.behindFailed j || j.depBad ||
        (match j.producer with
          | none => false
          | some p => (match s.inst p with
            | some k => !isSuccess k.status
            | none => false)))

/-- A seesaw operand reaches beyond the parameter space (R71). -/
def State.seesawBeyond (s : State) (i : Inst) : Bool :=
  i.slots.any (fun x => x.2.2.loc == 5 && decide (s.load.params < x.2.2.base + x.2.2.count))

/-- An instruction that ends with a status and no effect. -/
def State.fails (s : State) (i : Inst) (st : Nat) : State := s.putInst (i.end_ st)

/-- An instruction whose frame could not be taken ends with the status of the claim (R81, R153). -/
def State.claimFails (s : State) (i : Inst) : State :=
  (if i.claim = stValleyFull then s.valleyFull else s).fails i i.claim

/-- The contents and the header's flags of the frame that an instruction has taken. -/
def State.fillFrame (s : State) (i : Inst) (data : List Byte) (flags : Nat) : State :=
  match i.creates with
  | none => s
  | some n => (match s.frame n with
    | none => s
    | some f => if f.owner = i.id then
        s.putFrame n { f with data := data, stat := f.stat.map (fun x => (x.1, flags, x.2.2)) } else s)

/-- An instruction that ends well. -/
def State.finishes (s : State) (i : Inst) (sat nf result : Nat) : State :=
  s.putInst (i.finish sat nf result)

/-- The HBM address of weight epoch `e`: the two lie below the scale history, epoch 0 first from the top,
each in whole granules of 64 KiB (R59). -/
def State.epochAddr (s : State) (e : Nat) : Nat :=
  s.f F.colHistBase - (e + 1) * roundUp (2 * s.load.params) 65536

/-- Some of the parameters `lo` to `hi` of an epoch lie in a poisoned line. -/
def State.paramsPoisoned (s : State) (e lo hi : Nat) : Bool :=
  s.poisonedRange 1 (s.epochAddr e + 2 * lo) (2 * (hi - lo))

/-! ### What an uncorrectable error damages (R234) -/

/-- Bytes of one average copy, and of a slot (R208). -/
def avgCopy : Nat := 8388608
def avgSlot : Nat := 64 + 2 * avgCopy

/-- Bytes of the sections EPOCH, AVERAGES, HISTORY, UPDATE, MONITOR and ARRAYS. -/
def sectionBytes (params slots limit : Nat) : List Nat :=
  [2 * params, slots * (64 + avgCopy), 4 * limit, 262144, 8 * (4096 + slots), 32768]

/-- Their offsets in a checkpoint, and the bytes of all. -/
def sectionOffsets : List Nat → Nat → List Nat
  | [], o => [o]
  | n :: r, o => o :: sectionOffsets r (roundUp (o + n) 4096)

/-- Bytes of one checkpoint area. -/
def ckptBytes (params slots limit : Nat) : Nat := nth (sectionOffsets (sectionBytes params slots limit) 4096) 6

/-- A line of the average store lies in a header or in a committed copy. -/
def State.avgCommitted (s : State) (a : Nat) : Bool :=
  let base := s.f F.colAvgBase
  let off := (a - base) % avgSlot
  decide (off < 64) || (off - 64) / avgCopy == s.rdNat 1 (a - off + 2) 1 % 2

/-- The reason of an uncorrectable error in the HBM line at `a` (R234): STATE in committed state, PROGRAM in what the
program is read from, CHECK in other data. -/
def State.lineReason (s : State) (a : Nat) : Nat :=
  let in_ (lo n : Nat) : Bool := decide (lo < a + 64) && decide (a < lo + n)
  let slots := (s.load.buckets + s.load.n - 1) / s.load.n
  let ranks := s.load.n + s.rdNat 1 (s.f F.schRankTable + 4) 2
  if s.load.loaded && (in_ (s.f F.schBatchBase) (2 * s.f F.schBatchSize) ||
      in_ (s.epochAddr (s.f F.colEpochSel)) (2 * s.load.params) || in_ (s.f F.colHistBase) (4 * s.load.buckets) ||
      in_ (s.f F.colUpdTable) 262144 || in_ (s.f F.colEpochPtr) 64 ||
      in_ (s.f F.colCkptBase) (2 * ckptBytes s.load.params slots s.load.buckets) ||
      (in_ (s.f F.colAvgBase) (slots * avgSlot) && s.avgCommitted a)) then rsnState
  else if in_ (s.f F.schDtBase) (64 * s.f F.schDtCount) || in_ (s.f F.schRankTable) (16 + 16 * ranks) ||
      (List.range 64).any (fun q => s.fb (F.schQCfgEn q) && in_ (s.f (F.schQBase q)) (32 * 2 ^ s.f (F.schQCfgLog2size q))) then
    rsnProgram
  else rsnCheck

/-- A space holds a poisoned line that the instruction would read and did not tag itself: the reason of its place, and
CHECK for a line that another instruction tagged (R234). A layer in fallback reads its masters. -/
def State.poisonRead (s : State) (i : Inst) : Option Nat :=
  i.access.findSome? (fun x => if x.1 then none else match x.2 with
    | .bytes space lo hi =>
      let bad := s.poison.filter (fun p => p.1 == space && decide (p.2.1 * 64 < hi) &&
        decide (lo < p.2.1 * 64 + 64) && p.2.2 != some i.id)
      let rs := bad.map (fun p => if space = 1 ∧ p.2.2.isNone then s.lineReason (p.2.1 * 64) else rsnCheck)
      reasonOrder.find? (fun r => rs.contains r)
    | .frame _ => none
    | .layer h =>
      (match mget h s.arr.layers with
        | none => none
        | some l =>
          if (i.code.op = 0x4003 ∨ i.code.op = 0x4004) ∧ l.fallback ∧
             s.paramsPoisoned (s.f F.colEpochSel) l.master (l.master + l.inDim * l.outDim) then some rsnState
          else none)
    | .params lo hi => if s.paramsPoisoned (s.f F.colEpochSel) lo hi then some rsnState else none)

/-- A failed check of an instruction (R221, R458): in an unanswered step the rank has a FAIL to send
and the results of the instruction and its chain are withheld; elsewhere they end with CHECK_FAILED. -/
def State.checkFails (s : State) (i : Inst) (reason detail : Nat) : State :=
  if i.step = some s.stepNow ∧ s.pass.launched then
    i.members.foldl (fun t m => t.modInst m (fun j => { j with phase := .running, items := 0, pend := [], took := [] }))
      (s.failCheck reason detail)
  else s.endChain i.members stCheckFailed

/-- The unit that reads the operands of an instruction, in DETAIL (R415). -/
def Rec.reader (r : Rec) : Nat :=
  match r.iclass with
  | 2 => 0x3140
  | 3 => 0x3120
  | 4 => 0x3000
  | 5 => 0x3000
  | 6 => 0x3100
  | 7 => unitNet
  | 8 => 0x3140
  | 9 => unitPuppeteer
  | _ => unitSched

/-- An instruction reads a poisoned line (R234, R458): committed state gives STATE, in the step in progress
or at the next launch. -/
def State.readFails (s : State) (i : Inst) (reason : Nat) : State :=
  let t := s.checkFails i reason (i.code.reader * 65536 + eccCode)
  if reason = rsnState then t.stateError i.code.reader else t

/-- The poison tags of an instruction cleared once it has run well (R234). -/
def State.settleTags (s : State) (id : Nat) : State :=
  match s.inst id with
  | none => s
  | some i => if i.phase = .done ∧ isSuccess i.status then
      { s with poison := s.poison.filter (fun p => p.2.2 != some id) } else s

/-- No operand that the instruction moves lies in host memory, or requests may be sent there (R351, R403). -/
def State.hostFree (s : State) (i : Inst) : Bool :=
  s.hostReady || !(i.code.iclass == 2 || i.code.iclass == 9) || i.slots.all (fun x => x.2.2.loc != 2)

/-! ### The order of starts (R63, R78, R259) -/

/-- The unit that runs an instruction: 3 the stream units, 2 the mover channels, and the ICLASS of any other; 0 for
the control engine, which runs any number side by side (R259). -/
def Rec.unit (r : Rec) : Nat :=
  if r.op = 0x1004 ∨ r.iclass = 3 then 3 else if r.iclass = 2 ∨ r.iclass = 8 then 2
  else if r.iclass ≤ 1 then 0 else r.iclass

/-- The rank of an instruction in a ready list: class 0, then dX-class work before GRD.DW (R78, R79). -/
def Inst.rank (i : Inst) : Nat :=
  2 * natOfBool (i.cls != 0) + natOfBool (i.code.op == 0x5002 && !i.raised)

/-- The instruction that a ready list names for `i`: the first of its chain. -/
def Inst.lead (i : Inst) : Nat := i.members.headD i.id

/-- `a` stands before `b` in a ready list (R78). -/
def Inst.before (a b : Inst) : Bool :=
  decide (a.rank < b.rank) || (a.rank == b.rank && decide (a.lead < b.lead))

/-- Instructions that have a wait of their own beside tokens and hazards, so that they compete with their like alone. -/
def ownWait : List Nat := [0x2001, 0x4001, 0x4002, 0x4003, 0x4004]

/-- No instruction of the same unit that could start now stands before `i` (R78). -/
def State.first (s : State) (cond : Inst → Bool) (i : Inst) : Bool :=
  i.code.unit == 0 || s.sch.inflight.all (fun j =>
    j.code.unit != i.code.unit || !j.before i || i.members.contains j.id || !s.ready j || s.depFailed j ||
    !s.hostFree j || (ownWait.contains j.code.op && !(j.code.op == i.code.op && cond j)))

/-- The instruction of number `id` starts if it is of ICLASS and OPCODE `op`, is ready, its own
wait `cond` is over and it is the first of its unit: it ends with DEP_FAILED, or `run` gives the state with its effect. -/
def State.startIf (s : State) (op id : Nat) (cond : Inst → Bool) (run : Inst → State) :
    Host.Outcome State Fault Refusal :=
  match s.inst id with
  | none => .next s
  | some i =>
    if i.code.op != op || !s.ready i || !cond i || !((s.hostFree i && s.first cond i) || s.depFailed i) then .next s
    else if s.depFailed i then .next (s.progress.endChain i.members stDepFailed)
    else match i.members.findSome? (fun m => (s.inst m).bind s.poisonRead) with
      | some reason => .next (s.readFails i reason).progress
      | none => .next ((run i).settleTags id).progress

/-- The same for an instruction without a wait of its own. -/
def State.start (s : State) (op id : Nat) (run : Inst → State) : Host.Outcome State Fault Refusal :=
  s.startIf op id (fun _ => true) run

end Sys2Proof.Machine
end

