-- ==== Sys2Proof/Machine/Admission.lean ====
section
/-! DEFINITION. RECORD_ADMISSION, CHAIN_CLOSE, INSTRUCTION_COMPLETION and STALL: admission
(R60 to R66, R77, R87, R252, R307), completion records and tokens (R253 to R258), program errors
(R76), deferral (R79, R147) and stalls (R80). -/

namespace Sys2Proof.Machine

/-! ### Which queue admits -/

/-- Records a queue holds. -/
def State.qSize (s : State) (q : Nat) : Nat := 2 ^ s.f (F.schQCfgLog2size q)

/-- A completion queue is full (R65, R66); one in host memory takes nothing while no request may be sent
(R403). -/
def State.cqIsFull (s : State) (n : Nat) : Bool :=
  !s.fb (F.schCqCfgEn n) || (bitOf (s.f F.cxlCqLoc) n && !s.hostReady) ||
  (s.f (F.schCqPtrTail n) + 1) % 2 ^ s.f (F.schCqCfgLog2size n) ==
    s.f (F.schCqPtrHead n) % 2 ^ s.f (F.schCqCfgLog2size n)

/-- Records held for a completion queue. -/
def State.held (s : State) (n : Nat) : List (List Byte) := (mget n s.sch.cqHeld).getD []

/-- The record at HEAD of a queue. -/
def State.headRecord (s : State) (q : Nat) : Rec :=
  Rec.ofBytes (s.rdBytes 1 (s.f (F.schQBase q) + 32 * s.f (F.schQPtrHead q)) 32)

/-- The handles a record names. -/
def Rec.handles (r : Rec) : List Nat :=
  [r.h0, r.h1, r.h2, r.h3] ++ ((opInfo r).map (fun o => o.imms.map (fun x => x.1))).getD []

/-- An admitted MEM.DSET that has not completed writes a descriptor that the record at HEAD names: the
record is admitted after it, and so reads the new descriptor (R72). -/
def State.behindDset (s : State) (q : Nat) : Bool :=
  let sets := s.sch.inflight.filter (fun i => i.code.op == 0x1002)
  !sets.isEmpty && (let hs := (s.headRecord q).handles
    sets.any (fun i => i.code.h0 != 0xffff && hs.contains i.code.h0))

/-- A queue has a record that the scheduler may admit now (R58, R62, R65, R72, R77, R87). -/
def State.admissible (s : State) (q : Nat) : Bool :=
  s.fb (F.schQCfgEn q) && s.f (F.schQPtrHead q) != s.f (F.schQPtrTail q) &&
  (if s.fb (F.schQCfgStep q) then s.pass.launched else s.fb F.schCtrlRun) &&
  !s.sch.cqFull.contains (s.f (F.schQCfgCq q)) && !s.behindDset q &&
  (if s.f (F.schQCfgClass q) = 0 then decide (s.sch.inflight.countP (fun i => i.cls == 0) < 512)
   else decide (s.sch.inflight.countP (fun i => i.cls != 0) < 15872))

/-- The admissible queues of a class. -/
def State.candidates (s : State) (c : Nat) : List Nat :=
  (List.range 64).filter (fun q => s.f (F.schQCfgClass q) == c && s.admissible q)

/-- Among queues, the next after `last` in round robin. -/
def nextRobin (last : Nat) (qs : List Nat) : Option Nat :=
  qs.foldl (fun a q => match a with
    | none => some q
    | some b => if (q + 63 - last) % 64 < (b + 63 - last) % 64 then some q else some b) none

/-- The weight of a class (R64). -/
def State.weight (s : State) (c : Nat) : Nat :=
  max 1 (s.f (if c = 1 then F.schClassWeightW1 else if c = 2 then F.schClassWeightW2
    else F.schClassWeightW3))

/-- The credits of classes 1 to 3: reloaded when no class with a record has one left. -/
def State.credits (s : State) : List Nat :=
  if [1, 2, 3].any (fun c => !(s.candidates c).isEmpty && decide (0 < nth s.sch.credit (c - 1))) then
    s.sch.credit
  else [s.weight 1, s.weight 2, s.weight 3]

/-- The queue may be served now (R64): class 0 first, round robin within a class, and classes 1 to 3
by their weights; in Doze and Deep none is (R363, R365). -/
def State.mayServe (s : State) (q : Nat) : Bool :=
  let c := s.f (F.schQCfgClass q)
  decide (s.pst_ ≤ 1) && s.admissible q && nextRobin (nth s.sch.lastServed c) (s.candidates c) == some q &&
  (c == 0 || ((s.candidates 0).isEmpty && decide (0 < nth s.credits (c - 1))))

/-- The scheduler's account after queue `q` was served. -/
def State.served (s : State) (q : Nat) : State :=
  let c := s.f (F.schQCfgClass q)
  let cr := s.credits
  { s with sch := { s.sch with
      credit := if c = 0 then s.sch.credit else cr.set (c - 1) (nth cr (c - 1) - 1),
      lastServed := s.sch.lastServed.set c q } }

/-! ### Admission -/

/-- The producers of R176. -/
def isProducer (op : Nat) : Bool := op == 0x4003 || op == 0x5000 || op == 0x5001 || op == 0x5002

/-- A finished-tile consumer bound to its producer (R177). -/
def State.bindProducer (s : State) (i : Inst) : Inst :=
  if i.code.iclass = 3 ∧ i.code.flag 2 ∧ i.phase = .waiting then
    match mget i.code.h1 (s.qst i.queue).recent with
    | none => i
    | some (p, op, st) =>
      if !isProducer op then i
      else match st with
        | some x => { i with producer := some p, prodOp := op, depBad := !isSuccess x }
        | none => { i with producer := some p, prodOp := op }
  else i

/-- The RMS form, and KIND of the stat frame (R163). -/
def Rec.rms (r : Rec) : Bool := (r.op == 0x6000 || r.op == 0x6001) && bitOf r.imm0 0
def Rec.statKind (r : Rec) : Nat :=
  if r.op = 0x6000 ∨ r.op = 0x6001 then natOfBool r.rms else if r.op = 0x6002 ∨ r.op = 0x6003 then 2 else 3

/-- The frame that an instruction creates, taken as it is admitted (R152, R154, R163): PENDING, or the instruction keeps
the status that the claim answered. -/
def State.claimFrame (s : State) (i : Inst) : State × Inst :=
  match i.code.createSlot.bind i.slot with
  | none => (s, i)
  | some x =>
    let n := x.2.base % 2 ^ 32
    let p := if i.code.iclass = 6 then s.pushStat i.id n x.2 i.code.statKind (x.2.e 1) ((i.d 1).e 0)
      else s.pushFrame i.id n x.2
    match p with
    | .made t => (t, { i with creates := some n })
    | .failed st => (s, { i with claim := st })

/-- The storage of the dY of a GRD.DX, and of a GRD.DW (R146, R292). -/
def Inst.dyStore (i : Inst) : Nat × List (Nat × Nat) :=
  let d := i.d (if i.code.op = 0x5001 then 1 else 2)
  (d.loc, d.ranges)

/-- Bytes that deferred GRD.DW hold: the compact size of each dY, a shared tensor counted once (R70, R147). -/
def State.deferHeld (s : State) : Nat :=
  (((s.sch.inflight.filter (fun i => i.deferred)).map (fun i => (i.dyStore, (i.d 2).compactBytes))).dedup.map
    (fun x => x.2)).sum

/-- The deferral store brought up to date (R79, R147): HELD and PEAK, and while the bytes have not fallen below the quota
again, the oldest deferred GRD.DW is raised to dX priority. -/
def State.refreshDefer (s : State) : State :=
  let held := s.deferHeld
  let quota := s.sch.deferInEffect
  let up := decide (quota < held) || (s.sch.raising && decide (quota ≤ held))
  let oldest := (s.sch.inflight.find? (fun i => i.deferred && i.phase != .done)).map (fun i => i.id)
  let s := { s with sch := { s.sch with
    raising := up
    inflight := s.sch.inflight.map (fun (i : Inst) => { i with raised := up && oldest == some i.id }) } }
  (s.setF F.grdDeferHeld (cap32 held)).setF F.grdDeferPeak (max (s.f F.grdDeferPeak) (cap32 held))

/-- An admitted GRD.DW whose paired GRD.DX has completed is deferred (R147); a record that writes the storage of a
completed dY ends its pairing. -/
def State.noteDeferred (s : State) (i : Inst) : State × Inst :=
  let i := { i with deferred := i.code.op == 0x5002 && s.sch.dxDone.contains i.dyStore }
  let hits (x : Nat × List (Nat × Nat)) : Bool := i.access.any (fun a => a.1 && (match a.2 with
    | .bytes space lo hi => space == x.1 && x.2.any (fun r => decide (r.1 < hi) && decide (lo < r.2))
    | _ => false))
  ({ s with sch := { s.sch with dxDone := s.sch.dxDone.filter (fun x => !hits x) } }, i)

/-- An admitted instruction taken into its queue's account: chains, fences and handles. -/
def State.enqueue (s : State) (i : Inst) (joins : Bool) : State :=
  let q := i.queue
  let s := { s with sch := { s.sch with inflight := s.sch.inflight ++ [i] } }
  let x := s.qst q
  let x := if i.code.h0 = 0xffff ∨ !i.code.writes.contains 0 then x
    else { x with recent := mput i.code.h0 (i.id, i.code.op, none) x.recent }
  if i.code.op = 0x0004 ∧ i.phase = .waiting then
    (s.putQst q { x with fenceFrom := i.id + 1, fenceBad := false }).modInst i.id
      (fun j => { j with covers := (x.fenceFrom, x.fenceBad) })
  else if joins then
    let s := s.putQst q { x with chain := x.chain ++ [i.id] }
    let s := s.modInst i.id (fun j => { j with open_ := true })
    if 8 ≤ x.chain.length + 1 then s.closeChain q else s
  else if i.code.canLead && i.phase == .waiting then
    (s.putQst q { x with chain := [i.id] }).modInst i.id (fun j => { j with open_ := true })
  else if i.code.iclass = 3 ∧ i.phase = .waiting then (s.putQst q x).bindLast i.id
  else s.putQst q x

/-- No step queue holds a record that is not admitted. -/
def State.bodyAdmitted (s : State) : Bool :=
  (List.range 64).all (fun q => !(s.fb (F.schQCfgEn q) && s.fb (F.schQCfgStep q)) ||
    s.f (F.schQPtrHead q) == s.f (F.schQPtrTail q))

/-- DETAIL of a failed check of the scheduler. -/
def schedDetail : Nat := unitSched * 65536

/-- The first GRD.DX of the step noted as it is admitted (R311). -/
def State.noteDx (s : State) (r : Rec) : State :=
  if r.op ≠ 0x5001 ∨ s.pup.acc.firstDx.isSome then s
  else s.modPup (fun p => { p with acc := { p.acc with firstDx := some (s.sch.nextId - 1) } })

/-- COL.PASS counted as it is admitted from a step-body queue (R221): a second one fails the pass, and so
does a body whose queues have all reached their END without one. -/
def State.countPass (s : State) (q : Nat) (r : Rec) : State :=
  if !s.fb (F.schQCfgStep q) then s
  else
    let n := s.pass.passes + natOfBool (r.op == 0x7001)
    let s := (s.noteDx r).modPass (fun p => { p with passes := n })
    if 1 < n ∨ (n = 0 ∧ s.bodyAdmitted) then s.failCheck rsnProgram schedDetail else s

/-- The record or an entry of the descriptor table that it names lies in a poisoned line (R234). -/
def State.programPoisoned (s : State) (addr : Nat) (r : Rec) : Bool :=
  !s.poison.isEmpty && (s.poisonedRange 1 addr 32 ||
    r.handles.any (fun h => decide (h < s.f F.schDtCount) && s.poisonedRange 1 (s.descAddr h) 64))

/-- RECORD_ADMISSION (R60, R64, R77, R252): the record at HEAD of queue `q` is copied, checked and
bound. -/
def execRecordAdmission (q : Nat) (s : State) : Host.Outcome State Fault Refusal :=
  if 64 ≤ q || !s.mayServe q then .next s
  else
    let head := s.f (F.schQPtrHead q)
    let addr := s.f (F.schQBase q) + 32 * head
    let r := Rec.ofBytes (s.rdBytes 1 addr 32)
    let id := s.sch.nextId
    let i : Inst := {
      id := id, queue := q, index := head, cls := s.f (F.schQCfgClass q),
      cq := s.f (F.schQCfgCq q), code := r, since := s.aon,
      step := if s.fb (F.schQCfgStep q) then some s.stepNow else none }
    let joins := r.iclass == 3 && r.flag 1 && !(s.qst q).chain.isEmpty
    let s := (s.served q).setF (F.schQPtrHead q) ((head + 1) % s.qSize q)
    let s := { s with sch := { s.sch with nextId := id + 1 } }
    let bad := s.programPoisoned addr r
    let s := (if joins then s else s.closeChain q).countPass q r
    let s := if bad then s.failCheck rsnProgram (schedDetail + eccCode) else s
    if !r.valid then .next (s.enqueue (i.end_ stRecordInvalid) joins)
    else
      let b := bindSlots s i (admitSlots r joins)
      let c := b.1.claimFrame (b.1.bindProducer (b.1.redirectSlots (fun _ => true) b.2))
      let e := c.1.noteDeferred c.2
      let t := e.1.enqueue e.2 joins
      .next (if e.2.deferred then t.refreshDefer else t)

/-- CHAIN_CLOSE (R174): the first member is ready while the next slot of its queue lies at TAIL. -/
def execChainClose (q : Nat) (s : State) : Host.Outcome State Fault Refusal :=
  match (s.qst q).chain.head? with
  | none => .next s
  | some first =>
    match s.inst first with
    | none => .next (s.closeChain q)
    | some i =>
      if s.f (F.schQPtrHead q) = s.f (F.schQPtrTail q) ∧
          (i.phase = .done ∨ (s.tokenReady i ∧ s.clearAhead i)) then .next (s.closeChain q)
      else .next s

/-! ### Completion -/

/-- A device write to host memory that found no memory (R346): counted and reported. -/
def State.hostWriteLost (s : State) (addr : Nat) : State :=
  ((s.addF F.cxlHostErrAbort 1).addF F.cxlHostErrLost 1).ev 0x8003 unitCxl 0 addr

/-- One completion record written at TAIL of completion queue `n` (R253, R254). -/
def State.writeCq (s : State) (n : Nat) (b : List Byte) : State :=
  let size := 2 ^ s.f (F.schCqCfgLog2size n)
  let tail := s.f (F.schCqPtrTail n)
  let addr := s.f (F.schCqBase n) + 32 * tail
  let b := b.zipIdx.map (fun x => if x.2 = 2 then
    BitVec.ofNat 8 (x.1.toNat % 128 + 128 * natOfBool (!s.sch.cqWrap.contains n)) else x.1)
  let s := if bitOf (s.f F.cxlCqLoc) n then
      (if hostTop < addr + 32 then s.hostWriteLost addr else s.hostWrite false [(addr, b)])
    else s.wrBytes 1 addr b
  let next := (tail + 1) % size
  let s := s.setF (F.schCqPtrTail n) next
  let s := if next = 0 then { s with sch := { s.sch with
      cqWrap := if s.sch.cqWrap.contains n then s.sch.cqWrap.filter (· != n) else n :: s.sch.cqWrap } }
    else s
  if s.fb (F.schCqCfgInt n) then s.msi (s.f (F.schCqCfgVector n)) else s

/-- Held records written while the queue has room, oldest first; with one written there is room for the record that
waits beyond them (R65, R66). -/
def State.drainCq (s : State) (n : Nat) : List (List Byte) → State
  | [] => { s with sch := { s.sch with cqHeld := mdel n s.sch.cqHeld,
                                       cqFull := s.sch.cqFull.filter (· != n) } }
  | b :: r =>
    if s.cqIsFull n then { s with sch := { s.sch with
      cqHeld := mput n (b :: r) s.sch.cqHeld
      cqFull := if r.length < 255 then s.sch.cqFull.filter (· != n) else s.sch.cqFull } }
    else (s.writeCq n b).drainCq n r

/-- A record waits beyond the 256 that are held: EV_SCH_CQ_FULL, once until the queue has room again (R65). -/
def State.noteCqFull (s : State) (n : Nat) : State :=
  if s.sch.cqFull.contains n then s
  else ({ s with sch := { s.sch with cqFull := n :: s.sch.cqFull } }).ev 0x0021 unitSched n 0

/-- STEP of a completion record (R253). -/
def State.recordStep (s : State) (i : Inst) : Nat := i.step.getD s.stepNow

/-- The loop stops (R76, R227, R302). -/
def State.stopLoop (s : State) (reason : Nat) : State :=
  (s.setF F.schLoopState 3).setF F.schLoopReason reason

/-- A step-body instruction that failed (R76, R87): before the answer the rank reports PROGRAM, and
after it the loop stops. -/
def State.programError (s : State) (i : Inst) : State :=
  match i.step with
  | none => s
  | some n =>
    let s := s.evI 0x0022 unitSched i.status 0 i
    if s.pass.launched ∧ n = s.stepNow then s.failCheck rsnProgram (unitSched * 65536 + 0x0022) else s.stopLoop 0x80

/-- The frames of an instruction that completes (R152, R282). -/
def State.settleFrames (s : State) (i : Inst) : State :=
  let good := isSuccess i.status
  let s := match i.creates with
    | none => s
    | some n => (match s.frame n with
      | some f => if f.state = .pending ∧ f.owner = i.id then
          s.putFrame n { f with state := if good then .present else .poisoned } else s
      | none => s)
  if good then i.consume.foldl (fun t n => t.consumeFrame n) s else s

/-- A GRD.DX completes: the GRD.DW paired with it, now or later, are deferred until they complete (R79, R146, R147). -/
def State.deferPaired (s : State) (i : Inst) : State :=
  if i.code.op ≠ 0x5001 then s
  else
    let s := s.modAll (fun j =>
      if j.code.op = 0x5002 ∧ !j.deferred ∧ j.dyStore = i.dyStore then
        { j with deferred := true,
                 result := if j.phase = .done ∧ isSuccess j.status then j.result + 2 ^ 63 else j.result }
      else j)
    { s with sch := { s.sch with dxDone := if s.sch.dxDone.contains i.dyStore then s.sch.dxDone else i.dyStore :: s.sch.dxDone } }

/-- The account of a queue after one of its instructions completed (R75, R177, R263). -/
def State.queueNotes (s : State) (i : Inst) : State :=
  let good := isSuccess i.status
  let x := s.qst i.queue
  let x := { x with recent := x.recent.map (fun y =>
    if y.2.1 = i.id then (y.1, (y.2.1, y.2.2.1, some i.status)) else y) }
  if good then s.putQst i.queue x
  else
    let s := s.putQst i.queue { x with
      fenceBad := x.fenceBad || decide (x.fenceFrom ≤ i.id), failed := x.failed ++ i.access }
    s.modAll (fun j =>
        if j.code.op = 0x0004 ∧ j.queue = i.queue ∧ j.covers.1 ≤ i.id ∧ i.id < j.id then
          { j with covers := (j.covers.1, true) } else j)

/-- Frames of a committed step that no instruction names any more go (R27). -/
def State.dropOld (s : State) : State :=
  let fs := s.val.frames.filter (fun f => !f.2.old || s.frameNamed f.1)
  if fs.length = s.val.frames.length then s else s.keepFrames fs

/-- A consumer bound to producer `p` has not processed all its tiles. -/
def State.awaited (s : State) (p : Nat) : Bool :=
  s.sch.inflight.any (fun i => i.producer == some p && i.phase != .done)

/-- Posts that no consumer awaits leave the queue. -/
def State.dropPosts (s : State) : State :=
  { s with units := { s.units with ftq := s.units.ftq.filter (fun x => s.awaited x.1) } }

/-- A producer completed with a status that is no success: its consumers end with DEP_FAILED (R178). -/
def State.failConsumers (s : State) (i : Inst) : State :=
  if isSuccess i.status then s
  else s.modAll (fun j => if j.producer = some i.id then { j with depBad := true } else j)

/-- What follows the completion record: the token, the frames, the queue's account, the posts, the
deferral store, and the step (R74 to R76, R257). -/
def State.completed (s : State) (i : Inst) : State :=
  let s := s.signal i.code.signal (isSuccess i.status)
  let s := (s.settleFrames i).queueNotes i
  let s := ((s.dropInst i.id).failConsumers i).dropPosts
  let s := { s with
    pup := if i.step = some s.stepNow then { s.pup with acc := { s.pup.acc with
        sat := s.pup.acc.sat + i.sat, nf := s.pup.acc.nf + i.nf } } else s.pup }
  let s := s.deferPaired i
  let s := if i.code.op = 0x5001 ∨ i.deferred then s.refreshDefer else s
  let s := s.dropOld
  let s := if isSuccess i.status then s else s.programError i
  s.progress

/-- The instruction's checks and posts are settled (R178, R231, R234). -/
def State.settled (s : State) (i : Inst) : Bool :=
  (i.posted == i.tiles || !isSuccess i.status) &&
  s.units.unsettled.all (fun u => u.2.2 != i.id)

/-- What an instruction does at the moment of its completion: CTL.MARK reads the always-on counter
and writes it (R258, R264). -/
def State.atCompletion (s : State) (i : Inst) : State × Inst :=
  if i.code.op = 0x0005 ∧ isSuccess i.status then
    (if i.has 0 then s.wrElems (i.d 0) i.code.imm2 [s.aon] else s, { i with result := s.aon })
  else (s, i)

/-- INSTRUCTION_COMPLETION (R65, R253, R257). -/
def execInstructionCompletion (id : Nat) (s0 : State) : Host.Outcome State Fault Refusal :=
  match s0.inst id with
  | none => .next s0
  | some i0 =>
    let s := (s0.atCompletion i0).1
    let i := (s0.atCompletion i0).2
    if i0.phase ≠ .done || !s0.settled i0 then .next s0
    else if !i.code.flag 0 && i.status == 0 then .next (s.completed i)
    else
      let b := completionRecord i true (s.recordStep i) s.aon
      let n := i.cq
      if (s.held n).isEmpty && !s.cqIsFull n then
        .next ((s.writeCq n b).completed i)
      else if (s.held n).length < 256 then
        .next (({ s with sch := { s.sch with cqHeld := mput n (s.held n ++ [b]) s.sch.cqHeld } }).completed i)
      else .next (s0.noteCqFull n)

/-- The token that an instruction waits on while it is CLEAR, the first of them for a CTL.JOIN (R80, R261). -/
def State.clearToken (s : State) (i : Inst) : Option Nat :=
  if i.phase ≠ .waiting then none
  else if i.code.op = 0x0001 then i.code.joinTokens.find? (fun t => (s.tok t).isNone)
  else if i.code.wait ≠ 0 ∧ (s.tok i.code.wait).isNone then some i.code.wait
  else none

/-- A COL.BUCKET waits to enter the interface, and the bucket whose turn it is has not been issued (R194). -/
def State.bucketStuck (s : State) (i : Inst) : Bool :=
  i.code.op == 0x7000 && i.released && s.col.buckets.any (fun x => x.id == i.id && !x.entered && x.b != s.col.next) &&
  !s.col.buckets.any (fun x => x.b == s.col.next) &&
  !s.sch.inflight.any (fun j => j.code.op == 0x7000 && j.step == i.step && j.phase == .waiting &&
    bitsOf j.code.imm1 0 16 == s.col.next)

/-- The oldest instruction that waits on a CLEAR token, and the token (R80); a bucket that waits for one never issued counts
as such, with token 0 (R194). -/
def State.stalledOn (s : State) : Option (Inst × Nat) :=
  s.sch.inflight.findSome? (fun i => match s.clearToken i with
    | some t => some (i, t)
    | none => if s.bucketStuck i then some (i, 0) else none)

/-- STALL (R80): for STALL_TIMEOUT nothing has started or completed and an instruction has waited on a CLEAR token.
It is declared once until the next start or completion. -/
def execStall (s : State) : Host.Outcome State Fault Refusal :=
  match s.stalledOn with
  | none => .next s
  | some (i, t) =>
    if s.aon < max s.sch.lastProgress i.since + s.f F.schStallTimeout ∨ s.sch.stallSeen then .next s
    else
      let s := { s with sch := { s.sch with stallSeen := true } }
      let s := (s.setF F.schStatusStall 1).evI 0x0023 unitSched t 0 i
      .next (if s.pass.launched then s.failCheck rsnProgram (unitSched * 65536 + 0x0023) else s)

end Sys2Proof.Machine
end

