-- ==== Sys2Proof/Machine/Grd.lean ====
section
/-! DEFINITION. The grids (R143 to R150, R290 to R292), the finished-tile queue (R176, R178), and the
settling of failed checks on digital units (R230 to R234). -/

namespace Sys2Proof.Machine

/-! ### Operands of a grid product -/

/-- How a factor operand is read: a block tensor as it stands, masters in mode WIDE (R49), or W8
derived from masters along the reduction dimension, which is `dim` (R48). -/
inductive FactorKind where
  | block
  | wide
  | derived (dim : Nat)
  deriving DecidableEq, Repr

/-- The flat index of element (i0, i1) of batch `b` of a destination `dst`, in operand `d`. -/
def Desc.at2 (d dst : Desc) (b i0 i1 : Nat) : Nat :=
  let b2 := b % dst.e 2
  let b3 := b / dst.e 2 % dst.e 3
  let b4 := b / dst.e 2 / dst.e 3
  let pick (k v : Nat) : Nat := if d.e k = dst.e k then v else 0
  i0 + d.e 0 * (i1 + d.e 1 * (pick 2 b2 + d.e 2 * (pick 3 b3 + d.e 3 * pick 4 b4)))

/-- The exponent and mantissa bytes that W8 gives element `j` of a list of masters cut into blocks
of 128 (R48). -/
def derivedFactor (ws : List Val) (j : Nat) : Factor :=
  let e := encodeBlock (fun _ => .rne) ((ws.drop (j / 128 * 128)).take 128)
  blockFactor e.val.1 (e.val.2.getD (j % 128) 0)

/-- One factor of a matrix operand with `len` elements along its reduction: the element whose
indices are (i0, i1), `along` being the one that the reduction runs over. -/
def State.factor (s : State) (k : FactorKind) (d dst : Desc) (b i0 i1 : Nat) : Factor :=
  let at_ := d.at2 dst b i0 i1
  match k with
  | .block => blockFactor (s.elemExp d at_) (s.elem d at_)
  | .wide => wideFactor (s.elem d at_)
  | .derived dim =>
    if dim = 0 then
      derivedFactor ((List.range (d.e 0)).map (fun j => bf16Val (s.elem d (d.at2 dst b j i1)))) i0
    else derivedFactor ((List.range (d.e 1)).map (fun j => bf16Val (s.elem d (d.at2 dst b i0 j)))) i1

/-- A grid product as R290 names it. -/
structure Product where
  /-- How the operand of H1 and of H2 are read. -/
  ka   : FactorKind := .block
  kb   : FactorKind := .block
  /-- The window: 16 bits, or 64 in mode WIDE (R45, R49). -/
  win  : Int := 16
  /-- Terms per output element. -/
  len  : Nat
  /-- The indices in H1 and in H2 of term `k` of output (i0, i1). -/
  ia   : Nat → Nat → Nat → Nat × Nat
  ib   : Nat → Nat → Nat → Nat × Nat

/-- The exact value of output element `k` of destination `dst` (R45, R49). -/
def State.productVal (s : State) (p : Product) (a b dst : Desc) (k : Nat) : Val :=
  let i0 := k % dst.e 0
  let i1 := k / dst.e 0 % dst.e 1
  let bt := k / dst.e 0 / dst.e 1
  gridOutput p.win ((List.range p.len).map (fun j =>
    let x := p.ia j i0 i1
    let y := p.ib j i0 i1
    (s.factor p.ka a dst bt x.1 x.2, s.factor p.kb b dst bt y.1 y.2)))

/-- Output tiles of 128 × 128 (R144). -/
def Desc.outTiles (d : Desc) : Nat := (d.e 0 + 127) / 128 * ((d.e 1 + 127) / 128) * (d.e 2 * d.e 3 * d.e 4)

/-- Items of a product of `len` terms (R144). -/
def itemsOf (d : Desc) (len : Nat) : Nat := d.outTiles * ((len + 1023) / 1024)

/-- Dimensions 2 to 4 of a source are those of the destination, or broadcast (R291). -/
def Desc.batchFits (d dst : Desc) : Bool := [2, 3, 4].all (fun k => d.e k == dst.e k || d.broadcast k)

/-! ### Running on the grids -/

/-- Every grid, or every row unit, is quarantined (R233). -/
def State.noGrids (s : State) : Bool := (List.range 256).all (fun g => s.units.quarantined.contains (.grid, g))
def State.noRows (s : State) : Bool := (List.range 32).all (fun r => s.units.quarantined.contains (.row, r))

/-- A half whose every grid is quarantined: `dx` names the dX half. -/
def State.halfEmpty (s : State) (dx : Bool) : Bool :=
  (List.range 128).all (fun g => s.units.quarantined.contains (.grid, if dx then g else 128 + g))

/-- A placed layer, and the handle of the layer that a slot names. -/
def State.layer (s : State) (h : Nat) : Option Layer := mget h s.arr.layers
def Inst.layerOf (i : Inst) (k : Nat) : Nat := (i.d k).base % 2 ^ 16

/-- Every position of the layer is held by a tile. -/
def Layer.whole (l : Layer) : Bool := l.tiles.all Option.isSome

/-- The instruction belongs to the step in progress. -/
def State.inStep (s : State) (i : Inst) : Bool := i.step == some s.stepNow && s.pass.launched

/-- Where an ARR.FWD runs (R288). -/
inductive FwdPlace where
  | tiles | fallback | wide | ideal
  deriving DecidableEq, Repr

/-- The place of an ARR.FWD of a layer: one that has lost a tile cannot run on its tiles, whenever its fallback begins
(R110, R139). -/
def State.fwdPlace (s : State) (i : Inst) (l : Layer) : FwdPlace :=
  if i.code.imm0 = 1 then .ideal
  else if s.pass.wide && s.inStep i then .wide
  else if l.fallback || !l.whole then .fallback
  else .tiles

/-! ### Which grid runs what (R22, R78, R143 to R145) -/

/-- The instruction is dX-class work: all work of the grids but a GRD.DW that is not raised (R79, R143). -/
def Inst.dxClass (i : Inst) : Bool := i.code.op != 0x5002 || i.raised

/-- Items of the instruction that no grid has taken. -/
def State.queuedItems (s : State) (i : Inst) : Nat :=
  i.items - s.units.running.countP (fun r => r.live && r.inst == i.id)

/-- The instruction has such items. -/
def State.gridQueued (s : State) (i : Inst) : Bool :=
  (i.code.iclass == 5 || i.code.op == 0x4003) && i.phase == .running && decide (0 < s.queuedItems i)

/-- The instruction is ready to start on the grids. -/
def State.gridReady (s : State) (i : Inst) : Bool :=
  (i.code.iclass == 5 || (i.code.op == 0x4003 && (match s.layer (i.layerOf 2) with
    | none => false
    | some l => s.fwdPlace i l != .tiles))) && s.ready i

/-- The first of some instructions in the order of R78. -/
def firstOf (l : List Inst) : Option Inst :=
  l.foldl (fun a i => match a with
    | none => some i
    | some b => if i.before b then some i else some b) none

/-- The instruction whose item grid `g` takes next (R22, R143, R145): first work of its half, with raised GRD.DW and work
whose own half is all quarantined; and while no work of its half can be dispatched, the work of the other. -/
def State.forGrid (s : State) (g : Nat) : Option Inst :=
  let onDx := decide (g < 128)
  let queued := s.sch.inflight.filter s.gridQueued
  match firstOf (queued.filter (fun i => i.dxClass == onDx || i.raised || s.halfEmpty i.dxClass)) with
  | some i => some i
  | none =>
    if s.sch.inflight.any (fun j => j.dxClass == onDx && s.gridReady j) then none else firstOf queued

/-- The key of a unit among those with a stamp. -/
def unitKey (k : SleepKind) (n : Nat) : Nat := 65536 * (match k with
  | .tile => 0
  | .grid => 1
  | .row => 2
  | .stream => 3
  | .mover => 4
  | .update => 5) + n

/-- The unit is idle from now on, as far as its hold time goes (R358). -/
def State.stampUnit (s : State) (k : SleepKind) (n : Nat) : State :=
  { s with units := { s.units with woke := mput (unitKey k n) s.aon s.units.woke } }

/-- The grid can take an item: it is awake, not quarantined, and runs none (R145, R233). -/
def State.gridIdle (s : State) (g : Nat) : Bool :=
  s.units.awake.contains (.grid, g) && !s.units.quarantined.contains (.grid, g) &&
  !s.units.running.any (fun r => r.grid == g)

/-- An item of the instruction starts on grid `g`. -/
def State.runItem (s : State) (i : Inst) (g : Nat) : State :=
  { s with units := { s.units with running := s.units.running ++
      [{ grid := g, inst := i.id, item := i.work - s.queuedItems i, dw := i.code.op == 0x5002, dx := i.dxClass }] } }

/-- Idle grids take items, the lowest number first (R145). -/
def State.dispatch (s : State) : State :=
  (List.range 256).foldl (fun t g => if t.gridIdle g then (match t.forGrid g with
    | some i => t.runItem i g
    | none => t) else t) s

/-- The items of an instruction that run end without a result (R150, R234). -/
def State.dropRuns (s : State) (p : Nat → Bool) : State :=
  { s with units := { s.units with
      running := s.units.running.map (fun r => if p r.inst then { r with live := false } else r) } }

/-- The instruction's items go out: it writes `pend` when the last has ended. -/
def State.launchItems (s : State) (i : Inst) (items tiles result : Nat) (d : Desc) (e : Encoded) : State :=
  (s.putInst { i with phase := .running, items := items, work := items, tiles := tiles, pend := [(d, e)],
                      left := List.replicate d.outTiles (items / d.outTiles), doubt := [], made := [], posted := 0,
                      sat := cap32 e.sat, nf := cap32 e.nf, result := result }).dispatch

/-- Reads of frames by an instruction counted (R156). -/
def State.readFrames (s : State) (i : Inst) : State :=
  i.framesRead.foldl (fun t n => match t.frame n with
    | some f => t.readFrame f
    | none => t) s

/-- The frames consumed at completion under CONSUME (R282). -/
def Inst.consuming (i : Inst) : Inst :=
  if bitOf i.code.flags 5 then { i with consume := i.framesRead } else i

/-- A grid instruction whose checks gave `st`: it ends, or its items go out (R144). -/
def State.runGrid (s : State) (i : Inst) (st : Nat) (p : Product) (acc : Bool) : State :=
  let d := i.d 0
  let fs := s.framesStatus i
  if st ≠ stOk then s.fails i st
  else if fs ≠ stOk then s.fails i fs
  else if s.noGrids then s.fails i stHwUnavailable
  else
    let vs := (List.range d.count).map (fun k =>
      let v := s.productVal p (i.d 1) (i.d 2) d k
      if acc then (s.elemVal d 0 k).add v else v)
    let n := itemsOf d p.len
    (s.readFrames i).launchItems i.consuming n d.outTiles n d (encodeVals d 0 (fun _ => .rne) vs)

/-! ### GRD.FWD, GRD.DX, GRD.DW -/

/-- The product of GRD.FWD. -/
def fwdProduct (i : Inst) : Product :=
  let wide := i.code.imm0 == 1
  let tr := i.code.flag 7
  { kb := if wide then .wide else .block, win := if wide then 64 else 16, len := (i.d 1).e 0,
    ia := fun k _ m => (k, m), ib := fun k n _ => if tr then (n, k) else (k, n) }

/-- The checks of GRD.FWD (R290, R291). -/
def State.grdFwdStatus (s : State) (i : Inst) : Nat :=
  let y := i.d 0
  let x := i.d 1
  let w := i.d 2
  let wide := i.code.imm0 == 1
  let tr := i.code.flag 7
  firstFail [
    ((y.format == 0 || y.format == 1 || y.format == 2) && x.format == 2 &&
      (if wide then w.format == 1 && w.loc == 5 else w.format == 4), stOperandFormat),
    (w.e (if tr then 1 else 0) == x.e 0 && w.e (if tr then 0 else 1) == y.e 0 && x.e 1 == y.e 1 &&
      x.batchFits y && w.batchFits y, stShapeMismatch),
    (decide (i.code.imm0 ≤ 1), stImmInvalid),
    (decide (x.e 0 ≤ 65536), stReduceLength),
    (!s.seesawBeyond i, stIndexRange)]

/-- GRD.FWD (R45, R49, R134, R290). -/
def execGrdFwd (id : Nat) (s : State) : Host.Outcome State Fault Refusal :=
  s.start 0x5000 id (fun i => s.runGrid i (s.grdFwdStatus i) (fwdProduct i) false)

/-- The product of GRD.DX. -/
def dxProduct (i : Inst) : Product :=
  { kb := if (i.d 2).format = 1 then .derived 1 else .block, len := (i.d 1).e 0,
    ia := fun k _ m => (k, m), ib := fun k n _ => (n, k) }

/-- The checks of GRD.DX (R290, R291). -/
def State.grdDxStatus (s : State) (i : Inst) : Nat :=
  let dx := i.d 0
  let dy := i.d 1
  let w := i.d 2
  firstFail [
    ((dx.format == 3 || dx.format == 0) && dy.format == 3 &&
      (w.format == 4 || (w.format == 1 && w.loc == 5)), stOperandFormat),
    (w.e 0 == dx.e 0 && w.e 1 == dy.e 0 && dy.e 1 == dx.e 1 && dy.batchFits dx && w.batchFits dx,
      stShapeMismatch),
    (decide (dy.e 0 ≤ 65536), stReduceLength),
    (!s.seesawBeyond i, stIndexRange)]

/-- GRD.DX (R21, R148, R149, R290). -/
def execGrdDx (id : Nat) (s : State) : Host.Outcome State Fault Refusal :=
  s.start 0x5001 id (fun i => s.runGrid i (s.grdDxStatus i) (dxProduct i) false)

/-- The product of GRD.DW. -/
def dwProduct (i : Inst) : Product :=
  { len := (i.d 1).e 1, ia := fun k n _ => (n, k), ib := fun k _ o => (o, k) }

/-- The checks of GRD.DW (R290, R291). -/
def State.grdDwStatus (s : State) (i : Inst) : Nat :=
  let dw := i.d 0
  let x := i.d 1
  let dy := i.d 2
  firstFail [
    (dw.format == 0 && x.format == 2 && dy.format == 3, stOperandFormat),
    (x.e 0 == dw.e 0 && dy.e 0 == dw.e 1 && x.e 1 == dy.e 1 && x.batchFits dw && dy.batchFits dw,
      stShapeMismatch),
    (decide (x.e 1 ≤ 65536), stReduceLength),
    (!s.seesawBeyond i, stIndexRange)]

/-- GRD.DW (R148, R290, R292). -/
def execGrdDw (id : Nat) (s : State) : Host.Outcome State Fault Refusal :=
  s.start 0x5002 id (fun i => s.runGrid i (s.grdDwStatus i) (dwProduct i) (i.code.flag 6))

/-! ### Items -/

/-- The posts of an instruction's finished tiles, as far as the queue takes them: a tile that no consumer awaits is posted to
nobody, and one that finds the queue full is held and counted once (R176, R178). At most `k` tiles. -/
def State.postTiles (s : State) (id : Nat) : Nat → State
  | 0 => s
  | k + 1 =>
    match s.inst id with
    | none => s
    | some i =>
      if i.made.length ≤ i.posted then s
      else if !s.awaited id then (s.putInst { i with posted := i.posted + 1, held := false }).postTiles id k
      else if s.units.ftq.length < 4096 then
        let q := s.units.ftq ++ [(id, nth i.made i.posted)]
        let t := ({ s with units := { s.units with ftq := q } }).setF F.vecFtqPeak (max (s.f F.vecFtqPeak) q.length)
        (t.putInst { i with posted := i.posted + 1, held := false }).postTiles id k
      else if i.held then s
      else (s.addF F.vecFtqHolds 1).putInst { i with held := true }

/-- Output tiles of 128 × 128 along dimension 0 and dimension 1, and the one in which a flat element lies (R144). -/
def Desc.across (d : Desc) : Nat := (d.e 0 + 127) / 128
def Desc.down (d : Desc) : Nat := (d.e 1 + 127) / 128
def Desc.outTileOf (d : Desc) (k : Nat) : Nat :=
  k % d.e 0 / 128 + d.across * (k / d.e 0 % d.e 1 / 128 + d.down * (k / d.e 0 / d.e 1))

/-- The finished tile of a producer in which a flat element lies: an output tile of a grid instruction, and the outputs of
one vector for one column tile of an ARR.FWD (R176); and how many there are. -/
def Desc.finTileOf (d : Desc) (op k : Nat) : Nat :=
  if op = 0x4003 then k / d.e 0 * ((d.e 0 + 255) / 256) + k % d.e 0 / 256 else d.outTileOf k
def Desc.finTiles (d : Desc) (op : Nat) : Nat :=
  if op = 0x4003 then d.e 1 * (d.e 2 * d.e 3 * d.e 4) * ((d.e 0 + 255) / 256) else d.outTiles

/-- The output tiles that finished tile `t` of an ARR.FWD on the grids reaches into. -/
def Desc.partsOf (d : Desc) (t : Nat) : List Nat :=
  let ct := (d.e 0 + 255) / 256
  let v := t / ct
  ([2 * (t % ct), 2 * (t % ct) + 1].filter (fun x => decide (x < d.across))).map (fun x =>
    x + d.across * (v % d.e 1 / 128 + d.down * (v / d.e 1)))

/-- The finished tiles in the order of their posts once output tile `p` has its last slab: of a GRD instruction as they
complete, of an ARR.FWD in ascending order (R176). -/
def Inst.madeWith (i : Inst) (p : Nat) : List Nat :=
  if i.code.iclass = 5 then i.made ++ [p]
  else (List.range i.tiles).takeWhile (fun t => ((i.d 0).partsOf t).all (fun q => nth i.left q == 0))

/-- An item of output tile `p` is settled; with the last of the tile its elements are written, and what that finishes is
posted (R144, R176, R231). -/
def State.settleItem (s : State) (id p : Nat) : State :=
  match s.inst id with
  | none => s
  | some i =>
    let n := nth i.left p - 1
    let j := { i with left := i.left.set p n }
    if n ≠ 0 then s.putInst j
    else
      let t := i.pend.foldl (fun t x => t.wrPart x.1 x.2 (fun k => x.1.outTileOf k == p)) s
      (t.putInst { j with made := j.madeWith p }).postTiles id i.tiles

/-- Every item has ended and every verdict agrees: the instruction has written its results and ends (R144, R231). -/
def State.commitRun (s : State) (id : Nat) : State :=
  match s.inst id with
  | none => s
  | some i =>
    if i.phase = .running ∧ i.items = 0 ∧ !i.pend.isEmpty ∧ s.units.unsettled.all (fun u => u.2.2 != id) then
      let t := i.pend.foldl (fun t x => t.coverLines x.1) s
      (t.putInst { i.finish i.sat i.nf (i.result + (if i.otherHalf ∧ i.code.iclass = 5 then 2 ^ 62 else 0) +
        (if i.deferred then 2 ^ 63 else 0)) with pend := [] }).settleTags id
    else s

/-- The output tile that an item is of: the slabs of a tile have consecutive numbers. -/
def Inst.itemTile (i : Inst) (item : Nat) : Nat := item / (i.work / i.left.length)

/-- An item of the instruction ends on grid `g` with its verdict: it settles its tile, or stands in doubt until the
disagreement is (R144, R230, R232). -/
def State.endItem (s : State) (i : Inst) (r : GridRun) (agree : Bool) : State :=
  let p := i.itemTile r.item
  let j := { i with items := i.items - 1, otherHalf := i.otherHalf || (r.dw == decide (r.grid < 128)) }
  if agree then ((s.putInst j).settleItem i.id p).commitRun i.id
  else
    let s := s.putInst { j with doubt := j.doubt ++ [(r.grid, p)] }
    { s with units := { s.units with unsettled := s.units.unsettled ++ [(.grid, r.grid, i.id)] } }

/-- The item that a grid runs has ended: the grid is free again, and the item counts (R150). -/
def State.itemEnds (s : State) (r : GridRun) : State :=
  (({ s with units := { s.units with running := s.units.running.erase r } }).stampUnit .grid r.grid).addF F.grdItems 1

/-- GRID_ITEM: the item of instruction `id` that grid `g` runs ends, with its residue verdict (R144, R150, R230). -/
def execGridItem (id g : Nat) (agree : Bool) (s0 : State) : Host.Outcome State Fault Refusal :=
  let s := s0.dispatch
  match s.units.running.find? (fun r => r.grid == g && r.inst == id) with
  | none => .next s0
  | some r =>
    let t := s.itemEnds r
    match s.inst id with
    | none => .next t.dispatch
    | some i => if !r.live || i.items == 0 then .next t.dispatch else .next (t.endItem i r agree).dispatch

/-! ### The finished-tile queue -/

/-- FTQ_POST: a held post enters the queue once there is room, and those behind it follow (R178). -/
def execFtqPost (s : State) : Host.Outcome State Fault Refusal :=
  match s.sch.inflight.find? (fun i => i.held && (decide (s.units.ftq.length < 4096) || !s.awaited i.id)) with
  | none => .next s
  | some i => .next (s.postTiles i.id i.tiles)

/-! ### Arbitration and failed parts (R232 to R234) -/

/-- The unit number of a checked unit (R415). -/
def unitNo (k : UnitKind) (n : Nat) : Nat :=
  match k with
  | .grid => 0x3000 + n
  | .row => 0x3100 + n
  | .update => 0x3180 + n
  | .adder => 0x3190 + n

/-- How many units of a kind there are. -/
def unitCount (k : UnitKind) : Nat :=
  match k with
  | .grid => 256
  | .row => 32
  | .update => 4
  | .adder => 12

/-- The quarantine registers brought up to date (R233). -/
def State.showQuarantine (s : State) : State :=
  let q := s.units.quarantined
  let mask (n : Nat) : Nat := ((List.range 64).map (fun k => if q.contains (.grid, 64 * n + k) then 2 ^ k else 0)).sum
  let count (k : UnitKind) : Nat := q.countP (fun x => x.1 == k)
  let s := (((s.setF F.grdQmask0 (mask 0)).setF F.grdQmask1 (mask 1)).setF F.grdQmask2 (mask 2)).setF F.grdQmask3 (mask 3)
  ((s.setF F.colQuarantineRows (count .row)).setF F.colQuarantineUpdSlices (count .update)).setF
    F.colQuarantineAdderPorts (count .adder)

/-- With every grid quarantined, what still has items for them cannot run (R233). -/
def State.stopGrids (s : State) : State :=
  if !s.noGrids then s
  else s.modAll (fun i => if s.gridQueued i then { i.end_ stHwUnavailable with items := 0, pend := [] } else i)

/-- A unit quarantined; a half of the grids that becomes empty is reported (R233). -/
def State.quarantine (s : State) (k : UnitKind) (n : Nat) : State :=
  if s.units.quarantined.contains (k, n) || decide (unitCount k ≤ n) then s
  else
    let t := ({ s with units := { s.units with quarantined := s.units.quarantined ++ [(k, n)] } }).showQuarantine
    let dx := decide (n < 128)
    if k = .grid then
      let t := t.stopGrids
      if t.halfEmpty dx then t.ev 0x2001 (unitNo k n) (if dx then 0 else 1) 0 else t
    else t

/-- A disagreement on the unit exists: of a grid it is recorded; of a row unit it arises in a row
instruction about to run, of the update engine and the adders in a launched step. -/
def State.disagrees (s : State) (k : UnitKind) (n id : Nat) : Bool :=
  let works := decide (n < unitCount k) && !s.units.quarantined.contains (k, n)
  match k with
  | .grid => s.units.unsettled.contains (.grid, n, id)
  | .row => works && (match s.inst id with
    | some i => i.code.iclass == 6 && s.ready i
    | none => false)
  | .update => works && s.pass.launched
  | .adder => works && s.pass.launched

/-- The result of an unsettled arbitration is withheld (R232, R458). -/
def State.withhold (s : State) (k : UnitKind) (n id code : Nat) : State :=
  let detail := unitNo k n * 65536 + code
  match k, s.inst id with
  | .grid, some i => s.checkFails i rsnCheck detail
  | .row, some i => s.checkFails i rsnCheck detail
  | .grid, none => s
  | .row, none => s
  | .update, _ => s.failCheck rsnCheck detail
  | .adder, _ => s.failCheck rsnCheck detail

/-- A disagreement of a grid settled with a result: its item settles its tile. -/
def State.clearDoubt (s : State) (k : UnitKind) (n id : Nat) : State :=
  match k, s.inst id with
  | .grid, some i => (match i.doubt.find? (fun x => x.1 == n) with
    | some x => (s.putInst { i with doubt := i.doubt.erase x }).settleItem id x.2
    | none => s)
  | _, _ => s

/-- DIGITAL_ARBITRATION (R232, R233). -/
def execDigitalArbitration (k : UnitKind) (n id : Nat) (v : ArbVerdict) (s : State) :
    Host.Outcome State Fault Refusal :=
  if !s.disagrees k n id then .next s
  else
    let s := { s with units := { s.units with unsettled := s.units.unsettled.erase (k, n, id) } }
    let s := s.quarantine k n
    match v with
    | .original => .next (((s.addF F.colChecksChecker 1).ev 0x5105 (unitNo k n) 0 0).clearDoubt k n id |>.commitRun id)
    | .checker => .next (((s.addF F.colChecksUnit 1).ev 0x5106 (unitNo k n) 0 0).clearDoubt k n id |>.commitRun id)
    | .neither => .next (((s.addF F.colChecksUnsettled 1).ev 0x5107 (unitNo k n) 0 0).withhold k n id 0x5107)

/-- The checked unit of a unit number, if it is one of R233. -/
def unitOf (n : Nat) : Option (UnitKind × Nat) :=
  if 0x3000 ≤ n ∧ n < 0x3100 then some (.grid, n - 0x3000)
  else if 0x3100 ≤ n ∧ n < 0x3120 then some (.row, n - 0x3100)
  else if 0x3180 ≤ n ∧ n < 0x3184 then some (.update, n - 0x3180)
  else if 0x3190 ≤ n ∧ n < 0x319c then some (.adder, n - 0x3190)
  else none

/-- The 64-byte lines, of those in a list, that parts of an instruction have written when another part fails: which is not
given, so each is free (R234). -/
def State.partLines (s : State) (l : List (Nat × Nat)) : List (Nat × Nat) :=
  (l.zipIdx.filter (fun x => bitOf (Config.freeWord (s.freeCtr + x.2 / 32)) (x.2 % 32))).map (fun x => x.1)

/-- The 64-byte lines of the storage an instruction writes in memory, with their space. -/
def Inst.writtenLines (i : Inst) : List (Nat × Nat) :=
  i.access.flatMap (fun x => match x with
    | (true, .bytes space lo hi) => (List.range ((hi - 1) / 64 - lo / 64 + 1)).map (fun k => (space, lo / 64 + k))
    | _ => [])

/-- Lines tagged by an instruction (R234). -/
def State.tagLines (s : State) (id : Nat) (l : List (Nat × Nat)) : State :=
  l.foldl (fun t x => t.addPoison x.1 x.2 (some id)) s

/-- A finished-tile consumer runs again after its producer does (R178, R234). -/
def Inst.unfeed (i : Inst) (p : Nat) : Inst :=
  if i.producer = some p ∧ i.phase ≠ .done then { i with phase := .waiting, took := [], sat := 0, nf := 0 } else i

/-- The instruction starts over: every item is to run again, and what it has posted is withdrawn (R234). -/
def State.runAgain (s : State) (i : Inst) : State :=
  let j := if i.phase = .running ∧ 0 < i.work then { i with
      again := 1, items := i.work, otherHalf := false, left := i.left.map (fun _ => i.work / i.left.length),
      doubt := [], made := [], posted := 0, held := false }
    else { i with again := 1, phase := .waiting, took := [], sat := 0, nf := 0 }
  let s := ((s.dropRuns (fun m => m == i.id)).putInst j).modAll (fun k => k.unfeed i.id)
  { s with units := { s.units with
      ftq := s.units.ftq.filter (fun x => x.1 != i.id), unsettled := s.units.unsettled.filter (fun u => u.2.2 != i.id) } }

/-- PART_FAILURE: a part of an instruction fails on a unit; lines that other parts have written are tagged, and the
instruction runs again whole, or a second failure is a failed check (R171, R234). Movers follow R186. -/
def execPartFailure (id unit : Nat) (s : State) : Host.Outcome State Fault Refusal :=
  match s.inst id with
  | none => .next s
  | some i =>
    let runs := (i.phase == .running && (decide (0 < i.items) || i.code.iclass == 3)) ||
      (s.ready i && (i.code.iclass == 3 || i.code.iclass == 6))
    if !runs then .next s
    else
      let s := match unitOf unit with
        | some (k, n) => s.quarantine k n
        | none => s
      if 0 < i.again then .next (s.checkFails i rsnCheck (unit * 65536))
      else
        let lines := if i.phase = .running ∧ i.items = i.work then []
          else i.members.flatMap (fun m => ((s.inst m).map Inst.writtenLines).getD [])
        .next ((s.tick.tagLines i.lead (s.partLines lines)).runAgain i).dispatch

end Sys2Proof.Machine
end

