-- ==== Sys2Proof/Machine/Array.lean ====
section
/-! DEFINITION. The arrays between instructions: tiles and layers, levels (R89 to R92, R97), row writes,
seals, failures and wear (R106 to R115), outliers (R128 to R131), and calibration (R117 to R124). -/

namespace Sys2Proof.Machine

/-! ### Tiles and layers -/

/-- Tiles of the device (R90). -/
def tileCount : Nat := 12288

/-- A tile as it stands. -/
def State.tile (s : State) (t : Nat) : Tile := (mget t s.arr.tiles).getD {}

/-- A tile replaced. -/
def State.putTile (s : State) (t : Nat) (x : Tile) : State :=
  { s with arr := { s.arr with tiles := if x = {} then mdel t s.arr.tiles else mput t x s.arr.tiles } }

/-- A tile changed. -/
def State.modTile (s : State) (t : Nat) (g : Tile → Tile) : State := s.putTile t (g (s.tile t))

/-- Every listed tile changed. -/
def State.modTiles (s : State) (g : Tile → Tile) : State :=
  { s with arr := { s.arr with tiles := s.arr.tiles.map (fun x => (x.1, g x.2)) } }

/-- A layer replaced. -/
def State.putLayer (s : State) (h : Nat) (l : Layer) : State :=
  { s with arr := { s.arr with layers := mput h l s.arr.layers } }

/-- A layer changed. -/
def State.modLayer (s : State) (h : Nat) (g : Layer → Layer) : State :=
  { s with arr := { s.arr with layers := mmod h g s.arr.layers } }

/-- Every layer changed. -/
def State.modLayers (s : State) (g : Layer → Layer) : State :=
  { s with arr := { s.arr with layers := s.arr.layers.map (fun x => (x.1, g x.2)) } }

/-- Row tiles and column tiles of a layer (R103). -/
def Layer.rt (l : Layer) : Nat := (l.inDim + 1023) / 1024
def Layer.ct (l : Layer) : Nat := (l.outDim + 255) / 256

/-- The tile at position (rt, ct). -/
def Layer.at_ (l : Layer) (rt ct : Nat) : Option Nat := (l.tiles.getD (rt * l.ct + ct) none)

/-- The tiles that hold positions. -/
def Layer.held (l : Layer) : List Nat := l.tiles.filterMap id

/-- A tile is FREE. -/
def Tile.isFree (x : Tile) : Bool := x.state == 0

/-- Free healthy tiles (R103, R116). -/
def State.freeCount (s : State) : Nat := tileCount - s.arr.tiles.countP (fun x => !x.2.isFree)

/-- The `n` lowest-numbered free tiles from `t` on, at most `fuel` tiles looked at. -/
def State.lowestFree (s : State) : Nat → Nat → Nat → List Nat
  | 0, _, _ => []
  | fuel + 1, t, n =>
    if n = 0 then [] else if (s.tile t).isFree then t :: s.lowestFree fuel (t + 1) (n - 1)
    else s.lowestFree fuel (t + 1) n

/-- The lowest-numbered free tile. -/
def State.freeTile (s : State) : Option Nat := (s.lowestFree tileCount 0 1).head?

/-- The temperature of a tile's cluster in 0.25 °C (R90). -/
def State.clusterTemp (s : State) (t : Nat) : Int := (mget (t / 64) s.arr.temps).getD 100

/-- The largest row write count of a tile (R111). -/
def Tile.maxWear (x : Tile) : Nat := x.wear.foldl (fun a r => max a r.2) 0

/-! ### Levels -/

/-- The BF16 pattern of a parameter in an epoch: the committed one, or the shadow. -/
def State.param (s : State) (shadow : Bool) (p : Nat) : Nat :=
  (mget p (if s.fb F.colEpochSel != shadow then s.seesaw.epoch1 else s.seesaw.epoch0)).getD 0

/-- The parameter offset of weight (i, o) of a layer (R97). -/
def Layer.offset (l : Layer) (i o : Nat) : Nat := l.master + i + l.inDim * o

/-- The column scale of an output. -/
def Layer.scale (l : Layer) (o : Nat) : Rat := (bf16Val (nth l.scales o)).rat

/-- The doubled level that master `w` takes under scale `sc`; a non-finite master keeps `old` (R39). -/
def masterLevel (wt : Bool) (sc : Rat) (w : Nat) (old : Int) : Int :=
  match bf16Val w with
  | .nan => old
  | .inf _ => old
  | .negZero => level2 wt (levelCode wt 0)
  | .fin q => level2 wt (levelCode wt (q / sc))

/-- The doubled level of a cell (R91). -/
def Tile.level (x : Tile) (row col : Nat) : Int := (mget (row * 256 + col) x.levels).getD 0

/-- The doubled level of row `row` of a reference column, REF0 or REF1 (R89, R91). -/
def refLevel (second : Bool) (row : Nat) : Int :=
  let d : Int := 2 * (row % 4 : Nat) - 3
  if second then -d else d

/-- The content of a checksum cell of tile `t`: the mean that it was written to, within 1/32 (R89). -/
def Tile.checksumCell (t : Nat) (x : Tile) (row : Nat) : Rat :=
  let off : Rat := (Config.checksumCell t row ((mget row x.wear).getD 0) : Rat) / 2 ^ 20
  (((mget row x.checksum).getD 0 : Int) : Rat) / 256 + max (-1 / 32) (min (1 / 32) off)

/-- The content of a cell by physical column (R89, R92). -/
def Tile.cell (t : Nat) (x : Tile) (row p : Nat) : Rat :=
  if p < 256 then (if x.spareValid && x.spareFor == p then 0 else ((x.level row p : Int) : Rat))
  else if p = 256 then x.checksumCell t row
  else if p = 257 then ((refLevel false row : Int) : Rat)
  else if p = 258 then ((refLevel true row : Int) : Rat)
  else if x.spareValid then ((x.level row x.spareFor : Int) : Rat) else 0

/-- The same set. -/
def Tile.setLevel (x : Tile) (row col : Nat) (d : Int) : Tile :=
  { x with levels := if d = 0 then mdel (row * 256 + col) x.levels else mput (row * 256 + col) d x.levels }

/-- The cell of the tile holds weight (i, o) of the layer, if it is live (R97). -/
def Layer.weightAt (l : Layer) (x : Tile) (row col : Nat) : Option (Nat × Nat) :=
  let i := x.rowTile * 1024 + row
  let o := x.colTile * 256 + col
  if i < l.inDim ∧ o < l.outDim then some (i, o) else none

/-- Live data columns of a tile. -/
def Layer.liveCols (l : Layer) (ct : Nat) : Nat := min 256 (l.outDim - ct * 256)

/-- The level that an epoch gives a cell, `old` for a non-finite master (R104, R108). -/
def State.targetLevel (s : State) (l : Layer) (x : Tile) (shadow : Bool) (row col : Nat) (old : Int) : Int :=
  match l.weightAt x row col with
  | none => 0
  | some (i, o) => masterLevel l.wt (l.scale o) (s.param shadow (l.offset i o)) old

/-- The level that a batch gives a cell; programming forgets what a non-finite master held (R104). -/
def State.batchLevel (s : State) (l : Layer) (x : Tile) (b : Batch) (row c : Nat) : Int :=
  s.targetLevel l x b.shadow row c (if b.full then 0 else x.level row c)

/-- A row written with the levels of an epoch, and its checksum cell with their sum (R106, R108). -/
def State.writeLevels (s : State) (l : Layer) (x : Tile) (b : Batch) (row : Nat) : Tile :=
  let y := (List.range 256).foldl (fun y c => y.setLevel row c (s.batchLevel l x b row c)) x
  let sum := ((List.range 256).map (y.level row)).sum
  { y with checksum := if sum = 0 then mdel row y.checksum else mput row sum y.checksum }

/-- The physical column of a logical data column (R92). -/
def Tile.physical (x : Tile) (c : Nat) : Nat := if x.spareValid && x.spareFor == c then 259 else c

/-- The target cells of a row write, by physical column (R104, R106, R110): programming pulses every data cell and the
checksum cell, the write of a remapped column its one cell, and any other the cells that change and the checksum cell. -/
def State.targetCells (s : State) (l : Layer) (x : Tile) (b : Batch) (row : Nat) : List Nat :=
  let moved := ((List.range 256).filter (fun c => b.full || x.level row c != s.batchLevel l x b row c)).map x.physical
  let spare := if b.spare && !moved.contains 259 then [259] else []
  moved ++ spare ++ (if moved.isEmpty && b.spare then [] else [256])

/-- Rows whose levels differ from those that the committed epoch gives the tile; a cell whose master is not finite keeps its
level (R39, R108, R115). -/
def State.staleRows (s : State) (l : Layer) (x : Tile) : List Nat :=
  (List.range 1024).filter (fun r => (List.range 256).any (fun c =>
    x.level r c != s.targetLevel l x false r c (x.level r c)))

/-! ### Outliers (R128 to R131) -/

/-- Slots of the pool (R129). -/
def poolSlots : Nat := 4194304

/-- Slots granted to no tile. -/
def State.poolFree (s : State) : Nat := poolSlots - (s.arr.tiles.map (fun x => x.2.share)).sum

/-- The largest share of a tile (R142). -/
def State.maxShare (s : State) : Nat := max 64 (min 1024 (s.f F.arrOutCfgMaxShare / 64 * 64))

/-- The share granted at placement. -/
def State.baseShare (s : State) : Nat := min 320 (s.f F.arrOutCfgBaseShare / 64 * 64)

/-- The correction of a weight that is an outlier (R39). -/
def outlierOf (wt : Bool) (sc : Rat) (w : Nat) : Option Rat :=
  let v := bf16Val w
  if v.nonFinite || !isOutlier wt (v.rat / sc) then none
  else
    let top : Rat := if wt then 1 else 3 / 2
    some (v.rat - (if v.rat < 0 then -top else top) * sc)

/-- The outliers of a tile in an epoch, in order of rows and columns. -/
def State.candidatesOf (s : State) (l : Layer) (x : Tile) (shadow : Bool) : List (Nat × Rat) :=
  (List.range 1024).flatMap (fun r => (List.range 256).filterMap (fun c =>
    match l.weightAt x r c with
    | none => none
    | some (i, o) => (outlierOf l.wt (l.scale o) (s.param shadow (l.offset i o))).map
        (fun d => (r * 256 + c, d))))

/-- The candidate of largest |d|, the first of equals. -/
def topCandidate (cs : List (Nat × Rat)) : Option (Nat × Rat) :=
  cs.foldl (fun a c => match a with
    | none => some c
    | some b => if qabs b.2 < qabs c.2 then some c else some b) none

/-- The `n` top candidates (R130). -/
def topCandidates : Nat → List (Nat × Rat) → List (Nat × Rat)
  | 0, _ => []
  | n + 1, cs => match topCandidate cs with
    | none => []
    | some c => c :: topCandidates n (cs.filter (fun x => x.1 != c.1))

/-- Steps of 64 slots that a share wants to grow by for `need` slots (R129). -/
def State.growth (s : State) (share need : Nat) : Nat := min ((need - share + 63) / 64) ((s.maxShare - share) / 64)

/-- The outlier set of tile `t` re-evaluated against an epoch, with `held` slots of the pool spoken for by the tiles that go
before it (R129, R130). -/
def State.reevaluate (s : State) (t : Nat) (shadow : Bool) (held : Nat) : State :=
  let x := s.tile t
  match s.layer x.layer with
  | none => s
  | some l =>
    let cs := s.candidatesOf l x shadow
    let share := x.share + 64 * min (s.growth x.share cs.length) ((s.poolFree - held) / 64)
    let top := topCandidates (min share cs.length) cs
    let slots := top.foldl (fun m c => mput c.1 (floatEnc 23 .rne (.fin c.2)).val m) []
    let clamps := cs.length - top.length
    let s := s.putTile t { x with
      share := share, slots := slots, clamps := clamps,
      comSlots := if shadow then x.comSlots else slots,
      comClamps := if shadow then x.comClamps else clamps }
    let s := s.addF F.arrOutStatusClamps clamps
    if 0 < clamps && !l.fullSeen then
      (s.modLayer x.layer (fun l => { l with fullSeen := true })).ev 0x100d unitPool x.layer clamps
    else s

/-! ### Fallback (R139, R140) -/

/-- A layer enters fallback by a route. -/
def State.enterFallback (s : State) (h route : Nat) : State :=
  match s.layer h with
  | none => s
  | some l =>
    if l.fallback then s
    else
      let s := s.putLayer h { l with fallback := true, route := route }
      let s := l.held.foldl (fun t k => t.modTile k (fun x => { x with fresh := 0 })) s
      s.ev 0x100f unitDevice h route

/-- A layer is to be in fallback: in a step from its next launch on (R20), else at once. -/
def State.fallsBack (s : State) (h route : Nat) : State :=
  if s.pass.launched then s.modLayer h (fun l => { l with pendFall := some (l.pendFall.getD route) }) else s.enterFallback h route

/-- A layer leaves fallback. -/
def State.leaveFallback (s : State) (h : Nat) : State :=
  match s.layer h with
  | none => s
  | some l => if l.fallback then
      (s.putLayer h { l with fallback := false }).ev 0x1010 unitDevice h 0 else s

/-! ### Batches and seals -/

/-- Every row of a tile. -/
def allRows : List Nat := List.range 1024

/-- A tile begins a batch of row writes; a full one forgets what calibration and checksum keep, and writes the rows left
from a committed step with the rest (R125, R126). -/
def Tile.begin (x : Tile) (b : Batch) : Tile :=
  let y := { x with batch := some b }
  if b.full then { y with
    dirty := if x.late then [] else x.dirty, late := false, base := [none, none, none, none], devRun := 0,
    fits := y.fits.map (fun f => { f with ever := false, done := false }) } else y

/-- An instruction that waits for tiles: `t` is replaced by `u`, or dropped. -/
def Inst.rewant (i : Inst) (t : Nat) (u : Option Nat) : Inst :=
  { i with wants := i.wants.flatMap (fun k => if k = t then u.toList else [k]) }

/-- The outlier slots and clamps of a layer's tiles. -/
def State.slotsOf (s : State) (l : Layer) : Nat × Nat :=
  ((l.held.map (fun t => (s.tile t).slots.length)).sum, (l.held.map (fun t => (s.tile t).clamps)).sum)

/-- Instructions of opcode `op` that no longer wait for any tile end well. -/
def State.endWaiters (s : State) (op : Nat) : State :=
  s.sch.inflight.foldl (fun t i =>
    if i.code.op = op ∧ i.phase = .running ∧ i.wants = [] then
      let h := (i.d 0).base % 2 ^ 16
      if op = 0x4001 then
        (match t.layer h with
          | none => t.putInst (i.finish i.sat i.nf 0)
          | some l =>
            let n := t.slotsOf l
            (t.modLayer h (fun l => { l with programmed := true })).putInst
              (i.finish i.sat i.nf (n.1 + n.2 * 2 ^ 32)))
      else t.putInst (i.finish i.sat i.nf i.result)
    else t) s

/-- The place of a batch in the order of R107. -/
def Batch.key (b : Batch) (t : Nat) : Nat :=
  (match b.kind with
    | .restore => 0
    | .crossing => 1
    | .program => 2
    | .scrub => 2) * 2 ^ 64 + (if b.kind = .crossing then b.order else 0) * 2 ^ 20 + t

/-- Slots that the tiles before a place in the order of R107 want to take from the pool at their seals (R130). -/
def State.spokenFor (s : State) (key : Nat) : Nat :=
  (s.arr.tiles.map (fun x => match x.2.batch, s.layer x.2.layer with
    | some c, some l =>
      if c.key x.1 < key ∧ (c.kind = .crossing ∨ c.kind = .program) then
        64 * s.growth x.2.share (s.candidatesOf l x.2 c.shadow).length
      else 0
    | _, _ => 0)).sum

/-- The last row of a batch has verified: the tile is sealed (R114), its outliers are re-evaluated, or after a restore are
the committed ones again (R131), and after programming in full its calibration is due first (R126, R286). -/
def State.sealTile (s : State) (t : Nat) (b : Batch) : State :=
  let s := s.modTile t (fun x => { x with
    sealed := true, batch := none, epochStep := b.step % 2 ^ 32,
    due := x.due || b.full, calFirst := x.calFirst || b.full, suspect := x.suspect && !b.full,
    answered := x.answered && !b.full, fresh := if b.renew then 1 else x.fresh })
  let s := if b.kind = .restore then s.modTile t (fun x => { x with slots := x.comSlots, clamps := x.comClamps })
    else s.reevaluate t b.shadow (s.spokenFor (b.key t))
  let s := if b.full then s.modAll (fun i => if i.code.op = 0x4001 then i.rewant t none else i) else s
  s.endWaiters 0x4001

/-- A tile goes out of use and its position migrates to the lowest free tile, which takes over the batch, or is programmed
in full from the epoch of the tile's levels and writes the rows that are still dirty (R110). The header of a tile out of use
names no layer and no position: R112 gives LAYER while PLACED and says nothing of the rest. DESIGN CHOICE. -/
def State.retire (s : State) (t state reason : Nat) : State :=
  let x := s.tile t
  let gone (y : Tile) : Tile := { y with
    state := state, reason := reason, layer := 0, rowTile := 0, colTile := 0, answered := false, batch := none, dirty := [], late := false, share := 0,
    slots := [], comSlots := [], clamps := 0, comClamps := 0, rewritten := [], due := false,
    calFirst := false, suspect := false, csFault := false }
  let tell (v : State) (u : Nat) : State := if state = 3 then v.ev 0x100c t 0 0 else v.ev 0x1003 t reason u
  match s.layer x.layer with
  | none => tell (s.modTile t gone) 0xffff
  | some l =>
    if x.state ≠ 1 then tell (s.modTile t gone) 0xffff
    else
      let pos := x.rowTile * l.ct + x.colTile
      let s := s.modTile t gone
      match s.freeTile with
      | some u =>
        let b : Batch := match x.batch with
          | some b => { b with rows := allRows, full := true }
          | none =>
            let crossed := !x.rewritten.isEmpty
            { kind := .program, rows := allRows, shadow := crossed, step := if crossed then s.stepNow else s.c, full := true }
        let s := s.modTile u (fun y => ({ y with
          state := 1, reason := 0, layer := x.layer, rowTile := x.rowTile, colTile := x.colTile,
          share := x.share, clips := [], dirty := x.dirty, late := x.late, comSlots := x.comSlots, comClamps := x.comClamps,
          rewritten := [], fresh := 0 } : Tile).begin b)
        let s := s.putLayer x.layer { l with tiles := l.tiles.set pos (some u) }
        tell (s.modAll (fun i => if i.code.iclass = 4 then i.rewant t (some u) else i)) u
      | none =>
        let s := s.putLayer x.layer { l with tiles := l.tiles.set pos none }
        let s := s.modAll (fun i => if i.code.iclass = 4 then i.rewant t none else i)
        let s := (tell s 0xffff).ev 0x1004 t x.layer 0
        ((s.fallsBack x.layer 1).endWaiters 0x4001).endWaiters 0x4006

/-- A cell of physical column `p` failed twice (R110). -/
def State.columnFails (s : State) (t p : Nat) : State :=
  let x := s.tile t
  let s := s.modTile t (fun x => { x with failedCols := if x.failedCols.contains p then x.failedCols
    else x.failedCols ++ [p] })
  if p < 256 ∧ !x.spareValid then
    (s.modTile t (fun x => { x with
      spareValid := true, spareFor := p,
      batch := x.batch.map (fun b => { b with rows := allRows, spare := true }) })).ev 0x1002 t p 0
  else s.retire t 2 (if p < 256 then 2 else 3)

/-- The failed columns of one row write in turn, while the tile is in use. -/
def State.columnsFail (s : State) (t : Nat) (ps : List Nat) : State :=
  ps.foldl (fun s p => if (s.tile t).state = 1 then s.columnFails t p else s) s

/-- Target cells pulsed at once (R116). -/
def State.cellBudget (s : State) : Nat := max 1024 (min 0x20000 (s.f F.arrWcfgCellBudget))

/-- How many target cells the next row write of a tile has (R106, R388). -/
def State.rowCells (s : State) (x : Tile) : Nat := match x.batch with
  | none => 0
  | some b => (match b.rows with
    | [] => 0
    | r :: _ => if b.kind = .scrub then 258 else match s.layer x.layer with
      | none => 0
      | some l => (s.targetCells l x b r).length)

/-- The write controller has the tile's row write in progress: with the target cells of the row writes that go before it on
other tiles that are awake, its own stay in the budget (R107). -/
def State.mayWrite (s : State) (t : Nat) (b : Batch) : Bool :=
  decide (((s.arr.tiles.filter (fun x => (match x.2.batch with
    | some c => decide (c.key x.1 < b.key t)
    | none => false) && s.units.awake.contains (.tile, x.1))).map (fun x => s.rowCells x.2)).sum + s.rowCells (s.tile t)
    ≤ s.cellBudget)

/-! ### Scrubs (R388, R389) -/

/-- Every tile of the scrub is done: its counts show, and what waited for it ends (R299, R389, R395); retirement is
reported (R387). -/
def State.endScrub (s : State) : State :=
  if !s.sec.scrubLeft.isEmpty then s
  else
    let n := s.sec.scrubOf
    let t := ((s.setF F.secScrubRunning 0).setF F.secScrubScrubbed n).setF F.secScrubFailed s.sec.scrubBad.length
    let t := t.modAll (fun i => if i.code.op = 0x9002 ∧ i.phase = .running then i.finish 0 0 n else i)
    let t := if s.sec.scrubCmd then (t.setF F.secCmdStatusBusy 0).setF F.secCmdStatusStatus 0 else t
    let t := if s.sec.scrubCmd && s.f F.secCmdStatusLastCmd == 4 then t.ev 0xa008 unitSec 3 0 else t
    { t with sec := { s.sec with scrubCmd := false, scrubTime := s.aon } }

/-- A scrub of tiles begins; `cmd` when a SEC command waits for it. -/
def State.startScrub (s : State) (ts : List Nat) (cmd : Bool) : State :=
  let t := ts.foldl (fun u k => u.modTile k (fun x => x.begin { kind := .scrub, rows := allRows })) s
  ({ t with sec := { t.sec with scrubLeft := ts, scrubBad := [], scrubOf := ts.length, scrubCmd := cmd } }).setF
    F.secScrubRunning 1 |>.endScrub

/-- The header of a scrubbed tile (R388). -/
def Tile.scrubbed (x : Tile) : Tile :=
  if x.state = 1 then { x with sealed := true, batch := none, epochStep := 0 }
  else { x with sealed := true, batch := none, epochStep := 0, layer := 0, rowTile := 0, colTile := 0 }

/-- A row write of a scrub ends: the row is at D = 0; a tile with a cell that failed twice counts as failed, and
nothing is remapped. -/
def State.scrubRow (s : State) (t : Nat) (b : Batch) (r : Nat) (rest : List Nat) (bad : Bool) : State :=
  let x := s.tile t
  let y := { x with
    sealed := false, batch := some { b with rows := rest }, levels := x.levels.filter (fun l => l.1 / 256 != r),
    checksum := mdel r x.checksum,
    wear := mput r (min 0xffffff ((mget r x.wear).getD 0 + 1)) x.wear }
  let s := if bad && !s.sec.scrubBad.contains t then
    { s with sec := { s.sec with scrubBad := s.sec.scrubBad ++ [t] } } else s
  if rest.isEmpty then
    (let u := s.putTile t y.scrubbed
     ({ u with sec := { u.sec with scrubLeft := u.sec.scrubLeft.filter (· != t) } }).endScrub)
  else s.putTile t y

/-! ### Row writes -/

/-- A row write of a batch of a placed layer ends (R106, R108, R110, R111, R114). A row write that was repeated counts once
in the wear: R111 counts row writes, and R110 calls the repeat one of the same row write. DESIGN CHOICE. -/
def State.rowWritten (s : State) (tile : Nat) (l : Layer) (b : Batch) (r : Nat) (rest failed : List Nat) : State :=
  let x := s.tile tile
  let y := s.writeLevels l x b r
  let y := { y with
    sealed := false, batch := some { b with rows := rest },
    wear := mput r (min 0xffffff ((mget r x.wear).getD 0 + 1)) x.wear,
    rewritten := if b.shadow && !x.rewritten.contains r then x.rewritten ++ [r] else x.rewritten }
  let s := (s.putTile tile y).columnsFail tile (failed.filter (s.targetCells l x b r).contains)
  let s := s.modPup (fun p => { p with acc := { p.acc with rows := p.acc.rows + (if b.kind = .program then 0 else 1) } })
  match (s.tile tile).batch with
  | some c => if c.rows.isEmpty then s.sealTile tile c else s
  | none => s

/-- ROW_WRITE: the row write of `tile` ends (R106, R388). -/
def execRowWrite (tile : Nat) (failed : List Nat) (s : State) : Host.Outcome State Fault Refusal :=
  let x := s.tile tile
  match x.batch with
  | none => .next s
  | some b =>
    if !s.mayWrite tile b || !s.units.awake.contains (.tile, tile) then .next s
    else match b.rows with
      | [] => .next s
      | r :: rest =>
        if b.kind = .scrub then .next (s.scrubRow tile b r rest !failed.isEmpty)
        else match s.layer x.layer with
          | none => .next s
          | some l => .next (s.rowWritten tile l b r rest failed)

/-! ### Level-crossing writes (R25, R108) -/

/-- The ranges cover `lo` up to `hi`. -/
def covered (rs : List (Nat × Nat)) (hi : Nat) : Nat → Nat → Bool
  | 0, lo => decide (hi ≤ lo)
  | k + 1, lo =>
    if hi ≤ lo then true
    else match rs.find? (fun r => decide (r.1 ≤ lo) && decide (lo < r.2)) with
      | none => false
      | some r => covered rs hi k r.2

/-- Every parameter of the layer is in the shadow epoch. -/
def State.allWritten (s : State) (l : Layer) : Bool :=
  covered s.seesaw.written (l.master + l.inDim * l.outDim) (s.seesaw.written.length + 1) l.master

/-- An ARR.FWD of layer `h` is in flight; `of` limits it to the step of that number. -/
def State.forwardsLeft (s : State) (h : Nat) (of : Nat) : Bool :=
  s.sch.inflight.any (fun i => i.code.op == 0x4003 && (i.d 2).base % 2 ^ 16 == h && i.step == some of)

/-- A parameter written to the shadow epoch marks the row of every weight that its level changes
(R108). -/
def State.markDirty (s : State) (p : Nat) : State :=
  s.arr.layers.foldl (fun s hl =>
    let l := hl.2
    if p < l.master ∨ l.master + l.inDim * l.outDim ≤ p ∨ l.scales.isEmpty then s
    else
      let i := (p - l.master) % l.inDim
      let o := (p - l.master) / l.inDim
      match l.at_ (i / 1024) (o / 256) with
      | none => s
      | some t =>
        let x := s.tile t
        let old := masterLevel l.wt (l.scale o) (s.param false p) (x.level (i % 1024) (o % 256))
        let new := masterLevel l.wt (l.scale o) (s.param true p) old
        if new = old || x.dirty.contains (i % 1024) then s
        else s.putTile t { x with dirty := x.dirty ++ [i % 1024] }) s

/-- The rows of a list in ascending order. -/
def ascending (rs : List Nat) : List Nat := allRows.filter (fun r => rs.contains r)

/-- A tile of a layer starts its level-crossing batch, or re-evaluates its outliers when no row of it is
dirty (R108, R130). -/
def State.startCrossing (s : State) (shadow : Bool) (step t : Nat) : State :=
  let x := s.tile t
  if x.dirty.isEmpty then
    s.reevaluate t shadow (s.spokenFor (({ kind := .crossing, rows := [], order := s.arr.crossings } : Batch).key t))
  else s.putTile t (({ x with dirty := [], late := false } : Tile).begin
    { kind := .crossing, rows := ascending x.dirty, shadow := shadow, step := step, order := s.arr.crossings })

/-- LEVEL_CROSSING_START (R25, R27, R107, R108): in the step, or after its COMMIT for a layer whose last
forward ended late. -/
def execLevelCrossingStart (layer : Nat) (s : State) : Host.Outcome State Fault Refusal :=
  match s.layer layer with
  | none => .next s
  | some l =>
    let late := l.held.any (fun t => (s.tile t).late)
    let free := l.held.all (fun t => (s.tile t).batch.isNone)
    let go (shadow : Bool) (step : Nat) : State :=
      let t := l.held.foldl (fun u k => u.startCrossing shadow step k) s
      { t with arr := { t.arr with crossings := t.arr.crossings + 1 } }
    if !free || !l.programmed then .next s
    else if late then
      (if s.forwardsLeft layer s.c then .next s else .next (go false s.c))
    else if s.pass.launched && !l.crossed && s.allWritten l && !s.forwardsLeft layer s.stepNow &&
        s.bodyAdmitted then
      .next ((go true s.stepNow).modLayer layer (fun l => { l with crossed := true }))
    else .next s

/-! ### Wear and suspicion (R111, R126) -/

/-- WEAR_WARN (R111). -/
def execWearWarn (tile : Nat) (s : State) : Host.Outcome State Fault Refusal :=
  let x := s.tile tile
  if s.f F.arrWearCfgWarn ≤ x.maxWear && !x.warned then
    .next ((s.putTile tile { x with warned := true }).ev 0x1005 tile 0 x.maxWear)
  else .next s

/-- WEAR_RETIRE (R111): once the current batch is complete. -/
def execWearRetire (tile : Nat) (s : State) : Host.Outcome State Fault Refusal :=
  let x := s.tile tile
  if min 10000000 (s.f F.arrWearCfgRetire) ≤ x.maxWear && decide (x.state ≤ 1) && x.batch.isNone then
    .next (s.retire tile 2 1)
  else .next s

/-- SUSPECT_REPROGRAM (R109, R126): outside a step, or once the pass of the step in which it was asked for has answered, from
the committed epoch. A checksum column found at fault is retired then too (R127). -/
def execSuspectReprogram (tile : Nat) (s : State) : Host.Outcome State Fault Refusal :=
  let x := s.tile tile
  match s.layer x.layer with
  | none => .next s
  | some l =>
    if (s.pass.launched && !x.answered) || x.batch.isSome || x.state != 1 || !l.programmed then .next s
    else if x.csFault then .next (s.retire tile 2 3)
    else if !x.suspect then .next s
    else
      let again := match x.sinceRe with
        | none => false
        | some n => decide (n ≤ 16)
      let full (rows : List Nat) (f : Bool) : State := s.putTile tile
        (({ x with suspect := false, answered := false, sinceRe := some 0 } : Tile).begin
          { kind := .program, rows := rows, step := s.c, full := f, renew := f })
      if again then
        (match s.staleRows l x with
          | [] => .next (s.retire tile 2 3)
          | r :: rs => .next (full (r :: rs) false))
      else .next (full allRows true)

/-! ### Calibration (R117 to R122) -/

/-- A calibration of a tile has become due by conversions, time awake or temperature (R117). -/
def State.calTrigger (s : State) (t : Nat) : Bool :=
  let x := s.tile t
  let conv := max 12 (min 20 (s.f F.arrCalCfgConvLog2))
  let ms := max 1 (min 100 (s.f F.arrCalCfgInterval))
  let dt : Int := (max 1 (min 16 (s.f F.arrCalCfgDt)) : Nat)
  let d := s.clusterTemp t - x.lastFit
  decide (2 ^ conv ≤ x.convs) || decide (x.lastCal + ms * 3125 ≤ s.aon) ||
    (x.fits.any (fun f => f.done) && decide (dt < max d (-d)))

/-- CALIBRATION_DUE (R117). -/
def execCalibrationDue (tile : Nat) (s : State) : Host.Outcome State Fault Refusal :=
  let x := s.tile tile
  if x.state = 1 && !x.due && s.units.awake.contains (.tile, tile) && s.calTrigger tile then
    .next (s.putTile tile { x with due := true })
  else .next s

/-- The expected codes of the 26 readings of a converter (R119). -/
def refCodes : List Int :=
  (List.range 4).flatMap (fun k => [1, 2, 3].flatMap (fun v =>
    [4 * refLevel false k * v, 4 * refLevel true k * v])) ++ [0, 0]

/-- A fit of readings (x, y), or none for SINGULAR (R120): gain in 2 ^ -14 and offset in 2 ^ -8. -/
def fitGroup (rs : List (Int × Int)) : Option (Nat × Int) :=
  let good := rs.filter (fun r => r.2 != -64 && r.2 != 63 && decide ((r.2 - r.1).natAbs ≤ 8))
  let n : Int := good.length
  let sum (g : Int × Int → Int) : Int := (good.map g).sum
  let sx := sum (fun r => r.1)
  let sy := sum (fun r => r.2)
  let sxx := sum (fun r => r.1 * r.1)
  let sxy := sum (fun r => r.1 * r.2)
  let det := n * sxx - sx * sx
  if n < 64 ∨ det < 16 * n * n then none
  else
    let a : Rat := ((n * sxy - sx * sy : Int) : Rat) / det
    let b : Rat := ((sxx * sy - sx * sxy : Int) : Rat) / det
    if a < 3 / 4 ∨ 5 / 4 < a ∨ 8 < qabs b then none
    else some (roundMag .rne (a * 2 ^ 14), roundInt .rne (b * 2 ^ 8))

/-- A number held to ± `m` and rounded to an integer. -/
def heldRound (m : Rat) (q : Rat) : Int := roundInt .rne (max (-m) (min m q))

/-- A group's fit after a good one at temperature `T` (R121). -/
def Fit.good (f : Fit) (T : Int) (gain : Nat) (off : Int) : Fit :=
  let dT := T - f.temp
  let deg : Rat := (dT : Rat) / 4
  let g := { f with
    gain := gain, off := off, temp := T, ever := true, done := true, run := 0, flag := false }
  if f.ever && decide (8 ≤ dT.natAbs) then { g with
    alpha := heldRound 2048 (((gain : Rat) / f.gain - 1) / deg * 2 ^ 20),
    beta := heldRound 512 ((((off : Rat) - f.off) / 2 ^ 8) / deg * 2 ^ 12) }
  else g

/-- The code that a raw code becomes (R121). -/
def Fit.correct (f : Fit) (T : Int) (y : Int) : Int :=
  let deg : Rat := ((T - f.temp : Int) : Rat) / 4
  let a : Rat := (f.gain : Rat) / 2 ^ 14 * (1 + (f.alpha : Rat) / 2 ^ 20 * deg)
  let b : Rat := (f.off : Rat) / 2 ^ 8 + (f.beta : Rat) / 2 ^ 12 * deg
  if y ≤ -64 then -64 else if 63 ≤ y then 63
  else max (-64) (min 63 (roundInt .rne (((y : Rat) - b) / a)))

/-- The fit of a group from the raw codes of its 32 converters. -/
def fitOf (conv : List Readings) : Option (Nat × Int) :=
  fitGroup ((conv.take 32).flatMap (fun r => refCodes.zip ((r.take 26).map (fun y => max (-64) (min 63 y)))))

/-- One group's outcome in a calibration of tile `t`. -/
def State.fitOne (s : State) (t p : Nat) (conv : List Readings) : State :=
  let T := s.clusterTemp t
  let x := s.tile t
  let f := x.fits.getD p {}
  match fitOf conv with
  | some (g, o) => s.putTile t { x with fits := x.fits.set p (f.good T g o), lastFit := T }
  | none =>
    let run := f.run + 1
    let s := (s.putTile t { x with
      fits := x.fits.set p { f with run := run, flag := true },
      suspect := x.suspect || run == 3 }).ev 0x1007 t p 0
    if run = 3 then s.ev 0x1008 t p 0 else s

/-- CALIBRATION: a due calibration of `tile` with the raw codes of its converters (R118 to R122). -/
def execCalibration (tile : Nat) (ys : List (List Readings)) (s : State) : Host.Outcome State Fault Refusal :=
  let x := s.tile tile
  if x.state ≠ 1 || !(x.due || x.calFirst) || !x.sealed || x.batch.isSome ||
      !s.units.awake.contains (.tile, tile) then .next s
  else
    let s := (List.range 8).foldl (fun s p => s.fitOne tile p (ys.getD p [])) s
    let y := s.tile tile
    let sing := y.fits.countP (fun f => f.flag)
    let s := s.putTile tile { y with
      calCount := min 0xffffffff (y.calCount + 1), due := false, calFirst := false, convs := 0,
      lastCal := s.aon, fresh := if y.fresh = 1 ∧ sing = 0 then 2 else y.fresh }
    let s := s.modAll (fun i =>
      if i.code.op = 0x4006 ∧ i.wants.contains tile then
        { i.rewant tile none with result := i.result + sing } else i)
    let s := s.endWaiters 0x4006
    if y.fits.any (fun f => decide (6 ≤ f.run)) then .next (s.retire tile 2 3) else .next s

end Sys2Proof.Machine
end

