-- ==== Sys2Proof/Machine/Func.lean ====
section
/-! DEFINITION. The functions of R41 and R172, correctly rounded to F32: interval arithmetic at a
precision that doubles until both ends round to one value. -/

namespace Sys2Proof.Machine

/-- An interval of integers in units of 2 ^ -p, for a precision `p` kept beside it. -/
structure Iv where
  lo : Int
  hi : Int
  deriving DecidableEq, Repr

namespace Iv

/-- The floor of a quotient, and its ceiling. -/
def fdiv (a b : Int) : Int := Int.fdiv a b
def cdiv (a b : Int) : Int := -(Int.fdiv (-a) b)

/-- The interval of a rational. -/
def ofRat (p : Nat) (q : Rat) : Iv :=
  let n := q.num * ((2 ^ p : Nat) : Int)
  { lo := fdiv n q.den, hi := cdiv n q.den }

def add (a b : Iv) : Iv := { lo := a.lo + b.lo, hi := a.hi + b.hi }
def neg (a : Iv) : Iv := { lo := -a.hi, hi := -a.lo }
def sub (a b : Iv) : Iv := a.add b.neg

/-- The product at precision `p`. -/
def mul (p : Nat) (a b : Iv) : Iv :=
  let l := [a.lo * b.lo, a.lo * b.hi, a.hi * b.lo, a.hi * b.hi]
  let m : Int := ((2 ^ p : Nat) : Int)
  { lo := fdiv (l.foldl min (a.lo * b.lo)) m, hi := cdiv (l.foldl max (a.lo * b.lo)) m }

/-- An interval divided by a positive natural number. -/
def divNat (a : Iv) (n : Nat) : Iv := { lo := fdiv a.lo n, hi := cdiv a.hi n }

/-- The quotient by an interval of positive numbers. -/
def div (p : Nat) (a b : Iv) : Iv :=
  let m : Int := ((2 ^ p : Nat) : Int)
  let l := fun (x : Int) => [fdiv (x * m) b.lo, fdiv (x * m) b.hi]
  let h := fun (x : Int) => [cdiv (x * m) b.lo, cdiv (x * m) b.hi]
  { lo := (l a.lo).foldl min (fdiv (a.lo * m) b.lo), hi := (h a.hi).foldl max (cdiv (a.hi * m) b.lo) }

/-- The square root of an interval of numbers that are not negative. -/
def sqrt (p : Nat) (a : Iv) : Iv :=
  { lo := Nat.sqrt (a.lo.toNat * 2 ^ p), hi := Nat.sqrt (a.hi.toNat * 2 ^ p) + 1 }

/-- The interval widened by `e` units on either side. -/
def widen (a : Iv) (e : Int) : Iv := { lo := a.lo - e, hi := a.hi + e }

/-- A bound on the magnitude. -/
def mag (a : Iv) : Int := max a.lo.natAbs a.hi.natAbs

end Iv

/-- A power series: `term` is the present term, `next n t` the one after term `n`; `out n t` what the
term contributes. -/
def series (next : Nat → Iv → Iv) (out : Nat → Iv → Iv) : Nat → Nat → Iv → Iv → Iv × Iv
  | 0, _, t, acc => (acc, t)
  | k + 1, n, t, acc => series next out k (n + 1) (next n t) (acc.add (out n t))

/-- The exponential of a rational of magnitude at most 256. -/
def expIv (p : Nat) (x : Rat) : Iv :=
  let P := p + 64
  let y := Iv.ofRat P (x / 512)
  let one := Iv.ofRat P 1
  let r := series (fun n t => (t.mul P y).divNat (n + 1)) (fun _ t => t) (p / 2 + 40) 0 one { lo := 0, hi := 0 }
  let e := (r.1).widen (2 * r.2.mag + 1)
  let sq (v : Iv) : Iv := v.mul P v
  let e := sq (sq (sq (sq (sq (sq (sq (sq (sq e))))))))
  { lo := Iv.fdiv e.lo ((2 ^ 64 : Nat) : Int), hi := Iv.cdiv e.hi ((2 ^ 64 : Nat) : Int) }

/-- The inverse hyperbolic tangent of an interval of magnitude below a half. -/
def atanhIv (p : Nat) (z : Iv) : Iv :=
  let z2 := z.mul p z
  let r := series (fun _ t => t.mul p z2) (fun n t => t.divNat (2 * n + 1)) (p / 2 + 8) 0 z { lo := 0, hi := 0 }
  (r.1).widen (2 * r.2.mag + 1)

/-- The arctangent of 1 / n, for n of 5 and above. -/
def atanInv (p n : Nat) : Iv :=
  let t0 := (Iv.ofRat p 1).divNat n
  let r := series (fun _ t => (t.divNat (n * n)).neg) (fun k t => t.divNat (2 * k + 1)) (p / 2 + 8) 0 t0
    { lo := 0, hi := 0 }
  (r.1).widen (2 * r.2.mag + 1)

/-- Pi. -/
def piIv (p : Nat) : Iv :=
  let a := atanInv p 5
  let b := atanInv p 239
  { lo := 16 * a.lo - 4 * b.hi, hi := 16 * a.hi - 4 * b.lo }

/-- The natural logarithm of a positive rational. -/
def logIv (p : Nat) (x : Rat) : Iv :=
  let e := ilog2 x
  let m := x * pow2 (-e)
  let dbl (v : Iv) : Iv := v.add v
  let lm := dbl (atanhIv p (Iv.ofRat p ((m - 1) / (m + 1))))
  let l2 := dbl (atanhIv p (Iv.ofRat p (1 / 3)))
  let k := if 0 ≤ e then { lo := l2.lo * e, hi := l2.hi * e } else { lo := l2.hi * e, hi := l2.lo * e : Iv }
  lm.add k

/-- The sum of `(-q) ^ n / (n! (2 n + 1))` for `q` up to 16. -/
def erfSum (p : Nat) (q : Rat) : Iv :=
  let y := (Iv.ofRat p q).neg
  let r := series (fun n t => (t.mul p y).divNat (n + 1)) (fun n t => t.divNat (2 * n + 1)) (p + 64) 0
    (Iv.ofRat p 1) { lo := 0, hi := 0 }
  (r.1).widen (2 * r.2.mag + 1)

/-- The error function of `x`, or of `x / √2` when `half` is set, for magnitudes below 6. -/
def erfIv (p : Nat) (half : Bool) (x : Rat) : Iv :=
  let P := p + 64
  let c := (Iv.ofRat P (if half then 2 else 4)).div P (piIv P)
  let s := erfSum P (if half then x * x / 2 else x * x)
  let e := ((c.sqrt P).mul P s).mul P (Iv.ofRat P x)
  { lo := Iv.fdiv e.lo ((2 ^ 64 : Nat) : Int), hi := Iv.cdiv e.hi ((2 ^ 64 : Nat) : Int) }

/-- The hyperbolic tangent. -/
def tanhIv (p : Nat) (x : Rat) : Iv :=
  let e := expIv p (2 * x)
  let one := Iv.ofRat p 1
  (e.sub one).div p (e.add one)

/-- The logistic function. -/
def sigmoidIv (p : Nat) (x : Rat) : Iv :=
  let one := Iv.ofRat p 1
  one.div p ((expIv p (-x)).add one)

/-- The reciprocal square root of a positive rational. -/
def rsqrtIv (p : Nat) (x : Rat) : Iv := (Iv.ofRat p (1 / x)).sqrt p

/-- The precision doubles until both ends round to one F32. -/
def ziv (f : Nat → Iv) : Nat → Nat → Counted Nat
  | 0, p => floatEnc 23 .rne (.fin ((f p).lo * pow2 (-(p : Int))))
  | k + 1, p =>
    let i := f p
    let a := floatEnc 23 .rne (.fin ((i.lo : Rat) * pow2 (-(p : Int))))
    let b := floatEnc 23 .rne (.fin ((i.hi : Rat) * pow2 (-(p : Int))))
    if a = b ∧ i.lo ≠ 0 ∧ i.hi ≠ 0 then a else ziv f k (2 * p)

/-- A rational's square root when it is rational. -/
def exactSqrt (q : Rat) : Option Rat :=
  let n := Nat.sqrt q.num.toNat
  let d := Nat.sqrt q.den
  if n * n = q.num.toNat ∧ d * d = q.den then some (mkRat n d) else none

/-- The F32 pattern of a value. -/
def f32Of (v : Val) : Counted Nat := floatEnc 23 .rne v

/-- EXP. -/
def fExp (v : Val) : Counted Nat :=
  match v with
  | .nan => f32Of .nan
  | .inf n => f32Of (if n then .fin 0 else .inf false)
  | .negZero => f32Of (.fin 1)
  | .fin q =>
    if q = 0 then f32Of (.fin 1)
    else if 89 < q then f32Of (.fin (pow2 200))
    else if q < -110 then f32Of (.fin 0)
    else ziv (fun p => expIv p q) 5 96

/-- The value where a function has none. -/
def unstated (code : Nat) (v : Val) : Counted Nat :=
  let p := Config.unstatedFunc code (f32Of v).val % 2 ^ 32
  { val := p, nf := natOfBool (f32Val p).nonFinite }

/-- LOG. -/
def fLog (v : Val) : Counted Nat :=
  match v with
  | .nan => f32Of .nan
  | .inf n => f32Of (if n then .nan else .inf false)
  | .negZero => unstated 1 v
  | .fin q =>
    if q ≤ 0 then unstated 1 v else if q = 1 then f32Of (.fin 0) else ziv (fun p => logIv p q) 5 96

/-- TANH. -/
def fTanh (v : Val) : Counted Nat :=
  match v with
  | .nan => f32Of .nan
  | .inf n => f32Of (.fin (if n then -1 else 1))
  | .negZero => f32Of .negZero
  | .fin q =>
    if q = 0 then f32Of (.fin 0) else if 20 ≤ q then f32Of (.fin 1)
    else if q ≤ -20 then f32Of (.fin (-1)) else ziv (fun p => tanhIv p q) 5 96

/-- ERF of `v`, or of `v / √2`. -/
def fErf (half : Bool) (v : Val) : Counted Nat :=
  match v with
  | .nan => f32Of .nan
  | .inf n => f32Of (.fin (if n then -1 else 1))
  | .negZero => f32Of .negZero
  | .fin q =>
    if q = 0 then f32Of (.fin 0) else if 6 ≤ q then f32Of (.fin 1)
    else if q ≤ -6 then f32Of (.fin (-1)) else ziv (fun p => erfIv p half q) 5 96

/-- SIGMOID. -/
def fSigmoid (v : Val) : Counted Nat :=
  match v with
  | .nan => f32Of .nan
  | .inf n => f32Of (.fin (if n then 0 else 1))
  | .negZero => f32Of (.fin (1 / 2))
  | .fin q =>
    if q = 0 then f32Of (.fin (1 / 2)) else if 40 < q then f32Of (.fin 1)
    else if q < -110 then f32Of (.fin 0) else ziv (fun p => sigmoidIv p q) 5 96

/-- RECIP. -/
def fRecip (v : Val) : Counted Nat :=
  match v with
  | .nan => f32Of .nan
  | .inf n => f32Of (if n then .negZero else .fin 0)
  | .negZero => unstated 5 v
  | .fin q => if q = 0 then unstated 5 v else f32Of (.fin (1 / q))

/-- RSQRT. -/
def fRsqrt (v : Val) : Counted Nat :=
  match v with
  | .nan => f32Of .nan
  | .inf n => f32Of (if n then .nan else .fin 0)
  | .negZero => unstated 6 v
  | .fin q =>
    if q ≤ 0 then unstated 6 v
    else match exactSqrt (1 / q) with
      | some r => f32Of (.fin r)
      | none => ziv (fun p => rsqrtIv p q) 5 256

/-- GELU_ERF: exact from the correctly rounded erf of x / √2, and rounded once (R172). -/
def fGelu (v : Val) : Counted Nat :=
  match v with
  | .nan => f32Of .nan
  | .inf n => f32Of (if n then .nan else .inf false)
  | .negZero => f32Of .negZero
  | .fin q => f32Of (v.mul (.fin ((1 + (f32Val (fErf true v).val).rat) / 2)))

/-- The function of an IMM0 code of VEC.FUNC (R273). -/
def func32 (code : Nat) (v : Val) : Counted Nat :=
  if code = 0 then fExp v else if code = 1 then fLog v else if code = 2 then fTanh v
  else if code = 3 then fErf false v else if code = 4 then fSigmoid v else if code = 5 then fRecip v
  else if code = 6 then fRsqrt v else fGelu v

end Sys2Proof.Machine
end

