-- ==== Sys2Proof/Machine/Mov.lean ====
section
/-! DEFINITION. The movers: MOV.COPY and MOV.LIST (R182 to R188, R270 to R272), and the valley
instructions that run on mover channels (R277 to R279). -/

namespace Sys2Proof.Machine

/-! ### CRC-32C -/

/-- One bit of the reflected CRC-32C register. -/
def crcBit (c : Nat) : Nat := if c % 2 = 1 then (c / 2) ^^^ 0x82f63b78 else c / 2

/-- One byte taken into the register. -/
def crcByte (c : Nat) (b : Byte) : Nat :=
  crcBit (crcBit (crcBit (crcBit (crcBit (crcBit (crcBit (crcBit (c ^^^ b.toNat))))))))

/-- The CRC-32C of a list of bytes. -/
def crc32c (bs : List Byte) : Nat := (bs.foldl crcByte 0xffffffff) ^^^ 0xffffffff

/-! ### Element widths (R184) -/

/-- An element taken from width `ws` to width `wd`: extended, or saturated and counted. -/
def moveElem (signed : Bool) (ws wd v : Nat) : Counted Nat :=
  let z : Int := if signed then signedOf ws v else (v % 2 ^ ws : Nat)
  if ws ≤ wd then { val := unsignedOf wd z }
  else
    let c := saturateInt signed wd z
    { val := unsignedOf wd c.val, sat := c.sat }

/-- The seesaw with the BF16 pattern `v` at offset `p` of both epochs (R71). -/
def State.setMaster (s : State) (p v : Nat) : State :=
  let put (m : List (Nat × Nat)) := if v = 0 then mdel p m else mput p v m
  { s with seesaw := { s.seesaw with epoch0 := put s.seesaw.epoch0, epoch1 := put s.seesaw.epoch1 } }

/-- The seesaw with offset `p` of both epochs as it was in `old`. -/
def State.oldMaster (s old : State) (p : Nat) : State :=
  let put (m o : List (Nat × Nat)) := match mget p o with
    | some v => mput p v m
    | none => mdel p m
  { s with seesaw := { s.seesaw with
      epoch0 := put s.seesaw.epoch0 old.seesaw.epoch0, epoch1 := put s.seesaw.epoch1 old.seesaw.epoch1 } }

/-- Raw element `k` of a destination written, the seesaw included. -/
def State.putRaw (s : State) (d : Desc) (k v : Nat) : State :=
  if d.loc = 5 then s.setMaster (d.base + k) v
  else s.wrBits (locSpace d.loc) (d.base * 8 + d.off k * fmtBits d.format) (fmtBits d.format) v

/-- The first flat elements of the rows of combination `c` of dimensions 2 to 4. -/
def Desc.rowStarts (d : Desc) (c : Nat) : List Nat :=
  (List.range (d.e 1)).map (fun r => (c * d.e 1 + r) * d.e 0)

/-- The number of combinations of indices of dimensions 2 to 4. -/
def Desc.combos (d : Desc) : Nat := d.e 2 * d.e 3 * d.e 4

/-- The mantissas or elements of combination `c` copied: the state and the saturations; the padding
of a partial block is written as zero (R34). -/
def copyElems (s : State) (dst src : Desc) (c : Nat) : State × Nat :=
  let signed := fmtSigned src.format
  let one (row : Nat) : List (Nat × Counted Nat) := (List.range (src.e 0)).map (fun i =>
    (row + i, moveElem signed (fmtBits src.format) (fmtBits dst.format) (s.elem src (row + i))))
  let els := (src.rowStarts c).flatMap one
  let t := els.foldl (fun t x => t.putRaw dst x.1 x.2.val) s
  let pad := dst.width0 - dst.e 0
  let t := if fmtBlock dst.format ∧ 0 < pad then
      (dst.rowStarts c).foldl (fun t row =>
        t.wrBytes (locSpace dst.loc) (dst.base + dst.off row + dst.e 0) (List.replicate pad 0)) t
    else t
  (t, (els.map (fun x => x.2.sat)).sum)

/-- The exponents of combination `c` copied. -/
def copyExps (s : State) (dst src : Desc) (c : Nat) : State :=
  let one (row : Nat) : List (Nat × Nat) := (List.range src.blocks0).map (fun j =>
    (row + j * src.B, s.elemExp src (row + j * src.B)))
  ((src.rowStarts c).flatMap one).foldl (fun t x =>
    t.wr (locSpace dst.loc) (dst.expAddr x.1) (BitVec.ofNat 8 x.2)) s

/-- Each byte of the ranges holds what it did in `old` or what it does in `new` (R186). -/
def State.torn (old new : State) (space : Nat) (ranges : List (Nat × Nat)) : State :=
  (ranges.flatMap (fun r => (List.range (r.2 - r.1)).map (fun i => r.1 + i))).foldl
    (fun t a => if Config.tornByte old.freeCtr a then t else t.wr space a (old.rd space a)) new.tick

/-- The same of the seesaw: each element of a range holds what it did or what was written. -/
def State.tornMasters (old new : State) (lo n : Nat) : State :=
  (List.range n).foldl (fun t k => if Config.tornByte old.freeCtr k then t else t.oldMaster old (lo + k)) new.tick

/-! ### Mover blocks (R188) -/

/-- Destination rows: space, first byte, bytes of a row, the distance between rows and their number. -/
structure Rows where
  space : Nat
  lo    : Nat
  bytes : Nat
  pitch : Nat
  rows  : Nat

/-- The bytes of mover block `b`: the register holds 64 bytes, or what is left of the row. -/
def Rows.block (x : Rows) (b : Nat) : List Nat :=
  let per := (x.bytes + 63) / 64
  let lo := x.lo + b / per * x.pitch
  if x.rows ≤ b / per then [] else (List.range (min 64 (x.bytes - b % per * 64))).map (fun k => lo + b % per * 64 + k)

/-- A withheld block: its destination is as it was. -/
def State.withholdBlock (old new : State) (x : Rows) (b : Nat) : State :=
  (x.block b).foldl (fun t a => t.wr x.space a (old.rd x.space a)) new

/-! ### MOV.COPY -/

/-- Bus errors that the accesses of an instruction to host memory met (R346). -/
def State.busErrors (s : State) (id : Nat) : Nat := s.cxl.badHost.count id

/-- A BAD descriptor counted and reported (R186). -/
def State.badDesc (s : State) (i : Inst) (tag addr code : Nat) : State :=
  (s.addF F.movBadCount 1).evI 0x4001 0x3140 tag (addr % 2 ^ 48 + code * 2 ^ 48) i

/-- The mover channel that runs an instruction (R259): its class picks the group. -/
def Inst.channel (i : Inst) : Nat := if i.cls = 0 then 48 else 0

/-- The registers of a channel after an instruction (R190). -/
def State.channelDone (s : State) (n done bad : Nat) : State :=
  (s.setF (F.movChStatusDone n) (cap32 done)).setF (F.movChStatusBad n) (min 0xffff bad)

/-- Whether MOV.COPY takes the pair of formats (R182). -/
def moveFormats (a b : Nat) : Bool := a == b || (fmtBlock a && fmtBlock b) || (fmtInt a && fmtInt b)

/-- The checks of MOV.COPY, in the order of R252 and R271. -/
def State.copyStatus (s : State) (i : Inst) : Nat :=
  let d := i.d 0
  let r := i.d 1
  let unit (x : Desc) : Bool := x.loc == 5 || nth x.stride 0 == 1
  firstFail [
    (moveFormats r.format d.format && (!fmtBlock r.format || r.block == d.block) && unit d && unit r,
      stOperandFormat),
    (d.ndim == r.ndim && d.ext == r.ext, stShapeMismatch),
    (!d.overlaps r, stOperandAlias),
    (!s.seesawBeyond i, stIndexRange),
    (d.loc != 3 && d.loc != 4 && r.loc != 3 && r.loc != 4, stDescInvalid),
    (d.loc != 5 || s.load.seesawOpen, stSeesawBusy)]

/-- Descriptor `n` of a MOV.COPY run: mantissas of a combination first, then exponent planes. -/
def copyPart (s : State) (dst src : Desc) (n : Nat) : State × Nat :=
  if n < dst.combos then copyElems s dst src n else (copyExps s dst src (n - dst.combos), 0)

/-- The descriptors of a MOV.COPY run in order: the first `bad` meet a bus error. -/
def copyParts (i : Inst) (dst src : Desc) (code : Nat) : List Nat → Nat → State × Nat → State × Nat
  | [], _, r => (if dst.loc = 5 then r.1 else r.1.coverLines dst, r.2)
  | n :: rest, bad, (s, sat) =>
    let t := copyPart s dst src n
    if 0 < bad then
      copyParts i dst src code rest (bad - 1)
        (((if dst.loc = 5 then s.tornMasters t.1 dst.base dst.count else s.torn t.1 (locSpace dst.loc) dst.ranges).badDesc
          i 0 0 code), sat)
    else copyParts i dst src code rest 0 (t.1, sat + t.2)

/-- The mover-block CRCs of an instruction (R188, R231): mismatches are counted, and a block whose
second reading mismatches too is withheld by `hold` and is a failed check of the channel; the rest of the instruction runs. -/
def State.moverChecks (s : State) (i : Inst) (crc : MoverCrc) (hold : State → State → Nat × Nat → State)
    (run : State → State) : State :=
  let s := s.addF F.movCrcFail crc.fails
  match crc.bad with
  | none => run s
  | some b => ((hold s (run s) b).putInst i).checkFails i rsnCheck ((0x3140 + i.channel) * 65536)

/-- The destination rows of descriptor `n` of a MOV.COPY: mantissas of a combination, or exponents. -/
def Desc.copyRows (d : Desc) (n : Nat) : Rows :=
  let k := n % d.combos * (d.e 1 * d.e 0)
  if n < d.combos then
    { space := locSpace d.loc, lo := d.base + d.off k * fmtBits d.format / 8, bytes := (d.width0 * fmtBits d.format + 7) / 8,
      pitch := nth d.stride 1 * fmtBits d.format / 8, rows := d.e 1 }
  else { space := locSpace d.loc, lo := d.expAddr k, bytes := d.blocks0, pitch := nth d.expStride 0, rows := d.e 1 }

/-- A withheld block of a copy into a tensor; of the seesaw, its elements of two bytes. -/
def Desc.holdCopy (d : Desc) (old new : State) (b : Nat × Nat) : State :=
  if d.loc = 5 then
    let x : Rows := { space := 0, lo := 2 * (b.1 * (d.e 1 * d.e 0)), bytes := 2 * d.e 0, pitch := 2 * d.e 0, rows := d.e 1 }
    (x.block b.2).foldl (fun t a => t.oldMaster old (d.base + a / 2)) new
  else State.withholdBlock old new (d.copyRows b.1) b.2

/-- MOV.COPY (R182, R186, R271). Where the hardware holds the descriptors that it builds is not given, so HEAD is free
(R190). -/
def execMovCopy (id : Nat) (crc : MoverCrc) (s : State) : Host.Outcome State Fault Refusal :=
  s.start 0x2000 id (fun i =>
    let d := i.d 0
    let r := i.d 1
    let st := s.copyStatus i
    if st ≠ stOk then s.fails i st
    else s.moverChecks i crc d.holdCopy (fun s =>
      let total := d.combos * (if fmtBlock d.format then 2 else 1)
      let bad := if d.loc = 2 ∨ r.loc = 2 then min total (s.busErrors i.id) else 0
      let t := copyParts i d r (if r.loc = 2 then 1 else 2) (List.range total) bad (s, 0)
      let u := (t.1.channelDone i.channel total bad).tick.setF (F.movChHead i.channel) (Config.freeWord s.freeCtr)
      if bad = 0 then u.finishes i t.2 0 (total * 2 ^ 32)
      else u.putInst { i.end_ stMovBad with sat := cap32 t.2, result := total * 2 ^ 32 + bad }))

/-! ### MOV.LIST -/

/-- A mover descriptor (R183). -/
structure MovDesc where
  next   : Nat
  src    : Nat
  dst    : Nat
  count  : Nat
  srcW   : Nat
  dstW   : Nat
  mode   : Nat
  flags  : Nat
  resv1  : Nat
  rows   : Nat
  srcP   : Nat
  dstP   : Nat
  status : Nat
  tag    : Nat
  resv2  : Nat
  deriving DecidableEq, Repr

/-- The 64 bytes of a mover descriptor, read (R183). -/
def MovDesc.ofBytes (b : List Byte) : MovDesc :=
  let w := leNat b
  { next := bitsOf w 0 64, src := bitsOf w 64 64, dst := bitsOf w 128 64, count := bitsOf w 192 32,
    srcW := bitsOf w 224 4, dstW := bitsOf w 228 4, mode := bitsOf w 232 8, flags := bitsOf w 240 8,
    resv1 := bitsOf w 248 8, rows := bitsOf w 256 32, srcP := bitsOf w 288 32,
    dstP := bitsOf w 320 32, status := bitsOf w 384 32, tag := bitsOf w 416 32,
    resv2 := bitsOf w 448 64 }

/-- Address and space of a side of a descriptor. -/
def sideAddr (x : Nat) : Nat := bitsOf x 0 48
def sideSpace (x : Nat) : Nat := bitsOf x 48 2

/-- Bits of an element of a width code. -/
def widthBits (c : Nat) : Nat := 2 * 2 ^ c

/-- Bytes of a row of `count` elements. -/
def rowBytes (count code : Nat) : Nat := (count * widthBits code + 7) / 8

/-- First address beyond what a side touches. -/
def sideEnd (x pitch rows count code : Nat) : Nat :=
  sideAddr x + pitch * (rows - 1) + rowBytes count code

/-- CODE of a descriptor that does not run: 3 malformed, 4 beyond its space, 0 none (R185, R272). -/
def MovDesc.fault (d : MovDesc) : Nat :=
  if d.status ≠ 0 ∨ d.resv1 ≠ 0 ∨ d.resv2 ≠ 0 ∨ 1 < d.mode ∨ 8 ≤ d.flags ∨ 5 < d.srcW ∨ 5 < d.dstW ∨
      d.count = 0 ∨ d.rows = 0 ∨ bitsOf d.src 50 14 ≠ 0 ∨ bitsOf d.dst 50 14 ≠ 0 ∨
      sideSpace d.src = 3 ∨ sideSpace d.dst = 3 ∨ d.next % 64 ≠ 0 then 3
  else if spaceLimit (sideSpace d.src) < sideEnd d.src d.srcP d.rows d.count d.srcW ∨
      spaceLimit (sideSpace d.dst) < sideEnd d.dst d.dstP d.rows d.count d.dstW then 4
  else 0

/-- `w` bits of a space at bit address `b`. -/
def State.rdBits (s : State) (space b w : Nat) : Nat :=
  if w < 8 then bitsOf (s.rd space (b / 8)).toNat (b % 8) w else s.rdNat space (b / 8) (w / 8)

/-- Elements written one after another from bit address `b` on. -/
def State.wrRow (s : State) (space b w : Nat) : List Nat → State
  | [] => s
  | v :: r => (s.wrBits space b w v).wrRow space (b + w) w r

/-- A good descriptor's copy: the state and the saturations (R184). -/
def MovDesc.copy (d : MovDesc) (s : State) : State × Nat :=
  let ws := widthBits d.srcW
  let wd := widthBits d.dstW
  let rows := (List.range d.rows).map (fun r => (r, (List.range d.count).map (fun k =>
    moveElem (d.mode == 1) ws wd
      (s.rdBits (sideSpace d.src) ((sideAddr d.src + r * d.srcP) * 8 + k * ws) ws))))
  (rows.foldl (fun t x =>
      t.wrRow (sideSpace d.dst) ((sideAddr d.dst + x.1 * d.dstP) * 8) wd (x.2.map (fun c => c.val))) s,
    (rows.map (fun x => (x.2.map (fun c => c.sat)).sum)).sum)

/-- The destination bytes of a descriptor, as ranges. -/
def MovDesc.dstRanges (d : MovDesc) : List (Nat × Nat) :=
  (List.range d.rows).map (fun r =>
    (sideAddr d.dst + r * d.dstP, sideAddr d.dst + r * d.dstP + rowBytes d.count d.dstW))

/-- What a list has done so far. -/
structure ListRun where
  s    : State
  done : Nat := 0
  bad  : Nat := 0
  sat  : Nat := 0
  /-- Bus errors still to meet. -/
  errs : Nat := 0
  broken : Bool := false

/-- One descriptor at address `a` (R184 to R186). CRC_OUT is that of the bytes written: none of a descriptor that does not
run, and which of one that met a bus error is open. -/
def ListRun.one (r : ListRun) (i : Inst) (a : Nat) (d : MovDesc) : ListRun :=
  let code := d.fault
  let host := sideSpace d.src == 2 || sideSpace d.dst == 2
  let bus := code == 0 && host && decide (0 < r.errs)
  let code := if bus then (if sideSpace d.src = 2 then 1 else 2) else code
  let t := d.copy r.s
  let s := if bus then r.s.torn t.1 (sideSpace d.dst) d.dstRanges
    else if code = 0 then d.dstRanges.foldl (fun u x => u.unpoison (sideSpace d.dst) x.1 (x.2 - x.1)) t.1 else r.s
  let crc := if bus then Config.freeWord s.freeCtr
    else if code = 0 then crc32c (d.dstRanges.flatMap (fun x => s.rdBytes (sideSpace d.dst) x.1 (x.2 - x.1))) else crc32c []
  let s := if bitOf d.flags 1 then s.tick.wrNat 1 (a + 44) 4 crc else s
  let s := s.wrNat 1 (a + 48) 4 (2 ^ 31 + (if code = 0 then 0 else 2 ^ 30) + code)
  let s := if code = 0 then s else s.badDesc i d.tag a code
  let s := if bitOf d.flags 2 then s.evI 0x4003 0x3140 d.tag (a % 2 ^ 48 + code * 2 ^ 48) i else s
  { s := s.setF (F.movChHead i.channel) a, done := r.done + 1,
    bad := r.bad + (if code = 0 then 0 else 1), sat := r.sat + (if code = 0 then t.2 else 0),
    errs := if bus then r.errs - 1 else r.errs }

/-- The descriptors of a list in order, at most `fuel` of them (R182, R187). -/
def ListRun.go (r : ListRun) (i : Inst) (a : Nat) : Nat → ListRun
  | 0 => { r with broken := true }
  | k + 1 =>
    if a % 64 ≠ 0 ∨ hbmTop < a + 64 ∨ r.s.isPoisoned 1 (a / 64) then { r with broken := true }
    else
      let d := MovDesc.ofBytes (r.s.rdBytes 1 a 64)
      let t := r.one i a d
      if d.next = 0 then t else t.go i d.next k

/-- Descriptor `n` of a list. -/
def State.listDesc (s : State) (a : Nat) : Nat → MovDesc
  | 0 => MovDesc.ofBytes (s.rdBytes 1 a 64)
  | k + 1 => s.listDesc (MovDesc.ofBytes (s.rdBytes 1 a 64)).next k

/-- A withheld block of a list. -/
def holdList (a : Nat) (old new : State) (b : Nat × Nat) : State :=
  let d := old.listDesc a b.1
  if d.fault ≠ 0 then new
  else State.withholdBlock old new { space := sideSpace d.dst, lo := sideAddr d.dst, bytes := rowBytes d.count d.dstW,
                                     pitch := d.dstP, rows := d.rows } b.2

/-- A descriptor of a list names host memory. -/
def State.listHost (s : State) (a : Nat) : Nat → Bool
  | 0 => false
  | k + 1 =>
    if a % 64 ≠ 0 ∨ hbmTop < a + 64 then false
    else
      let d := MovDesc.ofBytes (s.rdBytes 1 a 64)
      sideSpace d.src == 2 || sideSpace d.dst == 2 || (d.next != 0 && s.listHost d.next k)

/-- MOV.LIST (R182 to R187, R272). -/
def execMovList (id : Nat) (crc : MoverCrc) (s : State) : Host.Outcome State Fault Refusal :=
  s.startIf 0x2001 id (fun i => s.hostReady || !s.listHost i.code.imm1 1048576) (fun i =>
    if i.code.imm1 % 64 ≠ 0 then s.fails i stImmInvalid
    else s.moverChecks i crc (holdList i.code.imm1) (fun s =>
      let r := ListRun.go { s := s, errs := s.busErrors i.id } i i.code.imm1 1048576
      let t := r.s.channelDone i.channel r.done r.bad
      let res := cap32 r.done * 2 ^ 32 + cap32 r.bad
      if r.broken then
        ((t.setF (F.movChStatusChainBroken i.channel) 1).evI 0x4002 (0x3140 + i.channel) i.channel 0 i).putInst
          { i.end_ stMovChain with sat := cap32 r.sat, result := res }
      else if r.bad = 0 then t.finishes i r.sat 0 res
      else t.putInst { i.end_ stMovBad with sat := cap32 r.sat, result := res }))

/-! ### The valley instructions -/

/-- Elements of `w` bits, the first in the lowest bits, as bytes (R31). -/
def packBytes (w nbytes : Nat) (vs : List Nat) : List Byte :=
  if w < 8 then leBytes nbytes (vs.foldr (fun v a => v % 2 ^ w + 2 ^ w * a) 0)
  else vs.flatMap (fun v => leBytes (w / 8) v)

/-- The bytes of an operand in the compact layout, mantissas and exponent plane alike (R70). -/
def State.compactImage (s : State) (d : Desc) : List Byte :=
  let rows := List.range (d.e 1 * d.combos)
  if fmtBlock d.format then
    let body := rows.flatMap (fun r => (List.range d.width0).map (fun k =>
      if k < d.e 0 then BitVec.ofNat 8 (s.elem d (r * d.e 0 + k)) else (0 : Byte)))
    body ++ List.replicate (roundUp d.bodyBytes 64 - d.bodyBytes) (0 : Byte) ++
      rows.flatMap (fun r => (List.range d.blocks0).map (fun j =>
        BitVec.ofNat 8 (s.elemExp d (r * d.e 0 + j * d.B))))
  else packBytes (fmtBits d.format) d.bodyBytes ((List.range d.count).map (s.elem d))

/-- The format, shape and location checks of a copy between a frame and a tensor (R278). -/
def State.frameCopyStatus (s : State) (i : Inst) (frame other : Desc) (locs : List Nat) : Nat :=
  firstFail [
    (frame.format == other.format && frame.block == other.block, stOperandFormat),
    (frame.ndim == other.ndim && frame.ext == other.ext, stShapeMismatch),
    (!s.seesawBeyond i, stIndexRange),
    (frame.loc == 3 && locs.contains other.loc, stDescInvalid)]

/-- VAL.PUSH (R151 to R154, R278), into the frame taken at admission. -/
def execValPush (id : Nat) (crc : MoverCrc) (s : State) : Host.Outcome State Fault Refusal :=
  s.start 0x8000 id (fun i =>
    let f := i.d 0
    let st := s.frameCopyStatus i f (i.d 1) [0, 1, 5]
    if st ≠ stOk then s.fails i st
    else if i.claim ≠ stOk then s.claimFails i
    else s.moverChecks i crc (fun old _ _ => old) (fun t => (t.fillFrame i (s.compactImage (i.d 1)) 0).finishes i 0 0 f.compactBytes))

/-- RESULT of a read of a frame: its bytes, and whether a page was read in place (R258). -/
def State.frameResult (s : State) (x : Frame) : Nat :=
  x.bytes + (if 0 < s.pagesInHbm x then 2 ^ 63 else 0)

/-- VAL.POP (R152, R156, R279). -/
def execValPop (id : Nat) (crc : MoverCrc) (s : State) : Host.Outcome State Fault Refusal :=
  s.start 0x8001 id (fun i =>
    let d := i.d 0
    let f := i.d 1
    let n := f.base % 2 ^ 32
    let st := s.frameCopyStatus i f d [0, 1]
    let fs := s.framesStatus i
    if st ≠ stOk then s.fails i st
    else if fs ≠ stOk then s.fails i fs
    else match s.frame n with
      | none => s.fails i stValleyEmpty
      | some x => (s.readFrame x).moverChecks i crc d.holdCopy (fun t =>
          let total := d.combos
          let u := (List.range total).foldl (fun u c =>
            let v := (copyElems u d f c).1
            if fmtBlock d.format then copyExps v d f c else v) t
          (u.coverLines d).finishes { i with consume := if i.code.flag 3 then [] else [n] } 0 0 (s.frameResult x)))

/-- VAL.DROP (R152, R279). -/
def execValDrop (id : Nat) (s : State) : Host.Outcome State Fault Refusal :=
  s.start 0x8002 id (fun i =>
    let f := i.d 1
    let n := f.base % 2 ^ 32
    let fs := s.framesStatus i
    if f.loc ≠ 3 then s.fails i stDescInvalid
    else if fs ≠ stOk then s.fails i fs
    else match s.frame n with
      | none => s.fails i stValleyEmpty
      | some x => s.finishes { i with consume := [n] } 0 0 x.bytes)

end Sys2Proof.Machine
end

