-- ==== Sys2Proof/Machine/Arr.lean ====
section
/-! DEFINITION. The ARR instructions (R284 to R289, R300): placement, programming, release, forward
products on the tiles, in fallback, as WIDE and in mode IDEAL (R93 to R99, R133, R139), and read-back. -/

namespace Sys2Proof.Machine

/-! ### ARR.PLACE -/

/-- The lowest free layer handle. -/
def State.freeHandle (s : State) : Option Nat :=
  (List.range 4096).find? (fun h => (s.layer h).isNone)

/-- The checks of ARR.PLACE (R103, R285) for a layer of `t` tiles. -/
def State.placeStatus (s : State) (i : Inst) (t : Nat) : Nat :=
  let d := i.d 0
  let m := i.d 1
  firstFail [
    (m.format == 1, stOperandFormat),
    (m.loc == 5, stDescInvalid),
    (m.ndim == 2 && m.ext == d.ext, stShapeMismatch),
    (decide (m.base + m.count ≤ s.load.params), stIndexRange),
    (decide (t ≤ s.freeCount - s.f F.arrCtrlReserveTiles), stPlaceNospace),
    (s.freeHandle.isSome, stPlaceNohandle)]

/-- Tiles taken for the positions of a layer, in order (R103, R129). -/
def State.takeTiles (s : State) (h ct : Nat) : List (Nat × Nat) → State
  | [] => s
  | (t, pos) :: rest =>
    (s.modTile t (fun x => { x with
      state := 1, reason := 0, layer := h, rowTile := pos / ct, colTile := pos % ct, clips := [],
      share := min s.baseShare s.poolFree, fresh := 0, sinceRe := none })).takeTiles h ct rest

/-- ARR.PLACE (R103, R285): whether H0 is bound is read at start, from its table entry. -/
def execArrPlace (id : Nat) (s : State) : Host.Outcome State Fault Refusal :=
  s.start 0x4000 id (fun i =>
    let e := s.descEntry i.code.h0
    let d := if e.bound then e else i.d 0
    let rt := (d.e 0 + 1023) / 1024
    let ct := (d.e 1 + 255) / 256
    if d.bound then
      s.finishes i 0 0 (d.base % 2 ^ 12 + (match s.layer (d.base % 2 ^ 16) with
        | some l => l.tiles.length * 2 ^ 16
        | none => 0))
    else
      let st := s.placeStatus i (rt * ct)
      match s.freeHandle with
      | none => s.fails i st
      | some h =>
        if st ≠ stOk then s.fails i st
        else
          let ts := s.lowestFree tileCount 0 (rt * ct)
          let s := s.takeTiles h ct ts.zipIdx
          let s := s.putLayer h {
            wt := d.format == 6, inDim := d.e 0, outDim := d.e 1, master := (i.d 1).base,
            tiles := ts.map some }
          (s.putEntry i.code.h0 { d with base := setBits d.base 0 16 h, bound := true }).finishes i 0 0
            (h + rt * ct * 2 ^ 16))

/-! ### ARR.PROGRAM -/

/-- The smallest BF16 value not below a positive rational, and never subnormal (R104). -/
def scaleAbove (q : Rat) : Nat :=
  let r := floatMag 7 .rtz q
  let p := if (bf16Val r.1).rat < q then r.1 + 1 else r.1
  max 0x0080 p

/-- The column scale of an output from its masters (R104). -/
def columnScale (wt : Bool) (ws : List Nat) : Nat :=
  let m := ws.foldl (fun a w => if (bf16Val w).nonFinite then a else max a (qabs (bf16Val w).rat)) 0
  scaleAbove (m / (if wt then 3 / 2 else 2))

/-- The masters of output `o` in the committed epoch. -/
def State.outputMasters (s : State) (l : Layer) (o : Nat) : List Nat :=
  (List.range l.inDim).map (fun i => s.param false (l.offset i o))

/-- The layer may be programmed: no step is in progress, and no batch is on its tiles (R286). -/
def State.mayProgram (s : State) (i : Inst) : Bool :=
  !s.pass.launched && (match s.layer (i.layerOf 0) with
    | none => true
    | some l => l.held.all (fun t => (s.tile t).batch.isNone))

/-- ARR.PROGRAM (R104, R286). -/
def execArrProgram (id : Nat) (s : State) : Host.Outcome State Fault Refusal :=
  s.startIf 0x4001 id s.mayProgram (fun i =>
    match s.layer (i.layerOf 0) with
    | none => s.fails i stDescUnbound
    | some l =>
      let cols := (List.range l.outDim).map (s.outputMasters l)
      let nf := (cols.map (fun ws => ws.countP (fun w => (bf16Val w).nonFinite))).sum
      let s := s.putLayer (i.layerOf 0) { l with scales := cols.map (columnScale l.wt) }
      let b : Batch := { kind := .program, rows := allRows, step := s.c, full := true, renew := true }
      let s := l.held.foldl (fun t k => t.modTile k (fun x => x.begin b)) s
      (s.putInst { i with phase := .running, nf := cap32 nf, wants := l.held }).endWaiters 0x4001)

/-! ### ARR.RELEASE -/

/-- Another instruction in flight names the layer. -/
def State.layerNamed (s : State) (i : Inst) (h : Nat) : Bool :=
  s.sch.inflight.any (fun j => decide (j.id < i.id) && j.slots.any (fun x => x.2.2.loc == 4 && x.2.2.bound &&
    x.2.2.base % 2 ^ 16 == h))

/-- No row write of a layer is in progress or pending (R105, R109). -/
def State.settledTiles (s : State) (l : Layer) : Bool :=
  l.held.all (fun t =>
    let x := s.tile t
    x.batch.isNone && !x.late)

/-- Every tile of a layer is sealed and idle, with no late rows (R109, R286). -/
def State.sealedTiles (s : State) (l : Layer) : Bool := s.settledTiles l && l.held.all (fun t => (s.tile t).sealed)

/-- A tile set free keeps its levels (R105). -/
def Tile.released (x : Tile) : Tile := { x with
  state := 0, layer := 0, rowTile := 0, colTile := 0, clips := [], dirty := [], late := false,
  rewritten := [], slots := [], comSlots := [], clamps := 0, comClamps := 0, share := 0, due := false,
  calFirst := false, suspect := false, csFault := false, answered := false, base := [none, none, none, none],
  csSum := [0, 0, 0, 0], csCount := [0, 0, 0, 0], devRun := 0, sinceRe := none, fresh := 0 }

/-- A layer released. -/
def State.releaseLayer (s : State) (h : Nat) : State :=
  match s.layer h with
  | none => s
  | some l =>
    let s := l.held.foldl (fun t k => t.modTile k Tile.released) s
    { s with arr := { s.arr with layers := mdel h s.arr.layers } }

/-- ARR.RELEASE (R105, R286). -/
def execArrRelease (id : Nat) (s : State) : Host.Outcome State Fault Refusal :=
  s.startIf 0x4002 id
    (fun i => !s.layerNamed i (i.layerOf 0) && (match s.layer (i.layerOf 0) with
      | none => true
      | some l => s.settledTiles l))
    (fun i =>
      match s.layer (i.layerOf 0) with
      | none => s.fails i stDescUnbound
      | some l =>
        let e := s.descEntry i.code.h0
        ((s.releaseLayer (i.layerOf 0)).putEntry i.code.h0 { e with bound := false }).finishes i 0 0
          l.held.length)

/-! ### ARR.FWD: arithmetic (R93 to R98) -/

/-- Slice position `j` of a mantissa (R36). -/
def sliceAt (m : Int) (j : Nat) : Int := (slices m).getD (3 - j) 0

/-- The input of an ARR.FWD, one vector. -/
structure FwdIn where
  /-- Exponent bytes by block of 128 elements. -/
  exps : List Nat
  /-- Mantissas. -/
  mant : List Int
  /-- Row groups 2k and 2k + 1 are driven as one conversion where they may be (R442). -/
  paired : Bool := false

/-- Vector `v` of an input tensor. -/
def State.vector (s : State) (x : Desc) (v : Nat) : FwdIn :=
  { exps := (List.range x.blocks0).map (fun b => s.elemExp x (v * x.e 0 + b * 128)),
    mant := (List.range (x.e 0)).map (fun k => signedOf 8 (s.elem x (v * x.e 0 + k)))
    paired := s.fb F.arrCtrlDbgRows256 }

/-- The block that block `b` pairs with under the debug override (R442): the other row group of its pair, when
the two carry the same E or one of them is a zero block. -/
def FwdIn.partner (x : FwdIn) (b : Nat) : Option Nat :=
  let c := if b % 2 = 0 then b + 1 else b - 1
  let eb := nth x.exps b
  let ec := nth x.exps c
  if x.paired ∧ c < x.exps.length ∧ (eb = ec ∨ eb = 0 ∨ ec = 0) then some c else none

/-- The conversions that are driven, each by the block that gives its exponent (R96, R442): row tile and row group
of block `b` are b / 8 and b % 8. -/
def FwdIn.driven (x : FwdIn) : List Nat :=
  (List.range x.exps.length).filter (fun b =>
    let led : Bool := match x.partner b with
      | none => false
      | some c => b % 2 == 1 && nth x.exps c != 0
    nth x.exps b != 0 && nth x.exps b != 0xff && !led)

/-- The slice sum over the rows of one block; `lev i` is the doubled level of input `i`. -/
def FwdIn.blockSum (x : FwdIn) (b j : Nat) (lev : Nat → Int) : Int :=
  ((List.range (min 128 (x.mant.length - b * 128))).map (fun r =>
    lev (b * 128 + r) * sliceAt (x.mant.getD (b * 128 + r) 0) j)).sum

/-- The slice sum of a conversion for one column. -/
def FwdIn.sliceSum (x : FwdIn) (b j : Nat) (lev : Nat → Int) : Int :=
  x.blockSum b j lev + (match x.partner b with
    | none => 0
    | some c => x.blockSum c j lev)

/-- The ideal code before it is held, and the ideal code (R94). -/
def rawCode (S : Int) (range : Nat) : Int := roundInt .rne ((S : Rat) / (2 ^ range : Nat))
def heldCode (q : Int) : Int := max (-64) (min 63 q)
def isClip (q : Int) : Bool := decide (q < -64) || decide (63 < q)

/-- One output element (R98): `code b j` gives the codes, `outs` the corrections by input. -/
def FwdIn.output (x : FwdIn) (range : Nat) (scale : Rat) (code : Nat → Nat → Int) (outs : List (Nat × Rat)) : Val :=
  if x.exps.any (fun e => e == 0xff) then .nan
  else
    let f (b : Nat) : Int := (nth x.exps b : Int) - 127
    let main : Rat := match x.driven with
      | [] => 0
      | b0 :: _ =>
        let anchor := x.driven.foldl (fun a b => max a (f b)) (f b0)
        let acc : Int := (x.driven.map (fun b =>
          let p := ((2 ^ range : Nat) : Int) * (64 * code b 3 + 16 * code b 2 + 4 * code b 1 + code b 0)
          let sh := f b - anchor + 24
          if 0 ≤ sh then p * ((2 ^ sh.toNat : Nat) : Int) else roundInt .rne ((p : Rat) * pow2 sh))).sum
        scale / 2 * acc * pow2 (anchor - 24)
    let corr : Rat := (outs.map (fun o =>
      o.2 * (blockVal (nth x.exps (o.1 / 128)) (unsignedOf 8 (x.mant.getD o.1 0))).rat)).sum
    .fin (main + corr)

/-- The corrections of output `o` from the slots of the tiles of its column. -/
def State.corrections (s : State) (l : Layer) (committed : Bool) (o : Nat) : List (Nat × Rat) :=
  (List.range l.rt).flatMap (fun rt => match l.at_ rt (o / 256) with
    | none => []
    | some t =>
      let x := s.tile t
      (if committed then x.comSlots else x.slots).filterMap (fun c =>
        if c.1 % 256 = o % 256 then some (rt * 1024 + c.1 / 256, (f32Val c.2).rat) else none))

/-- The level of weight (i, o) as its tile holds it, or as the committed epoch gives it. -/
def State.heldLevel (s : State) (l : Layer) (o i : Nat) : Int :=
  match l.at_ (i / 1024) (o / 256) with
  | none => 0
  | some t => (s.tile t).level (i % 1024) (o % 256)
def State.committedLevel (s : State) (l : Layer) (o i : Nat) : Int :=
  masterLevel l.wt (l.scale o) (s.param false (l.offset i o)) (s.heldLevel l o i)

/-! ### ARR.FWD: conversions on the tiles -/

/-- A number for each conversion of an ARR.FWD, to take its free value by. -/
def convNo (v o b j : Nat) : Nat := ((v * 2 ^ 40 + o) * 2 ^ 24 + b) * 4 + j

/-- The conditions under which the accuracy table binds the tile (R123). -/
def State.accurate (s : State) (t : Nat) : Bool :=
  let x := s.tile t
  x.fits.all (fun f => f.done) && decide (0 ≤ s.clusterTemp t) && decide (s.clusterTemp t ≤ 420) &&
  decide (x.maxWear ≤ 1000000)

/-- The largest error of a code where the table binds (R123): 2 in a fresh array from 25 °C to 85 °C, else 3. -/
def State.errorBound (s : State) (t : Nat) : Int :=
  if Config.shippedLately s.aon ∧ (s.tile t).maxWear < 10000 ∧ 100 ≤ s.clusterTemp t ∧ s.clusterTemp t ≤ 340 then 2 else 3

/-- The code of a conversion on a tile (R121, R123): within the largest error of the ideal code where the table binds, else
whatever code the correction gives. The RMS of the table limits no code by itself: the model leaves it open. -/
def State.nativeCode (s : State) (l : Layer) (x : FwdIn) (v o b j : Nat) : Int :=
  let q := heldCode (rawCode (x.sliceSum b j (s.heldLevel l o)) l.range)
  let e := Config.codeError s.freeCtr (convNo v o b j)
  match l.at_ (b / 8) (o / 256) with
  | none => q
  | some t =>
    if s.accurate t ∧ (x.partner b).isNone then heldCode (q + max (-(s.errorBound t)) (min (s.errorBound t) e))
    else ((s.tile t).fits.getD (o % 256 / 32) {}).correct (s.clusterTemp t) (heldCode e)

/-- A conversion of a data column clips: the ideal code before it is held leaves the range (R93). -/
def State.clips (s : State) (l : Layer) (x : FwdIn) (o b j : Nat) : Bool :=
  isClip (rawCode (x.sliceSum b j (s.heldLevel l o)) l.range)

/-- What the tiles count while a layer converts. -/
structure ConvCount where
  n : Nat := 0
  c : Nat := 0
  h : Nat := 0

def ConvCount.add (a b : ConvCount) : ConvCount := { n := a.n + b.n, c := a.c + b.c, h := a.h + b.h }

/-- The counts of output `o` for one vector (R101). -/
def State.countOutput (s : State) (l : Layer) (x : FwdIn) (v o : Nat) : ConvCount :=
  let cs := x.driven.flatMap (fun b => (List.range 4).map (fun j => (b, j)))
  { n := cs.length, c := cs.countP (fun y => s.clips l x o y.1 y.2),
    h := cs.countP (fun y => decide (16 ≤ (s.nativeCode l x v o y.1 y.2).natAbs)) }

/-- The slice sum of a tile's checksum column over the rows of one block, in units of S (R89). -/
def State.checksumSum (s : State) (x : FwdIn) (t b j : Nat) : Rat :=
  ((List.range (min 128 (x.mant.length - b * 128))).map (fun r =>
    (s.tile t).checksumCell t (b % 8 * 128 + r) * ((sliceAt (x.mant.getD (b * 128 + r) 0) j : Int) : Rat))).sum

/-- The code of a tile's checksum column before it is held, and as the check takes it: where the accuracy table binds the
tile, within 3 codes of the rounded sum of its cells (the note of R125 gives 3.5 with the rounding; DEDUCED), else any code. -/
def State.checksumRaw (s : State) (l : Layer) (x : FwdIn) (t b j : Nat) : Int :=
  roundInt .rne (s.checksumSum x t b j / (2 ^ l.range : Nat))
def State.checksumCode (s : State) (l : Layer) (x : FwdIn) (v t b j : Nat) : Int :=
  let e := Config.checksumError s.freeCtr (convNo v (2 ^ 30 + t) b j)
  if s.accurate t then heldCode (heldCode (s.checksumRaw l x t b j) + max (-3) (min 3 e)) else heldCode e

/-- The residual of the checksum of one conversion of tile `t`, unless something clips or the conversion is a paired one
(R125, R442). -/
def State.residual (s : State) (l : Layer) (x : FwdIn) (v t b j : Nat) : Option Int :=
  let ct := (s.tile t).colTile
  let os := (List.range (l.liveCols ct)).map (fun c => ct * 256 + c)
  if (x.partner b).isSome || os.any (fun o => s.clips l x o b j) || isClip (s.checksumRaw l x t b j) then none
  else some ((os.map (fun o => s.nativeCode l x v o b j)).sum - 256 * s.checksumCode l x v t b j)

/-- The gross threshold (R142). -/
def State.grossLimit (s : State) : Nat := max 0x1280 (s.f F.arrCsCfgGross)

/-- What one vector leaves in the tile that holds position (rt, ct): conversions, clips by physical column,
and the sums of the checksum check in step (R93, R117, R125). -/
def State.countTile (s0 s : State) (l : Layer) (i : Inst) (x : FwdIn) (v t : Nat) : State :=
  let y := s.tile t
  let bs := x.driven.filter (fun b => b / 8 == y.rowTile)
  let cs := bs.flatMap (fun b => (List.range 4).map (fun j => (b, j)))
  let clips := (List.range (l.liveCols y.colTile)).foldl (fun m c =>
    let k := cs.countP (fun z => s0.clips l x (y.colTile * 256 + c) z.1 z.2)
    let p := y.physical c
    if k = 0 then m else mput p (min 0xffffffff ((mget p m).getD 0 + k)) m) y.clips
  let rs (j : Nat) : List Int := bs.filterMap (fun b => s0.residual l x v t b j)
  let step := i.step == some s.stepNow && s.pass.launched
  let lsb : Int := ((2 ^ l.range : Nat) : Int)
  let y := { y with
    convs := y.convs + cs.length, clips := clips,
    csSum := if step then (List.range 4).map (fun j => y.csSum.getD j 0 + lsb * (rs j).sum) else y.csSum,
    csCount := if step then (List.range 4).map (fun j => nth y.csCount j + (rs j).length) else y.csCount }
  let gross (b j : Nat) : Bool := match s0.residual l x v t b j with
    | none => false
    | some d => decide (s.grossLimit < d.natAbs)
  let bad := cs.filter (fun z => gross z.1 z.2)
  let s := s.putTile t y
  match bad with
  | [] => s
  | (b, _) :: _ =>
    if s.arr.disputes.any (fun d => d.tile == t && d.id == i.id) then
      { s with arr := { s.arr with disputes := s.arr.disputes.map (fun d =>
        if d.tile = t ∧ d.id = i.id then { d with count := d.count + bad.length } else d) } }
    else
      let d : Dispute := {
        tile := t, id := i.id, step := i.step, layer := i.layerOf 2, block := b, exp := nth x.exps b, count := bad.length
        mant := (x.mant.drop (b * 128)).take 128
        codes := (List.range 4).map (fun j => (List.range (l.liveCols y.colTile)).map (fun c =>
          s0.nativeCode l x v (y.colTile * 256 + c) b j)) }
      { s with arr := { s.arr with disputes := s.arr.disputes ++ [d] } }

/-! ### Arbitration of an array (R127) -/

/-- The ideal codes, by live column, of `n` rows of a captured block from its row `lo` on, in slice position `j`: from the
committed levels at the layer's range (R94, R127). -/
def State.idealCodes (s : State) (l : Layer) (x : Tile) (d : Dispute) (lo n j : Nat) : List Int :=
  (List.range (l.liveCols x.colTile)).map (fun c =>
    heldCode (rawCode ((List.range n).map (fun r =>
      s.committedLevel l (x.colTile * 256 + c) (d.block * 128 + lo + r) * sliceAt (d.mant.getD (lo + r) 0) j)).sum l.range))

/-- Codes agree with ideal ones: each is within 3 (R127). -/
def agrees (ideal codes : List Int) : Bool :=
  ideal.zipIdx.all (fun y => decide ((codes.getD y.2 0 - y.1).natAbs ≤ 3))

/-- The codes of the original conversion agree with the ideal ones. -/
def State.originalAgrees (s : State) (l : Layer) (x : Tile) (d : Dispute) : Bool :=
  (List.range 4).all (fun j => agrees (s.idealCodes l x d 0 128 j) (d.codes.getD j []))

/-- The codes of the re-read agree, in the four slice positions of the lower and of the upper 64 rows. -/
def State.rereadAgrees (s : State) (l : Layer) (x : Tile) (d : Dispute) (low high : List (List Int)) : Bool :=
  (List.range 4).all (fun j => agrees (s.idealCodes l x d 0 64 j) (low.getD j []) &&
    agrees (s.idealCodes l x d 64 64 j) (high.getD j []))

/-- The step of a failed check vetoes, if it is the one in progress. -/
def State.disputeVetoes (s : State) (d : Dispute) : State :=
  if s.pass.launched ∧ d.step = some s.stepNow then s.failCheck rsnCheck (d.tile * 65536) else s

/-- ARRAY_ARBITRATION (R127): the instruction of a gross disagreement on `tile` has completed, and the re-read of the row
group in two halves gives the codes `low` and `high`; with the ideal replay of the grids it settles who is at fault. -/
def execArrayArbitration (tile : Nat) (low high : List (List Int)) (s : State) : Host.Outcome State Fault Refusal :=
  match s.arr.disputes.find? (fun d => d.tile == tile) with
  | none => .next s
  | some d =>
    let x := s.tile tile
    let t := { s with arr := { s.arr with disputes := s.arr.disputes.filter (fun y => y != d) } }
    match s.layer d.layer with
    | none => .next t
    | some l =>
      if x.state ≠ 1 ∨ x.layer ≠ d.layer then .next t
      else if !s.rereadAgrees l x d low high then .next ((t.disputeVetoes d).retire tile 3 4)
      else if s.originalAgrees l x d then .next ((t.modTile tile (fun x => { x with csFault := true })).ev 0x100b tile 0 0)
      else .next ((t.modTile tile (fun x => { x with suspect := true })).disputeVetoes d)

/-! ### ARR.FWD: the instruction -/

/-- The checks of ARR.FWD (R252, R287), the frame of STASH apart. -/
def fwdStatus (i : Inst) (l : Layer) : Nat :=
  let y := i.d 0
  let x := i.d 1
  let f := i.d 3
  firstFail [
    (decide (i.code.imm0 ≤ 1), stImmInvalid),
    (x.format == 2 && x.block == 3 && (y.format == 0 || (y.format == 2 && y.scale == 0)), stOperandFormat),
    (x.e 0 == l.inDim && y.e 0 == l.outDim && x.ndim == y.ndim && [1, 2, 3, 4].all (fun k => x.e k == y.e k),
      stShapeMismatch),
    (!i.code.flag 3 || (f.format == x.format && f.block == x.block), stOperandFormat),
    (!i.code.flag 3 || (f.ndim == x.ndim && f.ext == x.ext), stShapeMismatch)]

/-- A tile can convert for the instruction (R19, R109, R118). -/
def State.tileReady (s : State) (i : Inst) (t : Nat) : Bool :=
  let x := s.tile t
  x.sealed && x.batch.isNone && !(x.late && i.step != some s.c) && !x.calFirst && !x.answered &&
  s.units.awake.contains (.tile, t)

/-- ARR.FWD waits for its tiles; on the grids for nothing. -/
def State.fwdMay (s : State) (i : Inst) : Bool :=
  match s.layer (i.layerOf 2) with
  | none => true
  | some l => s.fwdPlace i l != .tiles || !l.programmed || l.held.all (s.tileReady i)

/-- The forward norm takes the outputs of the step, recomputes and IDEAL apart (R135). -/
def State.takeNorm (s : State) (i : Inst) (h : Nat) (vs : List Val) : State :=
  if !s.inStep i || i.code.flag 4 then s
  else s.modLayer h (fun l => { l with
    sumSq := l.sumSq + (vs.map (fun v => v.rat * v.rat)).sum, elems := l.elems + vs.length,
    nonFin := l.nonFin || vs.any Val.nonFinite })

/-- The product of a forward on the grids: W8 derived along the input dimension, or WIDE (R48, R49). -/
def gridForward (wide : Bool) (l : Layer) : Product :=
  { kb := if wide then .wide else .derived 0, win := if wide then 64 else 16, len := l.inDim,
    ia := fun k _ m => (k, m), ib := fun k n _ => (k, n) }

/-- The masters of a layer as an operand. -/
def Layer.mastersDesc (l : Layer) : Desc :=
  { format := 1, loc := 5, ndim := 2, base := l.master, ext := [l.inDim, l.outDim, 0, 0, 0] }

/-- The input written into the frame of STASH (R287). -/
def State.stash (s : State) (i : Inst) : State :=
  if i.code.flag 3 then s.fillFrame i (s.compactImage (i.d 1)) 0 else s

/-- Finished tiles of a forward (R176). -/
def fwdTiles (d : Desc) (l : Layer) : Nat := d.e 1 * d.combos * l.ct

/-- The forward on the layer's tiles (R98, R99). -/
def State.fwdOnTiles (s : State) (i : Inst) (h : Nat) (l : Layer) : State :=
  let y := i.d 0
  let vs := (List.range (y.e 1 * y.combos)).map (fun v => (v, s.vector (i.d 1) v))
  let outs := vs.flatMap (fun z => (List.range l.outDim).map (fun o =>
    z.2.output l.range (l.scale o) (s.nativeCode l z.2 z.1 o) (s.corrections l false o)))
  let n := (vs.flatMap (fun z => (List.range l.outDim).map (s.countOutput l z.2 z.1))).foldl ConvCount.add {}
  let e := encodeVals y 0 (fun _ => .rne) outs
  let t := vs.foldl (fun t z => l.held.foldl (fun t k => s.countTile t l i z.2 z.1 k) t) s.tick
  let t := if s.inStep i then t.modLayer h (fun l => { l with n := l.n + n.n, c := l.c + n.c, h := l.h + n.h })
    else t
  let t := { t with pup := if s.inStep i then { t.pup with acc := { t.pup.acc with clips := t.pup.acc.clips + n.c } }
    else t.pup }
  let tiles := fwdTiles y l
  (((t.takeNorm i h (e.vals y 0)).wrEncoded y e).putInst { i.finish e.sat e.nf (min 0xffffffff n.c + l.range * 2 ^ 32) with
    tiles := tiles, made := List.range tiles }).postTiles i.id tiles

/-- The forward on the grids, in fallback or as WIDE (R139, R288). -/
def State.fwdOnGrids (s : State) (i : Inst) (h : Nat) (l : Layer) (wide : Bool) : State :=
  let y := i.d 0
  let p := gridForward wide l
  let e := encodeVals y 0 (fun _ => .rne) ((List.range y.count).map
    (s.productVal p (i.d 1) l.mastersDesc y))
  (s.takeNorm i h (e.vals y 0)).launchItems i (itemsOf y p.len) (fwdTiles y l)
    (if wide then 2 ^ 35 else 2 ^ 34) y e

/-- The forward in mode IDEAL (R133). -/
def State.fwdIdeal (s : State) (i : Inst) (l : Layer) : State :=
  let y := i.d 0
  let vs := (List.range (y.e 1 * y.combos)).map (s.vector (i.d 1))
  let raw (x : FwdIn) (o b j : Nat) : Int := rawCode (x.sliceSum b j (s.committedLevel l o)) l.range
  let outs := vs.flatMap (fun x => (List.range l.outDim).map (fun o =>
    x.output l.range (l.scale o) (fun b j => heldCode (raw x o b j)) (s.corrections l true o)))
  let held := (vs.flatMap (fun x => (List.range l.outDim).map (fun o =>
    (x.driven.flatMap (fun b => (List.range 4).map (raw x o b))).countP isClip))).sum
  s.launchItems i (itemsOf y l.inDim) (fwdTiles y l) (min 0xffffffff held + l.range * 2 ^ 32 + 2 ^ 36) y
    (encodeVals y 0 (fun _ => .rne) outs)

/-- ARR.FWD (R19, R98, R287, R288). -/
def execArrFwd (id : Nat) (s : State) : Host.Outcome State Fault Refusal :=
  s.startIf 0x4003 id s.fwdMay (fun i =>
    let h := i.layerOf 2
    match s.layer h with
    | none => s.fails i stDescUnbound
    | some l =>
      let st := fwdStatus i l
      if st ≠ stOk then s.fails i st
      else if i.claim ≠ stOk then s.claimFails i
      else
        let t := s.stash i
        if !l.programmed then t.fails i stLayerUnprogrammed
        else match s.fwdPlace i l with
          | .tiles => t.fwdOnTiles i h l
          | .fallback => if t.noGrids then t.fails i stHwUnavailable else t.fwdOnGrids i h l false
          | .wide => if t.noGrids then t.fails i stHwUnavailable else t.fwdOnGrids i h l true
          | .ideal => if t.noGrids then t.fails i stHwUnavailable else t.fwdIdeal i l)

/-! ### ARR.LREAD -/

/-- The code that read-back returns for a cell, and whether it resolves to a level (R115). -/
def readBack (wt : Bool) (d : Int) : Nat × Bool :=
  if wt then
    (if d = 0 then (0, true) else if d = 2 then (1, true) else if d = -2 then (3, true)
     else if 0 < d then (1, false) else if d = -1 then (0, false) else (3, false))
  else
    (if d = -3 then (0, true) else if d = -1 then (1, true) else if d = 1 then (2, true)
     else if d = 3 then (3, true) else if d = -2 then (1, false) else if d = 2 then (3, false)
     else (2, false))

/-- ARR.LREAD (R115, R286). -/
def execArrLread (id : Nat) (s : State) : Host.Outcome State Fault Refusal :=
  s.startIf 0x4004 id
    (fun i => match s.layer (i.layerOf 1) with
      | none => true
      | some l => s.sealedTiles l && l.held.all (fun t => s.units.awake.contains (.tile, t)))
    (fun i =>
      match s.layer (i.layerOf 1) with
      | none => s.fails i stDescUnbound
      | some l =>
        let d := i.d 0
        let st := firstFail [
          (d.format == (if l.wt then 6 else 5), stOperandFormat),
          (d.ndim == 2 && d.e 0 == l.inDim && d.e 1 == l.outDim, stShapeMismatch),
          (decide (d.loc ≤ 1), stDescInvalid)]
        if st ≠ stOk then s.fails i st
        else
          let cells := (List.range d.count).map (fun k =>
            readBack l.wt (s.heldLevel l (k / l.inDim) (k % l.inDim)))
          (s.wrElems d 0 (cells.map (fun c => c.1))).finishes i 0 0 (cells.countP (fun c => !c.2)))

/-! ### ARR.FALLBACK, ARR.CALIB -/

/-- ARR.FALLBACK (R139, R140, R289). -/
def execArrFallback (id : Nat) (s : State) : Host.Outcome State Fault Refusal :=
  s.start 0x4005 id (fun i =>
    let h := i.layerOf 0
    match s.layer h with
    | none => s.fails i stDescUnbound
    | some l =>
      let t :=
        if bitOf i.code.imm0 0 then
          (if s.pass.launched then s.putLayer h { l with pendFall := some 2, pendClear := false }
           else s.enterFallback h 2)
        else if !l.whole then s
        else if s.pass.launched then s.putLayer h { l with pendFall := none, pendClear := true }
        else s.leaveFallback h
      let r := match t.layer h with
        | none => false
        | some l => l.fallback || l.pendFall.isSome
      t.finishes i 0 0 (natOfBool r))

/-- ARR.CALIB (R141, R289): the calibrations it waits for are counted by CALIBRATION. -/
def execArrCalib (id : Nat) (s : State) : Host.Outcome State Fault Refusal :=
  s.start 0x4006 id (fun i =>
    match s.layer (i.layerOf 0) with
    | none => s.fails i stDescUnbound
    | some l =>
      let s := l.held.foldl (fun t k => t.modTile k (fun x => { x with due := true })) s
      (s.putInst { i with phase := .running, wants := l.held }).endWaiters 0x4006)

end Sys2Proof.Machine
end

