-- ==== Sys2Proof/Machine/Link.lean ====
section
/-! DEFINITION. The rank table (R83), the trees (R192, R218), ports as the other parts see them, and
blocks originated for the fabric (R319, R327). -/

namespace Sys2Proof.Machine

/-! ### The rank table (R83) -/

/-- The HBM address of entry `r` of the rank table. -/
def State.rankAddr (s : State) (r : Nat) : Nat := s.f F.schRankTable + 16 + 16 * r

/-- FABRIC_ID, STATE and ID_TAG of an entry. -/
def State.rankFabric (s : State) (r : Nat) : Nat := s.rdNat 1 (s.rankAddr r) 4
def State.rankState (s : State) (r : Nat) : Nat := s.rdNat 1 (s.rankAddr r + 4) 1
def State.rankTag (s : State) (r : Nat) : Nat := s.rdNat 1 (s.rankAddr r + 8) 8

/-- N and S as the load took them, and VERSION of the table in use. -/
def State.n (s : State) : Nat := s.load.n
def State.spareCount (s : State) : Nat := s.rdNat 1 (s.f F.schRankTable + 4) 2
def State.version (s : State) : Nat := s.f F.schRankVersion

/-- An entry written. -/
def State.putRank (s : State) (r fabric state tag : Nat) : State :=
  ((s.wrNat 1 (s.rankAddr r) 4 fabric).wrNat 1 (s.rankAddr r + 4) 1 state).wrNat 1 (s.rankAddr r + 8) 8 tag

/-- VERSION set in the table and in its register. -/
def State.setVersion (s : State) (v : Nat) : State :=
  (s.wrNat 1 (s.f F.schRankTable + 8) 4 v).setF F.schRankVersion v

/-- Ranks of the table, spares included. -/
def State.allRanks (s : State) : List Nat := List.range (s.n + s.spareCount)

/-- The rank that holds a FABRIC_ID. -/
def State.rankOf (s : State) (fabric : Nat) : Option Nat := s.allRanks.find? (fun r => s.rankFabric r == fabric)

/-- The rank whose part this device plays: from TAKEOVER on, a spare plays the failed rank (R242). -/
def State.me (s : State) : Nat :=
  let r := s.f F.schRankRank
  match s.pass.tko.assigns.find? (fun a => a.2 == r) with
  | some a => a.1
  | none => r

/-- The entry whose device stands at rank `r`. -/
def State.seat (s : State) (r : Nat) : Nat := (mget r s.pass.tko.assigns).getD r

/-- This device is a rank of the job: it plays an active rank. -/
def State.isActive (s : State) : Bool := s.load.loaded && decide (s.me < s.n)

/-- The device's own rank-table entry is ACTIVE in a loaded job with N > 1. -/
def State.activeRank (s : State) : Bool :=
  s.load.loaded && decide (1 < s.n) && s.fb F.schRankValid && s.rankState (s.f F.schRankRank) == 0

/-! ### The trees (R192, R218) -/

/-- Position of rank `r` in the tree of bucket `b`, and the rank at a position. -/
def State.posOf (s : State) (b r : Nat) : Nat := (r + s.n - b % s.n) % s.n
def State.atPos (s : State) (b p : Nat) : Nat := (p + b) % s.n

/-- The parent of this rank in the tree of bucket `b`; the owner has none. -/
def State.parentIn (s : State) (b : Nat) : Option Nat :=
  let p := s.posOf b s.me
  if p = 0 then none else some (s.atPos b ((p - 1) / 2))

/-- The children of this rank in the tree of bucket `b`. -/
def State.childrenIn (s : State) (b : Nat) : List Nat :=
  let p := s.posOf b s.me
  ([2 * p + 1, 2 * p + 2].filter (fun q => decide (q < s.n))).map (s.atPos b)

/-- This rank owns bucket `b`. -/
def State.owns (s : State) (b : Nat) : Bool := s.posOf b s.me == 0

/-- Parent and children in the control tree; rank 0 is the root. -/
def State.parent (s : State) : Option Nat := s.parentIn 0
def State.children (s : State) : List Nat := s.childrenIn 0
def State.isRoot (s : State) : Bool := s.me == 0

/-- The spares this rank exchanges heartbeats with, or the rank that a spare does (R239). -/
def State.beatPartners (s : State) : List Nat :=
  let r := s.me
  if r < s.n then
    (s.allRanks.filter (fun q => decide (s.n ≤ q) && (q - s.n) % s.n == r && s.rankState q == 1 &&
      !s.pass.tko.assigns.any (fun a => a.2 == q)))
  else [(r - s.n) % s.n]

/-- Control-tree neighbours and heartbeat partners. -/
def State.neighbours (s : State) : List Nat :=
  (if s.me < s.n then s.parent.toList ++ s.children else []) ++ s.beatPartners

/-! ### Ports -/

/-- The ports. -/
def allPorts : List Nat := List.range 12

/-- A port as it stands, replaced, and changed. -/
def State.port (s : State) (p : Nat) : Port := (mget p s.fab.ports).getD {}
def State.putPort (s : State) (p : Nat) (x : Port) : State :=
  { s with fab := { s.fab with ports := mput p x s.fab.ports } }
def State.modPort (s : State) (p : Nat) (g : Port → Port) : State := s.putPort p (g (s.port p))

/-- States of a port (R334). -/
def pDown : Nat := 0
def pTraining : Nat := 1
def pActive : Nat := 2
def pKeepAlive : Nat := 3
def pQuarantined : Nat := 4

/-- The state of a port, and whether it carries blocks. -/
def State.pst (s : State) (p : Nat) : Nat := s.f (F.fabPStatusState p)
def State.portUp (s : State) (p : Nat) : Bool := s.pst p == pActive || s.pst p == pKeepAlive

/-- This device's FABRIC_ID: node 0xffff acts as 0xfffe (R334). -/
def State.myId (s : State) : Nat := s.f F.fabNodeIdFabric * 65536 + min 0xfffe (s.f F.fabNodeIdNode)

/-- The FABRIC_ID in effect on a port since its last full training (R333). -/
def State.idOn (s : State) (p : Nat) : Nat := (mget p s.fab.nodeId).getD s.myId

/-- The unit number of a port (R415). -/
def portUnit (p : Nat) : Nat := 0x3190 + p

/-- A port keeps its blocks: it carries them, or goes through a fast retrain, which loses none (R325). -/
def State.portKept (s : State) (p : Nat) : Bool := s.portUp p || (s.pst p == pTraining && (s.port p).fast)

/-- The port whose partner has a FABRIC_ID, if there is one that is up, or else in a fast retrain. -/
def State.portTo (s : State) (fabric : Nat) : Option Nat :=
  let at_ (p : Nat) : Bool := s.fb (F.fabPPartnerValid p) && s.f (F.fabPPartnerFabricId p) == fabric
  match allPorts.find? (fun p => s.portUp p && at_ p) with
  | some p => some p
  | none => allPorts.find? (fun p => s.portKept p && at_ p)

/-- The egress port of a destination by the route table (R327, R333): PORT when it is ACTIVE, else ALT when it carries
blocks; where neither is so, the one of the two that is not down, PORT first. -/
def State.routeTo (s : State) (dest : Nat) : Option Nat :=
  let e := (mget (dest % 65536) s.fab.routes).getD 0
  if dest / 65536 ≠ s.f F.fabNodeIdFabric ∨ !bitOf e 8 then none
  else if s.pst (bitsOf e 0 4) = pActive then some (bitsOf e 0 4)
  else if s.portUp (bitsOf e 4 4) then some (bitsOf e 4 4)
  else if s.portKept (bitsOf e 0 4) then some (bitsOf e 0 4)
  else if s.portKept (bitsOf e 4 4) then some (bitsOf e 4 4)
  else none

/-! ### Origination -/

/-- A block originated. -/
def State.originate (s : State) (o : Origin) : State :=
  { s with fab := { s.fab with orig := s.fab.orig ++ [o] } }

/-- A control message sent to the device at a rank (R218). -/
def State.sendCtl (s : State) (r : Nat) (m : CtlMsg) : State :=
  s.originate { tc := 0, dest := s.rankFabric (s.seat r), pay := .ctl m }

/-- The same to several ranks. -/
def State.sendAll (s : State) (rs : List Nat) (m : CtlMsg) : State := rs.foldl (fun t r => t.sendCtl r m) s

/-- A reduction block sent to a rank (R193, R195). -/
def State.sendRed (s : State) (r : Nat) (b : RedBlock) : State :=
  s.originate { tc := 1, dest := s.rankFabric (s.seat r), pay := .red b }

/-- A reduction block sent to several ranks. -/
def State.sendReds (s : State) (rs : List Nat) (b : RedBlock) : State := rs.foldl (fun t r => t.sendRed r b) s

/-- A control message sent to every fabric partner but the one of rank `but` (R239). -/
def State.flood (s : State) (m : CtlMsg) (but : Option Nat) : State :=
  allPorts.foldl (fun t p =>
    let partner := t.f (F.fabPPartnerFabricId p)
    if t.portUp p && (but.map (fun r => t.rankFabric (t.seat r))) != some partner then
      t.originate { tc := 0, dest := partner, pay := .ctl m, port := some p }
    else t) s

/-! ### Credits (R322) -/

/-- Element `k` of a list of counts changed. -/
def modNth (l : List Nat) (k : Nat) (g : Nat → Nat) : List Nat := l.set k (g (nth l k))

/-- A buffer of class `tc` is free again on port `p`: its credit is owed to the partner. -/
def State.freeCredit (s : State) (p tc : Nat) : State :=
  s.modPort p (fun x => { x with owed := modNth x.owed tc (· + 1) })

/-- The reduction blocks held for buckets of which `q` holds give their credits back (R198). -/
def State.freeHeld (s : State) (q : Nat → Bool) : State :=
  let out := s.fab.heldRed.filter (fun x => q x.2)
  out.foldl (fun t x => t.freeCredit x.1 1)
    { s with fab := { s.fab with heldRed := s.fab.heldRed.filter (fun x => !q x.2) } }

/-- The blocks that came for buckets before these entered are dropped (R225). -/
def State.dropEarly (s : State) : State :=
  ({ s with col := { s.col with early := [] } }).freeHeld (fun _ => true)

/-! ### The rank table in HBM (R83, R234) -/

/-- A line of the rank table holds an uncorrectable error. -/
def State.tablePoisoned (s : State) : Bool :=
  s.poisonedRange 1 (s.f F.schRankTable) (16 + 16 * (s.n + s.spareCount))

/-! ### Partner violations (R332) -/

/-- A counted violation of kind `k` on port `p`: it is recorded, and a window that has run out starts
anew. Quarantine is VIOLATION_LIMIT. -/
def State.portViolates (s : State) (p k : Nat) : State :=
  let win := max 1 (s.f F.fabViolCfgWindow)
  let s := if (s.port p).winAt + win ≤ s.aon then
      (s.modPort p (fun x => { x with winAt := s.aon })).setF (F.fabPViolWindowCount p) 0 else s
  (((s.addF (F.fabPViolTotal p) 1).addF (F.fabPViolWindowCount p) 1).setF (F.fabPViolLastKind p) k).ev
    0x6008 (portUnit p) k 0

end Sys2Proof.Machine
end

