-- ==== Sys2Proof/Machine/Reduce.lean ====
section
/-! DEFINITION. Buckets: the COL instructions but COL.PASS, release, entry, probes, sums, re-reduction,
the update engine, and parameters on the way down (R23, R191 to R216, R295 to R297). -/

namespace Sys2Proof.Machine

/-! ### The update table and the average store (R203, R208) -/

/-- An update-table entry (R203). -/
structure UpdEntry where
  rule   : Nat
  valid  : Bool
  mask   : Bool
  kauto  : Bool
  handle : Nat
  k      : Int
  silent : Nat
  base   : Nat
  eta    : Val
  lambda : Val
  beta1  : Val
  beta2  : Val
  mu     : Val
  count  : Nat
  deriving DecidableEq, Repr

/-- The HBM address of entry `l`. -/
def State.updAddr (s : State) (l : Nat) : Nat := s.f F.colUpdTable + 64 * l

/-- Entry `l` of the update table. -/
def State.upd (s : State) (l : Nat) : UpdEntry :=
  let b := s.rdBytes 1 (s.updAddr l) 64
  let num (o n : Nat) : Nat := leNat ((b.drop o).take n)
  { rule := num 0 1, valid := bitOf (num 1 1) 0, mask := bitOf (num 1 1) 1, kauto := bitOf (num 1 1) 2,
    handle := num 2 2, k := signedOf 8 (num 4 1), silent := num 6 2, base := bitsOf (num 8 8) 0 40,
    eta := f32Val (num 16 4), lambda := f32Val (num 20 4), beta1 := f32Val (num 24 4),
    beta2 := f32Val (num 28 4), mu := f32Val (num 32 4), count := num 36 4 }

/-- K and SILENT of an entry written. -/
def State.putK (s : State) (l : Nat) (k : Int) : State := s.wrNat 1 (s.updAddr l + 4) 1 (unsignedOf 8 k)
def State.putSilent (s : State) (l n : Nat) : State := s.wrNat 1 (s.updAddr l + 6) 2 n

/-- The slots of the average store that this rank holds (R209). -/
def State.avgSlots (s : State) : Nat := (s.load.buckets + s.n - 1) / s.n

/-- The slot of bucket `b` at its owner (R208). -/
def State.slotAddr (s : State) (b : Nat) : Nat := s.f F.colAvgBase + avgSlot * (b / s.n)

/-- A slot's committed copy, whether it holds averages, and its K_TAG. -/
def State.slotSel (s : State) (b : Nat) : Nat := s.rdNat 1 (s.slotAddr b + 2) 1 % 2
def State.slotValid (s : State) (b : Nat) : Bool := bitOf (s.rdNat 1 (s.slotAddr b + 2) 1) 1
def State.slotTag (s : State) (b : Nat) : Int := signedOf 8 (s.rdNat 1 (s.slotAddr b + 3) 1)

/-- The committed average of element `i` of a bucket, a BF16 pattern; zero without VALID. -/
def State.average (s : State) (b i : Nat) : Nat :=
  if s.slotValid b then s.rdNat 1 (s.slotAddr b + 64 + avgCopy * s.slotSel b + 2 * i) 2 else 0

/-- Element `i` of a bucket's shadow average written. -/
def State.putAverage (s : State) (b i v : Nat) : State :=
  s.wrNat 1 (s.slotAddr b + 64 + avgCopy * (1 - s.slotSel b) + 2 * i) 2 v

/-- Every running average reads as zero and B is 0 (R205, R209). -/
def State.resetAverages (s : State) : State :=
  let t := (List.range s.avgSlots).foldl (fun t k =>
    let a := t.f F.colAvgBase + avgSlot * k + 2
    t.wrNat 1 a 1 (t.rdNat 1 a 1 % 2)) s
  t.setF F.colCountersBcstep 0

/-- B, and t of the step in progress (R205). -/
def State.bc (s : State) : Nat := s.f F.colCountersBcstep
def State.bcNow (s : State) : Nat := s.bc + 1

/-! ### The scale history (R200) -/

/-- The word of a bucket in the scale history. -/
def State.history (s : State) (b : Nat) : Nat := s.rdNat 1 (s.f F.colHistBase + 4 * b) 4

/-- P_b, if the entry is VALID. -/
def State.peakOf (s : State) (b : Nat) : Option Nat :=
  if bitOf (s.history b) 31 then some (s.history b % 256) else none

/-- An entry set. -/
def State.putHistory (s : State) (b pk : Nat) : State := s.wrNat 1 (s.f F.colHistBase + 4 * b) 4 (2 ^ 31 + pk % 256)

/-- The exponent of a peak (R200, R201). -/
def ebOf (p : Nat) : Nat := if p = 0 then 0x7f else min (p + 2) 0xfe

/-- The peak exponent of a value (R199). -/
def peakExp (v : Val) : Nat :=
  if v.nonFinite || v.rat = 0 then 0 else (max 1 (ilog2 (qabs v.rat) + 128)).toNat

/-- The peak of a set of values. -/
def peakOfAll (vs : List Val) : Nat := vs.foldl (fun a v => max a (peakExp v)) 0

/-! ### The digest of an epoch (R235, R236) -/

/-- The four lanes over `P` parameters given by `w`. -/
def digestLanes (P : Nat) (w : Nat → Nat) : List Nat :=
  [0, 1, 2, 3].map (fun j => (List.range P).foldl (fun a i =>
    (a + mix ((j * 2 ^ 62) ^^^ (i * 2 ^ 16) ^^^ w i)) % 2 ^ 64) 0)

/-- The digest of a step's epoch: it is the committed one, or the other once a later step has committed. -/
def State.digestOf (s : State) (step : Nat) : List Nat := digestLanes s.load.params (s.param (s.c != step))

/-- The four lanes shown in COL.DIGEST0 to COL.DIGEST3. -/
def State.showDigest (s : State) (l : List Nat) : State :=
  (((s.setF F.colDigest0 (nth l 0)).setF F.colDigest1 (nth l 1)).setF F.colDigest2 (nth l 2)).setF F.colDigest3 (nth l 3)

/-- An uncorrectable error in the epoch that a digest reads (R234). -/
def State.digestPoisoned (s : State) : Bool :=
  !s.poison.isEmpty && s.paramsPoisoned (s.f F.colEpochSel) 0 s.load.params

/-- The rank's own digest of every comparison in progress that lacks it (R236). -/
def State.computeDigests (s : State) : State :=
  let todo := s.pass.digs.filter (fun d => d.own.isNone)
  let t := { s with pass := { s.pass with digs := s.pass.digs.map (fun d =>
    if d.own.isNone then { d with own := some (s.digestOf d.step) } else d) } }
  let t := todo.foldl (fun t d => t.showDigest (s.digestOf d.step)) t
  if !todo.isEmpty && s.digestPoisoned then t.stateError unitNet else t

/-! ### Shadow writes -/

/-- A parameter written to the shadow epoch. -/
def State.putShadow (s : State) (p v : Nat) : State :=
  let put (m : List (Nat × Nat)) : List (Nat × Nat) := if v = 0 then mdel p m else mput p v m
  { s with seesaw := if s.fb F.colEpochSel then { s.seesaw with epoch0 := put s.seesaw.epoch0 }
      else { s.seesaw with epoch1 := put s.seesaw.epoch1 } }

/-- Parameters from offset `p` on written to the shadow epoch. Digests of the epoch they overwrite are
done first (R236). -/
def State.putShadows (s : State) (p : Nat) (vs : List Nat) : State :=
  (vs.zipIdx).foldl (fun t x => t.putShadow (p + x.2) x.1) s.computeDigests

/-! ### Buckets of the step -/

/-- A bucket of the step that has not ended. -/
def State.bucket (s : State) (b : Nat) : Option Bucket := s.col.buckets.find? (fun x => x.b == b)

/-- A bucket replaced. -/
def State.putBucket (s : State) (x : Bucket) : State :=
  { s with col := { s.col with buckets := s.col.buckets.map (fun y => if y.b = x.b then x else y) } }

/-- A bucket gone. -/
def State.dropBucket (s : State) (b : Nat) : State :=
  { s with col := { s.col with buckets := s.col.buckets.filter (fun y => y.b != b) } }

/-- Groups of 144 elements, and the elements of one (R196). -/
def Bucket.groups (x : Bucket) : Nat := (x.count + 143) / 144
def Bucket.groupLen (x : Bucket) (g : Nat) : Nat := min 144 (x.count - 144 * g)

/-- The first seesaw offset of a bucket's parameters. -/
def State.bucketBase (s : State) (x : Bucket) : Nat := (s.upd x.layer).base + x.first

/-- The ranges of two buckets share a parameter (R191). -/
def State.sharesParam (s : State) (l f c : Nat) (y : Nat × Nat × Nat × Nat) : Bool :=
  let a := (s.upd l).base + f
  let b := (s.upd y.2.1).base + y.2.2.1
  decide (a < b + y.2.2.2) && decide (b < a + c)

/-- Bucket index, layer, FIRST and COUNT of a COL.BUCKET (R295). -/
def Rec.bucketOf (r : Rec) : Nat × Nat × Nat × Nat :=
  (bitsOf r.imm1 0 16, bitsOf r.imm1 16 12, bitsOf r.imm2 0 32, bitsOf r.imm2 32 23)

/-- The buckets admitted in the step before instruction `i`: those that joined it, and those whose COL.BUCKET
still waits to start (R191, R296). -/
def State.bucketsBefore (s : State) (i : Inst) : List (Nat × Nat × Nat × Nat) :=
  s.col.admitted ++ (s.sch.inflight.filter (fun j =>
    j.code.op == 0x7000 && j.step == i.step && decide (j.id < i.id) && j.phase == .waiting)).map
      (fun j => j.code.bucketOf)

/-- The checks of a COL.BUCKET at start (R191, R296). -/
def State.bucketStatus (s : State) (i : Inst) : Nat :=
  let (b, l, f, c) := i.code.bucketOf
  let d := i.d 0
  let before := s.bucketsBefore i
  let noUpd := (List.range 4).all (fun u => s.units.quarantined.contains (.update, u))
  let noAdd := (List.range 12).all (fun u => s.units.quarantined.contains (.adder, u))
  firstFail
    [(i.step.isSome, stNotPermitted), (decide (1 ≤ c) && decide (c ≤ 4194304), stImmInvalid),
     (d.format == 0, stOperandFormat), (decide (d.loc ≤ 1) && d.isCompact, stDescInvalid),
     (d.count == c, stShapeMismatch),
     (decide (b < s.load.buckets) && (s.upd l).valid && !before.any (fun y => y.1 == b) &&
       (match mget b s.col.map with
        | none => true
        | some y => y == (l, f, c)) && !before.any (s.sharesParam l f c), stBucketInvalid),
     (decide (f + c ≤ (s.upd l).count), stIndexRange),
     (!noUpd && !noAdd, stHwUnavailable)]

/-- COL.BUCKET (R191, R296): it joins the buckets of the step and stays in flight until its END. -/
def execColBucket (id : Nat) (s : State) : Host.Outcome State Fault Refusal :=
  s.start 0x7000 id (fun i =>
    let st := s.bucketStatus i
    if st ≠ stOk then s.fails i st
    else
      let y := i.code.bucketOf
      let x : Bucket := { b := y.1, id := id, layer := y.2.1, first := y.2.2.1, count := y.2.2.2, grad := i.d 0 }
      ({ s with col := { s.col with buckets := s.col.buckets ++ [x], admitted := s.col.admitted ++ [y] } }).putInst
        { i with phase := .running })

/-- BUCKET_RELEASE (R23): every instruction admitted before it that writes its gradient has completed. -/
def execBucketRelease (id : Nat) (s : State) : Host.Outcome State Fault Refusal :=
  match s.inst id with
  | none => .next s
  | some i =>
    if i.code.op ≠ 0x7000 ∨ i.phase ≠ .running ∨ i.released then .next s
    else if s.sch.inflight.any (fun j => decide (j.id < id) && j.access.any (fun x =>
        x.1 && (i.d 0).stor.any (fun z => x.2.overlaps s.masters z))) then .next s
    else .next (s.putInst { i with released := true })

/-! ### Probes (R201) -/

/-- Attempt 0 begins after a probe that found peak `p` (R201). -/
def Bucket.begin (x : Bucket) (p : Nat) : Bucket := { x with probing := false, eb := ebOf p }

/-- A header for blocks of a bucket. -/
def State.blockOf (s : State) (x : Bucket) (kind : Nat) : RedBlock :=
  { kind := kind, eb := x.eb, attempt := x.attempt, bucket := x.b, step := s.stepNow }

/-- The probe of a bucket goes on: with the PKs of all children the rank answers its parent, or the owner
its children (R201). -/
def State.probeOn (s : State) (b : Nat) : State :=
  match s.bucket b with
  | none => s
  | some x =>
    let kids := s.childrenIn b
    if !x.entered || !x.probing || x.probeSent || !kids.all (fun k => (mget k x.childPk).isSome) then s
    else
      let pk := x.childPk.foldl (fun a y => max a y.2) (peakOfAll (s.vals x.grad 0))
      match s.parentIn b with
      | some r => (s.putBucket { x with probeSent := true }).sendRed r { s.blockOf x 4 with pk := pk }
      | none => (s.putBucket ({ x with probeSent := true }.begin pk)).sendReds kids { s.blockOf x 5 with pk := pk }

/-! ### Arriving blocks -/

/-- How an arriving block fares (R198). -/
inductive Arrival where
  | drop | counter | hold | mismatch | good (x : Bucket)

/-- A block disagrees with an attempt and the element count of its bucket (R198). A RETRY carries the new exponent, and a
probe none. -/
def redDisagrees (k : RedBlock) (attempt eb count : Nat) : Bool :=
  !(k.kind == 4 || k.kind == 5 || k.kind == 7) &&
  (k.attempt != attempt || k.eb != eb || decide (count < k.first + k.body.length) ||
    (k.last && k.first + k.body.length != count))

/-- The checks on a block of the bucket it names, in the order of R198. A block of a bucket that has ended has no more use
when it passes them. -/
def State.arrival (s : State) (k : RedBlock) : Arrival :=
  if k.step ≠ s.stepNow then .counter
  else match s.col.ends.find? (fun e => e.b == k.bucket) with
    | some e => if e.attempt ≤ k.attempt && redDisagrees k e.attempt e.eb e.count then .mismatch else .drop
    | none => match s.bucket k.bucket with
      | none => .hold
      | some x =>
        if !x.entered then .hold
        else if k.attempt < x.attempt then .drop
        else if k.kind = 7 ∧ k.attempt = x.attempt then .drop
        else if (x.probing ∧ k.kind ≠ 4 ∧ k.kind ≠ 5 ∧ k.kind ≠ 7) ∨ redDisagrees k x.attempt x.eb x.count then .mismatch
        else .good x

/-- DETAIL of a failed check of the network interface: its unit number, with no event (R219). -/
def netDetail : Nat := unitNet * 65536

/-- The partner's fence is still awaited on the port towards a rank (R226, R330). -/
def State.fencedFrom (s : State) (r : Nat) : Bool :=
  let id := s.rankFabric (s.seat r)
  allPorts.any (fun p => (s.port p).fencing && (s.portTo id == some p || s.routeTo id == some p))

/-- A block arrives from a rank: `act` takes one that passes the checks of R198. -/
def State.arrive (s : State) (from_ : Nat) (k : RedBlock) (act : State → Bucket → State) : State :=
  if s.fencedFrom from_ || !s.load.loaded then s
  else match s.arrival k with
    | .drop => s
    | .counter => if s.pass.launched then s.failCheck rsnCounter netDetail else s
    | .hold => { s with col := { s.col with early := s.col.early ++ [(from_, k)] } }
    | .mismatch => s.failCheck rsnBucket netDetail
    | .good x => act s x

/-- A block arrives from the parent. -/
def State.arriveDown (s : State) (k : RedBlock) (act : State → Bucket → State) : State :=
  s.arrive ((s.parentIn k.bucket).getD s.me) k act

/-! ### Re-reduction (R202) -/

/-- A bucket restarted from group 0. -/
def Bucket.restart (x : Bucket) (attempt eb : Nat) : Bucket :=
  { x with attempt := attempt, eb := eb, blocks := [], sent := 0, done := 0, nf := false, ov := false,
           pk := 0, changed := false, updNf := false, sat := 0, nfc := 0, got := 0, sumSq := 0 }

/-- A RETRY made or received: the bucket restarts, the children are told, and it is counted. -/
def State.retry (s : State) (x : Bucket) (attempt eb : Nat) : State :=
  let y := x.restart attempt eb
  let s := (s.putBucket y).sendReds (s.childrenIn x.b) (s.blockOf y 7)
  let s := { s with
    col := { s.col with retries := s.col.retries + 1 },
    pup := { s.pup with acc := { s.pup.acc with rered := true } } }
  (s.addF F.colRetries 1).ev 0x5002 unitNet x.b (attempt * 256 + eb)

/-- The owner can raise the exponent once more. -/
def Bucket.mayRetry (x : Bucket) : Bool := x.eb != 0xfe && decide (x.attempt < 15)

/-- The owner discards the attempt and raises the exponent by four. -/
def State.reReduce (s : State) (x : Bucket) : State := s.retry x (x.attempt + 1) (min (x.eb + 4) 0xfe)

/-- A block from a child is held for its group; at the owner OV in it starts a re-reduction. -/
def State.takeUp (from_ : Nat) (k : RedBlock) (s : State) (x : Bucket) : State :=
  if !(s.childrenIn x.b).contains from_ then s
  else if k.kind = 4 then (s.putBucket { x with childPk := mput from_ k.pk x.childPk }).probeOn x.b
  else if k.ov && s.owns x.b && x.mayRetry then s.reReduce x
  else s.putBucket { x with blocks := x.blocks ++ [(from_, k)] }

/-- UP26 (R197, R198). -/
def execUp26 (from_ : Nat) (b : RedBlock) (s : State) : Host.Outcome State Fault Refusal :=
  .next (if b.kind = 1 then s.arrive from_ b (State.takeUp from_ b) else s)

/-- UP40 (R197, R198, R202). -/
def execUp40 (from_ : Nat) (b : RedBlock) (s : State) : Host.Outcome State Fault Refusal :=
  .next (if b.kind = 2 then s.arrive from_ b (State.takeUp from_ b) else s)

/-- PROBE_UP (R201). -/
def execProbeUp (from_ : Nat) (b : RedBlock) (s : State) : Host.Outcome State Fault Refusal :=
  .next (if b.kind = 4 then s.arrive from_ b (State.takeUp from_ b) else s)

/-- The peak of a bucket comes down: the rank forwards it and begins attempt 0. -/
def State.takeProbeDown (k : RedBlock) (s : State) (x : Bucket) : State :=
  if !x.probing || s.owns x.b then s
  else (s.sendReds (s.childrenIn x.b) k).putBucket (x.begin k.pk)

/-- PROBE_DOWN (R201). -/
def execProbeDown (b : RedBlock) (s : State) : Host.Outcome State Fault Refusal :=
  .next (if b.kind = 5 then s.arriveDown b (State.takeProbeDown b) else s)

/-- RETRY arrives (R202). -/
def State.takeRetry (k : RedBlock) (s : State) (x : Bucket) : State :=
  if s.owns x.b then s else s.retry x k.attempt k.eb

/-- RETRY (R202). -/
def execRetry (b : RedBlock) (s : State) : Host.Outcome State Fault Refusal :=
  .next (if b.kind = 7 then s.arriveDown b (State.takeRetry b) else s)

/-! ### Sums (R197) -/

/-- The blocks of a child that carry elements of group `g`. -/
def Bucket.childBlocks (x : Bucket) (g child : Nat) : List RedBlock :=
  (x.blocks.filter (fun y => y.1 == child && decide (y.2.first < 144 * g + x.groupLen g) &&
    decide (144 * g < y.2.first + y.2.body.length))).map (fun y => y.2)

/-- Element `k` among blocks. -/
def elemOf (bs : List RedBlock) (k : Nat) : Option Int :=
  bs.findSome? (fun y => if y.first ≤ k then y.body[k - y.first]? else none)

/-- Every element of group `g` has come from every child. -/
def State.groupHere (s : State) (x : Bucket) (g : Nat) : Bool :=
  (s.childrenIn x.b).all (fun c =>
    let bs := x.childBlocks g c
    (List.range (x.groupLen g)).all (fun k => (elemOf bs (144 * g + k)).isSome))

/-- What a group gives: sums with this rank's contributions, PK, NF, OV and the rank's own counts. -/
structure GroupSum where
  sums : List Int
  pk   : Nat
  nf   : Bool
  ov   : Bool
  sat  : Nat
  nfc  : Nat

/-- The sums of a group (R43, R44, R197). -/
def State.groupSum (s : State) (x : Bucket) (g : Nat) : GroupSum :=
  let kids := (s.childrenIn x.b).map (fun c => x.childBlocks g c)
  let vs := (List.range (x.groupLen g)).map (fun k => s.elemVal x.grad 0 (144 * g + k))
  let own := vs.map (toI26 .rne x.eb)
  let bs := kids.flatMap id
  { sums := own.zipIdx.map (fun c => c.1.val + (kids.map (fun l => (elemOf l (144 * g + c.2)).getD 0)).sum)
    pk := bs.foldl (fun a y => max a y.pk) (peakOfAll vs)
    nf := own.any (fun c => decide (0 < c.nf)) || bs.any (fun y => y.nf)
    ov := own.any (fun c => decide (0 < c.sat)) || bs.any (fun y => y.ov)
    sat := (own.map (fun c => c.sat)).sum
    nfc := (own.map (fun c => c.nf)).sum }

/-- The elements of a body cut into blocks of at most `m` (R196). -/
def cutBody (m : Nat) : Nat → Nat → List Int → List (Nat × List Int)
  | 0, _, _ => []
  | fuel + 1, first, l =>
    if l.isEmpty then [] else (first, l.take m) :: cutBody m fuel (first + m) (l.drop m)

/-- GROUP_SEND: the next group of bucket `b` leaves, or at the owner reaches the update engine (R197, R202). -/
def execGroupSend (b : Nat) (s : State) : Host.Outcome State Fault Refusal :=
  match s.bucket b with
  | none => .next s
  | some x =>
    if !x.entered || x.probing || decide (x.groups ≤ x.sent) || !s.groupHere x x.sent then .next s
    else
      let g := s.groupSum x x.sent
      let y := { x with
        sent := x.sent + 1, nf := x.nf || g.nf, ov := x.ov || g.ov, pk := max x.pk g.pk,
        sat := x.sat + g.sat, nfc := x.nfc + g.nfc }
      match s.parentIn b with
      | none => .next (if g.ov && x.mayRetry then s.reReduce x else s.putBucket y)
      | some r =>
        let leaf := (s.childrenIn b).isEmpty
        let cut := cutBody (if leaf then 72 else 48) 3 (144 * x.sent) g.sums
        .next (cut.foldl (fun t c => t.sendRed r { s.blockOf x (if leaf then 1 else 2) with
          pk := g.pk, nf := g.nf, ov := g.ov, first := c.1, body := c.2,
          last := decide (c.1 + c.2.length = x.count) }) (s.putBucket y))

/-! ### The update engine (R204) -/

/-- One rounding of the update engine. -/
def rnd (v : Val) : Counted Val :=
  let c := floatEnc 23 .rne v
  { val := f32Val c.val, sat := c.sat }

/-- A value times a power of two. -/
def Val.scaled (v : Val) (e : Int) : Val := v.mul (.fin (pow2 e))

/-- What the engine gives for one element: the new master and average, the reduced gradient without its
scale, and the saturations. -/
structure Updated where
  w   : Nat
  m   : Nat
  g   : Val
  sat : Nat
  /-- The parameter is not finite (R39, R52). -/
  nf  : Bool
  deriving DecidableEq, Repr

/-- The step direction of R204: d, the new average, and the saturations. Where 1 − β1 ^ t is zero the spec
states no quotient: the value is free. -/
def direction (u : UpdEntry) (t : Nat) (g mo : Val) : Val × Val × Nat :=
  let one : Val := .fin 1
  let blend (beta : Val) : Val × Nat :=
    let a := rnd (beta.mul mo)
    let c := rnd (one.sub beta)
    let d := rnd (c.val.mul g)
    let e := rnd (a.val.add d.val)
    (e.val, a.sat + c.sat + d.sat + e.sat)
  if u.rule = 0 then
    let d := rnd (g.scaled (-u.k))
    (d.val, .fin 0, d.sat)
  else if u.rule = 1 then
    let mn := blend u.beta1
    let bc := rnd (one.sub (.fin (u.beta1.rat ^ t)))
    let q := rnd (mn.1.scaled (-u.k))
    if bc.val.rat = 0 then
      (f32Val (Config.unstatedFunc 0x100 (floatEnc 23 .rne q.val).val % 2 ^ 32), mn.1, mn.2 + bc.sat + q.sat)
    else
      let d := rnd (q.val.mul (.fin (1 / bc.val.rat)))
      (d.val, mn.1, mn.2 + bc.sat + q.sat + d.sat)
  else
    let c := blend u.beta1
    let mn := blend u.beta2
    ((if (Val.fin 0).lt c.1 then .fin 1 else if c.1.lt (.fin 0) then .fin (-1) else .fin 0),
      mn.1, c.2 + mn.2)

/-- One element's update (R204): sum `S` in exponent `eb`, master `w` and average `m` as BF16 patterns, the
average's scale `ktag`, t, and the generator's bits. -/
def updateElem (u : UpdEntry) (eb : Nat) (S : Int) (w m : Nat) (ktag : Int) (t bits : Nat) : Updated :=
  let g := rnd ((Val.fin S).scaled ((eb : Int) - 152 + u.k) |>.mul u.mu)
  let mo := rnd ((bf16Val m).scaled (u.k - ktag))
  let d := direction u t g.val mo.val
  let wv := bf16Val w
  let lw := rnd (u.lambda.mul wv)
  let elw := rnd (u.eta.mul lw.val)
  let wd := rnd (wv.sub elw.val)
  let ed := rnd (u.eta.mul d.1)
  let wn := rnd (wd.val.sub ed.val)
  let wNew := srRound (floatEnc 23 .rne wn.val).val bits
  let mNew := floatEnc 7 .rne d.2.1
  { w := wNew.val, m := mNew.val, g := g.val.scaled (-u.k)
    sat := g.sat + mo.sat + d.2.2 + lw.sat + elw.sat + wd.sat + ed.sat + wn.sat + wNew.sat + mNew.sat
    nf := (bf16Val wNew.val).nonFinite }

/-- The square root of a number that is not negative, rounded once to F32. -/
def sqrtF32 (q : Rat) : Nat :=
  if q ≤ 0 then 0
  else
    let e : Int := max (-126) (Int.fdiv (ilog2 q) 2)
    let z := q * pow2 (2 * (23 - e))
    let lo : Nat := Nat.sqrt z.floor.toNat
    let half : Rat := ((lo : Rat) + 1 / 2) * ((lo : Rat) + 1 / 2)
    let part : Rat := if z = (lo : Rat) * lo then 0 else if z < half then 1 / 4 else if z = half then 1 / 2 else 3 / 4
    (floatEnc 23 .rne (.fin (((lo : Rat) + part) * pow2 (e - 23)))).val

/-- The RMS of `n` numbers whose squares sum to `q` (R135). -/
def rmsF32 (q : Rat) (n : Nat) : Nat := if n = 0 then 0 else sqrtF32 (q / n)

/-! ### Parameters on the way down (R207, R210, R211) -/

/-- The result field of a COL.BUCKET (R258). -/
def bucketResult (x : Bucket) (pk : Nat) (nf ov changed : Bool) : Nat :=
  pk % 256 + x.eb * 256 + x.attempt * 65536 + natOfBool nf * 2 ^ 20 + natOfBool ov * 2 ^ 21 + natOfBool changed * 2 ^ 22

/-- A bucket ends on this rank: END goes to the children, its parameters count as written and mark the rows of the weights
whose levels they change, and the instruction completes (R108, R211, R215). -/
def State.endBucket (s : State) (x : Bucket) (e : RedBlock) (norm : Norm) : State :=
  let base := s.bucketBase x
  let s := s.sendReds (s.childrenIn x.b) e
  let d : Ended := {
    b := x.b, layer := x.layer, first := x.first, count := x.count, eb := x.eb, attempt := x.attempt, pk := e.pk, nf := e.nf, ov := e.ov,
    changed := e.changed, norm := norm,
    avg := s.owns x.b && (s.upd x.layer).rule != 0 }
  let s := { s with seesaw := { s.seesaw with written := s.seesaw.written ++ [(base, base + x.count)] } }
  let s := { s with col := { s.col with ends := s.col.ends ++ [d] } }
  let s := (List.range x.count).foldl (fun t k => t.markDirty (base + k)) s
  let s := s.modInst x.id (fun i => i.finish x.sat x.nfc (bucketResult x e.pk e.nf e.ov e.changed))
  s.dropBucket x.b

/-- DOWN blocks of whole 120 elements that the groups done allow, sent from `x.got` on; the last may be
shorter. -/
def State.sendDown (s : State) (x : Bucket) : Nat → State
  | 0 => s
  | fuel + 1 =>
    let hi := min (x.got + 120) x.count
    if x.got < x.count ∧ hi ≤ 144 * x.done then
      let base := s.bucketBase x
      let body := (List.range (hi - x.got)).map (fun k => ((s.param true (base + x.got + k) : Nat) : Int))
      let y := { x with got := hi }
      ((s.sendReds (s.childrenIn x.b) { s.blockOf x 3 with
        first := x.got, body := body, last := decide (hi = x.count) }).putBucket y).sendDown y fuel
    else s

/-- The update of `n` parameters of bucket `x` from its element `k` on would read an uncorrectable error: in
the update table, the committed epoch or the average store (R234). -/
def State.updatePoisoned (s : State) (x : Bucket) (k n : Nat) : Bool :=
  !s.poison.isEmpty && (s.poisonedRange 1 (s.updAddr x.layer) 64 ||
    s.paramsPoisoned (s.f F.colEpochSel) (s.bucketBase x + k) (s.bucketBase x + k + n) ||
    ((s.upd x.layer).rule != 0 && (s.poisonedRange 1 (s.slotAddr x.b) 64 ||
      s.poisonedRange 1 (s.slotAddr x.b + 64 + avgCopy * s.slotSel x.b + 2 * k) (2 * n))))

/-- UPDATE_GROUP: the owner's engine updates the next group of bucket `b` and sends its parameters down
(R204, R207, R210, R211). -/
def execUpdateGroup (b : Nat) (s : State) : Host.Outcome State Fault Refusal :=
  match s.bucket b with
  | none => .next s
  | some x =>
    if !s.owns b || decide (x.sent ≤ x.done) then .next s
    else if s.updatePoisoned x (144 * x.done) (x.groupLen x.done) then .next (s.stateError unitNet)
    else
      let u := s.upd x.layer
      let g := s.groupSum x x.done
      let base := s.bucketBase x + 144 * x.done
      let tag := s.slotTag b
      let outs := g.sums.zipIdx.map (fun c =>
        let k := 144 * x.done + c.2
        updateElem u x.eb c.1 (s.param false (base + c.2)) (if u.rule = 0 then 0 else s.average b k)
          (if s.slotValid b then tag else u.k) s.bcNow
          (srBits s.pass.seed s.stepNow (x.first + k) u.handle))
      let changed := outs.zipIdx.any (fun o => o.1.w != s.param false (base + o.2))
      let t := s.putShadows base (outs.map (fun o => o.w))
      let t := if u.rule = 0 then t
        else
          let t := (outs.zipIdx).foldl (fun t o => t.putAverage b (144 * x.done + o.2) o.1.m) t
          let a := t.slotAddr b
          ((t.wrNat 1 a 2 b).wrNat 1 (a + 4) 1 (unsignedOf 8 u.k)).wrNat 1 (a + 8) 4 x.count
      let t := t.addF F.colUpdSat ((outs.map (fun o => o.sat)).sum)
      let y := { x with
        done := x.done + 1, changed := x.changed || changed, updNf := x.updNf || outs.any (fun o => o.nf),
        sumSq := x.sumSq + (outs.map (fun o => o.g.rat * o.g.rat)).sum }
      let t := (t.putBucket y).sendDown y 3
      if y.done < y.groups then .next t
      else
        let norm : Norm := if y.nf then .nonFinite else .f32 (rmsF32 y.sumSq y.count)
        let e : RedBlock := { t.blockOf y 6 with pk := y.pk, nf := y.nf || y.updNf, ov := y.ov, changed := y.changed }
        .next (t.endBucket y e norm)

/-- Parameters arrive: they are written to the shadow epoch and forwarded (R210). -/
def State.takeDown (k : RedBlock) (s : State) (x : Bucket) : State :=
  if s.owns x.b || k.first ≠ x.got then s
  else
    let t := (s.sendReds (s.childrenIn x.b) k).putShadows (s.bucketBase x + k.first)
      (k.body.map (fun z => unsignedOf 16 z))
    t.putBucket { x with got := k.first + k.body.length }

/-- DOWN (R198, R210). -/
def execDown (b : RedBlock) (s : State) : Host.Outcome State Fault Refusal :=
  .next (if b.kind = 3 then s.arriveDown b (State.takeDown b) else s)

/-- END arrives: a bucket whose last element came before the rank's count is a mismatch (R198). -/
def State.takeEnd (k : RedBlock) (s : State) (x : Bucket) : State :=
  if s.owns x.b then s
  else if x.got ≠ x.count then s.failCheck rsnBucket netDetail
  else s.endBucket x k .none

/-- END (R211, R215). -/
def execEnd (b : RedBlock) (s : State) : Host.Outcome State Fault Refusal :=
  .next (if b.kind = 6 then s.arriveDown b (State.takeEnd b) else s)

/-! ### Entry (R194) -/

/-- Buckets in the interface. -/
def State.inInterface (s : State) : Nat := s.col.buckets.countP (fun x => x.entered)

/-- A block that was held goes to its bucket (R198). -/
def State.takeEarly (s : State) (from_ : Nat) (k : RedBlock) : State :=
  s.arrive from_ k (if k.kind = 1 ∨ k.kind = 2 ∨ k.kind = 4 then State.takeUp from_ k
    else if k.kind = 3 then State.takeDown k
    else if k.kind = 5 then State.takeProbeDown k
    else if k.kind = 6 then State.takeEnd k else State.takeRetry k)

/-- BUCKET_ENTRY (R194, R198, R200, R201, R226): the next bucket in index order enters the interface, and the blocks held for
it go on. -/
def execBucketEntry (s : State) : Host.Outcome State Fault Refusal :=
  match s.bucket s.col.next with
  | none => .next s
  | some x =>
    let released := match s.inst x.id with
      | some i => i.released
      | none => false
    if x.entered || !released || decide (64 ≤ s.inInterface) || decide (s.aon < s.col.settleAt) then .next s
    else
      let s := if s.poisonedRange 1 (s.f F.colHistBase + 4 * x.b) 4 then s.stateError unitNet else s
      let probe := s.col.probeAll || (match s.peakOf x.b with
        | some p => p == 0
        | none => true)
      let y : Bucket := { x with
        entered := true, probing := probe, eb := if probe then 0 else ebOf ((s.peakOf x.b).getD 0) }
      let s := (s.putBucket y)
      let s := { s with col := { s.col with next := s.col.next + 1 } }
      let s := if probe then
          (({ s with col := { s.col with probes := s.col.probes + 1 },
                     pup := { s.pup with acc := { s.pup.acc with probed := true } } }).addF
            F.colProbes 1).probeOn x.b
        else s
      let mine := s.col.early.filter (fun e => e.2.bucket == x.b)
      let s := ({ s with col := { s.col with early := s.col.early.filter (fun e => e.2.bucket != x.b) } }).freeHeld
        (fun b => b == x.b)
      .next (mine.foldl (fun t e => t.takeEarly e.1 e.2) s)

/-! ### COL.UPDCFG and COL.AVGRESET (R297) -/

/-- An entry image that R297 accepts. -/
def updImageOk (b : List Byte) : Bool :=
  let num (o n : Nat) : Nat := leNat ((b.drop o).take n)
  let k := signedOf 8 (num 4 1)
  decide (num 0 1 ≤ 2) && bitsOf (num 1 1) 3 5 == 0 && num 5 1 == 0 && bitsOf (num 8 8) 40 24 == 0 &&
  num 40 24 == 0 && decide (-64 ≤ k) && decide (k ≤ 64)

/-- Entry images and the average reset that wait take effect (R203, R205, R297). -/
def State.applyUpdates (s : State) : State :=
  let t := s.col.updcfg.foldl (fun t x => t.wrBytes 1 (t.updAddr x.1) x.2) s
  let t := if s.col.avgreset then t.resetAverages else t
  { t with col := { t.col with updcfg := [], avgreset := false } }

/-- The same now when no step is in progress. -/
def State.updatesIfIdle (s : State) : State := if s.pass.launched then s else s.applyUpdates

/-- COL.UPDCFG (R203, R297). -/
def execColUpdcfg (id : Nat) (s : State) : Host.Outcome State Fault Refusal :=
  s.start 0x7002 id (fun i =>
    let a := bitsOf i.code.imm1 0 48
    let b := s.rdBytes 1 a 64
    if a % 64 ≠ 0 || decide (hbmTop < a + 64) || !updImageOk b then s.fails i stImmInvalid
    else
      let t := { s with col := { s.col with updcfg := s.col.updcfg ++ [(bitsOf i.code.imm2 0 12, b)] } }
      t.updatesIfIdle.finishes i 0 0 0)

/-- COL.AVGRESET (R205, R209, R297). -/
def execColAvgreset (id : Nat) (s : State) : Host.Outcome State Fault Refusal :=
  s.start 0x7003 id (fun i =>
    ({ s with col := { s.col with avgreset := true } }).updatesIfIdle.finishes i 0 0 0)

end Sys2Proof.Machine
end

