-- ==== Sys2Proof/Machine/Ckpt.lean ====
section
/-! DEFINITION. The epoch pointer (R229), digest comparisons (R235, R236), checkpoints (R237, R238,
R309) and what a rollback restores (R241). -/

namespace Sys2Proof.Machine

/-! ### The epoch pointer (R229) -/

/-- SEQ, STEP and SEL of a copy whose CRC checks. -/
def State.pointerCopy (s : State) (k : Nat) : Option (Nat × Nat × Nat) :=
  let b := s.rdBytes 1 (s.f F.colEpochPtr + 32 * k) 32
  let num (o n : Nat) : Nat := leNat ((b.drop o).take n)
  if num 28 4 = crc32c (b.take 28) then some (num 0 8, num 8 4, num 12 1 % 2) else none

/-- What a reader takes: STEP and SEL. -/
def State.readPointer (s : State) : Option (Nat × Nat) :=
  match s.pointerCopy 0, s.pointerCopy 1 with
  | some a, some b => if a.1 < b.1 then some b.2 else some a.2
  | some a, none => some a.2
  | none, some b => some b.2
  | none, none => none

/-- The copy to write, and its SEQ. -/
def State.pointerNext (s : State) : Nat × Nat :=
  match s.pointerCopy 0, s.pointerCopy 1 with
  | none, none => (0, 0)
  | none, some b => (0, b.1 + 1)
  | some a, none => (1, a.1 + 1)
  | some a, some b => if b.1 < a.1 then (1, a.1 + 1) else (0, b.1 + 1)

/-- COL.EPOCH shows a step and an epoch; EPOCH.SEL is the committed epoch (R229, R247). -/
def State.showEpoch (s : State) (step sel : Nat) : State :=
  ((s.setF F.colEpochValid 1).setF F.colEpochSel sel).setF F.colEpochStep step

/-- One copy of the pointer written with STEP and SEL. -/
def State.writePointer (s : State) (step sel : Nat) : State :=
  let n := s.pointerNext
  let b := leBytes 8 (n.2 % 2 ^ 64) ++ leBytes 4 step ++ leBytes 4 sel ++ leBytes 12 0
  (s.wrBytes 1 (s.f F.colEpochPtr + 32 * n.1) (b ++ leBytes 4 (crc32c b))).showEpoch step sel

/-! ### Sections (R237) -/

/-- The offset of section `k`, counted from 0; section 6 stands for the end. -/
def State.sectionAt (s : State) (k : Nat) : Nat :=
  nth (sectionOffsets (sectionBytes s.load.params s.avgSlots s.load.buckets) 4096) k

/-- The same in the copy that a buddy keeps, whose EPOCH has LENGTH 0. -/
def State.buddyAt (s : State) (k : Nat) : Nat :=
  nth (sectionOffsets (0 :: (sectionBytes s.load.params s.avgSlots s.load.buckets).drop 1) 4096) k

/-- The HBM address of an area: 0 and 1 are local, 2 and 3 the buddy's. -/
def State.areaAddr (s : State) (k : Nat) : Nat :=
  s.f F.colCkptBase + k * ckptBytes s.load.params s.avgSlots s.load.buckets

/-- The bucket of the rank's slot `k`. -/
def State.slotBucket (s : State) (k : Nat) : Nat := k * s.n + s.me

/-- The header and committed copy of slot `k` as AVERAGES carries them: without VALID it reads as zero. -/
def State.avgSection (s : State) (k : Nat) : List Byte :=
  let b := s.slotBucket k
  s.rdBytes 1 (s.slotAddr b) 64 ++
    (if s.slotValid b then s.rdBytes 1 (s.slotAddr b + 64 + avgCopy * s.slotSel b) avgCopy
     else List.replicate avgCopy 0)

/-- Eight bytes of section MONITOR: h and a count. -/
def monWord (h n : Nat) : List Byte := leBytes 4 h ++ leBytes 4 n

/-- Eight bytes of section ARRAYS: RANGE, AUTO and FALLBACK where ARR.LINFO has them, FWD_ACTION where
ARR.LMON has it. -/
def Layer.arraysWord (l : Layer) : List Byte :=
  leBytes 8 (l.range * 2 ^ 60 + natOfBool l.auto * 2 ^ 59 + natOfBool l.fallback * 2 ^ 58 + l.action % 4)

/-- The sections of the rank as they stand, in order; the epoch is the committed one. -/
def State.sections (s : State) : List (List Byte) :=
  let handles := List.range 4096
  let slots := List.range s.avgSlots
  [ (List.range s.load.params).flatMap (fun p => leBytes 2 (s.param false p)),
    slots.flatMap s.avgSection,
    s.rdBytes 1 (s.f F.colHistBase) (4 * s.load.buckets),
    s.rdBytes 1 (s.f F.colUpdTable) 262144,
    handles.flatMap (fun h => match s.layer h with
      | none => monWord 0 0
      | some l => monWord l.hist l.steps) ++
    slots.flatMap (fun k => match mget (s.slotBucket k) s.col.mon with
      | none => monWord 0 0
      | some x => monWord x.1 x.2),
    handles.flatMap (fun h => match s.layer h with
      | none => leBytes 8 0
      | some l => l.arraysWord) ]

/-- The header of a checkpoint of `step`; `buddy` leaves EPOCH out. A run seed that SVC.SEED has set for the next launch is
the one it carries (R299). -/
def State.ckptHeader (s : State) (step : Nat) (secs : List (List Byte)) (buddy : Bool) : List Byte :=
  let entry (x : List Byte × Nat) : List Byte :=
    let empty := buddy && x.2 == 0
    leBytes 4 (x.2 + 1) ++ leBytes 4 (if empty then 0 else crc32c x.1) ++ leBytes 8 (if empty then 0 else x.1.length)
  let a := leBytes 4 0x5453c701 ++ leBytes 2 1 ++ leBytes 2 6 ++ leBytes 4 step ++ leBytes 4 s.bc ++
    leBytes 8 (s.pass.nextSeed.getD s.pass.seed) ++ leBytes 2 s.me ++ leBytes 2 0 ++ leBytes 4 s.n ++ leBytes 4 s.version
  let z := leBytes 8 s.pup.keepFrom ++ (s.digestOf step).flatMap (leBytes 8) ++
    secs.zipIdx.flatMap entry ++ List.replicate 80 0
  a ++ leBytes 4 (crc32c (a ++ leBytes 4 0 ++ z)) ++ z

/-- The pieces of a checkpoint with their offsets. -/
def State.ckptPieces (s : State) (step : Nat) (buddy : Bool) : List (Nat × List Byte) :=
  let secs := s.sections
  (0, s.ckptHeader step secs buddy) ::
    (secs.zipIdx.filter (fun x => !(buddy && x.2 == 0))).map (fun x =>
      (if buddy then s.buddyAt x.2 else s.sectionAt x.2, x.1))

/-- Pieces written at an address of a space. -/
def State.putPieces (s : State) (space addr : Nat) (ps : List (Nat × List Byte)) : State :=
  ps.foldl (fun t x => t.wrBytes space (addr + x.1) x.2) s

/-- Pieces sent as bulk blocks of a stream to a rank; OFFSET counts from the start of the area (R319). -/
def State.sendPieces (s : State) (r stream : Nat) (ps : List (Nat × List Byte)) : State :=
  ps.foldl (fun t x => (cutBody 240 ((x.2.length + 239) / 240) x.1 (x.2.map (fun b => (b.toNat : Int)))).foldl
    (fun t c =>
      let pay : Payload := .bulk stream c.1 (c.2.map (fun z => BitVec.ofInt 8 z))
      t.originate { tc := 2, dest := t.rankFabric (t.seat r), pay := pay }) t) s

/-! ### Reading a checkpoint -/

/-- A number in a checkpoint's header. -/
def State.hdr (s : State) (space addr o n : Nat) : Nat := s.rdNat space (addr + o) n

/-- The header checks: MAGIC, FORMAT and HCRC. -/
def State.headerOk (s : State) (space addr : Nat) : Bool :=
  let b := s.rdBytes space addr 256
  s.hdr space addr 0 4 == 0x5453c701 && s.hdr space addr 4 2 == 1 &&
  decide (1 ≤ s.hdr space addr 6 2) && decide (s.hdr space addr 6 2 ≤ 11) &&
  s.hdr space addr 36 4 == crc32c (b.take 36 ++ leBytes 4 0 ++ b.drop 40)

/-- The section of a KIND: its offset, length and CRC. Sections lie in the order of the table, each at the
next multiple of 4 KiB. -/
def State.findSection (s : State) (space addr kind : Nat) : Nat → Nat → Nat → Option (Nat × Nat × Nat)
  | 0, _, _ => none
  | fuel + 1, k, off =>
    if s.hdr space addr 6 2 ≤ k then none
    else
      let e := 80 + 16 * k
      let len := s.hdr space addr (e + 8) 8
      if s.hdr space addr e 1 = kind then some (off, len, s.hdr space addr (e + 4) 4)
      else s.findSection space addr kind fuel (k + 1) (roundUp (off + len) 4096)

/-- The bytes of a section. -/
def State.sectionOf (s : State) (space addr kind : Nat) : Option (List Byte) :=
  (s.findSection space addr kind 11 0 4096).map (fun x => s.rdBytes space (addr + x.1) x.2.1)

/-- The CRC of every section checks. -/
def State.sectionsOk (s : State) (space addr : Nat) : Bool :=
  [1, 2, 3, 4, 5, 6].all (fun k => match s.findSection space addr k 11 0 4096 with
    | none => true
    | some x => crc32c (s.rdBytes space (addr + x.1) x.2.1) == x.2.2)

/-- A checkpoint at an address passes its checks (R459); `step` of none takes any. -/
def State.ckptOk (s : State) (space addr : Nat) (step : Option Nat) : Bool :=
  s.headerOk space addr && s.sectionsOk space addr &&
  (match step with
    | none => true
    | some g => s.hdr space addr 8 4 == g)

/-- The step a local area holds, if its header checks. -/
def State.areaStep (s : State) (k : Nat) : Option Nat :=
  if s.headerOk 1 (s.areaAddr k) then some (s.hdr 1 (s.areaAddr k) 8 4) else none

/-- The local area with a good checkpoint of a step. -/
def State.areaOf (s : State) (step : Nat) : Option Nat :=
  [0, 1].find? (fun k => s.ckptOk 1 (s.areaAddr k) (some step))

/-! ### Restoring (R241) -/

/-- The EPOCH section copied into the committed epoch. -/
def State.restoreEpoch (s : State) (b : List Byte) : State :=
  let m := (List.range s.load.params).foldl (fun m p =>
    let v := leNat ((b.drop (2 * p)).take 2)
    if v = 0 then m else mput p v m) []
  { s with seesaw := if s.fb F.colEpochSel then { s.seesaw with epoch1 := m } else { s.seesaw with epoch0 := m } }

/-- The AVERAGES section copied into the committed copies with VALID set. -/
def State.restoreAverages (s : State) (b : List Byte) : State :=
  (List.range s.avgSlots).foldl (fun t k =>
    let c := (b.drop (k * (64 + avgCopy))).take (64 + avgCopy)
    let a := t.slotAddr (t.slotBucket k)
    let sel := leNat ((c.drop 2).take 1) % 2
    ((t.wrBytes 1 a (c.take 64)).wrNat 1 (a + 2) 1 (sel + 2)).wrBytes 1 (a + 64 + avgCopy * sel) (c.drop 64)) s

/-- The MONITOR section. -/
def State.restoreMonitor (s : State) (b : List Byte) : State :=
  let word (k : Nat) : Nat × Nat := (leNat ((b.drop (8 * k)).take 4), leNat ((b.drop (8 * k + 4)).take 4))
  let layers := s.arr.layers.map (fun (x : Nat × Layer) =>
    (x.1, { x.2 with hist := (word x.1).1, steps := (word x.1).2 }))
  let s := { s with arr := { s.arr with layers := layers } }
  { s with col := { s.col with mon := (List.range s.avgSlots).foldl (fun m k =>
      mput (s.slotBucket k) (word (4096 + k)) m) s.col.mon } }

/-- The ARRAYS section. -/
def State.restoreArrays (s : State) (b : List Byte) : State :=
  let word (k : Nat) : Nat := leNat ((b.drop (8 * k)).take 8)
  { s with arr := { s.arr with layers := s.arr.layers.map (fun x =>
    let w := word x.1
    (x.1, { x.2 with
      range := bitsOf w 60 2, auto := bitOf w 59, fallback := bitOf w 58, action := bitsOf w 0 2,
      pendInfo := none, pendFall := none, pendClear := false })) } }

/-- Section `kind` of a checkpoint put in its place, when it has one. -/
def State.restoreWith (s : State) (space addr kind : Nat) (put : State → List Byte → State) : State :=
  match s.sectionOf space addr kind with
  | none => s
  | some b => put s b

/-- A layer reprogrammed in full from the committed epoch (R104, R241). -/
def State.reprogramLayer (s : State) (h : Nat) (l : Layer) : State :=
  let scales := (List.range l.outDim).map (fun o =>
    let m := (List.range l.inDim).foldl (fun a i =>
      let w := bf16Val (s.param false (l.offset i o))
      if w.nonFinite then a else max a (qabs w.rat)) 0
    let q := m / (if l.wt then 3 / 2 else 2)
    let r := floatMag 7 .rtz q
    max 0x0080 (if (bf16Val r.1).rat < q then r.1 + 1 else r.1))
  let s := s.putLayer h { l with scales := scales, programmed := true }
  l.held.foldl (fun t k => t.putTile k (({ t.tile k with dirty := [], late := false } : Tile).begin
      { kind := .program, rows := allRows, step := t.c, full := true })) s

/-- Ingest after a rollback (R18, R241, R308): both slots are released, and with SAFE the cursor returns. -/
def State.rewindIngest (s : State) (ingest : Nat) : State :=
  let s := { s with pup := { s.pup with slot0 := {}, slot1 := {}, mine := false, waitFrom := none, stallSeen := false } }
  if s.fb F.schIngestCfgSafe then
    ({ s with pup := { s.pup with keepFrom := ingest } }).setF F.schIngestTaken ingest
  else s.ev 0x0033 unitPuppeteer 0 (s.f F.schIngestTaken)

/-- Steps 1 to 3 of R241 from the checkpoint at an address; `host` for a host copy, whose missing sections
leave what program load sets (R310). What COL.UPDCFG and COL.AVGRESET have left for the next launch waits on for it: a
rollback restores the table below it. DEDUCED from R203 and R297, which name the next launch and no exception. -/
def State.restoreFrom (s : State) (space addr : Nat) (host : Bool) : State :=
  let step := s.hdr space addr 8 4
  let s := if host && (s.findSection space addr 3 11 0 4096).isNone then
      s.zeroRange 1 (s.f F.colHistBase) (4 * s.load.buckets) else s
  let s := if host && (s.findSection space addr 5 11 0 4096).isNone then s.restoreMonitor [] else s
  let s := if host && (s.findSection space addr 6 11 0 4096).isNone then
      { s with arr := { s.arr with layers := s.arr.layers.map (fun x => (x.1, { x.2 with
        range := 2, auto := true, fallback := false, action := 1 })) } } else s
  let s := s.restoreWith space addr 1 State.restoreEpoch
  let s := s.restoreWith space addr 2 State.restoreAverages
  let s := s.restoreWith space addr 3 (fun t b => t.wrBytes 1 (t.f F.colHistBase) (b.take (4 * t.load.buckets)))
  let s := s.restoreWith space addr 4 (fun t b => t.wrBytes 1 (t.f F.colUpdTable) (b.take 262144))
  let s := s.restoreWith space addr 5 State.restoreMonitor
  let s := s.restoreWith space addr 6 State.restoreArrays
  let s := (s.setF F.colCountersStep step).setF F.colCountersBcstep (s.hdr space addr 12 4)
  let s := { s with
    pass := { s.pass with seed := s.hdr space addr 16 8, nextSeed := none, statePending := none, digBad := false }
    load := { s.load with seesawOpen := true } }
  let s := (s.clearTokens.rewindIngest (s.hdr space addr 40 8))
  s.arr.layers.foldl (fun t x => t.reprogramLayer x.1 x.2) s

/-! ### Digest comparisons (R236) -/

/-- A comparison of a step begins. -/
def State.startDigest (s : State) (step : Nat) : State :=
  if s.pass.digs.any (fun d => d.step == step) then s
  else { s with pass := { s.pass with digs := s.pass.digs ++ [{ step := step }] } }

/-- Checkpoints of a step learn that the rank's own comparison was clean; a rank that differs does not
confirm the step (R238). -/
def State.judgeCkpt (s : State) (step : Nat) (clean : Bool) : State :=
  if clean then { s with pass := { s.pass with ckpts := s.pass.ckpts.map (fun j =>
    if j.step = step then { j with clean := true } else j) } }
  else
    let gone := s.pass.ckpts.filter (fun j => j.step == step)
    { s with pass := { s.pass with
      ckpts := s.pass.ckpts.filter (fun j => j.step != step)
      ckptIds := s.pass.ckptIds ++ gone.flatMap (fun j => j.ids)
      ckptCmd := s.pass.ckptCmd || gone.any (fun j => j.cmd) } }

/-- A comparison goes on: with its own digest, the root's and every child's DIGEST_UP the rank answers its
parent, or the root concludes. -/
def State.digestOn (s : State) (step : Nat) : State :=
  match s.pass.digs.find? (fun d => d.step == step) with
  | none => s
  | some d =>
    match d.own, d.root with
    | some own, some root =>
      if !s.children.all (fun c => d.ups.any (fun u => u.1 == c)) then s
      else
        let differs := own != root
        let count := (d.ups.map (fun u => u.2.1)).sum + natOfBool differs
        let low := (d.ups.filter (fun u => decide (0 < u.2.1))).foldl (fun a u => min a u.2.2)
          (if differs then s.me else 0xffff)
        let s := { s with pass := { s.pass with digs := s.pass.digs.filter (fun x => x.step != step) } }
        let s := s.setF F.colDigestStatusStep step
        match s.parent with
        | some r => s.sendCtl r {
            type := 12, step := step, bcstep := 0, version := s.version, origin := s.me, count := count, subject := low }
        | none =>
          let s := (s.setF F.colDigestStatusMismatch count).setF F.colDigestStatusLowest low
          if count = 0 then s
          else ({ s with pass := { s.pass with digBad := true } }).ev 0x5109 unitNet count low
    | some _, none => s
    | none, _ => s

/-- The rank's own comparison against the root's digest, once both are there. -/
def State.compareOwn (s : State) (step : Nat) : State :=
  match s.pass.digs.find? (fun d => d.step == step) with
  | none => s
  | some d => (match d.own, d.root with
    | some own, some root => s.judgeCkpt step (own == root)
    | some _, none => s
    | none, _ => s)

/-- The root's digest stands as the reference. -/
def State.setRootDigest (s : State) (step : Nat) (l : List Nat) : State :=
  { s with pass := { s.pass with digs := s.pass.digs.map (fun d =>
    if d.step = step then { d with root := some l } else d) } }

/-- DIGEST_COMPUTE (R235, R236): the own digest of every comparison in progress is done, and the root sends
its own down. -/
def execDigestCompute (s : State) : Host.Outcome State Fault Refusal :=
  let t := s.computeDigests
  let steps := t.pass.digs.map (fun d => d.step)
  .next (steps.foldl (fun t g =>
    match t.pass.digs.find? (fun d => d.step == g) with
    | none => t
    | some d => (match d.own, d.root with
      | some own, none =>
        if t.isRoot then
          (((t.setRootDigest g own).sendAll t.children
            { type := 11, step := g, version := t.version, origin := 0, digest := own }).compareOwn g).digestOn g
        else t
      | some _, some _ => (t.compareOwn g).digestOn g
      | none, _ => t)) t)

/-- DIGEST_DOWN (R236): the root's digest arrives, and goes on to the children. -/
def execDigestDown (m : CtlMsg) (s : State) : Host.Outcome State Fault Refusal :=
  if m.type ≠ 11 ∨ s.isRoot then .next s
  else
    let t := (s.startDigest m.step).setRootDigest m.step m.digest
    .next (((t.sendAll t.children m).compareOwn m.step).digestOn m.step)

/-- DIGEST_UP (R236): a child's comparison is done. -/
def execDigestUp (from_ : Nat) (m : CtlMsg) (s : State) : Host.Outcome State Fault Refusal :=
  if m.type ≠ 12 ∨ !s.children.contains from_ then .next s
  else
    let take (d : DigestRun) : DigestRun :=
      if d.step = m.step ∧ !d.ups.any (fun u => u.1 == from_) then
        { d with ups := d.ups ++ [(from_, m.count, m.subject)] } else d
    let t := { s with pass := { s.pass with digs := s.pass.digs.map take } }
    .next (t.digestOn m.step)

/-! ### Taking checkpoints (R238, R309) -/

/-- A value of CKPT that names none. -/
def noCkpt : Nat := 0xffffffff

/-- A local area that holds neither G nor the newest local confirmation. -/
def State.freeArea (s : State) : Option Nat :=
  let g := s.f F.colCkptStatusGlobal
  let l := s.f F.colCkptStatusLocal
  [0, 1].find? (fun k => !s.pass.ckpts.any (fun j => j.area == k) &&
    (match s.areaStep k with
      | none => true
      | some t => (g == noCkpt || t != g) && (l == noCkpt || t != l)))

/-- The rank whose areas hold this rank's buddy copies. -/
def State.buddy (s : State) : Nat := (s.me + s.n / 2) % s.n

/-- What waits for the next checkpoint. -/
def State.waitCkpt (s : State) (ids : List Nat) (cmd : Bool) : State :=
  { s with pass := { s.pass with ckptIds := ids, ckptCmd := cmd } }

/-- A checkpoint is due and has found no free area. -/
def State.setCkptDue (s : State) (b : Bool) : State := { s with pass := { s.pass with ckptDue := b } }

/-- The checkpoints that are not confirmed. -/
def State.setCkpts (s : State) (js : List CkptJob) : State := { s with pass := { s.pass with ckpts := js } }

/-- The host copy of a checkpoint, when its turn has come and it fits (R309); it waits while no request may be sent to host
memory (R351, R403). -/
def State.hostCopy (s : State) (step : Nat) : State :=
  let k := s.pass.ckptNo + 1
  let s := { s with pass := { s.pass with ckptNo := k } }
  if !s.fb F.schCkptCfgHostEn || k % max 1 (s.f F.schCkptCfgHostEvery) != 0 then s
  else
    let bytes := ckptBytes s.load.params s.avgSlots s.load.buckets
    if s.f F.schHostCkptSize < bytes then s.ev 0x0034 unitPuppeteer 0 bytes
    else
      let a := s.f F.schHostCkpt + s.pass.hostArea * s.f F.schHostCkptSize
      let s := { s with pass := { s.pass with hostArea := 1 - s.pass.hostArea } }
      if hostTop < a + bytes then
        ((s.addF F.cxlHostErrAbort 1).addF F.cxlHostErrLost 1).ev 0x8003 unitCxl 0 a
      else if s.hostReady then s.putPieces 2 a (s.ckptPieces step false)
      else s.setCkpts (s.pass.ckpts.map (fun j => if j.step = step then { j with host := some a } else j))

/-- The copy that an SVC.CKPT with HOST receives in H0 (R299). -/
def State.giveCkpt (s : State) (step id : Nat) : State :=
  match s.inst id with
  | none => s
  | some i => if i.code.flag 3 then
      (s.ckptPieces step false).foldl (fun t x => t.wrElems (i.d 0) x.1 (x.2.map (fun b => b.toNat))) s else s

/-- A checkpoint of the step just committed: its sections are written, and the buddy's copy leaves; without a
free area it is deferred (R238). -/
def State.takeCkpt (s : State) (step : Nat) : State :=
  match s.freeArea with
  | none => (s.setCkptDue true).ev 0x510a unitPuppeteer step 0
  | some k =>
    let s := s.putPieces 1 (s.areaAddr k) (s.ckptPieces step false)
    let s := if 1 < s.n then s.sendPieces s.buddy k (s.ckptPieces step true) else s
    let s := s.pass.ckptIds.foldl (fun t id => t.giveCkpt step id) s
    let j : CkptJob := { step := step, area := k, ids := s.pass.ckptIds, cmd := s.pass.ckptCmd,
                         clean := s.pass.digK == 0 }
    let s := (((s.setCkpts (s.pass.ckpts ++ [j])).waitCkpt [] false).setCkptDue false).hostCopy step
    if s.pass.digK = 0 then s else s.startDigest step

/-- What a commit of `step` schedules: its digest comparison and its checkpoint (R236, R309). -/
def State.scheduleAfter (s : State) (step : Nat) : State :=
  let s := if 0 < s.pass.digK ∧ step % s.pass.digK = 0 then s.startDigest step else s
  let every := s.f F.schCkptCfgInterval
  if (0 < every ∧ step % every = 0) ∨ !s.pass.ckptIds.isEmpty ∨ s.pass.ckptCmd ∨ s.pass.ckptDue then s.takeCkpt step else s

/-- The comparisons in progress are dropped, and with them the checkpoints whose comparison was not clean yet: those cannot
be confirmed any more (R236, R238). What waited for one waits for the next. -/
def State.dropDigests (s : State) : State :=
  let js := s.pass.ckpts.filter (fun j => !j.clean)
  { s with pass := { s.pass with
    digs := [], ckpts := s.pass.ckpts.filter (fun j => j.clean)
    ckptIds := s.pass.ckptIds ++ js.flatMap (fun j => j.ids)
    ckptCmd := s.pass.ckptCmd || js.any (fun j => j.cmd) } }

/-- Comparisons and unconfirmed checkpoints are abandoned; what waited for a checkpoint waits for the next
(R246, R299). -/
def State.abandonCkpts (s : State) : State :=
  let js := s.pass.ckpts
  { s with pass := { s.pass with
    digs := [], ckpts := []
    ckptIds := s.pass.ckptIds ++ js.flatMap (fun j => j.ids)
    ckptCmd := s.pass.ckptCmd || js.any (fun j => j.cmd) } }

/-- A service command ends: STATUS and RESULT are written, BUSY clears and EV_SVC_CMD_DONE is raised
(R313). -/
def State.endCmd (s : State) (status result : Nat) : State :=
  match s.pup.cmd with
  | none => s
  | some c =>
    let s := (s.wrNat c.space (c.addr + 4) 2 status).wrNat c.space (c.addr + 24) 8 result
    let s := ({ s with pup := { s.pup with cmd := none } }).setF F.schSvcStatusBusy 0
    ((s.setF F.schSvcStatusLastTag c.tag).setF F.schSvcStatusLastStatus status).ev 0x0030 unitPuppeteer c.tag status

/-- A bulk block of a stream. -/
def isStream (k : Nat) : Payload → Bool
  | .bulk stream _ _ => stream == k
  | .ctl _ => false
  | .red _ => false
  | .fence _ _ => false
  | .nak _ _ => false
  | .creditSync _ _ _ => false
  | .ident _ _ _ => false
  | .idle => false

/-- Blocks of the copy that goes to the buddy's area `k` have not left yet, or are not acknowledged. -/
def State.buddyOut (s : State) (k : Nat) : Bool :=
  s.fab.orig.any (fun o => isStream k o.pay) ||
  s.fab.ports.any (fun x => x.2.replay.any (fun y => y.2.src == s.idOn x.1 && isStream k y.2.pay))

/-- A line of a checkpoint area holds an uncorrectable error. -/
def State.areaPoisoned (s : State) (k : Nat) : Bool :=
  !s.poison.isEmpty && s.poisonedRange 1 (s.areaAddr k) (ckptBytes s.load.params s.avgSlots s.load.buckets)

/-- The host copy that still waits is written from the local area, byte for byte the same (R237). -/
def State.lateHostCopy (s : State) (j : CkptJob) : State :=
  match j.host with
  | none => s
  | some a => s.wrBytes 2 a (s.rdBytes 1 (s.areaAddr j.area) (ckptBytes s.load.params s.avgSlots s.load.buckets))

/-- CHECKPOINT_CONFIRM (R238): the oldest checkpoint whose comparison was clean is read back and confirmed, once the buddy's
copy has left and the host copy is written; one that does not read back is taken again. -/
def execCheckpointConfirm (s : State) : Host.Outcome State Fault Refusal :=
  match s.pass.ckpts.find? (fun j => j.clean && !s.buddyOut j.area && (j.host.isNone || s.hostReady)) with
  | none => .next s
  | some j =>
    let s := (s.lateHostCopy j).setCkpts (s.pass.ckpts.filter (fun x => x != j))
    if !s.ckptOk 1 (s.areaAddr j.area) (some j.step) || s.areaPoisoned j.area then
      .next (s.waitCkpt (s.pass.ckptIds ++ j.ids) (s.pass.ckptCmd || j.cmd))
    else
      let s := s.setF F.colCkptStatusLocal j.step
      let s := j.ids.foldl (fun t id => t.modInst id (fun i => i.finish 0 0 j.step)) s
      .next (if j.cmd then s.endCmd 0 j.step else s)

end Sys2Proof.Machine
end

