-- ==== Sys2Proof/Machine/Ctl.lean ====
section
/-! DEFINITION. The CTL and MEM instructions (R260 to R269). -/

namespace Sys2Proof.Machine

/-- CTL.NOP (R260). -/
def execCtlNop (id : Nat) (s : State) : Host.Outcome State Fault Refusal :=
  s.start 0x0000 id (fun i => s.finishes i 0 0 0)

/-- CTL.JOIN (R261). -/
def execCtlJoin (id : Nat) (s : State) : Host.Outcome State Fault Refusal :=
  let bad (i : Inst) : Bool := i.code.joinTokens.any (fun t => s.tok t == some .poisoned)
  s.startIf 0x0001 id (fun i => bad i || i.code.joinTokens.all (fun t => s.tok t == some .set))
    (fun i => if bad i then s.fails i stDepFailed else s.finishes i 0 0 0)

/-- The token range of CTL.TSET and CTL.TCLR is in order (R262). -/
def Rec.rangeOk (r : Rec) : Bool :=
  let first := bitsOf r.imm1 0 16
  let count := bitsOf r.imm1 16 16
  decide (1 ≤ first) && decide (1 ≤ count) && decide (first + count - 1 ≤ 0xffff)

/-- The tokens of the range. -/
def Rec.range (r : Rec) : List Nat :=
  (List.range (bitsOf r.imm1 16 16)).map (fun k => bitsOf r.imm1 0 16 + k)

/-- CTL.TSET (R262). -/
def execCtlTset (id : Nat) (s : State) : Host.Outcome State Fault Refusal :=
  s.start 0x0002 id (fun i =>
    if i.code.rangeOk then (i.code.range.foldl (fun t k => t.signal k true) s).finishes i 0 0 0
    else s.fails i stImmInvalid)

/-- CTL.TCLR (R262). -/
def execCtlTclr (id : Nat) (s : State) : Host.Outcome State Fault Refusal :=
  s.start 0x0003 id (fun i =>
    if i.code.rangeOk then (i.code.range.foldl (fun t k => t.putTok k none) s).finishes i 0 0 0
    else s.fails i stImmInvalid)

/-- CTL.FENCE (R263). -/
def execCtlFence (id : Nat) (s : State) : Host.Outcome State Fault Refusal :=
  s.startIf 0x0004 id
    (fun i => s.sch.inflight.all (fun j =>
      j.queue != i.queue || decide (j.id < i.covers.1) || decide (i.id ≤ j.id)))
    (fun i => if i.covers.2 then s.fails i stDepFailed else s.finishes i 0 0 0)

/-- CTL.MARK (R264); the counter is read and written at completion. -/
def execCtlMark (id : Nat) (s : State) : Host.Outcome State Fault Refusal :=
  s.start 0x0005 id (fun i =>
    let d := i.d 0
    let st := if i.has 0 then firstFail
      [(d.format == 0x12, stOperandFormat), (decide (d.loc ≤ 1), stDescInvalid),
       (decide (i.code.imm2 < d.count), stIndexRange)] else stOk
    if st = stOk then
      (s.evI 0x0020 unitSched (bitsOf i.code.imm1 0 32) 0 i).finishes i 0 0 0
    else s.fails i st)

/-! ### MEM -/

/-- MEM.ALLOC (R71, R258, R266): the bind was made at admission; the seesaw lies in HBM too (R59). -/
def execMemAlloc (id : Nat) (s : State) : Host.Outcome State Fault Refusal :=
  s.start 0x1000 id (fun i =>
    let d := i.d 0
    if s.seesawBeyond i then s.fails i stIndexRange
    else s.finishes i 0 0 (d.base + (if d.loc = 1 ∨ d.loc = 5 then 2 ^ 63 else 0)))

/-- An instruction names a handle. -/
def Inst.names (i : Inst) (h : Nat) : Bool :=
  i.slots.any (fun x => x.2.1 == h) || i.code.h0 == h || i.code.h1 == h || i.code.h2 == h || i.code.h3 == h

/-- No instruction admitted before `i` still names the handle (R82, R266). -/
def State.unnamed (s : State) (i : Inst) (h : Nat) : Bool :=
  s.sch.inflight.all (fun j => decide (i.id ≤ j.id) || !j.names h)

/-- A bound entry released (R82): the state and the entry as it reads afterwards. -/
def State.releaseEntry (s : State) (h : Nat) (d : Desc) : State × Desc :=
  if d.autoalloc then
    (s.freeStorage h,
      { d with bound := false, spilled := false, loc := if d.spilled then 0 else d.loc, base := 0,
               stride := [0, 0, 0, 0, 0], expOff := 0, expStride := [0, 0, 0, 0] })
  else (s, { d with bound := false, freed := true })

/-- MEM.FREE (R82, R266). -/
def execMemFree (id : Nat) (s : State) : Host.Outcome State Fault Refusal :=
  s.startIf 0x1001 id (fun i => s.unnamed i i.code.h0) (fun i =>
    let d := s.descEntry i.code.h0
    if d.loc = 4 ∨ (d.valid ∧ d.loc = 2) then s.fails i stDescInvalid
    else if d.bound then
      let r := s.releaseEntry i.code.h0 d
      (r.1.putEntry i.code.h0 r.2).finishes i 0 0 0
    else s.finishes i 0 0 0)

/-- MEM.DSET (R72, R267). -/
def execMemDset (id : Nat) (s : State) : Host.Outcome State Fault Refusal :=
  s.startIf 0x1002 id (fun i => s.unnamed i i.code.h0) (fun i =>
    let a := bitsOf i.code.imm1 0 48
    let d := s.descEntry i.code.h0
    if a % 64 ≠ 0 ∨ hbmTop < a + 64 then s.fails i stImmInvalid
    else if d.bound && d.loc == 4 then s.fails i stDescInvalid
    else
      let t := if d.bound then (s.releaseEntry i.code.h0 d).1 else s
      let image := (s.rdBytes 1 a 64).zipIdx.map (fun x =>
        if x.2 = 2 then BitVec.ofNat 8 (x.1.toNat % 32) else x.1)
      ((t.wrBytes 1 (s.descAddr i.code.h0) image).unpoison 1 (s.descAddr i.code.h0) 64).finishes i 0 0 0)

/-- The quotas that the registers show take effect (R82, R153, R268). -/
def State.applyQuotas (s : State) : State :=
  let can := (s.heapFree + s.val.hbmQuota * pageBytes) / pageBytes
  let want := s.f F.memValleyQuotaHbmPages
  let s := { s with
    val := { s.val with chipQuota := min 128 (s.f F.memValleyQuotaChipPages), hbmQuota := min want can },
    sch := { s.sch with deferInEffect := s.f F.schDeferQuota } }
  let s := (s.pageOut s.val.pages.length).refreshDefer
  if can < want then (s.setF F.memValleyQuotaHbmPages can).ev 0xb001 unitSched 0 (want * pageBytes) else s

/-- The quotas take effect now when no step is in progress; else the next launch makes them. -/
def State.quotasIfIdle (s : State) : State := if s.pass.launched then s else s.applyQuotas

/-- MEM.QUOTA (R268). -/
def execMemQuota (id : Nat) (s : State) : Host.Outcome State Fault Refusal :=
  s.start 0x1003 id (fun i =>
    let sel := i.code.imm0
    let pages := bitsOf i.code.imm1 32 32
    if sel = 0 then s.fails i stImmInvalid
    else if bitOf sel 1 && decide (s.val.hbmQuota + s.heapFree / pageBytes < pages) then
      s.fails i stMemFull
    else
      let t := if bitOf sel 0 then s.setF F.memValleyQuotaChipPages (bitsOf i.code.imm1 0 8) else s
      let t := if bitOf sel 1 then t.setF F.memValleyQuotaHbmPages pages else t
      let t := if bitOf sel 2 then t.setF F.schDeferQuota (bitsOf i.code.imm2 0 32) else t
      t.quotasIfIdle.finishes i 0 0 0)

/-- What a fill writes (R269); into the containers of I26 and I40 the sign is copied upward (R42). -/
def fillEncoded (d : Desc) (pattern : Nat) : Encoded :=
  if fmtBlock d.format then
    { blocks := (cutBlocks d.B (d.e 0) ((List.range d.count).map (fun _ => Val.fin 0))).map (fun b =>
        (b.1, (bitsOf pattern 8 8, b.2.map (fun _ => bitsOf pattern 0 8)))) }
  else
    let w := fmtBits d.format
    let v := if d.format = 7 then unsignedOf w (signedOf 26 (bitsOf pattern 0 26))
      else if d.format = 8 then unsignedOf w (signedOf 40 (bitsOf pattern 0 40)) else bitsOf pattern 0 w
    { elems := List.replicate d.count v }

/-- MEM.FILL (R269). -/
def execMemFill (id : Nat) (s : State) : Host.Outcome State Fault Refusal :=
  s.start 0x1004 id (fun i =>
    let d := i.d 0
    if 1 < d.loc then s.fails i stDescInvalid
    else (s.wrEncoded d (fillEncoded d i.code.imm1)).finishes i 0 0 d.count)

end Sys2Proof.Machine
end

