-- ==== Sys2Proof/Machine/Commit.lean ====
section
/-! DEFINITION. What a launch, an answer and a withdrawal do to the parts of the device: the arrays
(R101, R102, R125, R131, R136 to R141), the collective engine (R200, R206, R208, R216), the valley and the
queues (R27, R28, R58, R225), and the step record (R311, R312, R428). -/

namespace Sys2Proof.Machine

/-! ### The arrays at COMMIT -/

/-- The range a layer has after the counts of a step (R101). -/
def State.nextRange (s : State) (l : Layer) : Nat :=
  let clip := 2 ^ max 1 (s.f F.arrRangeCfgClipLog2)
  let head := 2 ^ max 1 (s.f F.arrRangeCfgHeadLog2)
  if !l.auto || !s.fb F.arrCtrlAutorange || decide (l.n < 2 ^ s.f F.arrRangeCfgMinConvLog2) then l.range
  else if l.n < l.c * clip ∧ l.range < 3 then l.range + 1
  else if l.c = 0 ∧ l.h * head ≤ l.n ∧ 0 < l.range then l.range - 1
  else l.range

/-- A tile's calibration becomes due (R117). -/
def State.makeDue (s : State) (ts : List Nat) : State :=
  ts.foldl (fun t k => t.modTile k (fun x => { x with due := true })) s

/-- Auto-ranging of a layer (R101); the counts become those of the last committed step. -/
def State.rangeLayer (s : State) (h : Nat) (l : Layer) : State :=
  let r := s.nextRange l
  let t := s.putLayer h { l with
    range := r, lastN := l.n, lastC := l.c, n := 0, c := 0, h := 0, fullSeen := false, crossed := false }
  if r = l.range then t else (t.makeDue l.held).ev 0x1001 unitDevice h r

/-- The drift check of a slice position: deviates, the new baseline, and whether the step qualifies (R125). The first
baseline is rounded to F32 too: the rule names the rounding only where the baseline moves. DESIGN CHOICE. -/
def driftOf (minN : Nat) (drift : Rat) (base : Option Nat) (sum : Int) (n : Nat) : Bool × Option Nat × Bool :=
  if n < minN ∨ n = 0 then (false, base, false)
  else
    let m : Rat := (sum : Rat) / n
    match base with
    | none => (false, some (floatEnc 23 .rne (.fin m)).val, true)
    | some b =>
      let q := (f32Val b).rat
      if drift < qabs (m - q) then (true, base, true)
      else (false, some (floatEnc 23 .rne (.fin (q + (m - q) / 16))).val, true)

/-- The drift check of a tile at COMMIT (R125, R126). A slice position that does not deviate moves its baseline even where
another of the tile deviates in the same step: the rule does not say for which of them "a step that does not deviate" is
meant. DESIGN CHOICE. -/
def State.driftTile (s : State) (t : Nat) (x : Tile) : State :=
  let minN := 2 ^ max 6 (min 20 (s.f F.arrCsCfgMinLog2))
  let drift : Rat := (max 1 (s.f F.arrCsCfgDrift) : Nat)
  let os := (List.range 4).map (fun j => driftOf minN drift (x.base.getD j none) (x.csSum.getD j 0) (nth x.csCount j))
  let qualifies := os.any (fun o => o.2.2)
  let deviates := os.any (fun o => o.1)
  let run := if !qualifies then x.devRun else if deviates then x.devRun + 1 else 0
  let bad := run == 3
  let s := s.putTile t { x with
    base := os.map (fun o => o.2.1), csSum := [0, 0, 0, 0], csCount := [0, 0, 0, 0],
    devRun := if bad then 0 else run, suspect := x.suspect || bad,
    sinceRe := if qualifies then x.sinceRe.map (fun n => n + 1) else x.sinceRe }
  if bad then s.ev 0x100a t ((os.findIdx? (fun o => o.1)).getD 0) 0 else s

/-- A tile at COMMIT: what was speculative is committed, and an unused piece of its share returns (R27, R129,
R131). -/
def Tile.commit (x : Tile) : Tile :=
  let spec := match x.batch with
    | some b => b.shadow
    | none => false
  let used := x.slots.length
  { x with
    comSlots := if spec then x.comSlots else x.slots, comClamps := if spec then x.comClamps else x.clamps,
    share := if 64 ≤ x.share ∧ used + 128 ≤ x.share then x.share - 64 else x.share,
    batch := x.batch.map (fun b => { b with shadow := false }),
    late := x.late || !x.dirty.isEmpty, rewritten := [], answered := x.answered || x.suspect || x.csFault }

/-- The threshold and the history weight of the monitor (R136). -/
def State.monT (s : State) : Rat := (max 0x140 (s.f F.arrMonCfgThresh) : Nat) / 256
def State.monW (s : State) : Nat := max 1 (min 16 (s.f F.arrMonCfgHistLog2))

/-- A value jumps against a history and its count (R136). -/
def State.jumps (s : State) (v h count : Nat) : Bool :=
  let a := (f32Val v).rat
  let b := (f32Val h).rat
  decide (max 1 (s.f F.arrMonCfgWarmup) ≤ count) && decide (0 < b) &&
  (decide (s.monT * b < a) || decide (a < b / s.monT))

/-- The history after a value that moves it (R136). -/
def State.moveHist (s : State) (v h count : Nat) : Nat :=
  if count = 0 then v
  else
    let d := toF32 ((f32Val v).sub (f32Val h))
    let e := toF32 (d.mul (.fin (pow2 (-(s.monW : Int)))))
    (floatEnc 23 .rne ((f32Val h).add e)).val

/-- The forward norm of a layer in the step (R135). -/
def Layer.norm (l : Layer) : Norm :=
  if l.elems = 0 then .none else if l.nonFin then .nonFinite else .f32 (rmsF32 l.sumSq l.elems)

/-- The action a forward jump of the layer takes; a replay run as WIDE takes RECORD (R138). -/
def State.fwdAction (s : State) (l : Layer) : Nat := if s.pass.wide then 0 else l.action

/-- The norm and the jump of a layer, if it jumps and forward norms are judged. -/
def State.fwdJump (s : State) (l : Layer) : Option Nat :=
  match l.norm with
  | .none => none
  | .nonFinite => none
  | .f32 v => if s.fb F.arrMonCfgFwdEn && s.jumps v l.hist l.steps then some v else none

/-- A forward jump is noted, once in a step: it is reported, JUMP is set, and the action FALLBACK holds from the next launch
(R137, R142). -/
def State.noteJump (s : State) (h : Nat) (l : Layer) : State :=
  match s.fwdJump l with
  | none => s
  | some v =>
    if l.jumped then s
    else (s.putLayer h { l with
      jump := true, jumped := true
      pendFall := if s.fwdAction l = 1 ∧ !l.fallback then some 0 else l.pendFall }).ev 0x100e unitDevice h
        (v * 2 ^ 32 + l.hist)

/-- The monitor of a layer at COMMIT (R136, R137): a jump that outputs since the rank's READY have made is noted, and the
history moves. A step whose value jumped and did not move the history counts as a qualifying step all the same: the rule
excludes it from the history only. DESIGN CHOICE. -/
def State.monitorLayer (s : State) (h : Nat) (l : Layer) : State :=
  let clear (l : Layer) : Layer := { l with sumSq := 0, elems := 0, nonFin := false, jumped := false }
  match l.norm with
  | .none => s.putLayer h (clear l)
  | .nonFinite => s.putLayer h (clear l)
  | .f32 v =>
    let hist := if (s.fwdJump l).isSome && s.fwdAction l != 0 then l.hist else s.moveHist v l.hist l.steps
    (s.noteJump h l).modLayer h (fun l => { clear l with hist := hist, steps := min 0xffff (l.steps + 1) })

/-- The arrays at COMMIT (R27, R101, R125, R129, R131, R136). -/
def State.arrCommit (s : State) : State :=
  let s := s.modTiles Tile.commit
  let s := s.arr.tiles.foldl (fun t x => t.driftTile x.1 x.2) s
  let s := s.arr.layers.foldl (fun t x => t.rangeLayer x.1 x.2) s
  s.arr.layers.foldl (fun t x => t.monitorLayer x.1 x.2) s

/-! ### The arrays at a withdrawal (R28, R102, R109, R131) -/

/-- A tile whose step is withdrawn: the dirty mask clears, rewritten rows are restored first, and the committed slot set
returns. A tile or a column that came in with the step's batch is restored in every row with it (R110). -/
def Tile.withdraw (c : Nat) (x : Tile) : Tile :=
  let rows := match x.batch with
    | some b => if b.shadow && (b.full || b.spare) then allRows else ascending x.rewritten
    | none => ascending x.rewritten
  let y := { x with
    dirty := if x.late then x.dirty else [], rewritten := [], slots := x.comSlots, clamps := x.comClamps
    answered := x.answered || x.suspect || x.csFault
    csSum := [0, 0, 0, 0], csCount := [0, 0, 0, 0] }
  match x.batch with
  | none => if rows.isEmpty then y else ({ y with sealed := false } : Tile).begin { kind := .restore, rows := rows, step := c }
  | some b =>
    if b.shadow then
      (if rows.isEmpty && x.sealed then { y with batch := none }
       else { y with batch := some { kind := .restore, rows := rows, step := c, full := b.full, spare := b.spare } })
    else y

/-- The arrays of a withdrawn step. -/
def State.arrVeto (s : State) : State :=
  let s := s.modTiles (Tile.withdraw s.c)
  let s := { s with arr := { s.arr with disputes := s.arr.disputes.filter (fun d => d.step != some s.stepNow) } }
  let s := s.modLayers (fun l => { l with
    n := 0, c := 0, h := 0, sumSq := 0, elems := 0, nonFin := false, jumped := false, fullSeen := false, crossed := false })
  s.arr.tiles.foldl (fun t x => match x.2.batch with
    | some b => if b.rows.isEmpty then t.sealTile x.1 b else t
    | none => t) s

/-! ### The arrays at a launch (R102, R139 to R141) -/

/-- What was last written to ARR.LINFO of a layer takes effect (R102). -/
def State.takeInfo (s : State) (h : Nat) : State :=
  match s.layer h with
  | none => s
  | some l => (match l.pendInfo with
    | none => s
    | some (a, r) =>
      let r' := if a then l.range else r
      let t := s.putLayer h { l with auto := a, range := r', pendInfo := none }
      if r' = l.range then t else t.makeDue l.held)

/-- A layer at a launch: what was written to ARR.LINFO takes effect, and it enters or leaves fallback. -/
def State.launchLayer (s : State) (h : Nat) : State :=
  match s.layer h with
  | none => s
  | some l =>
    let s := s.takeInfo h
    let l := (s.layer h).getD l
    let fresh := l.whole && l.held.all (fun k => (s.tile k).fresh == 2)
    let s := s.putLayer h { l with pendFall := none, pendClear := false, fullSeen := false }
    match l.pendFall with
    | some r => s.enterFallback h r
    | none => if l.fallback && l.whole && (l.pendClear || fresh) then s.leaveFallback h else s

/-- The layers that the step body forwards, read from its queues (R141). -/
def State.bodyLayers (s : State) : List Nat :=
  ((List.range 64).flatMap (fun q =>
    if s.fb (F.schQCfgEn q) && s.fb (F.schQCfgStep q) then
      let size := 2 ^ s.f (F.schQCfgLog2size q)
      let a := s.f (F.schQLoopStart q) % size
      let n := (s.f (F.schQLoopEnd q) % size + size - a) % size
      (List.range n).filterMap (fun k =>
        let r := Rec.ofBytes (s.rdBytes 1 (s.f (F.schQBase q) + 32 * ((a + k) % size)) 32)
        let d := s.descEntry r.h2
        if r.op = 0x4003 ∧ d.loc = 4 then some (d.base % 65536) else none)
    else [])).dedup

/-- The arrays at a launch. -/
def State.arrLaunch (s : State) : State :=
  let s := s.arr.layers.foldl (fun t x => t.launchLayer x.1) s
  let hs := s.bodyLayers
  let all := !hs.isEmpty && hs.all (fun h => match s.layer h with
    | none => false
    | some l => l.fallback)
  let t := { s with arr := { s.arr with allFallback := all } }
  if all && !s.arr.allFallback then t.ev 0x1011 unitDevice hs.length 0 else t

/-! ### The collective engine at an answer -/

/-- The layers that had a bucket in the step. -/
def State.layersOf (s : State) : List Nat := (s.col.ends.map (fun e => e.layer)).dedup

/-- K held to its range (R206). -/
def clampK (k : Int) : Int := max (-64) (min 64 k)

/-- K of a layer after a commit (R206). -/
def adjustK (k : Int) (peak : Nat) : Int :=
  let z : Int := (peak : Int) - 127 + k
  if peak = 0 then k else if 8 < z then clampK (k - 1) else if z < -8 then clampK (k + 1) else clampK k

/-- A layer's K and SILENT at COMMIT (R206, R216). EV_COL_SILENT_LAYER is raised once SILENT has reached the threshold, and
again only after it has returned to 0; a threshold lowered below SILENT counts as reached. DEDUCED. -/
def State.commitUpd (s : State) (l : Nat) : State :=
  let es := s.col.ends.filter (fun e => e.layer == l)
  let u := s.upd l
  let peak := es.foldl (fun a e => max a e.pk) 0
  let s := if u.kauto then s.putK l (adjustK u.k peak) else s
  let n := if es.any (fun e => e.changed) then 0 else min 0xffff (u.silent + 1)
  let thresh := if s.f F.colSilentCfgThresh = 0 then 64 else s.f F.colSilentCfgThresh
  let told := s.col.silentTold.contains l && u.silent != 0 && n != 0
  let first := es.foldl (fun a e => min a e.b) 0x10000
  let tell := decide (thresh ≤ n) && !told && !u.mask && s.owns first
  let rest := s.col.silentTold.filter (fun x => x != l)
  let s := { s.putSilent l n with col := { s.col with silentTold := if told || tell then l :: rest else rest } }
  if tell then s.ev 0x5003 unitNet l n else s

/-- A bucket at COMMIT: its history, and at the owner its averages and its norm (R200, R208, R136). -/
def State.commitBucket (s : State) (e : Ended) : State :=
  let s := s.putHistory e.b e.pk
  let s := if e.avg then
      (let a := s.slotAddr e.b
       (s.wrNat 1 (a + 2) 1 (1 - s.slotSel e.b + 2)).wrNat 1 (a + 3) 1 (s.rdNat 1 (a + 4) 1))
    else s
  match e.norm with
  | .none => s
  | .nonFinite => s
  | .f32 v =>
    let m := (mget e.b s.col.mon).getD (0, 0)
    let j := s.fb F.arrMonCfgGradEn && s.jumps v m.1 m.2
    let a := s.f F.arrMonCfgGradAction
    let hist := if j && decide (2 ≤ a) then m.1 else s.moveHist v m.1 m.2
    { s with col := { s.col with mon := mput e.b (hist, m.2 + 1) s.col.mon } }

/-- The engine is empty again; EV_COL_PROBE tells of the attempt's probes (R201). -/
def State.colClear (s : State) : State :=
  let n := s.col.probes
  let s := { s with col := { s.col with
    buckets := [], ends := [], admitted := [], next := 0, probeAll := false, probes := 0, retries := 0 } }
  let s := { s with seesaw := { s.seesaw with written := [] } }
  if 0 < n then s.ev 0x5001 unitNet n 0 else s

/-- The engine at COMMIT. -/
def State.colCommit (s : State) : State :=
  let s := s.col.ends.foldl (fun t e => t.commitBucket e) s
  let s := s.layersOf.foldl (fun t l => t.commitUpd l) s
  { s with col := { s.col with map := s.col.admitted.foldl (fun m y => mput y.1 y.2 m) s.col.map } }

/-- K after a skip for NONFINITE (R206). -/
def State.lowerK (s : State) : State :=
  (s.layersOf.filter (fun l => s.col.ends.any (fun e => e.layer == l && e.nf))).foldl (fun t l =>
    t.putK l (clampK ((t.upd l).k - 1))) s

/-! ### Step records (R311, R312, R428) -/

/-- A value held to `w` bits. -/
def capBits (w v : Nat) : Nat := min (2 ^ w - 1) v

/-- The step record of the step in progress, as it stands: OUTCOME 0 COMMIT, 1 SKIP, 2 STOP. -/
def State.stepRecord (s : State) (outcome : Nat) : List Byte :=
  let a := s.pup.acc
  let c32 (v : Nat) : List Byte := leBytes 4 (capBits 32 v)
  let c64 (v : Nat) : List Byte := leBytes 8 (capBits 64 v)
  leBytes 4 s.stepNow ++ leBytes 1 outcome ++ leBytes 1 a.reason ++ leBytes 1 (capBits 8 a.attempts) ++
  leBytes 1 (natOfBool a.wide + 2 * natOfBool a.probed + 4 * natOfBool a.rered + 8 * natOfBool a.fallback +
    16 * natOfBool a.throttled) ++
  leBytes 8 a.start ++ leBytes 8 s.aon ++ leBytes 4 s.bcNow ++ leBytes 2 (s.f F.schRankRank) ++ leBytes 2 0 ++
  c32 a.tForward ++ c32 a.tDx ++ c32 a.tDw ++ c32 a.tRed ++ c32 a.tUpdate ++ c32 a.tPass ++ c32 a.tIngest ++
  c32 a.tRewrite ++ c32 a.tReplay ++
  c32 s.col.admitted.length ++ c32 (s.col.admitted.countP (fun y => s.owns y.1)) ++ c32 s.col.retries ++
  c64 a.sat ++ c64 a.nf ++ c64 a.clips ++ c32 a.clamps ++ c32 a.rows ++ c64 s.val.peak ++
  c32 (s.f F.grdDeferPeak) ++ c32 (s.f F.memValleyStateInplace) ++
  leBytes 8 (a.firstSeq.getD (2 ^ 64 - 1)) ++ leBytes 8 (a.lastSeq.getD (2 ^ 64 - 1)) ++
  leBytes 2 (unsignedOf 16 a.tempMax) ++ leBytes 2 0 ++ leBytes 4 (Config.stepEnergy s.freeCtr % 2 ^ 32) ++
  leBytes 104 0

/-- A step record written into the ring, and counted (R311). -/
def State.putRecord (s : State) (outcome : Nat) (b : List Byte) : State :=
  let slots := 2 ^ max 4 (min 20 (s.f F.schRecCfgLog2))
  let n := s.f F.schRecCfgCount
  let s := (s.wrBytes 1 (s.f F.schRecBase + 256 * (n % slots)) b).addF F.schRecCfgCount 1
  let s := { s with pup := { s.pup with
    lastRec := if outcome = 0 then b else s.pup.lastRec, acc := { s.pup.acc with tIngest := 0 } } }
  s.tick

/-- The step record of the step in progress, written as it stands. -/
def State.writeRecord (s : State) (outcome : Nat) : State := s.putRecord outcome (s.stepRecord outcome)

/-- A committed step's last-arrival bit (R312). -/
def State.straggle (s : State) : State :=
  let late := decide (s.pup.acc.tPass ≤ s.f F.schStragCfgFloor)
  let h := (s.f F.schStragHist * 2 + natOfBool late) % 2 ^ 64
  let n := (List.range 64).countP (fun k => bitOf h k)
  let limit := max 1 (min 64 (s.f F.schStragCfgCount))
  let s := s.setF F.schStragHist h
  if limit ≤ n ∧ !s.pup.straggler then
    ({ s with pup := { s.pup with straggler := true } }).ev 0x0036 unitPuppeteer n 0
  else if 2 * n < limit then { s with pup := { s.pup with straggler := false } }
  else s

/-! ### Withdrawal (R225) and launch (R58) -/

/-- Instructions of the step in progress that have not completed are withdrawn, and the storage, chains, posts
and checks of the step go with them (R225, R246). -/
def State.withdrawInsts (s : State) : State :=
  let gone := (s.sch.inflight.filter (fun i => i.step == some s.stepNow)).map (fun i => i.id)
  let dropped := s.units.unsettled.filter (fun u => gone.contains u.2.2)
  let lost := !dropped.isEmpty || s.arr.disputes.any (fun d => d.step == some s.stepNow)
  let s := s.dropRuns (fun m => gone.contains m)
  let s := { s with
    sch := { s.sch with
      dxDone := []
      inflight := s.sch.inflight.filter (fun i => !gone.contains i.id)
      queues := s.sch.queues.map (fun x => (x.1, { x.2 with
        chain := x.2.chain.filter (fun m => !gone.contains m)
        recent := x.2.recent.filter (fun r => !gone.contains r.2.1) })) }
    units := { s.units with
      ftq := s.units.ftq.filter (fun m => !gone.contains m.1)
      unsettled := s.units.unsettled.filter (fun u => !gone.contains u.2.2) }
    poison := s.poison.filter (fun p => match p.2.2 with
      | some id => !gone.contains id
      | none => true)
    pass := { s.pass with ckptIds := s.pass.ckptIds.filter (fun m => !gone.contains m) } }
  let unit := match dropped with
    | u :: _ => unitNo u.1 u.2.1
    | [] => unitDevice
  if lost then s.ev 0x5108 unit 0 0 else s

/-- The step in progress is withdrawn: admission stops, and nothing of it stays (R28, R153, R225). A rank that has not
launched it yet only drops the blocks that came for it. -/
def State.withdraw (s : State) : State :=
  let s := s.dropEarly
  if !s.pass.launched then s
  else
    let s := s.withdrawInsts
    let s := s.arrVeto
    let s := (s.releaseValley false).refreshDefer
    let s := { s with
      pass := { s.pass with
        launched := false, fail := none, request := 0, passes := 0, passId := none, readies := [], fails := [],
        failSent := false, ready := none } }
    s.colClear

/-- The account of a new attempt; that of the replays stays (R428). -/
def StepAcc.attempt (a : StepAcc) (now : Nat) (replay : Bool) (wide fallback : Bool) : StepAcc :=
  { attempts := if replay then a.attempts + 1 else 1, start := if replay then a.start else now,
    reason := if replay then a.reason else 0, wide := wide || (replay && a.wide), fallback := fallback,
    tIngest := if replay then 0 else a.tIngest, tReplay := if replay then a.tReplay else 0 }

/-- Every step-body queue starts over, enabled or not (R58): the storage of failed instructions is forgotten, and the
next fence covers from here (R263). -/
def State.rewindQueues (s : State) : State :=
  (List.range 64).foldl (fun t q =>
    if t.fb (F.schQCfgStep q) then
      let size := 2 ^ t.f (F.schQCfgLog2size q)
      ((t.setF (F.schQPtrHead q) (t.f (F.schQLoopStart q) % size)).setF (F.schQPtrTail q)
        (t.f (F.schQLoopEnd q) % size)).putQst q { t.qst q with
          failed := [], chain := [], recent := [], fenceFrom := t.sch.nextId, fenceBad := false }
    else t) s

/-- Every step-body queue has reached its END (R221). -/
def State.bodyEmpty (s : State) : Bool := s.bodyAdmitted

/-- The step body is launched (R58, R82, R102, R139, R168, R189, R201, R203, R221, R228, R299): `replay` for the same
step again. -/
def State.launch (s : State) (replay : Bool) : State :=
  let s := (s.clearStepTokens).rewindQueues.releaseValley false
  let s := { s with sch := { s.sch with dxDone := [] } }
  let s := s.applyQuotas.applyUpdates.arrLaunch
  let fb := s.arr.layers.any (fun x => x.2.fallback)
  let p := s.pass
  let s := { s with
    pass := { p with
      launched := true, fail := p.statePending.map (fun d => (rsnState, d)), request := 0,
      seed := p.nextSeed.getD p.seed, nextSeed := none, wide := p.nextWide, nextWide := false,
      passes := 0, passId := none, failSent := false, ready := none,
      digK := s.f F.colDigestCfgK, attemptAt := some s.aon }
    col := { s.col with probeAll := s.col.force, force := false }
    load := { s.load with seesawOpen := false }
    pup := { s.pup with acc := s.pup.acc.attempt s.aon replay p.nextWide fb, next := .none } }
  let s := (s.setF F.colPassStatusState 1).setF F.grdDeferPeak 0
  let s := (s.setF F.memValleyStateInplace 0).progress
  let s := { s.setF F.vecFtqPeak s.units.ftq.length with val := { s.val with prefetch := min 16 (s.f F.memValleyCfgPrefetch) } }
  let s := if s.tablePoisoned then s.failCheck rsnProgram (schedDetail + eccCode) else s
  if s.bodyEmpty then s.failCheck rsnProgram schedDetail else s

/-! ### COMMIT and VETO -/

/-- The batch slot of the step in progress, and with it the cursor after it (R308). -/
def State.slotNow (s : State) : BatchSlot := if s.pup.current = 0 then s.pup.slot0 else s.pup.slot1

/-- The slot of the step in progress is released (R18, R28). -/
def State.releaseSlot (s : State) : State :=
  let x := s.slotNow
  if x.state ≠ .present ∨ !s.pup.mine then s
  else
    let p := { s.pup with keepFrom := x.cursor + 1, mine := false }
    { s with pup := if p.current = 0 then { p with slot0 := {} } else { p with slot1 := {} } }

/-- KEEP as R308 gives it, shown and written to the ring's header. -/
def State.setKeep (s : State) : State :=
  let g := s.f F.colCkptStatusGlobal
  let k := if s.fb F.schIngestCfgSafe && g != noCkpt then
      (match s.areaOf g with
        | some a => s.hdr 1 (s.areaAddr a) 40 8
        | none => s.f F.schIngestKeep)
    else s.pup.keepFrom
  if k = s.f F.schIngestKeep then s
  else (s.setF F.schIngestKeep k).wrNat 2 (s.f F.schIngestBase + 16) 8 k

/-- The step after an answer waits for SETTLE (R226, R303). -/
def State.startSettle (s : State) : State :=
  let d := max 1 (s.f F.colPassCfgSettle)
  { s with
    col := { s.col with settleAt := s.aon + d }
    pup := { s.pup with settled := false, waitFrom := none, stallSeen := false } }

/-- The loop after a step has ended: STOPPING and the limit end it, else the next step follows (R302). A
LOOP_STOP command is done then. -/
def State.loopOn (s : State) : State :=
  let st := s.f F.schLoopState
  let limit := s.f F.schLoopStepLimit
  if st = 2 ∨ (st = 1 ∧ (!s.fb F.schCtrlRun ∨ (0 < limit ∧ limit ≤ s.c))) then
    let s := { s with pup := { s.pup with next := .none } }
    let s := s.setF F.schLoopState 0
    match s.pup.cmd with
    | some c => if c.cmd = 2 then s.endCmd 0 0 else s
    | none => s
  else if st = 1 then { s with pup := { s.pup with next := .next } }
  else s

/-- The loop has been stopped (R227, R302): a LOOP_STOP that waits ends with BAD_STATE. -/
def State.loopStopped (s : State) (reason : Nat) : State :=
  let s := (s.setF F.schLoopState 3).setF F.schLoopReason reason
  let s := { s with pup := { s.pup with next := .none } }
  match s.pup.cmd with
  | some c => if c.cmd = 2 then s.endCmd 1 0 else s
  | none => s

end Sys2Proof.Machine
end

