-- ==== Sys2Proof/Machine/Answer.lean ====
section
/-! DEFINITION. Deciding a step (R218 to R224): COL.PASS, READY, FAIL, the root's answer, and COMMIT
(R26, R27, R212, R245). -/

namespace Sys2Proof.Machine

/-! ### Pass states and messages -/

/-- States of a rank (R228). -/
def psIdle : Nat := 0
def psRun : Nat := 1
def psReady : Nat := 2
def psFailed : Nat := 3
def psRecover : Nat := 4
def psFrozen : Nat := 5
def psRestore : Nat := 6
def psStopped : Nat := 7

/-- COL.PASS_STATUS.STATE, read and set. -/
def State.passState (s : State) : Nat := s.f F.colPassStatusState
def State.setPst (s : State) (k : Nat) : State := s.setF F.colPassStatusState k

/-- A message of this rank with its STEP, BCSTEP and VERSION. -/
def State.msg (s : State) (type : Nat) : CtlMsg :=
  { type := type, step := s.stepNow, bcstep := s.bcNow, version := s.version, origin := s.me }

/-- The least of two CKPT values; none ranks below every step (R220). -/
def lessCkpt (a b : Nat) : Nat := if a = noCkpt ∨ b = noCkpt then noCkpt else min a b

/-- The largest of two CKPT values (R219, CLEAR). -/
def moreCkpt (a b : Nat) : Nat := if a = noCkpt then b else if b = noCkpt then a else max a b

/-- Two READY combined (R220). -/
def CtlMsg.combine (a b : CtlMsg) : CtlMsg :=
  { a with nf := a.nf || b.nf, ov := a.ov || b.ov, mon := max a.mon b.mon, count := a.count + b.count,
           ckpt := lessCkpt a.ckpt b.ckpt }

/-! ### The monitor at the pass (R137, R138) -/

/-- Forward jumps that request a veto: layer, action and norm. -/
def State.fwdRequests (s : State) : List (Nat × Nat × Nat) :=
  s.arr.layers.filterMap (fun x => match s.fwdJump x.2 with
    | none => none
    | some v => if 2 ≤ s.fwdAction x.2 then some (x.1, s.fwdAction x.2, v) else none)

/-- Gradient jumps: bucket and norm. -/
def State.gradJumps (s : State) : List (Nat × Nat) :=
  s.col.ends.filterMap (fun e => match e.norm with
    | .none => none
    | .nonFinite => none
    | .f32 v =>
      let m := (mget e.b s.col.mon).getD (0, 0)
      if s.fb F.arrMonCfgGradEn && s.jumps v m.1 m.2 then some (e.b, v) else none)

/-- The strongest monitor request of the rank: 2 VETO_WIDE, 3 SKIP. -/
def State.ownMon (s : State) : Nat :=
  let a := s.f F.arrMonCfgGradAction
  max (s.fwdRequests.foldl (fun a x => max a x.2.1) 0) (if 2 ≤ a ∧ !s.gradJumps.isEmpty then a else 0)

/-- The jumps of the step take their actions, whatever the pass answers: the rank's values stand when its READY leaves
(R137, R138). -/
def State.noteJumps (s : State) : State :=
  let t := s.arr.layers.foldl (fun t x => t.noteJump x.1 x.2) s
  s.gradJumps.foldl (fun t x =>
    t.ev 0x100e unitNet (x.1 + 2 ^ 31) (x.2 * 2 ^ 32 + ((mget x.1 s.col.mon).getD (0, 0)).1)) t

/-! ### COL.PASS -/

/-- COL.PASS (R220, R221, R297): the rank's pass begins; with the veto operand the rank reports REQUEST. -/
def execColPass (id : Nat) (s : State) : Host.Outcome State Fault Refusal :=
  s.start 0x7001 id (fun i =>
    let st := firstFail [(!i.code.flag 3 || i.code.imm0 % 4 != 3, stImmInvalid), (i.step.isSome, stNotPermitted)]
    if st ≠ stOk then s.fails i st
    else
      let s := s.putInst { i with phase := .running }
      let s := s.modPass (fun p => { p with passId := some id, request := i.code.imm0 % 4 })
      if i.code.flag 3 then s.failCheck rsnRequest schedDetail else s)

/-! ### READY -/

/-- A parameter lies in a bucket of the step. -/
def State.inBucket (s : State) (p : Nat) : Bool :=
  s.col.ends.any (fun e =>
    let a := (s.upd e.layer).base + e.first
    decide (a ≤ p) && decide (p < a + e.count))

/-- Parameters in no bucket are copied from the committed into the shadow epoch (R212). -/
def State.copyUnbucketed (s : State) : State :=
  let ps := (List.range s.load.params).filter (fun p => !s.inBucket p)
  let t := if ps.isEmpty then s else s.computeDigests
  let t := ps.foldl (fun t p => t.putShadow p (s.param false p)) t
  { t with seesaw := { t.seesaw with written := [(0, s.load.params)] } }

/-- An instruction of the step in progress that R26 and R147 wait for is still out. -/
def State.workLeft (s : State) : Bool :=
  s.sch.inflight.any (fun i => i.step == some s.stepNow &&
    (i.code.op == 0x5002 || (i.code.op == 0x7000 && i.phase != .done)))

/-- A check of the step is not settled. -/
def State.checksOut (s : State) : Bool :=
  let own (id : Nat) : Bool := match s.inst id with
    | none => false
    | some i => i.step == some s.stepNow
  s.units.unsettled.any (fun u => own u.2.2) || s.arr.disputes.any (fun d => d.step == some s.stepNow)

/-- The rank's conditions for READY (R26, R147, R220). -/
def State.readyDue (s : State) : Bool :=
  s.pass.launched && s.passState == psRun && s.pass.passId.isSome && s.pass.ready.isNone &&
  s.pass.fail.isNone && s.bodyAdmitted && s.col.buckets.isEmpty && !s.workLeft && !s.checksOut &&
  s.children.all (fun c => (mget c s.pass.readies).isSome)

/-- The rank's own READY (R219, R220). -/
def State.ownReady (s : State) : CtlMsg :=
  { s.msg 1 with
      mon := s.ownMon, nf := s.col.ends.any (fun e => e.nf), ov := s.col.ends.any (fun e => e.ov),
      count := 1, ckpt := s.f F.colCkptStatusLocal }

/-! ### The root's answer (R222, R223) -/

/-- READYs that the root holds: the combined one, or those of its children. -/
def State.heldReadies (s : State) : List CtlMsg :=
  match s.pass.ready with
  | some m => [m]
  | none => s.pass.readies.map (fun x => x.2)

/-- A reason is among those the root holds. -/
def State.holdsReason (s : State) (r : Nat) : Bool :=
  s.pass.fails.any (fun m => m.reason == r) ||
  (r == rsnTable && (match s.pass.ready with
    | none => false
    | some m => m.count != s.n)) ||
  (r == rsnNonfinite && s.heldReadies.any (fun m => m.nf)) ||
  (r == rsnOverflow && s.heldReadies.any (fun m => m.ov)) ||
  (r == rsnMonitor && s.heldReadies.any (fun m => decide (2 ≤ m.mon))) ||
  (r == rsnDigest && s.pass.digBad)

/-- SKIP or STOP of a register: values other than 2 act as 1. -/
def skipOrStop (v : Nat) : Nat := if v = 2 then 2 else 1

/-- The policy of a reason, and WIDE (R223). -/
def State.policyOf (s : State) (r : Nat) : Nat × Bool :=
  let mon := s.heldReadies.foldl (fun a m => max a m.mon) 0
  if r = rsnNonfinite then (skipOrStop (s.f F.colPassCfgNfPolicy), false)
  else if r = rsnOverflow then (skipOrStop (s.f F.colPassCfgOvPolicy), false)
  else if r = rsnBucket ∨ r = rsnProgram ∨ r = rsnTable then (2, false)
  else if r = rsnMonitor then (if mon = 3 then (1, false) else (0, true))
  else if r = rsnState then (3, false)
  else if r = rsnDigest then (if s.fb F.colDigestCfgAction then (2, false) else (3, false))
  else if r = rsnRequest then
    (match s.pass.fails.find? (fun m => m.reason == r) with
      | some m => (m.policy, false)
      | none => (0, false))
  else (0, false)

/-- The answer stands at the root and goes to its children, from where it goes on (R222). -/
def State.answerWith (s : State) (m : CtlMsg) : State :=
  (s.modPass (fun p => { p with answer := some m })).sendAll s.children m

/-- The root's VETO for a reason (R222, R223). -/
def State.answerVeto (s : State) (r : Nat) : State :=
  let pw := s.policyOf r
  let step := s.stepNow
  let n := (if s.pass.vetoStep = step then s.pass.vetoes else 0) + 1
  let beyond := pw.1 == 0 && decide (max 1 (s.f F.colPassCfgReplayLimit) < n)
  let cause := (s.pass.fails.find? (fun m => m.reason == r)).getD {}
  let s := if pw.1 = 0 then s.modPass (fun p => { p with vetoes := n, vetoStep := step }) else s
  let s := if r = rsnDigest then s.modPass (fun p => { p with digBad := false }) else s
  let s := if beyond then s.ev 0x5102 unitPuppeteer step 0 else s
  s.answerWith { s.msg 4 with
    reason := r, policy := if beyond then 2 else pw.1, wide := pw.2 && !beyond,
    replays := if pw.1 = 0 then min 255 n else 0, origin := cause.origin, detail := cause.detail }

/-- The root's VETO with reason STATE and policy STOP (R459). -/
def State.answerNoCkpt (s : State) : State :=
  s.answerWith { s.msg 4 with reason := rsnState, policy := 2 }

/-- Spares that this rank forwards TABLE to, and the COMMIT after it (R245): those it exchanges heartbeats
with, and the new entry when it will be one. -/
def State.tableDests (s : State) (t : CtlMsg) : List Nat :=
  let new := if (t.subject - s.n) % s.n = s.me ∧ s.n ≤ t.subject then [t.detail] else []
  (s.beatPartners.map s.rankFabric ++ new).dedup

/-- A message sent to devices by FABRIC_ID. -/
def State.sendTo (s : State) (ds : List Nat) (m : CtlMsg) : State :=
  ds.foldl (fun t d => t.originate { tc := 0, dest := d, pay := .ctl m }) s

/-- The root sends the TABLE of the oldest device that asked to join, with the entry that its JOINED named, before a COMMIT
(R245). -/
def State.rideTable (s : State) : State :=
  match s.pass.joins with
  | [] => s
  | j :: rest =>
    let t : CtlMsg := { s.msg 15 with
      version := s.version + 1, subject := j.2.2, detail := j.1, digest := [j.2.1, 0, 0, 0] }
    let s := s.modPass (fun p => { p with joins := rest, table := some t })
    (s.sendAll s.children t).sendTo (s.tableDests t) t

/-- The root's COMMIT. -/
def State.answerCommit (s : State) (m : CtlMsg) : State :=
  let s := s.rideTable
  s.answerWith { s.msg 3 with ckpt := m.ckpt }

/-- The root answers once it holds a FAIL, or a READY with its own included (R222). -/
def State.passAnswer (s : State) : State :=
  if !s.isRoot || s.pass.answer.isSome || (s.pass.fails.isEmpty && s.pass.ready.isNone) then s
  else if s.pass.recover then
    (if s.pass.fails.any (fun m => m.reason == rsnState) then s.answerNoCkpt else s)
  else match reasonOrder.find? s.holdsReason with
    | some r => s.answerVeto r
    | none => (match s.pass.ready with
      | some m => s.answerCommit m
      | none => s)

/-- READY_SEND (R220): READY climbs, or the root answers; a child of another STEP, BCSTEP or VERSION is a
failed check. -/
def execReadySend (s : State) : Host.Outcome State Fault Refusal :=
  if !s.readyDue then .next s
  else if s.tablePoisoned then .next (s.failCheck rsnProgram (netDetail + eccCode))
  else
    let ms := s.pass.readies.map (fun x => x.2)
    if ms.any (fun m => m.version != s.version) then .next (s.failCheck rsnTable netDetail)
    else if ms.any (fun m => m.step != s.stepNow || m.bcstep != s.bcNow) then
      .next (s.failCheck rsnCounter netDetail)
    else
      let m := ms.foldl CtlMsg.combine s.ownReady
      let s := s.copyUnbucketed.noteJumps
      let s := (s.modPass (fun p => { p with ready := some m })).setPst psReady
      .next (match s.parent with
        | some r => s.sendCtl r m
        | none => s.passAnswer)

/-- A rank takes READY and FAIL of its children: it is not recovering or stopped. -/
def State.takesReady (s : State) : Bool := decide (s.passState ≤ psFailed)

/-- READY (R220): a child's READY arrives and is held until the rank's own leaves. -/
def execReady (from_ : Nat) (m : CtlMsg) (s : State) : Host.Outcome State Fault Refusal :=
  if m.type ≠ 1 ∨ !s.children.contains from_ ∨ !s.takesReady then .next s
  else .next (s.modPass (fun p => { p with readies := mput from_ m p.readies })).passAnswer

/-- A FAIL goes to the parent, or is held at the root (R221). The rank's own always goes; of those of its children the first
of the step, and then one whose reason comes before those forwarded. -/
def State.passFail (s : State) (own : Bool) (m : CtlMsg) : State :=
  let first := s.pass.fails.all (fun x => decide (reasonRank m.reason < reasonRank x.reason))
  let t := s.modPass (fun p => { p with fails := p.fails ++ [m] })
  match s.parent with
  | some r => if own then s.sendCtl r m else if first then t.sendCtl r m else s
  | none => t.passAnswer

/-- The FAIL of this rank (R219). -/
def State.ownFail (s : State) (x : Nat × Nat) : CtlMsg :=
  { s.msg 2 with reason := x.1, detail := x.2, policy := if x.1 = rsnRequest then s.pass.request else 0 }

/-- The rank has been told to roll back: only a FAIL with reason STATE still matters (R459). -/
def State.takesState (s : State) : Bool :=
  s.passState == psRestore || (match s.pass.answer with
    | none => false
    | some m => m.type == 7)

/-- FAIL (R221): a child's FAIL is forwarded at once, or answered at the root; with the rank's own number
the rank sends the FAIL it has to report. -/
def execFail (from_ : Nat) (m : CtlMsg) (s : State) : Host.Outcome State Fault Refusal :=
  if from_ = s.me then
    (match s.pass.fail with
      | none => .next s
      | some x =>
        if s.pass.failSent then .next s
        else
          let t := s.modPass (fun p => { p with failSent := true })
          let t := if t.takesReady then t.setPst psFailed else t
          .next (t.passFail true (s.ownFail x)))
  else if m.type ≠ 2 ∨ !s.children.contains from_ ∨ !(s.takesReady || (s.takesState && m.reason == rsnState)) then .next s
  else .next (s.passFail false m)

/-! ### STOPPED (R227, R240) -/

/-- The answer is taken: what the rank held for it goes. -/
def State.dropAnswer (s : State) : State :=
  s.modPass (fun p => { p with answer := none, readies := [], fails := [], ready := none, table := none })

/-- The rank enters STOPPED and its loop with it: nothing of the committed state moves (R227, R302); a comparison in
progress is dropped (R236). -/
def State.enterStopped (s : State) (reason : Nat) : State :=
  let s := (s.withdraw.dropAnswer.dropDigests.setPst psStopped).modPass (fun p => { p with
    recover := false, clears := [], clearSent := false, stage := 0, policy := 0, fail := none, failSent := false })
  s.loopStopped reason

/-- A device that is itself named as failed (R240). -/
def State.selfFailed (s : State) : State := (s.enterStopped 0).ev 0x510b unitPuppeteer s.version 0

/-- The table in use lists the device's own entry as FAILED (R240). -/
def State.listedFailed (s : State) : Bool := s.load.loaded && s.rankState (s.f F.schRankRank) == 2

/-- A VERSION has been taken: a device that it lists as FAILED stops (R240). -/
def State.minded (s : State) : State := if s.listedFailed && s.passState != psStopped then s.selfFailed else s

/-! ### COMMIT (R27) -/

/-- The new entry of a TABLE is written: a FAILED entry of the device becomes VACANT, VERSION is set, and
the device itself learns its rank (R245). -/
def State.applyTable (s : State) : State :=
  match s.pass.table with
  | none => s
  | some t =>
    let tag := nth t.digest 0
    let old := s.allRanks.filter (fun r => s.rankState r == 2 && s.rankFabric r == t.detail && s.rankTag r == tag)
    let s := old.foldl (fun s r => s.wrNat 1 (s.rankAddr r + 4) 1 3) s
    let s := (s.putRank t.subject t.detail 1 tag).setVersion t.version
    let s := s.modPass (fun p => { p with table := none })
    if s.myId = t.detail then (s.setF F.schRankRank t.subject).setF F.schRankValid 1 else s

/-- Frames left PRESENT at a COMMIT are reported (R153). -/
def State.noteLeftover (s : State) : State :=
  let n := s.val.frames.countP (fun f => f.2.state == .present)
  if 0 < n then s.ev 0xb003 unitSched n 0 else s

/-- COL.PASS completes with the step and G (R220, R258). -/
def State.passDone (s : State) (step g : Nat) : State :=
  match s.pass.passId with
  | none => s
  | some id => s.modInst id (fun i => i.finish 0 0 (step + g * 2 ^ 32))

/-- The pass of the step is beyond. -/
def State.passOver (s : State) : State :=
  s.modPass (fun p => { p with
    launched := false, fail := none, request := 0, passes := 0, passId := none, readies := [], fails := [],
    failSent := false, ready := none, answer := none, vetoes := 0 })

/-- COMMIT on this rank, in the order of R27. -/
def State.commitStep (s : State) (m : CtlMsg) : State :=
  let step := s.stepNow
  let bc := s.bcNow
  let rec_ := s.stepRecord 0
  let s := (s.setF F.colCkptStatusGlobal m.ckpt).passDone step m.ckpt
  let s := s.writePointer step (1 - s.f F.colEpochSel)
  let s := s.colCommit
  let s := (s.setF F.colCountersStep step).setF F.colCountersBcstep bc
  let s := s.setF F.memValleyPeak s.val.peak
  let s := (s.releaseSlot.noteLeftover).releaseValley true
  let s := { s with sch := { s.sch with dxDone := [] } }
  let s := (s.putRecord 0 rec_).straggle
  let s := s.arrCommit.colClear.applyTable
  let s := (s.passOver).setPst psIdle
  ((s.startSettle.scheduleAfter step).setKeep.loopOn).minded

/-- COMMIT (R27): forwarded before the rank acts on it; a spare only takes the TABLE that rides on it
(R245). -/
def execCommit (m : CtlMsg) (s : State) : Host.Outcome State Fault Refusal :=
  if m.type ≠ 3 ∨ !s.load.loaded then .next s
  else if !s.isActive then .next s.applyTable.minded
  else if s.isRoot then
    (if s.pass.answer = some m then
      .next ((match s.pass.table with
        | none => s
        | some t => s.sendTo (s.tableDests t) m).commitStep m)
     else .next s)
  else if s.passState = psReady then
    let t := s.sendAll s.children m
    .next ((match s.pass.table with
      | none => t
      | some x => t.sendTo (t.tableDests x) m).commitStep m)
  else .next s

end Sys2Proof.Machine
end

