-- ==== Sys2Proof/Machine/Recover.lean ====
section
/-! DEFINITION. What follows a VETO (R223 to R228): fences, CLEAR, RESUME, rollback (R241, R459), and the
restore of a spare (R242, R244). -/

namespace Sys2Proof.Machine

/-! ### Fences and CLEAR (R226, R330) -/

/-- A port begins its fence: it is complete at once when the partner's has arrived before. -/
def Port.beginFence (x : Port) : Port :=
  if x.fenceIn then { x with fencing := false, fenceIn := false } else { x with fencing := true }

/-- The step fence on every port that keeps its blocks. -/
def State.sendFences (s : State) (step : Nat) : State :=
  allPorts.foldl (fun t p =>
    if t.portKept p then
      (t.modPort p Port.beginFence).originate {
        tc := 1, dest := t.f (F.fabPPartnerFabricId p), pay := .fence step t.version, port := some p }
    else t) s

/-- Every fence is complete. -/
def State.fencesDone (s : State) : Bool := allPorts.all (fun p => !(s.port p).fencing)

/-- A recovery begins: fences leave on every port, unless they have left for this withdrawal already, and
CLEAR is owed (R226, R240). -/
def State.startRecovery (s : State) (policy step : Nat) : State :=
  let t := s.modPass (fun p => { p with recover := true, clearSent := false, policy := policy, stage := 0 })
  if s.pass.recover then t else t.sendFences step

/-- A CLEAR of every child has arrived with a DETAIL. -/
def State.childrenClear (s : State) (detail : Nat) : Bool :=
  s.children.all (fun c => s.pass.clears.any (fun x => x.1 == c && x.2.1 == detail))

/-- This rank's CLEAR, with those of its children combined. -/
def State.clearMsg (s : State) (detail : Nat) : CtlMsg :=
  let xs := s.pass.clears.filter (fun x => x.2.1 == detail)
  { s.msg 5 with
      detail := detail, count := 1 + (xs.map (fun x => x.2.2.1)).sum,
      ckpt := if detail = 0 then xs.foldl (fun a x => moreCkpt a x.2.2.2) (s.f F.colCkptStatusGlobal) else noCkpt }

/-- The root's RESUME (R226, R242). -/
def State.answerResume (s : State) : State :=
  s.answerWith { s.msg 6 with bcstep := s.bc, wide := s.pass.policy == 0 && s.pass.nextWide }

/-- At the root CLEAR is complete: RESUME, or ROLLBACK to the largest G held (R226, R459). -/
def State.rootClear (s : State) (m : CtlMsg) : State :=
  if m.count ≠ s.n then s
  else if m.detail = 1 ∨ s.pass.policy ≤ 1 then s.answerResume
  else if m.ckpt = noCkpt then s.answerNoCkpt
  else s.answerWith { s.msg 7 with step := m.ckpt }

/-- The rank's own part of a CLEAR is done: fences, and with DETAIL 1 its restore. A frozen rank waits for the
TAKEOVER that says who stands where (R242). -/
def State.clearReady (s : State) (detail : Nat) : Bool :=
  if detail = 0 then
    s.pass.recover && !s.pass.clearSent && s.fencesDone &&
    (s.passState != psFrozen || (s.pass.tko.version != 0 && !s.pass.tko.waits &&
      s.pass.tko.failed.all (fun f => s.pass.tko.assigns.any (fun a => a.1 == f))))
  else s.pass.recover && s.pass.stage == 3

/-- CLEAR goes up, or the root acts on it, once the rank's own part is done and its children's have
arrived. -/
def State.tryClear (s : State) (detail : Nat) : State :=
  if !s.clearReady detail || !s.childrenClear detail || !s.isActive then s
  else
    let m := s.clearMsg detail
    let t := s.modPass (fun p => { p with
      clearSent := true, stage := if detail = 1 then 4 else p.stage,
      clears := p.clears.filter (fun x => x.2.1 != detail) })
    match s.parent with
    | some r => t.sendCtl r m
    | none => t.rootClear m

/-- Both CLEARs. -/
def State.tryClears (s : State) : State := (s.tryClear 0).tryClear 1

/-- CLEAR (R226, R242): a child's CLEAR arrives. -/
def execClear (from_ : Nat) (m : CtlMsg) (s : State) : Host.Outcome State Fault Refusal :=
  if m.type ≠ 5 ∨ !s.children.contains from_ ∨ 1 < m.detail then .next s
  else
    let keep (x : Nat × Nat × Nat × Nat) : Bool := x.1 != from_ || x.2.1 != m.detail
    .next (s.modPass (fun p => { p with
      clears := p.clears.filter keep ++ [(from_, m.detail, m.count, m.ckpt)] })).tryClears

/-! ### VETO (R28, R223 to R227) -/

/-- A VETO with reason COUNTER resynchronizes the counters (R224). -/
def State.resync (s : State) (m : CtlMsg) : State :=
  if m.reason ≠ rsnCounter then s
  else
    let c := m.step - 1
    let b := m.bcstep - 1
    if s.c = c ∧ s.bc = b then s
    else ((s.setF F.colCountersStep c).setF F.colCountersBcstep b).ev 0x5103 unitPuppeteer s.c c

/-- COL.PASS_STATUS and COL.CHECKS show a VETO, and EV_PASS_VETO tells of it (R222, R247). -/
def State.noteVeto (s : State) (m : CtlMsg) : State :=
  let s := ((s.setF F.colPassStatusLastReason m.reason).setF F.colPassStatusLastPolicy m.policy).setF
    F.colPassStatusReplays m.replays
  let s := { s with pup := { s.pup with acc := { s.pup.acc with reason := m.reason } } }
  (s.addF F.colChecksVetoes 1).ev 0x5101 unitPuppeteer (m.reason + m.policy * 256 + m.replays * 65536)
    (m.origin * 2 ^ 32 + m.detail)

/-- A VETO with policy STOP stops the rank (R227). -/
def State.passStop (s : State) (reason : Nat) : State := (s.enterStopped reason).ev 0x5104 unitPuppeteer reason 0

/-- What the loop launches after a REPLAY: the same step, unless RUN is 0, which ends the loop with the
batch held (R87, R303). -/
def State.replayNext (s : State) (wide : Bool) : State :=
  let st := s.f F.schLoopState
  if st = 1 ∨ st = 2 then
    (if s.fb F.schCtrlRun then
      (s.modPass (fun p => { p with nextWide := wide })).modPup (fun p => { p with next := .replay })
    else s.loopOn)
  else s.modPass (fun p => { p with nextWide := wide })

/-- The reprogramming of R241 stops where it stands: the tiles it has not finished stay unsealed (R459). -/
def State.haltPrograms (s : State) : State :=
  s.modTiles (fun x => match x.batch with
    | none => x
    | some b => if b.kind = .program && !b.renew then { x with batch := none, sealed := false } else x)

/-- A VETO on this rank; REASON of the loop is 0x80 for a program error or a stall (R315). -/
def State.vetoStep (s : State) (m : CtlMsg) : State :=
  let step := s.stepNow
  let late := s.pass.recover
  let restoring := s.passState == psRestore && s.pass.stage == 2
  let s := s.noteVeto m
  if m.policy = 2 then
    let err := m.reason = rsnProgram ∧ (m.detail % 65536 = 0x22 ∨ m.detail % 65536 = 0x23)
    let s := (s.writeRecord 2).passStop m.reason
    let s := if err then s.setF F.schLoopReason 0x80 else s
    let s := if late then (if restoring then s.haltPrograms else s).setF F.colRecoveryPhase 3 else s
    if late then s.ev 0x510d unitPuppeteer (s.f F.colRecoveryFailed) 0 else s
  else
    let s := if m.policy = 1 then
        (let t := s.writeRecord 1
         (if m.reason = rsnNonfinite then t.lowerK else t).releaseSlot)
      else s
    let s := (s.withdraw.dropAnswer.resync m)
    let s := if m.policy = 0 then s.replayNext m.wide
      else if m.policy = 1 then (s.modPass (fun p => { p with vetoes := 0 })).setKeep.loopOn
      else s
    ((s.setPst psRecover).startRecovery m.policy step).tryClears

/-- VETO (R28, R222): forwarded before the rank acts on it. While the rank recovers it can only be the STOP of
R459. -/
def execVeto (m : CtlMsg) (s : State) : Host.Outcome State Fault Refusal :=
  if m.type ≠ 4 ∨ !s.isActive ∨ s.passState = psStopped ∨ (s.pass.recover ∧ m.policy ≠ 2) then .next s
  else if s.isRoot then (if s.pass.answer = some m then .next (s.vetoStep m) else .next s)
  else .next ((s.sendAll s.children m).vetoStep m)

/-! ### RESUME -/

/-- Nothing of a recovery is left. -/
def State.recovered (s : State) : State :=
  let s := s.modPass (fun p => { p with
    recover := false, clears := [], clearSent := false, policy := 0, stage := 0, tko := {}, tookOver := false, answer := none,
    fail := none, failSent := false, vetoes := if s.stepNow = p.vetoStep then p.vetoes else 0 })
  (((s.setF F.colRecoveryPhase 0).setF F.colRecoverySpare 0xffff).setF F.colRecoveryFailed 0xffff).setF
    F.colRecoveryLeader 0xffff

/-- An attempt that ended in a REPLAY ran until its RESUME (R311). -/
def State.noteAttempt (s : State) : State :=
  match s.pass.attemptAt with
  | none => s
  | some t =>
    let ticks := if s.pass.policy = 0 then s.aon - t else 0
    (s.modPup (fun p => { p with acc := { p.acc with tReplay := p.acc.tReplay + ticks } })).modPass (fun p => { p with
      attemptAt := none })

/-- RESUME on this rank: it goes on with the step named, after SETTLE (R226, R302, R303). -/
def State.resumeStep (s : State) (m : CtlMsg) : State :=
  let stood := s.pass.tookOver
  let rollback := decide (2 ≤ s.pass.policy)
  let s := s.noteAttempt.setF F.colCountersBcstep m.bcstep
  let s := (s.recovered.setPst psRun).startSettle
  let s := if stood then s.setF F.schLoopState 1 else s
  if rollback then
    (if 1 ≤ s.f F.schLoopState ∧ s.f F.schLoopState ≤ 2 ∧ s.fb F.schCtrlRun then
      s.modPup (fun p => { p with next := .next })
    else s.loopOn)
  else s.modPass (fun p => { p with nextWide := m.wide })

/-- RESUME (R226): forwarded before the rank acts on it. -/
def execResume (m : CtlMsg) (s : State) : Host.Outcome State Fault Refusal :=
  if m.type ≠ 6 ∨ !s.isActive ∨ !s.pass.recover then .next s
  else if s.isRoot then (if s.pass.answer = some m then .next (s.resumeStep m) else .next s)
  else .next ((s.sendAll s.children m).resumeStep m)

/-! ### ROLLBACK (R241, R242, R459) -/

/-- This device is the spare that stands in for a failed rank. -/
def State.standsIn (s : State) : Bool := s.pass.tko.assigns.any (fun a => a.2 == s.f F.schRankRank)

/-- No checkpoint passes its checks: the rank reports STATE in place of CLEAR (R459). -/
def State.failState (s : State) : State :=
  (s.putFail rsnState netDetail).modPass (fun p => { p with stage := 0 })

/-- The restored state is in place: the rank reprograms its tiles (R241). -/
def State.restored (s : State) : State :=
  s.modPass (fun p => { p with stage := 2 })

/-- The buddy area that holds the checkpoint of a step that this rank's own local EPOCH completes (R237). -/
def State.wardArea (s : State) (step : Nat) : Option Nat :=
  match s.areaOf step with
  | none => none
  | some own => [2, 3].find? (fun k =>
      s.ckptOk 1 (s.areaAddr k) (some step) &&
      s.rdBytes 1 (s.areaAddr k + 48) 32 == s.rdBytes 1 (s.areaAddr own + 48) 32)

/-- The header of a ward's checkpoint with the EPOCH entry that this rank's own section has. -/
def State.wardHeader (s : State) (k own : Nat) : List Byte :=
  let b := s.rdBytes 1 (s.areaAddr k) 256
  let h := b.take 84 ++ s.rdBytes 1 (s.areaAddr own + 84) 12 ++ b.drop 96
  h.take 36 ++ leBytes 4 (crc32c (h.take 36 ++ leBytes 4 0 ++ h.drop 40)) ++ h.drop 40

/-- The pieces that the buddy of a failed rank sends to its spare: its copy with the EPOCH of its own local
area (R242). Without a good copy it sends an empty header. -/
def State.wardPieces (s : State) (step : Nat) : List (Nat × List Byte) :=
  match s.wardArea step, s.areaOf step with
  | some k, some own =>
    (0, s.wardHeader k own) :: [1, 2, 3, 4, 5, 6].map (fun kind =>
      (s.sectionAt (kind - 1), (s.sectionOf 1 (s.areaAddr (if kind = 1 then own else k)) kind).getD []))
  | some _, none => [(0, List.replicate 256 0)]
  | none, some _ => [(0, List.replicate 256 0)]
  | none, none => [(0, List.replicate 256 0)]

/-- The stream that carries a checkpoint to a spare. -/
def spareStream : Nat := 2

/-- The copies that this rank, as the buddy of failed ranks, sends to their spares. -/
def State.sendWards (s : State) (step : Nat) : State :=
  (s.pass.tko.assigns.filter (fun a => (a.1 + s.n / 2) % s.n == s.me && a.1 != s.me)).foldl
    (fun t a => t.sendPieces a.1 spareStream (t.wardPieces step)) s

/-- The area that a copy from the buddy fills: not the one whose header names the target step, whose EPOCH may stand in for
the copy's (R244). -/
def State.fillArea (s : State) (step : Nat) : State :=
  s.modPass (fun p => { p with into := if s.areaStep 0 == some step then 1 else 0, ownEpoch := false })

/-- The local area that holds a valid checkpoint of `step`, if one does. -/
def State.soundArea (s : State) (step : Nat) : Option Nat :=
  [0, 1].find? (fun k => s.ckptOk 1 (s.areaAddr k) (some step) && !s.areaPoisoned k)

/-- A rank restores its local checkpoint of the target step. One whose own checkpoint holds an uncorrectable error waits for
its buddy's copy, as a spare does (R234); one that holds none reports it (R459). -/
def State.restoreLocal (s : State) (step : Nat) : State :=
  ((s.soundArea step).map (fun k => (s.restoreFrom 1 (s.areaAddr k) false).restored)).getD
    (if (s.areaPoisoned 0 || s.areaPoisoned 1) && decide (1 < s.n) then s.fillArea step else s.failState)

/-- ROLLBACK on this rank. Comparisons and checkpoints in progress are abandoned (R246). -/
def State.rollbackStep (s : State) (m : CtlMsg) : State :=
  let s := (s.abandonCkpts.setPst psRestore).setF F.colRecoveryPhase 2
  let s := (s.setF F.colCkptStatusGlobal m.step).setF F.colCkptStatusLocal m.step
  let s := s.modPass (fun p => { p with target := m.step, answer := none, stage := 1, clears := [] })
  let s := s.sendWards m.step
  let s := if s.standsIn then s.fillArea m.step else s.restoreLocal m.step
  s.passAnswer

/-- ROLLBACK (R241, R459): forwarded before the rank acts on it. -/
def execRollback (m : CtlMsg) (s : State) : Host.Outcome State Fault Refusal :=
  if m.type ≠ 7 ∨ !s.isActive ∨ !s.pass.recover ∨ s.passState = psRestore then .next s
  else if s.isRoot then (if s.pass.answer = some m then .next (s.rollbackStep m) else .next s)
  else .next ((s.sendAll s.children m).rollbackStep m)

/-- The rank waits for a copy of a checkpoint from a buddy: a spare, or a rank whose own is damaged (R234, R242). -/
def State.awaitsCopy (s : State) : Bool := s.passState == psRestore && s.pass.stage == 1

/-- The header of the copy has arrived: a spare whose own local EPOCH of the target step has the DIGEST of that header uses
it in place of the transfer (R244). -/
def State.useOwnEpoch (s : State) : State :=
  let a := s.areaAddr s.pass.into
  let o := s.areaAddr (1 - s.pass.into)
  if s.standsIn && s.headerOk 1 o && s.hdr 1 o 8 4 == s.pass.target && s.rdBytes 1 (o + 48) 32 == s.rdBytes 1 (a + 48) 32 then
    ((s.wrBytes 1 (a + s.sectionAt 0) ((s.sectionOf 1 o 1).getD [])).modPass (fun p => { p with ownEpoch := true })).ev
      0x510f unitPuppeteer s.myId s.pass.target
  else s

/-- A bulk block for the restore of this rank has been written into its area: with the header the checkpoint is
recognised, and with its last byte it is checked and restored (R242, R459). -/
def State.spareOn (s : State) (off len : Nat) : State :=
  let a := s.areaAddr s.pass.into
  let good := s.headerOk 1 a && s.hdr 1 a 8 4 == s.pass.target
  if off < 256 ∧ 256 ≤ off + len ∧ !good then s.failState
  else if !good then s
  else
    let s := if off < 256 ∧ 256 ≤ off + len then s.useOwnEpoch else s
    let last := s.sectionAt 5 + s.hdr 1 a (80 + 16 * 5 + 8) 8
    if off + len < last then s
    else if s.ckptOk 1 a (some s.pass.target) then (s.restoreFrom 1 a false).restored
    else s.failState

/-- A block of a copy that the rank awaits is written, but for an EPOCH that its own stands in for. -/
def State.takeCopy (s : State) (off : Nat) (data : List Byte) : State :=
  if s.pass.ownEpoch && decide (s.sectionAt 0 ≤ off) && decide (off < s.sectionAt 1) then s
  else (s.wrBytes 1 (s.areaAddr s.pass.into + off) data).spareOn off data.length

/-- The rank table after a takeover: each failed rank's entry and its spare's change places, and VERSION is the
one proposed (R242). -/
def State.rebind (s : State) : State :=
  let me := s.f F.schRankRank
  let swap (t : State) (a : Nat × Nat) : State :=
    let f := (t.rankFabric a.1, t.rankTag a.1)
    let x := (t.rankFabric a.2, t.rankTag a.2)
    let t := (t.putRank a.1 x.1 0 x.2).putRank a.2 f.1 2 f.2
    let t := t.modPass (fun p => { p with heard := mput a.1 t.aon p.heard })
    if me = a.2 then (t.setF F.schRankRank a.1).modPass (fun p => { p with tookOver := true }) else t
  let as := s.pass.tko.assigns
  if as.isEmpty then s
  else
    let s := (as.foldl swap s).setVersion s.pass.tko.version
    s.modPass (fun p => { p with tko := { p.tko with assigns := [] } })

/-- A tile still reprograms. -/
def State.reprogramming (s : State) : Bool := s.arr.tiles.any (fun x => x.2.batch.isSome)

/-- The step that a RESTORE_HOST restores (R310). -/
def State.restoring (s : State) : Option Nat :=
  match s.pup.cmd with
  | some c => if c.cmd = 4 then c.step else none
  | none => none

/-- ROLLBACK_COMPLETE (R241, R242, R310): the tiles are programmed; the epoch pointer is written with STEP = G, the
rank table is rebound, and CLEAR with DETAIL 1 is due. -/
def execRollbackComplete (s : State) : Host.Outcome State Fault Refusal :=
  if s.passState ≠ psRestore ∨ s.pass.stage ≠ 2 ∨ s.reprogramming then .next s
  else
    match s.restoring with
    | some step =>
      let t := (s.writePointer step (s.f F.colEpochSel)).setPst psIdle
      .next (((t.modPass (fun p => { p with stage := 0 })).setF F.schLoopState 0).endCmd 0 step)
    | none =>
    let t := (s.writePointer s.pass.target (s.f F.colEpochSel)).rebind
    .next ((t.modPass (fun p => { p with stage := 3 })).tryClears).minded

end Sys2Proof.Machine
end

