-- ==== Sys2Proof/Machine/Takeover.lean ====
section
/-! DEFINITION. Heartbeats (R239), failed ranks (R240, R331), takeover (R242, R243) and rejoin (R244,
R245). -/

namespace Sys2Proof.Machine

/-! ### Heartbeats (R239) -/

/-- Always-on ticks of 64 µs, and of three of them and 2 µs more. -/
def beatTicks : Nat := 200
def missTicks : Nat := 607

/-- A TC0 message of the device with a FABRIC_ID has arrived: it counts as a heartbeat (R239). -/
def State.hear (s : State) (fabric : Nat) : State :=
  match s.rankOf fabric with
  | none => s
  | some r => s.modPass (fun p => { p with heard := mput r s.aon p.heard })

/-- HEARTBEAT_SEND (R239). -/
def execHeartbeatSend (s : State) : Host.Outcome State Fault Refusal :=
  if !s.load.loaded ∨ s.aon < s.pass.beat + beatTicks then .next s
  else .next ((s.sendAll s.neighbours (s.msg 8)).modPass (fun p => { p with beat := s.aon }))

/-- HEARTBEAT (R239): a neighbour is heard. -/
def execHeartbeat (from_ : Nat) (m : CtlMsg) (s : State) : Host.Outcome State Fault Refusal :=
  if m.type ≠ 8 ∨ !s.neighbours.contains from_ then .next s
  else .next (s.modPass (fun p => { p with heard := mput from_ s.aon p.heard }))

/-! ### Failed ranks (R240, R331) -/

/-- The device of a FABRIC_ID has been declared failed. -/
def State.failedDevice (s : State) (fabric : Nat) : Bool :=
  s.load.loaded && s.allRanks.any (fun r => s.rankFabric r == fabric &&
    (s.rankState r == 2 || s.pass.tko.failed.contains r))

/-- The leader: the lowest active rank that has not been declared failed (R242). -/
def State.leader (s : State) : Option Nat := (List.range s.n).find? (fun r => !s.pass.tko.failed.contains r)

/-- This device leads the takeover; a spare that stands in does not. -/
def State.leads (s : State) : Bool := s.leader == some (s.f F.schRankRank)

/-- COL.RECOVERY shows the sequence (R247). -/
def State.showRecovery (s : State) : State :=
  (s.setF F.colRecoveryFailed (s.pass.tko.failed.head?.getD 0xffff)).setF F.colRecoveryLeader (s.leader.getD 0xffff)

/-- The first failed rank that no spare stands in for. -/
def State.unassigned (s : State) : Option Nat :=
  s.pass.tko.failed.find? (fun f => !s.pass.tko.assigns.any (fun a => a.1 == f))

/-- A failed rank whose buddy has failed too (R243). -/
def State.buddyLost (s : State) (f : Nat) : Bool := s.pass.tko.failed.contains ((f + s.n / 2) % s.n)

/-- The lowest SPARE entry that has not failed and stands in for no rank (R242). -/
def State.spareFor (s : State) : Option Nat :=
  s.allRanks.find? (fun r => decide (s.n ≤ r) && s.rankState r == 1 && !s.pass.tko.assigns.any (fun a => a.2 == r))

/-- The leader's next TAKEOVER: spares in ascending order for failed ranks in ascending order; without one, or
without the buddy's copy, SUBJECT is 0xffff (R242, R243). -/
def State.propose (s : State) : State :=
  if !s.leads || s.pass.tko.waits then s
  else match s.unassigned with
    | none => s
    | some f =>
      let sub := if s.buddyLost f then 0xffff else s.spareFor.getD 0xffff
      let m : CtlMsg := { s.msg 10 with
        origin := f, subject := sub, version := max s.version s.pass.tko.version + 1 }
      s.modPass (fun p => { p with tko := { p.tko with proposal := some m } })

/-- The rank freezes: the step in progress is abandoned, fences leave, and the takeover sequence starts, or
starts over at its step 3 (R240, R243, R246). -/
def State.freeze (s : State) : State :=
  let step := s.stepNow
  let s := (s.withdraw.dropAnswer).abandonCkpts
  let s := s.modPass (fun p => { p with tko := { p.tko with active := true, assigns := [], waits := false } })
  let s := (s.setPst psFrozen).setF F.colRecoveryPhase 1
  (s.startRecovery 4 step).showRecovery

/-- A number inserted into an ascending list. -/
def insertRank (r : Nat) : List Nat → List Nat
  | [] => [r]
  | x :: l => if r < x then r :: x :: l else if r = x then x :: l else x :: insertRank r l

/-- A rank or spare is declared failed (R240, R243). -/
def State.noteFailed (s : State) (f : Nat) : State :=
  if f = s.f F.schRankRank then s.selfFailed
  else if s.n ≤ f then
    let used := s.pass.tko.assigns.any (fun a => a.2 == f)
    let t := s.wrNat 1 (s.rankAddr f + 4) 1 2
    if used && s.passState != psStopped then t.freeze.propose else t
  else
    let t := s.modPass (fun p => { p with tko := { p.tko with failed := insertRank f p.tko.failed } })
    if s.passState = psStopped then t else t.freeze.propose

/-- The FAILNOTE of a failed rank. -/
def State.failMsg (s : State) (f : Nat) : CtlMsg := { s.msg 9 with origin := f }

/-- The pair of a failed rank and a VERSION is noted; each is flooded once (R239). -/
def State.noted (s : State) (f v : Nat) : State := s.modPass (fun p => { p with noted := p.noted ++ [(f, v)] })

/-- HEARTBEAT_MISS (R239): a neighbour that has been silent for three heartbeats is declared failed. -/
def execHeartbeatMiss (f : Nat) (s : State) : Host.Outcome State Fault Refusal :=
  if !s.load.loaded ∨ !s.neighbours.contains f ∨ s.aon < (mget f s.pass.heard).getD 0 + missTicks ∨
      s.pass.noted.contains (f, s.version) then .next s
  else .next (((s.noted f s.version).flood (s.failMsg f) none).noteFailed f)

/-- FAILNOTE (R239, R240): forwarded once, then the rank freezes, or a spare is marked, or the device is the
one named. -/
def execFailnote (from_ : Nat) (m : CtlMsg) (s : State) : Host.Outcome State Fault Refusal :=
  if m.type ≠ 9 ∨ !s.load.loaded ∨ s.pass.noted.contains (m.origin, m.version) then .next s
  else .next (((s.noted m.origin m.version).flood m (some from_)).noteFailed m.origin)

/-! ### TAKEOVER (R242, R243) -/

/-- The takeover stops for want of a spare or of a checkpoint (R243). -/
def State.takeoverStops (s : State) (f : Nat) : State :=
  let lost := s.buddyLost f
  let s := (s.enterStopped 0).setF F.colRecoveryPhase 3
  let s := s.modPass (fun p => { p with tko := { p.tko with waits := true } })
  s.ev (if lost then 0x510d else 0x510c) unitPuppeteer f 0

/-- A TAKEOVER that this device accepts: the spare stands at the failed rank from now on. -/
def State.acceptTakeover (s : State) (m : CtlMsg) : State :=
  let f := m.origin
  if f = s.f F.schRankRank then s.selfFailed
  else
    let t := s.modPass (fun p => { p with tko := { p.tko with
      failed := insertRank f p.tko.failed, version := m.version, proposal := none } })
    if m.subject = 0xffff then t.takeoverStops f
    else
      let waits := t.pass.tko.waits
      let t := if waits ∨ t.passState ≠ psFrozen then t.freeze else t
      let t := if waits then t.setF F.schLoopState 1 else t
      let t := t.modPass (fun p => { p with clearSent := false, tko := { p.tko with
        waits := false
        assigns := p.tko.assigns.filter (fun a => a.1 != f && a.2 != m.subject) ++ [(f, m.subject)] } })
      let t := (t.setF F.colRecoverySpare m.subject).showRecovery
      let t := if t.leads then (t.ev 0x0035 unitPuppeteer f m.subject).propose else t
      let t := if m.subject = t.f F.schRankRank then t.wakeUp 4 else t
      t.tryClears

/-- TAKEOVER (R242, R243): forwarded once, unless its VERSION is not above the highest accepted; with the
rank's own number the leader sends the one it proposes. -/
def execTakeover (from_ : Nat) (m : CtlMsg) (s : State) : Host.Outcome State Fault Refusal :=
  if !s.load.loaded then .next s
  else if from_ = s.f F.schRankRank then
    (match s.pass.tko.proposal with
      | none => .next s
      | some x => .next ((s.flood x none).acceptTakeover x))
  else if m.type ≠ 10 ∨ m.version ≤ max s.version s.pass.tko.version then .next s
  else .next ((s.flood m (some from_)).acceptTakeover m)

/-! ### Rejoin (R244, R245) -/

/-- The leader's answer to a JOIN, addressed to the device. -/
def State.answerJoin (s : State) (m : CtlMsg) (detail subject version : Nat) : State :=
  s.sendTo [m.detail] { s.msg 14 with detail := detail, subject := subject, version := version }

/-- The leader refuses a JOIN. -/
def State.refuseJoin (s : State) (m : CtlMsg) : State :=
  (s.answerJoin m 2 0xffff s.version).ev 0x510e unitPuppeteer m.detail 0

/-- VACANT entries in ascending order. -/
def State.vacant (s : State) : List Nat := s.allRanks.filter (fun r => decide (s.n ≤ r) && s.rankState r == 3)

/-- The device is recorded for the next rebind, in the first VACANT entry that no other waits for. -/
def State.recordJoin (s : State) (m : CtlMsg) (tag : Nat) : State :=
  match s.vacant.find? (fun r => !s.pass.joins.any (fun j => j.2.2 == r)) with
  | none => s.refuseJoin m
  | some r =>
    (s.modPass (fun p => { p with joins := p.joins ++ [(m.detail, tag, r)] })).answerJoin m 0 r
      (s.version + s.pass.joins.length + 1)

/-- JOIN at the leader (R83, R244): the device becomes the spare of a waiting takeover, or is recorded for the
next rebind, or is refused. -/
def State.takeJoin (s : State) (m : CtlMsg) : State :=
  let tag := nth m.digest 0
  let known := s.allRanks.find? (fun r => s.rankFabric r == m.detail && s.rankState r != 3)
  let bad := match known with
    | none => false
    | some r => s.rankTag r != tag
  let entry := s.allRanks.find? (fun r => decide (s.n ≤ r) && s.rankFabric r == m.detail && s.rankTag r == tag && s.rankState r == 2)
  if bad then s.refuseJoin m
  else match s.pass.tko.waits, entry with
    | true, some r =>
      let v := max s.version s.pass.tko.version + 1
      let t := (s.wrNat 1 (s.rankAddr r + 4) 1 1).answerJoin m 1 r v
      let t := t.modPass (fun p => { p with tko := { p.tko with waits := false } })
      t.propose.modPass (fun p => { p with tko := { p.tko with waits := true } })
    | true, none => s.recordJoin m tag
    | false, _ => s.recordJoin m tag

/-- JOIN (R244): forwarded to the leader, which answers it; with the device's own number it leaves for a
fabric partner. -/
def execJoin (from_ : Nat) (m : CtlMsg) (s : State) : Host.Outcome State Fault Refusal :=
  if m.type ≠ 13 ∨ !s.load.loaded then .next s
  else if from_ = s.f F.schRankRank ∧ !s.leads then
    (match allPorts.find? s.portUp with
      | none => .next s
      | some p =>
        let own : CtlMsg := { s.msg 13 with
          step := s.f F.colEpochStep, origin := 0xffff, detail := s.myId, digest := [s.f F.secIdTag, 0, 0, 0] }
        .next (if s.isActive && s.passState != psStopped then s
          else s.originate { tc := 0, dest := s.f (F.fabPPartnerFabricId p), pay := .ctl own, port := some p }))
  else if s.leads then .next (s.takeJoin m)
  else .next (match s.leader with
    | none => s
    | some l => s.sendCtl l m)

/-- JOINED (R245): an accepted device learns its entry when a takeover waits for it; a refused one stays as it
is. -/
def execJoined (m : CtlMsg) (s : State) : Host.Outcome State Fault Refusal :=
  if m.type ≠ 14 ∨ !s.load.loaded ∨ m.detail ≠ 1 then .next s
  else .next (((((s.setF F.schRankRank m.subject).setF F.schRankValid 1).setPst psIdle).setF F.schLoopState 0).wakeUp 4)

/-- TABLE (R245): forwarded before the rank keeps it for the COMMIT that follows. -/
def execTable (m : CtlMsg) (s : State) : Host.Outcome State Fault Refusal :=
  if m.type ≠ 15 ∨ !s.load.loaded ∨ (s.isActive ∧ s.isRoot) then .next s
  else
    let t := if s.isActive then (s.sendAll s.children m).sendTo (s.tableDests m) m else s
    .next (t.modPass (fun p => { p with table := some m }))

end Sys2Proof.Machine
end

