-- ==== Sys2Proof/Machine/Wire.lean ====
section
/-! DEFINITION. What travels on the links, byte by byte: reduction blocks (R195, R196), control messages (R218, R219),
and the link blocks that carry them (R318, R319). A reader takes the fields back from the bytes. -/

namespace Sys2Proof

/-! ### Packed elements (R31) -/

/-- Elements packed `w` bits each, element 0 in the lowest bits. -/
def packBits (w : Nat) : List Int → Nat
  | [] => 0
  | v :: r => unsignedOf w v + 2 ^ w * packBits w r

/-- The `n` fields of `w` bits of a number, from the lowest on. -/
def fieldsOf (w : Nat) : Nat → Nat → List Nat
  | 0, _ => []
  | n + 1, x => x % 2 ^ w :: fieldsOf w n (x / 2 ^ w)

/-- The `n` bytes at offset `o`, as a number. -/
def numAt (bs : List Byte) (o n : Nat) : Nat := leNat ((bs.drop o).take n)

/-! ### Reduction blocks (R195, R196) -/

/-- Bits of a packed element by KIND: I26 contributions, I40 sums, BF16 parameters. -/
def RedBlock.elemBits (kind : Nat) : Nat := if kind = 1 then 26 else if kind = 2 then 40 else if kind = 3 then 16 else 0

/-- Elements that a block of a KIND holds at most; FIRST is a multiple of it. -/
def RedBlock.elemMax (kind : Nat) : Nat := if kind = 1 then 72 else if kind = 2 then 48 else if kind = 3 then 120 else 0

/-- KIND, with FLAGS above it. -/
def RedBlock.byte0 (b : RedBlock) : Nat :=
  b.kind + 16 * b.nf.toNat + 32 * b.ov.toNat + 64 * b.last.toNat + 128 * b.changed.toNat

/-- The 256 payload bytes of a reduction block. -/
def RedBlock.image (b : RedBlock) : List Byte :=
  leBytes 1 b.byte0 ++ (leBytes 1 b.eb ++ (leBytes 1 b.pk ++ (leBytes 1 b.attempt ++ (leBytes 2 b.bucket ++ (leBytes 2 0 ++
  (leBytes 4 b.step ++ (leBytes 3 b.first ++ (leBytes 1 b.body.length ++
  leBytes 240 (packBits (RedBlock.elemBits b.kind) b.body)))))))))

/-- The reduction block that 256 payload bytes carry: contributions and sums are signed, parameters are patterns. -/
def RedBlock.ofImage (bs : List Byte) : RedBlock :=
  let x := numAt bs 0 1
  let kind := x % 16
  let w := RedBlock.elemBits kind
  let fs := fieldsOf w (numAt bs 15 1) (numAt bs 16 240)
  { kind := kind, nf := bitOf x 4, ov := bitOf x 5, last := bitOf x 6, changed := bitOf x 7
    eb := numAt bs 1 1, pk := numAt bs 2 1, attempt := numAt bs 3 1 % 16, bucket := numAt bs 4 2
    step := numAt bs 8 4, first := numAt bs 12 3
    body := if kind = 3 then fs.map (fun v => (v : Int)) else fs.map (signedOf w) }

/-! ### Control messages (R218, R219) -/

/-- Byte 2 of a control message: MON, NF, OV, POLICY and WIDE. -/
def CtlMsg.byte2 (m : CtlMsg) : Nat := m.mon + 4 * m.nf.toNat + 8 * m.ov.toNat + 16 * m.policy + 64 * m.wide.toNat

/-- The 256 payload bytes of a control message: its 64, and zeros. -/
def CtlMsg.image (m : CtlMsg) : List Byte :=
  leBytes 1 m.type ++ (leBytes 1 m.reason ++ (leBytes 1 m.byte2 ++ (leBytes 1 m.replays ++ (leBytes 4 m.step ++
  (leBytes 4 m.bcstep ++ (leBytes 4 m.version ++ (leBytes 2 m.origin ++ (leBytes 2 m.count ++ (leBytes 2 m.subject ++
  (leBytes 2 0 ++ (leBytes 4 m.detail ++ (leBytes 4 m.ckpt ++ (leBytes 8 (m.digest.getD 0 0) ++
  (leBytes 8 (m.digest.getD 1 0) ++ (leBytes 8 (m.digest.getD 2 0) ++ (leBytes 8 (m.digest.getD 3 0) ++
  leBytes 192 0))))))))))))))))

/-- The control message that payload bytes carry. -/
def CtlMsg.ofImage (bs : List Byte) : CtlMsg :=
  let x := numAt bs 2 1
  { type := numAt bs 0 1, reason := numAt bs 1 1, mon := x % 4, nf := bitOf x 2, ov := bitOf x 3
    policy := bitsOf x 4 2, wide := bitOf x 6, replays := numAt bs 3 1, step := numAt bs 4 4, bcstep := numAt bs 8 4
    version := numAt bs 12 4, origin := numAt bs 16 2, count := numAt bs 18 2, subject := numAt bs 20 2
    detail := numAt bs 24 4, ckpt := numAt bs 28 4
    digest := [numAt bs 32 8, numAt bs 40 8, numAt bs 48 8, numAt bs 56 8] }

/-! ### Link blocks (R318, R319) -/

/-- A step fence. -/
def Payload.isFence : Payload → Bool
  | .fence _ _ => true
  | .ctl _ => false
  | .red _ => false
  | .bulk _ _ _ => false
  | .nak _ _ => false
  | .creditSync _ _ _ => false
  | .ident _ _ _ => false
  | .idle => false

/-- The payload bytes that come before the zeros; CREDIT_SYNC repeats the ACK of its block. -/
def Payload.head (ack : Nat) : Payload → List Byte
  | .ctl m => m.image
  | .red b => b.image
  | .bulk stream offset data => leBytes 6 offset ++ leBytes 2 stream ++ leBytes 2 data.length ++ leBytes 6 0 ++ data
  | .fence step version => leBytes 4 step ++ leBytes 4 version
  | .nak reason seq => leBytes 1 reason ++ leBytes 1 0 ++ leBytes 2 seq
  | .creditSync c0 c1 c2 => leBytes 2 c0 ++ leBytes 2 c1 ++ leBytes 2 c2 ++ leBytes 2 ack
  | .ident fabricId idTag lanes => leBytes 4 fabricId ++ leBytes 8 idTag ++ leBytes 1 lanes
  | .idle => []

/-- The 256 payload bytes. -/
def Payload.image (ack : Nat) (p : Payload) : List Byte :=
  let h := p.head ack
  h ++ List.replicate (256 - h.length) 0

/-- Bytes 0 to 271 of a link block. -/
def LinkBlock.body (b : LinkBlock) : List Byte :=
  leBytes 1 (b.btype + 16 * b.tc) ++ leBytes 1 b.hops ++ leBytes 2 b.seq ++ leBytes 2 b.ack ++
  leBytes 2 (b.cr0 + 16 * b.cr1 + 1024 * b.cr2) ++ leBytes 4 b.dest ++ leBytes 4 b.src ++ b.pay.image b.ack

/-- The 276 bytes of a link block, with the CRC-32C of the first 272. -/
def LinkBlock.image (b : LinkBlock) : List Byte := b.body ++ leBytes 4 (Machine.crc32c b.body)

end Sys2Proof
end

