-- ==== Sys2Proof/Machine/Fabric.lean ====
section
/-! DEFINITION. The fabric links (spec/13): an arriving block (R318 to R321, R326, R330 to R332), the next block
to send (R323), forwarding (R327), and the training of a port (R325, R333). -/

namespace Sys2Proof.Machine

/-! ### Numbers and credits -/

/-- The distance from `b` up to `a` in modulo 4,096 order. -/
def seqGap (a b : Nat) : Nat := (a + 4096 - b % 4096) % 4096

/-- Credits of a receive buffer (R322). -/
def fullCredits : List Nat := [16, 512, 256]

/-- An unsequenced block queued on a port that keeps its blocks. -/
def State.sendCtlBlock (s : State) (p : Nat) (pay : Payload) : State :=
  if s.portKept p then s.modPort p (fun x => { x with ctl := x.ctl ++ [pay] }) else s

/-- The port has carried a reduction block of a step (R333). -/
def State.carried (s : State) (p : Nat) (pay : Payload) : State :=
  match pay with
  | .red k => s.modPort p (fun x => { x with red := some k.step })
  | .ctl _ => s
  | .bulk _ _ _ => s
  | .fence _ _ => s
  | .nak _ _ => s
  | .creditSync _ _ _ => s
  | .ident _ _ _ => s
  | .idle => s

/-- CREDIT_SYNC with the credits that the partner may spend here (R319). -/
def State.sendSync (s : State) (p : Nat) : State :=
  let x := s.port p
  (s.modPort p (fun y => { y with owed := [0, 0, 0], avail := [nth x.avail 0 + nth x.owed 0, nth x.avail 1 + nth x.owed 1, nth x.avail 2 + nth x.owed 2] })).sendCtlBlock p
    (.creditSync (nth x.avail 0 + nth x.owed 0) (nth x.avail 1 + nth x.owed 1) (nth x.avail 2 + nth x.owed 2))

/-! ### An arriving block -/

/-- A reserved or malformed field (R332, kind 1). -/
def fmtBad (b : LinkBlock) : Bool :=
  decide (5 < b.btype) || decide (3 ≤ b.tc) || b.resv || (b.btype == 2 && b.tc != 1) || b.btype == 5

/-- A sequenced block. -/
def isSequenced (b : LinkBlock) : Bool := b.btype == 1 || b.btype == 2

/-- ACK (R320): it frees the replay buffer; one beyond the last SEQ sent is a violation. -/
def State.takeAck (s : State) (p ack : Nat) : State :=
  let x := s.port p
  let d := seqGap x.txSeq ack
  if d < x.replay.length then
    let gone := (x.replay.take (x.replay.length - d)).map (fun y => y.1)
    s.putPort p { x with
      replay := x.replay.drop (x.replay.length - d), ackAt := s.aon,
      resend := x.resend.filter (fun q => !gone.contains q), resent := x.resent.filter (fun q => !gone.contains q.1) }
  else if d < 2048 then s
  else s.portViolates p 3

/-- Credits returned for a class (R322); beyond those outstanding is a violation. -/
def State.takeCredits (s : State) (p : Nat) (cs : List Nat) : State :=
  let x := s.port p
  let sum := [0, 1, 2].map (fun k => nth x.credit k + nth cs k)
  let bad := [0, 1, 2].any (fun k => decide (nth x.grant k < nth sum k))
  let t := s.putPort p { x with credit := [0, 1, 2].map (fun k => min (nth x.grant k) (nth sum k)) }
  if bad then (t.portViolates p 6).sendSync p else t

/-- NAK LOST for every number from the expected one up to below `seq` that is neither held nor named before
(R321). -/
def State.nakGap (s : State) (p seq : Nat) : State :=
  let x := s.port p
  let miss := ((List.range (seqGap seq x.rxSeq)).map (fun k => (x.rxSeq + k) % 4096)).filter (fun q =>
    !x.held.any (fun h => h.1 == q) && !x.asked.contains q)
  let s := s.modPort p (fun y => { y with asked := y.asked ++ miss, ctl := y.ctl ++ miss.map (fun q => .nak 1 q) })
  if miss.isEmpty then s else s.addF (F.fabPErrCrcFail p) 1

/-- The direction a message came from is one its TYPE allows (R219). -/
def State.ctlOk (s : State) (m : CtlMsg) (src : Nat) : Bool :=
  if m.type = 0 ∨ 15 < m.type then false
  else if !s.load.loaded then true
  else
    let kids := s.children.map (fun c => s.rankFabric (s.seat c))
    let up := (s.parent.toList).map (fun c => s.rankFabric (s.seat c))
    if [1, 2, 5, 12].contains m.type then s.isActive && kids.contains src
    else if [4, 6, 7, 11].contains m.type then s.isActive && up.contains src
    else if m.type = 3 ∨ m.type = 15 then (s.isActive && up.contains src) || !s.isActive
    else true

/-- A reduction block whose KIND is defined and comes from where it may (R195, R198). -/
def State.redOk (s : State) (k : RedBlock) (src : Nat) : Bool :=
  if k.kind = 0 ∨ 7 < k.kind then false
  else if !s.load.loaded ∨ s.n = 0 then true
  else if [1, 2, 4].contains k.kind then
    ((s.childrenIn k.bucket).map (fun c => s.rankFabric (s.seat c))).contains src
  else (((s.parentIn k.bucket).toList).map (fun c => s.rankFabric (s.seat c))).contains src

/-- A bulk block placed at its stream offset (R319): the copies of a checkpoint in the buddy areas, and the
checkpoint of a failed rank at its spare. Another stream is kept as it came. -/
def State.takeBulk (s : State) (src stream off : Nat) (data : List Byte) : State :=
  let ward := (s.rankOf src).any (fun r => decide (r < s.n) && (r + s.n / 2) % s.n == s.me && 1 < s.n)
  if s.isActive && ward && decide (stream ≤ 1) then s.wrBytes 1 (s.areaAddr (2 + stream) + off) data
  else if s.awaitsCopy && stream == spareStream then s.takeCopy off data
  else { s with fab := { s.fab with bulk := s.fab.bulk ++ [(src, stream, off, data)] } }

/-- The partner's fence arrives on a port (R330). -/
def State.takeFence (s : State) (p step version : Nat) : State :=
  let t := s.modPort p (fun x => if x.fencing then { x with fencing := false } else { x with fenceIn := true })
  let t := if step = s.stepNow ∧ version = s.version then t else t.ev 0x6007 (portUnit p) step version
  t.tryClears

/-- A block for another destination: dropped with a NAK where it cannot go on, else it waits for its egress
(R327). -/
def State.takeTransit (s : State) (p : Nat) (b : LinkBlock) : State :=
  if b.hops = 0 then ((s.sendCtlBlock p (.nak 6 b.seq)).ev 0x6006 (portUnit p) b.dest 6).freeCredit p b.tc
  else if (s.routeTo b.dest).isNone then
    ((s.sendCtlBlock p (.nak 5 b.seq)).ev 0x6006 (portUnit p) b.dest 5).freeCredit p b.tc
  else { s with fab := { s.fab with ingress := s.fab.ingress ++ [(p, b)] } }

/-- The content of a block addressed to this device. A control message or a reduction block that passes is then
its own command. -/
def State.takeContent (s : State) (p : Nat) (b : LinkBlock) : State :=
  match b.pay with
  | .ctl m => if b.tc = 0 ∧ s.ctlOk m b.src then s.hear b.src else s.portViolates p 7
  | .red k => if b.tc = 1 ∧ s.redOk k b.src then s else s.portViolates p 7
  | .bulk st off d =>
    if b.tc = 2 ∧ !b.payResv ∧ 1 ≤ d.length ∧ d.length ≤ 240 then s.takeBulk b.src st off d else s.portViolates p 7
  | .fence _ _ => s.portViolates p 7
  | .nak _ _ => s.portViolates p 7
  | .creditSync _ _ _ => s.portViolates p 7
  | .ident _ _ _ => s.portViolates p 7
  | .idle => s.portViolates p 7

/-- A reduction block for a bucket that has not entered the interface keeps its buffer (R198). -/
def State.holdsRed (s : State) (b : LinkBlock) : Option Nat :=
  match b.pay with
  | .red k =>
    if b.tc ≠ 1 ∨ !s.redOk k b.src ∨ !s.load.loaded then none
    else (match s.arrival k with
      | .hold => some k.bucket
      | .drop => none
      | .counter => none
      | .mismatch => none
      | .good _ => none)
  | .ctl _ => none
  | .bulk _ _ _ => none
  | .fence _ _ => none
  | .nak _ _ => none
  | .creditSync _ _ _ => none
  | .ident _ _ _ => none
  | .idle => none

/-- The buffer of a block that has been taken: its credit is owed to the partner, unless the block is held in it. -/
def State.release (s : State) (p : Nat) (b : LinkBlock) : State :=
  match s.holdsRed b with
  | some k => { s with fab := { s.fab with heldRed := s.fab.heldRed ++ [(p, k)] } }
  | none => s.freeCredit p b.tc

/-- A sequenced block is delivered in its turn (R198, R320, R330, R331). -/
def State.deliver (s : State) (p : Nat) (b : LinkBlock) : State :=
  let s := s.carried p b.pay
  if b.tc ≠ 0 ∧ s.failedDevice b.src then (s.addF (F.fabPViolFailedSrc p) 1).freeCredit p b.tc
  else match b.btype, b.pay with
  | 2, .fence step version =>
    if b.payResv then (s.portViolates p 7).freeCredit p 1 else (s.takeFence p step version).freeCredit p 1
  | 2, _ => (s.portViolates p 7).freeCredit p 1
  | _, _ =>
    if b.tc = 1 ∧ (s.port p).fencing then s.freeCredit p 1
    else if b.dest ≠ s.idOn p then s.takeTransit p b
    else (s.takeContent p b).release p b

/-- Held blocks whose turn has come, in order. -/
def State.deliverHeld (s : State) (p : Nat) : Nat → State
  | 0 => s
  | k + 1 =>
    let x := s.port p
    match x.held.find? (fun h => h.1 == x.rxSeq) with
    | none => s
    | some h =>
      let t := s.putPort p { x with
        held := x.held.filter (fun y => y.1 != h.1), rxSeq := (x.rxSeq + 1) % 4096, asked := x.asked.filter (· != h.1) }
      (t.deliver p h.2).deliverHeld p k

/-- A sequenced block against the number expected (R320, R321, R332); one that was accepted before is discarded. -/
def State.takeSeq (s : State) (p : Nat) (b : LinkBlock) : State :=
  let x := s.port p
  let e := seqGap b.seq x.rxSeq
  if 1024 < e then s
  else if x.held.any (fun h => h.1 == b.seq) then s
  else if nth x.avail b.tc = 0 then (((s.portViolates p 5).sendCtlBlock p (.nak 4 b.seq))).sendSync p
  else
    let s := s.modPort p (fun y => { y with avail := modNth y.avail b.tc (· - 1) })
    if e = 0 then
      ((s.modPort p (fun y => { y with rxSeq := (y.rxSeq + 1) % 4096, asked := y.asked.filter (· != b.seq) })).deliver
        p b).deliverHeld p 1024
    else (s.modPort p (fun y => { y with held := y.held ++ [(b.seq, b)] })).nakGap p b.seq

/-- An unsequenced block: the number it carries shows a gap (R318, R321), and its payload is acted on. -/
def State.takeUnseq (s : State) (p : Nat) (b : LinkBlock) : State :=
  let e := seqGap b.seq (s.port p).rxSeq
  let s := if e ≠ 0 ∧ e ≤ 1024 then s.nakGap p b.seq else s
  match b.pay with
  | .nak reason seq =>
    if b.btype ≠ 3 ∨ reason ≠ 1 then s
    else
      let x := s.port p
      if x.replay.any (fun y => y.1 == seq) then
        (if x.resend.contains seq then s else s.putPort p { x with resend := x.resend ++ [seq] })
      else s.portViolates p 4
  | .creditSync c0 c1 c2 =>
    if b.btype ≠ 4 then s
    else s.modPort p (fun x => { x with
      credit := [c0, c1, c2], grant := [max (nth x.grant 0) c0, max (nth x.grant 1) c1, max (nth x.grant 2) c2] })
  | .ctl _ => s
  | .red _ => s
  | .bulk _ _ _ => s
  | .fence _ _ => s
  | .ident _ _ _ => s
  | .idle => s

/-- A SEQ neither expected nor within 1,024 above or below (R332, kind 2). -/
def outOfWindow (seq expected : Nat) : Bool :=
  let e := seqGap seq expected
  decide (1024 < e) && decide (e < 3072)

/-- A block arrives intact on a port that carries blocks; one that is dropped brings no ACK and no credits. -/
def State.linkIn (s : State) (p : Nat) (b : LinkBlock) : State :=
  if !s.portUp p then s
  else if fmtBad b then (s.portViolates p 1).sendCtlBlock p (.nak 3 b.seq)
  else if outOfWindow b.seq (s.port p).rxSeq then (s.portViolates p 2).sendCtlBlock p (.nak 2 b.seq)
  else
    let s := (s.takeAck p b.ack).takeCredits p [b.cr0, b.cr1, b.cr2]
    if isSequenced b then s.takeSeq p b else s.takeUnseq p b

/-- IDLE (R318): any intact block's header; an IDLE block holds nothing more. -/
def execIdle (p : Nat) (b : LinkBlock) (s : State) : Host.Outcome State Fault Refusal := .next (s.linkIn p b)

/-- FENCE (R330). -/
def execFence (p : Nat) (b : LinkBlock) (s : State) : Host.Outcome State Fault Refusal :=
  .next (if b.btype = 2 then s.linkIn p b else s)

/-- BULK_DATA (R319). -/
def execBulkData (p : Nat) (b : LinkBlock) (s : State) : Host.Outcome State Fault Refusal :=
  .next (if b.btype = 1 ∧ b.tc = 2 then s.linkIn p b else s)

/-- NAK (R321). -/
def execNak (p : Nat) (b : LinkBlock) (s : State) : Host.Outcome State Fault Refusal :=
  .next (if b.btype = 3 then s.linkIn p b else s)

/-- CREDIT_SYNC (R322). -/
def execCreditSync (p : Nat) (b : LinkBlock) (s : State) : Host.Outcome State Fault Refusal :=
  .next (if b.btype = 4 then s.linkIn p b else s)

/-! ### Ports that go down (R325, R332, R333) -/

/-- TC1 blocks of the step in progress went, go, or would go over a port (R333). -/
def State.carriesStep (s : State) (p : Nat) : Bool :=
  let via (r : Nat) : Bool := s.routeTo (s.rankFabric (s.seat r)) == some p || s.portTo (s.rankFabric (s.seat r)) == some p
  s.pass.launched && s.isActive &&
  ((s.port p).red == some s.stepNow ||
   s.col.admitted.any (fun y => ((s.parentIn y.1).toList ++ s.childrenIn y.1).any via))

/-- A port loses its link: SEQ starts anew, what it held goes, and its fence counts as complete. What it had delivered or
accepted for another destination stands. -/
def State.dropLink (s : State) (p : Nat) : State :=
  let s := if s.carriesStep p then s.failCheck rsnCheck (portUnit p * 65536 + 0x6002) else s
  let x := s.port p
  s.putPort p { ({} : Port) with winAt := x.winAt, equal := x.equal, width := x.width }

/-- The port goes to a state with a reason; EV_FAB_LINK_DOWN tells of a link that was up. -/
def State.linkDown (s : State) (p state reason : Nat) : State :=
  let was := s.portKept p
  let t := (s.dropLink p).modPort p (fun x => { x with failAt := s.aon, fast := false })
  let t := (((t.setF (F.fabPStatusState p) state).setF (F.fabPStatusDownReason p) reason).setF (F.fabPStatusWidth p) 0).setF
    (F.fabPStatusLanes p) 0
  (if was then t.ev 0x6002 (portUnit p) reason 0 else t).tryClears

/-- A full training of a port begins: no IDENT has come in it yet (R325, R334). -/
def State.startTraining (s : State) (p : Nat) : State :=
  (s.setF (F.fabPStatusState p) pTraining).setF (F.fabPPartnerValid p) 0

/-- A port quarantined by kind `k` of violation (R332). -/
def State.quarantinePort (s : State) (p reason k : Nat) : State :=
  (s.linkDown p pQuarantined reason).ev 0x6009 (portUnit p) k 0

/-- VIOLATION_LIMIT (R332). -/
def execViolationLimit (p : Nat) (s : State) : Host.Outcome State Fault Refusal :=
  let limit := s.f F.fabViolCfgLimit
  if 12 ≤ p ∨ limit = 0 ∨ s.f (F.fabPViolWindowCount p) < limit ∨
      (s.port p).winAt + max 1 (s.f F.fabViolCfgWindow) ≤ s.aon ∨ s.pst p = pQuarantined then .next s
  else .next (s.quarantinePort p 4 (s.f (F.fabPViolLastKind p)))

/-- A rank table is loaded and holds the FABRIC_ID with another ID_TAG (R326). -/
def State.identityBad (s : State) (fabric tag : Nat) : Bool :=
  s.load.loaded && (match s.rankOf fabric with
    | none => false
    | some r => s.rankTag r != tag)

/-- The partner's identity is recorded; another ID_TAG than the table's quarantines the port at once (R326). -/
def State.takeIdent (s : State) (p fabric tag : Nat) : State :=
  let t := ((s.setF (F.fabPPartnerValid p) 1).setF (F.fabPPartnerFabricId p) fabric).setF (F.fabPPartnerTag p) tag
  if s.identityBad fabric tag then (t.quarantinePort p 3 8).ev 0x6005 (portUnit p) fabric tag else t

/-- IDENT (R326): in a training it records the partner; on a port that is up it is a violation. -/
def execIdent (p : Nat) (b : LinkBlock) (s : State) : Host.Outcome State Fault Refusal :=
  match b.pay with
  | .ident fabric tag _ =>
    if b.btype ≠ 5 then .next s
    else if s.portUp p then .next (s.linkIn p b)
    else if s.pst p = pTraining ∧ !(s.port p).fast ∧ p < 12 then .next (s.takeIdent p fabric tag)
    else .next s
  | .ctl _ => .next s
  | .red _ => .next s
  | .bulk _ _ _ => .next s
  | .fence _ _ => .next s
  | .nak _ _ => .next s
  | .creditSync _ _ _ => .next s
  | .idle => .next s

/-! ### Sending (R323) -/

/-- The egress port of a block that this device originated. -/
def State.egress (s : State) (o : Origin) : Option Nat :=
  match o.port with
  | some p => if s.portKept p then some p else none
  | none => match s.routeTo o.dest with
    | some p => some p
    | none => s.portTo o.dest

/-- Blocks without a way out are dropped (R327). -/
def State.dropUnrouted (s : State) : State :=
  let bad := s.fab.orig.filter (fun o => (s.egress o).isNone)
  let t := { s with fab := { s.fab with orig := s.fab.orig.filter (fun o => (s.egress o).isSome) } }
  bad.foldl (fun t o => t.ev 0x6006 unitNet o.dest 5) t

/-- The block leaves on port `p` with the acknowledgement and the credits owed (R318, R322). -/
def State.emit (s : State) (p : Nat) (b : LinkBlock) : State :=
  let x := s.port p
  let c := [min 15 (nth x.owed 0), min 63 (nth x.owed 1), min 63 (nth x.owed 2)]
  let y := { x with
    owed := [0, 1, 2].map (fun k => nth x.owed k - nth c k), avail := [0, 1, 2].map (fun k => nth x.avail k + nth c k) }
  let b := { b with ack := x.rxSeq, cr0 := nth c 0, cr1 := nth c 1, cr2 := nth c 2 }
  let t := s.putPort p y
  { t with out := { t.out with link := t.out.link ++ [(p, b.image)] } }

/-- A new sequenced block leaves: it takes the next SEQ, a credit and a place in the replay buffer (R320). -/
def State.emitNew (s : State) (p : Nat) (b : LinkBlock) : State :=
  let s := s.carried p b.pay
  let x := s.port p
  let b := { b with seq := x.txSeq }
  (s.putPort p { x with
    txSeq := (x.txSeq + 1) % 4096, replay := x.replay ++ [(x.txSeq, b)], credit := modNth x.credit b.tc (· - 1),
    ackAt := if x.replay.isEmpty then s.aon else x.ackAt }).emit p b

/-- Entry to Doze or Deep is under way: TC1 and TC2 stop, once no fence is out (R329). -/
def State.resting (s : State) : Bool :=
  s.pst_ == 1 && s.fb F.pwrStatusMoving && !s.activeRank && !s.fab.orig.any (fun o => o.pay.isFence) &&
  allPorts.all (fun p => !(s.port p).fencing)

/-- The replay buffer has an entry for class `tc`: sixteen are reserved for TC0 (R320). -/
def Port.hasRoom (x : Port) (tc : Nat) : Bool :=
  let c0 := x.replay.countP (fun y => y.2.tc == 0)
  if tc = 0 then decide (x.replay.length < 1024) else decide (x.replay.length - c0 + (c0 - 16) < 1008)

/-- A sequenced block of class `tc` may leave now on a port (R320, R322, R329). -/
def State.mayEmit (s : State) (p tc : Nat) : Bool :=
  let x := s.port p
  decide (0 < nth x.credit tc) && x.hasRoom tc &&
  ((s.pst p == pActive && !(tc != 0 && s.resting)) || (tc == 0 && s.portUp p))

/-- The next block of a class that this device originated for a port; a fence waits for the TC1 blocks that go on
over the port (R330). -/
def State.nextOrigin (s : State) (p tc : Nat) : Option (Nat × Origin) :=
  match s.fab.orig.zipIdx.find? (fun x => x.1.tc == tc && s.egress x.1 == some p) with
  | none => none
  | some x =>
    if !s.mayEmit p tc || (x.1.pay.isFence && s.fab.ingress.any (fun y => y.2.tc == 1 && s.routeTo y.2.dest == some p)) then none
    else some (x.2, x.1)

/-- BTYPE of a payload. -/
def blockType : Payload → Nat
  | .ctl _ => 1
  | .red _ => 1
  | .bulk _ _ _ => 1
  | .fence _ _ => 2
  | .nak _ _ => 3
  | .creditSync _ _ _ => 4
  | .ident _ _ _ => 5
  | .idle => 0

/-- A block of this device leaves on a port. -/
def State.sendOrigin (s : State) (p : Nat) (x : Nat × Origin) : State :=
  let hops := max 1 (s.f F.fabCtrlHops)
  ({ s with fab := { s.fab with orig := s.fab.orig.eraseIdx x.1 } }).emitNew p
    { btype := blockType x.2.pay, tc := x.2.tc, hops := hops, dest := x.2.dest, src := s.idOn p, pay := x.2.pay }

/-- The next block of a class on its way over a port to another device (R327). -/
def State.nextTransit (s : State) (p tc : Nat) : Option (Nat × Nat × LinkBlock) :=
  if !s.mayEmit p tc then none
  else (s.fab.ingress.zipIdx.find? (fun y => y.1.2.tc == tc && s.routeTo y.1.2.dest == some p)).map (fun y => (y.2, y.1))

/-- That block leaves, with one hop less; its ingress credit returns. -/
def State.sendTransit (s : State) (p : Nat) (y : Nat × Nat × LinkBlock) : State :=
  let t := { s with fab := { s.fab with ingress := s.fab.ingress.eraseIdx y.1 } }
  (t.emitNew p { y.2.2 with hops := y.2.2.hops - 1 }).freeCredit y.2.1 y.2.2.tc

/-- A block of a class can leave on a port. -/
def State.classWaits (s : State) (p tc : Nat) : Bool := (s.nextTransit p tc).isSome || (s.nextOrigin p tc).isSome

/-- The next block of a class leaves on a port, one on its way before one of this device (R323, R330). -/
def State.sendClass (s : State) (p tc : Nat) : State :=
  match s.nextTransit p tc with
  | some y => s.sendTransit p y
  | none => (match s.nextOrigin p tc with
    | some o => s.sendOrigin p o
    | none => s)

/-- Turns left to TC1 and TC2 on a port: its weights, once both are used up (R323). -/
def State.turnsOn (s : State) (p : Nat) : Nat × Nat :=
  let x := s.port p
  if x.turns.1 = 0 ∧ x.turns.2 = 0 then (max 1 (s.f F.fabLinkCfgTc1Weight), max 1 (s.f F.fabLinkCfgTc2Weight)) else x.turns

/-- The class, of TC1 and TC2, whose turn it is; none when neither has a block that may leave. -/
def State.turnOf (s : State) (p : Nat) : Option Nat :=
  match s.classWaits p 1, s.classWaits p 2 with
  | true, true => some (if 0 < (s.turnsOn p).1 then 1 else 2)
  | true, false => some 1
  | false, true => some 2
  | false, false => none

/-- A turn of a class is used. -/
def State.spendTurn (s : State) (p tc : Nat) : State :=
  let turns := s.turnsOn p
  if tc = 1 then s.modPort p (fun x => { x with turns := (turns.1 - 1, turns.2) })
  else if tc = 2 then s.modPort p (fun x => { x with turns := (turns.1, turns.2 - 1) })
  else s

/-- A resend, ahead of all other traffic (R321). -/
def State.sendResend (s : State) (p seq : Nat) : State :=
  let x := s.port p
  let t := s.putPort p { x with
    resend := x.resend.filter (· != seq), resent := mput seq ((mget seq x.resent).getD 0 + 1) x.resent }
  match x.replay.find? (fun y => y.1 == seq) with
  | none => t
  | some y => t.emit p y.2

/-- BLOCK_SEND (R323): resends, unsequenced blocks, TC0, TC1 and TC2 by weight, IDLE. -/
def execBlockSend (p : Nat) (s0 : State) : Host.Outcome State Fault Refusal :=
  if 12 ≤ p ∨ !s0.portUp p then .next s0
  else
    let s := s0.dropUnrouted
    let x := s.port p
    match x.resend, x.ctl with
    | q :: _, _ => .next (s.sendResend p q)
    | [], c :: rest =>
      .next ((s.putPort p { x with ctl := rest }).emit p { btype := blockType c, seq := x.txSeq, pay := c })
    | [], [] =>
      .next (if s.classWaits p 0 then s.sendClass p 0
        else (match s.turnOf p with
          | some k => (s.spendTurn p k).sendClass p k
          | none => s.emit p { btype := 0, seq := x.txSeq }))

/-- A block in transit can leave on port `e` now: it has a credit there, and the port's choice falls on its class (R323). -/
def State.mayForward (s : State) (e : Nat) (b : LinkBlock) : Bool :=
  s.mayEmit e b.tc && (s.port e).resend.isEmpty && (b.tc == 0 || (!s.classWaits e 0 && s.turnOf e == some b.tc))

/-- A waiting block that is the next of port `p` to leave or to be dropped: one of a failed device, one without a route, or
one whose egress takes it now (R323, R331). -/
def State.movesOn (s : State) (p : Nat) (y : (Nat × LinkBlock) × Nat) : Bool :=
  y.1.1 == p && ((y.1.2.tc != 0 && s.failedDevice y.1.2.src) ||
    (match s.routeTo y.1.2.dest with
      | none => true
      | some e => s.mayForward e y.1.2))

/-- BLOCK_FORWARD (R323, R327): of the blocks of port `p` for another destination, the oldest that can leave does, once its
egress has a credit; blocks of a failed device go no further (R331). -/
def execBlockForward (p : Nat) (s : State) : Host.Outcome State Fault Refusal :=
  match s.fab.ingress.zipIdx.find? (s.movesOn p) with
  | none => .next s
  | some y =>
    let b := y.1.2
    let t := { s with fab := { s.fab with ingress := s.fab.ingress.eraseIdx y.2 } }
    if b.tc ≠ 0 ∧ s.failedDevice b.src then .next ((t.addF (F.fabPViolFailedSrc p) 1).freeCredit p b.tc)
    else match s.routeTo b.dest with
      | none => .next (((t.sendCtlBlock p (.nak 5 b.seq)).ev 0x6006 (portUnit p) b.dest 5).freeCredit p b.tc)
      | some e => .next ((s.spendTurn e b.tc).sendTransit e (y.2, y.1))

/-! ### Errors and timers of a link -/

/-- FEC_UNCORRECTABLE (R317): the blocks are lost, and the codeword is counted. -/
def execFecUncorrectable (p : Nat) (s : State) : Host.Outcome State Fault Refusal :=
  .next (if p < 12 ∧ s.portUp p then s.addF (F.fabPErrFecUncorr p) 1 else s)

/-- BLOCK_CRC_FAIL (R318): the block is discarded whole, and counted. -/
def execBlockCrcFail (p : Nat) (s : State) : Host.Outcome State Fault Refusal :=
  .next (if p < 12 ∧ s.portUp p then s.addF (F.fabPErrCrcFail p) 1 else s)

/-- ACK_TIMEOUT (R321): the oldest unacknowledged block is resent. -/
def execAckTimeout (p : Nat) (s : State) : Host.Outcome State Fault Refusal :=
  let x := s.port p
  let d := (max 1000 (s.f F.fabLinkCfgAckTimeout) + 319) / 320
  match x.replay with
  | [] => .next s
  | y :: _ =>
    if !s.portUp p ∨ s.aon < x.ackAt + d then .next s
    else .next (s.putPort p { x with
      ackAt := s.aon, resend := if x.resend.contains y.1 then x.resend else x.resend ++ [y.1] })

/-- A fast retrain begins (R325): what is to be resent stays so, and the resends are counted anew. -/
def State.fastRetrain (s : State) (p : Nat) : State :=
  (s.modPort p (fun x => { x with fast := x.equal, resent := [] })).setF (F.fabPStatusState p) pTraining

/-- RESEND_LIMIT (R321). -/
def execResendLimit (p : Nat) (s : State) : Host.Outcome State Fault Refusal :=
  if s.portUp p ∧ (s.port p).resent.any (fun q => decide (max 1 (s.f F.fabLinkCfgResendLimit) ≤ q.2)) then
    .next (s.fastRetrain p)
  else .next s

/-! ### Training (R317, R325, R326) -/

/-- The width that the locked lanes allow. -/
def widthOf (lanes : Nat) : Nat :=
  let n := (List.range 4).countP (fun k => bitOf lanes k)
  if 4 ≤ n then 4 else if 2 ≤ n then 2 else n

/-- The locked lanes and the width shown; a width other than that of the training before is reported (R317). -/
def State.setLanes (s : State) (p lanes : Nat) : State :=
  let w := widthOf lanes
  let old := (s.port p).width
  let t := ((s.modPort p (fun x => { x with width := w })).setF (F.fabPStatusLanes p) lanes).setF (F.fabPStatusWidth p) w
  if old ≠ 0 ∧ old ≠ w then t.ev 0x6004 (portUnit p) w 0 else t

/-- Buffers of class `k` in use on a port: blocks behind a gap, blocks that wait for their egress, and reduction blocks
that are held (R198, R320, R327). -/
def State.buffered (s : State) (p k : Nat) : Nat :=
  (s.port p).held.countP (fun y => y.2.tc == k) + s.fab.ingress.countP (fun y => y.1 == p && y.2.tc == k) +
  (if k = 1 then s.fab.heldRed.countP (fun y => y.1 == p) else 0)

/-- A port becomes ACTIVE; the credits are exchanged. -/
def State.activate (s : State) (p : Nat) : State :=
  let s := (s.setF (F.fabPStatusState p) pActive).setF (F.fabPStatusDownReason p) 0
  s.modPort p (fun x => { x with
    fast := false, equal := true, ackAt := s.aon, grant := fullCredits
    credit := [0, 1, 2].map (fun k => nth fullCredits k - x.replay.countP (fun y => y.2.tc == k))
    owed := [0, 0, 0], avail := [0, 1, 2].map (fun k => nth fullCredits k - s.buffered p k) })

/-- A full training begins from step 1. -/
def State.fullTraining (s : State) (p : Nat) : State :=
  (s.linkDown p pTraining 0).startTraining p

/-- LINK_TRAINING (R325): a training of port `p` ends. A fast one keeps what the port holds; one that fails goes
on as a full one. -/
def execLinkTraining (p lanes : Nat) (signal : Bool) (fabricId idTag : Nat) (s : State) : Host.Outcome State Fault Refusal :=
  if 12 ≤ p ∨ s.pst p ≠ pTraining ∨ !s.fb (F.fabPCtrlEn p) then .next s
  else if (s.port p).fast then
    (if widthOf lanes = 0 then .next (s.fullTraining p)
     else .next (((s.setLanes p (lanes % 16)).activate p).ev 0x6003 (portUnit p) 0 0))
  else if !signal then .next (s.linkDown p pDown 1)
  else if widthOf lanes = 0 then .next (s.linkDown p pDown 2)
  else
    let t := s.takeIdent p fabricId idTag
    if t.pst p = pQuarantined then .next t
    else
      let t := (t.setLanes p (lanes % 16)).activate p
      let t := { t with fab := { t.fab with nodeId := mput p t.myId t.fab.nodeId } }
      .next (t.ev 0x6001 (portUnit p) (widthOf lanes) 0)

/-- LOSS_OF_LOCK (R325). -/
def execLossOfLock (p : Nat) (s : State) : Host.Outcome State Fault Refusal :=
  .next (if s.portUp p then s.fastRetrain p else s)

/-- TRAINING_RETRY (R325): every second while EN is 1. -/
def execTrainingRetry (p : Nat) (s : State) : Host.Outcome State Fault Refusal :=
  if 12 ≤ p ∨ s.pst p ≠ pDown ∨ !s.fb (F.fabPCtrlEn p) ∨ s.aon < (s.port p).failAt + 3125000 then .next s
  else .next (s.startTraining p)

/-- A host's retrain: a port that carries blocks keeps them in a fast retrain; one that is down has none to keep, and
trains from step 1. -/
def State.retrainPort (p : Nat) (s : State) : State :=
  if s.portUp p then s.fastRetrain p
  else if p < 12 ∧ s.pst p = pDown ∧ s.fb (F.fabPCtrlEn p) then s.startTraining p
  else s

/-- RETRAIN (R325). -/
def execRetrain (p : Nat) (s : State) : Host.Outcome State Fault Refusal :=
  s.hostAccess (.retrain p) false (State.retrainPort p)

/-- A quarantined port's window count clears and the port trains (R332). -/
def State.unquarantinePort (p : Nat) (s : State) : State :=
  if 12 ≤ p ∨ s.pst p ≠ pQuarantined then s
  else
    let t := s.setF (F.fabPViolWindowCount p) 0
    if s.fb (F.fabPCtrlEn p) then (t.startTraining p).setF (F.fabPStatusDownReason p) 0
    else (t.setF (F.fabPStatusState p) pDown).setF (F.fabPStatusDownReason p) 5

/-- UNQUARANTINE (R332). -/
def execUnquarantine (p : Nat) (s : State) : Host.Outcome State Fault Refusal :=
  s.hostAccess (.unquarantine p) false (State.unquarantinePort p)

/-- EN of a port written (R325, R334). -/
def State.enablePort (p : Nat) (en : Bool) (s : State) : State :=
  if 12 ≤ p then s
  else
    let t := s.setF (F.fabPCtrlEn p) (natOfBool en)
    if s.pst p = pQuarantined then t
    else if en then (if s.pst p = pDown then t.startTraining p else t)
    else t.linkDown p pDown 5

/-- PORT_ENABLE (R325, R334). -/
def execPortEnable (p : Nat) (en : Bool) (s : State) : Host.Outcome State Fault Refusal :=
  s.hostAccess (.portEnable p en) false (State.enablePort p en)

/-- ROUTE_LOAD (R327): the route table of HBM is copied on chip. -/
def State.loadRoutes (s : State) : State :=
  let a := s.f F.fabRouteBase
  let rs := (List.range 65536).filterMap (fun k =>
    let e := s.rdNat 1 (a + 2 * k) 2
    if e = 0 then none else some (k, e))
  { s with fab := { s.fab with routes := rs } }

/-- ROUTE_LOAD (R327). -/
def execRouteLoad (s : State) : Host.Outcome State Fault Refusal :=
  s.hostAccess .routeLoad false State.loadRoutes

end Sys2Proof.Machine
end

