-- ==== Sys2Proof/Machine/Sha.lean ====
section
/-! DEFINITION. SHA-512, HMAC and HKDF over it, which R371, R375 and R379 name. PRESUMED: their arithmetic
is that of FIPS 180-4, FIPS 198-1 and RFC 5869, which the spec does not restate. -/

namespace Sys2Proof.Machine

/-- The words of SHA-512. -/
abbrev W64 := BitVec 64

/-- The largest `r` with `r ^ e ≤ n`, found bit by bit below `2 ^ k`. -/
def rootBelow (e n : Nat) : Nat → Nat → Nat
  | 0, r => r
  | k + 1, r => if (r + 2 ^ k) ^ e ≤ n then rootBelow e n k (r + 2 ^ k) else rootBelow e n k r

/-- The first `n` primes. -/
def primes (n : Nat) : List Nat :=
  ((List.range 410).filter (fun p => decide (2 ≤ p) &&
    (List.range p).all (fun d => decide (d < 2) || p % d != 0))).take n

/-- The first 64 bits of the fractional part of the e-th root of a prime. -/
def rootFrac (e p : Nat) : W64 := BitVec.ofNat 64 (rootBelow e (p * 2 ^ (64 * e)) 70 0)

/-- The initial hash value, and the round constants. -/
def shaInit : List W64 := (primes 8).map (rootFrac 2)
def shaK : List W64 := (primes 80).map (rootFrac 3)

/-- The message schedule: 16 words grow to 80; `w` holds the last 16, newest first. -/
def shaSched : Nat → List W64 → List W64
  | 0, _ => []
  | n + 1, w =>
    let a := w.getD 14 0
    let b := w.getD 1 0
    let s0 := a.rotateRight 1 ^^^ a.rotateRight 8 ^^^ (a >>> 7)
    let s1 := b.rotateRight 19 ^^^ b.rotateRight 61 ^^^ (b >>> 6)
    let x := w.getD 15 0 + s0 + w.getD 6 0 + s1
    x :: shaSched n ((x :: w).take 16)

/-- One round. -/
def shaRound (v : List W64) (kw : W64 × W64) : List W64 :=
  match v with
  | [a, b, c, d, e, f, g, h] =>
    let s1 := e.rotateRight 14 ^^^ e.rotateRight 18 ^^^ e.rotateRight 41
    let ch := (e &&& f) ^^^ (~~~e &&& g)
    let t1 := h + s1 + ch + kw.1 + kw.2
    let s0 := a.rotateRight 28 ^^^ a.rotateRight 34 ^^^ a.rotateRight 39
    let maj := (a &&& b) ^^^ (a &&& c) ^^^ (b &&& c)
    [t1 + (s0 + maj), a, b, c, d + t1, e, f, g]
  | _ => v

/-- The number of a list of bytes, most significant first. -/
def beNat (b : List Byte) : Nat := leNat b.reverse

/-- One block of 128 bytes. -/
def shaBlock (v : List W64) (b : List Byte) : List W64 :=
  let w := (List.range 16).map (fun k => BitVec.ofNat 64 (beNat ((b.drop (8 * k)).take 8)))
  let ws := w ++ shaSched 64 w.reverse
  ((shaK.zip ws).foldl shaRound v).zipWith (· + ·) v

/-- The blocks of a padded message. -/
def shaBlocks : Nat → List W64 → List Byte → List W64
  | 0, v, _ => v
  | n + 1, v, b => shaBlocks n (shaBlock v (b.take 128)) (b.drop 128)

/-- SHA-512: 64 bytes. -/
def sha512 (m : List Byte) : List Byte :=
  let pad := m ++ [0x80] ++ List.replicate ((239 - m.length % 128) % 128) 0 ++ (leBytes 16 (8 * m.length)).reverse
  (shaBlocks (pad.length / 128) shaInit pad).flatMap (fun x => (leBytes 8 x.toNat).reverse)

/-- HMAC with SHA-512. -/
def hmac512 (key m : List Byte) : List Byte :=
  let k0 := if 128 < key.length then sha512 key else key
  let k := k0 ++ List.replicate (128 - k0.length) 0
  sha512 (k.map (· ^^^ 0x5c) ++ sha512 (k.map (· ^^^ 0x36) ++ m))

/-- HKDF with SHA-512, no salt, 64 bytes of output (R379). -/
def hkdf512 (ikm info : List Byte) : List Byte :=
  hmac512 (hmac512 (List.replicate 64 0) ikm) (info ++ [1])

end Sys2Proof.Machine
end

