-- ==== Sys2Proof/Machine/Fuse.lean ====
section
/-! DEFINITION. Fuses (R406 to R410), signed objects, firmware images and the rollback count (R374 to R378). -/

namespace Sys2Proof.Machine

/-! ### Settings records (R407) -/

/-- A field of a record at a byte offset. -/
def recField (g o w : Nat) : Nat := bitsOf g (8 * o) w

/-- The number of one bits among the low `w`. -/
def ones (w x : Nat) : Nat := (List.range w).countP (fun k => bitOf x k)

/-- A generation counts: at least 24 bits of its SEAL are blown (R408). -/
def genCounts (g : Nat) : Bool := decide (24 ≤ ones 32 (recField g 2044 32))

/-- The record with its identity seed taken as zero. -/
def genNoUds (g : Nat) : Nat := setBits g (8 * 136) 256 0

/-- CRC of a record (R407). -/
def genCrc (g : Nat) : Nat := crc32c (leBytes 2040 (genNoUds g))

/-- The record of the given fields, with its CRC, and all bits of SEAL. -/
def sealRecord (g : Nat) : Nat := setBits (setBits g (8 * 2040) 32 (genCrc g)) (8 * 2044) 32 0xffffffff

/-- Generation `k`. -/
def State.gen (s : State) (k : Nat) : Nat := nth s.fuses.gens k

/-- The highest generation that counts. -/
def State.newestGen (s : State) : Option Nat := [3, 2, 1, 0].find? (fun k => genCounts (s.gen k))

/-- The effective generation, as the last fuse load chose it. -/
def State.effective (s : State) : Option Nat :=
  if s.f F.otpStatusEffective < 4 then some (s.f F.otpStatusEffective) else none

/-- The record in effect; empty in BLANK. -/
def State.settings (s : State) : Nat := match s.effective with
  | some k => s.gen k
  | none => 0

/-- FUSE_DIGEST (R381). -/
def State.fuseDigest (s : State) : List Byte := sha512 (leBytes 2048 (genNoUds s.settings))

/-- The rollback count k (R378). -/
def rollbackCount (thermo : Nat) : Nat := ((List.range 128).find? (fun p => !bitOf thermo p)).getD 128
def State.rollback (s : State) : Nat := rollbackCount s.fuses.thermo

/-- The retirement word counts as programmed (R387). -/
def State.retired (s : State) : Bool := decide (16 ≤ ones 32 s.fuses.retire)

/-- The lowest generation above the effective one that a record may be written to (R409). -/
def State.spareGen (s : State) (r : Nat) : Option Nat :=
  (List.range 4).find? (fun k => (match s.effective with
    | some e => decide (e < k)
    | none => true) && (s.gen k ||| r) == r)

/-- A record written; `stuck` is a bit that does not verify. The outcome is a status of R395. -/
def State.writeGen (s : State) (g : Nat) (stuck : Option Nat) : State × Nat :=
  let r := sealRecord g
  match s.spareGen r with
  | none => (s, 5)
  | some k =>
    let put (v : Nat) : State := { s with fuses := { s.fuses with gens := s.fuses.gens.set k v } }
    match stuck with
    | some b => if bitOf r b && !bitOf (s.gen k) b then (put (s.gen k ||| r % 2 ^ b), 6) else (put r, 0)
    | none => (put r, 0)

/-! ### Signed objects (R374, R375) -/

/-- A piece of an object. -/
def piece (b : List Byte) (o n : Nat) : List Byte := (b.drop o).take n
def pieceNat (b : List Byte) (o n : Nat) : Nat := leNat (piece b o n)

/-- Bytes are all zero. -/
def allZero (b : List Byte) : Bool := b.all (fun x => x == 0)

/-- The SHA-512 digest of a piece as the number that a settings record holds. -/
def digestNat (b : List Byte) : Nat := leNat (sha512 b)

/-- The checks of R375, in order: the key digests, the signatures, and the zero fields. -/
def objectChecks (b : List Byte) (ed ml : Nat) (zeros : Bool) : List Bool :=
  [digestNat (piece b 256 32) == ed, digestNat (piece b 288 1952) == ml,
   Config.edVerify (piece b 256 32) (b.take 256) (piece b 2240 64),
   Config.mlVerify (piece b 288 1952) (b.take 256) (piece b 2304 3309),
   zeros && allZero (piece b 5613 19)]

/-- An image read from bytes (R376). -/
def imageOf (b : List Byte) : Image :=
  { magic := pieceNat b 0 4, format := pieceNat b 4 2, flags := pieceNat b 6 2, svn := pieceNat b 8 1
    length := pieceNat b 12 4, build := pieceNat b 16 8, bodyDigest := piece b 64 64
    zeros := allZero (piece b 9 3) && allZero (piece b 24 40) && allZero (piece b 128 128) &&
      decide (pieceNat b 6 2 < 2) && allZero (piece b 5613 19)
    edDigest := digestNat (piece b 256 32), mlDigest := digestNat (piece b 288 1952)
    edOk := Config.edVerify (piece b 256 32) (b.take 256) (piece b 2240 64)
    mlOk := Config.mlVerify (piece b 288 1952) (b.take 256) (piece b 2304 3309)
    bodyLen := b.length - 5632, bodySha := sha512 (b.drop 5632), headerSha := sha512 (b.take 256) }

/-- The key digests that an image may be signed with: those in effect, and with `sealed_` those of a generation
sealed but not yet effective (R375, R377). -/
def State.keyDigests (s : State) (sealed_ : Bool) : List (Nat × Nat) :=
  let of_ (g : Nat) : Nat × Nat := (recField g 8 512, recField g 72 512)
  (match s.effective with
    | none => [(Config.romEdDigest, Config.romMlDigest)]
    | some k => [of_ (s.gen k)]) ++
  (if sealed_ then ((List.range 4).filter (fun k => genCounts (s.gen k) && (match s.effective with
    | some e => decide (e < k)
    | none => true))).map (fun k => of_ (s.gen k)) else [])

/-- The checks of R377 for an image, in order, against one pair of key digests; the first asks for MAGIC,
FORMAT and LENGTH (R376). -/
def State.imageChecks (s : State) (i : Image) (keys : Nat × Nat) : List Bool :=
  [i.magic == 0x5453f001 && i.format == 1 && i.length == i.bodyLen && i.length % 64 == 0 && decide (i.length ≤ 0x4000000),
   i.edDigest == keys.1, i.mlDigest == keys.2, i.edOk, i.mlOk, i.zeros, i.bodySha == i.bodyDigest,
   decide (i.svn ≤ 128) && decide (s.rollback ≤ i.svn),
   (i.flags % 2 == 1) == (s.f F.secStatusLifecycle == 0)]

/-- The first check that fails, counted from 1; 0 when the image is accepted. -/
def State.imageFault (s : State) (i : Image) (sealed_ : Bool) : Nat :=
  let faults := (s.keyDigests sealed_).map (fun k => match (s.imageChecks i k).findIdx? (fun c => !c) with
    | some n => n + 1
    | none => 0)
  if faults.contains 0 then 0 else faults.headD 1

/-! ### Banks (R314, R399) -/

/-- The image of a bank. -/
def State.bankImage (s : State) (k : Nat) : Option Image := if k = 0 then s.boot.bank0 else s.boot.bank1

/-- A bank written; none leaves it invalid. -/
def State.putBank (s : State) (k : Nat) (i : Option Image) : State :=
  if k = 0 then { s with boot := { s.boot with bank0 := i } } else { s with boot := { s.boot with bank1 := i } }

/-- The bank that is not active. -/
def State.spareBank (s : State) : Nat := 1 - s.boot.active

/-- An image staged into the bank that is not active and verified (R314, R377); its outcome is the first failed
check. -/
def State.stage (s : State) (b : List Byte) : State × Nat :=
  let i := imageOf b
  let bad := s.imageFault i true
  let t := s.putBank s.spareBank (if bad = 0 then some i else none)
  (t.setF F.schSvcStatusStaged (natOfBool (bad == 0)), bad)

/-- The staged bank is marked as the one to boot next (R314). -/
def State.activateBank (s : State) : State :=
  ({ s with boot := { s.boot with next := some s.spareBank } }).setF F.schSvcStatusActivate 1

end Sys2Proof.Machine
end

