-- ==== Sys2Proof/Machine/Pup.lean ====
section
/-! DEFINITION. The puppeteer (spec/12): launches (R58, R87, R302, R303), sample ingest (R305 to R308), the
SVC instructions (R298, R299) and the service commands (R313, R314). -/

namespace Sys2Proof.Machine

/-! ### Launches -/

/-- A batch slot. -/
def State.batchSlot (s : State) (k : Nat) : BatchSlot := if k = 0 then s.pup.slot0 else s.pup.slot1

/-- A batch slot replaced. -/
def State.putSlot (s : State) (k : Nat) (x : BatchSlot) : State :=
  s.modPup (fun p => if k = 0 then { p with slot0 := x } else { p with slot1 := x })

/-- The slot with the batch of the next step: of those present, not held by a step, the one taken first. -/
def State.presentSlot (s : State) : Option Nat :=
  let may (k : Nat) : Bool := (s.batchSlot k).state == .present && !(s.pup.mine && s.pup.current == k)
  if may 0 && may 1 then some (if s.pup.slot0.cursor ≤ s.pup.slot1.cursor then 0 else 1)
  else [0, 1].find? may

/-- That slot becomes the one of the step in progress. -/
def State.takeSlot (s : State) : State :=
  match s.presentSlot with
  | none => s
  | some k => s.modPup (fun p => { p with current := k, mine := true })

/-- Step-body instructions of a committed step are still in flight (R87). -/
def State.oldBody (s : State) : Bool := s.sch.inflight.any (fun i => match i.step with
  | some n => decide (n ≤ s.c)
  | none => false)

/-- The loop is RUNNING or STOPPING. -/
def State.looping (s : State) : Bool := s.f F.schLoopState == 1 || s.f F.schLoopState == 2

/-- A launch is possible: a program is loaded, RUN is 1 and nothing of a step or a recovery is out (R58, R87). -/
def State.mayLaunch (s : State) : Bool :=
  s.load.loaded && s.fb F.schCtrlRun && !s.pass.launched && !s.pass.recover &&
  (s.passState == psIdle || s.passState == psRun) && !s.oldBody

/-- LOOP_LAUNCH (R302, R303): the puppeteer launches the next step or replays one, whose batch must be present; a STEP_LAUNCH that waited
for the committed step's instructions is made here too (R87). -/
def execLoopLaunch (s : State) : Host.Outcome State Fault Refusal :=
  if !s.mayLaunch || s.sec.halted then .next s
  else if s.pup.swLaunch then .next (((s.modPup (fun p => { p with swLaunch := false })).takeSlot).launch false)
  else if !s.looping || !s.pup.settled || decide (2 ≤ s.pst_) then .next s
  else match s.pup.next with
    | .none => .next s
    | .next => (match s.presentSlot with
      | none => .next s
      | some _ => .next (s.takeSlot.launch false))
    | .replay => if s.pup.mine then .next (s.launch true)
      else (match s.presentSlot with
        | none => .next s
        | some _ => .next (s.takeSlot.launch false))

/-- Software launches the step body while the loop is HALTED and the pass IDLE (R58); while instructions of the
committed step are in flight the launch waits for them (R87). -/
def State.softLaunch (s : State) : State :=
  if !s.load.loaded || !s.fb F.schCtrlRun || s.f F.schLoopState != 0 || s.passState != psIdle ||
      s.pass.launched || s.pass.recover then s
  else if s.oldBody then s.modPup (fun p => { p with swLaunch := true })
  else s.takeSlot.launch false

/-- STEP_LAUNCH (R58). -/
def execStepLaunch (s : State) : Host.Outcome State Fault Refusal := s.hostAccess .stepLaunch false State.softLaunch

/-- SETTLE_EXPIRY (R226, R303): SETTLE has run out. -/
def execSettleExpiry (s : State) : Host.Outcome State Fault Refusal :=
  if s.pup.settled || decide (s.aon < s.col.settleAt) then .next s
  else .next (s.modPup (fun p => { p with settled := true, waitFrom := some s.aon }))

/-! ### Sample ingest (R305, R306) -/

/-- Entries of the ring in effect, and the address of the entry at a cursor. -/
def State.ringSize (s : State) : Nat := 2 ^ s.pup.ringLog2
def State.entryAddr (s : State) (x : Nat) : Nat := s.f F.schIngestBase + 64 + 64 * (x % s.ringSize)

/-- The ingest cursor. -/
def State.cursor (s : State) : Nat := s.f F.schIngestTaken

/-- Ingest runs: a program is loaded, the loop runs, the puppeteer runs and host memory can be read. -/
def State.ingests (s : State) : Bool := s.load.loaded && s.looping && !s.sec.halted && s.hostReady

/-- Bytes of the batch slot `k`. -/
def State.slotBase (s : State) (k : Nat) : Nat := s.f F.schBatchBase + k * s.f F.schBatchSize

/-- An instruction in flight names bytes of batch slot `k`. -/
def State.slotNamed (s : State) (k : Nat) : Bool :=
  let lo := s.slotBase k
  s.sch.inflight.any (fun i => i.step.isSome && i.access.any (fun x => match x.2 with
    | .bytes space a b => space == 1 && decide (a < lo + s.f F.schBatchSize) && decide (lo < b)
    | .frame _ => false
    | .layer _ => false
    | .params _ _ => false))

/-- The slot that the next batch goes into (R305). -/
def State.freeSlot (s : State) : Option Nat :=
  let free (k : Nat) : Bool := (s.batchSlot k).state == .free && !s.slotNamed k
  if s.pup.slot0.state = .filling ∨ s.pup.slot1.state = .filling then none else [0, 1].find? free

/-- The device's view of PROD: beyond KEEP + 2^LOG2 the host has broken the ring (R306). -/
def State.takeProd (s : State) (v : Nat) : State :=
  let top := s.f F.schIngestKeep + s.ringSize
  if top < v then (s.modPup (fun p => { p with prod := top })).violation 4
  else s.modPup (fun p => { p with prod := v })

/-- INGEST_POLL (R305): PROD is read again, once POLL has passed or the host has woken the puppeteer. -/
def execIngestPoll (o : HostOutcome) (s : State) : Host.Outcome State Fault Refusal :=
  if !s.ingests || s.freeSlot.isNone || decide (s.cursor < s.pup.prod) || decide (s.aon < s.pup.polled) then .next s
  else
    let wait := max 1 (min 1000 (s.f F.schIngestCfgPoll)) * 25 / 8
    let t := s.modPup (fun p => { p with polled := s.aon + wait })
    if o = .ok ∧ s.f F.schIngestBase + 8 ≤ hostTop then .next (t.takeProd (t.rdNat 2 (t.f F.schIngestBase) 8))
    else .next (t.busError o)

/-- TAKEN advances past the entry at the cursor and is written; STATUS of the entry is written. -/
def State.entryDone (s : State) (status : Nat) : State :=
  let x := s.cursor
  let t := (s.wrNat 2 (s.entryAddr x + 24) 4 status).setF F.schIngestTaken (x + 1)
  (t.wrNat 2 (t.f F.schIngestBase + 8) 8 (x + 1)).modPup (fun p => { p with readFails := 0 })

/-- The entry at the cursor is bad: it fills no slot (R306). -/
def State.ingestBad (s : State) (id : Nat) : State :=
  let drop (x : BatchSlot) : BatchSlot := if x.state = .filling then {} else x
  (((s.modPup (fun p => { p with slot0 := drop p.slot0, slot1 := drop p.slot1 })).entryDone 2).ev
    0x0031 unitPuppeteer 0 id).tick

/-- The bus errors of a read that failed twice; an earlier failure has been counted. -/
def State.readErrors (s : State) (o : HostOutcome) : State :=
  let t := s.busError o
  if s.pup.readFails = 0 then t.busError o else t

/-- INGEST_TAKE (R305, R306): the entry at the cursor is read and checked. -/
def execIngestTake (o : HostOutcome) (s : State) : Host.Outcome State Fault Refusal :=
  if !s.ingests || decide (s.pup.prod ≤ s.cursor) then .next s
  else match s.freeSlot with
    | none => .next s
    | some k =>
      let a := s.entryAddr s.cursor
      if o ≠ .ok ∨ hostTop < a + 64 then .next ((s.readErrors o).ingestBad (Config.freeWord s.freeCtr % 2 ^ 64))
      else
        let addr := s.rdNat 2 a 8
        let len := s.rdNat 2 (a + 8) 4
        let id := s.rdNat 2 (a + 16) 8
        if len = 0 ∨ s.f F.schBatchSize < len + 64 ∨ addr % 64 ≠ 0 then .next (s.ingestBad id)
        else .next ((s.modPup (fun p => { p with readFails := 0 })).putSlot k
          { state := .filling, cursor := s.cursor, id := id, length := len, addr := addr })

/-- BATCH_PRESENT (R305, R306): the batch has been copied into its slot with its header, or its read has failed
twice. -/
def execBatchPresent (o : HostOutcome) (s : State) : Host.Outcome State Fault Refusal :=
  match [0, 1].find? (fun k => (s.batchSlot k).state == .filling) with
  | none => .next s
  | some k =>
    let x := s.batchSlot k
    let base := s.slotBase k
    if !s.ingests then .next s
    else if o ≠ .ok ∨ hostTop < x.addr + x.length then .next ((s.readErrors o).ingestBad x.id)
    else
      let head := leBytes 8 x.id ++ leBytes 8 x.length ++ leBytes 8 x.cursor ++ leBytes 40 0
      let t := ((s.wrBytes 1 (base + 64) (s.rdBytes 2 x.addr x.length)).wrBytes 1 base head).unpoison 1 base
        (64 + x.length)
      .next ((t.putSlot k { x with state := .present }).entryDone 1)

/-- The step that the loop launches next has no batch of its own yet. -/
def State.wantsSlot (s : State) : Bool := s.pup.next == .next || (s.pup.next == .replay && !s.pup.mine)

/-- INGEST_STALL (R306): a step has waited for its slot for longer than TIMEOUT. -/
def execIngestStall (s : State) : Host.Outcome State Fault Refusal :=
  match s.pup.waitFrom with
  | none => .next s
  | some t =>
    if s.pup.stallSeen || !s.wantsSlot || !s.pup.settled || s.presentSlot.isSome || !s.looping ||
        decide (s.aon ≤ t + max 1 (s.f F.schIngestCfgTimeout) * 3125) then .next s
    else .next ((s.modPup (fun p => { p with stallSeen := true })).ev 0x0032 unitPuppeteer 0 s.cursor)

/-! ### The SVC instructions (R298, R299) -/

/-- The puppeteer runs the SVC instructions in admission order, one at a time. -/
def State.svcTurn (s : State) (i : Inst) : Bool :=
  !s.sec.halted && !s.sch.inflight.any (fun j => j.code.iclass == 9 && decide (j.id < i.id) && j.phase != .done)

/-- SVC.SEED (R299). -/
def execSvcSeed (id : Nat) (s : State) : Host.Outcome State Fault Refusal :=
  s.startIf 0x9000 id s.svcTurn (fun i =>
    let v := i.code.imm1
    let t := if s.pass.launched then s.modPass (fun p => { p with nextSeed := some v })
      else s.modPass (fun p => { p with seed := v, nextSeed := none })
    t.finishes i 0 0 0)

/-- The checks on H0 of SVC.CKPT and SVC.RECORD: a U8 tensor of one dimension in host memory or HBM. -/
def svcOperand (d : Desc) (size : Nat) : Nat := firstFail [
  (d.loc == 1 || d.loc == 2, stDescInvalid),
  (d.format == 0xe, stOperandFormat),
  (d.ndim == 1 && decide (size ≤ d.e 0), stShapeMismatch)]

/-- SVC.CKPT (R299): the checkpoint of the next committed step; it completes with its confirmation. -/
def execSvcCkpt (id : Nat) (s : State) : Host.Outcome State Fault Refusal :=
  s.startIf 0x9001 id s.svcTurn (fun i =>
    let size := ckptBytes s.load.params s.avgSlots s.load.buckets
    let st := if i.code.flag 3 then svcOperand (i.d 0) size else stOk
    if st ≠ stOk then s.fails i st
    else (s.putInst { i with phase := .running }).modPass (fun p => { p with ckptIds := p.ckptIds ++ [id] }))

/-- The tiles that are FREE. -/
def State.freeTiles (s : State) : List Nat := (List.range tileCount).filter (fun t => (s.tile t).isFree)

/-- SVC.SCRUB (R299, R389): every FREE tile is scrubbed; while halt is granted it is not permitted. -/
def execSvcScrub (id : Nat) (s : State) : Host.Outcome State Fault Refusal :=
  s.startIf 0x9002 id (fun i => s.svcTurn i && (s.f F.secStatusDebug == 2 || !s.fb F.secScrubRunning)) (fun i =>
    if s.f F.secStatusDebug = 2 then s.fails i stNotPermitted
    else (s.putInst { i with phase := .running }).startScrub s.freeTiles false)

/-- SVC.RECORD (R299): the step record of the last committed step. -/
def execSvcRecord (id : Nat) (s : State) : Host.Outcome State Fault Refusal :=
  s.startIf 0x9003 id s.svcTurn (fun i =>
    let st := svcOperand (i.d 0) 256
    if st ≠ stOk then s.fails i st
    else
      let b := s.pup.lastRec
      (s.wrElems (i.d 0) 0 (b.map (fun x => x.toNat))).finishes i 0 0 b.length)

/-! ### The command mailbox (R313) -/

/-- The loop halts if nothing of a step is out, or the replay that is due will not run (R87, R302). -/
def State.tryHalt (s : State) : State :=
  if s.f F.schLoopState ≠ 2 ∨ s.pass.launched then s
  else if s.pass.recover ∧ s.pass.policy ≠ 1 ∧ s.pass.policy ≠ 0 then s
  else if s.pup.next = .replay ∧ s.fb F.schCtrlRun then s
  else s.loopOn

/-- Belgar replay is resident. -/
def State.resident (s : State) : Bool := s.f F.devReplayStatusState != 0

/-- Space, address and command code of the block that a value of SCH.SVC_CMD names. -/
def svcSpace (v : Nat) : Nat := if bitOf v 63 then 2 else 1
def svcAddr (v : Nat) : Nat := bitsOf v 6 42 * 64
def State.svcCode (s : State) (v : Nat) : Nat := s.rdNat (svcSpace v) (svcAddr v) 2

/-- The block of a command can be read: the puppeteer runs, and host memory answers if it lies there. -/
def State.svcReadable (s : State) (v : Nat) : Bool :=
  !s.sec.halted && (svcSpace v == 1 || (s.hostReady && decide (svcAddr v + 64 ≤ hostTop)))

/-- The registers show a command that has begun, and the puppeteer has its fields. -/
def State.beginCmd (s : State) (v : Nat) : State :=
  let num (o n : Nat) : Nat := s.rdNat (svcSpace v) (svcAddr v + o) n
  let c : SvcCmd := { cmd := num 0 2, space := svcSpace v, addr := svcAddr v, tag := num 2 2, arg0 := num 8 8,
                      arg1 := num 16 8 }
  let t := ((s.setF F.schSvcCmdHost (natOfBool (bitOf v 63))).setF F.schSvcCmd (svcAddr v)).setF F.schSvcStatusBusy 1
  (t.modPup (fun p => { p with cmd := some c })).wakeUp 5

/-- The block is read and its command runs: a rank that is frozen or restoring takes only LOOP_STOP and FW_STAGE, and
beside replay FW_STAGE alone runs. -/
def State.svcTake (v : Nat) (run : State → SvcCmd → State) (s : State) : State :=
  let t := s.beginCmd v
  let code := s.svcCode v
  let frozen := s.passState == psFrozen || s.passState == psRestore
  match t.pup.cmd with
  | none => t
  | some x =>
    if 1 ≤ code ∧ code ≤ 7 ∧ ((frozen ∧ code ≠ 2 ∧ code ≠ 6) ∨ (s.resident ∧ code ≠ 6)) then t.endCmd 1 0
    else run t x

/-- The command waits until its block can be read. -/
def State.svcWait (v : Nat) (s : State) : State :=
  let t := ((s.setF F.schSvcCmdHost (natOfBool (bitOf v 63))).setF F.schSvcCmd (svcAddr v)).setF F.schSvcStatusBusy 1
  (t.modPup (fun p => { p with cmdAt := some v })).wakeUp 5

/-- A write of SCH.SVC_CMD whose block holds a command that `mine` knows: while BUSY it is a violation; while the puppeteer
is halted or host memory does not answer the command waits. -/
def State.svcEffect (v : Nat) (mine : Nat → Bool) (run : State → SvcCmd → State) (s : State) : State :=
  if s.fb F.schSvcStatusBusy then s.violation 3
  else if !s.svcReadable v then s.svcWait v
  else if mine (s.svcCode v) then State.svcTake v run s
  else s

/-- The row of a service command. -/
def State.svcRow (s : State) (c : Instr) (v : Nat) (mine : Nat → Bool) (run : State → SvcCmd → State) :
    Host.Outcome State Fault Refusal :=
  s.hostAccess c false (State.svcEffect v mine run)

/-- LOOP_START (R302, R313): the loop runs; the ring's size takes effect; a step whose batch is held is launched
again under its own number (R87). -/
def State.loopStart (s : State) (x : SvcCmd) : State :=
  if s.f F.schLoopState ≠ 0 ∨ !s.fb F.schCtrlRun ∨ !s.load.loaded ∨ s.f F.secStatusDebug = 2 then s.endCmd 1 0
  else if (x.arg0 ≠ 0 ∧ x.arg0 ≤ s.c) ∨ 2 ^ 32 ≤ x.arg0 then s.endCmd 2 0
  else
    let t := ((s.setF F.schLoopStepLimit x.arg0).setF F.schLoopState 1).setF F.schLoopReason 0
    (t.modPup (fun p => { p with
      ringLog2 := max 4 (min 20 (s.f F.schIngestCfgLog2)), waitFrom := some s.aon, stallSeen := false
      next := if p.mine then .replay else .next })).endCmd 0 0

/-- LOOP_START. -/
def execLoopStart (v : Nat) (s : State) : Host.Outcome State Fault Refusal :=
  s.svcRow (.loopStart v) v (fun k => k == 1) State.loopStart

/-- LOOP_STOP (R302, R313): no new step follows; the command is done at HALTED. -/
def State.loopStop (s : State) : State :=
  if !s.looping then s.endCmd 1 0 else (s.setF F.schLoopState 2).tryHalt

/-- LOOP_STOP. -/
def execLoopStop (v : Nat) (s : State) : Host.Outcome State Fault Refusal :=
  s.svcRow (.loopStop v) v (fun k => k == 2) (fun t _ => t.loopStop)

/-- LOOP_RESTART (R226, R313): fences and CLEAR, then a RESUME of the step, or a ROLLBACK to G. -/
def State.loopRestart (s : State) (x : SvcCmd) : State :=
  if s.f F.schLoopState ≠ 3 ∨ !s.isActive ∨ s.f F.secStatusDebug = 2 then s.endCmd 1 0
  else if 1 < x.arg0 then s.endCmd 2 0
  else
    let t := (s.setF F.schLoopState 1).setF F.schLoopReason 0
    let t := (t.setPst psIdle).startRecovery (if x.arg0 = 0 then 0 else 3) s.stepNow
    let t := (if x.arg0 = 0 then t.replayNext false else t).endCmd 0 0
    t.tryClears

/-- LOOP_RESTART. -/
def execLoopRestart (v : Nat) (s : State) : Host.Outcome State Fault Refusal :=
  s.svcRow (.loopRestart v) v (fun k => k == 3) State.loopRestart

/-- RESTORE_HOST (R310): the host copy is checked and R241 runs from it; ROLLBACK_COMPLETE ends the command. -/
def State.restoreHost (s : State) (x : SvcCmd) : State :=
  let a := x.arg0
  if s.looping then s.endCmd 1 0
  else if !s.hostReady then s.endCmd 4 0
  else if hostTop < a + 4096 ∨ !s.load.loaded ∨ !s.ckptOk 2 a none ∨ s.hdr 2 a 24 2 ≠ s.f F.schRankRank ∨
      s.hdr 2 a 28 4 ≠ s.n then s.endCmd 2 0
  else
    let step := s.hdr 2 a 8 4
    let t := (s.withdraw.abandonCkpts.restoreFrom 2 a true).setPst psRestore
    (t.modPass (fun p => { p with stage := 2, target := step })).modPup (fun p => { p with
      cmd := some { x with step := some step } })

/-- RESTORE_HOST. -/
def execRestoreHost (v : Nat) (s : State) : Host.Outcome State Fault Refusal :=
  s.svcRow (.restoreHost v) v (fun k => k == 4) State.restoreHost

/-- CKPT_NOW (R309, R313): a checkpoint of the next committed step; done at its confirmation. -/
def execCkptNow (v : Nat) (s : State) : Host.Outcome State Fault Refusal :=
  s.svcRow (.ckptNow v) v (fun k => k == 5) (fun t _ => t.modPass (fun p => { p with ckptCmd := true }))

/-- FW_STAGE (R314, R377): the image is copied into the bank that is not active, and verified. -/
def State.fwStage (s : State) (x : SvcCmd) : State :=
  let top := if x.space = 1 then hbmTop else hostTop
  if s.boot.update then s.endCmd 1 0
  else if x.arg1 < 5632 ∨ 5632 + 0x4000000 < x.arg1 ∨ top < x.arg0 + x.arg1 then
    ((s.putBank s.spareBank none).setF F.schSvcStatusStaged 0).endCmd 3 0
  else
    let r := s.stage (s.rdBytes x.space x.arg0 x.arg1)
    if r.2 = 0 then r.1.endCmd 0 0 else r.1.endCmd 3 0

/-- FW_STAGE. -/
def execFwStage (v : Nat) (s : State) : Host.Outcome State Fault Refusal :=
  s.svcRow (.fwStage v) v (fun k => k == 6) State.fwStage

/-- FW_ACTIVATE (R314): the staged bank boots next. -/
def State.fwActivate (s : State) : State :=
  if s.looping || !s.fb F.schSvcStatusStaged then s.endCmd 1 0 else s.activateBank.endCmd 0 0

/-- FW_ACTIVATE. -/
def execFwActivate (v : Nat) (s : State) : Host.Outcome State Fault Refusal :=
  s.svcRow (.fwActivate v) v (fun k => k == 7) (fun t _ => t.fwActivate)

/-- SERVICE_BAD_CMD (R313): a command that is not listed. -/
def execServiceBadCmd (v : Nat) (s : State) : Host.Outcome State Fault Refusal :=
  s.svcRow (.serviceBadCmd v) v (fun k => k == 0 || decide (7 < k)) (fun t _ => t.endCmd 5 0)

/-- The effect of the command that a block holds. -/
def State.svcRun (t : State) (x : SvcCmd) : State :=
  if x.cmd = 1 then t.loopStart x
  else if x.cmd = 2 then t.loopStop
  else if x.cmd = 3 then t.loopRestart x
  else if x.cmd = 4 then t.restoreHost x
  else if x.cmd = 5 then t.modPass (fun p => { p with ckptCmd := true })
  else if x.cmd = 6 then t.fwStage x
  else if x.cmd = 7 then t.fwActivate
  else t.endCmd 5 0

/-- A write of SCH.SVC_CMD: the effect of the command its block holds. -/
def State.svcWrite (v : Nat) (s : State) : State := State.svcEffect v (fun _ => true) State.svcRun s

/-- A command that waited runs once its block can be read. -/
def State.svcLate (s : State) : State :=
  match s.pup.cmdAt with
  | none => s
  | some v => if s.svcReadable v then State.svcTake v State.svcRun (s.modPup (fun p => { p with cmdAt := none })) else s

end Sys2Proof.Machine
end

