-- ==== Sys2Proof/Machine/Vec.lean ====
section
/-! DEFINITION. The vector engine (R169 to R181, R273 to R276): element-wise and irregular
instructions, linked chains and finished-tile consumers. -/

namespace Sys2Proof.Machine

/-! ### Formats and shapes -/

/-- A format of the floating class, or of the integer class (R172). -/
def sameClass (a b : Nat) : Bool := (fmtFloat a && fmtFloat b) || (fmtInt a && fmtInt b)

/-- A format that VEC.CVT takes (R173). -/
def convertible (f : Nat) : Bool := fmtListed f && f != 5 && f != 6 && f != 8

/-- A source has the destination's extents, except along broadcast dimensions (R169). -/
def Desc.fits (d dst : Desc) : Bool :=
  d.ndim == dst.ndim && (List.range d.ndim).all (fun k => d.e k == dst.e k || d.broadcast k)

/-- The flat element of a source that stands beside flat element `k` of the destination. -/
def Desc.beside (d dst : Desc) (k : Nat) : Nat :=
  let ix := dst.idx k
  let at_ (j : Nat) : Nat := if d.e j = dst.e j then nth ix j else 0
  at_ 0 + d.e 0 * (at_ 1 + d.e 1 * (at_ 2 + d.e 2 * (at_ 3 + d.e 3 * at_ 4)))

/-- The same tensor (R170). -/
def Desc.same (a b : Desc) : Bool :=
  a.loc == b.loc && a.base == b.base && a.format == b.format && a.ext == b.ext &&
  a.stride == b.stride && a.block == b.block && a.expOff == b.expOff && a.expStride == b.expStride

/-- The values of a source beside each element of the destination. -/
def State.valsFor (s : State) (d dst : Desc) (eb : Nat) : List Val :=
  (List.range dst.count).map (fun k => s.elemVal d eb (d.beside dst k))

/-! ### Element functions (R172) -/

/-- The order of MIN, MAX and of keys: +0 ranks above −0 (R172, R180); NaN is the highest. -/
def Val.below (a b : Val) : Bool :=
  match a, b with
  | .nan, _ => false
  | .inf _, .nan => true
  | .negZero, .nan => true
  | .fin _, .nan => true
  | .negZero, .fin q => decide (0 ≤ q)
  | .fin p, .negZero => decide (p < 0)
  | .inf _, _ => a.lt b
  | .negZero, _ => a.lt b
  | .fin _, _ => a.lt b

/-- The smaller of two values, and the larger; a NaN gives NaN. -/
def Val.min2 (a b : Val) : Val := if a = .nan ∨ b = .nan then .nan else if b.below a then b else a
def Val.max2 (a b : Val) : Val := if a = .nan ∨ b = .nan then .nan else if a.below b then b else a

/-- The magnitude of a value. -/
def Val.abs (a : Val) : Val :=
  match a with
  | .nan => .nan
  | .inf _ => .inf false
  | .negZero => .fin 0
  | .fin q => .fin (qabs q)

/-- A floating operation on one element: its exact value, and whether a function saturated in F32. -/
def ewFloat (op imm0 : Nat) (a b c : Val) : Val × Bool :=
  match op with
  | 0x00 => (a.add b, false)
  | 0x01 => (a.sub b, false)
  | 0x02 => (a.mul b, false)
  | 0x03 => (a.fma b c, false)
  | 0x04 => (a.min2 b, false)
  | 0x05 => (a.max2 b, false)
  | 0x06 => (a.abs, false)
  | 0x07 => (a.negate, false)
  | 0x10 => (if a.isZero then c else b, false)
  | 0x11 => let r := func32 imm0 a
            (f32Val r.val, decide (0 < r.sat))
  | _ => (a, false)

/-- The `w`-bit pattern of an integer. -/
def patOf (w : Nat) (z : Int) : Nat := unsignedOf w z

/-- Bitwise AND, OR and XOR of integers in two's complement of unbounded width (R172). -/
def andInt (a b : Int) : Int := Int.land a b
def orInt (a b : Int) : Int := Int.lor a b
def xorInt (a b : Int) : Int := Int.xor a b

/-- An integer operation on one element, exact; `w` and `sg` are the width and signedness of source 0, and `w` is the
width that a shift count is held against. SHR of a signed format shifts the pattern read as unsigned and saturates the
result: SHR by 0 of I8 -1 gives 127 (DESIGN CHOICE, notes/assumptions). -/
def ewInt (op w : Nat) (sg : Bool) (a b c : Int) : Int :=
  match op with
  | 0x00 => a + b
  | 0x01 => a - b
  | 0x02 => a * b
  | 0x04 => min a b
  | 0x05 => max a b
  | 0x06 => (a.natAbs : Int)
  | 0x07 => -a
  | 0x08 => andInt a b
  | 0x09 => orInt a b
  | 0x0a => xorInt a b
  | 0x0b => if sg then -a - 1 else ((2 ^ w - 1 - patOf w a : Nat) : Int)
  | 0x0c => if (w : Int) ≤ b then (if a = 0 then 0 else if a < 0 then -(2 ^ 320) else 2 ^ 320)
            else a * 2 ^ b.toNat
  | 0x0d => if (w : Int) ≤ b then 0 else ((patOf w a / 2 ^ b.toNat : Nat) : Int)
  | 0x0e => if (w : Int) ≤ b then (if a < 0 then -1 else 0) else Int.fdiv a (2 ^ b.toNat)
  | 0x10 => if a = 0 then c else b
  | _ => a

/-- VEC.CMP on one element (R172, R273). -/
def cmpVals (pred : Nat) (a b : Val) : Bool :=
  if pred = 0 then a.eq b else if pred = 1 then !a.eq b else if pred = 2 then a.lt b
  else a.lt b || a.eq b

/-- The integer of a value. -/
def Val.int (v : Val) : Int := v.rat.num

/-! ### Element-wise members -/

/-- Source 0 of a member: a tensor, or the previous member's result as its destination holds it. -/
structure Src0 where
  d    : Desc
  prev : Option Encoded := none

/-- The values of source 0. -/
def State.src0Vals (s : State) (a : Src0) (dst : Desc) (eb : Nat) : List Val :=
  match a.prev with
  | none => s.valsFor a.d dst eb
  | some e => e.vals a.d eb

/-- The sources of a member that are tensors, source 0 apart when it is the previous result. -/
def Inst.tensors (i : Inst) (a : Src0) : List Desc :=
  (if a.prev.isSome then [] else [a.d]) ++ (if i.has 2 then [i.d 2] else []) ++
    (if i.has 3 then [i.d 3] else [])

/-- A shift. -/
def isShift (op : Nat) : Bool := op == 0x0c || op == 0x0d || op == 0x0e

/-- The formats of an element-wise member (R172, R173). -/
def ewFormats (i : Inst) (a dst : Desc) : Bool :=
  let op := i.code.opcode
  if op = 0x12 then convertible a.format && convertible dst.format
  else if op = 0x10 then
    a.format == 0xe && sameClass (i.d 2).format (i.d 3).format && sameClass (i.d 2).format dst.format
  else
    let cls := sameClass a.format a.format
    cls && (!(op == 3 || op == 0x11) || fmtFloat a.format) &&
    (!(isShift op || op == 8 || op == 9 || op == 0xa || op == 0xb) || fmtInt a.format) &&
    (!i.has 2 || (if isShift op then (i.d 2).format == 0xe else sameClass a.format (i.d 2).format)) &&
    (!i.has 3 || sameClass a.format (i.d 3).format) &&
    (if op = 0x0f then dst.format == 0xe else sameClass a.format dst.format)

/-- The immediates of an element-wise member (R273, R274). -/
def ewImms (i : Inst) (a dst : Desc) : Bool :=
  let op := i.code.opcode
  (op != 0x0f || decide (i.code.imm0 ≤ 3)) && (op != 0x11 || decide (i.code.imm0 ≤ 7)) &&
  (op != 0x12 || (decide (i.code.imm0 ≤ 2) &&
    (a.format == 7 || dst.format == 7 || i.code.imm1 % 256 == 0))) &&
  (!(i.code.flag 3 && fmtFloat a.format) || decide (i.code.imm1 < 2 ^ 32))

/-- The stage-3 checks of an element-wise member (R252); `final` says that its destination is stored. -/
def State.ewStatus (s : State) (i : Inst) (a : Src0) (dst : Desc) (final : Bool) : Nat :=
  firstFail [
    (ewFormats i a.d dst, stOperandFormat),
    ((i.tensors a).all (fun d => d.fits dst) && (a.prev.isNone || (a.d.ndim == dst.ndim && a.d.ext == dst.ext)),
      stShapeMismatch),
    (!final || (i.tensors a).all (fun d => d.same dst || !d.overlaps dst), stOperandAlias),
    (ewImms i a.d dst, stImmInvalid),
    (!s.seesawBeyond i, stIndexRange)]

/-- The scalar of a record (R274). -/
def Rec.scalar (r : Rec) (floating : Bool) : Val :=
  if floating then f32Val (bitsOf r.imm1 0 32) else .fin (signedOf 64 r.imm1)

/-- The rounding mode of flat element `k` of a member (R50, R52, R457). -/
def State.ewMode (s : State) (i : Inst) (k : Nat) : Rnd :=
  if i.code.opcode = 0x12 then
    (if i.code.imm0 = 1 then .rtz
     else if i.code.imm0 = 2 then .sr (srBits s.pass.seed s.stepNow k i.code.h0) else .rne)
  else .rne

/-- A result before it is written: its exact value, whether a function saturated on the way, and whether an operand that
it is computed from was NaN or infinite (R54). -/
structure EwOut where
  val : Val
  sat : Bool := false
  nf  : Bool := false

/-- The result of an operation on one element of each source. -/
def EwOut.of (i : Inst) (a : Desc) (x y z : Val) : EwOut :=
  let op := i.code.opcode
  let fl := fmtFloat a.format
  let nf := x.nonFinite || y.nonFinite || z.nonFinite
  if op = 0x0f then { val := .fin (natOfBool (cmpVals i.code.imm0 x y) : Nat), nf := nf }
  else if op = 0x12 then { val := x }
  else if op = 0x10 then { val := (ewFloat op 0 x y z).1 }
  else if fl then
    let r := ewFloat op i.code.imm0 x y z
    { val := r.1, sat := r.2, nf := nf }
  else { val := .fin (ewInt op (fmtBits a.format) (fmtSigned a.format) x.int y.int z.int : Int) }

/-- The results of an element-wise member. -/
def State.ewResults (s : State) (i : Inst) (a : Src0) (dst : Desc) : List EwOut :=
  let n := dst.count
  let av := s.src0Vals a dst (bitsOf i.code.imm1 0 8)
  let bv := if i.has 2 then s.valsFor (i.d 2) dst 0
    else if i.code.flag 3 then List.replicate n (i.code.scalar (fmtFloat a.d.format))
    else List.replicate n (.fin (i.code.imm0 : Nat))
  let cv := if i.has 3 then s.valsFor (i.d 3) dst 0 else List.replicate n (.fin 0)
  ((av.zip bv).zip cv).map (fun x => EwOut.of i a.d x.1.1 x.1.2 x.2)

/-- Flat element `k` of an encoding saturated as its value `v` was written (R53). -/
def Encoded.satAt (e : Encoded) (d : Desc) (eb : Nat) (r : Rnd) (k : Nat) (v : Val) : Bool :=
  if fmtBlock d.format then
    (match e.blocks.find? (fun b => decide (b.1 ≤ k) && decide (k < b.1 + b.2.2.length)) with
      | some b => b.2.1 != 0 && b.2.1 != 0xff && (mantissa r b.2.1 v.rat).2
      | none => false)
  else decide (0 < (encElem d.format eb r v).sat)

/-- How each element counts, as saturated or as non-finite, never as both (R54). -/
def State.ewMarks (s : State) (i : Inst) (dst : Desc) (e : Encoded) (rs : List EwOut) : List (Bool × Bool) :=
  (rs.zip (e.vals dst 0)).zipIdx.map (fun x =>
    let o := x.1.1
    let nf := o.nf || o.val.nonFinite || x.1.2.nonFinite
    (!nf && (o.sat || e.satAt dst (bitsOf i.code.imm1 0 8) (s.ewMode i x.2) x.2 o.val), nf))

/-- An element-wise member's result as its destination holds it, each element counted once. -/
def State.ewEncode (s : State) (i : Inst) (a : Src0) (dst : Desc) : Encoded × List (Bool × Bool) :=
  let rs := s.ewResults i a dst
  let e := encodeVals dst (bitsOf i.code.imm1 0 8) (s.ewMode i) (rs.map EwOut.val)
  let m := s.ewMarks i dst e rs
  ({ e with sat := m.countP (fun x => x.1), nf := m.countP (fun x => x.2) }, m)

/-! ### Irregular operations (R179 to R181, R275, R276) -/

/-- Rows of a tensor, and whether one is too long. -/
def Desc.rows (d : Desc) : Nat := d.e 1 * d.e 2 * d.e 3 * d.e 4
def Desc.longRow (d : Desc) : Bool := decide (1048576 < d.e 0)

/-- An index list: U32 or I32 of one dimension. -/
def idxFormat (d : Desc) : Bool := d.format == 0xc || d.format == 9

/-- The index lists' entries as integers. -/
def State.indices (s : State) (d : Desc) : List Int := (List.range d.count).map (fun k => (s.elemVal d 0 k).int)

/-- No destination overlaps a source or the other destination (R170). -/
def noAlias (dsts srcs : List Desc) : Bool :=
  dsts.all (fun d => srcs.all (fun x => !d.overlaps x)) &&
  (match dsts with
   | [a, b] => !a.overlaps b
   | _ => true)

/-- The exact sum of values (R41). -/
def sumVals : List Val → Val
  | [] => .fin 0
  | v :: r => r.foldl Val.add v

/-- The largest of values; a NaN gives NaN. -/
def maxVals (empty : Val) : List Val → Val
  | [] => empty
  | v :: r => r.foldl Val.max2 v

/-- What an irregular instruction gives: its result, further destination elements, the count of
RESULT, and a status. -/
structure Irr where
  status : Nat := 0
  vals   : List Val := []
  second : List Nat := []
  result : Nat := 0
  /-- Non-finite elements beside those of `vals`. -/
  nf     : Nat := 0
  /-- The destination rows that are written; none for all of them. -/
  only   : Option (List Nat) := none

/-- The stage-3 checks of VEC.GATHER (R276). -/
def State.gatherStatus (s : State) (i : Inst) (dst : Desc) (final : Bool) : Nat :=
  let t := i.d 1
  let x := i.d 2
  firstFail [
    (sameClass t.format dst.format && idxFormat x, stOperandFormat),
    (x.ndim == 1 && dst.e 0 == t.e 0 && dst.rows == x.count, stShapeMismatch),
    (!final || noAlias [dst] [t, x], stOperandAlias),
    (!t.longRow && !x.longRow, stRowLength),
    (!s.seesawBeyond i, stIndexRange)]

/-- VEC.GATHER: destination row m is table row x[m] (R179, R181). -/
def State.gather (s : State) (i : Inst) (dst : Desc) : Irr :=
  let t := i.d 1
  let xs := s.indices (i.d 2)
  let bad (x : Int) : Bool := decide (x < 0) || decide ((t.rows : Int) ≤ x)
  let oob := xs.countP bad
  if 0 < oob ∧ bitOf i.code.imm0 0 then { status := stIndexRange }
  else
    { vals := xs.flatMap (fun x => (List.range (dst.e 0)).map (fun c =>
        if bad x then .fin 0 else s.elemVal t 0 (x.toNat * t.e 0 + c))), result := oob }

/-- The stage-3 checks of VEC.SCATADD (R276). -/
def State.scataddStatus (s : State) (i : Inst) (a : Src0) (dst : Desc) : Nat :=
  let x := i.d 2
  firstFail [
    (sameClass a.d.format dst.format && idxFormat x, stOperandFormat),
    (x.ndim == 1 && dst.e 0 == a.d.e 0 && a.d.rows == x.count, stShapeMismatch),
    (noAlias [dst] (i.tensors a), stOperandAlias),
    (!dst.longRow && !x.longRow, stRowLength),
    (!s.seesawBeyond i, stIndexRange)]

/-- VEC.SCATADD: destination row x[m] gains source row m, as one exact sum (R41, R179). -/
def State.scatadd (s : State) (i : Inst) (a : Src0) (dst : Desc) : Irr :=
  let xs := s.indices (i.d 2)
  let n := dst.e 0
  let src := match a.prev with
    | none => (List.range a.d.count).map (s.elemVal a.d 0)
    | some e => e.vals a.d 0
  let bad (x : Int) : Bool := decide (x < 0) || decide ((dst.rows : Int) ≤ x)
  let oob := xs.countP bad
  if 0 < oob ∧ bitOf i.code.imm0 0 then { status := stIndexRange }
  else
    let hits (r : Nat) : List Nat := (xs.zipIdx.filter (fun x => x.1 == (r : Int))).map (fun x => x.2)
    { vals := (List.range dst.count).map (fun k =>
        sumVals (s.elemVal dst 0 k :: (hits (k / n)).map (fun m => src.getD (m * n + k % n) (.fin 0)))),
      only := some ((List.range dst.rows).filter (fun r => !(hits r).isEmpty)), result := oob }

/-- The stage-3 checks of VEC.SEGSUM and VEC.SEGMAX (R276). -/
def State.segStatus (s : State) (i : Inst) : Nat :=
  let d := i.d 0
  let x := i.d 1
  let o := i.d 2
  firstFail [
    (sameClass x.format d.format && idxFormat o, stOperandFormat),
    (o.ndim == 1 && d.e 0 == x.e 0 && d.rows + 1 == o.count, stShapeMismatch),
    (noAlias [d] [x, o], stOperandAlias),
    (!d.longRow && !o.longRow, stRowLength),
    (!s.seesawBeyond i, stIndexRange)]

/-- Offsets are in order, and within the items (R181). -/
def offsetsOk (items : Nat) : List Int → Bool
  | [] => true
  | [x] => decide (0 ≤ x) && decide (x ≤ items)
  | x :: y :: r => decide (0 ≤ x) && decide (x ≤ y) && offsetsOk items (y :: r)

/-- The value of an empty segment's maximum (R181). -/
def emptyMax (f : Nat) : Val :=
  if fmtFloat f then .inf true
  else .fin (if fmtSigned f then -((2 ^ (fmtBits f - 1) : Nat) : Int) else 0 : Int)

/-- VEC.SEGSUM and VEC.SEGMAX. -/
def State.segment (s : State) (i : Inst) (isMax : Bool) : Irr :=
  let d := i.d 0
  let x := i.d 1
  let os := s.indices (i.d 2)
  if !offsetsOk x.rows os then { status := stSegmentInvalid }
  else
    let at_ (k : Nat) : Nat := (os.getD k 0).toNat
    let items (r c : Nat) : List Val :=
      (List.range (at_ (r + 1) - at_ r)).map (fun j => s.elemVal x 0 ((at_ r + j) * x.e 0 + c))
    let n := d.e 0
    { vals := (List.range d.count).map (fun k =>
        if isMax then maxVals (emptyMax d.format) (items (k / n) (k % n)) else sumVals (items (k / n) (k % n))),
      result := if isMax then (List.range d.rows).countP (fun r => at_ r == at_ (r + 1)) else 0 }

/-- An entry put into a list in order, behind those it does not precede. -/
def putInOrder (before : (Val × Nat) → (Val × Nat) → Bool) (x : Val × Nat) :
    List (Val × Nat) → List (Val × Nat)
  | [] => [x]
  | y :: r => if before x y then x :: y :: r else y :: putInOrder before x r

/-- A stable sort (R180). -/
def sortKeys (desc : Bool) (l : List (Val × Nat)) : List (Val × Nat) :=
  l.foldl (fun a x => putInOrder (fun p q => if desc then q.1.below p.1 else p.1.below q.1) x a) []

/-- Rows of keys with their positions. -/
def State.keyRows (s : State) (d : Desc) : List (List (Val × Nat)) :=
  (List.range d.rows).map (fun r => (List.range (d.e 0)).map (fun c => (s.elemVal d 0 (r * d.e 0 + c), c)))

/-- Descriptors of one shape; rows of the same length and count (R276). -/
def Desc.sameShape (a b : Desc) : Bool := a.ndim == b.ndim && a.ext == b.ext
def Desc.sameRows (a b : Desc) : Bool := a.e 0 == b.e 0 && a.rows == b.rows

/-- The stage-3 checks of VEC.SORT (R275, R276). -/
def State.sortStatus (s : State) (i : Inst) : Nat :=
  let d := i.d 0
  let k := i.d 1
  let pay := i.has 2
  firstFail [
    (sameClass k.format d.format && (!pay || ((i.d 2).format == 0xc && (i.d 3).format == 0xc)), stOperandFormat),
    (d.sameRows k && (!pay || ((i.d 2).sameRows k && (i.d 3).sameRows k)), stShapeMismatch),
    (noAlias (if pay then [d, i.d 3] else [d]) (if pay then [k, i.d 2] else [k]), stOperandAlias),
    (!k.longRow, stRowLength),
    (!s.seesawBeyond i, stIndexRange)]

/-- VEC.SORT. -/
def State.sort (s : State) (i : Inst) : Irr :=
  let k := i.d 1
  let rows := (s.keyRows k).map (sortKeys (i.code.flag 4))
  { vals := rows.flatMap (fun r => r.map (fun x => x.1)),
    second := if i.has 2 then (rows.zipIdx.flatMap (fun r => r.1.map (fun x =>
      s.elem (i.d 2) (r.2 * k.e 0 + x.2)))) else [] }

/-- The stage-3 checks of VEC.TOPK (R180, R275, R276). -/
def State.topkStatus (s : State) (i : Inst) : Nat :=
  let d := i.d 0
  let k := i.d 1
  let p := i.d 3
  let n := bitsOf i.code.imm1 0 13
  firstFail [
    (sameClass k.format d.format && p.format == 0xc, stOperandFormat),
    (d.e 0 == n && p.e 0 == n && d.rows == k.rows && p.rows == k.rows && decide (n ≤ k.e 0), stShapeMismatch),
    (noAlias [d, p] [k], stOperandAlias),
    (decide (1 ≤ n) && decide (n ≤ 4096), stImmInvalid),
    (!k.longRow, stRowLength),
    (!s.seesawBeyond i, stIndexRange)]

/-- VEC.TOPK; NaN keys that are not selected count too (R180). -/
def State.topk (s : State) (i : Inst) : Irr :=
  let n := bitsOf i.code.imm1 0 13
  let all := (s.keyRows (i.d 1)).map (sortKeys true)
  let rows := all.map (fun r => r.take n)
  { vals := rows.flatMap (fun r => r.map (fun x => x.1)),
    second := rows.flatMap (fun r => r.map (fun x => x.2)),
    nf := (all.map (fun r => (r.drop n).countP (fun x => x.1 == .nan))).sum }

/-- The stage-3 checks of VEC.HIST (R275, R276). -/
def State.histStatus (s : State) (i : Inst) : Nat :=
  let d := i.d 0
  let x := i.d 1
  firstFail [
    (fmtInt x.format && (d.format == 0xc || d.format == 9), stOperandFormat),
    (decide (3 ≤ d.e 0) && d.rows == 1, stShapeMismatch),
    (noAlias [d] [x], stOperandAlias),
    (!x.longRow && !d.longRow, stRowLength),
    (!s.seesawBeyond i, stIndexRange)]

/-- VEC.HIST. -/
def State.hist (s : State) (i : Inst) : Irr :=
  let d := i.d 0
  let b := d.e 0 - 2
  let base := signedOf 64 i.code.imm1
  let slot (v : Int) : Nat :=
    if v < base then 0 else if base + b ≤ v then b + 1 else (v - base + 1).toNat
  let ks := (s.indices (i.d 1)).map slot
  { vals := (List.range (b + 2)).map (fun k => .fin (ks.count k : Nat)) }

/-! ### Chains and runs -/

/-- The descriptor a member writes: bound for the last, the entry as it stands for the others (R175). -/
def State.memberDst (s : State) (i : Inst) (last : Bool) : Desc :=
  if last then i.d 0 else s.descEntry i.code.h0

/-- The rules of R174 on the members of a chain, in order. -/
def State.chainOk (s : State) (ms : List Inst) : Bool :=
  let n := ms.length
  let last := ms.getLast?.getD {}
  let shape := if last.code.op = 0x3021 then s.memberDst (ms.headD {}) (n == 1) else last.d 0
  decide (n ≤ 8) &&
  ms.zipIdx.all (fun x =>
    let i := x.1
    let k := x.2
    (k == 0 || i.code.flag 1) && (k != 0 || !i.code.flag 1) && (k == 0 || i.code.wait == 0) &&
    (k + 1 == n || i.code.signal == 0) &&
    (i.code.elementwise || (k == 0 && i.code.op == 0x3020) || (k + 1 == n && i.code.op == 0x3021) || n == 1) &&
    (k == 0 || i.code.h1 == (ms.getD (k - 1) {}).code.h0) &&
    (k + 1 == n || (s.memberDst i false).sameShape shape))

/-- The rules of R177 on the members of a chain, in order. -/
def ftqOk (ms : List Inst) : Bool :=
  ms.zipIdx.all (fun x => !x.1.code.flag 2 ||
    (x.2 == 0 && x.1.code.wait == 0 && x.1.producer.isSome &&
      (x.1.code.elementwise || decide (2 ≤ ms.length))))

/-- What a member counts: its saturations, its non-finite elements and its result, and of an element-wise one how each
element counts. -/
structure MemberCount where
  id     : Nat
  op     : Nat
  sat    : Nat
  nf     : Nat
  result : Nat := 0
  marks  : List (Bool × Bool) := []

/-- What the members have given so far: a status, the last result with the rows of it that are written, and the counts. -/
structure Run where
  status : Nat := 0
  prev   : Option (Desc × Encoded) := none
  only   : Option (List Nat) := none
  second : List Nat := []
  counts : List MemberCount := []

/-- The result of an irregular instruction rounded to its destination; rows that are not written count nothing. -/
def Run.irregular (r : Run) (i : Inst) (dst : Desc) (x : Irr) : Run :=
  if x.status ≠ stOk then { r with status := x.status }
  else
    let e := encodeVals dst 0 (fun _ => .rne) x.vals
    let c := match x.only with
      | none => e
      | some rows => encodeVals dst 0 (fun _ => .rne) (rows.flatMap (fun k => (x.vals.drop (k * dst.e 0)).take (dst.e 0)))
    { r with prev := some (dst, e), only := x.only, second := x.second,
             counts := r.counts ++ [{ id := i.id, op := i.code.op, sat := c.sat, nf := c.nf + x.nf, result := x.result }] }

/-- One member. -/
def State.member (s : State) (r : Run) (i : Inst) (last : Bool) : Run :=
  let dst := s.memberDst i last
  let a : Src0 := match r.prev with
    | some p => { d := p.1, prev := some p.2 }
    | none => { d := i.d 1 }
  if r.status ≠ stOk then r
  else match i.code.op with
    | 0x3020 => r.irregular i dst (s.gather i dst)
    | 0x3021 => r.irregular i dst (s.scatadd i a dst)
    | 0x3022 => r.irregular i dst (s.segment i false)
    | 0x3023 => r.irregular i dst (s.segment i true)
    | 0x3024 => r.irregular i dst (s.sort i)
    | 0x3025 => r.irregular i dst (s.topk i)
    | 0x3026 => r.irregular i dst (s.hist i)
    | _ =>
      let e := s.ewEncode i a dst
      { r with prev := some (dst, e.1), counts := r.counts ++
          [{ id := i.id, op := i.code.op, sat := e.1.sat, nf := e.1.nf, marks := e.2 }] }

/-- The stage-3 checks of a member with source 0 `a` (R252). -/
def State.memberStatus (s : State) (i : Inst) (a : Src0) (last : Bool) : Nat :=
  let dst := s.memberDst i last
  if !last && (decide (s.f F.schDtCount ≤ i.code.h0) || !fmtListed dst.format) then stDescInvalid
  else match i.code.op with
    | 0x3020 => s.gatherStatus i dst last
    | 0x3021 => s.scataddStatus i a dst
    | 0x3022 => s.segStatus i
    | 0x3023 => s.segStatus i
    | 0x3024 => s.sortStatus i
    | 0x3025 => s.topkStatus i
    | 0x3026 => s.histStatus i
    | _ => s.ewStatus i a dst last

/-- The first status of stage 3 that a chain ends with: its own rules, then the checks of every member in order (R174,
R175, R177, R252). -/
def State.chainStatus (s : State) (ms : List Inst) : Nat :=
  if !s.chainOk ms then stChainInvalid
  else if !ftqOk ms then stFtqInvalid
  else (ms.zipIdx.findSome? (fun x =>
    let a : Src0 := if x.2 = 0 then { d := x.1.d 1 }
      else { d := s.memberDst (ms.getD (x.2 - 1) {}) false, prev := some {} }
    let st := s.memberStatus x.1 a (x.2 + 1 == ms.length)
    if st = stOk then none else some st)).getD stOk

/-- The members run in order. -/
def State.runMembers (s : State) (ms : List Inst) : Run :=
  ms.zipIdx.foldl (fun r x => s.member r x.1 (x.2 + 1 == ms.length)) {}

/-! ### Finished-tile consumers (R177, R178) -/

/-- Posts of the producer consumed. -/
def State.consumePosts (s : State) (i : Inst) : State :=
  { s with units := { s.units with ftq := s.units.ftq.filter (fun x => i.producer != some x.1) } }

/-- The producer's tiles are all posted, or the instruction consumes none. -/
def State.sourceWhole (s : State) (i : Inst) : Bool :=
  match i.producer.bind s.inst with
  | none => true
  | some p => p.phase == .done && p.posted == p.tiles

/-- Finished tiles that a consumer has not processed, in the order of their posts; of a producer that has completed, all
that are left. -/
def State.tilesFor (s : State) (i : Inst) : List Nat :=
  (match i.producer.bind s.inst with
    | some p => p.made.take p.posted
    | none => List.range ((i.d 1).finTiles i.prodOp)).filter (fun t => !i.took.contains t)

/-- The counts of irregular operations of one member (R181, R189). -/
def State.irregularCounts (s : State) (c : MemberCount) : State :=
  if c.result = 0 then s
  else if c.op = 0x3023 then s.addF F.vecEmptySegments c.result
  else if c.op = 0x3020 ∨ c.op = 0x3021 then
    (match s.inst c.id with
      | some i => (s.addF F.vecIndexOob c.result).evI 0x3101 0x3120 0 c.result i
      | none => s)
  else s

/-- The chain runs whole: every member ends together (R175). -/
def State.runWhole (s : State) (i : Inst) (ms : List Inst) : State :=
  let r := s.runMembers ms
  if r.status ≠ stOk then s.endChain i.members r.status
  else match r.prev, ms.getLast? with
    | some (d, e), some last =>
      let t := match r.only with
        | none => s.wrEncoded d e
        | some rows => s.wrPart d e (fun k => rows.contains (k / d.e 0))
      let t := if r.second.isEmpty then t else t.wrElems (last.d 3) 0 r.second
      let t := r.counts.foldl State.irregularCounts t
      r.counts.foldl (fun t c => t.modInst c.id (fun j => j.finish c.sat c.nf c.result)) t
    | _, _ => s

/-- An element-wise chain runs on one finished tile of its source, and each member counts its elements. -/
def State.runTile (s : State) (i : Inst) (ms : List Inst) (k : Nat) : State :=
  let r := s.runMembers ms
  let mine (e : Nat) : Bool := (i.d 1).finTileOf i.prodOp e == k
  match r.prev with
  | none => s
  | some (d, e) => r.counts.foldl (fun t c =>
      let m := (c.marks.zipIdx.filter (fun x => mine x.2)).map (fun x => x.1)
      t.modInst c.id (fun j => { j with sat := cap32 (j.sat + m.countP (fun x => x.1)),
                                        nf := cap32 (j.nf + m.countP (fun x => x.2)) })) (s.wrPart d e mine)

/-- Every member of a chain is element-wise, so that tiles flow through it one by one. -/
def flows (ms : List Inst) : Bool := ms.all (fun m => m.code.elementwise)

/-- A consumer processes the posted tiles of its source, in post order; after the last it ends. Tiles pass through a chain
that is not element-wise together, once all are posted. -/
def State.feed (s : State) (i : Inst) (ms : List Inst) : State :=
  let ts := s.tilesFor i
  let t := if flows ms then ts.foldl (fun t k => t.runTile i ms k) s else s
  let t := i.members.foldl (fun t m => t.modInst m (fun j => { j with phase := .running })) t
  let t := (t.modInst i.id (fun j => { j with took := j.took ++ ts })).consumePosts i
  if !s.sourceWhole i then t
  else if flows ms then i.members.foldl (fun t m => t.modInst m (fun j => j.finish j.sat j.nf 0)) t
  else t.runWhole i ms

/-- The lines of the elements that a consumer has written (R178). -/
def tileLines (i : Inst) (d : Desc) : List (Nat × Nat) :=
  let ks := (List.range d.count).filter (fun k => i.took.contains ((i.d 1).finTileOf i.prodOp k))
  (ks.flatMap (fun k => (locSpace d.loc, (d.base * 8 + d.off k * fmtBits d.format) / 512) ::
    (if fmtBlock d.format then [(locSpace d.loc, d.expAddr k / 64)] else []))).dedup

/-- The producer of a running consumer has failed: the tiles written are tagged, and the chain ends (R178). -/
def State.starve (s : State) (i : Inst) (ms : List Inst) : State :=
  let lines := if flows ms then tileLines i ((ms.getLast?.getD {}).d 0) else []
  ((s.consumePosts i).tagLines i.lead lines).endChain i.members stDepFailed

/-- A VEC instruction, alone or as the first of its chain, starts. -/
def State.runVec (s : State) (i : Inst) : State :=
  let ms := i.members.filterMap s.inst
  let st := s.chainStatus ms
  if st ≠ stOk then (s.consumePosts i).endChain i.members st
  else if s.sourceWhole i then (s.consumePosts i).runWhole i ms
  else s.feed i ms

/-- The start of a VEC instruction of opcode `op`: the first of its chain starts the whole chain. For a consumer that has
started it is the next turn, on the tiles posted since. -/
def State.startVec (s : State) (op id : Nat) : Host.Outcome State Fault Refusal :=
  match s.inst id with
  | none => .next s
  | some i =>
    if i.phase = .running then
      (if i.code.op ≠ 0x3000 + op ∨ i.took = [] ∨ i.members.head? ≠ some id then .next s
       else
        let ms := i.members.filterMap s.inst
        .next ((if i.depBad then s.starve i ms else s.feed i ms).settleTags id))
    else s.startIf (0x3000 + op) id (fun i => i.members.head? == some id) s.runVec

/-! ### The instructions -/

/-- VEC.ADD (R172). -/
def execVecAdd (id : Nat) (s : State) : Host.Outcome State Fault Refusal := s.startVec 0x00 id
/-- VEC.SUB (R172). -/
def execVecSub (id : Nat) (s : State) : Host.Outcome State Fault Refusal := s.startVec 0x01 id
/-- VEC.MUL (R172). -/
def execVecMul (id : Nat) (s : State) : Host.Outcome State Fault Refusal := s.startVec 0x02 id
/-- VEC.FMA (R172). -/
def execVecFma (id : Nat) (s : State) : Host.Outcome State Fault Refusal := s.startVec 0x03 id
/-- VEC.MIN (R172). -/
def execVecMin (id : Nat) (s : State) : Host.Outcome State Fault Refusal := s.startVec 0x04 id
/-- VEC.MAX (R172). -/
def execVecMax (id : Nat) (s : State) : Host.Outcome State Fault Refusal := s.startVec 0x05 id
/-- VEC.ABS (R172). -/
def execVecAbs (id : Nat) (s : State) : Host.Outcome State Fault Refusal := s.startVec 0x06 id
/-- VEC.NEG (R172). -/
def execVecNeg (id : Nat) (s : State) : Host.Outcome State Fault Refusal := s.startVec 0x07 id
/-- VEC.AND (R172). -/
def execVecAnd (id : Nat) (s : State) : Host.Outcome State Fault Refusal := s.startVec 0x08 id
/-- VEC.OR (R172). -/
def execVecOr (id : Nat) (s : State) : Host.Outcome State Fault Refusal := s.startVec 0x09 id
/-- VEC.XOR (R172). -/
def execVecXor (id : Nat) (s : State) : Host.Outcome State Fault Refusal := s.startVec 0x0a id
/-- VEC.NOT (R172). -/
def execVecNot (id : Nat) (s : State) : Host.Outcome State Fault Refusal := s.startVec 0x0b id
/-- VEC.SHL (R172). -/
def execVecShl (id : Nat) (s : State) : Host.Outcome State Fault Refusal := s.startVec 0x0c id
/-- VEC.SHR (R172). -/
def execVecShr (id : Nat) (s : State) : Host.Outcome State Fault Refusal := s.startVec 0x0d id
/-- VEC.SAR (R172). -/
def execVecSar (id : Nat) (s : State) : Host.Outcome State Fault Refusal := s.startVec 0x0e id
/-- VEC.CMP (R172). -/
def execVecCmp (id : Nat) (s : State) : Host.Outcome State Fault Refusal := s.startVec 0x0f id
/-- VEC.SEL (R172). -/
def execVecSel (id : Nat) (s : State) : Host.Outcome State Fault Refusal := s.startVec 0x10 id
/-- VEC.FUNC (R41, R172). -/
def execVecFunc (id : Nat) (s : State) : Host.Outcome State Fault Refusal := s.startVec 0x11 id
/-- VEC.CVT (R173, R457). -/
def execVecCvt (id : Nat) (s : State) : Host.Outcome State Fault Refusal := s.startVec 0x12 id
/-- VEC.GATHER (R179, R181). -/
def execVecGather (id : Nat) (s : State) : Host.Outcome State Fault Refusal := s.startVec 0x20 id
/-- VEC.SCATADD (R179, R181). -/
def execVecScatadd (id : Nat) (s : State) : Host.Outcome State Fault Refusal := s.startVec 0x21 id
/-- VEC.SEGSUM (R179, R181). -/
def execVecSegsum (id : Nat) (s : State) : Host.Outcome State Fault Refusal := s.startVec 0x22 id
/-- VEC.SEGMAX (R179, R181). -/
def execVecSegmax (id : Nat) (s : State) : Host.Outcome State Fault Refusal := s.startVec 0x23 id
/-- VEC.SORT (R180, R275). -/
def execVecSort (id : Nat) (s : State) : Host.Outcome State Fault Refusal := s.startVec 0x24 id
/-- VEC.TOPK (R180, R275). -/
def execVecTopk (id : Nat) (s : State) : Host.Outcome State Fault Refusal := s.startVec 0x25 id
/-- VEC.HIST (R181, R275). -/
def execVecHist (id : Nat) (s : State) : Host.Outcome State Fault Refusal := s.startVec 0x26 id

end Sys2Proof.Machine
end

