-- ==== Sys2Proof/Machine/Row.lean ====
section
/-! DEFINITION. The row engine (R157 to R165, R293, R294): normalization, soft maximum and
log-sum-exp, forward and backward, with their stat frames. -/

namespace Sys2Proof.Machine

/-! ### Arithmetic (R157 to R160); `toF32` is the pseudocode's rnd -/

/-- The exact sum of a row. -/
def exactSum (vs : List Val) : Val :=
  match vs with
  | [] => .fin 0
  | v :: r => r.foldl Val.add v

/-- A value divided by a finite number that is not zero. -/
def Val.divBy (a : Val) (q : Rat) : Val := a.mul (.fin (1 / q))

/-- The mean of a row, rounded. -/
def meanOf (vs : List Val) : Val := toF32 ((exactSum vs).divBy vs.length)

/-- Values of two rows combined element by element. -/
def zipVals (f : Val → Val → Val) (a b : List Val) : List Val := (a.zip b).map (fun x => f x.1 x.2)

/-- A function of F32 as a value. -/
def callF32 (f : Val → Counted Nat) (v : Val) : Val := f32Val (f v).val

/-- The statistics of a row: two F32 words (R162). -/
abbrev RowStat := Val × Val

/-- Mean and reciprocal deviation of a row (R158). -/
def normStat (rms : Bool) (eps : Val) (x : List Val) : RowStat :=
  let mu := if rms then .fin 0 else meanOf x
  let d := if rms then x else x.map (fun v => toF32 (v.sub mu))
  let var := meanOf (d.map (fun v => v.mul v))
  (mu, callF32 fRsqrt (toF32 (var.add eps)))

/-- The normalized row (R158): `sub` is skipped under RMS, as in the forward. -/
def normHat (rms : Bool) (st : RowStat) (x : List Val) : List Val :=
  x.map (fun v => toF32 ((if rms then v else toF32 (v.sub st.1)).mul st.2))

/-- Layer or RMS normalization forward, each output exact (R157, R158). -/
def normFwd (rms : Bool) (st : RowStat) (x g b : List Val) : List Val :=
  let y := zipVals Val.mul (normHat rms st x) g
  if rms then y else zipVals Val.add y b

/-- The backward row: dx exact, and the row's terms of dg and db (R158). -/
def normBwd (rms : Bool) (st : RowStat) (x dy g : List Val) : List Val × List Val :=
  let xh := x.map (fun v => toF32 ((toF32 (v.sub st.1)).mul st.2))
  let gp := (zipVals Val.mul dy g).map toF32
  let s1 := if rms then .fin 0 else meanOf gp
  let s2 := meanOf (zipVals Val.mul gp xh)
  ((gp.zip xh).map (fun p => st.2.mul ((p.1.sub s1).sub (p.2.mul s2))), zipVals Val.mul dy xh)

/-- A row of a soft maximum: scaled inputs, and which are live (R159). -/
structure SoftRow where
  z    : List Val
  live : List Bool

/-- The scaled row. -/
def softRow (alpha : Val) (x : List Val) (keep : List Bool) : SoftRow :=
  let z := x.map (fun v => toF32 (alpha.mul v))
  { z := z, live := (z.zip keep).map (fun p => p.2 && p.1 != .inf true) }

/-- The live scaled inputs. -/
def SoftRow.lives (r : SoftRow) : List Val := (r.z.zip r.live).filterMap (fun p => if p.2 then some p.1 else none)

/-- The exponentials of a row below its maximum; zero where not live. -/
def SoftRow.exps (r : SoftRow) (m : Val) : List Val :=
  (r.z.zip r.live).map (fun p => if p.2 then callF32 fExp (toF32 (p.1.sub m)) else .fin 0)

/-- The statistics of a row (R159, R162). -/
def SoftRow.stat (r : SoftRow) : RowStat :=
  let ls := r.lives
  if ls.contains .nan then (.nan, .nan)
  else
    let k := ls.countP (fun v => v == .inf false)
    if 0 < k then (.inf false, .fin (k : Nat))
    else match ls with
      | [] => (.inf true, .fin 0)
      | v :: t =>
        let m := t.foldl Val.max2 v
        (m, toF32 (exactSum (r.exps m)))

/-- The flags of a row by its statistics: bit 0 MASKED, 1 INF, 2 NAN (R161, R162). -/
def statFlags (st : RowStat) : Nat :=
  match st.1 with
  | .nan => 4
  | .inf n => if n then 1 else 2
  | .negZero => 0
  | .fin _ => 0

/-- Soft maximum forward, each output exact before its rounding (R159). -/
def softFwd (r : SoftRow) (st : RowStat) : List Val :=
  match st.1 with
  | .nan => r.z.map (fun _ => .nan)
  | .inf n =>
    if n then r.z.map (fun _ => .fin 0)
    else
      let q := callF32 fRecip st.2
      (r.z.zip r.live).map (fun p => if p.2 && p.1 == .inf false then q else .fin 0)
  | .negZero => (r.exps st.1).map (fun e => e.divBy st.2.rat)
  | .fin _ => (r.exps st.1).map (fun e => e.divBy st.2.rat)

/-- The rounded outputs p that a backward computes again (R159). -/
def softAgain (r : SoftRow) (st : RowStat) : List Val := (softFwd r st).map toF32

/-- Soft maximum backward over p and the live elements (R159); special rows by their statistics. -/
def softBwd (alpha : Val) (st : RowStat) (p : List Val) (live : List Bool) (dp : List Val) : List Val :=
  match st.1 with
  | .nan => p.map (fun _ => .nan)
  | .inf _ => p.map (fun _ => .fin 0)
  | .negZero => body
  | .fin _ => body
where
  body : List Val :=
    let ts := p.zip (dp.zip live)
    let c := exactSum (ts.filterMap (fun t => if t.2.2 then some (t.1.mul t.2.1) else none))
    ts.map (fun t => if t.2.2 then alpha.mul (t.1.mul (t.2.1.sub c)) else .fin 0)

/-- Log-sum-exp of a row, exact before its rounding (R160). -/
def lseFwd (st : RowStat) : Val :=
  match st.1 with
  | .nan => .nan
  | .inf n => .inf n
  | .negZero => st.1.add (callF32 fLog st.2)
  | .fin _ => st.1.add (callF32 fLog st.2)

/-- Log-sum-exp backward (R160). -/
def lseBwd (st : RowStat) (p : List Val) (dl : Val) : List Val :=
  match st.1 with
  | .nan => p.map (fun _ => .nan)
  | .inf _ => p.map (fun _ => .fin 0)
  | .negZero => p.map (fun v => dl.mul v)
  | .fin _ => p.map (fun v => dl.mul v)

/-! ### Checks (R293, R294) -/

/-- Formats of x, dy, dp and dl, and of the outputs y, p and dx. -/
def rowInFmt (f : Nat) : Bool := f == 0 || f == 1 || fmtBlock f
def rowOutFmt (f : Nat) : Bool := f == 0 || f == 1 || f == 2 || f == 3

/-- The shape of x, of one value per row, and of one value per column. -/
def Desc.likeRow (d x : Desc) : Bool := d.ndim == x.ndim && d.ext == x.ext
def Desc.perRow (d x : Desc) : Bool :=
  d.ndim == x.ndim && d.e 0 == 1 && [1, 2, 3, 4].all (fun k => d.e k == x.e k)
def Desc.perCol (d x : Desc) : Bool := d.ndim == 1 && d.e 0 == x.e 0

/-- What a slot of a row instruction must hold. -/
inductive RowRole where
  | input | output | rowF32 | rowIn | colF32 | mask | flags
  deriving DecidableEq, Repr

/-- A slot keeps the format and the shape of its role, when it is bound. -/
def Inst.roleFmt (i : Inst) (k : Nat) (r : RowRole) : Bool :=
  let f := (i.d k).format
  !i.has k || (match r with
    | .input => rowInFmt f
    | .output => rowOutFmt f
    | .rowF32 => f == 0
    | .rowIn => rowInFmt f
    | .colF32 => f == 0
    | .mask => f == 0xe
    | .flags => f == 0xe)
def Inst.roleShape (i : Inst) (k : Nat) (r : RowRole) : Bool :=
  let d := i.d k
  let x := i.d 1
  !i.has k || (match r with
    | .input => d.likeRow x
    | .output => d.likeRow x
    | .rowF32 => d.perRow x
    | .rowIn => d.perRow x
    | .colF32 => d.perCol x
    | .mask => d.likeRow x
    | .flags => d.perRow x)

/-- The roles of the slots by instruction (R293). -/
def rowRoles (op : Nat) : List (Nat × RowRole) :=
  match op with
  | 0x6000 => [(0, .output), (1, .input), (2, .colF32), (3, .colF32), (5, .flags)]
  | 0x6001 => [(0, .output), (1, .input), (2, .input), (3, .colF32), (5, .colF32), (6, .colF32)]
  | 0x6002 => [(0, .output), (1, .input), (2, .mask), (3, .flags)]
  | 0x6003 => [(0, .output), (1, .input), (2, .input), (3, .mask)]
  | 0x6004 => [(0, .rowF32), (1, .input), (2, .mask), (3, .flags)]
  | _ => [(0, .output), (1, .input), (2, .rowIn), (3, .mask)]

/-- ε or α. -/
def Rec.rowScalar (r : Rec) : Val := f32Val (bitsOf r.imm1 0 32)

/-- The immediate is in order (R293). -/
def Rec.rowImmOk (r : Rec) : Bool :=
  r.op == 0x6001 || (!r.rowScalar.nonFinite && (r.op != 0x6000 || decide (0 ≤ r.rowScalar.rat)))

/-- The descriptor of STAT names the stat frame of the rows of x (R162, R294). -/
def Inst.statDesc (i : Inst) : Bool :=
  let d := i.d 4
  !i.has 4 || (d.loc == 3 && d.format == 0 && d.ndim == 2 && d.e 0 == 2 && d.e 1 == (i.d 1).rows)

/-- The checks of a row instruction before its frames, in the order of R252. -/
def State.rowStatus (s : State) (i : Inst) : Nat :=
  let roles := rowRoles i.code.op
  firstFail [
    (roles.all (fun r => i.roleFmt r.1 r.2), stOperandFormat),
    (roles.all (fun r => i.roleShape r.1 r.2), stShapeMismatch),
    (i.code.rowImmOk, stImmInvalid),
    (decide ((i.d 1).e 0 ≤ 1048576), stRowLength),
    (!s.seesawBeyond i, stIndexRange),
    (i.statDesc, stDescInvalid)]

/-- The stat frame that an instruction reads is of its kind and rows (R294). -/
def State.statKindOk (s : State) (i : Inst) : Bool :=
  i.code.createSlot.isSome || !i.has 4 ||
  (match s.frame ((i.d 4).base % 2 ^ 32) with
    | some f => (match f.stat with
      | some (k, _, rows, _) => k == i.code.statKind && rows == (i.d 1).rows
      | none => false)
    | none => false)

/-! ### Running a row instruction -/

/-- The rows of an operand with the shape of x, each element its exact value: one of a block format beyond F32's range too
(R157 has it converted to F32 exactly, which F32 cannot hold; notes/assumptions 15). -/
def State.rowsOf (s : State) (d : Desc) : List (List Val) :=
  (List.range d.rows).map (fun r => (List.range (d.e 0)).map (fun k => s.elemVal d 0 (r * d.e 0 + k)))

/-- The statistics that an instruction reads, row by row (R165). -/
def State.readStats (s : State) (i : Inst) : List RowStat :=
  let d := i.d 4
  (List.range (i.d 1).rows).map (fun r => (s.elemVal d 0 (2 * r), s.elemVal d 0 (2 * r + 1)))

/-- Which elements of row `r` the mask at slot `k` and the causal bound keep (R293). -/
def State.keepRow (s : State) (i : Inst) (k r : Nat) : List Bool :=
  let x := i.d 1
  (List.range (x.e 0)).map (fun j =>
    (!i.has k || s.elem (i.d k) (r * x.e 0 + j) != 0) &&
    !(bitOf i.code.imm0 0 && decide ((r % x.e 1 : Int) + signedOf 32 (bitsOf i.code.imm2 32 32) < (j : Int))))

/-- What a forward gives: outputs, and statistics by row. -/
structure RowsOut where
  y    : List Val
  stat : List RowStat := []
  /-- Sums over the rows: dg and db. -/
  cols : List (List Val) := []

/-- The bytes of a stat frame (R162). -/
def statBytes (ss : List RowStat) : List Byte :=
  ss.flatMap (fun p => leBytes 4 (floatEnc 23 .rne p.1).val ++ leBytes 4 (floatEnc 23 .rne p.2).val)

/-- The F32 sums of a backward normalization written, with the prior values under ACC (R158). -/
def State.writeCols (s : State) (i : Inst) (k : Nat) (vs : List Val) : State × Counted Unit :=
  if i.has k then
    let d := i.d k
    let vs := if bitOf i.code.flags 6 then vs.zipIdx.map (fun v => (s.elemVal d 0 v.2).add v.1) else vs
    let e := encodeVals d 0 (fun _ => .rne) vs
    (s.wrEncoded d e, { val := (), sat := e.sat, nf := e.nf })
  else (s, { val := () })

/-- The row flags counted and, with an operand at slot `k`, written (R161). -/
def State.noteFlags (s : State) (i : Inst) (k : Nat) (fs : List Nat) : State :=
  let n (b : Nat) : Nat := fs.countP (fun f => bitOf f b)
  let s := ((s.addF F.rowRowsMasked (n 0)).addF F.rowRowsInf (n 1)).addF F.rowRowsNan (n 2)
  if i.has k then s.wrElems (i.d k) 0 fs else s

/-- The frame of STASH filled with the statistics and the flags of its header (R162, R163). -/
def State.fillStat (s : State) (i : Inst) (ss : List RowStat) (fs : List Nat) : State :=
  s.fillFrame i (statBytes ss) (fs.foldl Nat.lor 0)

/-- A row instruction whose checks pass and whose stat frame was taken: its rows run, and its results are
written (R157, R294). -/
def State.runRows (s : State) (i : Inst) (flagSlot : Nat) (forward : Bool) (run : State → RowsOut) : State :=
  let st := s.rowStatus i
  let fs := s.framesStatus i
  let x := i.d 1
  if st ≠ stOk then s.fails i st
  else if fs ≠ stOk then s.fails i fs
  else if !s.statKindOk i then s.fails i stDescInvalid
  else if s.noRows then s.fails i stHwUnavailable
  else if i.claim ≠ stOk then s.claimFails i
  else
    let o := run s
    let flags := if forward then o.stat.map statFlags else []
    let flags := if i.code.iclass = 6 ∧ i.code.opcode ≤ 1 then flags.map (fun _ => 0) else flags
    let d := i.d 0
    let e := encodeVals d 0 (fun _ => .rne) o.y
    let t := (s.readFrames i).wrEncoded d e
    let a := t.writeCols i 5 (o.cols.getD 0 [])
    let b := if o.cols.isEmpty then (t, ({ val := () } : Counted Unit), ({ val := () } : Counted Unit))
      else
        let c := a.1.writeCols i 6 (o.cols.getD 1 [])
        (c.1, a.2, c.2)
    let t := (b.1.noteFlags i flagSlot flags).fillStat i o.stat flags
    t.putInst ((i.consuming).finish (e.sat + b.2.1.sat + b.2.2.sat) (e.nf + b.2.1.nf + b.2.2.nf)
      (cap32 x.rows + cap32 (flags.countP (fun f => f != 0)) * 2 ^ 32))

/-- The statistics of a forward: its own, or those of STAT under RECOMP (R165). -/
def State.fwdStats (s : State) (i : Inst) (own : List RowStat) : List RowStat :=
  if i.code.flag 4 then s.readStats i else own

/-! ### The instructions -/

/-- ROW.NORM (R158, R161, R162, R293). -/
def execRowNorm (id : Nat) (s : State) : Host.Outcome State Fault Refusal :=
  s.start 0x6000 id (fun i => s.runRows i 5 true (fun s =>
    let xs := s.rowsOf (i.d 1)
    let rms := i.code.rms
    let g := (s.rowsOf (i.d 2)).getD 0 []
    let b := if rms then [] else (s.rowsOf (i.d 3)).getD 0 []
    let sts := s.fwdStats i (xs.map (normStat rms i.code.rowScalar))
    { y := (xs.zip sts).flatMap (fun p => normFwd rms p.2 p.1 g b), stat := sts }))

/-- ROW.NORMB (R158, R293). -/
def execRowNormb (id : Nat) (s : State) : Host.Outcome State Fault Refusal :=
  s.start 0x6001 id (fun i => s.runRows i 9 false (fun s =>
    let xs := s.rowsOf (i.d 1)
    let dys := s.rowsOf (i.d 2)
    let g := (s.rowsOf (i.d 3)).getD 0 []
    let rows := ((xs.zip dys).zip (s.readStats i)).map (fun p => normBwd i.code.rms p.2 p.1.1 p.1.2 g)
    let col (rs : List (List Val)) : List Val :=
      (List.range ((i.d 1).e 0)).map (fun k => exactSum (rs.map (fun r => r.getD k (.fin 0))))
    { y := rows.flatMap (fun r => r.1), cols := [col (rows.map (fun r => r.2)), col dys] }))

/-- The soft rows of an instruction whose mask stands at slot `k`. -/
def State.softRows (s : State) (i : Inst) (k : Nat) : List SoftRow :=
  ((s.rowsOf (i.d 1)).zipIdx).map (fun x => softRow i.code.rowScalar x.1 (s.keepRow i k x.2))

/-- ROW.SMAX (R159, R293). -/
def execRowSmax (id : Nat) (s : State) : Host.Outcome State Fault Refusal :=
  s.start 0x6002 id (fun i => s.runRows i 3 true (fun s =>
    let rs := s.softRows i 2
    let sts := s.fwdStats i (rs.map SoftRow.stat)
    { y := (rs.zip sts).flatMap (fun p => softFwd p.1 p.2), stat := sts }))

/-- ROW.SMAXB (R159, R293): under FROM_P, x holds p and a kept element is live. -/
def execRowSmaxb (id : Nat) (s : State) : Host.Outcome State Fault Refusal :=
  s.start 0x6003 id (fun i => s.runRows i 9 false (fun s =>
    let xs := s.rowsOf (i.d 1)
    let rs := s.softRows i 3
    let dps := s.rowsOf (i.d 2)
    { y := (((xs.zip rs).zip dps).zip (s.readStats i)).zipIdx.flatMap (fun q =>
        let x := q.1.1.1.1
        let r := q.1.1.1.2
        let st := q.1.2
        if bitOf i.code.imm0 1 then
          softBwd i.code.rowScalar st x (s.keepRow i 3 q.2) q.1.1.2
        else softBwd i.code.rowScalar st (softAgain r st) r.live q.1.1.2) }))

/-- ROW.LSE (R160, R293). -/
def execRowLse (id : Nat) (s : State) : Host.Outcome State Fault Refusal :=
  s.start 0x6004 id (fun i => s.runRows i 3 true (fun s =>
    let sts := s.fwdStats i ((s.softRows i 2).map SoftRow.stat)
    { y := sts.map lseFwd, stat := sts }))

/-- ROW.LSEB (R160, R293). -/
def execRowLseb (id : Nat) (s : State) : Host.Outcome State Fault Refusal :=
  s.start 0x6005 id (fun i => s.runRows i 9 false (fun s =>
    let rs := s.softRows i 3
    { y := (rs.zip (s.readStats i)).zipIdx.flatMap (fun q =>
        lseBwd q.1.2 (softAgain q.1.1 q.1.2) (s.elemVal (i.d 2) 0 q.2)) }))

end Sys2Proof.Machine
end

