-- ==== Sys2Proof/Machine/Host.lean ====
section
/-! DEFINITION. Host writes that have an effect of their own: doorbells (R61, R62), run control (R86, R87), queues
(R62, R66, R254), quotas (R82), and the switches of the ARR, COL, EVT and MSI-X blocks (R102, R201, R233, R349,
R421). -/

namespace Sys2Proof.Machine

/-! ### Doorbells -/

/-- The doorbell of a queue is refused (R58, R61, R62). -/
def State.doorbellBad (s : State) (q v : Nat) : Bool :=
  let size := s.qSize q
  let head := s.f (F.schQPtrHead q)
  let tail := s.f (F.schQPtrTail q)
  !s.fb (F.schQCfgEn q) || decide (size ≤ v) || (s.fb (F.schQCfgStep q) && s.pass.launched) ||
  decide (size - 1 - (tail + size - head) % size < (v + size - tail) % size)

/-- A value written to the doorbell of a queue becomes its TAIL, or is a violation of kind DOORBELL (R61, R62).
Any doorbell wakes the device (R363). -/
def State.ringDoorbell (q v : Nat) (s : State) : State :=
  let t := s.wakeUp 1
  if 64 ≤ q then t.violation 5
  else if s.doorbellBad q v then t.violation 1
  else t.setF (F.schQPtrTail q) v

/-- DOORBELL (R61). -/
def execDoorbell (q v : Nat) (s : State) : Host.Outcome State Fault Refusal :=
  s.hostAccess (.doorbell q v) false (State.ringDoorbell q v)

/-- The next look at PROD is due now (R305). -/
def State.wakeIngest (s : State) : State := s.modPup (fun p => { p with polled := 0 })

/-- INGEST_WAKE (R305): any value wakes the puppeteer's wait for an entry. -/
def execIngestWake (v : Nat) (s : State) : Host.Outcome State Fault Refusal :=
  s.hostAccess (.ingestWake v) false State.wakeIngest

/-! ### SCH.CTRL -/

/-- Every token is cleared, unless RUN is 1 (R86). -/
def State.tokenClear (s : State) : State := if s.fb F.schCtrlRun then s else s.clearTokens

/-- TOKEN_CLEAR_ALL (R73, R86). -/
def execTokenClearAll (s : State) : Host.Outcome State Fault Refusal :=
  s.hostAccess .tokenClearAll false State.tokenClear

/-- RUN written: 0 stops admission in the two stages of R87, and a loop that runs stops. Beside replay the write is
ignored. -/
def State.setRun (on : Bool) (s : State) : State :=
  if s.resident then s
  else
    let t := s.setF F.schCtrlRun (natOfBool on)
    if on then t
    else (if t.f F.schLoopState = 1 then t.setF F.schLoopState 2 else t).tryHalt

/-- RUN (R86, R87). -/
def execRun (on : Bool) (s : State) : Host.Outcome State Fault Refusal :=
  s.hostAccess (.run on) false (State.setRun on)

/-! ### Queues -/

/-- LOG2SIZE that a queue may have. -/
def log2Ok (n : Nat) : Bool := decide (4 ≤ n) && decide (n ≤ 16)

/-- The fields of SCH.Qn_CFG that may be written only while EN is 0. -/
def State.setQueue (s : State) (q v : Nat) : State :=
  ((s.setF (F.schQCfgCq q) (bitsOf v 24 6)).setF (F.schQCfgLog2size q) (bitsOf v 16 5)).setF (F.schQCfgClass q) (bitsOf v 0 2)

/-- SCH.Qn_CFG written (R62, R86): enabling a queue empties it. -/
def State.queueWrite (q v : Nat) (s : State) : State :=
  if 64 ≤ q then s
  else
    let on := s.fb (F.schQCfgEn q)
    let t := s.setF (F.schQCfgStep q) (bitsOf v 30 1)
    let t := if on then t else t.setQueue q v
    if !bitOf v 31 then t.setF (F.schQCfgEn q) 0
    else if on then t
    else if !log2Ok (bitsOf v 16 5) then t.ev 0x0024 unitSched q 0
    else
      let t := ((t.setF (F.schQCfgEn q) 1).setF (F.schQPtrHead q) 0).setF (F.schQPtrTail q) 0
      t.putQst q { t.qst q with failed := [], fenceFrom := t.sch.nextId, fenceBad := false }

/-- QUEUE_CFG (R62). -/
def execQueueCfg (q v : Nat) (s : State) : Host.Outcome State Fault Refusal :=
  s.hostAccess (.queueCfg q v) false (State.queueWrite q v)

/-- SCH.CQn_CFG written (R66, R254): enabling a completion queue sets TAIL to 0 and PHASE to 1, and the held records
are written first. -/
def State.cqWrite (n v : Nat) (s : State) : State :=
  if 64 ≤ n then s
  else
    let on := s.fb (F.schCqCfgEn n)
    let t := (s.setF (F.schCqCfgInt n) (bitsOf v 30 1)).setF (F.schCqCfgVector n) (bitsOf v 16 11)
    let t := if on then t else t.setF (F.schCqCfgLog2size n) (bitsOf v 0 5)
    if !bitOf v 31 then t.setF (F.schCqCfgEn n) 0
    else if on then t
    else if !log2Ok (bitsOf v 0 5) then t.ev 0x0024 unitSched n 0
    else
      let t := (t.setF (F.schCqCfgEn n) 1).setF (F.schCqPtrTail n) 0
      let t := { t with sch := { t.sch with cqWrap := t.sch.cqWrap.filter (fun m => m != n) } }
      t.drainCq n (t.held n)

/-- CQ_CFG (R66, R254). -/
def execCqCfg (n v : Nat) (s : State) : Host.Outcome State Fault Refusal :=
  s.hostAccess (.cqCfg n v) false (State.cqWrite n v)

/-- HEAD of a completion queue written: held records follow while there is room (R65). -/
def State.cqHeadWrite (n h : Nat) (s : State) : State :=
  if 64 ≤ n then s
  else
    let t := s.setF (F.schCqPtrHead n) h
    t.drainCq n (t.held n)

/-- CQ_HEAD (R65). -/
def execCqHead (n head : Nat) (s : State) : Host.Outcome State Fault Refusal :=
  s.hostAccess (.cqHead n head) false (State.cqHeadWrite n head)

/-! ### Quotas, layers and units -/

/-- A quota register written: it shows at once, and takes effect when no step is in progress (R82). -/
def State.quotaRegs (defer : Bool) (v : Nat) (s : State) : State :=
  (if defer then s.setF F.schDeferQuota v
   else (s.setF F.memValleyQuotaHbmPages (bitsOf v 32 32)).setF F.memValleyQuotaChipPages (bitsOf v 0 8)).quotasIfIdle

/-- QUOTA_WRITE (R82). -/
def execQuotaWrite (defer : Bool) (v : Nat) (s : State) : Host.Outcome State Fault Refusal :=
  s.hostAccess (.quotaWrite defer v) false (State.quotaRegs defer v)

/-- ARR.LINFO of the selected layer written (R102). A 32-bit write of the low half writes AUTO and RANGE too, as a read shows
them: it replaces a pending pair by the values in effect, since the rule takes the last of several writes whole. DESIGN
CHOICE. -/
def State.infoWrite (v : Nat) (s : State) : State :=
  let h := s.f F.arrLselLayer
  match s.layer h with
  | none => s
  | some l =>
    let t := s.putLayer h { l with pendInfo := some (bitOf v 59, bitsOf v 60 2) }
    if s.pass.launched then t else t.takeInfo h

/-- LINFO_WRITE (R102). -/
def execLinfoWrite (v : Nat) (s : State) : Host.Outcome State Fault Refusal :=
  s.hostAccess (.linfoWrite v) false (State.infoWrite v)

/-- Every bucket of the next launch probes (R201). -/
def State.forceProbes (s : State) : State := { s with col := { s.col with force := true } }

/-- FORCE_PROBE (R201). -/
def execForceProbe (s : State) : Host.Outcome State Fault Refusal := s.hostAccess .forceProbe false State.forceProbes

/-- The quarantine of the digital units ends; while RUN is 1 it stays (R233, R247). -/
def State.clearQuarantine (s : State) : State :=
  if s.fb F.schCtrlRun then s
  else ({ s with units := { s.units with quarantined := [] } }).showQuarantine

/-- QCLEAR (R233). -/
def execQclear (s : State) : Host.Outcome State Fault Refusal := s.hostAccess .qclear false State.clearQuarantine

/-! ### The recorder's registers and MSI-X -/

/-- The ring that EVT.RSEL selects. -/
def State.selectedRing (s : State) : Ring :=
  if s.f F.evtRselRing = 1 then s.evt.ext else if s.f F.evtRselRing = 2 then s.evt.mirror else s.evt.ring

/-- SEQ of the next record of a ring, and of its oldest. -/
def Ring.headSeq (r : Ring) : Nat := r.next
def Ring.tailSeq (r : Ring) : Nat := (r.recs.findSome? (fun x => x.seq)).getD r.next

/-- The offset of the oldest record. -/
def Ring.tailOff (r : Ring) : Nat := ((r.recs.find? (fun x => x.seq.isSome)).map (fun x => x.off)).getD r.head

/-- A read of EVT.HEAD_SEQ latches the three registers after it (R424). -/
def State.latchHead (s : State) : State :=
  let r := s.selectedRing
  (((s.setF F.evtHeadSeq r.headSeq).setF F.evtHeadOff r.head).setF F.evtTailSeq r.tailSeq).setF F.evtTailOff r.tailOff

/-- EVT.RATE of the selected code written: its bucket is refilled (R421). -/
def State.rateWrite (v : Nat) (s : State) : State :=
  let code := s.f F.evtRateSel
  let b := bitsOf v 16 8
  s.putRate code { s.rateOf code with
    mask := bitOf v 24, burst := b, rate := bitsOf v 0 16, level := max 1 b * 3125000, at_ := s.aon }

/-- EVT_RATE (R421). -/
def execEvtRate (v : Nat) (s : State) : Host.Outcome State Fault Refusal :=
  s.hostAccess (.evtRate v) false (State.rateWrite v)

/-- An MSI-X vector unmasked: one whose PBA bit is set is sent (R349). -/
def State.unmask (vec : Nat) (s : State) : State :=
  if 2048 ≤ vec then s
  else
    let t := { s with cxl := { s.cxl with
      msixOpen := if s.cxl.msixOpen.contains vec then s.cxl.msixOpen else s.cxl.msixOpen ++ [vec]
      pba := s.cxl.pba.filter (fun n => n != vec) } }
    if s.cxl.pba.contains vec then { t with out := { t.out with msix := t.out.msix ++ [vec] } } else t

/-- An MSI-X vector masked. -/
def State.mask (vec : Nat) (s : State) : State :=
  { s with cxl := { s.cxl with msixOpen := s.cxl.msixOpen.filter (fun n => n != vec) } }

/-- MSIX_UNMASK (R349). -/
def execMsixUnmask (vec : Nat) (s : State) : Host.Outcome State Fault Refusal :=
  s.hostAccess (.msixUnmask vec) false (State.unmask vec)

end Sys2Proof.Machine
end

