-- ==== Sys2Proof/Machine/Power.lean ====
section
/-! DEFINITION. Power states, requests and holds (R359 to R366), unit sleep (R358) and temperature (R368). -/

namespace Sys2Proof.Machine

/-! ### Holds and requests (R361, R362) -/

/-- A tile has row writes in progress or pending. -/
def State.tilesWrite (s : State) : Bool :=
  s.arr.tiles.any (fun x => x.2.batch.isSome || (x.2.late && !x.2.dirty.isEmpty))

/-- The conditions that hold a request for Doze, in the order of their bits: LOOP, INFLIGHT, WRITES, SERVICE,
ACTIVE_RANK and REPLAY. -/
def State.holdList (s : State) : List Bool :=
  [s.looping, !s.sch.inflight.isEmpty, s.tilesWrite,
   s.fb F.schSvcStatusBusy || s.fb F.secCmdStatusBusy || s.fb F.secScrubRunning || !s.pass.ckpts.isEmpty,
   s.activeRank, s.resident]

/-- Halt debug holds a request for Deep. -/
def State.haltHold (s : State) : Bool := s.f F.secStatusDebug == 2

/-- HOLD of PWR.STATUS for a requested state. -/
def State.holdBits (s : State) (target : Nat) : Nat :=
  (s.holdList.zipIdx.map (fun x => if x.1 then 2 ^ x.2 else 0)).sum +
    (if target = 3 ∧ s.haltHold then 64 else 0)

/-- A request for Doze (2) or Deep (3): it pends, and a held one is reported once (R362). -/
def State.pend (s : State) (target : Nat) : State :=
  let h := s.holdBits target
  let t := (s.setF F.pwrStatusPending target).setF F.pwrStatusHold h
  if h = 0 then t.setF F.pwrStatusMoving 1
  else if s.f F.pwrStatusPending = target then t
  else (t.ev 0x9002 unitPwr h 0).pwrInt

/-- A request of a state; a later one replaces an earlier (R361). -/
def State.requestState (target : Nat) (s : State) : State :=
  if target = 0 then s.setF F.pwrCtrlReq 0
  else if target = 1 then
    (if s.pst_ ≤ 1 then ((s.setF F.pwrStatusPending 7).setF F.pwrStatusHold 0).setF F.pwrStatusMoving 0
     else s.wakeUp 2).setF F.pwrCtrlReq 1
  else
    let t := s.setF F.pwrCtrlReq target
    if s.pst_ = target ∧ s.pwr.wake.isNone then (t.setF F.pwrStatusPending 7).setF F.pwrStatusHold 0
    else t.pend target

/-- REQUEST_IDLE (R361). -/
def execRequestIdle (s : State) : Host.Outcome State Fault Refusal :=
  s.hostAccess .requestIdle false (State.requestState 1)

/-- REQUEST_DOZE (R361). -/
def execRequestDoze (s : State) : Host.Outcome State Fault Refusal :=
  s.hostAccess .requestDoze false (State.requestState 2)

/-- REQUEST_DEEP (R361). -/
def execRequestDeep (s : State) : Host.Outcome State Fault Refusal :=
  s.hostAccess .requestDeep false (State.requestState 3)

/-- D3HOT_ENTRY (R353, R361): the host puts the function into D3hot, which requests Deep. -/
def execD3hotEntry (s : State) : Host.Outcome State Fault Refusal :=
  if !s.reachable || s.cxl.d3hot then .next s
  else .next (({ s with cxl := { s.cxl with d3hot := true } }).requestState 3)

/-- D0_RETURN (R353, R361): back in D0 the request is IDLE. -/
def execD0Return (s : State) : Host.Outcome State Fault Refusal :=
  if !s.reachable || !s.cxl.d3hot then .next s
  else .next (({ s with cxl := { s.cxl with d3hot := false } }).requestState 1)

/-! ### Entering Doze and Deep (R329, R363, R365) -/

/-- Every ACTIVE port can enter keep-alive: nothing is unacknowledged and no fence or resend is out or waits to leave. -/
def State.portsQuiet (s : State) : Bool :=
  !s.fab.orig.any (fun o => o.pay.isFence) && allPorts.all (fun p => s.pst p != pActive ||
    ((s.port p).replay.isEmpty && (s.port p).resend.isEmpty && !(s.port p).fencing))

/-- Every ACTIVE port in keep-alive, on one lane and without credits for TC1 and TC2 (R329). -/
def State.keepAlive (s : State) : State :=
  allPorts.foldl (fun t p =>
    if t.pst p = pActive then
      let t := t.modPort p (fun x => { x with avail := [nth x.avail 0, 0, 0], owed := [nth x.owed 0, 0, 0] })
      ((t.sendSync p).setF (F.fabPStatusState p) pKeepAlive).setF (F.fabPStatusWidth p) 1
    else t) s

/-- Every unit sleeps. -/
def State.sleepAll (s : State) : State :=
  let tiles := s.units.awake.filterMap (fun u => match u.1 with
    | .tile => some (u.2, s.aon)
    | .grid => none
    | .row => none
    | .stream => none
    | .mover => none
    | .update => none)
  { s with units := { s.units with
    awake := [], woke := [], slept := s.units.slept.filter (fun x => !tiles.any (fun y => y.1 == x.1)) ++ tiles } }

/-- STATE becomes 2 or 3: ports, units and HBM go to rest, and the change is told. -/
def State.enterRest (s : State) (target : Nat) : State :=
  let t := ((s.keepAlive.sleepAll).setF F.pwrStatusState target).setF F.pwrStatusMoving 0
  let t := { t with pwr := { t.pwr with selfRefresh := true, hbmAt := s.aon } }
  (t.ev 0x9001 unitPwr target (t.f F.pwrStatusWake)).pwrInt

/-- No hold of a request for Doze stands. -/
def State.free (s : State) : Bool := s.holdList.all (fun h => !h)

/-- A move towards rest that meets a hold before the state is entered: the request is held again, and it is reported unless
it was before (R362). -/
def State.heldMove (s : State) : State :=
  let p := s.f F.pwrStatusPending
  let h := s.holdBits p
  if !(p == 2 || p == 3) || !s.fb F.pwrStatusMoving || s.pwr.wake.isSome || h == 0 then s
  else
    let t := s.setF F.pwrStatusMoving 0
    if s.f F.pwrStatusHold = 0 then ((t.setF F.pwrStatusHold h).ev 0x9002 unitPwr h 0).pwrInt else t

/-- DOZE_ENTRY (R329, R363): the last hold is gone, and the entry waits until the ports are quiet; a request for Deep that
halt debug holds is met with Doze. A hold that came up during the move stops it. -/
def execDozeEntry (s : State) : Host.Outcome State Fault Refusal :=
  let p := s.f F.pwrStatusPending
  if !s.pwr.on || s.pst_ != 1 || !(p == 2 || (p == 3 && s.haltHold)) then .next s
  else if !s.free then .next s.heldMove
  else if !s.portsQuiet then .next (s.setF F.pwrStatusMoving 1)
  else
    let t := (s.addF F.pwrCountsDoze 1).enterRest 2
    .next (if p = 2 then (t.setF F.pwrStatusPending 7).setF F.pwrStatusHold 0 else t)

/-- A debug grant ends (R393): cause 0 release, 1 reset, 2 Deep, 3 retirement. -/
def State.endDebug (s : State) (cause : Nat) : State :=
  if s.f F.secStatusDebug = 0 then s
  else ((s.setF F.secStatusDebug 0).setF F.arrCtrlDbgRows256 0).ev 0xa00a unitSec cause 0

/-- Session and IDE keys are zeroized: sessions end, and the IDE streams are insecure (R373, R392). -/
def State.dropKeys (s : State) : State :=
  let t := { s with sec := { s.sec with sessions := 0 } }
  (t.setF F.cxlStatusIdeIo 0).setF F.cxlStatusIdeCm 0

/-- DEEP_ENTRY (R365): the save area is written and every domain but the always-on one loses power; an observe
grant ends first, and session keys are zeroized (R373, R393). A hold that came up during the move stops it. -/
def execDeepEntry (s : State) : Host.Outcome State Fault Refusal :=
  if !s.pwr.on || !(s.pst_ == 1 || s.pst_ == 2) || s.f F.pwrStatusPending != 3 || s.pwr.wake.isSome then .next s
  else if !s.free || s.haltHold then .next s.heldMove
  else if !s.portsQuiet then .next (s.setF F.pwrStatusMoving 1)
  else
    let t := (((s.endDebug 2).dropKeys).addF F.pwrCountsDeep 1).enterRest 3
    let t := { t with pwr := { t.pwr with saved := true } }
    .next ((t.setF F.pwrStatusPending 7).setF F.pwrStatusHold 0)

/-! ### Leaving Doze and Deep -/

/-- The code of a wake trigger (R370). -/
def wakeCode : WakeCause → Nat
  | .doorbell => 1
  | .request => 2
  | .hostAccess => 3
  | .takeover => 4
  | .service => 5

/-- Ports leave keep-alive by a fast retrain (R325, R329). -/
def State.leaveKeepAlive (s : State) : State :=
  allPorts.foldl (fun t p =>
    if t.pst p = pKeepAlive then (t.setF (F.fabPStatusWidth p) 0).fastRetrain p else t) s

/-- A tile at an array wake: its calibration is due and comes before its next ARR.FWD, and none of its fits counts for the
accuracy table (R117, R118, R123). -/
def Tile.woken (x : Tile) : Tile :=
  { x with due := true, calFirst := true, fits := x.fits.map (fun f => { f with done := false }) }

/-- Tiles of placed layers that have slept for more than 100 ms, or all of them, calibrate before their next
ARR.FWD (R117, R118, R367). -/
def State.wakeTiles (s : State) (all : Bool) : State :=
  s.arr.tiles.foldl (fun u x =>
    let slept : Bool := match mget x.1 u.units.slept with
      | none => false
      | some k => decide (k + 312500 < u.aon)
    if x.2.state = 1 ∧ (all || slept) = true then u.putTile x.1 x.2.woken else u) s

/-- DOZE_EXIT (R363): the device is Idle again. -/
def execDozeExit (w : WakeCause) (s : State) : Host.Outcome State Fault Refusal :=
  if !s.pwr.on || s.pst_ != 2 || s.pwr.wake != some (wakeCode w) then .next s
  else
    let t := { s with pwr := { s.pwr with wake := none, selfRefresh := false } }
    let t := ((t.setF F.pwrStatusState 1).setF F.pwrStatusMoving 0).setF F.pwrStatusWake (wakeCode w)
    .next (((t.leaveKeepAlive.wakeTiles false).ev 0x9001 unitPwr 1 (wakeCode w)).pwrInt)

/-- Deep is left for Doze: what was saved is restored (R365). What the latch holds is applied by DEEP_EXIT. -/
def State.leaveDeep (s : State) (code : Nat) : State :=
  let t := { s with pwr := { s.pwr with saved := false, selfRefresh := false, hbmAt := s.aon, arrayWake := s.aon } }
  let t := (t.setF F.pwrStatusState 2).setF F.pwrStatusWake code
  ((t.wakeTiles true).ev 0x9001 unitPwr 2 code).pwrInt

/-- HBM_SELF_REFRESH_RETURN (R363): in Doze, 100 µs after the last access. -/
def execHbmSelfRefreshReturn (s : State) : Host.Outcome State Fault Refusal :=
  if !s.pwr.on || s.pst_ != 2 || s.pwr.selfRefresh || s.pwr.wake.isSome || decide (s.aon < s.pwr.hbmAt + 313) then .next s
  else .next { s with pwr := { s.pwr with selfRefresh := true } }

/-! ### Unit sleep (R358) -/

/-- The bit of SLEEP_EN of a kind, and its number of units. -/
def sleepBit : SleepKind → Nat
  | .tile => 0
  | .grid => 1
  | .row => 2
  | .stream => 3
  | .mover => 4
  | .update => 5
def sleepUnits : SleepKind → Nat
  | .tile => tileCount
  | .grid => 256
  | .row => 32
  | .stream => 16
  | .mover => 64
  | .update => 4

/-- An instruction in flight of one of the classes. -/
def State.hasClass (s : State) (cs : List Nat) : Bool := s.sch.inflight.any (fun i => cs.contains i.code.iclass)

/-- The scheduler has work for a unit, or the unit is at work. -/
def State.unitWork (s : State) (k : SleepKind) (n : Nat) : Bool :=
  match k with
  | .tile =>
    let x := s.tile n
    x.batch.isSome || x.due || !x.dirty.isEmpty || (x.state == 1 && s.hasClass [4])
  | .grid => s.hasClass [4, 5] || s.units.running.any (fun r => r.grid == n) || s.units.unsettled.any (fun u => match u.1 with
    | .grid => u.2.1 == n
    | .row => false
    | .update => false
    | .adder => false)
  | .row => s.hasClass [6]
  | .stream => s.hasClass [3]
  | .mover =>
    if 56 ≤ n then s.pup.slot0.state == .filling || s.pup.slot1.state == .filling || !s.pass.ckpts.isEmpty
    else s.hasClass [2, 8]
  | .update => !s.col.buckets.isEmpty || s.pass.launched

/-- The hold time of a kind in ns. -/
def State.holdTime (s : State) (k : SleepKind) : Nat :=
  if k = .tile then 1000 * max 1 (s.f F.pwrSleepCfgTileHold) else max 100 (s.f F.pwrSleepCfgUnitHold)

/-- The hold time has not run out since the unit's stamp, in always-on ticks of 320 ns. -/
def State.unitHeld (s : State) (k : SleepKind) (n : Nat) : Bool := match mget (unitKey k n) s.units.woke with
  | none => false
  | some t => decide (320 * (s.aon - t) < s.holdTime k)

/-- UNIT_SLEEP (R358): a unit of a kind that may sleep has been idle for its hold time. -/
def execUnitSleep (k : SleepKind) (n : Nat) (s : State) : Host.Outcome State Fault Refusal :=
  if !s.units.awake.contains (k, n) || !bitOf (s.f F.pwrSleepCfgSleepEn) (sleepBit k) || s.unitWork k n || s.unitHeld k n then
    .next s
  else .next { s with units := { s.units with
    awake := s.units.awake.filter (fun u => u != (k, n)), woke := mdel (unitKey k n) s.units.woke
    slept := if k = .tile then mput n s.aon s.units.slept else s.units.slept } }

/-- Time asleep is no time awake: the interval since a tile's last calibration leaves it out (R117). -/
def Tile.sleptFor (n : Nat) (x : Tile) : Tile := { x with lastCal := x.lastCal + n }

/-- UNIT_WAKE (R117, R358): a sleeping unit has woken for its work; a tile that slept for more than 100 ms
calibrates first. -/
def execUnitWake (k : SleepKind) (n : Nat) (s : State) : Host.Outcome State Fault Refusal :=
  if !s.pwr.on || s.pst_ != 1 || decide (sleepUnits k ≤ n) || s.units.awake.contains (k, n) || !s.unitWork k n then .next s
  else
    let t := ({ s with units := { s.units with awake := s.units.awake ++ [(k, n)] } }).stampUnit k n
    if k = .tile then
      let asleep := match mget n s.units.slept with
        | none => 0
        | some a => s.aon - a
      let t := { t with units := { t.units with slept := mdel n t.units.slept } }
      if (t.tile n).state ≠ 1 then .next t
      else .next (t.modTile n (fun x => (if 312500 < asleep then x.woken else x).sleptFor asleep))
    else .next t.dispatch

/-! ### Temperature (R124, R368) -/

/-- The throttle threshold in 0.25 °C. -/
def State.throttleAt (s : State) : Int := 4 * (max 106 (min 120 (s.f F.pwrThermalThrottle)) : Nat)

/-- The highest reading, in 0.25 °C. -/
def State.hottest (s : State) : Int := signedOf 16 (s.f F.pwrThermalHottest)

/-- A cluster outside 0 to 105 °C. -/
def outOfRange (t : Int) : Bool := decide (t < 0) || decide (420 < t)

/-- The readings of the clusters: an excursion is reported once (R124). -/
def State.readClusters (s : State) (temps : List Int) : State :=
  (temps.take 192).zipIdx.foldl (fun (u : State) x =>
    let u := { u with arr := { u.arr with temps := if x.1 = 100 then mdel x.2 u.arr.temps else mput x.2 x.1 u.arr.temps } }
    if outOfRange x.1 then
      (if u.arr.hotClusters.contains x.2 then u
       else ({ u with arr := { u.arr with hotClusters := u.arr.hotClusters ++ [x.2] } }).ev 0x1009 unitPwr x.2 0)
    else { u with arr := { u.arr with hotClusters := u.arr.hotClusters.filter (fun c => c != x.2) } }) s

/-- THERMAL_SAMPLE (R368): every sensor is read; above THROTTLE the grid clock halves. -/
def execThermalSample (temps : List Int) (hottest : Int) (s : State) : Host.Outcome State Fault Refusal :=
  if !s.pwr.on || s.pst_ == 3 then .next s
  else
    let t := (s.readClusters temps).setF F.pwrThermalHottest (unsignedOf 16 hottest)
    let t := t.modPup (fun p => { p with acc := { p.acc with tempMax := max p.acc.tempMax hottest } })
    let cool := decide (hottest ≤ t.throttleAt - 20)
    let t := { t with pwr := { t.pwr with coolAt := if cool then some (t.pwr.coolAt.getD t.aon) else none } }
    if t.throttleAt < hottest ∧ !t.fb F.pwrThermalThrottled then
      let t := (t.setF F.pwrThermalThrottled 1).addF F.pwrCountsThrottles 1
      .next (((t.modPup (fun p => { p with acc := { p.acc with throttled := true } })).ev 0x9003 unitPwr 1 0).pwrInt)
    else .next t

/-- THROTTLE_RELEASE (R368): HOTTEST has been cool enough for 100 ms. -/
def execThrottleRelease (s : State) : Host.Outcome State Fault Refusal :=
  match s.pwr.coolAt with
  | none => .next s
  | some t =>
    if !s.fb F.pwrThermalThrottled || decide (s.aon < t + 312500) then .next s
    else .next (((s.setF F.pwrThermalThrottled 0).ev 0x9003 unitPwr 0 0).pwrInt)

end Sys2Proof.Machine
end

