-- ==== Sys2Proof/Machine/Load.lean ====
section
/-! DEFINITION. Program load (R59, R82 to R84, R88, R209, R229, R237) and the valley's pager in drain (R155,
R156). -/

namespace Sys2Proof.Machine

/-! ### The space that a load reserves -/

/-- What lies at the top of the heap, topmost first: the epoch pointer, the checkpoint areas, the average store, the
scale history and the two weight epochs, each in whole granules of 64 KiB. -/
def loadPieces (params limit n : Nat) : List Nat :=
  let slots := (limit + n - 1) / n
  let area := ckptBytes params slots limit
  [64, (if 1 < n then 4 else 2) * area, slots * avgSlot, 4 * limit, 2 * params, 2 * params].map
    (fun b => roundUp b 65536)

/-- Bytes that a load reserves. -/
def loadBytes (params limit n : Nat) : Nat := (loadPieces params limit n).sum

/-- The address of piece `k` below the top of the heap. -/
def loadAddr (top params limit n k : Nat) : Nat := top - ((loadPieces params limit n).take (k + 1)).sum

/-! ### The rank table (R83, R84) -/

/-- N and S of the table in HBM. -/
def State.tableN (s : State) : Nat := s.rdNat 1 (s.f F.schRankTable) 4
def State.tableS (s : State) : Nat := s.spareCount

/-- The table keeps R83. -/
def State.tableOk (s : State) : Bool :=
  let n := s.tableN
  (n == 1 || (decide (2 ≤ n) && decide (n ≤ 16384) && n % 2 == 0)) && decide (s.tableS ≤ 1024) &&
  (List.range (n + s.tableS)).all (fun r => decide (s.rankState r ≤ 3))

/-- The ranks whose entries hold this device's node identity; a table too large to keep R83 is not searched. -/
def State.ownRanks (s : State) : List Nat :=
  (List.range (min (s.tableN + s.tableS) 17408)).filter (fun r => s.rankFabric r == s.myId)

/-! ### Loading -/

/-- The bucket indices in use (R217). -/
def State.bucketLimit (s : State) : Nat := max 1 (min 65536 (s.f F.colBucketLimit))

/-- A load with the values of the last one keeps what that one left in the areas and the pointer. -/
def State.sameLoad (s : State) : Bool :=
  s.load.heapBase == s.f F.memHeapBase && s.load.heapSize == s.f F.memHeapSize &&
  s.load.params == s.f F.memSeesawParams && s.load.buckets == s.bucketLimit && s.load.n == s.tableN

/-- The engines as a load leaves them: nothing of the earlier program is in flight, and its tokens, storage and step
are gone. Held completion records stay (R65). -/
def State.dropProgram (s : State) : State :=
  let s := s.withdraw
  { s with
    sch := { s.sch with
      tokens := [], inflight := [], scratchAllocs := [], heapAllocs := [], lastProgress := s.aon
      queues := s.sch.queues.map (fun x => (x.1, ({} : QSt))) }
    val := {}
    units := { s.units with ftq := [], unsettled := [], running := s.units.running.map (fun r => { r with live := false }) }
    poison := s.poison.filter (fun p => p.2.2.isNone)
    pass := { beat := s.aon, digK := s.f F.colDigestCfgK }
    col := {}
    seesaw := {}
    cxl := { s.cxl with badHost := [] }
    arr := { s.arr with disputes := [], crossings := 0, allFallback := false } }

/-- Writes of a layer end with its release; a scrub goes on. -/
def Tile.stopWrites (x : Tile) : Tile :=
  match x.batch with
  | none => x
  | some b => if b.kind = .scrub then x else { x with batch := none, sealed := false }

/-- Every layer released (R105). -/
def State.releaseAll (s : State) : State :=
  let t := s.modTiles Tile.stopWrites
  t.arr.layers.foldl (fun u x => u.releaseLayer x.1) t

/-- The counts that start from 0 at a load (R142, R167, R189, R217, R247, R302, R308, R311, R312). -/
def loadCounts : List Fld := [
  F.colCountersStep, F.colCountersBcstep, F.colRetries, F.colProbes, F.colUpdSat, F.colPassStatusReplays,
  F.colPassStatusState, F.colDigestStatusStep, F.colDigestStatusMismatch, F.colChecksVetoes, F.colChecksChecker,
  F.colChecksUnit, F.colChecksUnsettled, F.rowSideSpilled, F.rowRowsMasked, F.rowRowsInf, F.rowRowsNan, F.vecFtqHolds,
  F.vecFtqPeak, F.vecFtqUsed, F.vecIndexOob, F.vecEmptySegments, F.arrOutStatusClamps, F.schRecCfgCount, F.schStragHist,
  F.schIngestTaken, F.schIngestKeep, F.schLoopStepLimit, F.schLoopState, F.schLoopReason, F.grdDeferHeld, F.grdDeferPeak,
  F.memValleyStateInplace, F.memValleyPeak, F.colRecoveryPhase, F.colEpochValid, F.colEpochSel, F.colEpochStep]

/-- Those, and the fields that then name nothing. -/
def State.zeroCounts (s : State) : State :=
  ((((((s.clearF loadCounts).setF F.colDigestStatusLowest 0xffff).setF F.colCkptStatusGlobal noCkpt).setF
    F.colCkptStatusLocal noCkpt).setF F.colRecoverySpare 0xffff).setF F.colRecoveryFailed 0xffff).setF
    F.colRecoveryLeader 0xffff

/-- The puppeteer as a load leaves it: a LOOP_STOP that waits is done, and another command that waits for the earlier
program has failed; a CKPT_NOW waits on (R313). -/
def State.loadPup (s : State) : State :=
  let t := s.modPup (fun p => { cmd := p.cmd, cmdAt := p.cmdAt, polled := s.aon })
  match t.pup.cmd with
  | none => t
  | some c => if c.cmd = 2 then t.endCmd 0 0
    else if c.cmd = 5 then t.modPass (fun p => { p with ckptCmd := true })
    else t.endCmd 1 0

/-- The registers and values that a load takes. -/
def State.takeLoad (s : State) (r : Nat) : State :=
  let n := s.tableN
  let params := s.f F.memSeesawParams
  let limit := s.bucketLimit
  let at_ (k : Nat) : Nat := loadAddr (s.f F.memHeapBase + s.f F.memHeapSize) params limit n k
  let t := { s with
    load := { loaded := true, heapBase := s.f F.memHeapBase, heapSize := s.f F.memHeapSize, params := params,
              buckets := limit, n := n, seesawOpen := true }
    sch := { s.sch with reserved := loadBytes params limit n } }
  let t := (((t.setF F.colEpochPtr (at_ 0)).setF F.colCkptBase (at_ 1)).setF F.colAvgBase (at_ 2)).setF F.colHistBase (at_ 3)
  ((t.setF F.schRankVersion (s.rdNat 1 (s.f F.schRankTable + 8) 4)).setF F.schRankValid 1).setF F.schRankRank r

/-- Bytes of a checkpoint area, and how many areas there are. -/
def State.areaBytes (s : State) : Nat := ckptBytes s.load.params s.avgSlots s.load.buckets
def State.areaCount (s : State) : Nat := if 1 < s.n then 4 else 2

/-- Bytes of HBM zeroed; whole lines of them are clean again (R348). -/
def State.zeroClean (s : State) (a n : Nat) : State := (s.zeroRange 1 a n).unpoison 1 a n

/-- A checkpoint area is zeroed unless its header checks and it is kept. -/
def State.zeroArea (s : State) (keep : Bool) (k : Nat) : State :=
  if keep && s.headerOk 1 (s.areaAddr k) then s
  else s.zeroClean (s.areaAddr k) s.areaBytes

/-- Scratchpad and the whole heap zeroed, but for areas and the pointer that are kept (R59): what lies below the areas,
between them and the pointer, and above the pointer. -/
def State.zeroLoad (s : State) (keep : Bool) : State :=
  let base := s.load.heapBase
  let t := { s with scratch := [], poison := s.poison.filter (fun p => p.1 != 0) }
  let areas := s.areaAddr s.areaCount
  let p := s.f F.colEpochPtr
  let t := (t.zeroClean base (s.f F.colCkptBase - base)).zeroClean areas (p - areas)
  let t := t.zeroClean (p + 64) (base + s.load.heapSize - (p + 64))
  let t := (List.range s.areaCount).foldl (fun u k => u.zeroArea keep k) t
  if keep && t.readPointer.isSome then t else t.zeroClean p 64

/-- The epoch that the pointer names is shown (R229). -/
def State.showPointer (s : State) : State := match s.readPointer with
  | some x => s.showEpoch x.1 x.2
  | none => s

/-- The rank's neighbours count as heard at the load. -/
def State.hearAll (s : State) : State :=
  s.modPass (fun p => { p with heard := s.allRanks.map (fun r => (r, s.aon)) })

/-- The load itself, for rank `r`. A spare requests Doze (R361), and so does a device whose entry is FAILED, which holds Doze
until it rejoins (R244; DEDUCED). -/
def State.loadNow (s : State) (r : Nat) : State :=
  let keep := s.sameLoad
  let t := (s.dropProgram.releaseAll).zeroCounts.loadPup
  let t := ((t.takeLoad r).zeroLoad keep).showPointer
  let t := t.hearAll.applyQuotas
  if t.rankState r = 1 ∨ t.rankState r = 2 then State.requestState 2 t else t

/-- A program load or its refusal (R59, R82, R84, R344, R382, R432). -/
def State.programLoad (s : State) : State :=
  let lc := s.f F.secStatusLifecycle
  let ms := s.ownRanks
  let need := loadBytes (s.f F.memSeesawParams) s.bucketLimit s.tableN
  if lc = 0 ∨ lc = 3 then s.ev 0xa007 unitSec lc 0
  else if s.resident then s.setF F.devReplayStatusLoadRefused 1
  else if !s.tableOk then s.ev 0x0025 unitSched ms.length 0
  else match ms with
    | [r] =>
      if hbmProgTop < s.f F.memHeapBase + s.f F.memHeapSize then s.ev 0xb001 unitSched 0 (s.f F.memHeapSize)
      else if s.f F.memHeapSize < need then s.ev 0xb001 unitSched 0 need
      else s.loadNow r
    | _ => s.ev 0x0025 unitSched ms.length 0

/-- PROGRAM_LOAD (R59). -/
def execProgramLoad (s : State) : Host.Outcome State Fault Refusal :=
  s.hostAccess .programLoad false State.programLoad

/-! ### The pager in drain (R155, R156) -/

/-- A page holds a frame that is not yet consumed or released. -/
def State.pageLive (s : State) (q : Nat) : Bool :=
  s.val.frames.any (fun f => (f.2.state == .pending || f.2.state == .present) && f.2.pages.contains q)

/-- Pages in transfer, and pages that have been brought back and still serve. -/
def State.transfers (s : State) : Nat := s.val.pages.countP (fun p => match p.2 with
  | .chip _ => false
  | .hbm => false
  | .toChip _ => true)
def State.broughtBack (s : State) : Nat :=
  s.val.back.countP (fun q => s.pageLive q && mget q s.val.pages != some .hbm)

/-- The newest page of the HBM quota that still holds frames to read. -/
def State.newestHbm (s : State) : Option Nat :=
  ((s.val.pages.filter (fun p => p.2 == .hbm && s.pageLive p.1)).map (fun p => p.1)).max?

/-- The oldest on-chip page whose frames are all consumed or released, and its place. -/
def State.spentChip (s : State) : Option (Nat × Nat) :=
  s.val.pages.findSome? (fun p => match p.2 with
    | .chip b => if s.pageLive p.1 then none else some (p.1, b)
    | .hbm => none
    | .toChip _ => none)

/-- Page `q` begins its way to the scratchpad page at `b`; its slot of the HBM quota is free once it has been read
(R155). -/
def State.fetchPage (s : State) (q b : Nat) : State :=
  { s with val := { s.val with pages := mput q (.toChip b) s.val.pages, back := s.val.back ++ [q] } }

/-- VALLEY_PREFETCH (R155): the next page is fetched into a free page, or into that of a spent page, which goes to a
free slot of the HBM quota. -/
def execValleyPrefetch (s : State) : Host.Outcome State Fault Refusal :=
  if !s.val.drain || decide (4 ≤ s.transfers) || decide (s.val.prefetch ≤ s.broughtBack) then .next s
  else match s.newestHbm with
    | none => .next s
    | some q =>
      let room := if s.chipPages < min 128 s.val.chipQuota then s.scratchRoom pageBytes else none
      match room with
      | some b => .next (s.tick.fetchPage q b)
      | none => (match s.spentChip with
        | none => .next s
        | some (e, b) =>
          if s.val.hbmQuota ≤ s.hbmPages then .next s
          else .next (({ s with val := { s.val with
            pages := mput e .hbm s.val.pages, back := s.val.back.filter (fun n => n != e) } }).fetchPage q b))

/-- PAGE_TRANSFER_DONE (R156): the page lies in scratchpad, and the reads that waited for it go on. -/
def execPageTransferDone (page : Nat) (s : State) : Host.Outcome State Fault Refusal :=
  match mget page s.val.pages with
  | some (.toChip b) => .next { s with val := { s.val with pages := mput page (.chip b) s.val.pages } }
  | some (.chip _) => .next s
  | some .hbm => .next s
  | none => .next s

end Sys2Proof.Machine
end

