-- ==== Sys2Proof/Machine/Bel.lean ====
section
/-! DEFINITION. Belgar replay (spec/19): entering and leaving, the submission of kernel tables, and their run. -/

namespace Sys2Proof.Machine

/-! ### Events (R440) -/

/-- A BG-1 event `n` with its level and payload. -/
def State.bgEvent (s : State) (n level entry tile result : Nat) (detail : List Byte) : State :=
  let pay := leBytes 2 n ++ leBytes 1 level ++ leBytes 1 0 ++ leBytes 4 (s.f F.devReplayStatusTables) ++
    leBytes 4 entry ++ leBytes 2 tile ++ leBytes 2 result ++ (detail ++ leBytes 16 0).take 16
  s.raise { code := 0x7000 + n, unit := unitPuppeteer, legacySev := level, payload := pay }

/-! ### Entering and leaving (R430 to R433) -/

/-- The conditions of an entry, in the order of their codes. -/
def State.replayChecks (s : State) : List Bool :=
  let lc := s.f F.secStatusLifecycle
  let loop := s.f F.schLoopState
  [!s.fb F.cxlStatusMode, lc == 1 || lc == 2, bitOf (s.f F.otpFeatures) 1, s.f F.secStatusDebug != 2,
   s.pst_ == 1 && s.units.awake.isEmpty && s.f F.pwrStatusPending == 7,
   !s.fb F.schCtrlRun && s.sch.inflight.isEmpty && (loop == 0 || loop == 3) && !s.fb F.schSvcStatusBusy,
   !s.activeRank]

/-- The code of the first condition that fails; 0 for none. -/
def State.replayRefusal (s : State) : Nat := match s.replayChecks.findIdx? (fun b => !b) with
  | none => 0
  | some k => k + 1

/-- The tile store and the bytes that tables and operands may use (R431, R436). -/
def tileStore : Nat := 0x3f0000000
def tileBytes : Nat := 0x20000

/-- The native program is unloaded and replay is resident (R431). -/
def State.enterReplay (s : State) : State :=
  let t := s.releaseAll.clearTokens
  let t := (List.range 64).foldl (fun u q => u.setF (F.schQCfgEn q) 0) t
  let t := (t.zeroRange 1 tileStore (2048 * tileBytes)).unpoison 1 tileStore (2048 * tileBytes)
  let t := { t with
    load := { t.load with loaded := false }, bel := {}, pass := { t.pass with launched := false, recover := false } }
  ((t.setF F.devReplayStatusTables 0).setF F.devReplayStatusState 1).bgEvent 0x010 0 0 0 0 []

/-- ENTER written (R430). -/
def State.replayEntry (s : State) : State :=
  if s.f F.devReplayStatusState ≠ 0 then s
  else if s.replayRefusal = 0 then s.enterReplay
  else s.setF F.devReplayStatusRefuse s.replayRefusal

/-- REPLAY_ENTER (R430, R431). -/
def execReplayEnter (s : State) : Host.Outcome State Fault Refusal := s.hostAccess .replayEnter false State.replayEntry

/-- Replay exits (R433): a table runs as one step, so none is running, and STATE is OFF at once. -/
def State.exitReplay (s : State) : State :=
  if !s.resident then s
  else
    let n := s.bel.queue.length
    let t := s.bgEvent 0x011 0 0 0 0 (leBytes 4 n)
    ({ t with bel := { t.bel with queue := [] } }).setF F.devReplayStatusState 0

/-- REPLAY_EXIT (R433). -/
def execReplayExit (s : State) : Host.Outcome State Fault Refusal := s.hostAccess .replayExit false State.exitReplay

/-! ### The interface page (R434, R435) -/

/-- The legacy window is there: CXL mode, with replay resident. -/
def State.legacyOpen (s : State) : Bool := s.resident && !s.fb F.cxlStatusMode

/-- SUBMIT written: the table is queued, or discarded and counted when 16 are. -/
def State.submitTable (v : Nat) (s : State) : State :=
  if s.bel.queue.length < 16 then
    { s with bel := { s.bel with queue := s.bel.queue ++ [bitsOf v 8 32 * 256] } }
  else { s with bel := { s.bel with overrun := min (2 ^ 64 - 1) (s.bel.overrun + 1) } }

/-- A write of SUBMIT; outside replay it is a violation of kind LEGACY. -/
def State.submitWrite (v : Nat) (s : State) : State := if s.legacyOpen then s.submitTable v else s.violation 7

/-- SUBMIT (R435); in PCIe mode the offset lies in the HBM window and no SUBMIT exists. -/
def execSubmit (v : Nat) (s : State) : Host.Outcome State Fault Refusal :=
  if s.fb F.cxlStatusMode then .next s else s.hostAccess (.submit v) false (State.submitWrite v)

/-! ### Kernel tables (R436 to R438) -/

/-- An entry of a kernel table. -/
structure Kernel where
  op    : Nat
  flags : Nat
  tile  : Nat
  gmask : Nat
  shift : Nat
  resv  : Nat
  src   : Nat
  dst   : Nat
  mult  : Nat

/-- The 32 bytes of an entry. -/
def Kernel.ofBytes (b : List Byte) : Kernel :=
  let n (o k : Nat) : Nat := leNat ((b.drop o).take k)
  { op := n 0 1, flags := n 1 1, tile := n 2 2, gmask := n 4 1, shift := n 5 1, resv := n 6 2, src := n 8 8,
    dst := n 16 8, mult := n 24 8 }

/-- A MAC chains, and emits. -/
def Kernel.chain (k : Kernel) : Bool := bitOf k.flags 0
def Kernel.emit (k : Kernel) : Bool := k.op == 2 && bitOf k.flags 1

/-- An operand of `n` bytes lies in the bytes that operands may use, on a multiple of 64. -/
def kernelAddr (a n : Nat) : Bool := a % 64 == 0 && decide (a + n ≤ tileStore)

/-- RESULT of the checks of an entry; 0 when it passes. -/
def Kernel.check (k : Kernel) : Nat :=
  let mac := k.op == 2
  let shape := (k.op == 1 || mac || k.op == 3) && k.resv == 0 && decide (k.gmask < 16) &&
    (if mac then decide (k.flags < 4) && decide (k.shift < 32) else k.flags == 0) &&
    (k.emit || (k.dst == 0 && k.mult == 0))
  if !shape then 1
  else if 2047 < k.tile then 2
  else if k.op = 3 then 0
  else if !kernelAddr k.src (if mac then 1024 else tileBytes) then 3
  else if k.emit ∧ !(kernelAddr k.dst 256 && kernelAddr k.mult 512) then 3
  else 0

/-- A number held in 20 bits (R437). -/
def wrap20 (v : Int) : Int := signedOf 20 (unsignedOf 20 v)

/-- Rounding half away from zero, then held to 8 bits (R437). -/
def roundAway (n : Int) (shift : Nat) : Int :=
  let m := (2 * n.natAbs + 2 ^ shift) / 2 ^ (shift + 1)
  max (-128) (min 127 (if n < 0 then -(m : Int) else m))

/-- The accumulator of a column after a MAC: `p g` is the partial of row group `g`. -/
def macColumn (gmask : Nat) (start : Int) (p : Nat → Int) : Int :=
  (List.range 4).foldl (fun a g => if bitOf gmask g then wrap20 (a + p g) else a) start

/-- Weight (i, j) of a tile in the store (R31). -/
def State.bgWeight (s : State) (t i j : Nat) : Int :=
  let e := i + 1024 * j
  signedOf 4 (bitsOf (s.rd 1 (tileStore + tileBytes * t + e / 2)).toNat (4 * (e % 2)) 4)

/-- The partial of a row group in a column. -/
def State.bgPartial (s : State) (k : Kernel) (j g : Nat) : Int :=
  ((List.range 256).map (fun r =>
    let i := 256 * g + r
    signedOf 8 (s.rd 1 (k.src + i)).toNat * s.bgWeight k.tile i j)).sum

/-- A MAC: the carries, and the outputs if it emits (R437). -/
def State.runMac (s : State) (k : Kernel) : State :=
  let acc := (List.range 256).map (fun j =>
    macColumn k.gmask (if k.chain then s.bel.carry.getD j 0 else 0) (s.bgPartial k j))
  let t := { s with bel := { s.bel with carry := acc } }
  if !k.emit then t
  else
    let ys := acc.zipIdx.map (fun x => BitVec.ofInt 8 (roundAway (x.1 * (s.rdNat 1 (k.mult + 2 * x.2) 2 : Nat)) k.shift))
    (t.wrBytes 1 k.dst ys).unpoison 1 k.dst 256

/-- A LOAD copies its weights into the tile store (R436). -/
def State.runLoad (s : State) (k : Kernel) : State :=
  let a := tileStore + tileBytes * k.tile
  (s.wrBytes 1 a (s.rdBytes 1 k.src tileBytes)).unpoison 1 a tileBytes

/-- An entry reads a poisoned line. -/
def State.kernelPoison (s : State) (k : Kernel) : Bool :=
  if k.op = 1 then s.poisonedRange 1 k.src tileBytes
  else if k.op = 2 then s.poisonedRange 1 k.src 1024 || s.poisonedRange 1 (tileStore + tileBytes * k.tile) tileBytes ||
    (k.emit && s.poisonedRange 1 k.mult 512)
  else false

/-- How a table ended: the state, RESULT, the index of its last entry and that entry. -/
structure TableRun where
  s      : State
  result : Nat
  entry  : Nat
  last   : Option Kernel

/-- The entries of a table from index `n`, at most `fuel` of them (R438). -/
def State.runTable (s : State) (off n : Nat) : Nat → TableRun
  | 0 => ⟨s, 1, n, none⟩
  | fuel + 1 =>
    let a := off + 32 * n
    if tileStore < a + 32 then ⟨s, 3, n, none⟩
    else
      let k := Kernel.ofBytes (s.rdBytes 1 a 32)
      if s.poisonedRange 1 a 32 then ⟨s, 4, n, none⟩
      else if k.check ≠ 0 then ⟨s, k.check, n, some k⟩
      else if k.op = 3 then ⟨s, 0, n, some k⟩
      else if s.kernelPoison k then ⟨s, 4, n, some k⟩
      else (if k.op = 1 then s.runLoad k else s.runMac k).runTable off (n + 1) fuel

/-- The BG-1 event of a table's end. -/
def TableRun.event (r : TableRun) (s : State) : State :=
  let tile := (r.last.map (fun k => k.tile)).getD 0
  let src := leBytes 8 ((r.last.map (fun k => k.src)).getD 0)
  if r.result = 0 then s.bgEvent 0x001 0 r.entry tile 0 []
  else if r.result = 4 then s.bgEvent 0x020 3 r.entry tile 4 []
  else s.bgEvent 0x002 2 r.entry tile r.result src

/-- KERNEL_TABLE (R438): the oldest queued table runs. -/
def execKernelTable (s : State) : Host.Outcome State Fault Refusal :=
  match s.bel.queue with
  | [] => .next s
  | off :: rest =>
    if !s.resident || !s.fb F.devBootReady || decide (2 ≤ s.pst_) then .next s
    else
      let t := { s with bel := { s.bel with queue := rest, carry := List.replicate 256 0 } }
      let r := t.runTable off 0 65536
      let u := r.event r.s
      .next (({ u with bel := { u.bel with result := r.result } }).addF F.devReplayStatusTables 1)

end Sys2Proof.Machine
end

