-- ==== Sys2Proof/Machine/Window.lean ====
section
/-! DEFINITION. The CXL port: the HBM window (R341 to R343, R348), the answers of the host (R346, R352), IDE and
SPDM sessions (R336, R351), the link and the enables of configuration space (R335, R341, R403), and patrol scrub
(R347, R348). -/

namespace Sys2Proof.Machine

/-- A configuration or DOE access with the effect `run`: in Deep the latch holds it (R365, R398). -/
def State.configAccess (s : State) (c : Instr) (run : State → State) : Host.Outcome State Fault Refusal :=
  if !s.reachable then .next s
  else if s.pst_ = 3 then .next (s.latchAccess c)
  else .next (run s)

/-- The port is in PCIe mode. -/
def State.pcieMode (s : State) : Bool := s.fb F.cxlStatusMode

/-! ### The HBM window -/

/-- Bytes of the window, and the highest base in GiB. -/
def windowBytes : Nat := 0x1000000000
def baseTop : Nat := 1087

/-- The HBM address of a window offset. -/
def State.windowAddr (s : State) (a : Nat) : Nat := s.f F.cxlWinBase * 2 ^ 30 + a

/-- A write of `n` bytes at an HBM address touches the descriptor table. -/
def State.inTable (s : State) (a n : Nat) : Bool :=
  decide (a < s.f F.schDtBase + 64 * s.f F.schDtCount) && decide (s.f F.schDtBase < a + n)

/-- Bytes written to the window; those of whole lines clear poison (R72, R348). -/
def State.windowWrite (s : State) (a : Nat) (b : List Byte) : State :=
  if s.fb F.schCtrlRun && s.inTable a b.length then s.violation 2
  else (s.wrBytes 1 a b).unpoison 1 a b.length

/-- Bytes read from the window, with the poison indication (R348). -/
def State.windowRead (s : State) (a n : Nat) : State :=
  { s with out := { s.out with data := s.out.data ++ [(s.rdBytes 1 a n, s.poisonedRange 1 a n)] } }

/-- An access to the window at offset `a`. -/
def State.windowTouch (s : State) (a n : Nat) (data : Option (List Byte)) : State :=
  let t := s.touchHbm
  match data with
  | none => t.windowRead (t.windowAddr a) n
  | some b => t.windowWrite (t.windowAddr a) b

/-- A read that a violation answers returns zero. -/
def State.zeroRead (s : State) (n : Nat) (data : Option (List Byte)) : State := match data with
  | some _ => s
  | none => { s with out := { s.out with data := s.out.data ++ [(leBytes n 0, false)] } }

/-- Bytes that an access covers. -/
def accessBytes (n : Nat) (data : Option (List Byte)) : Nat := (data.map List.length).getD n

/-- An access through BAR4 in PCIe mode: one that the window does not map is a violation of kind BAR_OFFSET. -/
def State.barWindow (a n : Nat) (data : Option (List Byte)) (s : State) : State :=
  if baseTop < s.f F.cxlWinBase ∨ windowBytes < a + accessBytes n data then (s.violation 5).zeroRead n data
  else s.windowTouch a n data

/-- WINDOW_ACCESS (R342): in CXL mode through the committed decoder, in PCIe mode through BAR4. -/
def execWindowAccess (addr len : Nat) (data : Option (List Byte)) (s : State) : Host.Outcome State Fault Refusal :=
  if s.pcieMode then
    (if s.barReached && s.pst_ != 3 && s.barClosed then .next ((s.violation 5).zeroRead len data)
     else s.hostAccess (.windowAccess addr len data) false (State.barWindow addr len data))
  else if !s.fb F.cxlStatusWinCommitted || s.barClosed || s.cxl.cmRefused ||
      decide (windowBytes < addr + accessBytes len data) then .next s
  else s.configAccess (.windowAccess addr len data) (fun t => t.windowTouch addr len data)

/-- The commit of HDM decoder 0 (R341, R383). -/
def State.commitDecoder (size ways : Nat) (s : State) : State :=
  if s.fb F.cxlStatusWinCommitted then s
  else if size ≠ windowBytes ∨ ways ≠ 1 ∨ baseTop < s.f F.cxlWinBase ∨ s.ideShut then
    { s with cxl := { s.cxl with commitErr := true } }
  else ({ s with cxl := { s.cxl with commitErr := false } }).setF F.cxlStatusWinCommitted 1

/-- DECODER_COMMIT (R341): in PCIe mode there is no decoder. -/
def execDecoderCommit (size ways : Nat) (s : State) : Host.Outcome State Fault Refusal :=
  if s.pcieMode then .next s else s.hostAccess (.decoderCommit size ways) s.ideShut (State.commitDecoder size ways)

/-! ### Answers of the host (R346, R352) -/

/-- A write that is given up leaves what it overwrote, unless something else was written there since. -/
def State.undoWrite (s : State) (w : HostWrite) : State :=
  let later := s.cxl.outs.filter (fun x => decide (w.tag < x.tag))
  (w.parts.zip w.old).foldl (fun (t : State) x =>
    let a := x.1.1
    let n := x.1.2.length
    let hit := later.any (fun y => y.parts.any (fun p => decide (p.1 < a + n) && decide (a < p.1 + p.2.length)))
    if !hit && t.rdBytes 2 a n == x.1.2 then t.wrBytes 2 a x.2.2 else t) s

/-- The outstanding writes. -/
def State.setOuts (s : State) (ws : List HostWrite) : State := { s with cxl := { s.cxl with outs := ws } }

/-- A write that failed: it is retried once, then dropped and reported. -/
def State.writeFailed (s : State) (w : HostWrite) : State :=
  if !w.again then s.setOuts (s.cxl.outs.map (fun x => if x.tag = w.tag then { x with again := true } else x))
  else
    let t := ((s.undoWrite w).setOuts (s.cxl.outs.filter (fun x => x.tag != w.tag))).addF F.cxlHostErrLost 1
    let t := if w.mirror then t.addF F.evtStatusMirrorLost 1 else t
    t.ev 0x8003 unitCxl 0 ((w.parts.head?.map (fun p => p.1)).getD 0)

/-- A read of ingest is out: the next entry, or the batch that is being copied. -/
def State.ingestReads (s : State) : Bool :=
  s.ingests && (s.pup.slot0.state == .filling || s.pup.slot1.state == .filling ||
    (decide (s.cursor < s.pup.prod) && s.freeSlot.isSome))

/-- A read of ingest that failed: the second failure makes the entry bad (R306). -/
def State.ingestFailed (s : State) : State :=
  if s.pup.readFails = 0 then s.modPup (fun p => { p with readFails := 1 })
  else match [0, 1].find? (fun k => (s.batchSlot k).state == .filling) with
    | some k => s.ingestBad (s.batchSlot k).id
    | none => s.ingestBad (Config.freeWord s.freeCtr % 2 ^ 64)

/-- An instruction with an access to host memory out. -/
def State.instReads (s : State) (id : Nat) : Bool := match s.inst id with
  | none => false
  | some i => i.phase != .done && (i.code.op == 0x2001 || i.slots.any (fun x => x.2.2.loc == 2))

/-- The answer to the request of a tag: 4 id for an access of an instruction, 4 n + 1 for a write, 2 for a read of
ingest. None when no such request is outstanding. `bad` counts an answer that is a bus error. -/
def State.hostAnswer (s : State) (tag : Nat) (bad : Option (State → State)) : Option State :=
  if tag % 4 = 1 then
    match s.cxl.outs.find? (fun w => w.tag == tag) with
    | none => none
    | some w => (match bad with
      | none => some (s.setOuts (s.cxl.outs.filter (fun x => x.tag != tag)))
      | some count => some ((count s).writeFailed w))
  else if tag % 4 = 0 then
    if !s.instReads (tag / 4) then none
    else (match bad with
      | none => some s
      | some count =>
        let t := count s
        some { t with cxl := { t.cxl with badHost := t.cxl.badHost ++ [tag / 4] } })
  else if tag = 2 ∧ s.ingestReads then
    (match bad with
      | none => some s
      | some count => some (count s).ingestFailed)
  else none

/-- An answer of the host with its outcome; one that no request waits for is a violation of kind CACHE_RESPONSE. -/
def State.takeAnswer (tag : Nat) (o : HostOutcome) (s : State) : State :=
  let bad : Option (State → State) := if o = .ok then none else some (fun t => t.busError o)
  match s.hostAnswer tag bad with
  | some t => t
  | none => s.violation 8

/-- CACHE_RESPONSE (R346, R352). -/
def execCacheResponse (tag : Nat) (o : HostOutcome) (s : State) : Host.Outcome State Fault Refusal :=
  s.configAccess (.cacheResponse tag o) (State.takeAnswer tag o)

/-- HOST_ACCESS_TIMEOUT (R346): 50 ms have passed without a completion. -/
def execHostAccessTimeout (tag : Nat) (s : State) : Host.Outcome State Fault Refusal :=
  if !s.pwr.on then .next s
  else match s.hostAnswer tag (some (fun t => t.addF F.cxlHostErrTimeout 1)) with
    | some t => .next t
    | none => .next s

/-! ### IDE and SPDM sessions (R336, R351, R373) -/

/-- The bit of an IDE stream in CXL.STATUS. -/
def ideFld (cachemem : Bool) : Fld := if cachemem then F.cxlStatusIdeCm else F.cxlStatusIdeIo

/-- A secure IDE stream enters the insecure state (R351): an uncorrectable error through AER and RAS, the event, and
CXL.cachemem refused until IDE_KM establishes the stream again. -/
def State.streamFails (s : State) (cachemem : Bool) : State :=
  if !s.fb (ideFld cachemem) then s
  else
    let t := { s with cxl := { s.cxl with ras := s.cxl.ras + 1, cmRefused := s.cxl.cmRefused || cachemem } }
    (t.setF (ideFld cachemem) 0).ev 0x8004 unitCxl (natOfBool cachemem) 0

/-- IDE_INTEGRITY_FAIL (R351): the stream is insecure. -/
def execIdeIntegrityFail (cachemem : Bool) (s : State) : Host.Outcome State Fault Refusal :=
  if !s.pwr.on || !s.cxl.up then .next s else .next (s.streamFails cachemem)

/-- An IDE stream established by IDE_KM. -/
def State.keyStream (cachemem : Bool) (s : State) : State :=
  if s.sec.sessions = 0 ∨ s.boot.stopped ∨ s.f F.secStatusLifecycle = 3 ∨ (cachemem ∧ s.pcieMode) then s
  else ({ s with cxl := { s.cxl with cmRefused := s.cxl.cmRefused && !cachemem } }).setF (ideFld cachemem) 1

/-- IDE_KM (R336, R351): keys are programmed in an SPDM session. -/
def execIdeKm (cachemem : Bool) (s : State) : Host.Outcome State Fault Refusal :=
  s.configAccess (.ideKm cachemem) (State.keyStream cachemem)

/-- An answer on DOE. -/
def State.doeReply (s : State) (r : Reply) : State := { s with out := { s.out with doe := s.out.doe ++ [r] } }

/-- A request over SPDM: in the error state the DOE error response, without an identity Unsupported (R372, R380). -/
def State.spdmReply (s : State) (run : State → State) : State :=
  if s.boot.stopped then s.doeReply .doeError
  else if s.sec.identity.isEmpty then s.doeReply .unsupported
  else run s

/-- A secure session begins. -/
def State.openSession (s : State) : State := s.spdmReply (fun t =>
  ({ t with sec := { t.sec with sessions := t.sec.sessions + 1 } }).doeReply (.session true))

/-- SPDM_SESSION_START (R336). -/
def execSpdmSessionStart (s : State) : Host.Outcome State Fault Refusal :=
  s.configAccess .spdmSessionStart State.openSession

/-- A secure session ends, and its keys are zeroized (R373). -/
def State.closeSession (s : State) : State :=
  if s.boot.stopped then s.doeReply .doeError
  else if s.sec.sessions = 0 then s.doeReply .unsupported
  else ({ s with sec := { s.sec with sessions := s.sec.sessions - 1 } }).doeReply (.session false)

/-- SPDM_SESSION_END (R373). -/
def execSpdmSessionEnd (s : State) : Host.Outcome State Fault Refusal :=
  s.configAccess .spdmSessionEnd State.closeSession

/-! ### The link and configuration space -/

/-- Completion records that waited for the host are written (R65, R403). -/
def State.drainAll (s : State) : State :=
  (s.sch.cqHeld.map (fun x => x.1)).foldl (fun t n => if t.cqIsFull n then t else t.drainCq n (t.held n)) s

/-- Bus Master Enable is set. -/
def State.enableMaster (s : State) : State := ({ s with cxl := { s.cxl with bme := true } }).drainAll

/-- BUS_MASTER_ENABLE (R403). -/
def execBusMasterEnable (s : State) : Host.Outcome State Fault Refusal :=
  s.configAccess .busMasterEnable State.enableMaster

/-- Memory Space Enable is set; in PCIe mode BAR4 maps HBM from CXL.WIN.BASE (R341). -/
def State.enableSpace (s : State) : State :=
  let t := { s with cxl := { s.cxl with mse := true } }
  if s.pcieMode then t.setF F.cxlStatusWinCommitted 1 else t

/-- MEMORY_SPACE_ENABLE (R341). -/
def execMemorySpaceEnable (s : State) : Host.Outcome State Fault Refusal :=
  s.configAccess .memorySpaceEnable State.enableSpace

/-- CXL_LINK_UP (R335, R336): the link trains; CXL mode needs a host that accepts it, at 16 or 32 GT/s. In PCIe mode
replay exits (R441). -/
def execCxlLinkUp (cxl : Bool) (width speed : Nat) (s : State) : Host.Outcome State Fault Refusal :=
  if !s.pwr.on || s.pwr.perst || s.cxl.up || !(width == 4 || width == 8 || width == 16) ||
      !(speed == 3 || speed == 4 || speed == 5) then .next s
  else
    let pcie := !(cxl && decide (4 ≤ speed))
    let t := { s with cxl := { s.cxl with up := true } }
    let t := ((t.setF F.cxlStatusMode (natOfBool pcie)).setF F.cxlStatusWidth width).setF F.cxlStatusSpeed speed
    let t := if width < 16 then t.ev 0x8001 unitCxl width 0 else t
    .next (if pcie then t.exitReplay else t)

/-! ### ECC and patrol scrub (R347, R348) -/

/-- Corrected errors of an HBM row since cold reset. -/
def State.rowErrors (s : State) (row : Nat) : Nat := (mget row s.ecc.rows).getD 0

/-- The unit number of the HBM stack that holds an address (R344, R415). -/
def stackUnit (addr : Nat) : Nat := 0x31a0 + Config.hbmStack addr % 24

/-- A row is logged for repair once (R347). -/
def State.logRepair (s : State) (row : Nat) : State :=
  if s.ecc.repairs.contains row then s
  else ({ s with ecc := { s.ecc with repairs := s.ecc.repairs ++ [row] } }).ev 0xb006 (stackUnit row) 0 row

/-- A corrected error in HBM. -/
def State.eccCorrected (s : State) (addr : Nat) : State :=
  let row := Config.hbmRow addr
  let t := { s with ecc := { s.ecc with rows := mput row (s.rowErrors row + 1) s.ecc.rows } }
  (t.addF F.memEccHbmCorr 1).ev 0xb004 (stackUnit addr) 0 addr

/-- An uncorrectable error in HBM: the line is poisoned and recorded. -/
def State.eccUncorrectable (s : State) (addr : Nat) : State :=
  let t := (s.addPoison 1 (addr / 64) none).addF F.memEccHbmUncorr 1
  let t := ((t.setF F.memEccLastValid 1).setF F.memEccLastSpace 0).setF F.memEccLastAddr addr
  t.ev 0xb005 (stackUnit addr) 0 addr

/-- PATROL_SCRUB (R347, R348): one line of the program space is read; in Deep the scrub pauses. -/
def execPatrolScrub (addr : Nat) (o : EccOutcome) (s : State) : Host.Outcome State Fault Refusal :=
  if !s.fb F.devBootReady || s.pst_ == 3 || addr % 64 != 0 || decide (hbmProgTop ≤ addr) then .next s
  else
    let t := s.touchHbm
    match o with
    | .clean => .next t
    | .corrected => .next (t.eccCorrected addr)
    | .uncorrectable => .next (if t.isPoisoned 1 (addr / 64) then t else t.eccUncorrectable addr)

/-- HBM_ROW_REPAIR (R347): the corrected errors of a row have reached 16. -/
def execHbmRowRepair (row : Nat) (s : State) : Host.Outcome State Fault Refusal :=
  if decide (s.rowErrors row < 16) then .next s else .next (s.logRepair row)

end Sys2Proof.Machine
end

