-- ==== Sys2Proof/Machine/Reset.lean ====
section
/-! DEFINITION. Resets (R400 to R405) and the power sequences (R360, R369, R446 to R448). -/

namespace Sys2Proof.Machine

/-! ### What the fuses load into registers (R12, R396, R408, R412) -/

/-- The sum of 2 ^ g over the generations of which `p` holds. -/
def State.genMask (s : State) (p : Nat → Bool) : Nat :=
  ((List.range 4).map (fun g => if p (s.gen g) then 2 ^ g else 0)).sum

/-- OTP.STATUS but for the effective generation, and k. -/
def State.showFuses (s : State) : State :=
  let t := (s.setF F.otpStatusPartial (s.genMask (fun g => g != 0 && !genCounts g))).setF F.otpStatusSealed
    (s.genMask genCounts)
  let t := (t.setF F.otpStatusRetired (natOfBool s.retired)).setF F.otpStatusRetireBits (ones 32 s.fuses.retire)
  (t.setF F.otpStatusRollback s.rollback).setF F.secFwRollback s.rollback

/-- The lifecycle (R382, R387, R408). -/
def State.lifecycleNow (s : State) : Nat :=
  if s.retired then 3 else match s.effective with
    | none => 0
    | some g => recField (s.gen g) 2 8

/-- The lifecycle and the features of the effective generation. -/
def State.showSettings (s : State) : State :=
  let f := recField s.settings 4 32
  let t := (s.setF F.otpFeatures f).setF F.secStatusIdeReq (f % 2)
  (t.setF F.secStatusLifecycle s.lifecycleNow).setF F.secFwFuseGen (s.effective.getD 0xff)

/-- A cold reset chooses the effective generation (R408). -/
def State.loadFuses (s : State) : State :=
  ((s.setF F.otpStatusEffective (s.newestGen.getD 15)).showFuses).showSettings

/-! ### What a reset keeps (R401) -/

/-- Fields that count since cold reset, or that R401 and R372 to R399 keep until one. -/
def sinceCold : List Fld := [
  F.memFailCount, F.grdItems, F.movBadCount, F.movCrcFail, F.cxlViolTotal, F.memEccHbmCorr, F.memEccHbmUncorr,
  F.memEccSramCorr, F.memEccSramUncorr, F.pwrCountsDoze, F.pwrCountsDeep, F.pwrCountsThrottles, F.secScrubFailed,
  F.secScrubScrubbed, F.pwrThermalLastTrip, F.secStatusTaint, F.secStatusPendingLc, F.secStatusSelftestFail, F.devBootFail,
  F.colQuarantineAdderPorts, F.colQuarantineUpdSlices, F.colQuarantineRows, F.grdQmask0, F.grdQmask1, F.grdQmask2,
  F.grdQmask3, F.otpStatusEffective, F.otpStatusCorrupt, F.devResetCountService, F.devResetCountDevice, F.devResetCountHot,
  F.devResetCountPerst, F.devScratch, F.devTileResetCount] ++
  allPorts.flatMap (fun p => [F.fabPErrFecUncorr p, F.fabPErrCrcFail p, F.fabPErrFecCorr p, F.fabPViolTotal p])

/-- Fields that describe the link and the window, which DEV.RESET keeps. -/
def linkFields : List Fld := [
  F.cxlStatusMode, F.cxlStatusSpeed, F.cxlStatusWidth, F.cxlStatusWinCommitted, F.cxlWinBase]

/-- The register file with the given fields kept and every other at its reset value. -/
def keepRegs (fs : List Fld) (m : List (Nat × Nat)) : List (Nat × Nat) :=
  let ks := fs.map Fld.key
  m.filter (fun x => ks.contains x.1)

/-- A tile of which only what it holds without power is left: its levels and its header. A write that was
interrupted leaves it unsealed (R405). -/
def Tile.headerOnly (cold : Bool) (x : Tile) : Tile := {
  sealed := x.sealed && x.batch.isNone, state := x.state, reason := x.reason, spareValid := x.spareValid
  spareFor := x.spareFor, layer := x.layer, rowTile := x.rowTile, colTile := x.colTile, epochStep := x.epochStep
  wear := x.wear, factory := x.factory, levels := x.levels, checksum := x.checksum, failedCols := x.failedCols, warned := x.warned
  calCount := if cold then 0 else x.calCount }

/-- The register file after a reset: every field at its reset value, and the node number as the position pins give it
(R334, R445). -/
def pinRegs (pos : Nat) : List (Nat × Nat) := mput F.fabNodeIdNode.key pos []

/-- What every reset with a boot leaves: the pins, the flash, the fuses, the tiles, the host's memory and what has
been sent. -/
def State.bare (s : State) (cold : Bool) : State :=
  let t : State := {
    regs := pinRegs s.pwr.pos
    pending := s.pending, freeCtr := s.freeCtr, host := s.host, out := s.out, fuses := s.fuses
    arr := { tiles := s.arr.tiles, temps := s.arr.temps }
    pwr := { on := s.pwr.on, inputOk := s.pwr.inputOk, enable := s.pwr.enable, perst := s.pwr.perst, pos := s.pwr.pos,
             trip := s.pwr.trip }
    boot := { awaits := none, bank0 := s.boot.bank0, bank1 := s.boot.bank1, active := s.boot.active, next := s.boot.next,
              trial := s.boot.trial }
    sec := { certs := s.sec.certs }
    ecc := { repairs := s.ecc.repairs } }
  t.modTiles (Tile.headerOnly cold)

/-- Cold reset: nothing else is left, and the fuses are loaded. -/
def State.coldLost (s : State) : State := (s.bare true).loadFuses

/-- Link configuration that DEV.RESET keeps; requests to host memory are abandoned (R353, R401). -/
def Cxl.kept (x : Cxl) : Cxl := { x with outs := [], badHost := [], cmRefused := false }

/-- The error state that only a cold reset leaves: a self-test failed, the boot watchdog expired, or the effective generation
is corrupt (R372, R399, R408). A boot that found no accepted image answers alike, and a warm reset boots again (R377). -/
def State.errorState (s : State) : Bool :=
  s.boot.stopped && (s.fb F.secStatusSelftestFail || s.fb F.devBootFail || s.fb F.otpStatusCorrupt)

/-- PERST# warm reset, or with `link` DEV.RESET: HBM, the always-on domain and what counts since cold reset stay. -/
def State.warmLost (s : State) (link : Bool) : State :=
  let t := s.bare false
  let u := { t with
    aon := s.aon
    regs := mput F.fabNodeIdNode.key s.pwr.pos (keepRegs (sinceCold ++ (if link then linkFields else [])) s.regs)
    hbm := s.hbm
    poison := s.poison.filter (fun p => p.1 == 1 && p.2.2.isNone)
    units := { quarantined := s.units.quarantined }
    evt := s.evt
    seesaw := { s.seesaw with written := [] }
    load := { s.load with loaded := false, seesawOpen := false }
    cxl := if link then s.cxl.kept else {}
    sec := { t.sec with identity := s.sec.identity, aliasSeed := s.sec.aliasSeed, scrubTime := s.sec.scrubTime }
    boot := { t.boot with stopped := s.errorState, update := s.boot.update }
    ecc := s.ecc
    eid := s.eid }
  u.showFuses.showSettings

/-! ### Causes and counts (R400) -/

/-- A reset of type `cause` shown and reported; `count` is its field of DEV.RESET_COUNT. -/
def State.tellReset (s : State) (cause : Nat) (count : Fld) : State :=
  ((s.setF F.devBootCause cause).addF count 1).ev 0x0011 unitDevice cause 0

/-- The boot that is due. -/
def State.awaitBoot (s : State) (cause : Nat) : State :=
  { s with boot := { s.boot with awaits := some cause, since := s.aon } }

/-- DEV.RESET, by its register or by the watchdog: a boot with the link up. -/
def State.deviceReset (s : State) (cause : Nat) : State :=
  (((s.endDebug 1).warmLost true).tellReset cause F.devResetCountDevice).awaitBoot cause

/-! ### Service and tile reset (R304, R404) -/

/-- The nonce is gone: used up, or zeroized by a reset (R373, R391). -/
def State.useNonce (s : State) : State :=
  ({ s with sec := { s.sec with nonce := none } }).clearF [F.secNonce0, F.secNonce1, F.secNonce2, F.secNonce3]

/-- The puppeteer restarts (R304): it checks the epoch pointer, and the step in progress fails its check and replays. A
copy with an uncorrectable error gives STATE (R234); where neither copy is valid the device holds no committed epoch and
returns only by rejoining (R229), so its loop stops. DEDUCED: R304 says that the pointer is checked, and not what follows
where it fails. -/
def State.restartPuppeteer (s : State) : State :=
  let t := s.useNonce
  let t := { t with sec := { t.sec with halted := false } }
  if !s.load.loaded then t
  else if s.poisonedRange 1 (s.f F.colEpochPtr) 64 then t.stateError unitPuppeteer
  else if s.readPointer.isNone && s.pass.launched && s.c != 0 then t.enterStopped 0
  else t.failCheck rsnCheck (unitPuppeteer * 65536)

/-- A service reset. -/
def State.serviceReset (s : State) : State := s.restartPuppeteer.tellReset 4 F.devResetCountService

/-- A debug grant ends; a puppeteer that the debugger halted resumes through a service reset (R393). -/
def State.closeDebug (s : State) (cause : Nat) : State :=
  let t := s.endDebug cause
  if s.sec.halted then t.serviceReset else t

/-- The periphery of a tile is cleared and its calibration is due; the header stays (R404). -/
def Tile.periphery (x : Tile) : Tile := { x with
  fits := [{}, {}, {}, {}, {}, {}, {}, {}], convs := 0, due := x.state == 1, calFirst := x.state == 1 }

/-- A scrub loses a tile whose writes a reset has stopped; it counts as failed. -/
def State.scrubStopped (s : State) (t : Nat) : State :=
  if !s.sec.scrubLeft.contains t then s
  else ({ s with sec := { s.sec with
    scrubLeft := s.sec.scrubLeft.filter (fun k => k != t), scrubBad := s.sec.scrubBad ++ [t] } }).endScrub

/-- Writes of a tile that a tile reset stops: a placed tile is programmed in full from the committed epoch, after the
answer of the pass as a suspect one, or at once while its layer is still being programmed. -/
def State.stopTile (s : State) (t : Nat) (b : Batch) : State :=
  let x := { s.tile t with batch := none, sealed := false }
  match s.layer x.layer with
  | none => (s.putTile t x).scrubStopped t
  | some l =>
    if x.state ≠ 1 ∨ b.kind = .scrub then (s.putTile t x).scrubStopped t
    else if l.programmed then s.putTile t { x with suspect := true, sinceRe := none }
    else s.putTile t (x.begin { b with rows := allRows, full := true })

/-- Level read-back of a sealed placed tile whose EPOCH_STEP is not that of the last commit (R114). -/
def State.readBackTile (s : State) (t : Nat) : State :=
  let x := s.tile t
  match s.layer x.layer with
  | none => s
  | some l =>
    if x.state ≠ 1 ∨ !x.sealed ∨ !l.programmed ∨ x.epochStep = s.c % 2 ^ 32 then s
    else match s.staleRows l x with
      | [] => s
      | r :: rs => s.putTile t (x.begin { kind := .program, rows := r :: rs, step := s.c })

/-- A tile reset. -/
def State.resetTile (t : Nat) (s : State) : State :=
  let u := (s.useNonce.modTile t Tile.periphery).addF F.devTileResetCount 1
  let u := u.ev 0x0011 unitDevice 6 t
  match (s.tile t).batch with
  | some b => u.stopTile t b
  | none => u.readBackTile t

/-! ### DEV.RESET and DEV.TILE_RESET (R411) -/

/-- A value written to DEV.RESET acts as `type`. -/
def resetKey (v type : Nat) : Bool := bitsOf v 8 8 == 0xa5 && bitsOf v 0 2 == type

/-- A value written to DEV.RESET, by the type it names. -/
def State.devResetWrite (v : Nat) (s : State) : State :=
  if resetKey v 1 then s.deviceReset 3 else if resetKey v 2 then s.serviceReset else s

/-- DEV_RESET (R400): the value must name TYPE DEVICE. -/
def execDevReset (v : Nat) (s : State) : Host.Outcome State Fault Refusal :=
  if !resetKey v 1 then .next s else s.hostAccess (.devReset v) false (State.devResetWrite v)

/-- SERVICE_RESET (R404): the value must name TYPE SERVICE. -/
def execServiceReset (v : Nat) (s : State) : Host.Outcome State Fault Refusal :=
  if !resetKey v 2 then .next s else s.hostAccess (.serviceReset v) false (State.devResetWrite v)

/-- PUPPETEER_WATCHDOG (R400): the puppeteer has given no heartbeat for 100 ms. -/
def execPuppeteerWatchdog (s : State) : Host.Outcome State Fault Refusal :=
  if !s.fb F.devBootReady || s.boot.stopped || s.sec.halted || s.pst_ == 3 then .next s else .next s.serviceReset

/-- A value written to DEV.TILE_RESET. -/
def State.tileResetWrite (v : Nat) (s : State) : State :=
  if bitOf v 31 ∧ bitsOf v 0 14 < tileCount then State.resetTile (bitsOf v 0 14) s else s

/-- TILE_RESET (R404). -/
def execTileReset (v : Nat) (s : State) : Host.Outcome State Fault Refusal :=
  s.hostAccess (.tileReset v) false (State.tileResetWrite v)

/-! ### PERST# and link down (R353, R400, R403) -/

/-- PERST_ASSERT (R400): the warm reset begins. -/
def execPerstAssert (s : State) : Host.Outcome State Fault Refusal :=
  if s.pwr.perst then .next s
  else if !s.pwr.on then .next { s with pwr := { s.pwr with perst := true } }
  else
    let t := (s.endDebug 1).warmLost false
    .next ({ t with pwr := { t.pwr with perst := true } }.tellReset 1 F.devResetCountPerst)

/-- PERST_DEASSERT (R397): the warm boot begins. -/
def execPerstDeassert (s : State) : Host.Outcome State Fault Refusal :=
  if !s.pwr.perst then .next s
  else
    let t := { s with pwr := { s.pwr with perst := false } }
    .next (if s.pwr.on ∧ s.boot.awaits = none ∧ !s.fb F.devBootReady ∧ !s.boot.stopped then t.awaitBoot 1 else t)

/-- The link is down: configuration space, the window decoder, IDE and sessions are lost, and requests to host memory
are abandoned. -/
def State.linkLost (s : State) : State :=
  let t := { s.useNonce with
    cxl := { ras := s.cxl.ras, nextTag := s.cxl.nextTag }
    pwr := { s.pwr with latch := [] } }
  ((((t.dropKeys).setF F.cxlStatusMode 0).setF F.cxlStatusSpeed 0).setF F.cxlStatusWidth 0).setF F.cxlStatusWinCommitted 0

/-- HOT_RESET (R403): a secondary bus reset, or the link goes down; the program and the fabric go on. -/
def execHotReset (s : State) : Host.Outcome State Fault Refusal :=
  if !s.pwr.on || !s.cxl.up then .next s
  else .next ((s.closeDebug 1).linkLost.tellReset 2 F.devResetCountHot)

/-! ### Power sequences (R360, R369, R446 to R448) -/

/-- The power-down sequence: every rail goes down (R448). -/
def State.powerDown (s : State) : State :=
  let t := s.coldLost
  { t with pwr := { t.pwr with on := false } }

/-- The device has power, or is coming up. -/
def State.powered (s : State) : Bool := s.pwr.on || s.pwr.rising

/-- Power goes, if there is any. -/
def State.goDown (s : State) : State := if s.powered then s.powerDown else s

/-- The power-up sequence begins once PWR_EN is high and the input is in range (R447). -/
def State.goUp (s : State) : State :=
  if !s.powered ∧ s.pwr.enable ∧ s.pwr.inputOk then { s with pwr := { s.pwr with rising := true } } else s

/-- PWR_EN, and whether the input is there and in range. -/
def State.setEnable (s : State) (b : Bool) : State := { s with pwr := { s.pwr with enable := b } }
def State.setInput (s : State) (b : Bool) : State := { s with pwr := { s.pwr with inputOk := b } }

/-- PWR_EN_HIGH (R447). -/
def execPwrEnHigh (s : State) : Host.Outcome State Fault Refusal :=
  if s.pwr.enable then .next s else .next (s.setEnable true).goUp

/-- PWR_EN_LOW (R448). -/
def execPwrEnLow (s : State) : Host.Outcome State Fault Refusal := .next (s.setEnable false).goDown

/-- INPUT_POWER_APPLIED (R447): the input is back in range with the module mated. -/
def execInputPowerApplied (s : State) : Host.Outcome State Fault Refusal :=
  if s.pwr.inputOk then .next s else .next (s.setInput true).goUp

/-- INPUT_POWER_REMOVED (R360). -/
def execInputPowerRemoved (s : State) : Host.Outcome State Fault Refusal := .next (s.setInput false).goDown

/-- INPUT_OUT_OF_RANGE (R446): below 46.0 V for 1 ms, or above 57.0 V. -/
def execInputOutOfRange (v us : Nat) (s : State) : Host.Outcome State Fault Refusal :=
  if (v < 4600 ∧ 1000 ≤ us) ∨ 5700 < v then .next (s.setInput false).goDown else .next s

/-- POWER_GOOD (R447): the power-up sequence has ended, and the boot of a cold reset begins. -/
def execPowerGood (s : State) : Host.Outcome State Fault Refusal :=
  if !s.pwr.rising then .next s
  else
    let t := s.coldLost
    .next (({ t with pwr := { t.pwr with on := true } }).awaitBoot 0)

/-- COLD_RST_N (R445): low for at least 10 µs, power goes down and comes up. -/
def execColdRstN (us : Nat) (s : State) : Host.Outcome State Fault Refusal :=
  if us < 10 then .next s else .next s.goDown.goUp

/-- THERMAL_TRIP (R369): a sensor reads 125 °C or more; the trip record is written first. -/
def execThermalTrip (s : State) : Host.Outcome State Fault Refusal :=
  if !s.pwr.on || decide (s.hottest < 500) then .next s
  else .next ({ s with pwr := { s.pwr with trip := some s.hottest } }).powerDown

end Sys2Proof.Machine
end

