-- ==== Sys2Proof/Machine/Boot.lean ====
section
/-! DEFINITION. Boot (R372, R377 to R380, R397 to R399, R402), the rollback advance (R378, R410) and retirement
(R387). -/

namespace Sys2Proof.Machine

/-! ### The error state (R372) -/

/-- The device answers as in the error state. -/
def State.stop (s : State) : State := { s with boot := { s.boot with stopped := true, awaits := none } }

/-- A self-test or a health test fails (R372). -/
def State.testFails (s : State) (alg : Nat) : State :=
  (((s.setF F.secStatusSelftestFail 1).setF F.secStatusApproved 0).ev 0xa001 unitSec alg 0).stop

/-! ### Retirement (R387) -/

/-- Every bit of the identity seed of a generation blown. -/
def blowSeed (g : Nat) : Nat := setBits g (8 * 136) 256 (2 ^ 256 - 1)

/-- Steps 2 and 3 of retirement: seeds, keys and certificates. -/
def State.eraseIdentity (s : State) : State :=
  let t := { s with
    fuses := { s.fuses with gens := s.fuses.gens.map blowSeed }
    sec := { s.sec with identity := [], aliasSeed := [], nonce := none, certs := false } }
  (t.dropKeys).setF F.secIdTag 0

/-- A tile scrubbed whole: every row is written once (R388). -/
def Tile.scrubWhole (x : Tile) : Tile :=
  ({ x with levels := [], wear := allRows.map (fun r => (r, min 0xffffff ((mget r x.wear).getD 0 + 1))) } : Tile).scrubbed

/-- Every tile scrubbed before ready (R387). -/
def State.scrubTiles (s : State) : State :=
  let t := (List.range tileCount).foldl (fun (u : State) k => u.modTile k Tile.scrubWhole) s
  let t := { t with sec := { t.sec with scrubTime := s.aon } }
  (t.setF F.secScrubScrubbed tileCount).setF F.secScrubFailed 0

/-! ### Firmware banks (R399) -/

/-- The bank that a boot tries first: a trial of NEXT is written into the boot record; a trial found there has
failed. -/
def State.bootBank (s : State) : State × Nat :=
  match s.boot.next with
  | none => (s, s.boot.active)
  | some b =>
    if s.boot.trial then
      (({ s with boot := { s.boot with next := none, trial := false } }).ev 0x0012 unitDevice b 0, s.boot.active)
    else ({ s with boot := { s.boot with trial := true } }, b)

/-- The first check that the image of a bank fails (R377); 0 for none. -/
def State.bankFault (s : State) (b : Nat) : Nat := match s.bankImage b with
  | none => 1
  | some i => s.imageFault i false

/-- The bank that boots: the first choice or the other; none when neither is accepted. -/
def State.acceptBank (s : State) (b : Nat) : State × Option Nat :=
  let f := s.bankFault b
  if f = 0 then (s, some b)
  else
    let t := s.ev 0xa002 unitSec b f
    if s.bankFault (1 - b) = 0 then (t, some (1 - b)) else (t.ev 0xa003 unitSec 0 0, none)

/-- The bytes of a name. -/
def nameBytes (cs : List Nat) : List Byte := cs.map (BitVec.ofNat 8)
/-- "TS2 DeviceID" and "TS2 Alias". -/
def deviceName : List Byte := nameBytes [0x54, 0x53, 0x32, 0x20, 0x44, 0x65, 0x76, 0x69, 0x63, 0x65, 0x49, 0x44]
def aliasName : List Byte := nameBytes [0x54, 0x53, 0x32, 0x20, 0x41, 0x6c, 0x69, 0x61, 0x73]

/-- The identity and the alias seed (R379, R380); none in BLANK and RETIRED. -/
def State.derive (s : State) (i : Image) : State :=
  let lc := s.f F.secStatusLifecycle
  if lc = 0 ∨ lc = 3 then ({ s with sec := { s.sec with identity := [], aliasSeed := [] } }).setF F.secIdTag 0
  else
    let uds := leBytes 32 (recField s.settings 136 256)
    let dev := hkdf512 uds deviceName
    let id_ := sha512 (Config.edPublic (dev.take 32) ++ Config.mlPublic (dev.drop 32))
    let cdi := hmac512 uds (sha512 (i.headerSha ++ leBytes 1 lc ++ s.fuseDigest))
    let t := { s with sec := { s.sec with identity := id_, aliasSeed := hkdf512 cdi aliasName } }
    t.setF F.secIdTag (leNat (id_.take 8))

/-! ### Array wake, memory and ports -/

/-- The repair map of the fuses over the tile headers (R113). -/
def State.applyRepairs (s : State) : State :=
  let g := s.settings
  (List.range (min 400 (recField g 424 16))).foldl (fun t k =>
    let e := recField g (428 + 4 * k) 32
    let tile := bitsOf e 0 14
    let kind := bitsOf e 14 2
    if kind = 1 then t.modTile tile (fun x => { x with spareValid := true, spareFor := bitsOf e 16 8, factory := true })
    else if kind = 2 then t.modTile tile (fun x => { x with state := 2, reason := 5, factory := true })
    else t) s

/-- A tile at the calibration of its array wake, at temperature `T`, from the raw codes of its converters by column group; it
counts as the tile's first fit (R119 to R122, R397). A group without codes reads what R119 expects. -/
def Tile.firstFit (now : Nat) (T : Int) (ys : Option (List (List Readings))) (x : Tile) : Tile :=
  let fit (p : Nat) : Fit := match ys with
    | none => ({} : Fit).good T 0x4000 0
    | some ys => (match fitOf (ys.getD p []) with
      | some (g, o) => ({} : Fit).good T g o
      | none => { run := 1, flag := true })
  let fits := (List.range 8).map fit
  { x with
    fits := fits, due := false, calFirst := false, convs := 0, lastCal := now, calCount := min 0xffffffff (x.calCount + 1)
    lastFit := if fits.any (fun f => f.done) then T else 0 }

/-- Every tile that is FREE or placed is calibrated at its array wake; singular groups are reported (R122, R397). -/
def State.wakeFits (s : State) (ys : List (Nat × List (List Readings))) : State :=
  let use (x : Tile) : Bool := decide (x.state ≤ 1)
  let t := { s with arr := { s.arr with tiles := (List.range tileCount).map (fun k =>
    let x := s.tile k
    (k, if use x then x.firstFit s.aon (s.clusterTemp k) (mget k ys) else x)) } }
  ys.foldl (fun u y => if y.1 < tileCount ∧ use (s.tile y.1) = true then
    (List.range 8).foldl (fun (u : State) p => if (fitOf (y.2.getD p [])).isNone then u.ev 0x1007 y.1 p 0 else u) u
    else u) t

/-- Array wake after the loaded program was lost (R402): placed tiles are FREE, and unsealed ones are reported. -/
def State.wakeArrays (s : State) : State :=
  let t := s.modTiles (fun x => if x.state = 1 then { x with state := 0, layer := 0, rowTile := 0, colTile := 0 } else x)
  let t := t.applyRepairs
  let t := { t with pwr := { t.pwr with arrayWake := t.aon } }
  t.arr.tiles.foldl (fun u x => if x.2.sealed then u else u.ev 0x1006 x.1 0 0) t

/-- HBM: a cold boot trains it and repairs the logged rows; a warm one reads the epoch pointer of the last load
(R229, R347, R397). -/
def State.wakeHbm (s : State) (cold : Bool) : State :=
  if cold then { s with ecc := {} }
  else if s.load.heapSize = 0 ∨ s.load.n = 0 then s
  else
    let a := loadAddr (s.load.heapBase + s.load.heapSize) s.load.params s.load.buckets s.load.n 0
    ((s.setF F.colEpochPtr a).showPointer).setF F.colEpochPtr 0

/-- The enabled ports begin to train (R325). -/
def State.startPorts (s : State) : State :=
  allPorts.foldl (fun t p => if t.fb (F.fabPCtrlEn p) then t.startTraining p else t) s

/-! ### Ready -/

/-- The firmware confirms a trial bank at ready (R399). -/
def State.confirmBank (s : State) (b : Nat) : State :=
  if s.boot.trial ∧ s.boot.next = some b then
    { s with boot := { s.boot with active := b, next := none, trial := false } }
  else s

/-- The record of a thermal trip is shown once, at the boot after it (R369). -/
def State.showTrip (s : State) : State := match s.pwr.trip with
  | none => s
  | some t => (({ s with pwr := { s.pwr with trip := none } }).setF F.pwrThermalLastTrip 1).ev 0x9004 unitPwr
      (unsignedOf 16 t) 0

/-- Step 9 (R397): DEV.BOOT.READY, with what it raises. -/
def State.reachReady (s : State) (b cause : Nat) (hottest : Int) : State :=
  let t := (((s.setF F.devBootCause cause).setF F.devBootBank b).setF F.schSvcStatusBank b).setF F.devBootTrial
    (natOfBool (s.boot.trial && s.boot.next == some b))
  let t := ((t.confirmBank b).setF F.devBootReady 1).setF F.devBootStage 9
  let t := (t.setF F.pwrThermalHottest (unsignedOf 16 hottest)).showTrip
  let t := { t with boot := { t.boot with awaits := none, stopped := false } }
  let t := if cause = 0 then t.ev 0x0011 unitDevice 0 0 else t
  t.ev 0x0010 unitDevice (256 + 512 * b + 9 + 4096 * cause + 1024 * t.f F.devBootTrial) 0

/-- Steps 4 to 9 with an accepted image. -/
def State.bootImage (s : State) (b cause : Nat) (hottest : Int) (ys : List (Nat × List (List Readings))) (i : Image) :
    State :=
  let t := { s with boot := { s.boot with running := some i, bank := b } }
  let t := ((t.setF F.secStatusApproved 1).setF F.secFwSvn i.svn).derive i
  let t := ((t.wakeArrays.wakeFits ys).wakeHbm (cause == 0)).startPorts
  let t := if t.f F.secStatusLifecycle = 3 then t.eraseIdentity.scrubTiles else t
  t.reachReady b cause hottest

/-- The effective generation's CRC fails (R408). -/
def State.fuseCorrupt (s : State) : Bool := match s.effective with
  | none => false
  | some g => genCrc (s.gen g) != recField (s.gen g) 2040 32

/-- The steps of a boot from the self-tests on (R397). -/
def State.bootSteps (s : State) (cause : Nat) (selfTest : Bool) (hottest : Int) (ys : List (Nat × List (List Readings))) :
    State :=
  if s.fb F.secStatusSelftestFail || s.fb F.devBootFail then s.stop
  else if !selfTest then s.tick.testFails (Config.freeWord s.freeCtr % 2 ^ 32)
  else
    let t := s.showFuses.showSettings
    if t.fuseCorrupt then
      (((t.setF F.devBootStage 1).setF F.otpStatusCorrupt 1).ev 0xa004 unitSec (t.effective.getD 0) 0).stop
    else
      let c := t.bootBank
      match c.1.acceptBank c.2 with
      | (u, none) => (u.setF F.devBootStage 3).stop
      | (u, some b) => (match u.bankImage b with
        | none => u.stop
        | some i => u.bootImage b cause hottest ys i)

/-- BOOT (R397): the boot that is due runs to its end. -/
def execBoot (selfTest : Bool) (r : BootReads) (s : State) : Host.Outcome State Fault Refusal :=
  match s.boot.awaits with
  | none => .next s
  | some cause => if !s.pwr.on then .next s else .next (s.bootSteps cause selfTest r.hottest r.fits)

/-- BOOT_WATCHDOG (R399): 10 s have passed since the boot began. During a trial DEV.RESET runs, and its boot finds
TRIAL set; else the device answers as in the error state until the next cold reset. -/
def execBootWatchdog (s : State) : Host.Outcome State Fault Refusal :=
  if !s.pwr.on || s.boot.awaits.isNone || decide (s.aon < s.boot.since + 31250000) then .next s
  else
    let t := s.bootBank.1
    if t.boot.trial then .next (t.deviceReset 5)
    else .next (((t.setF F.devBootFail 1).ev 0x0013 unitDevice 0 0).stop)

/-! ### The rollback count (R378, R410) -/

/-- Positions from `k` up to below `to_` are blown. -/
def blowRange (thermo k to_ : Nat) : Nat :=
  (List.range (to_ - k)).foldl (fun m i => if bitOf m (k + i) then m else m + 2 ^ (k + i)) thermo

/-- The thermometer written, and k shown. -/
def State.putThermo (s : State) (m : Nat) : State :=
  ({ s with fuses := { s.fuses with thermo := m } }).showFuses

/-- ROLLBACK_ADVANCE (R378, R410): after ready the positions below the running SVN are blown; one that does not verify
stops the advance. -/
def execRollbackAdvance (stuck : Option Nat) (s : State) : Host.Outcome State Fault Refusal :=
  match s.boot.running with
  | none => .next s
  | some i =>
    let k := s.rollback
    if !s.fb F.devBootReady || decide (i.svn ≤ k) then .next s
    else
      let full := s.putThermo (blowRange s.fuses.thermo k i.svn)
      match stuck with
      | some p =>
        if k ≤ p ∧ p < i.svn then .next ((s.putThermo (blowRange s.fuses.thermo k p)).ev 0xa006 unitSec p 0)
        else .next (full.ev 0xa005 unitSec full.rollback 0)
      | none => .next (full.ev 0xa005 unitSec full.rollback 0)

/-! ### Retirement by command (R387) -/

/-- Retirement, but for the scrub that ends it. -/
def State.retireDevice (s : State) : State :=
  let t := { s with fuses := { s.fuses with retire := 0xffffffff } }
  ((t.eraseIdentity.closeDebug 3).exitReplay.releaseAll).showFuses.showSettings

end Sys2Proof.Machine
end

