-- ==== Sys2Proof/Machine/Secure.lean ====
section
/-! DEFINITION. The commands of the SEC block (R384 to R395) and the health tests (R372). -/

namespace Sys2Proof.Machine

/-! ### Command statuses (R395) -/

def secDone : Nat := 0
def secDenied : Nat := 1
def secTokenFormat : Nat := 2
def secTokenBinding : Nat := 3
def secTokenSig : Nat := 4
def secFuseWrite : Nat := 6
def secBad : Nat := 7
def secSelftest : Nat := 8

/-- A command of SEC.CMD with its effect and status; none while it goes on. While one runs the write is ignored, and in
the error state every command ends with SELFTEST (R372, R395). -/
def State.secCommand (cmd : Nat) (run : State → State × Option Nat) (s : State) : State :=
  if s.fb F.secCmdStatusBusy then s
  else
    let t := s.setF F.secCmdStatusLastCmd cmd
    if s.boot.stopped then t.setF F.secCmdStatusStatus secSelftest
    else match run t with
      | (u, some st) => u.setF F.secCmdStatusStatus st
      | (u, none) => u

/-- The effect of a command that ends at once. -/
def secEnds (x : State × Nat) : State × Option Nat := (x.1, some x.2)

/-! ### Tokens (R391) -/

/-- The 5,632 bytes at SEC.CMD_ADDR; what lies beyond HBM gives no bytes. -/
def State.tokenBytes (s : State) : List Byte := s.rdBytes 1 (s.f F.secCmdAddr) 5632

/-- The format of a token of `type` whose ARG is in the list (R391, R386). -/
def tokenFormat (b : List Byte) (type : Nat) (args : List Nat) : Bool :=
  pieceNat b 0 4 == 0x5453d001 && pieceNat b 4 2 == 1 && pieceNat b 6 1 == type && args.contains (pieceNat b 7 1) &&
  (type == 3 || allZero (piece b 104 128)) &&
  (if type = 4 then decide (pieceNat b 232 4 < 4) else pieceNat b 232 4 == 0)

/-- A token is bound to this device and to the current nonce. -/
def State.tokenBound (s : State) (b : List Byte) : Bool :=
  !s.sec.identity.isEmpty && piece b 8 64 == s.sec.identity && s.sec.nonce == some (pieceNat b 72 32)

/-- The signatures and zero fields of a token, with the keys in effect (R375). -/
def State.tokenSigned (s : State) (b : List Byte) : Bool :=
  match s.keyDigests false with
  | [] => false
  | k :: _ => (objectChecks b k.1 k.2 (allZero (piece b 236 20))).all (fun c => c)

/-- The first check of a token that fails; 0 for none. -/
def State.tokenFault (s : State) (type : Nat) (args : List Nat) : Nat :=
  let b := s.tokenBytes
  if hbmTop < s.f F.secCmdAddr + 5632 ∨ !tokenFormat b type args then secTokenFormat
  else if !s.tokenBound b then secTokenBinding
  else if !s.tokenSigned b then secTokenSig
  else secDone

/-- An effect under a token: the nonce goes, and a token that fails is reported. -/
def State.withToken (s : State) (type : Nat) (args : List Nat) (run : State → State × Nat) : State × Nat :=
  let bad := s.tokenFault type args
  let t := s.useNonce
  if bad = secDone then run t else (t.ev 0xa00b unitSec bad 0, bad)

/-! ### NONCE -/

/-- A new nonce, shown in four registers (R395). -/
def State.newNonce (s : State) : State :=
  let n := Config.random s.freeCtr % 2 ^ 256
  let t := { s.tick with sec := { s.sec with nonce := some n } }
  (((t.setF F.secNonce0 n).setF F.secNonce1 (n / 2 ^ 64)).setF F.secNonce2 (n / 2 ^ 128)).setF F.secNonce3 (n / 2 ^ 192)

/-- The command as SEC.CMD starts it. -/
def State.nonceCmd (s : State) : State := s.secCommand 1 (fun t => (t.newNonce, some secDone))

/-- NONCE (R395). -/
def execNonce (s : State) : Host.Outcome State Fault Refusal := s.hostAccess .nonce true State.nonceCmd

/-! ### Debug (R390 to R393) -/

/-- A level granted; halt ends sessions and streams first, and taints (R392). -/
def State.grantDebug (s : State) (level : Nat) : State :=
  let t := if level = 2 then (((s.streamFails false).streamFails true).dropKeys).setF F.secStatusTaint 1 else s
  (t.setF F.secStatusDebug level).ev 0xa009 unitSec level 0

/-- Halt lowered to observe: what halt opened closes (R391, R393). -/
def State.lowerDebug (s : State) : State :=
  let t := (s.setF F.secStatusDebug 1).setF F.arrCtrlDbgRows256 0
  if s.sec.halted then t.serviceReset else t

/-- A debug level requested (R391). -/
def State.debugRequest (s : State) (level : Nat) : State × Nat :=
  let now := s.f F.secStatusDebug
  let denied : Bool := level == 2 && (s.looping || s.resident)
  if level = now then (s, secDone)
  else if level < now then (s.lowerDebug, secDone)
  else if s.f F.secStatusLifecycle ≠ 2 then (if denied then (s, secDenied) else (s.grantDebug level, secDone))
  else if denied then (s.useNonce, secDenied)
  else s.withToken 1 ([1, 2].filter (fun a => decide (level ≤ a))) (fun t => (t.grantDebug level, secDone))

/-- The command as SEC.CMD starts it; an ARG that the table does not list makes no command. -/
def State.debugCmd (arg : Nat) (s : State) : State :=
  s.secCommand 2 (fun t => secEnds (if arg = 1 ∨ arg = 2 then t.debugRequest arg else (t, secBad)))

/-- DEBUG_REQ (R391). -/
def execDebugReq (arg : Nat) (s : State) : Host.Outcome State Fault Refusal :=
  s.hostAccess (.debugReq arg) true (State.debugCmd arg)

/-- The command as SEC.CMD starts it. -/
def State.releaseDebug (s : State) : State := s.secCommand 3 (fun t => (t.closeDebug 0, some secDone))

/-- DEBUG_REL (R393). -/
def execDebugRel (s : State) : Host.Outcome State Fault Refusal := s.hostAccess .debugRel true State.releaseDebug

/-! ### Lifecycle, keys and features (R384 to R387) -/

/-- The lifecycle that takes effect at the next cold reset, where it is another one (R384, R396). -/
def State.showPending (s : State) : State :=
  let next := (s.newestGen.map (fun g => recField (s.gen g) 2 8)).getD 0
  s.setF F.secStatusPendingLc (if s.retired || next == s.f F.secStatusLifecycle then 0xf else next)

/-- The record that a new generation copies; in BLANK the factory generation as provisioned (R384, R409). -/
def State.recordBase (s : State) : Nat := if s.effective.isNone then setBits (s.gen 0) 0 16 1 else s.settings

/-- A generation sealed. -/
def State.newGen (s : State) (g : Nat) (stuck : Option Nat) : State × Nat :=
  let c := s.writeGen g stuck
  (c.1.showFuses.showPending, c.2)

/-- Retirement: it ends with the scrub of every tile. A bit of the retirement word that stays unblown leaves enough. -/
def State.retire_ (s : State) (stuck : Option Nat) : State × Option Nat :=
  let word := s.fuses.retire
  let t := s.retireDevice
  let t := match stuck with
    | some b => if b < 32 ∧ !bitOf word b then ({ t with fuses := { t.fuses with retire := setBits t.fuses.retire b 1 0 } }).showFuses
      else t
    | none => t
  ((t.showPending.setF F.secCmdStatusBusy 1).startScrub (List.range tileCount) true, none)

/-- A transition of the lifecycle (R384). -/
def State.lifecycleTo (s : State) (target : Nat) (stuck : Option Nat) : State × Option Nat :=
  let lc := s.f F.secStatusLifecycle
  if target = 3 ∧ lc < 2 then s.retire_ stuck
  else if target = 3 ∧ lc = 2 then
    (let bad := s.tokenFault 2 [3]
     let t := s.useNonce
     if bad = secDone then t.retire_ stuck else (t.ev 0xa00b unitSec bad 0, some bad))
  else if (lc = 0 ∧ (target = 1 ∨ target = 2)) ∨ (lc = 1 ∧ target = 2) then
    secEnds (s.newGen (setBits s.recordBase 16 8 target) stuck)
  else (s, some secDenied)

/-- The command as SEC.CMD starts it. -/
def State.lifecycleCmd (arg : Nat) (stuck : Option Nat) (s : State) : State :=
  s.secCommand 4 (fun t => t.lifecycleTo arg stuck)

/-- LIFECYCLE (R384). -/
def execLifecycle (arg : Nat) (stuck : Option Nat) (s : State) : Host.Outcome State Fault Refusal :=
  s.hostAccess (.lifecycle arg stuck) true (State.lifecycleCmd arg stuck)

/-- The settings record with the key digests of a token. -/
def State.rotated (s : State) : Nat :=
  setBits (setBits s.recordBase 64 512 (pieceNat s.tokenBytes 104 64)) 576 512 (pieceNat s.tokenBytes 168 64)

/-- The command as SEC.CMD starts it. -/
def State.rotateCmd (stuck : Option Nat) (s : State) : State :=
  s.secCommand 5 (fun t => secEnds (t.withToken 3 [0] (fun u => u.newGen u.rotated stuck)))

/-- KEY_ROTATE (R385). -/
def execKeyRotate (stuck : Option Nat) (s : State) : Host.Outcome State Fault Refusal :=
  s.hostAccess (.keyRotate stuck) true (State.rotateCmd stuck)

/-- The feature bits changed, in OPEN and SECURED (R386). -/
def State.changeFeatures (s : State) (stuck : Option Nat) : State × Nat :=
  let lc := s.f F.secStatusLifecycle
  if lc = 0 ∨ lc = 3 then (s.useNonce, secDenied)
  else s.withToken 4 [0] (fun u => u.newGen (setBits u.recordBase 32 32 (pieceNat u.tokenBytes 232 4)) stuck)

/-- The command as SEC.CMD starts it. -/
def State.featuresCmd (stuck : Option Nat) (s : State) : State :=
  s.secCommand 7 (fun t => secEnds (t.changeFeatures stuck))

/-- FEATURES (R386). -/
def execFeatures (stuck : Option Nat) (s : State) : Host.Outcome State Fault Refusal :=
  s.hostAccess (.features stuck) true (State.featuresCmd stuck)

/-! ### SCRUB_ALL, and commands that the table does not list -/

/-- A scrub of every tile may begin (R389). -/
def State.mayScrubAll (s : State) : Bool :=
  !s.fb F.schCtrlRun && s.sch.inflight.isEmpty && !s.looping && s.f F.secStatusDebug != 2

/-- The command as SEC.CMD starts it. -/
def State.scrubCmd (s : State) : State := s.secCommand 6 (fun t =>
  if !t.mayScrubAll then (t, some secDenied)
  else ((t.releaseAll.setF F.secCmdStatusBusy 1).startScrub (List.range tileCount) true, none))

/-- SCRUB_ALL (R389). -/
def execScrubAll (s : State) : Host.Outcome State Fault Refusal := s.hostAccess .scrubAll true State.scrubCmd

/-- A value of SEC.CMD that names no command. -/
def State.secBadCommand (v : Nat) (s : State) : State := s.secCommand (bitsOf v 0 8) (fun t => (t, some secBad))

/-- SEC_BAD_CMD (R395). -/
def execSecBadCmd (v : Nat) (s : State) : Host.Outcome State Fault Refusal :=
  s.hostAccess (.secBadCmd v) true (State.secBadCommand v)

/-- ENTROPY_HEALTH_FAIL (R372): a health test of the entropy source fails. -/
def execEntropyHealthFail (alg : Nat) (s : State) : Host.Outcome State Fault Refusal :=
  if !s.pwr.on || s.boot.stopped then .next s else .next (s.testFails alg)

end Sys2Proof.Machine
end

