-- ==== Sys2Proof/Machine/Evt.lean ====
section
/-! DEFINITION. The event recorder: records and rings (R413 to R420), losses and summaries (R422, R423), and its
interrupt (R427). -/

namespace Sys2Proof.Machine

/-! ### Rings (R413, R418) -/

/-- Bytes of the always-on ring and of the extension ring. -/
def ringBytes : Nat := 0x40000
def extBytes : Nat := 0x4000000

/-- Bytes of the mirror's record area (R420). -/
def State.mirrorBytes (s : State) : Nat := 2 ^ max 12 (min 26 (s.f F.evtMirrorCfg))

/-- A record overlaps `n` bytes from `o` on. -/
def RingRec.hits (x : RingRec) (o n : Nat) : Bool := decide (x.off < o + n) && decide (o < x.off + x.bytes.length)

/-- The ring once its tail has passed what `n` bytes at `o` overwrite. -/
def Ring.clear (r : Ring) (o n : Nat) : Ring := { r with recs := r.recs.filter (fun x => !x.hits o n) }

/-- Bytes written at an offset. -/
def Ring.place (r : Ring) (o : Nat) (seq : Option Nat) (b : List Byte) : Ring :=
  { r with recs := r.recs ++ [{ seq := seq, off := o, bytes := b }], head := o + b.length }

/-- The bytes of the pad that comes before `n` bytes in a ring of `size` bytes; `free` gives those that are
undefined. -/
def Ring.pad (r : Ring) (size n free : Nat) : List Byte :=
  let room := size - r.head
  if n ≤ room then []
  else (BitVec.ofNat 8 (room / 16) :: BitVec.ofNat 8 free :: 0 :: 0 :: leBytes (room - 4) (free / 256)).take room

/-- The offset of a record of `n` bytes. -/
def Ring.spot (r : Ring) (size n : Nat) : Nat := if n ≤ size - r.head then r.head else 0

/-- The ring before a pad and a record of `n` bytes are written: its tail has advanced. -/
def Ring.ready (r : Ring) (size n free : Nat) : Ring :=
  let p := r.pad size n free
  (if p.isEmpty then r else r.clear r.head p.length).clear (r.spot size n) n

/-- A record of number `seq` written, behind its pad; the one after a record that ends the ring begins at its start. -/
def Ring.write (r : Ring) (size free seq : Nat) (b : List Byte) : Ring :=
  let p := r.pad size b.length free
  let o := r.spot size b.length
  let t := r.ready size b.length free
  let t := if p.isEmpty then t else t.place r.head none p
  { t.place o (some seq) b with next := seq + 1, head := (o + b.length) % size }

/-! ### Records (R414 to R416) -/

/-- A BG-1 event of Belgar replay (R426). -/
def Event.legacy (e : Event) : Bool := decide (0x7000 ≤ e.code) && decide (e.code < 0x8000)

/-- The bytes of a record. -/
def recordBytes (e : Event) (seq temp volt : Nat) : List Byte :=
  leBytes 1 ((48 + e.payload.length) / 16) ++
  leBytes 1 (severity e + 8 * natOfBool e.summary + 16 * natOfBool e.legacy + 32 * natOfBool e.instep) ++
  leBytes 2 e.code ++ leBytes 2 e.unit ++ leBytes 2 temp ++ leBytes 8 seq ++ leBytes 8 e.time ++ leBytes 4 e.step ++
  leBytes 2 volt ++ leBytes 1 e.queue ++ leBytes 1 0 ++ leBytes 2 e.index ++ leBytes 2 e.opc ++ leBytes 4 e.arg0 ++
  leBytes 8 e.arg1 ++ e.payload

/-- TEMP and VOLT as sampled: of a tile the temperature of its cluster, and otherwise what the sensors give. -/
def State.eventTemp (s : State) (e : Event) : Nat :=
  unsignedOf 16 (if e.unit < 12288 then e.temp else Config.sensor s.freeCtr (2 * e.unit))
def State.eventVolt (s : State) (e : Event) : Nat := unsignedOf 16 (Config.sensor s.freeCtr (2 * e.unit + 1))

/-- The bytes of the next record. -/
def State.nextRecord (s : State) (e : Event) : List Byte := recordBytes e s.evt.nextSeq (s.eventTemp e) (s.eventVolt e)

/-- Records that the write of `n` bytes takes from the always-on ring before they were copied (R419). -/
def State.gapOf (s : State) (n : Nat) : Nat :=
  let r := s.evt.ring.ready ringBytes n 0
  s.evt.ring.recs.countP (fun x => decide (s.evt.ext.next ≤ x.seq.getD 0) && x.seq.isSome && !r.recs.contains x)

/-! ### The mirror (R420) -/

/-- The header of the mirror for a ring. -/
def State.mirrorHeader (s : State) (r : Ring) : List (Nat × List Byte) :=
  let a := s.f F.evtMirrorBase
  [(a, leBytes 8 r.headSeq ++ leBytes 4 r.head), (a + 16, leBytes 8 r.tailSeq ++ leBytes 4 r.tailOff)]

/-- A record written to the mirror: the header with the new tail, the record behind its pad, the header with the new
head. -/
def State.mirrorWrite (s : State) (seq : Nat) (b : List Byte) : State :=
  let size := s.mirrorBytes
  let r := s.evt.mirror
  let free := Config.freeWord (s.freeCtr + 1)
  let mid := r.ready size b.length free
  let new := r.write size free seq b
  let a := s.f F.evtMirrorBase + 64
  let p := r.pad size b.length free
  let parts := (if p.isEmpty then [] else [(a + r.head, p)]) ++ [(a + r.spot size b.length, b)]
  let t := ((s.hostWrite true (s.mirrorHeader mid)).hostWrite true parts).hostWrite true (s.mirrorHeader new)
  { t with evt := { t.evt with mirror := new } }

/-- The mirror of a record, where one is kept; without the host the write is lost. -/
def State.mirror (s : State) (seq : Nat) (b : List Byte) : State :=
  if !s.fb F.evtCtrlMirrorEn then s
  else if s.hostReady then s.mirrorWrite seq b
  else s.addF F.evtStatusMirrorLost 1

/-! ### EVENT_RECORD (R417, R427) -/

/-- The least ticks between two messages have passed: HOLDOFF is in microseconds of 3.125 ticks. -/
def State.holdoffOver (s : State) : Bool := match s.evt.lastMsg with
  | none => true
  | some t => decide (25 * s.f F.evtIntHoldoff ≤ 8 * (s.aon - t))

/-- The message of the recorder. -/
def State.evtMessage (s : State) : State :=
  ({ s with evt := { s.evt with lastMsg := some s.aon, owed := false } }).msi (s.f F.evtIntVector)

/-- The interrupt of a record of a severity; inside the holdoff it is owed. -/
def State.evtInterrupt (s : State) (sev : Nat) : State :=
  if !s.fb F.evtIntEn || decide (sev < s.f F.evtIntMinSev) then s
  else if s.holdoffOver then s.evtMessage
  else { s with evt := { s.evt with owed := true } }

/-- FIRST_SEQ and LAST_SEQ of the step record (R428). -/
def State.noteSeq (s : State) (e : Event) (seq : Nat) : State :=
  if !e.instep || e.step != s.stepNow then s
  else s.modPup (fun p => { p with acc := { p.acc with
    firstSeq := some (p.acc.firstSeq.getD seq), lastSeq := some seq } })

/-- An event written as a record. -/
def State.logRecord (s : State) (e : Event) (rest : List Event) : State :=
  let b := s.nextRecord e
  let seq := s.evt.nextSeq
  let t := s.addF F.evtStatusExtGap (s.gapOf b.length)
  let t := { t with evt := { t.evt with
    front := rest, nextSeq := seq + 1, ring := t.evt.ring.write ringBytes (Config.freeWord s.freeCtr) seq b } }
  let t := ((t.noteSeq e seq).mirror seq b).evtInterrupt (severity e)
  t.tick.tick

/-- EVENT_RECORD (R417): the first event of the front end becomes a record. -/
def execEventRecord (s : State) : Host.Outcome State Fault Refusal :=
  if !s.pwr.on then .next s
  else match s.evt.front with
    | [] => .next s
    | e :: rest => .next (s.logRecord e rest)

/-- INTERRUPT_HOLDOFF (R427): a record inside the holdoff is covered by the message at its end. -/
def execInterruptHoldoff (s : State) : Host.Outcome State Fault Refusal :=
  if !s.pwr.on || !s.evt.owed || !s.holdoffOver then .next s
  else .next (if s.fb F.evtIntEn then s.evtMessage else { s with evt := { s.evt with owed := false } })

/-! ### The extension ring (R419) -/

/-- The next record to copy: the first that the always-on ring still holds. -/
def State.nextCopy (s : State) : Option RingRec :=
  s.evt.ring.recs.find? (fun x => match x.seq with
    | some n => decide (s.evt.ext.next ≤ n)
    | none => false)

/-- A record copied into the extension ring. -/
def State.copyRecord (s : State) (x : RingRec) : State :=
  let free := Config.freeWord s.freeCtr
  { s.tick with evt := { s.evt with ext := s.evt.ext.write extBytes free (x.seq.getD 0) x.bytes } }

/-- EXTENSION_COPY (R419): HBM is out of self-refresh. -/
def execExtensionCopy (s : State) : Host.Outcome State Fault Refusal :=
  if !s.fb F.devBootReady || s.pwr.selfRefresh || s.pst_ == 3 then .next s
  else match s.nextCopy with
    | none => .next s
    | some x => .next (s.copyRecord x)

/-! ### Losses and summaries (R422, R423) -/

/-- EVT_LOST (R422): the front end has fallen below 256 after drops. -/
def execEvtLost (s : State) : Host.Outcome State Fault Refusal :=
  if !s.pwr.on || s.evt.dropped == 0 || decide (256 ≤ s.evt.front.length) then .next s
  else .next (({ s with evt := { s.evt with dropped := 0 } }).ev 0x0002 unitEvt 0 s.evt.dropped)

/-- The summary of a code. -/
def State.summary (s : State) (code : Nat) : State :=
  let r := s.rateOf code
  if r.winCount = 0 then s
  else
    let e : Event := { code := 0x0001, unit := unitEvt, summary := true, arg0 := code, arg1 := r.winCount
                       payload := leBytes 8 r.winFirst ++ leBytes 8 r.winLast }
    (s.putRate code { r with winCount := 0 }).frontPush (s.stamp e)

/-- SUPPRESSION_WINDOW (R423): a window of 3,125,000 ticks has ended. -/
def execSuppressionWindow (s : State) : Host.Outcome State Fault Refusal :=
  if !s.pwr.on || decide (s.aon / 3125000 ≤ s.evt.window) then .next s
  else
    let t := { s with evt := { s.evt with window := s.aon / 3125000 } }
    .next ((t.evt.rates.map (fun x => x.1)).foldl State.summary t)

end Sys2Proof.Machine
end

