-- ==== Sys2Proof/Machine/Mgmt.lean ====
section
/-! DEFINITION. What the device answers over DOE and SPDM (R336, R343, R350, R380, R381) and over MCTP and PLDM
(R452 to R454). -/

namespace Sys2Proof.Machine

/-! ### DOE (R336, R343, R350) -/

/-- The DOE objects in the order of R336, with their vendor and type. -/
def doeObjects : List (Nat × Nat) := [(0x0001, 0), (0x0001, 1), (0x0001, 2), (0x1e98, 2)]

/-- A request over DOE: in the error state the DOE error response (R372). -/
def State.doeAnswer (s : State) (r : Reply) : State := s.doeReply (if s.boot.stopped then .doeError else r)

/-- The answer to a discovery of an index. -/
def State.discover (index : Nat) (s : State) : State :=
  s.doeAnswer (match doeObjects[index]? with
    | some o => .discovery index o.1 o.2 (if index + 1 < doeObjects.length then index + 1 else 0)
    | none => .discovery index 0xffff 0xff 0)

/-- DOE_DISCOVERY (R350). -/
def execDoeDiscovery (index : Nat) (s : State) : Host.Outcome State Fault Refusal :=
  s.configAccess (.doeDiscovery index) (State.discover index)

/-- The one DSMAS entry of CDAT: the window, 700 ns and 50 GB/s (R343, R350). -/
def State.cdatAnswer (s : State) : State := s.doeAnswer (.cdat windowBytes 700 50)

/-- CDAT_TABLE_ACCESS (R350). -/
def execCdatTableAccess (handle : Nat) (s : State) : Host.Outcome State Fault Refusal :=
  s.configAccess (.cdatTableAccess handle) State.cdatAnswer

/-! ### Attestation (R380, R381) -/

/-- Exactly `n` bytes. -/
def fitBytes (n : Nat) (b : List Byte) : List Byte := (b ++ leBytes n 0).take n

/-- The alias seeds and public keys of the two algorithms. -/
def State.edAlias (s : State) : List Byte := s.sec.aliasSeed.take 32
def State.mlAlias (s : State) : List Byte := s.sec.aliasSeed.drop 32

/-- A certificate chain. -/
def State.chainBytes (s : State) (alg : Nat) : List Byte :=
  Config.certChain alg (if alg = 0 then Config.edPublic s.edAlias else Config.mlPublic s.mlAlias)

/-- GET_CERTIFICATE: slot 0 holds the Ed25519 chain. -/
def State.certificate (slot : Nat) (s : State) : State :=
  s.spdmReply (fun t => t.doeReply (if slot = 0 then .chain (t.chainBytes 0) else .unsupported))

/-- GET_CERTIFICATE (R381). -/
def execGetCertificate (slot : Nat) (s : State) : Host.Outcome State Fault Refusal :=
  s.configAccess (.getCertificate slot) (State.certificate slot)

/-- A signature of a message that this manual does not lay out. -/
def State.freeSignature (s : State) : List Byte := leBytes 64 (Config.freeWord s.freeCtr)

/-- CHALLENGE: the alias key signs. -/
def State.challenged (slot : Nat) (nonce : List Byte) (s : State) : State :=
  s.spdmReply (fun t => if slot = 0 then t.tick.doeReply (.challenge slot nonce t.freeSignature) else t.doeReply .unsupported)

/-- CHALLENGE (R381). -/
def execChallenge (slot : Nat) (nonce : List Byte) (s : State) : Host.Outcome State Fault Refusal :=
  s.configAccess (.challenge slot nonce) (State.challenged slot nonce)

/-- The DEBUG byte of the attestation report. -/
def State.debugByte (s : State) : Nat := s.f F.secStatusDebug + 4 * s.f F.secStatusTaint

/-- FW_DIGEST. -/
def State.fwDigest (s : State) : List Byte := (s.boot.running.map (fun i => i.headerSha)).getD []

/-- The measurement blocks, in order. -/
def State.measurements (s : State) : List (List Byte) := [
  Config.romDigest, s.fwDigest, s.fuseDigest,
  leBytes 1 (s.f F.secStatusLifecycle) ++ leBytes 1 s.debugByte,
  leBytes 1 (s.f F.secFwSvn) ++ leBytes 1 (s.f F.secFwRollback)]

/-- GET_MEASUREMENTS. -/
def State.measured (nonce : List Byte) (s : State) : State :=
  s.spdmReply (fun t => t.tick.doeReply (.measurements t.measurements nonce t.freeSignature))

/-- GET_MEASUREMENTS (R381). -/
def execGetMeasurements (nonce : List Byte) (s : State) : Host.Outcome State Fault Refusal :=
  s.configAccess (.getMeasurements nonce) (State.measured nonce)

/-- The 256-byte header of the attestation report. -/
def State.reportHeader (s : State) (nonce : List Byte) : List Byte :=
  leBytes 4 0x5453a001 ++ leBytes 2 1 ++ leBytes 1 (s.f F.secStatusLifecycle) ++ leBytes 1 s.debugByte ++
  fitBytes 32 nonce ++ fitBytes 64 s.sec.identity ++ fitBytes 64 s.fwDigest ++ fitBytes 64 s.fuseDigest ++
  leBytes 1 (s.f F.secFwSvn) ++ leBytes 1 (s.f F.secFwRollback) ++ leBytes 1 (s.f F.secFwFuseGen) ++ leBytes 1 0 ++
  leBytes 2 (s.f F.secScrubScrubbed) ++ leBytes 2 (s.f F.secScrubFailed) ++ leBytes 8 s.sec.scrubTime ++ leBytes 8 0

/-- A header with its signature block by the alias keys (R374). -/
def State.signedReport (s : State) (header : List Byte) : List Byte :=
  header ++ fitBytes 32 (Config.edPublic s.edAlias) ++ fitBytes 1952 (Config.mlPublic s.mlAlias) ++
  fitBytes 64 (Config.edSign s.edAlias header) ++ fitBytes 3309 (Config.mlSign s.mlAlias header) ++ leBytes 19 0

/-- Eblum's request: the ML-DSA-65 chain and the report. -/
def State.reported (nonce : List Byte) (s : State) : State :=
  s.spdmReply (fun t => t.doeReply (.report (t.chainBytes 1) (t.signedReport (t.reportHeader nonce))))

/-- ATTESTATION_REPORT (R381). -/
def execAttestationReport (nonce : List Byte) (s : State) : Host.Outcome State Fault Refusal :=
  s.configAccess (.attestationReport nonce) (State.reported nonce)

/-! ### MCTP control (R452) -/

/-- A request that the management endpoint takes in every state except Off, with its answer. -/
def State.mgmt (s : State) (run : State → State × Reply) : Host.Outcome State Fault Refusal :=
  if !s.pwr.on then .next s
  else
    let r := run s
    .next { r.1 with out := { r.1.out with mctp := r.1.out.mctp ++ [r.2] } }

/-- An endpoint ID that the bus owner may assign. -/
def eidOk (eid : Nat) : Bool := decide (8 ≤ eid) && decide (eid < 255)

/-- SET_ENDPOINT_ID. -/
def execSetEndpointId (eid : Nat) (s : State) : Host.Outcome State Fault Refusal :=
  s.mgmt (fun t => if eidOk eid then ({ t with eid := eid }, .mctp 1 0 [(eid : Int)]) else (t, .mctp 1 2 [(t.eid : Int)]))

/-- GET_ENDPOINT_ID. -/
def execGetEndpointId (s : State) : Host.Outcome State Fault Refusal :=
  s.mgmt (fun t => (t, .mctp 2 0 [(t.eid : Int)]))

/-- GET_MCTP_VERSION_SUPPORT: of the base, of control and of PLDM; which versions is not stated. -/
def execGetMctpVersionSupport (type : Nat) (s : State) : Host.Outcome State Fault Refusal :=
  s.mgmt (fun t => if [0xff, 0, 1].contains type then (t.tick, .mctp 4 0 [(Config.freeWord t.freeCtr : Int)])
    else (t, .mctp 4 0x80 []))

/-- GET_MESSAGE_TYPE_SUPPORT: PLDM. -/
def execGetMessageTypeSupport (s : State) : Host.Outcome State Fault Refusal := s.mgmt (fun t => (t, .mctp 5 0 [1]))

/-! ### PLDM (R452, R453) -/

/-- GET_TID: the terminus ID is not stated. -/
def execGetTid (s : State) : Host.Outcome State Fault Refusal :=
  s.mgmt (fun t => (t.tick, .pldm 0 2 0 [(Config.freeWord t.freeCtr % 256 : Nat)]))

/-- The PLDM types, and the commands of a type. -/
def pldmTypes : List Int := [0, 2, 5]
def pldmCommands (type : Nat) : Option (List Int) :=
  if type = 0 then some [2, 3, 4, 5]
  else if type = 2 then some [0x11, 0x21, 0x51]
  else if type = 5 then some [0x10, 0x16, 0x1a]
  else none

/-- GET_PLDM_VERSION: the version of a type is not stated. -/
def execGetPldmVersion (type : Nat) (s : State) : Host.Outcome State Fault Refusal :=
  s.mgmt (fun t => match pldmCommands type with
    | some _ => (t.tick, .pldm 0 3 0 [(Config.freeWord t.freeCtr % 2 ^ 32 : Nat)])
    | none => (t, .pldm 0 3 0x83 []))

/-- GET_PLDM_TYPES. -/
def execGetPldmTypes (s : State) : Host.Outcome State Fault Refusal := s.mgmt (fun t => (t, .pldm 0 4 0 pldmTypes))

/-- GET_PLDM_COMMANDS. -/
def execGetPldmCommands (type : Nat) (s : State) : Host.Outcome State Fault Refusal :=
  s.mgmt (fun t => match pldmCommands type with
    | some cs => (t, .pldm 0 5 0 cs)
    | none => (t, .pldm 0 5 0x83 []))

/-- The sensors in the order of R453, numbered from 0: the numeric ones come before 7, the state sensors from 7 on. -/
def sensorCount : Nat := 10
def isNumeric (k : Nat) : Bool := decide (k < 7)

/-- GET_PDR: the record of a sensor, its number, its kind and the next record. -/
def execGetPdr (handle : Nat) (s : State) : Host.Outcome State Fault Refusal :=
  s.mgmt (fun t =>
    let h := max 1 handle
    if sensorCount < h then (t, .pldm 2 0x51 0x82 [])
    else (t, .pldm 2 0x51 0 [(h - 1 : Nat), (natOfBool (!isNumeric (h - 1)) : Nat), (if h < sensorCount then h + 1 else 0 : Nat)]))

/-- The reading of a numeric sensor: the hottest die reading, or what the sensor gives. -/
def State.numericReading (s : State) (k : Nat) : Int :=
  if k = 0 then s.hottest else Config.sensor s.freeCtr (0x20000 + k)

/-- GET_SENSOR_READING. -/
def execGetSensorReading (sensor : Nat) (s : State) : Host.Outcome State Fault Refusal :=
  s.mgmt (fun t => if isNumeric sensor then (t.tick, .pldm 2 0x11 0 [t.numericReading sensor])
    else (t, .pldm 2 0x11 0x80 []))

/-- The readings of a state sensor: power state, lifecycle, and boot stage with FAIL. -/
def State.stateReading (s : State) (k : Nat) : Option (List Int) :=
  if k = 7 then some [(s.powerState : Int)]
  else if k = 8 then some [(s.f F.secStatusLifecycle : Int)]
  else if k = 9 then some [(s.f F.devBootStage : Int), (s.f F.devBootFail : Int)]
  else none

/-- GET_STATE_SENSOR_READINGS. -/
def execGetStateSensorReadings (sensor : Nat) (s : State) : Host.Outcome State Fault Refusal :=
  s.mgmt (fun t => match t.stateReading sensor with
    | some v => (t, .pldm 2 0x21 0 v)
    | none => (t, .pldm 2 0x21 0x80 []))

/-! ### Firmware update over PLDM (R454) -/

/-- FW_STAGE runs. -/
def State.staging (s : State) : Bool := match s.pup.cmd with
  | some c => c.cmd == 6
  | none => false

/-- The update in progress, or not. -/
def State.setUpdate (s : State) (b : Bool) : State := { s with boot := { s.boot with update := b } }

/-- REQUEST_UPDATE: one update at a time. -/
def execRequestUpdate (s : State) : Host.Outcome State Fault Refusal :=
  s.mgmt (fun t => if t.boot.update || t.staging then (t, .pldm 5 0x10 0x81 []) else (t.setUpdate true, .pldm 5 0x10 0 []))

/-- A transferred image in the bank that is not active: verified at once, or in the error state at the next boot. -/
def State.transfer (s : State) (b : List Byte) : State × Nat :=
  if s.boot.stopped then ((s.putBank s.spareBank (some (imageOf b))).setF F.schSvcStatusStaged 1, 0) else s.stage b

/-- FIRMWARE_TRANSFER: the transfer ends; an image that fails ends the update. -/
def execFirmwareTransfer (image : List Byte) (s : State) : Host.Outcome State Fault Refusal :=
  s.mgmt (fun t =>
    if !t.boot.update then (t, .pldm 5 0x16 0x80 [])
    else
      let r := t.transfer image
      if r.2 = 0 then (r.1, .pldm 5 0x16 0 []) else (r.1.setUpdate false, .pldm 5 0x16 1 [(r.2 : Int)]))

/-- ACTIVATE_FIRMWARE: as FW_ACTIVATE, and refused unless the loop is HALTED or STOPPED. -/
def execActivateFirmware (s : State) : Host.Outcome State Fault Refusal :=
  s.mgmt (fun t =>
    if !t.boot.update then (t, .pldm 5 0x1a 0x80 [])
    else if t.looping || !t.fb F.schSvcStatusStaged then (t, .pldm 5 0x1a 1 [])
    else (t.activateBank.setUpdate false, .pldm 5 0x1a 0 []))

end Sys2Proof.Machine
end

