-- ==== Sys2Proof/Machine/Idle.lean ====
section
/-! DEFINITION. The always-on tick that passes when no command waits (R311, R356): the counter and the timers of the
step record. -/

namespace Sys2Proof.Machine

/-- An instruction of the step in progress that has started and not completed. -/
def State.running (s : State) (p : Inst → Bool) : Bool :=
  s.sch.inflight.any (fun i => i.step == some s.stepNow && i.phase != .waiting && p i)

/-- Work of the forward timer: ARR.FWD, a forward row operation, or VEC admitted before the first GRD.DX. -/
def State.forwardWork (s : State) (i : Inst) : Bool :=
  [0x4003, 0x6000, 0x6002, 0x6004].contains i.code.op ||
  (i.code.iclass == 3 && (match s.pup.acc.firstDx with
    | none => true
    | some k => decide (i.id < k)))

/-- Work of the dX timer: dX-class grid work and backward row operations. -/
def dxWork (i : Inst) : Bool :=
  [0x6001, 0x6003, 0x6005].contains i.code.op || i.code.op == 0x5001 || (i.code.op == 0x5002 && i.raised)

/-- A bucket's owner has started its update, as this rank sees it. -/
def Bucket.updating (b : Bucket) : Bool := decide (0 < b.done) || decide (0 < b.got)

/-- The update engine has a group of a bucket that this rank owns to work on. -/
def State.engineBusy (s : State) : Bool := s.col.buckets.any (fun b => s.owns b.b && decide (b.done < b.sent))

/-- A tile writes or restores rows of the step, or an ARR.FWD waits for a tile that is being reprogrammed. -/
def State.rewriting (s : State) : Bool :=
  s.arr.tiles.any (fun x => match x.2.batch with
    | some b => b.kind == .restore || (b.kind == .crossing && b.shadow)
    | none => false) ||
  s.sch.inflight.any (fun i => i.code.op == 0x4003 && i.phase == .waiting && (match s.layer (i.layerOf 2) with
    | none => false
    | some l => l.held.any (fun t => (s.tile t).suspect || (s.tile t).batch.isSome)))

/-- The next step waits for its batch. -/
def State.starved (s : State) : Bool :=
  s.looping && s.pup.settled && s.pup.waitFrom.isSome && s.wantsSlot && s.presentSlot.isNone && !s.pass.launched

/-- One tick on the timers of the step record. -/
def State.timers (s : State) (a : StepAcc) : StepAcc :=
  let on (b : Bool) : Nat := if b then 1 else 0
  let live := s.pass.launched
  { a with
    tForward := a.tForward + on (live && s.running s.forwardWork)
    tDx := a.tDx + on (live && s.running dxWork)
    tDw := a.tDw + on (live && s.running (fun i => i.deferred))
    tRed := a.tRed + on (live && s.col.buckets.any (fun b => b.entered && !b.updating))
    tUpdate := a.tUpdate + on (live && s.engineBusy)
    tPass := a.tPass + on (live && s.pass.ready.isSome)
    tIngest := a.tIngest + on s.starved
    tRewrite := a.tRewrite + on (live && s.rewriting) }

/-- A tick of 320 ns: in every state but Off the counter advances (R356), and a service command that waits for its block
starts once that can be read (R313). -/
def State.idleTick (s : State) : State :=
  if !s.pwr.on then s
  else ({ s with aon := s.aon + 1, pup := { s.pup with acc := s.timers s.pup.acc } }).svcLate

end Sys2Proof.Machine
end

