-- ==== Sys2Proof/Machine/View.lean ====
section
/-! DEFINITION. What a read of a register returns: the fields that show the state of a unit, beside those that the
register file holds (spec/03 to spec/19, R12, R339). -/

namespace Sys2Proof.Machine

/-- Whether a batch is being copied into a slot. -/
def State.filling (s : State) : Bool := s.pup.slot0.state == .filling || s.pup.slot1.state == .filling

/-- Row writes of a tile are in progress or pending. -/
def Tile.writing (x : Tile) : Bool := x.batch.isSome || (x.late && !x.dirty.isEmpty)

/-- The sum of 2 ^ p over the ports of which `g` holds. -/
def portMask (g : Nat → Bool) : Nat := (allPorts.map (fun p => if g p then 2 ^ p else 0)).sum

/-! ### Blocks SCH and MEM (R86, R88) -/

/-- SCH.STATUS and SCH.INFLIGHT. -/
def State.liveSch (s : State) : List (Fld × Nat) := [
  (F.schStatusFull, natOfBool (decide (15872 ≤ s.sch.inflight.countP (fun i => i.cls != 0)))),
  (F.schStatusActive, natOfBool (!s.sch.inflight.isEmpty)),
  (F.schInflight, s.sch.inflight.length)]

/-- Valley pages on chip that an allocation may evict to the HBM quota. -/
def State.evictable (s : State) : Nat :=
  min (s.val.hbmQuota - s.hbmPages) (s.val.pages.countP (fun p => match p.2 with
    | .chip _ => true
    | .hbm => false
    | .toChip _ => false))

/-- The free bytes and the valley. -/
def State.liveMem (s : State) : List (Fld × Nat) := [
  (F.memScratchFree, scratchTop - (s.scratchUsed.map (fun x => x.2)).sum + s.evictable * pageBytes),
  (F.memHeapFree, s.heapFree),
  (F.memValleyUseHbmPages, s.hbmPages), (F.memValleyUseChipPages, s.chipPages),
  (F.memValleyStateDrain, natOfBool s.val.drain),
  (F.memValleyStateFrames, s.val.frames.countP (fun f => f.2.state != .poisoned && !f.2.old))]

/-! ### Block ARR (R116, R141) -/

/-- ARR.STATUS and ARR.OUT_STATUS.FREE. -/
def State.liveArr (s : State) : List (Fld × Nat) := [
  (F.arrStatusWriting, s.arr.tiles.countP (fun x => x.2.writing)),
  (F.arrStatusFree, s.freeCount),
  (F.arrStatusHealthy, tileCount - s.arr.tiles.countP (fun x => decide (2 ≤ x.2.state))),
  (F.arrOutStatusFree, s.poolFree)]

/-- The column scale that a physical column shows: of its own logical column, and of the spare the column that it
replaces. -/
def State.colScale (s : State) (x : Tile) (c : Nat) : Nat :=
  match s.layer x.layer with
  | none => 0
  | some l =>
    let j := if c = 259 then x.spareFor else c
    let shown := if c = 259 then x.spareValid else decide (c < 256) && !(x.spareValid && x.spareFor == c)
    if x.state = 1 ∧ shown then nth l.scales (x.colTile * 256 + j) else 0

/-- The registers of the selected tile; none beyond the last. -/
def State.liveTile (s : State) : List (Fld × Nat) :=
  let t := s.f F.arrTselTile
  let c := s.f F.arrTselCol
  if tileCount ≤ t then [(F.arrTfitGain, 0)]
  else
    let x := s.tile t
    let info : List (Fld × Nat) := [
      (F.arrTinfoWear, x.maxWear), (F.arrTinfoSpareFor, x.spareFor), (F.arrTinfoSpareValid, natOfBool x.spareValid),
      (F.arrTinfoSealed, natOfBool x.sealed), (F.arrTinfoBusy, natOfBool x.writing),
      (F.arrTinfoFactory, natOfBool x.factory), (F.arrTinfoState, x.state), (F.arrTinfoLayer, x.layer),
      (F.arrTinfoReason, x.reason)]
    let col : List (Fld × Nat) := if 260 ≤ c then [] else [
      (F.arrTcolScale, s.colScale x c), (F.arrTcolFailed, natOfBool (x.failedCols.contains c)),
      (F.arrTcolClip, min 0xffffffff ((mget c x.clips).getD 0))]
    let f := x.fits.getD (c / 32) {}
    info ++ col ++ [
      (F.arrTcalFlags, (x.fits.zipIdx.map (fun y => if y.1.flag then 2 ^ y.2 else 0)).sum),
      (F.arrTcalSuspect, natOfBool x.suspect),
      (F.arrTcalSingularRun, x.fits.foldl (fun a y => max a y.run) 0),
      (F.arrTcalTemp, unsignedOf 16 x.lastFit), (F.arrTcalCount, min 0xffffffff x.calCount),
      (F.arrTfitGain, f.gain), (F.arrTfitOffset, unsignedOf 16 f.off),
      (F.arrTfitAlpha, unsignedOf 16 f.alpha), (F.arrTfitBeta, unsignedOf 16 f.beta)]

/-- The registers of the selected layer; none where the handle names no placed layer. -/
def State.liveLayer (s : State) : List (Fld × Nat) :=
  match s.layer (s.f F.arrLselLayer) with
  | none => []
  | some l => [
      (F.arrLinfoPlaced, 1), (F.arrLinfoWt, natOfBool l.wt), (F.arrLinfoRange, l.range),
      (F.arrLinfoAuto, natOfBool l.auto), (F.arrLinfoFallback, natOfBool l.fallback),
      (F.arrLinfoRowTiles, l.rt), (F.arrLinfoColTiles, l.ct),
      (F.arrLstatConv, min 0xffffffff l.lastN), (F.arrLstatClips, min 0xffffffff l.lastC),
      (F.arrLmonHist, l.hist), (F.arrLmonSteps, min 0xffff l.steps), (F.arrLmonJump, natOfBool l.jump),
      (F.arrLmonFwdAction, l.action),
      (F.arrLoutClamps, (l.held.map (fun t => (s.tile t).comClamps)).sum),
      (F.arrLoutSlots, (l.held.map (fun t => (s.tile t).comSlots.length)).sum)]

/-! ### The engines (R150, R171, R189, R217, R334) -/

/-- Grids that run an item, of those of which `p` holds (R166). -/
def State.gridsRun (s : State) (p : GridRun → Bool) : Nat := s.units.running.countP p

/-- Stat frames of the step in the side memory, or in valley pages (R167). -/
def State.statFrames (s : State) (side : Bool) : Nat :=
  s.val.frames.countP (fun f => f.2.stat.isSome && f.2.side == side && !f.2.old)

/-- Finished-tile consumers that run, with a posted tile to process: of VEC work, only they stand between commands. -/
def State.consumers (s : State) (p : Inst → Bool) : Nat :=
  s.sch.inflight.countP (fun i => i.code.iclass == 3 && i.phase == .running && p i &&
    s.units.ftq.any (fun x => i.producer == some x.1))

/-- GRD, ROW and MOV. Row work, vector work and mover work take no time between commands, except the copy of a batch
by a channel of the puppeteer; the spec does not say by which of channels 56 to 63, and the model takes 56. DESIGN CHOICE. -/
def State.liveEngines (s : State) : List (Fld × Nat) := [
  (F.grdStatusDxSpread, natOfBool (decide (0 < s.gridsRun (fun r => r.dx && decide (128 ≤ r.grid))))),
  (F.grdStatusDwSpread, natOfBool (decide (0 < s.gridsRun (fun r => r.dw && decide (r.grid < 128))))),
  (F.grdStatusAwake, s.units.awake.countP (fun u => u.1 == .grid)),
  (F.grdStatusDxHalfBusy, s.gridsRun (fun r => decide (r.grid < 128))),
  (F.grdStatusDwHalfBusy, s.gridsRun (fun r => decide (128 ≤ r.grid))),
  (F.vecFtqUsed, s.units.ftq.length), (F.vecStatusBusy, min 16 (s.consumers (fun _ => true))),
  (F.vecStatusChain, natOfBool (decide (0 < s.consumers (fun i => decide (2 ≤ i.members.length))))),
  (F.rowStatusSideUsed, s.sideUsed / 64),
  (F.rowSideFrames, s.statFrames true), (F.rowSideSpilled, s.statFrames false),
  (F.movStatus, natOfBool s.filling), (F.movChStatusActive 56, natOfBool s.filling)]

/-- The interface and the ports. -/
def State.liveLinks (s : State) : List (Fld × Nat) := [
  (F.colStatusNext, s.col.next),
  (F.colStatusOwning, s.col.buckets.countP (fun b => b.entered && s.owns b.b)),
  (F.colStatusInIf, s.col.buckets.countP (fun b => b.entered)),
  (F.fabStatusQuarantined, portMask (fun p => s.pst p == pQuarantined)),
  (F.fabStatusUp, portMask (fun p => s.portUp p))] ++
  allPorts.map (fun p => (F.fabPStatusReplay p, (s.port p).replay.length))

/-! ### Power, fuses and events (R370, R396, R412, R429) -/

/-- The eight fuse bytes at a word, with the identity seeds read as zero. -/
def State.fuseWord (s : State) (a : Nat) : Nat :=
  if a < 0x2000 then bitsOf (genNoUds (s.gen (a / 2048))) (8 * (a % 2048)) 64
  else if a ≤ 0x2010 then bitsOf (s.fuses.retire + s.fuses.thermo * 2 ^ 32) (8 * (a - 0x2000)) 64
  else 0

/-- Power, the fuse window, and the bucket of the selected code. -/
def State.liveRest (s : State) : List (Fld × Nat) :=
  let r := s.rateOf (s.f F.evtRateSel)
  let target := s.f F.pwrStatusPending
  [(F.pwrStatusState, s.powerState),
   (F.pwrStatusHold, if target = 2 ∨ target = 3 then s.holdBits target else 0),
   (F.pwrAonCount, s.aon % 2 ^ 64),
   (F.devIdPart, 0x7502),
   (F.otpReadData, s.fuseWord (s.f F.otpReadAddr * 8)),
   (F.evtRateSuppressed, r.suppressed), (F.evtRateMask, natOfBool r.mask), (F.evtRateBurst, r.burst),
   (F.evtRateRate, r.rate)]

/-! ### Reads -/

/-- Every field that shows the state of a unit. -/
def State.live (s : State) : List (Fld × Nat) :=
  s.liveSch ++ s.liveMem ++ s.liveArr ++ s.liveTile ++ s.liveLayer ++ s.liveEngines ++ s.liveLinks ++ s.liveRest

/-- What a field reads as: write-only bits read as zero. -/
def State.shown (s : State) (x : Fld) : Nat :=
  if x.acc = .wo then 0
  else match s.live.find? (fun y => y.1 == x) with
    | some y => y.2 % 2 ^ x.w
    | none => s.f x

/-- The 64 bits that the given fields make up. -/
def State.wordOf (s : State) (xs : List Fld) : Nat := (xs.map (fun x => s.shown x * 2 ^ x.lo)).sum

/-- A register of BAR0; a reserved offset reads as zero. -/
def State.readReg (s : State) (off : Nat) : Nat := match fieldsAt off with
  | some xs => s.wordOf xs
  | none => 0

/-! ### The event window (R424, R429) -/

/-- A byte of a ring, as the records written last left it. -/
def Ring.byte (r : Ring) (a : Nat) : Byte :=
  match r.recs.find? (fun x => x.hits a 1) with
  | some x => x.bytes.getD (a - x.off) 0
  | none => 0

/-- `n` bytes of the window at an offset; the mirror shows none. -/
def State.windowBytesOf (s : State) (off n : Nat) : List Byte :=
  let ring := s.f F.evtRselRing
  let size := if ring = 1 then extBytes else if ring = 2 then 0 else ringBytes
  let a := s.f F.evtRselPage * 0x8000 + off
  (List.range n).map (fun i => if size ≤ a + i then 0 else s.selectedRing.byte (a + i))

end Sys2Proof.Machine
end

