-- ==== Sys2Proof/Machine/HostWrite.lean ====
section
/-! DEFINITION. Host writes to the BARs by offset (R12, R13, R337 to R340, R352), the debug access port (R390), and the
exit from Deep with what its wake latch holds (R365). -/

namespace Sys2Proof.Machine

/-! ### Values of registers (R12, R13, R339) -/

/-- A write to a register: the bits it covers, and the value of the whole register once those are replaced. -/
structure RegWrite where
  lo  : Nat
  w   : Nat
  cov : Nat
  new : Nat

/-- A field is covered whole or in part. -/
def RegWrite.touches (r : RegWrite) (x : Fld) : Bool := decide (x.lo < r.lo + r.w) && decide (r.lo < x.lo + x.w)

/-- A single bit covered and written as 1. -/
def RegWrite.hits (r : RegWrite) (x : Fld) : Bool := bitsOf r.cov x.lo x.w != 0

/-- The value that the write gives a field. -/
def RegWrite.value (r : RegWrite) (x : Fld) : Nat := bitsOf r.new x.lo x.w

/-- A write of `bytes` bytes at offset `off` to the register whose fields are `xs`. -/
def State.regWrite (s : State) (xs : List Fld) (off bytes v : Nat) : RegWrite :=
  let lo := 8 * (off % 8)
  let w := 8 * bytes
  let old := s.wordOf (xs.filter (fun x => x.acc == .rw || x.acc == .rws))
  { lo := lo, w := w, cov := v % 2 ^ w * 2 ^ lo, new := setBits old lo w v }

/-- One field of a write without an effect of its own. -/
def State.writeField (r : RegWrite) (s : State) (x : Fld) : State :=
  if !r.touches x then s
  else match x.acc with
    | .rw => s.setF x (r.value x / 2 ^ x.align * 2 ^ x.align)
    | .rws => s.setF x (r.value x / 2 ^ x.align * 2 ^ x.align)
    | .w1c => if r.hits x then s.setF x 0 else s
    | .ro => s
    | .wo => s

/-- A write without an effect of its own. -/
def State.plainWrite (xs : List Fld) (r : RegWrite) (s : State) : State := xs.foldl (State.writeField r) s

/-- The same, unless writes are ignored at present. -/
def State.plainUnless (ignored : Bool) (xs : List Fld) (r : RegWrite) (s : State) : State :=
  if ignored then s else s.plainWrite xs r

/-! ### Registers whose writes have an effect -/

/-- SCH.CTRL (R86): tokens are cleared, RUN is written, and the step body is launched, in this order. -/
def State.ctrlWrite (r : RegWrite) (s : State) : State :=
  let t := if r.hits F.schCtrlTokenClearAll then s.tokenClear else s
  let t := if r.touches F.schCtrlRun then t.setRun (bitOf r.new 0) else t
  if r.hits F.schCtrlStepLaunch then t.softLaunch else t

/-- The registers of a queue and of a completion queue, by their place (R62, R66, R86). -/
def State.queueReg (place n : Nat) (xs : List Fld) (r : RegWrite) (s : State) : State :=
  match place with
  | 0x00 => s.plainUnless (s.fb (F.schQCfgEn n)) xs r
  | 0x08 => s.queueWrite n r.new
  | 0x20 => s.plainUnless (s.fb (F.schCqCfgEn n)) xs r
  | 0x28 => s.cqWrite n r.new
  | 0x30 => if r.touches (F.schCqPtrHead n) then s.cqHeadWrite n (r.value (F.schCqPtrHead n)) else s
  | _ => s.plainWrite xs r

/-- ARR.CTRL (R116): DBG_ROWS256 can be written only while halt is granted. -/
def State.arrCtrlWrite (xs : List Fld) (r : RegWrite) (s : State) : State :=
  s.plainWrite (if s.f F.secStatusDebug = 2 then xs else xs.filter (fun x => x != F.arrCtrlDbgRows256)) r

/-- ARR.LMON of the selected layer (R141). -/
def State.lmonWrite (r : RegWrite) (s : State) : State :=
  s.modLayer (s.f F.arrLselLayer) (fun l => { l with
    jump := l.jump && !r.hits F.arrLmonJump
    action := if r.touches F.arrLmonFwdAction then r.value F.arrLmonFwdAction else l.action })

/-- FAB.Pn_CTRL (R325, R332, R334). -/
def State.portWrite (p : Nat) (r : RegWrite) (s : State) : State :=
  let en := bitOf r.new 0
  let t := if r.touches (F.fabPCtrlEn p) && en != s.fb (F.fabPCtrlEn p) then s.enablePort p en else s
  let t := if r.hits (F.fabPCtrlRetrain p) then t.retrainPort p else t
  if r.hits (F.fabPCtrlUnquarantine p) then t.unquarantinePort p else t

/-- EVT.CTRL (R420): the mirror begins empty where it is switched on. -/
def State.evtCtrlWrite (xs : List Fld) (r : RegWrite) (s : State) : State :=
  let t := s.plainWrite xs r
  if t.fb F.evtCtrlMirrorEn && !s.fb F.evtCtrlMirrorEn then
    { t with evt := { t.evt with mirror := { next := t.evt.nextSeq } } }
  else t

/-- DEV.REPLAY_CTRL (R443): both bits together have no effect. -/
def State.replayWrite (r : RegWrite) (s : State) : State :=
  if bitsOf r.cov 8 8 ≠ 0xa5 then s
  else if r.hits F.devReplayCtrlEnter then (if r.hits F.devReplayCtrlExit then s else s.replayEntry)
  else if r.hits F.devReplayCtrlExit then s.exitReplay
  else s

/-- SEC.CMD (R395): the command and its argument; one that the table does not list is no command. No fuse fails. -/
def State.secWrite (v : Nat) (s : State) : State :=
  let cmd := bitsOf v 0 8
  let arg := bitsOf v 8 8
  if cmd = 2 then s.debugCmd arg
  else if cmd = 4 then s.lifecycleCmd arg none
  else if arg ≠ 0 then s.secBadCommand v
  else if cmd = 1 then s.nonceCmd
  else if cmd = 3 then s.releaseDebug
  else if cmd = 5 then s.rotateCmd none
  else if cmd = 6 then s.scrubCmd
  else if cmd = 7 then s.featuresCmd none
  else s.secBadCommand v

/-- A write to the register at `reg` with its effect. -/
def State.regEffect (reg : Nat) (xs : List Fld) (r : RegWrite) (s : State) : State :=
  if 0x11000 ≤ reg ∧ reg < 0x12000 then s.queueReg ((reg - 0x11000) % 0x40) ((reg - 0x11000) / 0x40) xs r
  else if 0x91000 ≤ reg ∧ reg < 0x91300 ∧ reg % 0x40 = 0 then s.portWrite ((reg - 0x91000) / 0x40) r
  else match reg with
    | 0x00010 => s.devResetWrite r.cov
    | 0x00018 => s.tileResetWrite r.cov
    | 0x00030 => s.replayWrite r
    | 0x10000 => s.ctrlWrite r
    | 0x10030 => s.quotaRegs true r.new
    | 0x100c0 => s.svcWrite r.new
    | 0x20010 => s.plainUnless (s.fb F.schCtrlRun) xs r
    | 0x20018 => s.plainUnless (s.fb F.schCtrlRun) xs r
    | 0x20020 => s.quotaRegs false r.new
    | 0x20030 => s.plainUnless (s.fb F.schCtrlRun) xs r
    | 0x30000 => s.arrCtrlWrite xs r
    | 0x30048 => s.infoWrite r.new
    | 0x30090 => s.lmonWrite r
    | 0x80000 => if r.hits F.colCtrlForceProbe then s.forceProbes else s
    | 0x80018 => s.plainUnless (s.fb F.schCtrlRun) xs r
    | 0x800c8 => if r.hits F.colQuarantineQclear then s.clearQuarantine else s
    | 0x90000 => if r.hits F.fabCtrlRouteLoad then (s.plainWrite xs r).loadRoutes else s.plainWrite xs r
    | 0xa0008 => s.plainUnless (s.fb F.cxlStatusWinCommitted) xs r
    | 0xb0000 => if r.touches F.pwrCtrlReq then s.requestState (r.value F.pwrCtrlReq) else s
    | 0xc0008 => if r.touches F.secCmdCmd then s.secWrite r.cov else s
    | 0xe0000 => s.evtCtrlWrite xs r
    | 0xe0058 => s.rateWrite r.new
    | _ => s.plainWrite xs r

/-! ### BAR0 (R338, R339) -/

/-- An access of 4 or 8 bytes on a multiple of its width. -/
def widthOk (off bytes : Nat) : Bool := (bytes == 4 || bytes == 8) && off % bytes == 0

/-- An address or data word of the MSI-X table written; the last word of an entry is its vector control. -/
def State.msixWord (s : State) (k v : Nat) : State :=
  if k % 4 = 3 then s
  else { s with cxl := { s.cxl with
    msixWords := if v = 0 then mdel k s.cxl.msixWords else mput k v s.cxl.msixWords } }

/-- A write to the MSI-X table: message words, and the mask bit of an entry's last word (R349). -/
def State.msixWrite (off bytes v : Nat) (s : State) : State :=
  let vec := off / 16
  let s := if bytes = 8 then (s.msixWord (off / 4) (bitsOf v 0 32)).msixWord (off / 4 + 1) (bitsOf v 32 32)
    else s.msixWord (off / 4) (bitsOf v 0 32)
  let ctl : Option Bool :=
    if off % 16 = 12 then some (bitOf v 0) else if off % 16 = 8 ∧ bytes = 8 then some (bitOf v 32) else none
  match ctl with
  | none => s
  | some true => s.mask vec
  | some false => s.unmask vec

/-- A write of `bytes` bytes to BAR0. The component registers take theirs without an effect here. -/
def State.bar0Write (off bytes v : Nat) (s : State) : State :=
  if 0x100000 ≤ off then
    (if off < 0x110000 ∨ (0x188000 ≤ off ∧ off < 0x188100) then s
     else if 0x180000 ≤ off ∧ off < 0x188000 then s.msixWrite (off - 0x180000) bytes v
     else s.violation 5)
  else match fieldsAt (off / 8 * 8) with
    | none => s.violation 5
    | some xs =>
      if !widthOk off bytes then s.violation 6
      else if s.boot.stopped ∧ off / 8 * 8 ≠ 0xc0008 then s.violation 5
      else s.regEffect (off / 8 * 8) xs (s.regWrite xs off bytes v)

/-- The offset lies in the SEC block. -/
def inSec (off : Nat) : Bool := off / 0x10000 == 0xc

/-! ### BAR4 in CXL mode (R434, R435) -/

/-- A write to a word of the interface page. -/
def State.pageWrite (off bytes v : Nat) (s : State) : State :=
  if !([0x00, 0x08, 0x10, 0x18, 0x20].contains (off / 8 * 8)) then s.violation 5
  else if bytes ≠ 8 ∨ off % 8 ≠ 0 then s.violation 6
  else if off = 0 then s.submitTable v
  else if off = 0x10 then { s with bel := { s.bel with aperture := min 16369 (bitsOf v 0 14) } }
  else s

/-- A write to the legacy window. -/
def State.legacyWrite (off bytes v : Nat) (s : State) : State :=
  if !s.legacyOpen then s.violation 7
  else if off < 0x1000 then s.pageWrite off bytes v
  else if off < 0x100000 ∨ 0x1000000 ≤ off then s.violation 5
  else if !widthOk off bytes then s.violation 6
  else s.touchHbm.wrNat 1 (s.bel.aperture * 2 ^ 20 + (off - 0x100000)) bytes v

/-! ### Host writes -/

/-- A write to BAR2 (R340). -/
def bar2Write (off bytes v : Nat) (s : State) : Host.Outcome State Fault Refusal :=
  let c : Instr := .registerWrite 2 off bytes (some v)
  if !(off == 0x40000 || (off % 0x1000 == 0 && decide (off < 0x40000))) then s.hostAccess c false (fun t => t.violation 5)
  else if bytes ≠ 8 then s.hostAccess c false (fun t => t.violation 6)
  else if off = 0x40000 then s.hostAccess (.ingestWake v) false State.wakeIngest
  else s.hostAccess (.doorbell (off / 0x1000) v) false (State.ringDoorbell (off / 0x1000) v)

/-- A host write of `bytes` bytes to a BAR (R12, R339). -/
def barWrite (bar off bytes v : Nat) (s : State) : Host.Outcome State Fault Refusal :=
  let c : Instr := .registerWrite bar off bytes (some v)
  if bar = 0 then s.hostAccess c (inSec off) (State.bar0Write off bytes v)
  else if bar = 2 then bar2Write off bytes v s
  else if bar = 4 then
    (if s.pcieMode then s.hostAccess c false (State.barWindow off bytes (some (leBytes bytes v)))
     else s.hostAccess c false (State.legacyWrite off bytes v))
  else s.hostAccess c false (fun t => t.violation 5)

/-! ### Host reads, REGISTER_WRITE and HEAD_SEQ_READ (R339, R340, R424, R429, R435) -/

/-- A read answered with bytes; a bad one of kind `k` with zeros (R352). -/
def State.readWith (s : State) (b : List Byte) : State := { s with out := { s.out with data := s.out.data ++ [(b, false)] } }
def State.badRead (s : State) (k bytes : Nat) : State := (s.violation k).readWith (leBytes bytes 0)

/-- A 32-bit word of the MSI-X table, by its number: the mask bit of an entry, or what was written; and one of the PBA. -/
def State.msixRead (s : State) (k : Nat) : Nat :=
  if k % 4 = 3 then natOfBool (!s.cxl.msixOpen.contains (k / 4)) else (mget k s.cxl.msixWords).getD 0
def State.pbaRead (s : State) (k : Nat) : Nat :=
  ((List.range 32).map (fun i => natOfBool (s.cxl.pba.contains (32 * k + i)) * 2 ^ i)).sum

/-- `bytes` bytes at `off` of a run of 32-bit words. -/
def wordBytes (word : Nat → Nat) (off bytes : Nat) : List Byte :=
  (List.range bytes).map (fun i => BitVec.ofNat 8 (word ((off + i) / 4) / 256 ^ ((off + i) % 4)))

/-- A read of BAR0: a register's covered bytes, the event window, the MSI-X structures; the component registers answer as
their own specification says, with a value that is free here. -/
def State.bar0Read (off bytes : Nat) (s : State) : State :=
  if 0x100000 ≤ off ∧ off < 0x110000 then s.tick.readWith (leBytes bytes (Config.freeWord s.freeCtr))
  else if 0x180000 ≤ off ∧ off < 0x188000 then s.readWith (wordBytes s.msixRead (off - 0x180000) bytes)
  else if 0x188000 ≤ off ∧ off < 0x188100 then s.readWith (wordBytes s.pbaRead (off - 0x188000) bytes)
  else if 0xe8000 ≤ off ∧ off < 0xf0000 then
    (if widthOk off bytes then s.readWith (s.windowBytesOf (off - 0xe8000) bytes) else s.badRead 6 bytes)
  else if (fieldsAt (off / 8 * 8)).isNone then s.badRead 5 bytes
  else if !widthOk off bytes then s.badRead 6 bytes
  else
    let t := if off / 8 * 8 = 0xe0018 then s.latchHead else s
    t.readWith (leBytes bytes (bitsOf (t.readReg (off / 8 * 8)) (8 * (off % 8)) (8 * bytes)))

/-- A word of the interface page. BUSY shows while a table is queued: a table runs as one step. -/
def State.pageWord (s : State) (off : Nat) : Nat :=
  if off = 0x08 then natOfBool (!s.bel.queue.isEmpty) * 2 ^ 63 + s.bel.result % 256 * 2 ^ 48 +
    s.bel.queue.length * 2 ^ 32 + s.f F.devReplayStatusTables
  else if off = 0x10 then s.bel.aperture
  else if off = 0x18 then 2047
  else if off = 0x20 then s.bel.overrun
  else 0

/-- A read of the Belgar window. -/
def State.legacyRead (off bytes : Nat) (s : State) : State :=
  if !s.legacyOpen then s.badRead 7 bytes
  else if off < 0x1000 then
    (if !([0x00, 0x08, 0x10, 0x18, 0x20].contains (off / 8 * 8)) then s.badRead 5 bytes
     else if bytes ≠ 8 ∨ off % 8 ≠ 0 then s.badRead 6 bytes
     else s.readWith (leBytes 8 (s.pageWord off)))
  else if off < 0x100000 ∨ 0x1000000 ≤ off then s.badRead 5 bytes
  else if !widthOk off bytes then s.badRead 6 bytes
  else s.touchHbm.readWith (s.rdBytes 1 (s.bel.aperture * 2 ^ 20 + (off - 0x100000)) bytes)

/-- A read of BAR2 returns zero; one of a reserved offset is a violation. -/
def State.bar2Read (off bytes : Nat) (s : State) : State :=
  if off = 0x40000 ∨ (off % 0x1000 = 0 ∧ off < 0x40000) then s.readWith (leBytes bytes 0) else s.badRead 5 bytes

/-- A read of `bytes` bytes of a BAR that reaches the device (R339, R352, R424). -/
def State.barRead (bar off bytes : Nat) (s : State) : State :=
  if bar = 0 then s.bar0Read off bytes
  else if bar = 2 then s.bar2Read off bytes
  else if bar = 4 then (if s.pcieMode then s.barWindow off bytes none else s.legacyRead off bytes)
  else s.badRead 5 bytes

/-- A read of a BAR; one that is closed gives a violation and zero. -/
def State.openRead (bar off bytes : Nat) (s : State) : State :=
  if !(bar == 0 && inSec off) && s.barClosed then s.badRead 5 bytes else s.barRead bar off bytes

/-- HEAD_SEQ_READ (R424): a host read of EVT.HEAD_SEQ. -/
def execHeadSeqRead (s : State) : Host.Outcome State Fault Refusal :=
  s.hostAccess .headSeqRead true (State.openRead 0 0xe0018 8)

/-- REGISTER_WRITE (R12, R339, R352): a host write to a BAR, or a host read of one. -/
def execRegisterWrite (bar off bytes : Nat) (v : Option Nat) (s : State) : Host.Outcome State Fault Refusal :=
  match v with
  | some v => barWrite bar off bytes v s
  | none => s.hostAccess (.registerWrite bar off bytes none) true (State.openRead bar off bytes)

/-! ### The debug access port (R390) -/

/-- Bytes that the port returns. -/
def State.giveData (s : State) (b : List Byte) : State := { s with out := { s.out with data := s.out.data ++ [(b, false)] } }

/-- An access under observe: a byte of a ring, or a word of a trace stream, whose content is not stated. -/
def State.observe (s : State) : DapOp → Option State
  | .readRing ext off => some (s.giveData [(if ext then s.evt.ext else s.evt.ring).byte off])
  | .readTrace unit => some (s.tick.giveData (leBytes 8 (Config.freeWord (s.freeCtr + unit))))
  | .haltPuppeteer => none
  | .stepPuppeteer => none
  | .resumePuppeteer => none
  | .readMem _ _ => none
  | .writeMem _ _ _ => none
  | .readReg _ => none
  | .writeReg _ _ => none

/-- The puppeteer halted, or running. -/
def State.setHalted (s : State) (b : Bool) : State := { s with sec := { s.sec with halted := b } }

/-- An access under halt. A step of the puppeteer has no effect that this manual names. -/
def State.haltAccess (s : State) : DapOp → State
  | .readRing _ _ => s
  | .readTrace _ => s
  | .haltPuppeteer => s.setHalted true
  | .stepPuppeteer => s
  | .resumePuppeteer => s.setHalted false
  | .readMem space a => if space < 2 ∧ a < spaceTop space then s.touchHbm.giveData [s.rd space a] else s
  | .writeMem space a b => if space < 2 ∧ a < spaceTop space then s.touchHbm.wr space a b else s
  | .readReg off => s.giveData (leBytes 8 (s.readReg off))
  | .writeReg off v => (match fieldsAt off with
    | none => s
    | some xs => s.regEffect off xs (s.regWrite xs off 8 v))

/-- DAP_ACCESS (R390): the port is closed unless a level is granted. -/
def execDapAccess (op : DapOp) (s : State) : Host.Outcome State Fault Refusal :=
  let level := s.f F.secStatusDebug
  if !s.pwr.on || level == 0 || s.pst_ == 3 then .next s
  else match s.observe op with
    | some t => .next t
    | none =>
      if level ≠ 2 then .next s else .next (s.haltAccess op)

end Sys2Proof.Machine
end

