-- ==== Sys2Proof/Machine/DeepExit.lean ====
section
/-! DEFINITION. The exit from Deep, with the accesses that the wake latch holds (R365). -/

namespace Sys2Proof.Machine

/-- A host access that the wake latch holds, with its effect; the latch holds nothing else. -/
def runHeld (c : Instr) (s : State) : Host.Outcome State Fault Refusal :=
  match c with
  | .doorbell q v => execDoorbell q v s
  | .ingestWake v => execIngestWake v s
  | .stepLaunch => execStepLaunch s
  | .tokenClearAll => execTokenClearAll s
  | .run on => execRun on s
  | .queueCfg q v => execQueueCfg q v s
  | .cqCfg n v => execCqCfg n v s
  | .cqHead n head => execCqHead n head s
  | .quotaWrite defer v => execQuotaWrite defer v s
  | .linfoWrite v => execLinfoWrite v s
  | .forceProbe => execForceProbe s
  | .qclear => execQclear s
  | .registerWrite bar off bytes v => execRegisterWrite bar off bytes v s
  | .headSeqRead => execHeadSeqRead s
  | .evtRate v => execEvtRate v s
  | .msixUnmask vec => execMsixUnmask vec s
  | .programLoad => execProgramLoad s
  | .loopStart v => execLoopStart v s
  | .loopStop v => execLoopStop v s
  | .loopRestart v => execLoopRestart v s
  | .restoreHost v => execRestoreHost v s
  | .ckptNow v => execCkptNow v s
  | .fwStage v => execFwStage v s
  | .fwActivate v => execFwActivate v s
  | .serviceBadCmd v => execServiceBadCmd v s
  | .retrain p => execRetrain p s
  | .unquarantine p => execUnquarantine p s
  | .portEnable p en => execPortEnable p en s
  | .routeLoad => execRouteLoad s
  | .requestIdle => execRequestIdle s
  | .requestDoze => execRequestDoze s
  | .requestDeep => execRequestDeep s
  | .busMasterEnable => execBusMasterEnable s
  | .devReset v => execDevReset v s
  | .serviceReset v => execServiceReset v s
  | .tileReset v => execTileReset v s
  | .nonce => execNonce s
  | .debugReq arg => execDebugReq arg s
  | .debugRel => execDebugRel s
  | .lifecycle arg stuck => execLifecycle arg stuck s
  | .keyRotate stuck => execKeyRotate stuck s
  | .scrubAll => execScrubAll s
  | .features stuck => execFeatures stuck s
  | .secBadCmd v => execSecBadCmd v s
  | .windowAccess addr len data => execWindowAccess addr len data s
  | .decoderCommit size ways => execDecoderCommit size ways s
  | .cacheResponse tag o => execCacheResponse tag o s
  | .ideKm cachemem => execIdeKm cachemem s
  | .doeDiscovery index => execDoeDiscovery index s
  | .cdatTableAccess handle => execCdatTableAccess handle s
  | .getCertificate slot => execGetCertificate slot s
  | .challenge slot nonce => execChallenge slot nonce s
  | .getMeasurements nonce => execGetMeasurements nonce s
  | .attestationReport nonce => execAttestationReport nonce s
  | .submit v => execSubmit v s
  | .replayEnter => execReplayEnter s
  | .replayExit => execReplayExit s
  | .memorySpaceEnable => execMemorySpaceEnable s
  | .spdmSessionStart => execSpdmSessionStart s
  | .spdmSessionEnd => execSpdmSessionEnd s
  | _ => .next s

/-- The accesses of the latch, in their order. -/
def runLatch (s : State) : List Instr → Host.Outcome State Fault Refusal
  | [] => .next s
  | c :: r => (match runHeld c s with
    | .next t => runLatch t r
    | .fault f => .fault f
    | .refused x => .refused x)

/-- The latch emptied. -/
def State.emptyLatch (s : State) : State := { s with pwr := { s.pwr with latch := [] } }

/-- DEEP_EXIT (R365): a wake trigger takes the device from Deep to Doze, and what the latch held is applied. -/
def execDeepExit (w : WakeCause) (s : State) : Host.Outcome State Fault Refusal :=
  if !s.pwr.on || s.pst_ != 3 || s.pwr.wake != some (wakeCode w) then .next s
  else runLatch (s.leaveDeep (wakeCode w)).emptyLatch s.pwr.latch

end Sys2Proof.Machine
end

