-- ==== Sys2Proof/Machine/Dispatch.lean ====
section
/-! DEFINITION. The dispatch: one arm per command, each one direct call of its meaning. -/

namespace Sys2Proof.Machine

/-- The effect of a command on everything but the queue. -/
def exec (i : Instr) (s : State) : Host.Outcome State Fault Refusal :=
  match i with
  | .ctlNop id => Sys2Proof.Machine.execCtlNop id s
  | .ctlJoin id => Sys2Proof.Machine.execCtlJoin id s
  | .ctlTset id => Sys2Proof.Machine.execCtlTset id s
  | .ctlTclr id => Sys2Proof.Machine.execCtlTclr id s
  | .ctlFence id => Sys2Proof.Machine.execCtlFence id s
  | .ctlMark id => Sys2Proof.Machine.execCtlMark id s
  | .memAlloc id => Sys2Proof.Machine.execMemAlloc id s
  | .memFree id => Sys2Proof.Machine.execMemFree id s
  | .memDset id => Sys2Proof.Machine.execMemDset id s
  | .memQuota id => Sys2Proof.Machine.execMemQuota id s
  | .memFill id => Sys2Proof.Machine.execMemFill id s
  | .movCopy id crc => Sys2Proof.Machine.execMovCopy id crc s
  | .movList id crc => Sys2Proof.Machine.execMovList id crc s
  | .vecAdd id => Sys2Proof.Machine.execVecAdd id s
  | .vecSub id => Sys2Proof.Machine.execVecSub id s
  | .vecMul id => Sys2Proof.Machine.execVecMul id s
  | .vecFma id => Sys2Proof.Machine.execVecFma id s
  | .vecMin id => Sys2Proof.Machine.execVecMin id s
  | .vecMax id => Sys2Proof.Machine.execVecMax id s
  | .vecAbs id => Sys2Proof.Machine.execVecAbs id s
  | .vecNeg id => Sys2Proof.Machine.execVecNeg id s
  | .vecAnd id => Sys2Proof.Machine.execVecAnd id s
  | .vecOr id => Sys2Proof.Machine.execVecOr id s
  | .vecXor id => Sys2Proof.Machine.execVecXor id s
  | .vecNot id => Sys2Proof.Machine.execVecNot id s
  | .vecShl id => Sys2Proof.Machine.execVecShl id s
  | .vecShr id => Sys2Proof.Machine.execVecShr id s
  | .vecSar id => Sys2Proof.Machine.execVecSar id s
  | .vecCmp id => Sys2Proof.Machine.execVecCmp id s
  | .vecSel id => Sys2Proof.Machine.execVecSel id s
  | .vecFunc id => Sys2Proof.Machine.execVecFunc id s
  | .vecCvt id => Sys2Proof.Machine.execVecCvt id s
  | .vecGather id => Sys2Proof.Machine.execVecGather id s
  | .vecScatadd id => Sys2Proof.Machine.execVecScatadd id s
  | .vecSegsum id => Sys2Proof.Machine.execVecSegsum id s
  | .vecSegmax id => Sys2Proof.Machine.execVecSegmax id s
  | .vecSort id => Sys2Proof.Machine.execVecSort id s
  | .vecTopk id => Sys2Proof.Machine.execVecTopk id s
  | .vecHist id => Sys2Proof.Machine.execVecHist id s
  | .valPush id crc => Sys2Proof.Machine.execValPush id crc s
  | .valPop id crc => Sys2Proof.Machine.execValPop id crc s
  | .valDrop id => Sys2Proof.Machine.execValDrop id s
  | .arrPlace id => Sys2Proof.Machine.execArrPlace id s
  | .arrProgram id => Sys2Proof.Machine.execArrProgram id s
  | .arrRelease id => Sys2Proof.Machine.execArrRelease id s
  | .arrFwd id => Sys2Proof.Machine.execArrFwd id s
  | .arrLread id => Sys2Proof.Machine.execArrLread id s
  | .arrFallback id => Sys2Proof.Machine.execArrFallback id s
  | .arrCalib id => Sys2Proof.Machine.execArrCalib id s
  | .grdFwd id => Sys2Proof.Machine.execGrdFwd id s
  | .grdDx id => Sys2Proof.Machine.execGrdDx id s
  | .grdDw id => Sys2Proof.Machine.execGrdDw id s
  | .rowNorm id => Sys2Proof.Machine.execRowNorm id s
  | .rowNormb id => Sys2Proof.Machine.execRowNormb id s
  | .rowSmax id => Sys2Proof.Machine.execRowSmax id s
  | .rowSmaxb id => Sys2Proof.Machine.execRowSmaxb id s
  | .rowLse id => Sys2Proof.Machine.execRowLse id s
  | .rowLseb id => Sys2Proof.Machine.execRowLseb id s
  | .colBucket id => Sys2Proof.Machine.execColBucket id s
  | .colPass id => Sys2Proof.Machine.execColPass id s
  | .colUpdcfg id => Sys2Proof.Machine.execColUpdcfg id s
  | .colAvgreset id => Sys2Proof.Machine.execColAvgreset id s
  | .svcSeed id => Sys2Proof.Machine.execSvcSeed id s
  | .svcCkpt id => Sys2Proof.Machine.execSvcCkpt id s
  | .svcScrub id => Sys2Proof.Machine.execSvcScrub id s
  | .svcRecord id => Sys2Proof.Machine.execSvcRecord id s
  | .recordAdmission q => Sys2Proof.Machine.execRecordAdmission q s
  | .chainClose q => Sys2Proof.Machine.execChainClose q s
  | .instructionCompletion id => Sys2Proof.Machine.execInstructionCompletion id s
  | .stall => Sys2Proof.Machine.execStall s
  | .gridItem id grid agree => Sys2Proof.Machine.execGridItem id grid agree s
  | .digitalArbitration kind unit id v => Sys2Proof.Machine.execDigitalArbitration kind unit id v s
  | .arrayArbitration tile low high => Sys2Proof.Machine.execArrayArbitration tile low high s
  | .partFailure id unit => Sys2Proof.Machine.execPartFailure id unit s
  | .ftqPost => Sys2Proof.Machine.execFtqPost s
  | .valleyPrefetch => Sys2Proof.Machine.execValleyPrefetch s
  | .pageTransferDone page => Sys2Proof.Machine.execPageTransferDone page s
  | .doorbell q v => Sys2Proof.Machine.execDoorbell q v s
  | .ingestWake v => Sys2Proof.Machine.execIngestWake v s
  | .stepLaunch => Sys2Proof.Machine.execStepLaunch s
  | .tokenClearAll => Sys2Proof.Machine.execTokenClearAll s
  | .run on => Sys2Proof.Machine.execRun on s
  | .queueCfg q v => Sys2Proof.Machine.execQueueCfg q v s
  | .cqCfg n v => Sys2Proof.Machine.execCqCfg n v s
  | .cqHead n head => Sys2Proof.Machine.execCqHead n head s
  | .quotaWrite defer v => Sys2Proof.Machine.execQuotaWrite defer v s
  | .linfoWrite v => Sys2Proof.Machine.execLinfoWrite v s
  | .forceProbe => Sys2Proof.Machine.execForceProbe s
  | .qclear => Sys2Proof.Machine.execQclear s
  | .registerWrite bar off bytes v => Sys2Proof.Machine.execRegisterWrite bar off bytes v s
  | .headSeqRead => Sys2Proof.Machine.execHeadSeqRead s
  | .evtRate v => Sys2Proof.Machine.execEvtRate v s
  | .msixUnmask vec => Sys2Proof.Machine.execMsixUnmask vec s
  | .programLoad => Sys2Proof.Machine.execProgramLoad s
  | .loopLaunch => Sys2Proof.Machine.execLoopLaunch s
  | .settleExpiry => Sys2Proof.Machine.execSettleExpiry s
  | .ingestPoll o => Sys2Proof.Machine.execIngestPoll o s
  | .ingestTake o => Sys2Proof.Machine.execIngestTake o s
  | .batchPresent o => Sys2Proof.Machine.execBatchPresent o s
  | .ingestStall => Sys2Proof.Machine.execIngestStall s
  | .loopStart v => Sys2Proof.Machine.execLoopStart v s
  | .loopStop v => Sys2Proof.Machine.execLoopStop v s
  | .loopRestart v => Sys2Proof.Machine.execLoopRestart v s
  | .restoreHost v => Sys2Proof.Machine.execRestoreHost v s
  | .ckptNow v => Sys2Proof.Machine.execCkptNow v s
  | .fwStage v => Sys2Proof.Machine.execFwStage v s
  | .fwActivate v => Sys2Proof.Machine.execFwActivate v s
  | .serviceBadCmd v => Sys2Proof.Machine.execServiceBadCmd v s
  | .readySend => Sys2Proof.Machine.execReadySend s
  | .ready from_ m => Sys2Proof.Machine.execReady from_ m s
  | .fail from_ m => Sys2Proof.Machine.execFail from_ m s
  | .commit m => Sys2Proof.Machine.execCommit m s
  | .veto m => Sys2Proof.Machine.execVeto m s
  | .clear from_ m => Sys2Proof.Machine.execClear from_ m s
  | .resume m => Sys2Proof.Machine.execResume m s
  | .rollback m => Sys2Proof.Machine.execRollback m s
  | .rollbackComplete => Sys2Proof.Machine.execRollbackComplete s
  | .heartbeatSend => Sys2Proof.Machine.execHeartbeatSend s
  | .heartbeat from_ m => Sys2Proof.Machine.execHeartbeat from_ m s
  | .heartbeatMiss f => Sys2Proof.Machine.execHeartbeatMiss f s
  | .failnote from_ m => Sys2Proof.Machine.execFailnote from_ m s
  | .takeover from_ m => Sys2Proof.Machine.execTakeover from_ m s
  | .digestCompute => Sys2Proof.Machine.execDigestCompute s
  | .digestDown m => Sys2Proof.Machine.execDigestDown m s
  | .digestUp from_ m => Sys2Proof.Machine.execDigestUp from_ m s
  | .checkpointConfirm => Sys2Proof.Machine.execCheckpointConfirm s
  | .join from_ m => Sys2Proof.Machine.execJoin from_ m s
  | .joined m => Sys2Proof.Machine.execJoined m s
  | .table m => Sys2Proof.Machine.execTable m s
  | .bucketRelease id => Sys2Proof.Machine.execBucketRelease id s
  | .bucketEntry => Sys2Proof.Machine.execBucketEntry s
  | .groupSend b => Sys2Proof.Machine.execGroupSend b s
  | .up26 from_ b => Sys2Proof.Machine.execUp26 from_ b s
  | .up40 from_ b => Sys2Proof.Machine.execUp40 from_ b s
  | .updateGroup b => Sys2Proof.Machine.execUpdateGroup b s
  | .down b => Sys2Proof.Machine.execDown b s
  | .probeUp from_ b => Sys2Proof.Machine.execProbeUp from_ b s
  | .probeDown b => Sys2Proof.Machine.execProbeDown b s
  | .end_ b => Sys2Proof.Machine.execEnd b s
  | .retry b => Sys2Proof.Machine.execRetry b s
  | .fence p b => Sys2Proof.Machine.execFence p b s
  | .bulkData p b => Sys2Proof.Machine.execBulkData p b s
  | .nak p b => Sys2Proof.Machine.execNak p b s
  | .creditSync p b => Sys2Proof.Machine.execCreditSync p b s
  | .ident p b => Sys2Proof.Machine.execIdent p b s
  | .idle p b => Sys2Proof.Machine.execIdle p b s
  | .blockSend p => Sys2Proof.Machine.execBlockSend p s
  | .blockForward p => Sys2Proof.Machine.execBlockForward p s
  | .fecUncorrectable p => Sys2Proof.Machine.execFecUncorrectable p s
  | .blockCrcFail p => Sys2Proof.Machine.execBlockCrcFail p s
  | .ackTimeout p => Sys2Proof.Machine.execAckTimeout p s
  | .resendLimit p => Sys2Proof.Machine.execResendLimit p s
  | .violationLimit p => Sys2Proof.Machine.execViolationLimit p s
  | .linkTraining p lanes signal fabricId idTag => Sys2Proof.Machine.execLinkTraining p lanes signal fabricId idTag s
  | .lossOfLock p => Sys2Proof.Machine.execLossOfLock p s
  | .trainingRetry p => Sys2Proof.Machine.execTrainingRetry p s
  | .retrain p => Sys2Proof.Machine.execRetrain p s
  | .unquarantine p => Sys2Proof.Machine.execUnquarantine p s
  | .portEnable p en => Sys2Proof.Machine.execPortEnable p en s
  | .routeLoad => Sys2Proof.Machine.execRouteLoad s
  | .calibrationDue tile => Sys2Proof.Machine.execCalibrationDue tile s
  | .calibration tile ys => Sys2Proof.Machine.execCalibration tile ys s
  | .levelCrossingStart layer => Sys2Proof.Machine.execLevelCrossingStart layer s
  | .rowWrite tile failed => Sys2Proof.Machine.execRowWrite tile failed s
  | .wearWarn tile => Sys2Proof.Machine.execWearWarn tile s
  | .wearRetire tile => Sys2Proof.Machine.execWearRetire tile s
  | .suspectReprogram tile => Sys2Proof.Machine.execSuspectReprogram tile s
  | .patrolScrub addr o => Sys2Proof.Machine.execPatrolScrub addr o s
  | .hbmRowRepair row => Sys2Proof.Machine.execHbmRowRepair row s
  | .requestIdle => Sys2Proof.Machine.execRequestIdle s
  | .requestDoze => Sys2Proof.Machine.execRequestDoze s
  | .requestDeep => Sys2Proof.Machine.execRequestDeep s
  | .d3hotEntry => Sys2Proof.Machine.execD3hotEntry s
  | .d0Return => Sys2Proof.Machine.execD0Return s
  | .dozeEntry => Sys2Proof.Machine.execDozeEntry s
  | .deepEntry => Sys2Proof.Machine.execDeepEntry s
  | .dozeExit w => Sys2Proof.Machine.execDozeExit w s
  | .deepExit w => Sys2Proof.Machine.execDeepExit w s
  | .hbmSelfRefreshReturn => Sys2Proof.Machine.execHbmSelfRefreshReturn s
  | .unitSleep k n => Sys2Proof.Machine.execUnitSleep k n s
  | .unitWake k n => Sys2Proof.Machine.execUnitWake k n s
  | .thermalSample temps hottest => Sys2Proof.Machine.execThermalSample temps hottest s
  | .throttleRelease => Sys2Proof.Machine.execThrottleRelease s
  | .thermalTrip => Sys2Proof.Machine.execThermalTrip s
  | .pwrEnHigh => Sys2Proof.Machine.execPwrEnHigh s
  | .pwrEnLow => Sys2Proof.Machine.execPwrEnLow s
  | .powerGood => Sys2Proof.Machine.execPowerGood s
  | .inputOutOfRange v us => Sys2Proof.Machine.execInputOutOfRange v us s
  | .inputPowerRemoved => Sys2Proof.Machine.execInputPowerRemoved s
  | .coldRstN us => Sys2Proof.Machine.execColdRstN us s
  | .perstAssert => Sys2Proof.Machine.execPerstAssert s
  | .perstDeassert => Sys2Proof.Machine.execPerstDeassert s
  | .hotReset => Sys2Proof.Machine.execHotReset s
  | .busMasterEnable => Sys2Proof.Machine.execBusMasterEnable s
  | .devReset v => Sys2Proof.Machine.execDevReset v s
  | .serviceReset v => Sys2Proof.Machine.execServiceReset v s
  | .puppeteerWatchdog => Sys2Proof.Machine.execPuppeteerWatchdog s
  | .tileReset v => Sys2Proof.Machine.execTileReset v s
  | .boot selfTest reads => Sys2Proof.Machine.execBoot selfTest reads s
  | .bootWatchdog => Sys2Proof.Machine.execBootWatchdog s
  | .rollbackAdvance stuck => Sys2Proof.Machine.execRollbackAdvance stuck s
  | .entropyHealthFail alg => Sys2Proof.Machine.execEntropyHealthFail alg s
  | .nonce => Sys2Proof.Machine.execNonce s
  | .debugReq arg => Sys2Proof.Machine.execDebugReq arg s
  | .debugRel => Sys2Proof.Machine.execDebugRel s
  | .lifecycle arg stuck => Sys2Proof.Machine.execLifecycle arg stuck s
  | .keyRotate stuck => Sys2Proof.Machine.execKeyRotate stuck s
  | .scrubAll => Sys2Proof.Machine.execScrubAll s
  | .features stuck => Sys2Proof.Machine.execFeatures stuck s
  | .secBadCmd v => Sys2Proof.Machine.execSecBadCmd v s
  | .dapAccess op => Sys2Proof.Machine.execDapAccess op s
  | .windowAccess addr len data => Sys2Proof.Machine.execWindowAccess addr len data s
  | .decoderCommit size ways => Sys2Proof.Machine.execDecoderCommit size ways s
  | .cacheResponse tag o => Sys2Proof.Machine.execCacheResponse tag o s
  | .hostAccessTimeout tag => Sys2Proof.Machine.execHostAccessTimeout tag s
  | .ideIntegrityFail cachemem => Sys2Proof.Machine.execIdeIntegrityFail cachemem s
  | .ideKm cachemem => Sys2Proof.Machine.execIdeKm cachemem s
  | .doeDiscovery index => Sys2Proof.Machine.execDoeDiscovery index s
  | .cdatTableAccess handle => Sys2Proof.Machine.execCdatTableAccess handle s
  | .getCertificate slot => Sys2Proof.Machine.execGetCertificate slot s
  | .challenge slot nonce => Sys2Proof.Machine.execChallenge slot nonce s
  | .getMeasurements nonce => Sys2Proof.Machine.execGetMeasurements nonce s
  | .attestationReport nonce => Sys2Proof.Machine.execAttestationReport nonce s
  | .setEndpointId eid => Sys2Proof.Machine.execSetEndpointId eid s
  | .getEndpointId => Sys2Proof.Machine.execGetEndpointId s
  | .getMctpVersionSupport type => Sys2Proof.Machine.execGetMctpVersionSupport type s
  | .getMessageTypeSupport => Sys2Proof.Machine.execGetMessageTypeSupport s
  | .getTid => Sys2Proof.Machine.execGetTid s
  | .getPldmVersion type => Sys2Proof.Machine.execGetPldmVersion type s
  | .getPldmTypes => Sys2Proof.Machine.execGetPldmTypes s
  | .getPldmCommands type => Sys2Proof.Machine.execGetPldmCommands type s
  | .getPdr handle => Sys2Proof.Machine.execGetPdr handle s
  | .getSensorReading sensor => Sys2Proof.Machine.execGetSensorReading sensor s
  | .getStateSensorReadings sensor => Sys2Proof.Machine.execGetStateSensorReadings sensor s
  | .requestUpdate => Sys2Proof.Machine.execRequestUpdate s
  | .firmwareTransfer image => Sys2Proof.Machine.execFirmwareTransfer image s
  | .activateFirmware => Sys2Proof.Machine.execActivateFirmware s
  | .submit v => Sys2Proof.Machine.execSubmit v s
  | .eventRecord => Sys2Proof.Machine.execEventRecord s
  | .interruptHoldoff => Sys2Proof.Machine.execInterruptHoldoff s
  | .extensionCopy => Sys2Proof.Machine.execExtensionCopy s
  | .evtLost => Sys2Proof.Machine.execEvtLost s
  | .suppressionWindow => Sys2Proof.Machine.execSuppressionWindow s
  | .replayEnter => Sys2Proof.Machine.execReplayEnter s
  | .replayExit => Sys2Proof.Machine.execReplayExit s
  | .kernelTable => Sys2Proof.Machine.execKernelTable s
  | .inputPowerApplied => Sys2Proof.Machine.execInputPowerApplied s
  | .cxlLinkUp cxl width speed => Sys2Proof.Machine.execCxlLinkUp cxl width speed s
  | .memorySpaceEnable => Sys2Proof.Machine.execMemorySpaceEnable s
  | .spdmSessionStart => Sys2Proof.Machine.execSpdmSessionStart s
  | .spdmSessionEnd => Sys2Proof.Machine.execSpdmSessionEnd s

end Sys2Proof.Machine
end

