-- ==== Sys2Proof/Machine/Step.lean ====
section
/-! DEFINITION. One step of the machine: the command at the front of the queue, or a tick when none waits. -/

namespace Sys2Proof.Machine

/-- The state with its queue replaced. -/
def State.setPending (s : State) (cs : List Instr) : State := { s with pending := cs }

/-- The command at the front runs with the queue's rest; on an empty queue a tick of the always-on counter passes. -/
def step (s : State) : Host.Outcome State Fault Refusal :=
  match s.pending with
  | [] => .next s.idleTick
  | c :: rest => exec c (s.setPending rest)

/-- The state with the command that a word spells in front of its queue. -/
def State.withFetchWord (s : State) (nbits w : Nat) : State :=
  match decodeTableWord nbits w with
  | none => s
  | some c => s.setPending (c :: s.pending)

end Sys2Proof.Machine
end

