-- ==== Sys2Proof/Safety.lean ====
section
/-! DEFINITION. What counts as a sound state and a safe run, in the terms that the statements use. -/

namespace Sys2Proof.Machine

/-- The memories are in canonical form. -/
def State.memOk (s : State) : Bool := Memory.wf s.hbm && Memory.wf s.scratch && Memory.wf s.host

/-- A fuse of the array is blown: bit `b` of generation `g` (R406). -/
def State.blown (s : State) (g b : Nat) : Bool := bitOf (s.gen g) b

/-- Every fuse of `s` that is blown is blown in `t` (R406): the generations, the retirement word and the thermometer. -/
def fusesKept (s t : State) : Prop :=
  (∀ g b : Nat, bitOf (s.gen g) b = true → bitOf (t.gen g) b = true) ∧
  (∀ b : Nat, b < 32 → bitOf s.fuses.retire b = true → bitOf t.fuses.retire b = true) ∧
  (∀ b : Nat, bitOf s.fuses.thermo b = true → bitOf t.fuses.thermo b = true)

/-- Instruction `i` of ICLASS and OPCODE `op` is in flight under number `id` and may start now: its turn has come, the
host answers if it names host memory, it is the first of its unit, nothing it depends on has failed, and it reads no poisoned
line (R74, R75, R78, R178, R234, R403). -/
structure State.mayStart (s : State) (op id : Nat) (i : Inst) : Prop where
  here  : s.inst id = some i
  code  : i.code.op = op
  ready : s.ready i = true
  host  : s.hostFree i = true
  first : s.first (fun _ => true) i = true
  deps  : s.depFailed i = false
  clean : ∀ m ∈ i.members, (s.inst m).bind s.poisonRead = none

/-- What follows the effect of a start: the tags of the instruction go, and the progress is noted (R80, R234). -/
def State.afterStart (t : State) (id : Nat) : State := (t.settleTags id).progress

/-- A host access to a BAR has its effect now: the link is up and the device answers on it, memory space is enabled, the
device is not in Deep, and nothing closes its registers (R339, R365, R372, R383, R398). -/
structure State.hostOpen (s : State) : Prop where
  reached : s.barReached = true
  awake   : s.pst_ ≠ 3
  access  : s.barClosed = false

/-- A write of SCH.SVC_CMD takes up command `k` of the block it names, whose fields are `x`: the write has its effect, no
command is in progress, and the block can be read (R313). -/
structure State.cmdBegins (s : State) (v k : Nat) (x : SvcCmd) : Prop where
  access   : s.hostOpen
  free     : s.fb F.schSvcStatusBusy = false
  readable : s.svcReadable v = true
  code     : s.svcCode v = k
  block    : (s.beginCmd v).pup.cmd = some x

/-- Command `k` is refused in the state the device is in: a frozen or restoring pass takes LOOP_STOP and FW_STAGE alone, and
the replay FW_STAGE alone (R309, R313, R382). -/
def State.refusesCmd (s : State) (k : Nat) : Prop :=
  1 ≤ k ∧ k ≤ 7 ∧ (((s.passState = psFrozen ∨ s.passState = psRestore) ∧ k ≠ 2 ∧ k ≠ 6) ∨ (s.resident = true ∧ k ≠ 6))

/-- A write of SCH.SVC_CMD starts command `k`: it is taken up and not refused. -/
structure State.takesCmd (s : State) (v k : Nat) (x : SvcCmd) : Prop extends s.cmdBegins v k x where
  runs : ¬ s.refusesCmd k

/-- A command of SEC.CMD starts: the access reaches the device, which is neither in Deep nor in the error state, and no command
is in progress (R372, R395). -/
structure State.secOpen (s : State) : Prop where
  reached : s.barReached = true
  awake   : s.pst_ ≠ 3
  free    : s.fb F.secCmdStatusBusy = false
  running : s.boot.stopped = false

/-- The link carries configuration and DOE accesses to a device that is not in Deep (R365, R398). -/
structure State.linkOpen (s : State) : Prop where
  reached : s.reachable = true
  awake   : s.pst_ ≠ 3

/-! ### What a command leaves alone -/

/-- A tensor stores to the byte at address `a` of a space: its location names that space, and the byte holds an element, a
padding mantissa or an exponent of it (R31 to R34). -/
def Desc.storesTo (d : Desc) (space a : Nat) : Prop := locSpace d.loc = space ∧ d.touches a = true

/-- The frame of an instruction of a data unit between `s` and `t`: every byte but those of `stored`, every register field
but those of `fields`, and every instruction in flight but those of `ids` are as before, and so is the rest of the machine;
the event recorder, poisoned lines and the finished-tile posts may change, and the valley only where `valley` says so. -/
structure dataFrame (s t : State) (stored : Nat → Nat → Prop) (fields : List Fld) (ids : List Nat) (valley : Bool) :
    Prop where
  bytes  : ∀ space a : Nat, space ≤ 2 → ¬ stored space a → t.rd space a = s.rd space a
  fields : ∀ x : Fld, x.key ∉ fields.map Fld.key → t.f x = s.f x
  insts  : ∀ m : Nat, m ∉ ids → t.inst m = s.inst m
  rest   : { t with
    hbm := s.hbm, scratch := s.scratch, host := s.host, regs := s.regs, poison := s.poison, evt := s.evt
    sch := { t.sch with inflight := s.sch.inflight, lastProgress := s.sch.lastProgress, stallSeen := s.sch.stallSeen }
    units := { t.units with ftq := s.units.ftq }
    val := if valley then s.val else t.val
    freeCtr := if valley then s.freeCtr else t.freeCtr } = s

/-- The frame of a command that stores nothing: every byte of the three spaces, both epochs of the seesaw, the tokens, the
fuses, the loaded job, the endpoint ID and the waiting commands are as before. -/
structure quietFrame (s t : State) : Prop where
  bytes  : ∀ space a : Nat, t.rd space a = s.rd space a
  seesaw : t.seesaw = s.seesaw
  tokens : t.sch.tokens = s.sch.tokens
  fuses  : t.fuses = s.fuses
  load   : t.load = s.load
  eid    : t.eid = s.eid
  queue  : t.pending = s.pending

/-- A step that goes on. -/
def goesOn (s t : State) : Prop := step s = Host.Outcome.next t

end Sys2Proof.Machine
end

