-- ==== Sys2Proof/WellFormed.lean ====
section
/-! DEFINITION. Which commands are well formed: the operands lie in the ranges that the spec gives them. The machine
does not lean on it: exec has a meaning for every command. -/

namespace Sys2Proof

/-- A submission or completion queue (R60). -/
def isQueue (q : Nat) : Bool := decide (q < 64)
/-- A fabric port (R316). -/
def isPort (p : Nat) : Bool := decide (p < 12)
/-- An array tile (R2). -/
def isTile (t : Nat) : Bool := decide (t < 12288)
/-- A rank or spare (R83). -/
def isRank (r : Nat) : Bool := decide (r < 16384 + 1024)
/-- A 64-bit value. -/
def isWord (v : Nat) : Bool := decide (v < 2 ^ 64)
/-- A temperature in 16 bits, in 0.25 °C (R370). -/
def isTemp (t : Int) : Bool := decide (-32768 ≤ t) && decide (t < 32768)
/-- A converter code of 7 bits (R93). -/
def isCode (q : Int) : Bool := decide (-64 ≤ q) && decide (q < 64)
/-- The codes of the live columns of a row group in the four slice positions. -/
def areSlices (codes : List (List Int)) : Bool :=
  decide (codes.length = 4) && codes.all (fun r => decide (r.length ≤ 256) && r.all isCode)
/-- The raw codes of a tile's converters by column group, 26 of each (R119). -/
def areReadings (ys : List (List Readings)) : Bool := ys.all (fun g => g.all (fun r => decide (r.length = 26) && r.all isCode))
/-- A fuse bit of a settings record or of the thermometer (R406). -/
def isStuck (b : Option Nat) : Bool := match b with
  | none => true
  | some k => decide (k < 16384)

/-- A control message holds its fields (R219). -/
def CtlMsg.wf (m : CtlMsg) : Bool :=
  decide (m.type < 256) && decide (m.reason < 256) && decide (m.mon < 4) && decide (m.policy < 4) &&
  decide (m.replays < 256) && decide (m.step < 2 ^ 32) && decide (m.bcstep < 2 ^ 32) && decide (m.version < 2 ^ 32) &&
  decide (m.origin < 65536) && decide (m.count < 65536) && decide (m.subject < 65536) && decide (m.detail < 2 ^ 32) &&
  decide (m.ckpt < 2 ^ 32) && decide (m.digest.length = 4) && m.digest.all isWord

/-- An integer of `w` bits. -/
def isSigned (w : Nat) (v : Int) : Bool := decide (-(2 : Int) ^ (w - 1) ≤ v) && decide (v < (2 : Int) ^ (w - 1))

/-- A body of 1 to `m` elements whose FIRST is a multiple of `m` (R196). -/
def isCut (m : Nat) (b : RedBlock) : Bool :=
  b.first % m == 0 && decide (0 < b.body.length) && decide (b.body.length ≤ m)

/-- A reduction block holds its fields, and the elements that its KIND allows (R195, R196). -/
def RedBlock.wf (b : RedBlock) : Bool :=
  decide (b.kind < 16) && decide (b.eb < 256) && decide (b.pk < 256) && decide (b.attempt < 16) &&
  decide (b.bucket < 65536) && decide (b.step < 2 ^ 32) && decide (b.first < 2 ^ 24) &&
  (if b.kind = 1 then isCut 72 b && b.body.all (isSigned 26)
   else if b.kind = 2 then isCut 48 b && b.body.all (isSigned 40)
   else if b.kind = 3 then isCut 120 b && b.body.all (fun v => decide (0 ≤ v) && decide (v < 65536))
   else b.body.isEmpty)

/-- A link block holds its fields (R318). -/
def LinkBlock.wf (b : LinkBlock) : Bool :=
  decide (b.btype < 16) && decide (b.tc < 4) && decide (b.hops < 256) && decide (b.seq < 4096) &&
  decide (b.ack < 4096) && decide (b.cr0 < 16) && decide (b.cr1 < 64) && decide (b.cr2 < 64) && decide (b.dest < 2 ^ 32) && decide (b.src < 2 ^ 32)

/-- A second reading of a block may mismatch only after a first one (R188). -/
def MoverCrc.wf (c : MoverCrc) : Bool := c.bad.isNone || decide (0 < c.fails)

/-- A command is well formed. -/
def Instr.wf (i : Instr) : Bool :=
  match i with
  | .ctlNop _ => true
  | .ctlJoin _ => true
  | .ctlTset _ => true
  | .ctlTclr _ => true
  | .ctlFence _ => true
  | .ctlMark _ => true
  | .memAlloc _ => true
  | .memFree _ => true
  | .memDset _ => true
  | .memQuota _ => true
  | .memFill _ => true
  | .movCopy _ crc => crc.wf
  | .movList _ crc => crc.wf
  | .vecAdd _ => true
  | .vecSub _ => true
  | .vecMul _ => true
  | .vecFma _ => true
  | .vecMin _ => true
  | .vecMax _ => true
  | .vecAbs _ => true
  | .vecNeg _ => true
  | .vecAnd _ => true
  | .vecOr _ => true
  | .vecXor _ => true
  | .vecNot _ => true
  | .vecShl _ => true
  | .vecShr _ => true
  | .vecSar _ => true
  | .vecCmp _ => true
  | .vecSel _ => true
  | .vecFunc _ => true
  | .vecCvt _ => true
  | .vecGather _ => true
  | .vecScatadd _ => true
  | .vecSegsum _ => true
  | .vecSegmax _ => true
  | .vecSort _ => true
  | .vecTopk _ => true
  | .vecHist _ => true
  | .valPush _ crc => crc.wf
  | .valPop _ crc => crc.wf
  | .valDrop _ => true
  | .arrPlace _ => true
  | .arrProgram _ => true
  | .arrRelease _ => true
  | .arrFwd _ => true
  | .arrLread _ => true
  | .arrFallback _ => true
  | .arrCalib _ => true
  | .grdFwd _ => true
  | .grdDx _ => true
  | .grdDw _ => true
  | .rowNorm _ => true
  | .rowNormb _ => true
  | .rowSmax _ => true
  | .rowSmaxb _ => true
  | .rowLse _ => true
  | .rowLseb _ => true
  | .colBucket _ => true
  | .colPass _ => true
  | .colUpdcfg _ => true
  | .colAvgreset _ => true
  | .svcSeed _ => true
  | .svcCkpt _ => true
  | .svcScrub _ => true
  | .svcRecord _ => true
  | .recordAdmission q => isQueue q
  | .chainClose q => isQueue q
  | .instructionCompletion _ => true
  | .stall => true
  | .gridItem _ grid _ => decide (grid < 256)
  | .digitalArbitration _ _ _ _ => true
  | .arrayArbitration tile low high => isTile tile && areSlices low && areSlices high
  | .partFailure _ _ => true
  | .ftqPost => true
  | .valleyPrefetch => true
  | .pageTransferDone _ => true
  | .doorbell q v => isQueue q && isWord v
  | .ingestWake v => isWord v
  | .stepLaunch => true
  | .tokenClearAll => true
  | .run _ => true
  | .queueCfg q v => isQueue q && isWord v
  | .cqCfg n v => isQueue n && isWord v
  | .cqHead n head => isQueue n && decide (head < 65536)
  | .quotaWrite _ v => isWord v
  | .linfoWrite v => isWord v
  | .forceProbe => true
  | .qclear => true
  | .registerWrite bar off bytes v => decide (bar < 6) && decide (off < 2 ^ 36) && decide (0 < bytes) && decide (bytes ≤ 8) && v.all (fun x => decide (x < 2 ^ (8 * bytes)))
  | .headSeqRead => true
  | .evtRate v => isWord v
  | .msixUnmask vec => decide (vec < 2048)
  | .programLoad => true
  | .loopLaunch => true
  | .settleExpiry => true
  | .ingestPoll _ => true
  | .ingestTake _ => true
  | .batchPresent _ => true
  | .ingestStall => true
  | .loopStart v => isWord v
  | .loopStop v => isWord v
  | .loopRestart v => isWord v
  | .restoreHost v => isWord v
  | .ckptNow v => isWord v
  | .fwStage v => isWord v
  | .fwActivate v => isWord v
  | .serviceBadCmd v => isWord v
  | .readySend => true
  | .ready from_ m => isRank from_ && m.wf
  | .fail from_ m => isRank from_ && m.wf
  | .commit m => m.wf
  | .veto m => m.wf
  | .clear from_ m => isRank from_ && m.wf
  | .resume m => m.wf
  | .rollback m => m.wf
  | .rollbackComplete => true
  | .heartbeatSend => true
  | .heartbeat from_ m => isRank from_ && m.wf
  | .heartbeatMiss f => isRank f
  | .failnote from_ m => isRank from_ && m.wf
  | .takeover from_ m => isRank from_ && m.wf
  | .digestCompute => true
  | .digestDown m => m.wf
  | .digestUp from_ m => isRank from_ && m.wf
  | .checkpointConfirm => true
  | .join _ m => m.wf
  | .joined m => m.wf
  | .table m => m.wf
  | .bucketRelease _ => true
  | .bucketEntry => true
  | .groupSend b => decide (b < 65536)
  | .up26 from_ b => isRank from_ && b.wf
  | .up40 from_ b => isRank from_ && b.wf
  | .updateGroup b => decide (b < 65536)
  | .down b => b.wf
  | .probeUp from_ b => isRank from_ && b.wf
  | .probeDown b => b.wf
  | .end_ b => b.wf
  | .retry b => b.wf
  | .fence p b => isPort p && b.wf
  | .bulkData p b => isPort p && b.wf
  | .nak p b => isPort p && b.wf
  | .creditSync p b => isPort p && b.wf
  | .ident p b => isPort p && b.wf
  | .idle p b => isPort p && b.wf
  | .blockSend p => isPort p
  | .blockForward p => isPort p
  | .fecUncorrectable p => isPort p
  | .blockCrcFail p => isPort p
  | .ackTimeout p => isPort p
  | .resendLimit p => isPort p
  | .violationLimit p => isPort p
  | .linkTraining p lanes _ fabricId idTag => isPort p && decide (lanes < 16) && decide (fabricId < 2 ^ 32) && isWord idTag
  | .lossOfLock p => isPort p
  | .trainingRetry p => isPort p
  | .retrain p => isPort p
  | .unquarantine p => isPort p
  | .portEnable p _ => isPort p
  | .routeLoad => true
  | .calibrationDue tile => isTile tile
  | .calibration tile ys => isTile tile && areReadings ys
  | .levelCrossingStart layer => decide (layer < 4096)
  | .rowWrite tile failed => isTile tile && failed.all (fun p => decide (p < 260))
  | .wearWarn tile => isTile tile
  | .wearRetire tile => isTile tile
  | .suspectReprogram tile => isTile tile
  | .patrolScrub addr _ => addr % 64 == 0
  | .hbmRowRepair _ => true
  | .requestIdle => true
  | .requestDoze => true
  | .requestDeep => true
  | .d3hotEntry => true
  | .d0Return => true
  | .dozeEntry => true
  | .deepEntry => true
  | .dozeExit _ => true
  | .deepExit _ => true
  | .hbmSelfRefreshReturn => true
  | .unitSleep _ _ => true
  | .unitWake _ _ => true
  | .thermalSample temps hottest => decide (temps.length = 192) && temps.all isTemp && isTemp hottest
  | .throttleRelease => true
  | .thermalTrip => true
  | .pwrEnHigh => true
  | .pwrEnLow => true
  | .powerGood => true
  | .inputOutOfRange v _ => isWord v
  | .inputPowerRemoved => true
  | .coldRstN _ => true
  | .perstAssert => true
  | .perstDeassert => true
  | .hotReset => true
  | .busMasterEnable => true
  | .devReset v => isWord v
  | .serviceReset v => isWord v
  | .puppeteerWatchdog => true
  | .tileReset v => isWord v
  | .boot _ r => isTemp r.hottest && r.fits.all (fun x => isTile x.1 && areReadings x.2)
  | .bootWatchdog => true
  | .rollbackAdvance stuck => isStuck stuck
  | .entropyHealthFail _ => true
  | .nonce => true
  | .debugReq arg => decide (arg < 256)
  | .debugRel => true
  | .lifecycle arg stuck => decide (arg < 256) && isStuck stuck
  | .keyRotate stuck => isStuck stuck
  | .scrubAll => true
  | .features stuck => isStuck stuck
  | .secBadCmd v => isWord v
  | .dapAccess _ => true
  | .windowAccess _ _ _ => true
  | .decoderCommit _ _ => true
  | .cacheResponse _ _ => true
  | .hostAccessTimeout _ => true
  | .ideIntegrityFail _ => true
  | .ideKm _ => true
  | .doeDiscovery _ => true
  | .cdatTableAccess _ => true
  | .getCertificate _ => true
  | .challenge _ nc => decide (nc.length = 32)
  | .getMeasurements nc => decide (nc.length = 32)
  | .attestationReport nc => decide (nc.length = 32)
  | .setEndpointId eid => decide (eid < 256)
  | .getEndpointId => true
  | .getMctpVersionSupport type => decide (type < 256)
  | .getMessageTypeSupport => true
  | .getTid => true
  | .getPldmVersion type => decide (type < 256)
  | .getPldmTypes => true
  | .getPldmCommands type => decide (type < 256)
  | .getPdr _ => true
  | .getSensorReading _ => true
  | .getStateSensorReadings _ => true
  | .requestUpdate => true
  | .firmwareTransfer _ => true
  | .activateFirmware => true
  | .submit v => isWord v
  | .eventRecord => true
  | .interruptHoldoff => true
  | .extensionCopy => true
  | .evtLost => true
  | .suppressionWindow => true
  | .replayEnter => true
  | .replayExit => true
  | .kernelTable => true
  | .inputPowerApplied => true
  | .cxlLinkUp _ _ _ => true
  | .memorySpaceEnable => true
  | .spdmSessionStart => true
  | .spdmSessionEnd => true

end Sys2Proof
end

