-- ==== Sys2Proof/Certificates/Slice0/Obligations.lean ====
section
/-! DEFINITION. The statements for the provers: what the commands do (completion), what they leave alone (frames), and what
every step keeps (invariants). Statements that rest on a choice of the model name it. -/

open Sys2Proof Sys2Proof.Machine

/-- Taking a command: a step runs the command at the front of the queue on the state with the queue's rest. The
model's choice (notes/assumptions/2): on an empty queue a step is a tick of the always-on counter, and takes a next
state. -/
def Obligations.StepTakesTheFrontCommand : Prop :=
  (∀ (c : Instr) (rest : List Instr) (s : State),
     step (s.setPending (c :: rest)) = exec c (s.setPending rest) ∧ (s.setPending (c :: rest)).pending = c :: rest) ∧
  (∀ s : State, s.pending = [] → step s = .next s.idleTick)

/-- CTL.NOP, CTL.JOIN, CTL.FENCE and CTL.MARK (R260, R261, R263, R264): an instruction that may start ends with a
success status, and nothing but its own record changes beside the event of CTL.MARK. CTL.TSET and CTL.TCLR (R73,
R262): a range FIRST to FIRST + COUNT − 1 that ends at or below 0xffff is set, where no token of it is POISONED, or
cleared; every other token and every byte of memory stays. A range that ends above 0xffff completes with IMM_INVALID,
and no token changes. -/
def Obligations.ControlInstructionsComplete : Prop :=
  (∀ (s : State) (id : Nat) (i : Inst),
     (s.mayStart 0x0000 id i → exec (.ctlNop id) s = .next ((s.putInst (i.finish 0 0 0)).afterStart id)) ∧
     (s.mayStart 0x0001 id i → (∀ t ∈ i.code.joinTokens, s.tok t = some .set) →
       exec (.ctlJoin id) s = .next ((s.putInst (i.finish 0 0 0)).afterStart id)) ∧
     (s.mayStart 0x0001 id i → (∃ t ∈ i.code.joinTokens, s.tok t = some .poisoned) →
       exec (.ctlJoin id) s = .next ((s.putInst (i.end_ stDepFailed)).afterStart id)) ∧
     (s.mayStart 0x0004 id i → i.covers.2 = false →
       (∀ j ∈ s.sch.inflight, j.queue = i.queue → i.covers.1 ≤ j.id → i.id ≤ j.id) →
       exec (.ctlFence id) s = .next ((s.putInst (i.finish 0 0 0)).afterStart id)) ∧
     (s.mayStart 0x0005 id i → i.has 0 = false →
       exec (.ctlMark id) s = .next (((s.evI 0x0020 unitSched (bitsOf i.code.imm1 0 32) 0 i).putInst
         (i.finish 0 0 0)).afterStart id)) ∧
     (s.mayStart 0x0005 id i → i.has 0 = true → (i.d 0).format = 0x12 → (i.d 0).loc ≤ 1 → i.code.imm2 < (i.d 0).count →
       exec (.ctlMark id) s = .next (((s.evI 0x0020 unitSched (bitsOf i.code.imm1 0 32) 0 i).putInst
         (i.finish 0 0 0)).afterStart id))) ∧
  (∀ (s : State) (id : Nat) (i : Inst),
     let first := bitsOf i.code.imm1 0 16
     let count := bitsOf i.code.imm1 16 16
     (s.mayStart 0x0002 id i → 1 ≤ first → 1 ≤ count → first + count - 1 ≤ 0xffff →
       ∃ t, exec (.ctlTset id) s = .next t ∧
         (∀ k, first ≤ k → k < first + count → t.tok k = some (if s.tok k = some .poisoned then .poisoned else .set)) ∧
         (∀ k, k < first ∨ first + count ≤ k → t.tok k = s.tok k) ∧
         t.inst id = some (i.finish 0 0 0) ∧ ∀ sp a, t.rd sp a = s.rd sp a) ∧
     (s.mayStart 0x0003 id i → 1 ≤ first → 1 ≤ count → first + count - 1 ≤ 0xffff →
       ∃ t, exec (.ctlTclr id) s = .next t ∧
         (∀ k, first ≤ k → k < first + count → t.tok k = none) ∧
         (∀ k, k < first ∨ first + count ≤ k → t.tok k = s.tok k) ∧
         t.inst id = some (i.finish 0 0 0) ∧ ∀ sp a, t.rd sp a = s.rd sp a) ∧
     (s.mayStart 0x0002 id i → 0xffff < first + count - 1 →
       exec (.ctlTset id) s = .next ((s.putInst (i.end_ stImmInvalid)).afterStart id)) ∧
     (s.mayStart 0x0003 id i → 0xffff < first + count - 1 →
       exec (.ctlTclr id) s = .next ((s.putInst (i.end_ stImmInvalid)).afterStart id)))

/-- MEM.ALLOC, MEM.FREE, MEM.DSET, MEM.QUOTA and MEM.FILL (R71, R72, R82, R258, R266 to R269): MEM.ALLOC reports the
address bound, or ends INDEX_RANGE for a seesaw range beyond the parameters; MEM.FREE of a valid entry in host or
layer location ends DESC_INVALID, and otherwise releases the storage of a bound AUTOALLOC entry, or marks another
bound entry FREED, and leaves an entry that is not bound; MEM.DSET writes the image to the entry with BOUND, SPILLED
and FREED clear; MEM.QUOTA sets the fields that IMM0 selects; MEM.FILL writes the pattern into every element. -/
def Obligations.MemInstructionsComplete : Prop :=
  ∀ (s : State) (id : Nat) (i : Inst),
    (s.mayStart 0x1000 id i → s.seesawBeyond i = false → exec (.memAlloc id) s = .next ((s.putInst
      (i.finish 0 0 ((i.d 0).base + (if (i.d 0).loc = 1 ∨ (i.d 0).loc = 5 then 2 ^ 63 else 0)))).afterStart id)) ∧
    (s.mayStart 0x1000 id i → s.seesawBeyond i = true →
      exec (.memAlloc id) s = .next ((s.putInst (i.end_ stIndexRange)).afterStart id)) ∧
    (s.mayStart 0x1001 id i → s.unnamed i i.code.h0 = true → (s.descEntry i.code.h0).valid = true →
      (s.descEntry i.code.h0).loc = 2 ∨ (s.descEntry i.code.h0).loc = 4 →
      exec (.memFree id) s = .next ((s.putInst (i.end_ stDescInvalid)).afterStart id)) ∧
    (s.mayStart 0x1001 id i → s.unnamed i i.code.h0 = true → (s.descEntry i.code.h0).loc ≠ 4 →
      (s.descEntry i.code.h0).loc ≠ 2 →
      exec (.memFree id) s = .next ((if (s.descEntry i.code.h0).bound then
          (((s.releaseEntry i.code.h0 (s.descEntry i.code.h0)).1.putEntry i.code.h0
            (s.releaseEntry i.code.h0 (s.descEntry i.code.h0)).2).putInst (i.finish 0 0 0))
        else s.putInst (i.finish 0 0 0)).afterStart id)) ∧
    (s.mayStart 0x1002 id i → s.unnamed i i.code.h0 = true → bitsOf i.code.imm1 0 48 % 64 = 0 →
      bitsOf i.code.imm1 0 48 + 64 ≤ hbmTop → (s.descEntry i.code.h0).bound = false →
      exec (.memDset id) s = .next ((((s.wrBytes 1 (s.descAddr i.code.h0)
        ((s.rdBytes 1 (bitsOf i.code.imm1 0 48) 64).zipIdx.map (fun x =>
          if x.2 = 2 then BitVec.ofNat 8 (x.1.toNat % 32) else x.1))).unpoison 1 (s.descAddr i.code.h0) 64).putInst
        (i.finish 0 0 0)).afterStart id)) ∧
    (s.mayStart 0x1003 id i → i.code.imm0 = 1 → exec (.memQuota id) s = .next ((((s.setF F.memValleyQuotaChipPages
      (bitsOf i.code.imm1 0 8)).quotasIfIdle).putInst (i.finish 0 0 0)).afterStart id)) ∧
    (s.mayStart 0x1003 id i → i.code.imm0 = 2 → bitsOf i.code.imm1 32 32 ≤ s.val.hbmQuota + s.heapFree / pageBytes →
      exec (.memQuota id) s = .next ((((s.setF F.memValleyQuotaHbmPages (bitsOf i.code.imm1 32 32)).quotasIfIdle).putInst
        (i.finish 0 0 0)).afterStart id)) ∧
    (s.mayStart 0x1003 id i → i.code.imm0 = 2 → s.val.hbmQuota + s.heapFree / pageBytes < bitsOf i.code.imm1 32 32 →
      exec (.memQuota id) s = .next ((s.putInst (i.end_ stMemFull)).afterStart id)) ∧
    (s.mayStart 0x1003 id i → i.code.imm0 = 4 → exec (.memQuota id) s = .next ((((s.setF F.schDeferQuota
      (bitsOf i.code.imm2 0 32)).quotasIfIdle).putInst (i.finish 0 0 0)).afterStart id)) ∧
    (s.mayStart 0x1003 id i → i.code.imm0 = 0 →
      exec (.memQuota id) s = .next ((s.putInst (i.end_ stImmInvalid)).afterStart id)) ∧
    (s.mayStart 0x1004 id i → (i.d 0).loc ≤ 1 → exec (.memFill id) s = .next (((s.wrEncoded (i.d 0)
      (fillEncoded (i.d 0) i.code.imm1)).putInst (i.finish 0 0 (i.d 0).count)).afterStart id))

/-- The element-wise VEC instructions with their OPCODEs (R273). -/
def vecElementwise (id : Nat) : List (Instr × Nat) :=
  [(.vecAdd id, 0x00), (.vecSub id, 0x01), (.vecMul id, 0x02), (.vecFma id, 0x03), (.vecMin id, 0x04), (.vecMax id, 0x05),
   (.vecAbs id, 0x06), (.vecNeg id, 0x07), (.vecAnd id, 0x08), (.vecOr id, 0x09), (.vecXor id, 0x0a), (.vecNot id, 0x0b),
   (.vecShl id, 0x0c), (.vecShr id, 0x0d), (.vecSar id, 0x0e), (.vecCmp id, 0x0f), (.vecSel id, 0x10), (.vecFunc id, 0x11),
   (.vecCvt id, 0x12)]

/-- The record is a chain of its own, and no finished-tile consumer. -/
def Sys2Proof.Machine.Inst.alone (i : Inst) : Prop :=
  i.chain = [] ∧ i.code.flag 1 = false ∧ i.code.flag 2 = false ∧ i.producer = none

/-- The element-wise VEC instructions (R172, R173, R252) as a chain of one that consumes no finished tiles: when the
checks of the start pass, the destination takes the results as its format rounds them, and the record counts the
saturations and the non-finite results. -/
def Obligations.VecElementwiseComplete : Prop :=
  ∀ (s : State) (id : Nat) (i : Inst) (c : Instr) (op : Nat), (c, op) ∈ vecElementwise id →
    s.mayStart (0x3000 + op) id i → i.alone → s.ewStatus i { d := i.d 1 } (i.d 0) true = stOk →
    exec c s = .next (((s.wrEncoded (i.d 0) (s.ewEncode i { d := i.d 1 } (i.d 0)).1).modInst id
      (fun j => j.finish (s.ewEncode i { d := i.d 1 } (i.d 0)).1.sat (s.ewEncode i { d := i.d 1 } (i.d 0)).1.nf
        0)).afterStart id)

/-- The irregular VEC instructions with their OPCODEs, their checks and what they compute (R179 to R181, R275, R276).
-/
def vecIrregular (s : State) (id : Nat) (i : Inst) : List (Instr × Nat × Nat × Irr) :=
  [(.vecGather id, 0x20, s.gatherStatus i (i.d 0) true, s.gather i (i.d 0)),
   (.vecScatadd id, 0x21, s.scataddStatus i { d := i.d 1 } (i.d 0), s.scatadd i { d := i.d 1 } (i.d 0)),
   (.vecSegsum id, 0x22, s.segStatus i, s.segment i false), (.vecSegmax id, 0x23, s.segStatus i, s.segment i true),
   (.vecSort id, 0x24, s.sortStatus i, s.sort i), (.vecTopk id, 0x25, s.topkStatus i, s.topk i),
   (.vecHist id, 0x26, s.histStatus i, s.hist i)]

/-- The state with the elements of an irregular result written: all of them, or of VEC.SCATADD those of the rows
named. -/
def Sys2Proof.Machine.Irr.stores (x : Irr) (s : State) (d : Desc) : State := match x.only with
  | none => s.wrEncoded d (encodeVals d 0 (fun _ => .rne) x.vals)
  | some rows => s.wrPart d (encodeVals d 0 (fun _ => .rne) x.vals) (fun k => rows.contains (k / d.e 0))

/-- The elements of an irregular result that count, as the destination rounds them. -/
def Sys2Proof.Machine.Irr.counted (x : Irr) (d : Desc) : Encoded := match x.only with
  | none => encodeVals d 0 (fun _ => .rne) x.vals
  | some rows => encodeVals d 0 (fun _ => .rne) (rows.flatMap (fun k => (x.vals.drop (k * d.e 0)).take (d.e 0)))

/-- The irregular VEC instructions (R179 to R181, R252, R275, R276) as a chain of one: when the checks of the start
and those of the index lists pass, the destinations take the results, and the instruction ends with a success status.
Any VEC instruction at the head of its chain (R174 to R178): a chain whose rules or checks fail ends whole with their
first status; one whose source is whole runs whole; a finished-tile consumer whose producer still runs is fed the
tiles posted so far, at its start and at each of its later turns, and ends with DEP_FAILED once its producer has
failed. -/
def Obligations.VecIrregularComplete : Prop :=
  (∀ (s : State) (id : Nat) (i : Inst) (c : Instr) (op st : Nat) (x : Irr), (c, op, st, x) ∈ vecIrregular s id i →
     s.mayStart (0x3000 + op) id i → i.alone → st = stOk → x.status = stOk →
     ∃ t u : State, exec c s = .next (t.afterStart id) ∧
       u = (if x.second.isEmpty then x.stores s (i.d 0) else (x.stores s (i.d 0)).wrElems (i.d 3) 0 x.second) ∧
       t.hbm = u.hbm ∧ t.scratch = u.scratch ∧ t.host = u.host ∧
       t.sch.inflight = (s.modInst id (fun j => j.finish (x.counted (i.d 0)).sat ((x.counted (i.d 0)).nf + x.nf)
         x.result)).sch.inflight) ∧
  (∀ (s : State) (id : Nat) (i : Inst) (c : Instr) (op : Nat),
     (c, op) ∈ vecElementwise id ∨ (∃ st x, (c, op, st, x) ∈ vecIrregular s id i) →
     (s.mayStart (0x3000 + op) id i → i.members.head? = some id → s.chainStatus (i.members.filterMap s.inst) ≠ stOk →
       exec c s = .next (((s.consumePosts i).endChain i.members
         (s.chainStatus (i.members.filterMap s.inst))).afterStart id)) ∧
     (s.mayStart (0x3000 + op) id i → i.members.head? = some id → s.chainStatus (i.members.filterMap s.inst) = stOk →
       s.sourceWhole i = true →
       exec c s = .next (((s.consumePosts i).runWhole i (i.members.filterMap s.inst)).afterStart id)) ∧
     (s.mayStart (0x3000 + op) id i → i.members.head? = some id → s.chainStatus (i.members.filterMap s.inst) = stOk →
       s.sourceWhole i = false → exec c s = .next ((s.feed i (i.members.filterMap s.inst)).afterStart id)) ∧
     (s.inst id = some i → i.phase = .running → i.code.op = 0x3000 + op → i.took ≠ [] → i.members.head? = some id →
       i.depBad = false → exec c s = .next ((s.feed i (i.members.filterMap s.inst)).settleTags id)) ∧
     (s.inst id = some i → i.phase = .running → i.code.op = 0x3000 + op → i.took ≠ [] → i.members.head? = some id →
       i.depBad = true → exec c s = .next ((s.starve i (i.members.filterMap s.inst)).settleTags id)))

/-- What MOV.COPY of `total` descriptors makes of `s`, with `bad` bus errors and `w` in HEAD, and its saturations. -/
def Sys2Proof.Machine.State.copyRun (s : State) (i : Inst) (bad w : Nat) : State × Nat :=
  let total := (i.d 0).combos * (if fmtBlock (i.d 0).format then 2 else 1)
  let r := copyParts i (i.d 0) (i.d 1) (if (i.d 1).loc = 2 then 1 else 2) (List.range total) bad (s, 0)
  ((r.1.channelDone i.channel total bad).tick.setF (F.movChHead i.channel) w, r.2)

/-- MOV.COPY and MOV.LIST (R182 to R190, R271, R272) whose checks pass. The descriptors run in order, and the channel
shows how many were done and how many were BAD; bus errors make descriptors BAD and end the instruction with MOV_BAD;
a broken chain ends it with MOV_CHAIN and EV_MOV_CHAIN. A second CRC mismatch of one block withholds that block and is
a failed check of the channel, while the rest runs. A list waits for host memory only where one of its descriptors
names it. HEAD after MOV.COPY holds some value (the model's choice, named in the log). VAL.PUSH, VAL.POP and VAL.DROP
(R151, R152, R258, R278, R279), VALLEY_PREFETCH and PAGE_TRANSFER_DONE (R155, R156). A push takes its frame at
admission: where it got one, the frame takes the bytes of the source and the push ends with a success status; where
the number was not ABSENT or the quotas were exhausted, it ends with FRAME_EXISTS or VALLEY_FULL and stores nothing. A
pop or drop of a PRESENT frame ends with a success status, and without KEEP the frame is consumed when the instruction
completes. In drain the newest page in HBM is fetched into a free page, or in exchange for a page of consumed frames;
a page whose transfer is done lies in scratchpad. -/
def Obligations.MoverAndValley : Prop :=
  (∀ (s : State) (id : Nat) (i : Inst) (crc : MoverCrc),
     let s1 := s.addF F.movCrcFail crc.fails
     let total := (i.d 0).combos * (if fmtBlock (i.d 0).format then 2 else 1)
     let bus := min total (s1.busErrors i.id)
     let r := ListRun.go { s := s1, errs := s1.busErrors i.id } i i.code.imm1 1048576
     let t := r.s.channelDone i.channel r.done r.bad
     let res := cap32 r.done * 2 ^ 32 + cap32 r.bad
     (s.mayStart 0x2000 id i → s.copyStatus i = stOk → crc.bad = none → (i.d 0).loc ≠ 2 → (i.d 1).loc ≠ 2 →
       ∃ w, exec (.movCopy id crc) s = .next (((s1.copyRun i 0 w).1.putInst
         (i.finish (s1.copyRun i 0 w).2 0 (total * 2 ^ 32))).afterStart id)) ∧
     (s.mayStart 0x2000 id i → s.copyStatus i = stOk → crc.bad = none → (i.d 0).loc = 2 ∨ (i.d 1).loc = 2 →
       ∃ w, exec (.movCopy id crc) s = .next (((s1.copyRun i bus w).1.putInst
         (if bus = 0 then i.finish (s1.copyRun i bus w).2 0 (total * 2 ^ 32)
          else { i.end_ stMovBad with
            sat := cap32 (s1.copyRun i bus w).2, result := total * 2 ^ 32 + bus })).afterStart id)) ∧
     (∀ b, s.mayStart 0x2000 id i → s.copyStatus i = stOk → crc.bad = some b → (i.d 0).loc ≠ 2 → (i.d 1).loc ≠ 2 →
       ∃ w, exec (.movCopy id crc) s = .next (((((i.d 0).holdCopy s1 ((s1.copyRun i 0 w).1.putInst
         (i.finish (s1.copyRun i 0 w).2 0 (total * 2 ^ 32))) b).putInst i).checkFails i rsnCheck
         ((0x3140 + i.channel) * 65536)).afterStart id)) ∧
     (s.mayStart 0x2001 id i → s.hostReady = true ∨ s.listHost i.code.imm1 1048576 = false → i.code.imm1 % 64 = 0 →
       crc.bad = none → r.broken = false → r.bad = 0 →
       exec (.movList id crc) s = .next ((t.putInst (i.finish r.sat 0 res)).afterStart id)) ∧
     (s.mayStart 0x2001 id i → s.hostReady = true ∨ s.listHost i.code.imm1 1048576 = false → i.code.imm1 % 64 = 0 →
       crc.bad = none → r.broken = false → 0 < r.bad →
       exec (.movList id crc) s = .next ((t.putInst
         { i.end_ stMovBad with sat := cap32 r.sat, result := res }).afterStart id)) ∧
     (s.mayStart 0x2001 id i → s.hostReady = true ∨ s.listHost i.code.imm1 1048576 = false → i.code.imm1 % 64 = 0 →
       crc.bad = none → r.broken = true →
       exec (.movList id crc) s = .next ((((t.setF (F.movChStatusChainBroken i.channel) 1).evI 0x4002 (0x3140 + i.channel)
         i.channel 0 i).putInst { i.end_ stMovChain with sat := cap32 r.sat, result := res }).afterStart id)) ∧
     (∀ b, s.mayStart 0x2001 id i → s.hostReady = true ∨ s.listHost i.code.imm1 1048576 = false → i.code.imm1 % 64 = 0 →
       crc.bad = some b → r.broken = false → r.bad = 0 →
       exec (.movList id crc) s = .next ((((holdList i.code.imm1 s1 (t.putInst (i.finish r.sat 0 res)) b).putInst
         i).checkFails i rsnCheck ((0x3140 + i.channel) * 65536)).afterStart id)) ∧
     (s.mayStart 0x2001 id i → s.hostReady = true ∨ s.listHost i.code.imm1 1048576 = false → i.code.imm1 % 64 ≠ 0 →
       exec (.movList id crc) s = .next ((s.putInst (i.end_ stImmInvalid)).afterStart id))) ∧
  (∀ (s : State) (id : Nat) (i : Inst) (crc : MoverCrc),
     (s.mayStart 0x8000 id i → s.frameCopyStatus i (i.d 0) (i.d 1) [0, 1, 5] = stOk → i.claim = stOk → crc.bad = none →
       exec (.valPush id crc) s = .next ((((s.addF F.movCrcFail crc.fails).fillFrame i (s.compactImage (i.d 1)) 0).putInst
         (i.finish 0 0 (i.d 0).compactBytes)).afterStart id)) ∧
     (s.mayStart 0x8000 id i → s.frameCopyStatus i (i.d 0) (i.d 1) [0, 1, 5] = stOk → i.claim = stFrameExists →
       exec (.valPush id crc) s = .next ((s.putInst (i.end_ stFrameExists)).afterStart id)) ∧
     (s.mayStart 0x8000 id i → s.frameCopyStatus i (i.d 0) (i.d 1) [0, 1, 5] = stOk → i.claim = stValleyFull →
       exec (.valPush id crc) s = .next (((s.addF F.memFailCount 1).putInst (i.end_ stValleyFull)).afterStart id)) ∧
     (∀ x, s.mayStart 0x8001 id i → s.frameCopyStatus i (i.d 1) (i.d 0) [0, 1] = stOk → s.framesStatus i = stOk →
       crc.bad = none → s.frame ((i.d 1).base % 2 ^ 32) = some x →
       exec (.valPop id crc) s = .next (((((List.range (i.d 0).combos).foldl (fun u c =>
           if fmtBlock (i.d 0).format then copyExps (copyElems u (i.d 0) (i.d 1) c).1 (i.d 0) (i.d 1) c
           else (copyElems u (i.d 0) (i.d 1) c).1) ((s.readFrame x).addF F.movCrcFail crc.fails)).coverLines (i.d 0)).putInst
         (Inst.finish { i with consume := if i.code.flag 3 then [] else [(i.d 1).base % 2 ^ 32] } 0 0
           (s.frameResult x))).afterStart id)) ∧
     (∀ x, s.mayStart 0x8002 id i → (i.d 1).loc = 3 → s.framesStatus i = stOk →
       s.frame ((i.d 1).base % 2 ^ 32) = some x →
       exec (.valDrop id) s = .next ((s.putInst (Inst.finish { i with consume := [(i.d 1).base % 2 ^ 32] } 0 0
         x.bytes)).afterStart id)) ∧
     (∀ q b, s.val.drain = true → s.transfers < 4 → s.broughtBack < s.val.prefetch → s.newestHbm = some q →
       s.chipPages < min 128 s.val.chipQuota → s.scratchRoom pageBytes = some b →
       exec .valleyPrefetch s = .next (s.tick.fetchPage q b)) ∧
     (∀ q e b, s.val.drain = true → s.transfers < 4 → s.broughtBack < s.val.prefetch → s.newestHbm = some q →
       min 128 s.val.chipQuota ≤ s.chipPages → s.spentChip = some (e, b) → s.hbmPages < s.val.hbmQuota →
       exec .valleyPrefetch s = .next (State.fetchPage { s with val := { s.val with
         pages := mput e .hbm s.val.pages, back := s.val.back.filter (fun n => n != e) } } q b)) ∧
     (∀ q b, mget q s.val.pages = some (.toChip b) →
       exec (.pageTransferDone q) s = .next { s with val := { s.val with pages := mput q (.chip b) s.val.pages } }))

/-- ARR.PLACE, ARR.PROGRAM, ARR.RELEASE, ARR.LREAD, ARR.FALLBACK and ARR.CALIB (R103 to R105, R115, R139, R140, R285,
R286, R289) whose checks pass. A placement takes the lowest free tiles and the free handle, and reports both; of a
layer that is placed already it reports what it has; programming puts every row of the layer's tiles into a batch with
new column scales; a release frees the tiles and clears BOUND; read-back writes the layer's cells; fallback and its
end take effect at once outside a step, and at the next launch within one, and a layer that has lost a tile stays in
fallback. Each of them ends with DESC_UNBOUND where its handle names no placed layer. -/
def Obligations.ArrayInstructionsComplete : Prop :=
  ∀ (s : State) (id : Nat) (i : Inst) (h : Nat) (l : Layer),
    let rt := ((i.d 0).e 0 + 1023) / 1024
    let ct := ((i.d 0).e 1 + 255) / 256
    let ts := s.lowestFree tileCount 0 (rt * ct)
    let cols := (List.range l.outDim).map (s.outputMasters l)
    let cells := (List.range (i.d 0).count).map (fun k => readBack l.wt (s.heldLevel l (k / l.inDim) (k % l.inDim)))
    (s.mayStart 0x4000 id i → (i.d 0).bound = false → (s.descEntry i.code.h0).bound = false → s.placeStatus i (rt * ct) = stOk → s.freeHandle = some h →
      exec (.arrPlace id) s = .next (((((s.takeTiles h ct ts.zipIdx).putLayer h
        { wt := (i.d 0).format == 6, inDim := (i.d 0).e 0, outDim := (i.d 0).e 1, master := (i.d 1).base,
          tiles := ts.map some }).putEntry i.code.h0 { i.d 0 with base := setBits (i.d 0).base 0 16 h, bound := true }).putInst
        (i.finish 0 0 (h + rt * ct * 2 ^ 16))).afterStart id)) ∧
    (s.mayStart 0x4000 id i → (s.descEntry i.code.h0).bound = true →
      exec (.arrPlace id) s = .next ((s.putInst (i.finish 0 0 ((s.descEntry i.code.h0).base % 4096 +
        (match s.layer ((s.descEntry i.code.h0).base % 65536) with
          | some l => l.tiles.length * 65536
          | none => 0)))).afterStart id)) ∧
    (s.mayStart 0x4000 id i → (i.d 0).bound = false → (s.descEntry i.code.h0).bound = false →
      s.placeStatus i (rt * ct) ≠ stOk →
      exec (.arrPlace id) s = .next ((s.putInst (i.end_ (s.placeStatus i (rt * ct)))).afterStart id)) ∧
    (s.mayStart 0x4001 id i → s.mayProgram i = true → s.layer (i.layerOf 0) = some l →
      exec (.arrProgram id) s = .next (((((l.held.foldl (fun t k => t.modTile k (fun x => x.begin
          { kind := .program, rows := allRows, step := s.c, full := true, renew := true }))
          (s.putLayer (i.layerOf 0) { l with scales := cols.map (columnScale l.wt) })).putInst
        { i with phase := .running, wants := l.held,
                 nf := cap32 (cols.map (fun ws => ws.countP (fun w => (bf16Val w).nonFinite))).sum }).endWaiters
          0x4001)).afterStart id)) ∧
    (s.mayStart 0x4002 id i → s.layerNamed i (i.layerOf 0) = false → s.layer (i.layerOf 0) = some l →
      s.settledTiles l = true →
      exec (.arrRelease id) s = .next ((((s.releaseLayer (i.layerOf 0)).putEntry i.code.h0
        { s.descEntry i.code.h0 with bound := false }).putInst (i.finish 0 0 l.held.length)).afterStart id)) ∧
    (s.mayStart 0x4004 id i → s.layer (i.layerOf 1) = some l → s.sealedTiles l = true →
      (∀ t ∈ l.held, (SleepKind.tile, t) ∈ s.units.awake) → (i.d 0).format = (if l.wt then 6 else 5) →
      (i.d 0).ndim = 2 → (i.d 0).e 0 = l.inDim → (i.d 0).e 1 = l.outDim → (i.d 0).loc ≤ 1 →
      exec (.arrLread id) s = .next (((s.wrElems (i.d 0) 0 (cells.map (fun c => c.1))).putInst
        (i.finish 0 0 (cells.countP (fun c => !c.2)))).afterStart id)) ∧
    (s.mayStart 0x4005 id i → s.layer (i.layerOf 0) = some l → bitOf i.code.imm0 0 = true → s.pass.launched = true →
      exec (.arrFallback id) s = .next (((s.putLayer (i.layerOf 0)
        { l with pendFall := some 2, pendClear := false }).putInst (i.finish 0 0 1)).afterStart id)) ∧
    (s.mayStart 0x4005 id i → s.layer (i.layerOf 0) = some l → bitOf i.code.imm0 0 = true → s.pass.launched = false →
      ∃ t : State, exec (.arrFallback id) s = .next t ∧
        t.inst id = some (i.finish 0 0 1) ∧ (t.layer (i.layerOf 0)).map (fun y => y.fallback) = some true) ∧
    (s.mayStart 0x4005 id i → s.layer (i.layerOf 0) = some l → bitOf i.code.imm0 0 = false → l.whole = false →
      exec (.arrFallback id) s = .next ((s.putInst
        (i.finish 0 0 (natOfBool (l.fallback || l.pendFall.isSome)))).afterStart id)) ∧
    (s.mayStart 0x4005 id i → s.layer (i.layerOf 0) = some l → bitOf i.code.imm0 0 = false → l.whole = true →
      s.pass.launched = true → exec (.arrFallback id) s = .next (((s.putLayer (i.layerOf 0)
        { l with pendFall := none, pendClear := true }).putInst (i.finish 0 0 (natOfBool l.fallback))).afterStart id)) ∧
    (s.mayStart 0x4005 id i → s.layer (i.layerOf 0) = some l → bitOf i.code.imm0 0 = false → l.whole = true →
      s.pass.launched = false → l.pendFall = none → ∃ t : State, exec (.arrFallback id) s = .next t ∧
        t.inst id = some (i.finish 0 0 0) ∧ (t.layer (i.layerOf 0)).map (fun y => y.fallback) = some false) ∧
    (∀ c op k, (c, op, k) ∈ [(Instr.arrProgram id, 0x4001, 0), (.arrRelease id, 0x4002, 0), (.arrFwd id, 0x4003, 2),
        (.arrLread id, 0x4004, 1), (.arrFallback id, 0x4005, 0), (.arrCalib id, 0x4006, 0)] →
      s.mayStart op id i → s.layer (i.layerOf k) = none → (op = 0x4001 → s.pass.launched = false) →
      (op = 0x4002 → s.layerNamed i (i.layerOf 0) = false) → (op = 0x4003 → s.fwdMay i = true) →
      exec c s = .next ((s.putInst (i.end_ stDescUnbound)).afterStart id)) ∧
    (s.mayStart 0x4006 id i → s.layer (i.layerOf 0) = some l →
      exec (.arrCalib id) s = .next ((((l.held.foldl (fun t k => t.modTile k (fun x => { x with due := true })) s).putInst
        { i with phase := .running, wants := l.held }).endWaiters 0x4006).afterStart id))

/-- ARR.FWD (R98, R104, R133, R139, R233, R287, R288) whose turn has come. One whose frame of STASH was taken at
admission stashes its input; then it runs on the tiles when the layer is on them, on the grids in fallback, as WIDE
and in mode IDEAL, and ends with LAYER_UNPROGRAMMED on a layer that is not programmed, or with HW_UNAVAILABLE where it
needs grids and none is left. On the tiles it writes its outputs at once and ends with a success status; on the grids
its items go out. One whose checks fail, or that got no frame, ends with that status. -/
def Obligations.ArrayForwardCompletes : Prop :=
  ∀ (s : State) (id : Nat) (i : Inst) (l : Layer),
    s.mayStart 0x4003 id i → s.layer (i.layerOf 2) = some l → s.fwdMay i = true →
    (fwdStatus i l ≠ stOk → exec (.arrFwd id) s = .next ((s.putInst (i.end_ (fwdStatus i l))).afterStart id)) ∧
    (fwdStatus i l = stOk → i.claim ≠ stOk → exec (.arrFwd id) s = .next ((s.claimFails i).afterStart id)) ∧
    (fwdStatus i l = stOk → i.claim = stOk →
      (l.programmed = false →
        exec (.arrFwd id) s = .next (((s.stash i).putInst (i.end_ stLayerUnprogrammed)).afterStart id)) ∧
      (l.programmed = true → s.fwdPlace i l ≠ .tiles → (s.stash i).noGrids = true →
        exec (.arrFwd id) s = .next (((s.stash i).putInst (i.end_ stHwUnavailable)).afterStart id)) ∧
      (l.programmed = true → s.fwdPlace i l = .tiles →
        exec (.arrFwd id) s = .next (((s.stash i).fwdOnTiles i (i.layerOf 2) l).afterStart id)) ∧
      (l.programmed = true → s.fwdPlace i l = .fallback → (s.stash i).noGrids = false →
        exec (.arrFwd id) s = .next (((s.stash i).fwdOnGrids i (i.layerOf 2) l false).afterStart id)) ∧
      (l.programmed = true → s.fwdPlace i l = .wide → (s.stash i).noGrids = false →
        exec (.arrFwd id) s = .next (((s.stash i).fwdOnGrids i (i.layerOf 2) l true).afterStart id)) ∧
      (l.programmed = true → s.fwdPlace i l = .ideal → (s.stash i).noGrids = false →
        exec (.arrFwd id) s = .next (((s.stash i).fwdIdeal i l).afterStart id)))

/-- GRD.FWD, GRD.DX and GRD.DW (R45, R144, R148, R149, R290, R292): one whose checks or frames fail, or for which no
grid is left, ends with that status; otherwise the items go out, the pending results are the products of the operands
as the destination rounds them, with the prior destination under ACC, and RESULT counts the items. GRID_ITEM (R144,
R145, R150, R231): the item that a grid runs ends, with its verdict; an item whose instruction was withdrawn ends
without a result; and idle grids take the next items. When the last item of the last tile ends with an agreeing
residue and none is in dispute, the tile is written and the instruction ends with a success status. -/
def Obligations.GridInstructionsComplete : Prop :=
  ∀ (s : State) (id : Nat) (i : Inst),
    let vs (p : Product) : List Val := (List.range (i.d 0).count).map (s.productVal p (i.d 1) (i.d 2) (i.d 0))
    let acc : List Val := (List.range (i.d 0).count).map (fun k =>
      (s.elemVal (i.d 0) 0 k).add (s.productVal (dwProduct i) (i.d 1) (i.d 2) (i.d 0) k))
    let out (n : Nat) (v : List Val) : State := (s.readFrames i).launchItems i.consuming n (i.d 0).outTiles n (i.d 0)
      (encodeVals (i.d 0) 0 (fun _ => .rne) v)
    (s.mayStart 0x5000 id i → s.grdFwdStatus i = stOk → s.framesStatus i = stOk → s.noGrids = false →
      exec (.grdFwd id) s = .next ((out (itemsOf (i.d 0) (fwdProduct i).len) (vs (fwdProduct i))).afterStart id)) ∧
    (s.mayStart 0x5001 id i → s.grdDxStatus i = stOk → s.framesStatus i = stOk → s.noGrids = false →
      exec (.grdDx id) s = .next ((out (itemsOf (i.d 0) (dxProduct i).len) (vs (dxProduct i))).afterStart id)) ∧
    (s.mayStart 0x5002 id i → s.grdDwStatus i = stOk → s.framesStatus i = stOk → s.noGrids = false →
      exec (.grdDw id) s = .next ((out (itemsOf (i.d 0) (dwProduct i).len)
        (if i.code.flag 6 then acc else vs (dwProduct i))).afterStart id)) ∧
    (∀ c op st, (c, op, st) ∈ [(Instr.grdFwd id, 0x5000, s.grdFwdStatus i), (.grdDx id, 0x5001, s.grdDxStatus i),
        (.grdDw id, 0x5002, s.grdDwStatus i)] → s.mayStart op id i →
      (st ≠ stOk → exec c s = .next ((s.putInst (i.end_ st)).afterStart id)) ∧
      (st = stOk → s.framesStatus i ≠ stOk →
        exec c s = .next ((s.putInst (i.end_ (s.framesStatus i))).afterStart id)) ∧
      (st = stOk → s.framesStatus i = stOk → s.noGrids = true →
        exec c s = .next ((s.putInst (i.end_ stHwUnavailable)).afterStart id))) ∧
    (∀ g r agree, s.dispatch.units.running.find? (fun r => r.grid == g && r.inst == id) = some r →
      s.dispatch.inst id = some i →
      exec (.gridItem id g agree) s = .next
        (if r.live = false ∨ i.items = 0 then (s.dispatch.itemEnds r).dispatch
         else ((s.dispatch.itemEnds r).endItem i r agree).dispatch)) ∧
    (∀ g r d e, s.dispatch.units.running.find? (fun r => r.grid == g && r.inst == id) = some r → r.live = true →
      s.dispatch.inst id = some i → i.phase = .running → i.items = 1 → nth i.left (i.itemTile r.item) = 1 →
      i.pend = [(d, e)] → s.units.unsettled.all (fun u => u.2.2 != id) = true →
      let p := i.itemTile r.item
      let u := (s.dispatch.itemEnds r).putInst
        { i with items := 0, otherHalf := i.otherHalf || (r.dw == decide (r.grid < 128)) }
      ∃ t : State, exec (.gridItem id g true) s = .next t ∧
        t.hbm = (u.wrPart d e (fun k => d.outTileOf k == p)).hbm ∧
        t.scratch = (u.wrPart d e (fun k => d.outTileOf k == p)).scratch ∧
        (t.inst id).map (fun j => (j.phase == .done && isSuccess j.status, j.pend.isEmpty)) = some (true, true))

/-- What each row instruction computes, with its OPCODE, the slot of its flags and whether it is a forward (R157 to
R165, R293, R294). -/
def rowRuns (s : State) (id : Nat) (i : Inst) : List (Instr × Nat × Nat × Bool × RowsOut) :=
  let xs := s.rowsOf (i.d 1)
  let g (k : Nat) : List Val := (s.rowsOf (i.d k)).getD 0 []
  let col (rs : List (List Val)) : List Val :=
    (List.range ((i.d 1).e 0)).map (fun k => exactSum (rs.map (fun r => r.getD k (.fin 0))))
  let norm := s.fwdStats i (xs.map (normStat i.code.rms i.code.rowScalar))
  let back := ((xs.zip (s.rowsOf (i.d 2))).zip (s.readStats i)).map (fun p => normBwd i.code.rms p.2 p.1.1 p.1.2 (g 3))
  let soft := s.fwdStats i ((s.softRows i 2).map SoftRow.stat)
  [(.rowNorm id, 0x6000, 5, true,
     { y := (xs.zip norm).flatMap (fun p => normFwd i.code.rms p.2 p.1 (g 2) (if i.code.rms then [] else g 3)), stat := norm }),
   (.rowNormb id, 0x6001, 9, false,
     { y := back.flatMap (fun r => r.1), cols := [col (back.map (fun r => r.2)), col (s.rowsOf (i.d 2))] }),
   (.rowSmax id, 0x6002, 3, true,
     { y := ((s.softRows i 2).zip soft).flatMap (fun p => softFwd p.1 p.2), stat := soft }),
   (.rowSmaxb id, 0x6003, 9, false,
     { y := (((xs.zip (s.softRows i 3)).zip (s.rowsOf (i.d 2))).zip (s.readStats i)).zipIdx.flatMap (fun q =>
        if bitOf i.code.imm0 1 then softBwd i.code.rowScalar q.1.2 q.1.1.1.1 (s.keepRow i 3 q.2) q.1.1.2
        else softBwd i.code.rowScalar q.1.2 (softAgain q.1.1.1.2 q.1.2) q.1.1.1.2.live q.1.1.2) }),
   (.rowLse id, 0x6004, 3, true, { y := soft.map lseFwd, stat := soft }),
   (.rowLseb id, 0x6005, 9, false,
     { y := ((s.softRows i 3).zip (s.readStats i)).zipIdx.flatMap (fun q =>
        lseBwd q.1.2 (softAgain q.1.1 q.1.2) (s.elemVal (i.d 2) 0 q.2)) })]

/-- The row instructions (R157 to R165, R293, R294). One whose checks fail ends with their first status. One whose
checks pass writes the results of its rows as its destination rounds them, the sums over the rows and the row flags
where it has operands for them, fills its stat frame, and ends with a success status; RESULT counts its rows and those
flagged. -/
def Obligations.RowInstructionsComplete : Prop :=
  ∀ (s : State) (id : Nat) (i : Inst) (c : Instr) (op flagSlot : Nat) (fwd : Bool) (o : RowsOut),
    (c, op, flagSlot, fwd, o) ∈ rowRuns s id i → s.mayStart op id i →
    let st := firstFail [(s.rowStatus i == stOk, s.rowStatus i), (s.framesStatus i == stOk, s.framesStatus i),
      (s.statKindOk i, stDescInvalid), (!s.noRows, stHwUnavailable)]
    let flags := if fwd then o.stat.map (fun x => if op = 0x6000 then 0 else statFlags x) else []
    let e := encodeVals (i.d 0) 0 (fun _ => .rne) o.y
    let w := (s.readFrames i).wrEncoded (i.d 0) e
    let dg := w.writeCols i 5 (o.cols.getD 0 [])
    let db := dg.1.writeCols i 6 (o.cols.getD 1 [])
    (st ≠ stOk → exec c s = .next ((s.putInst (i.end_ st)).afterStart id)) ∧
    (st = stOk → i.claim ≠ stOk → exec c s = .next ((s.claimFails i).afterStart id)) ∧
    (st = stOk → i.claim = stOk → ∃ sat nf : Nat,
      exec c s = .next (((((if o.cols.isEmpty then w else db.1).noteFlags i flagSlot flags).fillStat i o.stat flags).putInst
        (i.consuming.finish sat nf (cap32 (i.d 1).rows + cap32 (flags.countP (fun f => f != 0)) * 2 ^ 32))).afterStart id) ∧
      sat = e.sat + (if o.cols.isEmpty then 0 else dg.2.sat + db.2.sat) ∧
      nf = e.nf + (if o.cols.isEmpty then 0 else dg.2.nf + db.2.nf))

/-- COL.BUCKET, COL.PASS, COL.UPDCFG and COL.AVGRESET (R191, R203, R205, R220, R295 to R297) and BUCKET_RELEASE (R23).
A bucket whose checks pass joins the step and stays in flight; one whose checks fail ends with the first status they
give. The rank's pass begins with COL.PASS, and under VETO the rank reports REQUEST; policy 3 under VETO is
IMM_INVALID, and from a queue without STEP the instruction ends with NOT_PERMITTED. An entry image or the average
reset takes effect at once when no step is in progress, and an image that is misaligned, beyond HBM or malformed is
IMM_INVALID. A running bucket is released once no earlier instruction in flight writes its gradient, and not before.
SVC.SEED, SVC.CKPT, SVC.SCRUB and SVC.RECORD (R298, R299, R389), whose turn has come: the seed takes effect at once
outside a step and at the next launch within one; a checkpoint is due, and the instruction waits for its confirmation;
the FREE tiles are scrubbed once no other scrub runs, and not while halt is granted; the step record is written to H0.
An operand that does not fit ends the instruction with the status of its first failing check. -/
def Obligations.CollectiveAndServiceInstructions : Prop :=
  (∀ (s : State) (id : Nat) (i : Inst),
     let y := i.code.bucketOf
     let a := bitsOf i.code.imm1 0 48
     let clear : Prop := ∀ j ∈ s.sch.inflight, j.id < id → ∀ x ∈ j.access, x.1 = true → ∀ z ∈ (i.d 0).stor,
       x.2.overlaps s.masters z = false
     (s.mayStart 0x7000 id i → exec (.colBucket id) s = .next
       ((if s.bucketStatus i = stOk then ({ s with col := { s.col with
           buckets := s.col.buckets ++ [{ b := y.1, id := id, layer := y.2.1, first := y.2.2.1, count := y.2.2.2, grad := i.d 0 }],
           admitted := s.col.admitted ++ [y] } } : State).putInst { i with phase := .running }
         else s.putInst (i.end_ (s.bucketStatus i))).afterStart id)) ∧
     (s.mayStart 0x7000 id i → i.step = none →
       exec (.colBucket id) s = .next ((s.putInst (i.end_ stNotPermitted)).afterStart id)) ∧
     (s.mayStart 0x7001 id i → i.step.isSome = true → i.code.flag 3 = false →
       exec (.colPass id) s = .next (((s.putInst { i with phase := .running }).modPass (fun p =>
         { p with passId := some id, request := i.code.imm0 % 4 })).afterStart id)) ∧
     (s.mayStart 0x7001 id i → i.step.isSome = true → i.code.flag 3 = true → i.code.imm0 % 4 ≠ 3 →
       exec (.colPass id) s = .next ((((s.putInst { i with phase := .running }).modPass (fun p =>
         { p with passId := some id, request := i.code.imm0 % 4 })).failCheck rsnRequest schedDetail).afterStart id)) ∧
     (s.mayStart 0x7001 id i → i.code.flag 3 = true → i.code.imm0 % 4 = 3 →
       exec (.colPass id) s = .next ((s.putInst (i.end_ stImmInvalid)).afterStart id)) ∧
     (s.mayStart 0x7001 id i → i.code.flag 3 = false ∨ i.code.imm0 % 4 ≠ 3 → i.step = none →
       exec (.colPass id) s = .next ((s.putInst (i.end_ stNotPermitted)).afterStart id)) ∧
     (s.mayStart 0x7002 id i → a % 64 = 0 → a + 64 ≤ hbmTop → updImageOk (s.rdBytes 1 a 64) = true →
       exec (.colUpdcfg id) s = .next (((({ s with col := { s.col with
           updcfg := s.col.updcfg ++ [(bitsOf i.code.imm2 0 12, s.rdBytes 1 a 64)] } } : State).updatesIfIdle).putInst
         (i.finish 0 0 0)).afterStart id)) ∧
     (s.mayStart 0x7002 id i → a % 64 ≠ 0 ∨ hbmTop < a + 64 ∨ updImageOk (s.rdBytes 1 a 64) = false →
       exec (.colUpdcfg id) s = .next ((s.putInst (i.end_ stImmInvalid)).afterStart id)) ∧
     (s.mayStart 0x7003 id i →
       exec (.colAvgreset id) s = .next (((({ s with col := { s.col with avgreset := true } } : State).updatesIfIdle).putInst
         (i.finish 0 0 0)).afterStart id)) ∧
     (s.inst id = some i → i.code.op = 0x7000 → i.phase = .running → i.released = false →
       (clear → exec (.bucketRelease id) s = .next (s.putInst { i with released := true })) ∧
       (¬ clear → exec (.bucketRelease id) s = .next s))) ∧
  (∀ (s : State) (id : Nat) (i : Inst), s.svcTurn i = true →
     let size := ckptBytes s.load.params s.avgSlots s.load.buckets
     (s.mayStart 0x9000 id i → exec (.svcSeed id) s = .next (((s.modPass (fun p =>
         if s.pass.launched then { p with nextSeed := some i.code.imm1 } else
         { p with seed := i.code.imm1, nextSeed := none })).putInst (i.finish 0 0 0)).afterStart id)) ∧
     (s.mayStart 0x9001 id i → i.code.flag 3 = false ∨ svcOperand (i.d 0) size = stOk →
       exec (.svcCkpt id) s = .next (((s.putInst { i with phase := .running }).modPass (fun p =>
         { p with ckptIds := p.ckptIds ++ [id] })).afterStart id)) ∧
     (s.mayStart 0x9001 id i → i.code.flag 3 = true → svcOperand (i.d 0) size ≠ stOk →
       exec (.svcCkpt id) s = .next ((s.putInst (i.end_ (svcOperand (i.d 0) size))).afterStart id)) ∧
     (s.mayStart 0x9002 id i → s.f F.secStatusDebug ≠ 2 → s.fb F.secScrubRunning = false →
       exec (.svcScrub id) s = .next (((s.putInst { i with phase := .running }).startScrub s.freeTiles false).afterStart id)) ∧
     (s.mayStart 0x9002 id i → s.f F.secStatusDebug = 2 →
       exec (.svcScrub id) s = .next ((s.putInst (i.end_ stNotPermitted)).afterStart id)) ∧
     (s.mayStart 0x9003 id i → svcOperand (i.d 0) 256 = stOk →
       exec (.svcRecord id) s = .next (((s.wrElems (i.d 0) 0 (s.pup.lastRec.map (fun x => x.toNat))).putInst
         (i.finish 0 0 s.pup.lastRec.length)).afterStart id)) ∧
     (s.mayStart 0x9003 id i → svcOperand (i.d 0) 256 ≠ stOk →
       exec (.svcRecord id) s = .next ((s.putInst (i.end_ (svcOperand (i.d 0) 256))).afterStart id)))

/-- RECORD_ADMISSION (R60, R64, R72, R252) and CHAIN_CLOSE (R174). A queue that may be served admits the record at
HEAD: HEAD moves on by one, modulo the queue's size, and an instruction with the next number is in flight that holds
the record as it stood in memory; a record that breaks a rule of stage 1 has ended with RECORD_INVALID. A queue that
may not be served admits nothing. An open chain closes when its first member has ended or could start while the next
slot lies at TAIL. -/
def Obligations.RecordsAreAdmitted : Prop :=
  ∀ (s : State) (q : Nat), q < 64 →
    let r := Rec.ofBytes (s.rdBytes 1 (s.f (F.schQBase q) + 32 * s.f (F.schQPtrHead q)) 32)
    (s.mayServe q = true → s.f (F.schQCfgLog2size q) ≤ 16 →
      ∃ t : State, exec (.recordAdmission q) s = .next t ∧
        t.f (F.schQPtrHead q) = (s.f (F.schQPtrHead q) + 1) % s.qSize q ∧ t.sch.nextId = s.sch.nextId + 1 ∧
        ∃ j ∈ t.sch.inflight, j.id = s.sch.nextId ∧ j.queue = q ∧ j.index = s.f (F.schQPtrHead q) ∧ j.code = r ∧
          (r.valid = false → j.phase = .done ∧ j.status = stRecordInvalid)) ∧
    (s.mayServe q = false → exec (.recordAdmission q) s = .next s) ∧
    (∀ k i, (s.qst q).chain.head? = some k → s.inst k = some i → s.f (F.schQPtrHead q) = s.f (F.schQPtrTail q) →
      i.phase = .done ∨ (s.tokenReady i = true ∧ s.clearAhead i = true) →
      exec (.chainClose q) s = .next (s.closeChain q))

/-- INSTRUCTION_COMPLETION (R65, R253, R257) and STALL (R80). An instruction that has ended and whose checks and posts
are settled completes: without CR and with status OK no record is written; otherwise the 32-byte record is written at
TAIL of its completion queue when that has room and nothing is held for it, is held while fewer than 256 are, and the
completion waits and the queue is reported full when 256 are. CTL.MARK reads its counter at that moment, and writes it
to H0 where it has one. A stall is declared when nothing has made progress for STALL_TIMEOUT while an instruction
waits on a CLEAR token or a bucket on one that is never issued, and the step in progress, if there is one, fails with
reason PROGRAM. -/
def Obligations.InstructionsCompleteAndStall : Prop :=
  ∀ (s : State) (id : Nat) (i : Inst),
    let mark := i.code.op == 0x0005 && isSuccess i.status
    let u := if mark && i.has 0 then s.wrElems (i.d 0) i.code.imm2 [s.aon] else s
    let j : Inst := if mark then { i with result := s.aon } else i
    let b := completionRecord j true (u.recordStep j) u.aon
    (s.inst id = some i → i.phase = .done → s.settled i = true →
      (j.code.flag 0 = false → j.status = stOk → exec (.instructionCompletion id) s = .next (u.completed j)) ∧
      (j.code.flag 0 = true ∨ j.status ≠ stOk →
        ((u.held j.cq).isEmpty = true → u.cqIsFull j.cq = false →
          exec (.instructionCompletion id) s = .next ((u.writeCq j.cq b).completed j)) ∧
        ((u.held j.cq).isEmpty = false ∨ u.cqIsFull j.cq = true → (u.held j.cq).length < 256 →
          exec (.instructionCompletion id) s = .next (({ u with sch := { u.sch with
            cqHeld := mput j.cq (u.held j.cq ++ [b]) u.sch.cqHeld } } : State).completed j)) ∧
        ((u.held j.cq).isEmpty = false → 256 ≤ (u.held j.cq).length →
          exec (.instructionCompletion id) s = .next (s.noteCqFull j.cq)))) ∧
    (∀ t, s.stalledOn = some (i, t) → max s.sch.lastProgress i.since + s.f F.schStallTimeout ≤ s.aon →
      s.sch.stallSeen = false →
      let v := (({ s with sch := { s.sch with stallSeen := true } } : State).setF F.schStatusStall 1).evI 0x0023 unitSched t 0 i
      exec .stall s = .next (if v.pass.launched then v.failCheck rsnProgram (unitSched * 65536 + 0x0023) else v))

/-- DIGITAL_ARBITRATION, ARRAY_ARBITRATION, PART_FAILURE and FTQ_POST (R127, R171, R176, R178, R232 to R234). A
disagreement on a digital unit quarantines it, the verdict is counted and reported, and the result stands or is
withheld; an array whose re-read does not agree with the ideal codes is retired, one whose re-read agrees has a fault
of its checksum column where the codes of the pass agree too, and is SUSPECT where they do not; in both cases but the
checksum's the step fails. A part that fails quarantines its unit, tags what was written and runs the instruction
again, and a second failure is a failed check. A post held back is made once the queue has room. -/
def Obligations.ChecksAndPostsComplete : Prop :=
  ∀ (s : State) (k : UnitKind) (n id tile unit : Nat) (i : Inst),
    let w := ({ s with units := { s.units with unsettled := s.units.unsettled.erase (k, n, id) } } : State).quarantine k n
    let q : State := match unitOf unit with
      | some (a, m) => s.quarantine a m
      | none => s
    (s.disagrees k n id = true →
      exec (.digitalArbitration k n id .original) s =
        .next ((((w.addF F.colChecksChecker 1).ev 0x5105 (unitNo k n) 0 0).clearDoubt k n id).commitRun id) ∧
      exec (.digitalArbitration k n id .checker) s =
        .next ((((w.addF F.colChecksUnit 1).ev 0x5106 (unitNo k n) 0 0).clearDoubt k n id).commitRun id) ∧
      exec (.digitalArbitration k n id .neither) s =
        .next (((w.addF F.colChecksUnsettled 1).ev 0x5107 (unitNo k n) 0 0).withhold k n id 0x5107)) ∧
    (∀ (d : Dispute) (l : Layer) (low high : List (List Int)), s.arr.disputes.find? (fun d => d.tile == tile) = some d →
      s.layer d.layer = some l → (s.tile tile).state = 1 → (s.tile tile).layer = d.layer →
      let t : State := { s with arr := { s.arr with disputes := s.arr.disputes.filter (fun y => y != d) } }
      (s.rereadAgrees l (s.tile tile) d low high = false →
        exec (.arrayArbitration tile low high) s = .next ((t.disputeVetoes d).retire tile 3 4)) ∧
      (s.rereadAgrees l (s.tile tile) d low high = true → s.originalAgrees l (s.tile tile) d = true →
        exec (.arrayArbitration tile low high) s =
          .next ((t.modTile tile (fun x => { x with csFault := true })).ev 0x100b tile 0 0)) ∧
      (s.rereadAgrees l (s.tile tile) d low high = true → s.originalAgrees l (s.tile tile) d = false →
        exec (.arrayArbitration tile low high) s =
          .next ((t.modTile tile (fun x => { x with suspect := true })).disputeVetoes d))) ∧
    (s.inst id = some i → (i.phase = .running ∧ (0 < i.items ∨ i.code.iclass = 3)) ∨
        (s.ready i = true ∧ (i.code.iclass = 3 ∨ i.code.iclass = 6)) →
      (i.again = 0 → exec (.partFailure id unit) s = .next ((q.tick.tagLines i.lead (q.partLines
        (if i.phase = .running ∧ i.items = i.work then [] else
          i.members.flatMap (fun m => ((q.inst m).map Inst.writtenLines).getD [])))).runAgain i).dispatch) ∧
      (0 < i.again → exec (.partFailure id unit) s = .next (q.checkFails i rsnCheck (unit * 65536)))) ∧
    (s.sch.inflight.find? (fun i => i.held && (decide (s.units.ftq.length < 4096) || !s.awaited i.id)) = some i →
      s.inst i.id = some i → 0 < i.tiles → i.made.length = i.posted + 1 → s.awaited i.id = true →
      exec .ftqPost s = .next ((({ s with units := { s.units with
          ftq := s.units.ftq ++ [(i.id, nth i.made i.posted)] } } : State).setF F.vecFtqPeak
        (max (s.f F.vecFtqPeak) (s.units.ftq.length + 1))).putInst { i with posted := i.posted + 1, held := false }))

/-- DOORBELL and INGEST_WAKE (R58, R61, R62, R305). In Active a doorbell of an enabled queue whose value is a slot of
the queue and leaves it no fuller than size − 1 becomes its TAIL; one for a queue that is off, beyond its size,
overfull, or of the step body while a step is launched is a violation of kind DOORBELL and changes no TAIL; one for a
queue that does not exist is of kind BAR_OFFSET. Outside Active it also wakes the device; in Deep the doorbell is
held. A wake makes the next look at PROD due now. -/
def Obligations.DoorbellsMoveTail : Prop :=
  ∀ (s : State) (q v : Nat),
    let size := s.qSize q
    let held := (s.f (F.schQPtrTail q) + size - s.f (F.schQPtrHead q)) % size
    let more := (v + size - s.f (F.schQPtrTail q)) % size
    (s.hostOpen → s.pst_ = 1 → s.fb F.pwrStatusMoving = false → q < 64 → s.fb (F.schQCfgEn q) = true → v < size →
      (s.fb (F.schQCfgStep q) = false ∨ s.pass.launched = false) → held + more ≤ size - 1 →
      exec (.doorbell q v) s = .next (s.setF (F.schQPtrTail q) v)) ∧
    (s.hostOpen → s.pst_ = 1 → s.fb F.pwrStatusMoving = false → q < 64 →
      (s.fb (F.schQCfgEn q) = false ∨ size ≤ v ∨ (s.fb (F.schQCfgStep q) = true ∧ s.pass.launched = true) ∨
        (held ≤ size - 1 ∧ size - 1 < held + more)) →
      exec (.doorbell q v) s = .next (s.violation 1)) ∧
    (s.hostOpen → s.pst_ = 1 → s.fb F.pwrStatusMoving = false → 64 ≤ q →
      exec (.doorbell q v) s = .next (s.violation 5)) ∧
    (s.hostOpen → let t := s.wakeUp 1
      exec (.doorbell q v) s = .next (if 64 ≤ q then t.violation 5 else if s.doorbellBad q v then t.violation 1
        else t.setF (F.schQPtrTail q) v)) ∧
    (s.barReached = true → s.pst_ = 3 → exec (.doorbell q v) s = .next (s.latchAccess (.doorbell q v))) ∧
    (s.hostOpen → ∃ t : State, exec (.ingestWake v) s = .next t ∧ t.pup.polled = 0 ∧ t.pup.prod = s.pup.prod ∧
      t.regs = s.regs)

/-- QUEUE_CFG, CQ_CFG and CQ_HEAD (R62, R65, R66, R254). Enabling a queue whose LOG2SIZE is 4 to 16 sets its class,
size and completion queue, and empties it: HEAD and TAIL are 0. A size outside that range raises EV_SCH_QUEUE_CONFIG
and leaves the queue off. A queue that is on keeps its configuration but for STEP until EN is 0. Enabling a completion
queue sets its TAIL to 0, and its PHASE starts again; records that are held follow. Its HEAD is what the host writes,
and held records follow while there is room. -/
def Obligations.QueuesAreConfigured : Prop :=
  ∀ (s : State) (n v : Nat), s.hostOpen → n < 64 → v < 2 ^ 32 →
    (s.fb (F.schQCfgEn n) = false → bitOf v 31 = true → 4 ≤ bitsOf v 16 5 → bitsOf v 16 5 ≤ 16 →
      ∃ t : State, exec (.queueCfg n v) s = .next t ∧ t.f (F.schQCfgEn n) = 1 ∧ t.f (F.schQCfgStep n) = bitsOf v 30 1 ∧
        t.f (F.schQCfgCq n) = bitsOf v 24 6 ∧ t.f (F.schQCfgLog2size n) = bitsOf v 16 5 ∧
        t.f (F.schQCfgClass n) = bitsOf v 0 2 ∧ t.f (F.schQPtrHead n) = 0 ∧ t.f (F.schQPtrTail n) = 0) ∧
    (s.fb (F.schQCfgEn n) = true → bitOf v 31 = true →
      exec (.queueCfg n v) s = .next (s.setF (F.schQCfgStep n) (bitsOf v 30 1))) ∧
    (s.fb (F.schQCfgEn n) = false → bitOf v 31 = false → exec (.queueCfg n v) s =
      .next (((s.setF (F.schQCfgStep n) (bitsOf v 30 1)).setQueue n v).setF (F.schQCfgEn n) 0)) ∧
    (s.fb (F.schQCfgEn n) = true → bitOf v 31 = false →
      exec (.queueCfg n v) s = .next ((s.setF (F.schQCfgStep n) (bitsOf v 30 1)).setF (F.schQCfgEn n) 0)) ∧
    (s.fb (F.schQCfgEn n) = false → bitOf v 31 = true → (bitsOf v 16 5 < 4 ∨ 16 < bitsOf v 16 5) →
      ∃ t : State, exec (.queueCfg n v) s = .next (t.ev 0x0024 unitSched n 0) ∧ t.f (F.schQCfgEn n) = s.f (F.schQCfgEn n)) ∧
    (s.fb (F.schCqCfgEn n) = false → bitOf v 31 = true → 4 ≤ bitsOf v 0 5 → bitsOf v 0 5 ≤ 16 → s.held n = [] →
      ∃ t : State, exec (.cqCfg n v) s = .next t ∧ t.f (F.schCqCfgEn n) = 1 ∧ t.f (F.schCqCfgInt n) = bitsOf v 30 1 ∧
        t.f (F.schCqCfgVector n) = bitsOf v 16 11 ∧ t.f (F.schCqCfgLog2size n) = bitsOf v 0 5 ∧
        t.f (F.schCqPtrTail n) = 0 ∧ n ∉ t.sch.cqWrap) ∧
    (let t := (s.setF (F.schCqCfgInt n) (bitsOf v 30 1)).setF (F.schCqCfgVector n) (bitsOf v 16 11)
      let z := t.setF (F.schCqCfgLog2size n) (bitsOf v 0 5)
      (s.fb (F.schCqCfgEn n) = true → exec (.cqCfg n v) s =
        .next (if bitOf v 31 then t else t.setF (F.schCqCfgEn n) 0)) ∧
      (s.fb (F.schCqCfgEn n) = false → bitOf v 31 = false → exec (.cqCfg n v) s = .next (z.setF (F.schCqCfgEn n) 0)) ∧
      (s.fb (F.schCqCfgEn n) = false → bitOf v 31 = true → (bitsOf v 0 5 < 4 ∨ 16 < bitsOf v 0 5) →
        exec (.cqCfg n v) s = .next (z.ev 0x0024 unitSched n 0)) ∧
      (s.fb (F.schCqCfgEn n) = false → bitOf v 31 = true → 4 ≤ bitsOf v 0 5 → bitsOf v 0 5 ≤ 16 → exec (.cqCfg n v) s =
        let y := (z.setF (F.schCqCfgEn n) 1).setF (F.schCqPtrTail n) 0
        let x : State := { y with sch := { y.sch with cqWrap := y.sch.cqWrap.filter (fun m => m != n) } }
        .next (x.drainCq n (s.held n)))) ∧
    (exec (.cqHead n v) s = .next ((s.setF (F.schCqPtrHead n) v).drainCq n (s.held n))) ∧
    (s.held n = [] → ∃ t : State, exec (.cqHead n v) s = .next t ∧ t.f (F.schCqPtrHead n) = v % 2 ^ 16 ∧
      (∀ sp a, t.rd sp a = s.rd sp a))

/-- STEP_LAUNCH, TOKEN_CLEAR_ALL and RUN (R58, R86, R87). With a program loaded, RUN 1, the loop HALTED, the pass IDLE
and nothing out, STEP_LAUNCH launches the step body at once, or, while instructions of the committed step are in
flight, when they are gone; otherwise it does nothing. TOKEN_CLEAR_ALL makes every token CLEAR, and does nothing while
RUN is 1. RUN takes the value written beside the replay; a loop that runs begins to stop when RUN becomes 0.
QUOTA_WRITE, LINFO_WRITE, FORCE_PROBE and QCLEAR (R82, R102, R153, R201, R233, R247, R268). Outside a step quotas that
the heap can supply take effect at once; in a step the register alone changes. What is written to ARR.LINFO of a
placed layer waits for the next launch while a step is launched, and takes effect at once outside one. FORCE_PROBE
makes every bucket of the next launch a probe. QCLEAR ends the quarantine of every digital unit, and is ignored while
RUN is 1. -/
def Obligations.RunControlAndSwitches : Prop :=
  (∀ s : State, s.hostOpen →
     (s.load.loaded = true → s.fb F.schCtrlRun = true → s.f F.schLoopState = 0 → s.passState = psIdle →
       s.pass.launched = false → s.pass.recover = false →
       (s.oldBody = false → exec .stepLaunch s = .next (s.takeSlot.launch false)) ∧
       (s.oldBody = true → exec .stepLaunch s = .next (s.modPup (fun p => { p with swLaunch := true })))) ∧
     (s.load.loaded = false ∨ s.fb F.schCtrlRun = false ∨ s.f F.schLoopState ≠ 0 ∨ s.passState ≠ psIdle ∨
         s.pass.launched = true ∨ s.pass.recover = true →
       exec .stepLaunch s = .next s) ∧
     (s.fb F.schCtrlRun = true → exec .tokenClearAll s = .next s) ∧
     (s.fb F.schCtrlRun = false → ∃ t : State, exec .tokenClearAll s = .next t ∧ (∀ k, t.tok k = none) ∧
       t.regs = s.regs ∧ ∀ sp a, t.rd sp a = s.rd sp a) ∧
     (s.resident = false → exec (.run true) s = .next (s.setF F.schCtrlRun 1)) ∧
     (s.resident = false → s.f F.schLoopState = 0 → exec (.run false) s = .next (s.setF F.schCtrlRun 0)) ∧
     (s.resident = false → s.f F.schLoopState = 1 → s.pass.launched = true →
       exec (.run false) s = .next ((s.setF F.schCtrlRun 0).setF F.schLoopState 2)) ∧
     (s.resident = false → let t := s.setF F.schCtrlRun 0
       exec (.run false) s = .next ((if t.f F.schLoopState = 1 then t.setF F.schLoopState 2 else t).tryHalt)) ∧
     (s.resident = true → ∀ on, exec (.run on) s = .next s)) ∧
  (∀ (s : State) (v h : Nat) (l : Layer), s.hostOpen →
     let vq := (s.setF F.memValleyQuotaHbmPages (bitsOf v 32 32)).setF F.memValleyQuotaChipPages (bitsOf v 0 8)
     let info := s.putLayer h { l with pendInfo := some (bitOf v 59, bitsOf v 60 2) }
     (exec (.quotaWrite true v) s =
       .next (if s.pass.launched then s.setF F.schDeferQuota v else (s.setF F.schDeferQuota v).applyQuotas)) ∧
     (exec (.quotaWrite false v) s = .next (if s.pass.launched then vq else vq.applyQuotas)) ∧
     (s.pass.launched = false → bitsOf v 32 32 ≤ (s.heapFree + s.val.hbmQuota * pageBytes) / pageBytes →
       ∃ t : State, exec (.quotaWrite false v) s = .next t ∧ t.val.hbmQuota = bitsOf v 32 32 ∧
         t.val.chipQuota = min 128 (bitsOf v 0 8)) ∧
     (s.f F.arrLselLayer = h → s.layer h = some l → exec (.linfoWrite v) s =
       .next (if s.pass.launched then info else info.takeInfo h)) ∧
     (s.layer (s.f F.arrLselLayer) = none → exec (.linfoWrite v) s = .next s) ∧
     (∃ t : State, exec .forceProbe s = .next t ∧ t.col.force = true ∧ t.regs = s.regs) ∧
     (s.fb F.schCtrlRun = false → ∃ t : State, exec .qclear s = .next t ∧ t.units.quarantined = [] ∧
       t.units.unsettled = s.units.unsettled) ∧
     (s.fb F.schCtrlRun = true → exec .qclear s = .next s))

/-- A register whose write has no effect of its own: it gives its fields what their access codes give them, while RUN
is `run` (R12, R13, R86, R102, R247). -/
def plainReg (reg : Nat) (run : Bool) : Bool :=
  !((0x11000 ≤ reg && reg < 0x12000) || (0x91000 ≤ reg && reg < 0x91300 && reg % 0x40 == 0)) &&
  !([0x00010, 0x00018, 0x00030, 0x10000, 0x10030, 0x100c0, 0x20020, 0x30000, 0x30048, 0x30090, 0x80000, 0x800c8, 0x90000,
     0xb0000, 0xc0008, 0xe0000, 0xe0058, 0xa0008].contains reg) &&
  !(run && [0x20010, 0x20018, 0x20030, 0x80018].contains reg)

/-- The writes of REGISTER_WRITE (R12, R13, R305, R337 to R340, R352, R372). A write that does not reach the device
has no effect, one in Deep is held, and one of a BAR that is closed is a violation. In BAR0 a write outside the map is
a violation of kind BAR_OFFSET and one whose width or alignment the register does not take of kind ACCESS_WIDTH; any
other has the register's effect, and a register without an effect of its own gives each field that may be written the
bits at its place, and leaves one that may only be read. The component registers and the pending bits take no write,
and the vector table its words. BAR2 takes doorbells and the wake of the ingest in writes of 8 bytes; BAR4 is the
window or, on a legacy host, the interface page. The reads of REGISTER_WRITE and HEAD_SEQ_READ (R339, R349, R352,
R424), EVT_RATE and MSIX_UNMASK (R349, R421). A read of EVT.HEAD_SEQ latches the sequence number and offset of the
next record and of the oldest of the selected ring and returns what it covers of the first; a read of another register
returns its value and changes nothing; one outside the map, of a wrong width or of a closed BAR is a violation and
returns zero. A write of EVT.RATE sets mask, burst and rate of the selected code and fills its bucket to its burst. A
vector that is unmasked while its pending bit is set is sent, and the bit clears; one that is not pending sends
nothing. -/
def Obligations.RegisterAccesses : Prop :=
  (∀ (s : State) (bar off bytes v : Nat),
     let c := Instr.registerWrite bar off bytes (some v)
     let reg := off / 8 * 8
     (s.barReached = false → exec c s = .next s) ∧
     (s.barReached = true → s.pst_ = 3 → bar ≠ 2 → exec c s = .next (s.latchAccess c)) ∧
     (s.barReached = true → s.pst_ ≠ 3 → s.barClosed = true → ¬ (bar = 0 ∧ inSec off = true) →
       exec c s = .next (s.violation 5)) ∧
     (s.barReached = true → s.pst_ ≠ 3 → bar = 0 → inSec off = true → exec c s = .next (s.bar0Write off bytes v)) ∧
     (s.hostOpen →
       (bar = 0 → off < 0x100000 → fieldsAt reg = none → exec c s = .next (s.violation 5)) ∧
       (∀ xs, bar = 0 → off < 0x100000 → fieldsAt reg = some xs →
         let r := s.regWrite xs off bytes v
         (widthOk off bytes = false → exec c s = .next (s.violation 6)) ∧
         (widthOk off bytes = true → s.boot.stopped = true → reg ≠ 0xc0008 → exec c s = .next (s.violation 5)) ∧
         (widthOk off bytes = true → s.boot.stopped = false ∨ reg = 0xc0008 → exec c s = .next (s.regEffect reg xs r)) ∧
         (widthOk off bytes = true → s.boot.stopped = false → plainReg reg (s.fb F.schCtrlRun) = true →
           ∃ t : State, exec c s = .next t ∧ (∀ sp a, t.rd sp a = s.rd sp a) ∧ ∀ x ∈ xs, t.f x =
             if r.touches x = false then s.f x
             else match x.acc with
               | .rw | .rws => r.value x / 2 ^ x.align * 2 ^ x.align % 2 ^ x.w
               | .w1c => if r.hits x then 0 else s.f x
               | .ro | .wo => s.f x)) ∧
       (bar = 0 → 0x100000 ≤ off → exec c s = .next (
         if off < 0x110000 ∨ (0x188000 ≤ off ∧ off < 0x188100) then s
         else if 0x180000 ≤ off ∧ off < 0x188000 then s.msixWrite (off - 0x180000) bytes v else s.violation 5)) ∧
       (bar = 2 → let q := off / 0x1000
         exec c s = .next (
           if off ≠ 0x40000 ∧ ¬ (off % 0x1000 = 0 ∧ off < 0x40000) then s.violation 5
           else if bytes ≠ 8 then s.violation 6
           else if off = 0x40000 then s.modPup (fun p => { p with polled := 0 })
           else let t := s.wakeUp 1
             if s.doorbellBad q v then t.violation 1 else t.setF (F.schQPtrTail q) v)) ∧
       (bar = 4 → exec c s = .next (if s.pcieMode then s.barWindow off bytes (some (leBytes bytes v))
         else s.legacyWrite off bytes v)) ∧
       (bar ∉ [0, 2, 4] → exec c s = .next (s.violation 5)))) ∧
  (∀ (s : State) (bar off bytes v vec : Nat),
     let c := Instr.registerWrite bar off bytes none
     let reg := off / 8 * 8
     let ret (b : List Byte) : State := { s with out := { s.out with data := s.out.data ++ [(b, false)] } }
     let latched (t : State) : Prop :=
       t.f F.evtHeadSeq = s.selectedRing.headSeq % 2 ^ 64 ∧ t.f F.evtHeadOff = s.selectedRing.head % 2 ^ 32 ∧
       t.f F.evtTailSeq = s.selectedRing.tailSeq % 2 ^ 64 ∧ t.f F.evtTailOff = s.selectedRing.tailOff % 2 ^ 32
     (s.barReached = false → exec c s = .next s) ∧
     (s.barReached = true → s.pst_ = 3 → exec c s = .next (s.latchAccess c)) ∧
     (s.barReached = true → s.pst_ ≠ 3 → s.barClosed = true → ¬ (bar = 0 ∧ inSec off = true) →
       exec c s = .next (s.badRead 5 bytes)) ∧
     (s.barReached = true → s.pst_ ≠ 3 → bar = 0 → inSec off = true → exec c s = .next (s.bar0Read off bytes)) ∧
     (s.barReached = false → exec .headSeqRead s = .next s) ∧
     (s.barReached = true → s.pst_ = 3 → exec .headSeqRead s = .next (s.latchAccess .headSeqRead)) ∧
     (s.barReached = true → s.pst_ ≠ 3 → s.barClosed = true → exec .headSeqRead s = .next (s.badRead 5 8)) ∧
     (s.hostOpen →
       (∃ t : State, exec .headSeqRead s = .next t ∧ latched t ∧
         t.out.data = s.out.data ++ [(leBytes 8 s.selectedRing.headSeq, false)]) ∧
       (bar = 0 → reg = 0xe0018 → widthOk off bytes = true → ∃ t : State, exec c s = .next t ∧ latched t ∧
         t.out.data = s.out.data ++
           [(leBytes bytes (bitsOf (s.selectedRing.headSeq % 2 ^ 64) (8 * (off % 8)) (8 * bytes)), false)]) ∧
       (∀ xs, bar = 0 → off < 0xe8000 → fieldsAt reg = some xs → reg ≠ 0xe0018 → widthOk off bytes = true →
         exec c s = .next (ret (leBytes bytes (bitsOf (s.wordOf xs) (8 * (off % 8)) (8 * bytes))))) ∧
       (bar = 0 → off < 0xe8000 → fieldsAt reg = none → exec c s = .next (s.badRead 5 bytes)) ∧
       (bar = 0 → off < 0xe8000 → fieldsAt reg ≠ none → widthOk off bytes = false → exec c s = .next (s.badRead 6 bytes)) ∧
       (bar = 2 → off = 0x40000 ∨ (off % 0x1000 = 0 ∧ off < 0x40000) → exec c s = .next (ret (leBytes bytes 0))) ∧
       (bar = 0 → 0xe8000 ≤ off → exec c s = .next (s.bar0Read off bytes)) ∧
       (bar = 4 → exec c s = .next (if s.pcieMode then s.barWindow off bytes none else s.legacyRead off bytes)) ∧
       (∃ t : State, exec (.evtRate v) s = .next t ∧ (t.rateOf (s.f F.evtRateSel)).mask = bitOf v 24 ∧
         (t.rateOf (s.f F.evtRateSel)).burst = bitsOf v 16 8 ∧ (t.rateOf (s.f F.evtRateSel)).rate = bitsOf v 0 16 ∧
         (t.rateOf (s.f F.evtRateSel)).level = max 1 (bitsOf v 16 8) * 3125000 ∧
         ∀ code, code ≠ s.f F.evtRateSel → t.rateOf code = s.rateOf code) ∧
       (vec < 2048 → ∃ t : State, exec (.msixUnmask vec) s = .next t ∧ vec ∈ t.cxl.msixOpen ∧ vec ∉ t.cxl.pba ∧
         t.out.msix = (if vec ∈ s.cxl.pba then s.out.msix ++ [vec] else s.out.msix)) ∧
       (2048 ≤ vec → exec (.msixUnmask vec) s = .next s)))

/-- PROGRAM_LOAD (R59, R82, R84, R382, R432). With a rank table of the right form that names this device once, and a
heap that lies in HBM and holds what the load reserves, the program is loaded for that rank. In lifecycle BLANK or
RETIRED it raises EV_SEC_STATE_REFUSED; beside the replay it sets LOAD_REFUSED; a table that is wrong raises
EV_SCH_RANK_TABLE; a heap that is too small or reaches beyond the memory of programs raises EV_MEM_FULL. None of these
loads anything. -/
def Obligations.ProgramLoadsOrRefuses : Prop :=
  ∀ (s : State) (r : Nat), s.hostOpen →
    let lc := s.f F.secStatusLifecycle
    let need := loadBytes (s.f F.memSeesawParams) s.bucketLimit s.tableN
    let top := s.f F.memHeapBase + s.f F.memHeapSize
    (lc ≠ 0 → lc ≠ 3 → s.resident = false → s.tableOk = true → s.ownRanks = [r] →
      exec .programLoad s = .next (if hbmProgTop < top then s.ev 0xb001 unitSched 0 (s.f F.memHeapSize)
        else if s.f F.memHeapSize < need then s.ev 0xb001 unitSched 0 need else s.loadNow r)) ∧
    (lc = 0 ∨ lc = 3 → exec .programLoad s = .next (s.ev 0xa007 unitSec lc 0)) ∧
    (lc ≠ 0 → lc ≠ 3 → s.resident = true → exec .programLoad s = .next (s.setF F.devReplayStatusLoadRefused 1)) ∧
    (lc ≠ 0 → lc ≠ 3 → s.resident = false → (s.tableOk = false ∨ s.ownRanks.length ≠ 1) →
      exec .programLoad s = .next (s.ev 0x0025 unitSched s.ownRanks.length 0))

/-- LOOP_LAUNCH, SETTLE_EXPIRY and INGEST_STALL (R58, R87, R226, R302, R303, R306). The loop launches the next step
when a batch is present and the settling time of the last has run out, and launches a step that is to be replayed with
the batch it holds, or with the batch present for it where it holds none. SETTLE_EXPIRY notes that the time has run
out, and not before it has. A step that waits for its batch for longer than TIMEOUT raises EV_SVC_INGEST_STALL once.
-/
def Obligations.LoopAdvances : Prop :=
  ∀ (s : State) (k at_ : Nat),
    (s.mayLaunch = true → s.sec.halted = false → s.pup.swLaunch = false → s.looping = true → s.pup.settled = true →
      s.pst_ < 2 →
      (s.pup.next = .next → s.presentSlot = some k → exec .loopLaunch s = .next (s.takeSlot.launch false)) ∧
      (s.pup.next = .replay → s.pup.mine = true → exec .loopLaunch s = .next (s.launch true)) ∧
      (s.pup.next = .replay → s.pup.mine = false → s.presentSlot = some k →
        exec .loopLaunch s = .next (s.takeSlot.launch false)) ∧
      (s.pup.next = .next ∨ (s.pup.next = .replay ∧ s.pup.mine = false) → s.presentSlot = none →
        exec .loopLaunch s = .next s)) ∧
    (s.mayLaunch = true → s.sec.halted = false → s.pup.swLaunch = true → exec .loopLaunch s =
      .next (((s.modPup (fun p => { p with swLaunch := false })).takeSlot).launch false)) ∧
    (s.mayLaunch = false → exec .loopLaunch s = .next s) ∧
    (s.pup.settled = false → s.col.settleAt ≤ s.aon → ∃ t : State, exec .settleExpiry s = .next t ∧ t.pup.settled = true ∧
      t.pup.waitFrom = some s.aon ∧ t.regs = s.regs) ∧
    (s.aon < s.col.settleAt → exec .settleExpiry s = .next s) ∧
    (s.pup.waitFrom = some at_ → s.pup.stallSeen = false →
      (s.pup.next = .next ∨ (s.pup.next = .replay ∧ s.pup.mine = false)) → s.pup.settled = true →
      s.presentSlot = none → s.looping = true → at_ + max 1 (s.f F.schIngestCfgTimeout) * 3125 < s.aon →
      exec .ingestStall s =
        .next ((s.modPup (fun p => { p with stallSeen := true })).ev 0x0032 unitPuppeteer 0 s.cursor))

/-- INGEST_POLL, INGEST_TAKE and BATCH_PRESENT (R305, R306). A look reads PROD from the ring's header, and a value
beyond KEEP plus the ring is a violation and counts as the ring's end; an entry that checks fills the free slot, and
one whose length or address is bad fills none, is reported, and TAKEN passes it with STATUS 2; a batch that has been
read lies in its slot behind its header, and TAKEN passes its entry with STATUS 1. A read that the host fails counts
as an error: the look learns nothing, and the entry or batch fills no slot. -/
def Obligations.IngestReadsTheRing : Prop :=
  ∀ (s : State) (k : Nat),
    let a := s.entryAddr s.cursor
    let addr := s.rdNat 2 a 8
    let len := s.rdNat 2 (a + 8) 4
    let x := s.batchSlot k
    let prod := s.rdNat 2 (s.f F.schIngestBase) 8
    (s.ingests = true → s.freeSlot = some k → s.pup.prod ≤ s.cursor → s.pup.polled ≤ s.aon →
      s.f F.schIngestBase + 8 ≤ hostTop → ∃ t : State, exec (.ingestPoll .ok) s = .next t ∧
        t.pup.prod = min prod (s.f F.schIngestKeep + s.ringSize) ∧ s.aon < t.pup.polled) ∧
    (s.ingests = true → s.freeSlot = some k → s.pup.prod ≤ s.cursor → s.pup.polled ≤ s.aon → ∀ o, o ≠ .ok →
      ∃ t : State, exec (.ingestPoll o) s = .next t ∧ t.pup.prod = s.pup.prod ∧ s.aon < t.pup.polled) ∧
    (s.ingests = true → s.freeSlot = some k → s.cursor < s.pup.prod → ∀ o, o ≠ .ok →
      ∃ free, exec (.ingestTake o) s = .next ((s.readErrors o).ingestBad free)) ∧
    (s.ingests = true → [0, 1].find? (fun k => (s.batchSlot k).state == .filling) = some k → ∀ o,
      o ≠ .ok ∨ hostTop < x.addr + x.length → exec (.batchPresent o) s = .next ((s.readErrors o).ingestBad x.id)) ∧
    (s.ingests = true → s.freeSlot = some k → s.cursor < s.pup.prod → a + 64 ≤ hostTop → len ≠ 0 →
      len + 64 ≤ s.f F.schBatchSize → addr % 64 = 0 →
      exec (.ingestTake .ok) s = .next ((s.modPup (fun p => { p with readFails := 0 })).putSlot k
        { state := .filling, cursor := s.cursor, id := s.rdNat 2 (a + 16) 8, length := len, addr := addr })) ∧
    (s.ingests = true → s.freeSlot = some k → s.cursor < s.pup.prod → a + 64 ≤ hostTop →
      (len = 0 ∨ s.f F.schBatchSize < len + 64 ∨ addr % 64 ≠ 0) →
      exec (.ingestTake .ok) s = .next (s.ingestBad (s.rdNat 2 (a + 16) 8))) ∧
    (s.ingests = true → [0, 1].find? (fun k => (s.batchSlot k).state == .filling) = some k →
      x.addr + x.length ≤ hostTop →
      exec (.batchPresent .ok) s = .next (((((s.wrBytes 1 (s.slotBase k + 64) (s.rdBytes 2 x.addr x.length)).wrBytes 1
        (s.slotBase k) (leBytes 8 x.id ++ leBytes 8 x.length ++ leBytes 8 x.cursor ++ leBytes 40 0)).unpoison 1
        (s.slotBase k) (64 + x.length)).putSlot k { x with state := .present }).entryDone 1))

/-- LOOP_START, LOOP_STOP and LOOP_RESTART (R226, R302, R313). LOOP_START in HALTED with RUN 1 and a program loaded
runs the loop with its step limit and ends with OK; from another state, or while halt is granted, it ends with
BAD_STATE, and a limit that lies behind or does not fit 32 bits with BAD_ARG. LOOP_STOP in a running loop begins to
stop it, and is done at once where no step is out; in another state it ends with BAD_STATE. LOOP_RESTART runs a
STOPPED loop again, with fences and a recovery, and replays the step where it asks for no rollback. A frozen or
restoring pass, and the replay, refuse commands. RESTORE_HOST, CKPT_NOW, FW_STAGE, FW_ACTIVATE and SERVICE_BAD_CMD
(R309, R310, R313, R314). A host copy that checks is restored, and the command stays in progress until the rollback
has run; a bad one ends the command with BAD_ARG, a running loop with BAD_STATE, and a host that does not answer with
HOST_LOST. CKPT_NOW asks for a checkpoint of the next committed step and stays in progress. An image that verifies
goes into the spare bank and shows as staged, and one that does not, or whose length or place is wrong, ends with
VERIFY_FAIL and leaves nothing staged; a staged bank is marked to boot next. A code that the table does not list ends
with BAD_CMD, each of these writes while a command is in progress is a violation, and one whose block cannot be read
now waits. -/
def Obligations.LoopAndMailboxCommands : Prop :=
  (∀ (s : State) (v : Nat) (x : SvcCmd),
     let b := s.beginCmd v
     let ready := b.f F.schLoopState = 0 ∧ b.fb F.schCtrlRun = true ∧ b.load.loaded = true ∧ b.f F.secStatusDebug ≠ 2
     let fits := (x.arg0 = 0 ∨ b.c < x.arg0) ∧ x.arg0 < 2 ^ 32
     let again := ((b.setF F.schLoopState 1).setF F.schLoopReason 0).setPst psIdle
     (s.takesCmd v 1 x →
       (ready → fits → exec (.loopStart v) s = .next (((((b.setF F.schLoopStepLimit x.arg0).setF F.schLoopState 1).setF
         F.schLoopReason 0).modPup (fun p => { p with
           ringLog2 := max 4 (min 20 (b.f F.schIngestCfgLog2)), waitFrom := some b.aon, stallSeen := false
           next := if p.mine then .replay else .next })).endCmd 0 0)) ∧
       (ready → ¬ fits → exec (.loopStart v) s = .next (b.endCmd 2 0)) ∧
       (¬ ready → exec (.loopStart v) s = .next (b.endCmd 1 0))) ∧
     (s.takesCmd v 2 x →
       (b.looping = true → exec (.loopStop v) s = .next ((b.setF F.schLoopState 2).tryHalt)) ∧
       (b.looping = true → b.pass.launched = true → exec (.loopStop v) s = .next (b.setF F.schLoopState 2)) ∧
       (b.looping = true → b.pass.launched = false → b.pass.recover = false → b.pup.next ≠ .replay → x.cmd = 2 →
         ∃ t : State, exec (.loopStop v) s = .next t ∧ t.f F.schLoopState = 0 ∧ t.f F.schSvcStatusBusy = 0) ∧
       (b.looping = false → exec (.loopStop v) s = .next (b.endCmd 1 0))) ∧
     (s.takesCmd v 3 x →
       (b.f F.schLoopState = 3 → b.isActive = true → b.f F.secStatusDebug ≠ 2 → x.arg0 = 1 →
         exec (.loopRestart v) s = .next ((((again.startRecovery 3 b.stepNow).endCmd 0 0).tryClears))) ∧
       (b.f F.schLoopState = 3 → b.isActive = true → b.f F.secStatusDebug ≠ 2 → x.arg0 = 0 →
         exec (.loopRestart v) s = .next (((((again.startRecovery 0 b.stepNow).replayNext false).endCmd 0 0).tryClears))) ∧
       (b.f F.schLoopState = 3 → b.isActive = true → b.f F.secStatusDebug ≠ 2 → 1 < x.arg0 →
         exec (.loopRestart v) s = .next (b.endCmd 2 0)) ∧
       (b.f F.schLoopState ≠ 3 ∨ b.isActive = false ∨ b.f F.secStatusDebug = 2 →
         exec (.loopRestart v) s = .next (b.endCmd 1 0))) ∧
     (∀ c k, (c, k) ∈ [(Instr.loopStart v, 1), (.loopStop v, 2), (.loopRestart v, 3), (.restoreHost v, 4), (.ckptNow v, 5),
         (.fwActivate v, 7)] → s.cmdBegins v k x → s.refusesCmd k → exec c s = .next (b.endCmd 1 0))) ∧
  (∀ (s : State) (v : Nat) (x : SvcCmd),
     let b := s.beginCmd v
     let good := x.arg0 + 4096 ≤ hostTop ∧ b.load.loaded = true ∧ b.ckptOk 2 x.arg0 none = true ∧
       b.hdr 2 x.arg0 24 2 = b.f F.schRankRank ∧ b.hdr 2 x.arg0 28 4 = b.n
     let img := imageOf (b.rdBytes x.space x.arg0 x.arg1)
     let fits := 5632 ≤ x.arg1 ∧ x.arg1 ≤ 5632 + 0x4000000 ∧ x.arg0 + x.arg1 ≤ (if x.space = 1 then hbmTop else hostTop)
     let rows := [Instr.loopStart v, .loopStop v, .loopRestart v, .restoreHost v, .ckptNow v, .fwStage v, .fwActivate v,
       .serviceBadCmd v]
     (s.takesCmd v 4 x →
       (b.looping = false → b.hostReady = true → good →
         exec (.restoreHost v) s = .next (((((b.withdraw.abandonCkpts.restoreFrom 2 x.arg0 true).setPst psRestore).modPass
           (fun p => { p with stage := 2, target := b.hdr 2 x.arg0 8 4 })).modPup
           (fun p => { p with cmd := some { x with step := some (b.hdr 2 x.arg0 8 4) } })))) ∧
       (b.looping = false → b.hostReady = true → ¬ good → exec (.restoreHost v) s = .next (b.endCmd 2 0)) ∧
       (b.looping = false → b.hostReady = false → exec (.restoreHost v) s = .next (b.endCmd 4 0)) ∧
       (b.looping = true → exec (.restoreHost v) s = .next (b.endCmd 1 0))) ∧
     (s.takesCmd v 5 x → exec (.ckptNow v) s = .next (b.modPass (fun p => { p with ckptCmd := true }))) ∧
     (s.takesCmd v 6 x → b.boot.update = false →
       (fits → b.imageFault img true = 0 → exec (.fwStage v) s = .next
         (((b.putBank b.spareBank (some img)).setF F.schSvcStatusStaged 1).endCmd 0 0)) ∧
       (¬ fits ∨ b.imageFault img true ≠ 0 → exec (.fwStage v) s = .next
         (((b.putBank b.spareBank none).setF F.schSvcStatusStaged 0).endCmd 3 0))) ∧
     (s.takesCmd v 6 x → b.boot.update = true → exec (.fwStage v) s = .next (b.endCmd 1 0)) ∧
     (s.takesCmd v 7 x → exec (.fwActivate v) s = .next (
       if b.looping = false ∧ b.fb F.schSvcStatusStaged = true then
         (({ b with boot := { b.boot with next := some b.spareBank } } : State).setF F.schSvcStatusActivate 1).endCmd 0 0
       else b.endCmd 1 0)) ∧
     (∀ k, s.cmdBegins v k x → (k = 0 ∨ 7 < k) → exec (.serviceBadCmd v) s = .next (b.endCmd 5 0)) ∧
     (s.hostOpen → s.fb F.schSvcStatusBusy = true → ∀ c ∈ rows, exec c s = .next (s.violation 3)) ∧
     (s.hostOpen → s.fb F.schSvcStatusBusy = false → s.svcReadable v = false → ∀ c ∈ rows,
       exec c s = .next (s.svcWait v)))

/-- READY_SEND, READY and FAIL (R219 to R222, R234). When its conditions hold a rank combines its READY with those of
its children, stands READY, and sends the combined READY to its parent, or answers where it is the root; a child's
READY of another VERSION is a failed check with reason TABLE, one of another STEP or BCSTEP with reason COUNTER, and a
rank table that cannot be read with reason PROGRAM. While they do not hold nothing is sent. A child's READY that
arrives is held, and the root answers if it can; one from a rank that is no child has no effect. A rank that has a
failed check to report sends FAIL once and stands FAILED; a child's FAIL is passed on at once when none of equal or
earlier reason came before it, and the root holds it and answers. COMMIT, VETO and RESUME (R26 to R28, R222 to R227,
R242, R245, R247). The root acts on the answer it has given alone; on another rank the message goes on to the
children, COMMIT also to the ranks that a changed table brings together, before the rank acts on it. COMMIT acts only
on a rank that stands READY, and RESUME only on one that recovers; a rank that recovers takes a VETO only of policy
STOP, and one that is stopped none. A rank that is not active takes the table from COMMIT. -/
def Obligations.ReadyFailAndAnswers : Prop :=
  (∀ (s : State) (c p : Nat) (m : CtlMsg) (x : Nat × Nat),
     let ms := s.pass.readies.map (fun x => x.2)
     let all := ms.foldl CtlMsg.combine s.ownReady
     let ready := ((s.copyUnbucketed.noteJumps).modPass (fun q => { q with ready := some all })).setPst psReady
     let failed := if s.takesReady then (s.modPass (fun q => { q with failSent := true })).setPst psFailed
       else s.modPass (fun q => { q with failSent := true })
     let first := s.pass.fails.all (fun x => decide (reasonRank m.reason < reasonRank x.reason))
     (s.readyDue = true → s.tablePoisoned = false →
       ((∀ y ∈ ms, y.version = s.version ∧ y.step = s.stepNow ∧ y.bcstep = s.bcNow) → exec .readySend s = .next
         (match ready.parent with
           | some p => ready.sendCtl p all
           | none => ready.passAnswer)) ∧
       ((∃ y ∈ ms, y.version ≠ s.version) → exec .readySend s = .next (s.failCheck rsnTable netDetail)) ∧
       ((∀ y ∈ ms, y.version = s.version) → (∃ y ∈ ms, y.step ≠ s.stepNow ∨ y.bcstep ≠ s.bcNow) →
         exec .readySend s = .next (s.failCheck rsnCounter netDetail))) ∧
     (s.readyDue = true → s.tablePoisoned = true →
       exec .readySend s = .next (s.failCheck rsnProgram (netDetail + eccCode))) ∧
     (s.readyDue = false → exec .readySend s = .next s) ∧
     (m.type = 1 → c ∈ s.children → s.takesReady = true → exec (.ready c m) s = .next
       (s.modPass (fun p => { p with readies := mput c m p.readies })).passAnswer) ∧
     (m.type ≠ 1 ∨ c ∉ s.children ∨ s.takesReady = false → exec (.ready c m) s = .next s) ∧
     (s.pass.fail = some x → s.pass.failSent = false → exec (.fail s.me m) s = .next
       (match failed.parent with
         | some p => failed.sendCtl p (s.ownFail x)
         | none => (failed.modPass (fun q => { q with fails := q.fails ++ [s.ownFail x] })).passAnswer)) ∧
     (s.pass.fail = none ∨ s.pass.failSent = true → exec (.fail s.me m) s = .next s) ∧
     (c ≠ s.me → m.type = 2 → c ∈ s.children → s.takesReady = true ∨ (s.takesState = true ∧ m.reason = rsnState) →
       let held := s.modPass (fun q => { q with fails := q.fails ++ [m] })
       (s.parent = some p → exec (.fail c m) s = .next (if first then held.sendCtl p m else s)) ∧
       (s.parent = none → exec (.fail c m) s = .next held.passAnswer))) ∧
  (∀ (s : State) (m : CtlMsg),
     let told (t : State) : State := match s.pass.table with
       | none => t
       | some x => t.sendTo (t.tableDests x) m
     (s.isActive = true → s.isRoot = false →
       (m.type = 3 → s.load.loaded = true → s.passState = psReady → s.pass.table = (s.sendAll s.children m).pass.table →
         exec (.commit m) s = .next ((told (s.sendAll s.children m)).commitStep m)) ∧
       (m.type = 3 → s.passState ≠ psReady → exec (.commit m) s = .next s) ∧
       (m.type = 4 → s.passState ≠ psStopped → s.pass.recover = false ∨ m.policy = 2 →
         exec (.veto m) s = .next ((s.sendAll s.children m).vetoStep m)) ∧
       (m.type = 6 → s.pass.recover = true → exec (.resume m) s = .next ((s.sendAll s.children m).resumeStep m))) ∧
     (s.isActive = true → s.isRoot = true → s.pass.answer = some m →
       (m.type = 3 → s.load.loaded = true → exec (.commit m) s = .next ((told s).commitStep m)) ∧
       (m.type = 4 → s.passState ≠ psStopped → s.pass.recover = false ∨ m.policy = 2 →
         exec (.veto m) s = .next (s.vetoStep m)) ∧
       (m.type = 6 → s.pass.recover = true → exec (.resume m) s = .next (s.resumeStep m))) ∧
     (s.isRoot = true → s.pass.answer ≠ some m → s.isActive = true →
       exec (.commit m) s = .next s ∧ exec (.veto m) s = .next s ∧ exec (.resume m) s = .next s) ∧
     (m.type = 3 → s.load.loaded = true → s.isActive = false → exec (.commit m) s = .next s.applyTable.minded) ∧
     (s.passState = psStopped ∨ (s.pass.recover = true ∧ m.policy ≠ 2) → exec (.veto m) s = .next s) ∧
     (s.pass.recover = false → exec (.resume m) s = .next s))

/-- CLEAR, ROLLBACK and ROLLBACK_COMPLETE (R226, R240 to R242, R310, R459): a child's CLEAR is held with its DETAIL,
its count and its checkpoint, in place of an earlier one of that DETAIL, and the rank's own CLEAR leaves when all are
there. ROLLBACK goes on to the children and then restores the checkpoint of its step. With its tiles programmed the
rank writes the pointer of the epoch with the target step and owes CLEAR with DETAIL 1; a RESTORE_HOST ends with OK
and the step restored, and the pass stands IDLE. While a tile is being programmed the rollback goes on.
HEARTBEAT_SEND, HEARTBEAT, HEARTBEAT_MISS, FAILNOTE and TAKEOVER (R239, R240, R242, R243). A heartbeat leaves for
every neighbour each 64 µs and not before, and one that arrives from a neighbour makes its sender heard now. A
neighbour that has been silent for three heartbeats is declared failed, and not before: the note of it floods once for
a rank and a VERSION, and the rank takes it in; a FAILNOTE that was seen before goes no further. A TAKEOVER is taken
once, when its VERSION is above every one accepted, and the leader sends the one it proposes. -/
def Obligations.RecoveryRuns : Prop :=
  (∀ (s : State) (c step : Nat) (m : CtlMsg),
     (m.type = 5 → c ∈ s.children → m.detail ≤ 1 → exec (.clear c m) s = .next (s.modPass (fun p => { p with
       clears := p.clears.filter (fun x => x.1 != c || x.2.1 != m.detail) ++ [(c, m.detail, m.count, m.ckpt)] })).tryClears) ∧
     (m.type ≠ 5 ∨ c ∉ s.children ∨ 1 < m.detail → exec (.clear c m) s = .next s) ∧
     (m.type = 5 → c ∈ s.children → m.detail = 0 → s.pass.recover = false → ∃ t : State,
       exec (.clear c m) s = .next t ∧ (c, 0, m.count, m.ckpt) ∈ t.pass.clears ∧ t.out = s.out) ∧
     (m.type = 7 → s.isActive = true → s.pass.recover = true → s.passState ≠ psRestore →
       (s.isRoot = false → exec (.rollback m) s = .next ((s.sendAll s.children m).rollbackStep m)) ∧
       (s.isRoot = true → exec (.rollback m) s = .next (if s.pass.answer = some m then s.rollbackStep m else s))) ∧
     (s.passState = psRestore → s.pass.stage = 2 → s.reprogramming = false → s.restoring = none →
       exec .rollbackComplete s = .next ((((s.writePointer s.pass.target (s.f F.colEpochSel)).rebind).modPass
         (fun p => { p with stage := 3 })).tryClears).minded) ∧
     (s.passState = psRestore → s.pass.stage = 2 → s.reprogramming = false → s.restoring = some step →
       exec .rollbackComplete s = .next (((((s.writePointer step (s.f F.colEpochSel)).setPst psIdle).modPass
         (fun p => { p with stage := 0 })).setF F.schLoopState 0).endCmd 0 step)) ∧
     (s.reprogramming = true → exec .rollbackComplete s = .next s)) ∧
  (∀ (s : State) (f c : Nat) (m x : CtlMsg), s.load.loaded = true →
     (exec .heartbeatSend s = .next (if s.pass.beat + 200 ≤ s.aon then
       (s.sendAll s.neighbours (s.msg 8)).modPass (fun p => { p with beat := s.aon }) else s)) ∧
     (m.type = 8 → f ∈ s.neighbours → exec (.heartbeat f m) s =
       .next (s.modPass (fun p => { p with heard := mput f s.aon p.heard }))) ∧
     (m.type ≠ 8 ∨ f ∉ s.neighbours → exec (.heartbeat f m) s = .next s) ∧
     (f ∈ s.neighbours → (mget f s.pass.heard).getD 0 + 607 ≤ s.aon → (f, s.version) ∉ s.pass.noted →
       exec (.heartbeatMiss f) s = .next (((s.noted f s.version).flood (s.failMsg f) none).noteFailed f)) ∧
     (f ∉ s.neighbours ∨ s.aon < (mget f s.pass.heard).getD 0 + 607 ∨ (f, s.version) ∈ s.pass.noted →
       exec (.heartbeatMiss f) s = .next s) ∧
     (m.type = 9 → (m.origin, m.version) ∉ s.pass.noted →
       exec (.failnote c m) s = .next (((s.noted m.origin m.version).flood m (some c)).noteFailed m.origin)) ∧
     (m.type = 9 → (m.origin, m.version) ∈ s.pass.noted → exec (.failnote c m) s = .next s) ∧
     (c ≠ s.f F.schRankRank → m.type = 10 → max s.version s.pass.tko.version < m.version →
       exec (.takeover c m) s = .next ((s.flood m (some c)).acceptTakeover m)) ∧
     (c ≠ s.f F.schRankRank → m.type ≠ 10 ∨ m.version ≤ max s.version s.pass.tko.version →
       exec (.takeover c m) s = .next s) ∧
     (s.pass.tko.proposal = some x →
       exec (.takeover (s.f F.schRankRank) m) s = .next ((s.flood x none).acceptTakeover x)) ∧
     (s.pass.tko.proposal = none → exec (.takeover (s.f F.schRankRank) m) s = .next s))

/-- DIGEST_COMPUTE, DIGEST_DOWN, DIGEST_UP and CHECKPOINT_CONFIRM (R235, R236, R238, R299, R309, R313). The own
digests are computed, and the root sends its own to the children; the root's digest goes on to the children, is the
reference from then on and is compared; a child's result is noted once for its step. A checkpoint whose comparison was
clean and whose copies are written is read back from its area: one that checks is confirmed, the local checkpoint is
its step, and the instructions and the command that waited for it end; one that does not is taken again at a later
step. JOIN, JOINED and TABLE (R244, R245). The leader records a device that asks to join for the first VACANT entry
that none before it waits for and answers it, or refuses it when none is left or a device of another tag stands in the
table; while a takeover waits for a spare, a spare that joins is assigned. A rank that does not lead passes the JOIN
to the leader, and a device that stands outside the program sends its own. A device that is accepted for a waiting
takeover learns its rank and stands IDLE with its loop HALTED. A TABLE goes on to the children, the spares and the new
partners, and is kept for the COMMIT that follows. -/
def Obligations.DigestsCheckpointsAndJoins : Prop :=
  (∀ (s : State) (c : Nat) (m : CtlMsg) (j : CkptJob),
     let due := s.pass.ckpts.find? (fun j => j.clean && !s.buddyOut j.area && (j.host.isNone || s.hostReady))
     let kept := (s.lateHostCopy j).setCkpts (s.pass.ckpts.filter (fun x => x != j))
     let sound := kept.ckptOk 1 (kept.areaAddr j.area) (some j.step) = true ∧ kept.areaPoisoned j.area = false
     let done := j.ids.foldl (fun t id => t.modInst id (fun i => i.finish 0 0 j.step)) (kept.setF F.colCkptStatusLocal j.step)
     (∀ d, s.pass.digs = [d] → d.own = none → d.root = none → s.isRoot = false → s.digestPoisoned = false →
       exec .digestCompute s = .next (({ s with pass := { s.pass with
         digs := [{ d with own := some (s.digestOf d.step) }] } } : State).showDigest (s.digestOf d.step))) ∧
     (∀ d, s.pass.digs = [d] → d.own = none → d.root = none → s.isRoot = true → s.digestPoisoned = false →
       let t := ({ s with pass := { s.pass with digs := [{ d with own := some (s.digestOf d.step) }] } } : State).showDigest
         (s.digestOf d.step)
       exec .digestCompute s = .next ((((t.setRootDigest d.step (s.digestOf d.step)).sendAll t.children
         { type := 11, step := d.step, version := t.version, origin := 0, digest := s.digestOf d.step }).compareOwn
         d.step).digestOn d.step)) ∧
     (∀ d x, s.pass.digs = [d] → d.own = none → d.root = some x → s.digestPoisoned = false →
       exec .digestCompute s = .next (((({ s with pass := { s.pass with
         digs := [{ d with own := some (s.digestOf d.step) }] } } : State).showDigest (s.digestOf d.step)).compareOwn
         d.step).digestOn d.step)) ∧
     (s.pass.digs = [] → exec .digestCompute s = .next s.computeDigests) ∧
     (m.type = 11 → s.isRoot = false → exec (.digestDown m) s = .next (((((s.startDigest m.step).setRootDigest m.step
       m.digest).sendAll ((s.startDigest m.step).setRootDigest m.step m.digest).children m).compareOwn m.step).digestOn m.step)) ∧
     (m.type ≠ 11 ∨ s.isRoot = true → exec (.digestDown m) s = .next s) ∧
     (m.type = 12 → c ∈ s.children → ∃ t : State, exec (.digestUp c m) s = .next (t.digestOn m.step) ∧ t.regs = s.regs ∧
       ∀ d ∈ t.pass.digs, d.step = m.step → ∃ u ∈ d.ups, u.1 = c) ∧
     (m.type ≠ 12 ∨ c ∉ s.children → exec (.digestUp c m) s = .next s) ∧
     (due = some j → sound → exec .checkpointConfirm s = .next (if j.cmd then done.endCmd 0 j.step else done)) ∧
     (due = some j → ¬ sound →
       exec .checkpointConfirm s = .next (kept.waitCkpt (kept.pass.ckptIds ++ j.ids) (kept.pass.ckptCmd || j.cmd))) ∧
     (due = none → exec .checkpointConfirm s = .next s)) ∧
  (∀ (s : State) (c l r : Nat) (m : CtlMsg), s.load.loaded = true →
     let tag := nth m.digest 0
     let known := s.allRanks.find? (fun r => s.rankFabric r == m.detail && s.rankState r != 3)
     let entry := s.vacant.find? (fun r => !s.pass.joins.any (fun j => j.2.2 == r))
     let spare := s.allRanks.find? (fun r => decide (s.n ≤ r) && s.rankFabric r == m.detail && s.rankTag r == tag &&
       s.rankState r == 2)
     let own : CtlMsg := { s.msg 13 with
       step := s.f F.colEpochStep, origin := 0xffff, detail := s.myId, digest := [s.f F.secIdTag, 0, 0, 0] }
     (m.type = 13 → s.leads = true →
       ((s.pass.tko.waits = false ∨ spare = none) → (known = none ∨ (known = some l ∧ s.rankTag l = tag)) → entry = some r →
         exec (.join c m) s = .next ((s.modPass (fun p => { p with joins := p.joins ++ [(m.detail, tag, r)] })).answerJoin
           m 0 r (s.version + s.pass.joins.length + 1))) ∧
       ((s.pass.tko.waits = false ∨ spare = none) → (known = none ∨ (known = some l ∧ s.rankTag l = tag)) → entry = none →
         exec (.join c m) s = .next (s.refuseJoin m)) ∧
       (known = some r → s.rankTag r ≠ tag → exec (.join c m) s = .next (s.refuseJoin m)) ∧
       (s.pass.tko.waits = true → spare = some r → (known = none ∨ (known = some l ∧ s.rankTag l = tag)) →
         exec (.join c m) s = .next (((((s.wrNat 1 (s.rankAddr r + 4) 1 1).answerJoin m 1 r
           (max s.version s.pass.tko.version + 1)).modPass (fun p => { p with tko := { p.tko with waits := false } })).propose).modPass
           (fun p => { p with tko := { p.tko with waits := true } })))) ∧
     (m.type = 13 → s.leads = false → c ≠ s.f F.schRankRank → s.leader = some l →
       exec (.join c m) s = .next (s.sendCtl l m)) ∧
     (∀ p, m.type = 13 → s.leads = false → c = s.f F.schRankRank → allPorts.find? s.portUp = some p →
       s.isActive = false ∨ s.passState = psStopped → exec (.join c m) s = .next (s.originate
         { tc := 0, dest := s.f (F.fabPPartnerFabricId p), pay := .ctl own, port := some p })) ∧
     (m.type = 14 → m.detail = 1 → exec (.joined m) s = .next (((((s.setF F.schRankRank m.subject).setF F.schRankValid 1).setPst
       psIdle).setF F.schLoopState 0).wakeUp 4)) ∧
     (m.type = 14 → m.detail ≠ 1 → exec (.joined m) s = .next s) ∧
     (m.type = 15 → s.isActive = true → s.isRoot = false → exec (.table m) s = .next
       (((s.sendAll s.children m).sendTo (s.tableDests m) m).modPass (fun p => { p with table := some m }))) ∧
     (m.type = 15 → s.isActive = true → s.isRoot = true → exec (.table m) s = .next s) ∧
     (m.type = 15 → s.isActive = false → exec (.table m) s = .next (s.modPass (fun p => { p with table := some m }))))

/-- BUCKET_ENTRY and GROUP_SEND (R43, R44, R194, R196 to R198, R200, R201, R226). The next bucket of the step enters
once it is released, while fewer than 64 are in the interface and the settling time is over, and not before: with a
valid, non-zero peak of its last step in the history it begins with the exponent of that peak, else it probes, is
counted, and sends its peak once those of its children are there; blocks that came before it are taken then. A group
whose contributions from every child are there leaves for the parent with the sums, in blocks of 72 elements at a leaf
and of 48 elsewhere; at the owner it stands for the update, or, where a sum overflowed and a higher exponent is left,
the bucket is reduced again. -/
def Obligations.BucketsEnterAndSend : Prop :=
  ∀ (s : State) (x : Bucket) (i : Inst) (b p r : Nat),
    let g := s.groupSum x x.sent
    let y := { x with
      sent := x.sent + 1, nf := x.nf || g.nf, ov := x.ov || g.ov, pk := max x.pk g.pk, sat := x.sat + g.sat,
      nfc := x.nfc + g.nfc }
    let leaf := (s.childrenIn b).isEmpty
    let read := if s.poisonedRange 1 (s.f F.colHistBase + 4 * x.b) 4 then s.stateError unitNet else s
    let probe := read.col.probeAll || (match read.peakOf x.b with
      | some p => p == 0
      | none => true)
    let put := read.putBucket { x with
      entered := true, probing := probe, eb := if probe then 0 else ebOf ((read.peakOf x.b).getD 0) }
    let next : State := { put with col := { put.col with next := put.col.next + 1 } }
    let enters := if probe then (({ next with
        col := { next.col with probes := next.col.probes + 1 },
        pup := { next.pup with acc := { next.pup.acc with probed := true } } } : State).addF F.colProbes 1).probeOn x.b
      else next
    let mine := enters.col.early.filter (fun e => e.2.bucket == x.b)
    (s.bucket s.col.next = some x → s.inst x.id = some i → i.released = true → x.entered = false → s.inInterface < 64 →
      s.col.settleAt ≤ s.aon → exec .bucketEntry s = .next (mine.foldl (fun t e => t.takeEarly e.1 e.2)
        (({ enters with col := { enters.col with early := enters.col.early.filter (fun e => e.2.bucket != x.b) } } :
          State).freeHeld (fun b => b == x.b)))) ∧
    (s.bucket s.col.next = some x → s.inst x.id = some i → i.released = true → x.entered = false → s.inInterface < 64 →
      s.col.settleAt ≤ s.aon → s.col.probeAll = false → s.peakOf x.b = some p → p ≠ 0 → s.col.early = [] → s.poison = [] →
      ∃ t : State, exec .bucketEntry s = .next t ∧ t.col.next = s.col.next + 1 ∧
        t.bucket x.b = some { x with entered := true, probing := false, eb := min (p + 2) 0xfe }) ∧
    (s.bucket s.col.next = some x → s.inst x.id = some i →
      (i.released = false ∨ 64 ≤ s.inInterface ∨ s.aon < s.col.settleAt) → exec .bucketEntry s = .next s) ∧
    (s.bucket b = some x → x.entered = true → x.probing = false → x.sent < x.groups → s.groupHere x x.sent = true →
      (s.parentIn b = some r →
        exec (.groupSend b) s = .next ((cutBody (if leaf then 72 else 48) 3 (144 * x.sent) g.sums).foldl (fun t c =>
          t.sendRed r { s.blockOf x (if leaf then 1 else 2) with
            pk := g.pk, nf := g.nf, ov := g.ov, first := c.1, body := c.2, last := decide (c.1 + c.2.length = x.count) })
          (s.putBucket y))) ∧
      (s.parentIn b = none → (g.ov = false ∨ x.mayRetry = false) → exec (.groupSend b) s = .next (s.putBucket y)) ∧
      (s.parentIn b = none → g.ov = true → x.mayRetry = true →
        exec (.groupSend b) s = .next (s.retry x (x.attempt + 1) (min (x.eb + 4) 0xfe)))) ∧
    (s.bucket b = some x → (x.entered = false ∨ x.probing = true ∨ x.groups ≤ x.sent ∨ s.groupHere x x.sent = false) →
      exec (.groupSend b) s = .next s)

/-- UPDATE_GROUP (R204 to R211) at the owner: every parameter of the group in the shadow epoch is what the update rule
gives from its sum, its committed value, its average and the step's random bits; the averages are written with the tag
of their slot, but for plain descent; the saturations are counted, and what is complete goes down. After the last
group the bucket ends with its peak, flags and norm. A group whose average or master cannot be read is a failed check
of the state, and without a group that stands for the update nothing happens. -/
def Obligations.OwnersUpdateGroups : Prop :=
  ∀ (s : State) (x : Bucket) (b : Nat), s.bucket b = some x →
    let u := s.upd x.layer
    let base := s.bucketBase x + 144 * x.done
    let outs := (s.groupSum x x.done).sums.zipIdx.map (fun c =>
      updateElem u x.eb c.1 (s.param false (base + c.2)) (if u.rule = 0 then 0 else s.average b (144 * x.done + c.2))
        (if s.slotValid b then s.slotTag b else u.k) s.bcNow
        (srBits s.pass.seed s.stepNow (x.first + (144 * x.done + c.2)) u.handle))
    let y : Bucket := { x with
      done := x.done + 1, changed := x.changed || outs.zipIdx.any (fun o => o.1.w != s.param false (base + o.2)),
      updNf := x.updNf || outs.any (fun o => o.nf), sumSq := x.sumSq + (outs.map (fun o => o.g.rat * o.g.rat)).sum }
    let put := s.putShadows base (outs.map (fun o => o.w))
    let avg := outs.zipIdx.foldl (fun t o => t.putAverage b (144 * x.done + o.2) o.1.m) put
    let kept := if u.rule = 0 then put
      else ((avg.wrNat 1 (avg.slotAddr b) 2 b).wrNat 1 (avg.slotAddr b + 4) 1 (unsignedOf 8 u.k)).wrNat 1 (avg.slotAddr b + 8)
        4 x.count
    let t := (((kept.addF F.colUpdSat ((outs.map (fun o => o.sat)).sum)).putBucket y).sendDown y 3)
    (s.owns b = true → x.done < x.sent → s.updatePoisoned x (144 * x.done) (x.groupLen x.done) = false →
      (x.done + 1 < x.groups → exec (.updateGroup b) s = .next t) ∧
      (x.groups ≤ x.done + 1 → exec (.updateGroup b) s = .next (t.endBucket y
        { t.blockOf y 6 with pk := y.pk, nf := y.nf || y.updNf, ov := y.ov, changed := y.changed }
        (if y.nf then .nonFinite else .f32 (rmsF32 y.sumSq y.count))))) ∧
    (s.owns b = true → x.done < x.sent → s.updatePoisoned x (144 * x.done) (x.groupLen x.done) = true →
      exec (.updateGroup b) s = .next (s.stateError unitNet)) ∧
    (s.owns b = false ∨ x.sent ≤ x.done → exec (.updateGroup b) s = .next s)

/-- UP26, UP40, DOWN, PROBE_UP, PROBE_DOWN, END and RETRY (R197, R198, R201, R202, R210, R211, R215). A block of the
bucket it names that passes the checks of R198 is taken: what comes up from a child is held for its group, or is its
peak; what comes down writes the parameters that follow those the rank has, begins attempt 0, restarts the bucket, or
ends it. A block of another step is a failed check with reason COUNTER, and one that does not fit its bucket, or an
ended one, with reason BUCKET; one that comes before its bucket is held; a block of an older attempt or of a bucket
that has ended is dropped. -/
def Obligations.BlocksArrive : Prop :=
  ∀ (s : State) (c : Nat) (k : RedBlock) (x : Bucket), s.load.loaded = true →
    let rows := [(Instr.up26 c k, 1, c), (.up40 c k, 2, c), (.probeUp c k, 4, c), (.down k, 3, (s.parentIn k.bucket).getD s.me),
      (.probeDown k, 5, (s.parentIn k.bucket).getD s.me), (.end_ k, 6, (s.parentIn k.bucket).getD s.me),
      (.retry k, 7, (s.parentIn k.bucket).getD s.me)]
    (s.fencedFrom c = false → s.arrival k = .good x → c ∈ s.childrenIn x.b →
      (k.kind = 1 → (k.ov = false ∨ s.owns x.b = false ∨ x.mayRetry = false) → exec (.up26 c k) s =
        .next (s.putBucket { x with blocks := x.blocks ++ [(c, k)] })) ∧
      (k.kind = 2 → (k.ov = false ∨ s.owns x.b = false ∨ x.mayRetry = false) → exec (.up40 c k) s =
        .next (s.putBucket { x with blocks := x.blocks ++ [(c, k)] })) ∧
      (k.kind = 1 → k.ov = true → s.owns x.b = true → x.mayRetry = true → exec (.up26 c k) s = .next (s.reReduce x)) ∧
      (k.kind = 2 → k.ov = true → s.owns x.b = true → x.mayRetry = true → exec (.up40 c k) s = .next (s.reReduce x)) ∧
      (k.kind = 4 → exec (.probeUp c k) s =
        .next ((s.putBucket { x with childPk := mput c k.pk x.childPk }).probeOn x.b))) ∧
    (s.fencedFrom ((s.parentIn k.bucket).getD s.me) = false → s.arrival k = .good x → s.owns x.b = false →
      (k.kind = 3 → k.first = x.got → exec (.down k) s = .next (((s.sendReds (s.childrenIn x.b) k).putShadows
        (s.bucketBase x + k.first) (k.body.map (fun z => unsignedOf 16 z))).putBucket
        { x with got := k.first + k.body.length })) ∧
      (k.kind = 5 → x.probing = true → exec (.probeDown k) s =
        .next ((s.sendReds (s.childrenIn x.b) k).putBucket (x.begin k.pk))) ∧
      (k.kind = 6 → x.got = x.count → exec (.end_ k) s = .next (s.endBucket x k .none)) ∧
      (k.kind = 6 → x.got ≠ x.count → exec (.end_ k) s = .next (s.failCheck rsnBucket netDetail)) ∧
      (k.kind = 7 → exec (.retry k) s = .next (s.retry x k.attempt k.eb))) ∧
    (∀ i n f, (i, n, f) ∈ rows → k.kind = n →
      (s.fencedFrom f = true → exec i s = .next s) ∧
      (s.fencedFrom f = false → s.arrival k = .mismatch → exec i s = .next (s.failCheck rsnBucket netDetail)) ∧
      (s.fencedFrom f = false → s.arrival k = .counter → s.pass.launched = true →
        exec i s = .next (s.failCheck rsnCounter netDetail)) ∧
      (s.fencedFrom f = false → s.arrival k = .hold →
        exec i s = .next { s with col := { s.col with early := s.col.early ++ [(f, k)] } }) ∧
      (s.fencedFrom f = false → s.arrival k = .drop → exec i s = .next s)) ∧
    (k.step ≠ s.stepNow → s.arrival k = .counter) ∧
    (∀ e, k.step = s.stepNow → s.col.ends.find? (fun e => e.b == k.bucket) = some e →
      (k.attempt < e.attempt → s.arrival k = .drop) ∧
      (e.attempt ≤ k.attempt → s.arrival k = if redDisagrees k e.attempt e.eb e.count then .mismatch else .drop)) ∧
    (k.step = s.stepNow → s.col.ends.find? (fun e => e.b == k.bucket) = none →
      (s.bucket k.bucket = none → s.arrival k = .hold) ∧
      (s.bucket k.bucket = some x → x.entered = false → s.arrival k = .hold) ∧
      (s.bucket k.bucket = some x → x.entered = true → k.attempt < x.attempt → s.arrival k = .drop))

/-- An intact block in the window of a port: the port carries blocks, no reserved or malformed field shows, its number
lies within 1,024 of the one expected, and `a` is the state once its acknowledgement and its credits are taken (R318,
R320, R322). -/
structure Sys2Proof.Machine.State.blockIn (s : State) (p : Nat) (b : LinkBlock) (a : State) : Prop where
  up     : s.portUp p = true
  form   : fmtBad b = false
  window : outOfWindow b.seq (s.port p).rxSeq = false
  acked  : (s.takeAck p b.ack).takeCredits p [b.cr0, b.cr1, b.cr2] = a

/-- A sequenced block whose turn it is: its number is the next one expected, it has not come before, and the partner
has a credit for it (R320, R322). -/
structure Sys2Proof.Machine.State.blockInTurn (s : State) (p : Nat) (b : LinkBlock) (a : State) : Prop
    extends s.blockIn p b a where
  kind   : isSequenced b = true
  turn   : seqGap b.seq (a.port p).rxSeq = 0
  fresh  : (a.port p).held.any (fun h => h.1 == b.seq) = false
  credit : nth (a.port p).avail b.tc ≠ 0

/-- The port after it has taken the number and the credit of a block in its turn. -/
def Sys2Proof.Machine.State.turnTaken (a : State) (p : Nat) (b : LinkBlock) : State :=
  ((a.modPort p (fun y => { y with avail := modNth y.avail b.tc (· - 1) })).modPort p (fun y => { y with
    rxSeq := (y.rxSeq + 1) % 4096, asked := y.asked.filter (· != b.seq) })).carried p b.pay

/-- The rows of intact blocks on a port, with the TYPE and class each takes. -/
def blockRows (p : Nat) (b : LinkBlock) : List (Instr × Bool) :=
  [(.fence p b, b.btype == 2), (.bulkData p b, b.btype == 1 && b.tc == 2), (.nak p b, b.btype == 3),
   (.creditSync p b, b.btype == 4), (.idle p b, true)]

/-- FENCE, BULK_DATA, NAK, CREDIT_SYNC, IDENT and IDLE (R318 to R322, R326, R327, R330 to R332). A block in its turn
takes its number and a credit: a fence is taken, bulk data for this device is placed and other data waits for its way
on, and the buffer's credit is owed again; one of a failed device is counted and dropped. A block ahead of its turn is
held, and what is missing is asked for; one that came before is discarded; one without a credit, of a malformed kind,
or out of the window is a violation and answered with its NAK. A NAK for a block that is still kept queues its resend
once, and is a violation for another; a CREDIT_SYNC sets the credits of the three classes; IDENT in a full training
records the partner, and quarantines the port when the rank table holds another tag for it; IDLE holds no more than
its acknowledgement and its credits. A block that does not fit its kind, or on a port that is down, does nothing. -/
def Obligations.FabricBlocksArrive : Prop :=
  ∀ (s a : State) (p : Nat) (b : LinkBlock),
    let d := a.turnTaken p b
    let spent := a.modPort p (fun y => { y with avail := modNth y.avail b.tc (· - 1) })
    let e := seqGap b.seq (a.port p).rxSeq
    (∀ step version, s.blockInTurn p b a → b.btype = 2 → b.pay = .fence step version → d.failedDevice b.src = false →
      exec (.fence p b) s = .next ((if b.payResv then (d.portViolates p 7).freeCredit p 1
        else (d.takeFence p step version).freeCredit p 1).deliverHeld p 1024)) ∧
    (∀ st off w, s.blockInTurn p b a → b.btype = 1 → b.tc = 2 → b.pay = .bulk st off w → d.failedDevice b.src = false →
      b.dest = d.idOn p → exec (.bulkData p b) s = .next (((if b.payResv = false ∧ 1 ≤ w.length ∧ w.length ≤ 240
        then d.takeBulk b.src st off w else d.portViolates p 7).freeCredit p 2).deliverHeld p 1024)) ∧
    (s.blockInTurn p b a → b.btype = 1 → b.tc = 2 → d.failedDevice b.src = false → b.dest ≠ d.idOn p →
      exec (.bulkData p b) s = .next ((d.takeTransit p b).deliverHeld p 1024)) ∧
    (∀ c, (c, true) ∈ blockRows p b → s.blockInTurn p b a → b.tc ≠ 0 → d.failedDevice b.src = true →
      exec c s = .next (((d.addF (F.fabPViolFailedSrc p) 1).freeCredit p b.tc).deliverHeld p 1024)) ∧
    (∀ c, (c, true) ∈ blockRows p b → s.blockIn p b a → isSequenced b = true →
      (1024 < e ∨ (a.port p).held.any (fun h => h.1 == b.seq) = true → exec c s = .next a) ∧
      (e ≤ 1024 → (a.port p).held.any (fun h => h.1 == b.seq) = false → nth (a.port p).avail b.tc = 0 →
        exec c s = .next (((a.portViolates p 5).sendCtlBlock p (.nak 4 b.seq)).sendSync p)) ∧
      (0 < e → e ≤ 1024 → (a.port p).held.any (fun h => h.1 == b.seq) = false → nth (a.port p).avail b.tc ≠ 0 →
        exec c s = .next ((spent.modPort p (fun y => { y with held := y.held ++ [(b.seq, b)] })).nakGap p b.seq))) ∧
    (∀ c, (c, true) ∈ blockRows p b → s.portUp p = true →
      (fmtBad b = true → exec c s = .next ((s.portViolates p 1).sendCtlBlock p (.nak 3 b.seq))) ∧
      (fmtBad b = false → outOfWindow b.seq (s.port p).rxSeq = true →
        exec c s = .next ((s.portViolates p 2).sendCtlBlock p (.nak 2 b.seq)))) ∧
    (∀ reason seq, s.blockIn p b a → b.btype = 3 → b.pay = .nak reason seq →
      let u := if e ≠ 0 ∧ e ≤ 1024 then a.nakGap p b.seq else a
      exec (.nak p b) s = .next (
        if reason ≠ 1 then u
        else if (u.port p).replay.any (fun y => y.1 == seq) then
          (if seq ∈ (u.port p).resend then u else u.putPort p { u.port p with resend := (u.port p).resend ++ [seq] })
        else u.portViolates p 4)) ∧
    (∀ c0 c1 c2, s.blockIn p b a → b.btype = 4 → b.pay = .creditSync c0 c1 c2 → ∃ t : State,
      exec (.creditSync p b) s = .next t ∧ (t.port p).credit = [c0, c1, c2] ∧
      t.hbm = a.hbm ∧ t.sch = a.sch ∧ t.pass = a.pass) ∧
    (∀ fabric tag x, b.btype = 5 → b.pay = .ident fabric tag x → s.pst p = pTraining → (s.port p).fast = false → p < 12 →
      exec (.ident p b) s = .next (
        let t := ((s.setF (F.fabPPartnerValid p) 1).setF (F.fabPPartnerFabricId p) fabric).setF (F.fabPPartnerTag p) tag
        if s.identityBad fabric tag then (t.quarantinePort p 3 8).ev 0x6005 (portUnit p) fabric tag else t)) ∧
    (∀ fabric tag x, b.btype = 5 → b.pay = .ident fabric tag x → s.portUp p = true →
      exec (.ident p b) s = .next ((s.portViolates p 1).sendCtlBlock p (.nak 3 b.seq))) ∧
    (s.blockIn p b a → b.btype = 0 → b.pay = .idle →
      exec (.idle p b) s = .next (if e ≠ 0 ∧ e ≤ 1024 then a.nakGap p b.seq else a)) ∧
    (∀ c f, (c, f) ∈ blockRows p b → s.portUp p = false ∨ f = false → exec c s = .next s)

/-- BLOCK_SEND and BLOCK_FORWARD (R318, R320, R322, R323, R327, R331). Resends leave first, then unsequenced blocks,
then TC0, then TC1 and TC2 by their weights, and else an IDLE block; within a class what waits for another device
leaves before the device's own. A new sequenced block takes the next number, a place in the replay buffer and a
credit. A block on its way to another device leaves on the egress of its destination with one hop less, once that has
a credit and its class has the turn; one of a failed device, or without a route, goes no further. -/
def Obligations.BlocksLeave : Prop :=
  ∀ (s : State) (p q e k : Nat) (c : Payload) (rest : List Payload) (l : List Nat) (o : Nat × Origin) (b : LinkBlock),
    let u := s.dropUnrouted
    let x := u.port p
    let t : State := { s with fab := { s.fab with ingress := s.fab.ingress.eraseIdx k } }
    let due := s.fab.ingress.zipIdx.find? (s.movesOn p)
    (p < 12 → s.portUp p = true →
      (x.resend = q :: l → exec (.blockSend p) s = .next (u.sendResend p q)) ∧
      (x.resend = [] → x.ctl = c :: rest → exec (.blockSend p) s =
        .next ((u.putPort p { x with ctl := rest }).emit p { btype := blockType c, seq := x.txSeq, pay := c })) ∧
      (x.resend = [] → x.ctl = [] → u.classWaits p 0 = true → exec (.blockSend p) s = .next (u.sendClass p 0)) ∧
      (x.resend = [] → x.ctl = [] → u.classWaits p 0 = false → ∀ n, u.turnOf p = some n →
        exec (.blockSend p) s = .next ((u.spendTurn p n).sendClass p n)) ∧
      (x.resend = [] → x.ctl = [] → u.classWaits p 0 = false → u.turnOf p = none →
        exec (.blockSend p) s = .next (u.emit p { btype := 0, seq := x.txSeq })) ∧
      (x.resend = [] → x.ctl = [] → (∀ y ∈ s.fab.ingress, y.2.tc ≠ 0) → u.nextOrigin p 0 = some o →
        exec (.blockSend p) s = .next (u.sendOrigin p o))) ∧
    (s.portUp p = false → exec (.blockSend p) s = .next s) ∧
    (due = some ((p, b), k) →
      ((b.tc = 0 ∨ s.failedDevice b.src = false) → s.routeTo b.dest = some e →
        exec (.blockForward p) s = .next ((s.spendTurn e b.tc).sendTransit e (k, (p, b)))) ∧
      (b.tc ≠ 0 → s.failedDevice b.src = true → exec (.blockForward p) s =
        .next ((t.addF (F.fabPViolFailedSrc p) 1).freeCredit p b.tc)) ∧
      ((b.tc = 0 ∨ s.failedDevice b.src = false) → s.routeTo b.dest = none → exec (.blockForward p) s =
        .next (((t.sendCtlBlock p (.nak 5 b.seq)).ev 0x6006 (portUnit p) b.dest 5).freeCredit p b.tc))) ∧
    (due = none → exec (.blockForward p) s = .next s)

/-- FEC_UNCORRECTABLE, BLOCK_CRC_FAIL, ACK_TIMEOUT, RESEND_LIMIT, VIOLATION_LIMIT and LOSS_OF_LOCK (R317, R318, R321,
R325, R332): a lost codeword and a block with a bad CRC are counted; the oldest block that is not acknowledged in time
is resent; too many resends of one block, and a loss of lock, make the port train again; as many violations in a
window as the limit allows quarantine it. Short of its bound, or on a port that is down, none of them changes
anything. LINK_TRAINING, TRAINING_RETRY, RETRAIN, UNQUARANTINE, PORT_ENABLE and ROUTE_LOAD (R317, R325 to R327, R332
to R334). A full training with a signal and a lane that locks brings the port up with the width the lanes allow,
unless the partner's tag quarantines it; without a signal the port goes down with reason 1, and without a lane with
reason 2. A fast training that locks a lane brings it up as it was, and one that locks none becomes a full one. A port
that is down trains again after a second while EN is 1. The host retrains a port that is up, lets one that is down
train at once, lets a quarantined one train again, and switches a port on or off; the route table comes from HBM. -/
def Obligations.LinksAreKept : Prop :=
  (∀ (s : State) (p seq : Nat) (b : LinkBlock) (rest : List (Nat × LinkBlock)),
     let late := (s.port p).ackAt + (max 1000 (s.f F.fabLinkCfgAckTimeout) + 319) / 320
     let limit := s.f F.fabViolCfgLimit
     (p < 12 → s.portUp p = true →
       exec (.fecUncorrectable p) s = .next (s.addF (F.fabPErrFecUncorr p) 1) ∧
       exec (.blockCrcFail p) s = .next (s.addF (F.fabPErrCrcFail p) 1) ∧
       exec (.lossOfLock p) s = .next (s.fastRetrain p) ∧
       (s.fastRetrain p).pst p = pTraining ∧ ((s.fastRetrain p).port p).replay = (s.port p).replay ∧
       ((s.fastRetrain p).port p).fast = (s.port p).equal) ∧
     (s.portUp p = false → exec (.fecUncorrectable p) s = .next s ∧ exec (.blockCrcFail p) s = .next s ∧
       exec (.lossOfLock p) s = .next s ∧ exec (.ackTimeout p) s = .next s ∧ exec (.resendLimit p) s = .next s) ∧
     (s.portUp p = true → (s.port p).replay = (seq, b) :: rest → late ≤ s.aon →
       exec (.ackTimeout p) s = .next (s.putPort p { s.port p with
         ackAt := s.aon,
         resend := if seq ∈ (s.port p).resend then (s.port p).resend else (s.port p).resend ++ [seq] })) ∧
     (s.aon < late ∨ (s.port p).replay = [] → exec (.ackTimeout p) s = .next s) ∧
     (s.portUp p = true → (∃ y ∈ (s.port p).resent, max 1 (s.f F.fabLinkCfgResendLimit) ≤ y.2) →
       exec (.resendLimit p) s = .next (s.fastRetrain p)) ∧
     ((∀ y ∈ (s.port p).resent, y.2 < max 1 (s.f F.fabLinkCfgResendLimit)) →
       exec (.resendLimit p) s = .next s) ∧
     (p < 12 → 0 < limit → limit ≤ s.f (F.fabPViolWindowCount p) →
       s.aon < (s.port p).winAt + max 1 (s.f F.fabViolCfgWindow) → s.pst p ≠ pQuarantined →
       exec (.violationLimit p) s = .next (s.quarantinePort p 4 (s.f (F.fabPViolLastKind p)))) ∧
     (limit = 0 ∨ s.f (F.fabPViolWindowCount p) < limit ∨ s.pst p = pQuarantined ∨
         (s.port p).winAt + max 1 (s.f F.fabViolCfgWindow) ≤ s.aon → exec (.violationLimit p) s = .next s)) ∧
  (∀ (s : State) (p lanes fabric tag : Nat), p < 12 →
     let u := s.takeIdent p fabric tag
     let a := (u.setLanes p (lanes % 16)).activate p
     let up : State := { a with fab := { a.fab with nodeId := mput p a.myId a.fab.nodeId } }
     let trains (t : State) : State := (t.setF (F.fabPStatusState p) pTraining).setF (F.fabPPartnerValid p) 0
     (s.pst p = pTraining → s.fb (F.fabPCtrlEn p) = true → (s.port p).fast = false →
       (widthOf lanes ≠ 0 → u.pst p ≠ pQuarantined → exec (.linkTraining p lanes true fabric tag) s =
         .next (up.ev 0x6001 (portUnit p) (widthOf lanes) 0)) ∧
       (widthOf lanes ≠ 0 → u.pst p = pQuarantined → exec (.linkTraining p lanes true fabric tag) s = .next u) ∧
       exec (.linkTraining p lanes false fabric tag) s = .next (s.linkDown p pDown 1) ∧
       (widthOf lanes = 0 → exec (.linkTraining p lanes true fabric tag) s = .next (s.linkDown p pDown 2))) ∧
     (∀ signal, s.pst p = pTraining → s.fb (F.fabPCtrlEn p) = true → (s.port p).fast = true →
       (widthOf lanes ≠ 0 → exec (.linkTraining p lanes signal fabric tag) s =
         .next (((s.setLanes p (lanes % 16)).activate p).ev 0x6003 (portUnit p) 0 0)) ∧
       (widthOf lanes = 0 → exec (.linkTraining p lanes signal fabric tag) s =
         .next (trains (s.linkDown p pTraining 0)))) ∧
     (∀ signal, s.pst p ≠ pTraining ∨ s.fb (F.fabPCtrlEn p) = false →
       exec (.linkTraining p lanes signal fabric tag) s = .next s) ∧
     (s.pst p = pDown → s.fb (F.fabPCtrlEn p) = true → (s.port p).failAt + 3125000 ≤ s.aon →
       exec (.trainingRetry p) s = .next (trains s)) ∧
     (s.pst p ≠ pDown ∨ s.fb (F.fabPCtrlEn p) = false ∨ s.aon < (s.port p).failAt + 3125000 →
       exec (.trainingRetry p) s = .next s) ∧
     (s.hostOpen →
       (s.portUp p = true → exec (.retrain p) s = .next (s.fastRetrain p)) ∧
       (s.pst p = pDown → s.fb (F.fabPCtrlEn p) = true → exec (.retrain p) s = .next (trains s)) ∧
       (s.pst p = pQuarantined → s.fb (F.fabPCtrlEn p) = true → exec (.unquarantine p) s =
         .next ((trains (s.setF (F.fabPViolWindowCount p) 0)).setF (F.fabPStatusDownReason p) 0)) ∧
       (s.pst p = pQuarantined → s.fb (F.fabPCtrlEn p) = false → exec (.unquarantine p) s =
         .next (((s.setF (F.fabPViolWindowCount p) 0).setF (F.fabPStatusState p) pDown).setF (F.fabPStatusDownReason p) 5)) ∧
       (s.pst p ≠ pQuarantined → exec (.unquarantine p) s = .next s) ∧
       (exec (.portEnable p true) s = .next (if s.pst p = pDown then trains (s.setF (F.fabPCtrlEn p) 1)
         else s.setF (F.fabPCtrlEn p) 1)) ∧
       (exec (.portEnable p false) s = .next (if s.pst p = pQuarantined then s.setF (F.fabPCtrlEn p) 0
         else (s.setF (F.fabPCtrlEn p) 0).linkDown p pDown 5)) ∧
       (∃ t : State, exec .routeLoad s = .next t ∧ t.regs = s.regs ∧
         ∀ k, k < 65536 → (mget k t.fab.routes).getD 0 = s.rdNat 1 (s.f F.fabRouteBase + 2 * k) 2)))

/-- CALIBRATION_DUE, CALIBRATION and LEVEL_CROSSING_START (R25, R107, R108, R117 to R122). A placed, awake tile
becomes due when its conversions, its time or its temperature say so. A calibration that is due fits the eight groups
of converters, counts, and starts the counts anew; a group that has been singular six times in a row retires the tile.
A tile that is not due, that sleeps or whose write has not ended is left as it is. The dirty rows of a layer are
rewritten once its parameters of the step are all written, no forward of the step is left and no write is under way,
and rows that became dirty too late for their step once no forward of the committed step is left. -/
def Obligations.ArraysAreMaintained : Prop :=
  ∀ (s : State) (k h : Nat) (l : Layer) (ys : List (List Readings)),
    let x := s.tile k
    let d := s.clusterTemp k - x.lastFit
    let u := (List.range 8).foldl (fun t p => t.fitOne k p (ys.getD p [])) s
    let y := u.tile k
    let sing := y.fits.countP (fun f => f.flag)
    let c := (((u.putTile k { y with
      calCount := min 0xffffffff (y.calCount + 1), due := false, calFirst := false, convs := 0, lastCal := u.aon,
      fresh := if y.fresh = 1 ∧ sing = 0 then 2 else y.fresh }).modAll (fun i =>
        if i.code.op = 0x4006 ∧ i.wants.contains k then { i.rewant k none with result := i.result + sing } else i)).endWaiters
      0x4006)
    let due : Prop := 2 ^ max 12 (min 20 (s.f F.arrCalCfgConvLog2)) ≤ x.convs ∨
      x.lastCal + max 1 (min 100 (s.f F.arrCalCfgInterval)) * 3125 ≤ s.aon ∨
      ((∃ f ∈ x.fits, f.done = true) ∧ ((max 1 (min 16 (s.f F.arrCalCfgDt)) : Nat) : Int) < max d (-d))
    let may : Prop := x.state = 1 ∧ (x.due = true ∨ x.calFirst = true) ∧ x.sealed = true ∧ x.batch = none ∧
      (SleepKind.tile, k) ∈ s.units.awake
    let go (shadow : Bool) (step : Nat) : State :=
      let t := l.held.foldl (fun u k => u.startCrossing shadow step k) s
      { t with arr := { t.arr with crossings := t.arr.crossings + 1 } }
    let rest : Prop := l.programmed = true ∧ ∀ t ∈ l.held, (s.tile t).batch = none
    let late : Prop := ∃ t ∈ l.held, (s.tile t).late = true
    let last : Prop := s.pass.launched = true ∧ l.crossed = false ∧ s.allWritten l = true ∧
      s.forwardsLeft h s.stepNow = false ∧ s.bodyAdmitted = true
    (x.state = 1 → x.due = false → (SleepKind.tile, k) ∈ s.units.awake → due →
      exec (.calibrationDue k) s = .next (s.putTile k { x with due := true })) ∧
    (x.state ≠ 1 ∨ x.due = true ∨ (SleepKind.tile, k) ∉ s.units.awake ∨ ¬ due → exec (.calibrationDue k) s = .next s) ∧
    (may → (∀ f ∈ y.fits, f.run < 6) → exec (.calibration k ys) s = .next c) ∧
    (may → (∃ f ∈ y.fits, 6 ≤ f.run) → exec (.calibration k ys) s = .next (c.retire k 2 3)) ∧
    (¬ may → exec (.calibration k ys) s = .next s) ∧
    (s.layer h = none → exec (.levelCrossingStart h) s = .next s) ∧
    (s.layer h = some l →
      (¬ rest → exec (.levelCrossingStart h) s = .next s) ∧
      (rest → late → s.forwardsLeft h s.c = true → exec (.levelCrossingStart h) s = .next s) ∧
      (rest → late → s.forwardsLeft h s.c = false → exec (.levelCrossingStart h) s = .next (go false s.c)) ∧
      (rest → ¬ late → last →
        exec (.levelCrossingStart h) s = .next ((go true s.stepNow).modLayer h (fun l => { l with crossed := true }))) ∧
      (rest → ¬ late → ¬ last → exec (.levelCrossingStart h) s = .next s))

/-- ROW_WRITE, WEAR_WARN, WEAR_RETIRE and SUSPECT_REPROGRAM (R106, R107, R110, R111, R126, R127, R388). A row write
that is in the budget of the write controller ends: a row of a layer holds its new levels and its wear has grown by
one, and a row of a scrub is cleared. A tile without a write, out of the budget or asleep, is left as it is. A tile is
reported once when its wear reaches the warning, and retired when it reaches the limit; a tile under suspicion is
programmed again from its layer, within 16 steps of the last time only in the rows that differ, and retired where none
differs or a checksum column failed. PATROL_SCRUB and HBM_ROW_REPAIR (R234, R347, R348, R363). A line of the program
space that reads clean changes nothing; a corrected error is counted for its row and reported; an uncorrectable one
poisons the line, is recorded, counted and reported, and once only. In Doze the read takes HBM out of self-refresh. No
line is read before the boot has ended, in Deep, or at an address that begins no line. A row whose corrected errors
reach 16 is logged for repair once. -/
def Obligations.RowsAndMemoryAreMaintained : Prop :=
  (∀ (s : State) (k r : Nat) (rest failed : List Nat) (b : Batch) (l : Layer),
     let x := s.tile k
     let may : Prop := s.mayWrite k b = true ∧ (SleepKind.tile, k) ∈ s.units.awake
     let redo (rows : List Nat) (all : Bool) : State := s.putTile k
       (({ x with suspect := false, answered := false, sinceRe := some 0 } : Tile).begin
         { kind := .program, rows := rows, step := s.c, full := all, renew := all })
     (x.batch = none → exec (.rowWrite k failed) s = .next s) ∧
     (x.batch = some b → ¬ may → exec (.rowWrite k failed) s = .next s) ∧
     (x.batch = some b → b.rows = [] → exec (.rowWrite k failed) s = .next s) ∧
     (x.batch = some b → may → b.rows = r :: rest →
       (b.kind ≠ .scrub → s.layer x.layer = some l →
         exec (.rowWrite k failed) s = .next (s.rowWritten k l b r rest failed)) ∧
       (b.kind ≠ .scrub → s.layer x.layer = none → exec (.rowWrite k failed) s = .next s) ∧
       (b.kind = .scrub → exec (.rowWrite k failed) s = .next (s.scrubRow k b r rest (!failed.isEmpty)))) ∧
     (x.batch = some b → may → b.rows = r :: rest → rest ≠ [] →
       (b.kind ≠ .scrub → s.layer x.layer = some l → ∃ t : State, exec (.rowWrite k []) s = .next t ∧
         mget r (t.tile k).wear = some (min 0xffffff ((mget r x.wear).getD 0 + 1)) ∧ (t.tile k).sealed = false ∧
         ∀ q < 256, (t.tile k).level r q = s.batchLevel l x b r q) ∧
       (b.kind = .scrub → ∃ t : State, exec (.rowWrite k failed) s = .next t ∧
         mget r (t.tile k).wear = some (min 0xffffff ((mget r x.wear).getD 0 + 1)) ∧
         ∀ c ∈ (t.tile k).levels, c.1 / 256 ≠ r)) ∧
     (s.f F.arrWearCfgWarn ≤ x.maxWear → x.warned = false → exec (.wearWarn k) s =
       .next ((s.putTile k { x with warned := true }).ev 0x1005 k 0 x.maxWear)) ∧
     (x.maxWear < s.f F.arrWearCfgWarn ∨ x.warned = true → exec (.wearWarn k) s = .next s) ∧
     (min 10000000 (s.f F.arrWearCfgRetire) ≤ x.maxWear → x.state ≤ 1 → x.batch = none →
       exec (.wearRetire k) s = .next (s.retire k 2 1)) ∧
     (x.maxWear < min 10000000 (s.f F.arrWearCfgRetire) ∨ 1 < x.state ∨ x.batch ≠ none →
       exec (.wearRetire k) s = .next s) ∧
     (s.layer x.layer = none ∨ (s.pass.launched = true ∧ x.answered = false) ∨ x.batch ≠ none ∨ x.state ≠ 1 →
       exec (.suspectReprogram k) s = .next s) ∧
     (s.layer x.layer = some l → l.programmed = false → exec (.suspectReprogram k) s = .next s) ∧
     (s.layer x.layer = some l → l.programmed = true → (s.pass.launched = false ∨ x.answered = true) → x.batch = none →
       x.state = 1 →
       (x.csFault = true → exec (.suspectReprogram k) s = .next (s.retire k 2 3)) ∧
       (x.csFault = false → x.suspect = false → exec (.suspectReprogram k) s = .next s) ∧
       (x.csFault = false → x.suspect = true → (∀ n, x.sinceRe = some n → 16 < n) →
         exec (.suspectReprogram k) s = .next (redo allRows true)) ∧
       (x.csFault = false → x.suspect = true → ∀ n, x.sinceRe = some n → n ≤ 16 →
         (s.staleRows l x = [] → exec (.suspectReprogram k) s = .next (s.retire k 2 3)) ∧
         (s.staleRows l x ≠ [] → exec (.suspectReprogram k) s = .next (redo (s.staleRows l x) false))))) ∧
  (∀ (s : State) (addr row : Nat) (o : EccOutcome),
     let t := if s.pst_ = 2 then { s with pwr := { s.pwr with selfRefresh := false, hbmAt := s.aon } } else s
     (s.fb F.devBootReady = true → s.pst_ ≠ 3 → addr % 64 = 0 → addr < hbmProgTop →
       exec (.patrolScrub addr .clean) s = .next t ∧
       exec (.patrolScrub addr .corrected) s = .next (((({ t with ecc := { t.ecc with
         rows := mput (Config.hbmRow addr) (s.rowErrors (Config.hbmRow addr) + 1) t.ecc.rows } } : State).addF
         F.memEccHbmCorr 1).ev 0xb004 (stackUnit addr) 0 addr)) ∧
       (s.isPoisoned 1 (addr / 64) = true → exec (.patrolScrub addr .uncorrectable) s = .next t) ∧
       (s.isPoisoned 1 (addr / 64) = false → ∃ v : State, exec (.patrolScrub addr .uncorrectable) s =
         .next (v.ev 0xb005 (stackUnit addr) 0 addr) ∧ v.isPoisoned 1 (addr / 64) = true ∧
         v.f F.memEccLastAddr = addr % 2 ^ 48 ∧ v.f F.memEccLastSpace = 0 ∧ v.f F.memEccLastValid = 1 ∧
         v.f F.memEccHbmUncorr = min (2 ^ 32 - 1) (s.f F.memEccHbmUncorr + 1))) ∧
     (s.fb F.devBootReady = false ∨ s.pst_ = 3 ∨ addr % 64 ≠ 0 ∨ hbmProgTop ≤ addr →
       exec (.patrolScrub addr o) s = .next s) ∧
     (16 ≤ s.rowErrors row → row ∉ s.ecc.repairs → exec (.hbmRowRepair row) s = .next
       (({ s with ecc := { s.ecc with repairs := s.ecc.repairs ++ [row] } } : State).ev 0xb006 (stackUnit row) 0 row)) ∧
     (s.rowErrors row < 16 ∨ row ∈ s.ecc.repairs → exec (.hbmRowRepair row) s = .next s))

/-- REQUEST_IDLE, REQUEST_DOZE, REQUEST_DEEP, D3HOT_ENTRY and D0_RETURN (R339, R353, R361, R362, R365, R383). A
request is recorded in REQ. A request for Idle withdraws what pends and wakes a device that rests. A request for Doze
or Deep pends: with nothing to hold it the device begins to move, and a hold is shown, and reported once; in the
requested state nothing is left to do. Where the access has no effect nothing happens; in Deep it is latched and wakes
the device, and a BAR closed to the host counts a violation. D3hot requests Deep, and the return to D0 requests Idle.
-/
def Obligations.PowerRequestsPend : Prop :=
  ∀ s : State,
    let asks : List (Instr × Nat) := [(.requestIdle, 1), (.requestDoze, 2), (.requestDeep, 3)]
    (s.barReached = false → ∀ c ∈ asks, exec c.1 s = .next s) ∧
    (s.barReached = true → s.pst_ = 3 → ∀ c ∈ asks, exec c.1 s = .next (s.latchAccess c.1)) ∧
    (s.barReached = true → s.pst_ ≠ 3 → s.barClosed = true → ∀ c ∈ asks, exec c.1 s = .next (s.violation 5)) ∧
    (s.hostOpen →
      (s.pst_ ≤ 1 → exec .requestIdle s = .next ((((s.setF F.pwrStatusPending 7).setF F.pwrStatusHold 0).setF
        F.pwrStatusMoving 0).setF F.pwrCtrlReq 1)) ∧
      (s.pst_ = 2 → ∃ t : State, exec .requestIdle s = .next t ∧ t.f F.pwrCtrlReq = 1 ∧ t.f F.pwrStatusPending = 7 ∧
        t.f F.pwrStatusMoving = 1 ∧ t.f F.pwrStatusState = 2 ∧ t.pwr.wake = some (s.pwr.wake.getD 2)) ∧
      ∀ c n, (c, n) ∈ asks → n ≠ 1 →
        let t := s.setF F.pwrCtrlReq n
        let u := (t.setF F.pwrStatusPending n).setF F.pwrStatusHold (t.holdBits n)
        (s.pst_ = n → s.pwr.wake = none →
          exec c s = .next ((t.setF F.pwrStatusPending 7).setF F.pwrStatusHold 0)) ∧
        (s.pst_ ≠ n ∨ s.pwr.wake ≠ none →
          (t.holdBits n = 0 → exec c s = .next (u.setF F.pwrStatusMoving 1)) ∧
          (t.holdBits n ≠ 0 → s.f F.pwrStatusPending = n → exec c s = .next u) ∧
          (t.holdBits n ≠ 0 → s.f F.pwrStatusPending ≠ n →
            exec c s = .next ((u.ev 0x9002 unitPwr (t.holdBits n) 0).pwrInt)))) ∧
    (s.reachable = true → s.cxl.d3hot = false →
      exec .d3hotEntry s = .next (({ s with cxl := { s.cxl with d3hot := true } } : State).requestState 3)) ∧
    (s.reachable = false ∨ s.cxl.d3hot = true → exec .d3hotEntry s = .next s) ∧
    (s.reachable = true → s.cxl.d3hot = true →
      exec .d0Return s = .next (({ s with cxl := { s.cxl with d3hot := false } } : State).requestState 1)) ∧
    (s.reachable = false ∨ s.cxl.d3hot = false → exec .d0Return s = .next s)

/-- DOZE_ENTRY, DEEP_ENTRY, DOZE_EXIT, DEEP_EXIT and HBM_SELF_REFRESH_RETURN (R329, R361 to R366, R370, R393). With
the last hold gone and the ports quiet, a request that pends takes the device to Doze or to Deep, which is counted; a
request for Deep that a halt holds takes it to Doze. A device with no such request stays as it is. While the ports are
not quiet it shows that it moves; a hold that comes up meanwhile stops the move, and it is reported unless the request
was reported before. The trigger that woke the device takes it out of Doze to Idle and out of Deep to Doze, shown as
its code, and what the latch held follows in its order. HBM returns to self-refresh 100 µs after its last access. -/
def Obligations.RestIsEnteredAndLeft : Prop :=
  ∀ (s : State) (w : WakeCause),
    let p := s.f F.pwrStatusPending
    let askDoze : Prop := s.pwr.on = true ∧ s.pst_ = 1 ∧ (p = 2 ∨ (p = 3 ∧ s.haltHold = true))
    let askDeep : Prop := s.pwr.on = true ∧ (s.pst_ = 1 ∨ s.pst_ = 2) ∧ p = 3 ∧ s.pwr.wake = none
    let doze : Prop := askDoze ∧ s.free = true
    let deep : Prop := askDeep ∧ s.free = true ∧ s.haltHold = false
    let stay : Prop := s.fb F.pwrStatusMoving = false ∨ s.pwr.wake ≠ none ∨ s.holdBits p = 0
    let stopped : State := s.setF F.pwrStatusMoving 0
    let woken (n : Nat) : Prop := s.pwr.on = true ∧ s.pst_ = n ∧ s.pwr.wake = some (wakeCode w)
    let due : Prop := s.pwr.on = true ∧ s.pst_ = 2 ∧ s.pwr.selfRefresh = false ∧ s.pwr.wake = none ∧
      s.pwr.hbmAt + 313 ≤ s.aon
    (doze → s.portsQuiet = true → p = 2 → exec .dozeEntry s =
      .next ((((s.addF F.pwrCountsDoze 1).enterRest 2).setF F.pwrStatusPending 7).setF F.pwrStatusHold 0)) ∧
    (doze → s.portsQuiet = true → p = 3 → exec .dozeEntry s = .next ((s.addF F.pwrCountsDoze 1).enterRest 2)) ∧
    (doze → s.portsQuiet = false → exec .dozeEntry s = .next (s.setF F.pwrStatusMoving 1)) ∧
    (¬ askDoze → exec .dozeEntry s = .next s) ∧
    (askDoze → s.free = false → (stay → exec .dozeEntry s = .next s) ∧
      (¬ stay → s.f F.pwrStatusHold ≠ 0 → exec .dozeEntry s = .next stopped) ∧
      (¬ stay → s.f F.pwrStatusHold = 0 → exec .dozeEntry s =
        .next ((stopped.setF F.pwrStatusHold (s.holdBits p)).ev 0x9002 unitPwr (s.holdBits p) 0).pwrInt)) ∧
    (deep → s.portsQuiet = true → ∃ t : State, exec .deepEntry s = .next t ∧ t.f F.pwrStatusState = 3 ∧
      t.f F.pwrStatusPending = 7 ∧ t.f F.pwrStatusHold = 0 ∧ t.f F.pwrStatusMoving = 0 ∧
      t.f F.pwrCountsDeep = min (2 ^ 32 - 1) (s.f F.pwrCountsDeep + 1) ∧ t.f F.secStatusDebug = 0 ∧
      t.pwr.saved = true ∧ t.pwr.selfRefresh = true ∧ t.sec.sessions = 0 ∧ t.units.awake = []) ∧
    (deep → s.portsQuiet = false → exec .deepEntry s = .next (s.setF F.pwrStatusMoving 1)) ∧
    (¬ askDeep → exec .deepEntry s = .next s) ∧
    (askDeep → s.free = false ∨ s.haltHold = true → (stay → exec .deepEntry s = .next s) ∧
      (¬ stay → s.f F.pwrStatusHold ≠ 0 → exec .deepEntry s = .next stopped) ∧
      (¬ stay → s.f F.pwrStatusHold = 0 → exec .deepEntry s =
        .next ((stopped.setF F.pwrStatusHold (s.holdBits p)).ev 0x9002 unitPwr (s.holdBits p) 0).pwrInt)) ∧
    (woken 2 → ∃ t : State, exec (.dozeExit w) s = .next t ∧ t.f F.pwrStatusState = 1 ∧
      t.f F.pwrStatusWake = wakeCode w ∧ t.f F.pwrStatusMoving = 0 ∧ t.pwr.selfRefresh = false ∧ t.pwr.wake = none) ∧
    (¬ woken 2 → exec (.dozeExit w) s = .next s) ∧
    (woken 3 → exec (.deepExit w) s = runLatch (s.leaveDeep (wakeCode w)).emptyLatch s.pwr.latch ∧
      (∃ t : State, exec (.deepExit w) s = .next t) ∧
      (s.pwr.latch = [] → exec (.deepExit w) s = .next (s.leaveDeep (wakeCode w)).emptyLatch) ∧
      (s.leaveDeep (wakeCode w)).emptyLatch.f F.pwrStatusState = 2 ∧
      (s.leaveDeep (wakeCode w)).emptyLatch.f F.pwrStatusWake = wakeCode w ∧
      (s.leaveDeep (wakeCode w)).emptyLatch.pwr.saved = false) ∧
    (¬ woken 3 → exec (.deepExit w) s = .next s) ∧
    (due → exec .hbmSelfRefreshReturn s = .next { s with pwr := { s.pwr with selfRefresh := true } }) ∧
    (¬ due → exec .hbmSelfRefreshReturn s = .next s)

/-- UNIT_SLEEP and UNIT_WAKE (R117, R358): a unit of a kind that may sleep, with no work and past its hold time, falls
asleep, and any other stays awake; one with work wakes while the device is Active, and the grids it wakes beside take
up work. A placed tile that has slept for more than 100 ms calibrates first, and the time asleep does not count
towards its next calibration. THERMAL_SAMPLE, THROTTLE_RELEASE and THERMAL_TRIP (R124, R368, R369). A sample shows the
hottest reading; above THROTTLE the grids are throttled, which is counted and reported once, and the throttle ends
after 100 ms below it by 5 °C, and not before. At 125 °C the device records the trip and loses power. With the power
off, and a sample in Deep, nothing happens. -/
def Obligations.UnitsSleepAndTemperatureActs : Prop :=
  (∀ (s : State) (k : SleepKind) (n : Nat),
     let rests : Prop := (k, n) ∈ s.units.awake ∧ bitOf (s.f F.pwrSleepCfgSleepEn) (sleepBit k) = true ∧
       s.unitWork k n = false ∧ ∀ a, mget (unitKey k n) s.units.woke = some a → s.holdTime k ≤ 320 * (s.aon - a)
     let wakes : Prop := s.pwr.on = true ∧ s.pst_ = 1 ∧ n < sleepUnits k ∧ (k, n) ∉ s.units.awake ∧ s.unitWork k n = true
     let t := ({ s with units := { s.units with awake := s.units.awake ++ [(k, n)] } } : State).stampUnit k n
     let u : State := { t with units := { t.units with slept := mdel n t.units.slept } }
     let asleep := match mget n s.units.slept with
       | none => 0
       | some a => s.aon - a
     (rests → ∃ t : State, exec (.unitSleep k n) s = .next t ∧ (k, n) ∉ t.units.awake ∧
       (∀ x, x ≠ (k, n) → (x ∈ t.units.awake ↔ x ∈ s.units.awake)) ∧
       (k = .tile → mget n t.units.slept = some s.aon) ∧ t.regs = s.regs ∧ t.arr = s.arr) ∧
     (¬ rests → exec (.unitSleep k n) s = .next s) ∧
     (wakes → k ≠ .tile → exec (.unitWake k n) s = .next t.dispatch ∧ (k, n) ∈ t.units.awake) ∧
     (wakes → k = .tile → (s.tile n).state ≠ 1 → exec (.unitWake k n) s = .next u) ∧
     (wakes → k = .tile → (s.tile n).state = 1 → 312500 < asleep → exec (.unitWake k n) s =
       .next (u.modTile n (fun x => { x with
         due := true, calFirst := true, fits := x.fits.map (fun f => { f with done := false }),
         lastCal := x.lastCal + asleep }))) ∧
     (wakes → k = .tile → (s.tile n).state = 1 → asleep ≤ 312500 → exec (.unitWake k n) s =
       .next (u.modTile n (fun x => { x with lastCal := x.lastCal + asleep }))) ∧
     (¬ wakes → exec (.unitWake k n) s = .next s)) ∧
  (∀ (s : State) (temps : List Int) (h : Int),
     let released : Prop := s.fb F.pwrThermalThrottled = true ∧ ∃ a, s.pwr.coolAt = some a ∧ a + 312500 ≤ s.aon
     let trips : Prop := s.pwr.on = true ∧ 500 ≤ s.hottest
     (s.pwr.on = true → s.pst_ ≠ 3 → -32768 ≤ h → h < 32768 → ∃ t : State, exec (.thermalSample temps h) s = .next t ∧
       t.hottest = h ∧
       (s.throttleAt < h → t.fb F.pwrThermalThrottled = true) ∧
       (s.throttleAt < h → s.fb F.pwrThermalThrottled = false →
         t.f F.pwrCountsThrottles = min (2 ^ 32 - 1) (s.f F.pwrCountsThrottles + 1)) ∧
       (h ≤ s.throttleAt → t.fb F.pwrThermalThrottled = s.fb F.pwrThermalThrottled) ∧
       (h ≤ s.throttleAt ∨ s.fb F.pwrThermalThrottled = true → t.f F.pwrCountsThrottles = s.f F.pwrCountsThrottles) ∧
       (h ≤ s.throttleAt - 20 → t.pwr.coolAt = some (s.pwr.coolAt.getD s.aon)) ∧
       (s.throttleAt - 20 < h → t.pwr.coolAt = none)) ∧
     (s.pwr.on = false ∨ s.pst_ = 3 → exec (.thermalSample temps h) s = .next s) ∧
     (released → exec .throttleRelease s = .next (((s.setF F.pwrThermalThrottled 0).ev 0x9003 unitPwr 0 0).pwrInt)) ∧
     (¬ released → exec .throttleRelease s = .next s) ∧
     (trips → exec .thermalTrip s = .next ({ s with pwr := { s.pwr with trip := some s.hottest } } : State).powerDown ∧
       ∃ t : State, exec .thermalTrip s = .next t ∧ t.pwr.on = false ∧ t.pwr.trip = some s.hottest) ∧
     (¬ trips → exec .thermalTrip s = .next s))

/-- PWR_EN_HIGH, PWR_EN_LOW, INPUT_POWER_APPLIED, INPUT_POWER_REMOVED, INPUT_OUT_OF_RANGE, POWER_GOOD and COLD_RST_N
(R360, R445 to R448). The power-up sequence begins when PWR_EN is high and the input is in range; POWER_GOOD ends it,
and the boot of a cold reset is due with nothing left but what is kept without power. PWR_EN low, the input gone or
out of range, and the pin of cold reset take power away; the pin then starts the sequence again. An edge that has come
already, an input within its bounds and a pulse that is too short change nothing. -/
def Obligations.PowerComesAndGoes : Prop :=
  ∀ (s : State) (v us : Nat),
    let up : Prop := s.pwr.on = true ∨ s.pwr.rising = true
    let range : Prop := (v < 4600 ∧ 1000 ≤ us) ∨ 5700 < v
    (s.pwr.enable = false → ∃ t : State, exec .pwrEnHigh s = .next t ∧ t.pwr.enable = true ∧ t.pwr.on = s.pwr.on ∧
      (¬ up → (t.pwr.rising = true ↔ s.pwr.inputOk = true)) ∧ (up → t.pwr.rising = s.pwr.rising)) ∧
    (s.pwr.enable = true → exec .pwrEnHigh s = .next s) ∧
    (s.pwr.inputOk = false → ∃ t : State, exec .inputPowerApplied s = .next t ∧ t.pwr.inputOk = true ∧ t.pwr.on = s.pwr.on ∧
      (¬ up → (t.pwr.rising = true ↔ s.pwr.enable = true)) ∧ (up → t.pwr.rising = s.pwr.rising)) ∧
    (s.pwr.inputOk = true → exec .inputPowerApplied s = .next s) ∧
    (∃ t : State, exec .pwrEnLow s = .next t ∧ t.pwr.enable = false ∧ t.pwr.on = false ∧ t.pwr.rising = false ∧
      t.fuses = s.fuses ∧ t.host = s.host ∧ (up → t.hbm = [] ∧ t.scratch = [] ∧ t.sch.inflight = [])) ∧
    (∃ t : State, exec .inputPowerRemoved s = .next t ∧ t.pwr.inputOk = false ∧ t.pwr.on = false ∧ t.pwr.rising = false ∧
      t.fuses = s.fuses ∧ t.host = s.host ∧ (up → t.hbm = [] ∧ t.scratch = [] ∧ t.sch.inflight = [])) ∧
    (range → ∃ t : State, exec (.inputOutOfRange v us) s = .next t ∧ t.pwr.inputOk = false ∧ t.pwr.on = false ∧
      t.pwr.rising = false ∧ t.fuses = s.fuses ∧ t.host = s.host) ∧
    (¬ range → exec (.inputOutOfRange v us) s = .next s) ∧
    (s.pwr.rising = true → ∃ t : State, exec .powerGood s = .next t ∧ t.pwr.on = true ∧ t.pwr.rising = false ∧
      t.boot.awaits = some 0 ∧ t.hbm = [] ∧ t.scratch = [] ∧ t.fuses = s.fuses ∧ t.sch.inflight = []) ∧
    (s.pwr.rising = false → exec .powerGood s = .next s) ∧
    (10 ≤ us → up → ∃ t : State, exec (.coldRstN us) s = .next t ∧ t.pwr.on = false ∧ t.fuses = s.fuses ∧
      t.hbm = [] ∧ t.sch.inflight = [] ∧ (t.pwr.rising = true ↔ s.pwr.enable = true ∧ s.pwr.inputOk = true)) ∧
    (us < 10 → exec (.coldRstN us) s = .next s)

/-- PERST_ASSERT, PERST_DEASSERT, HOT_RESET, DEV_RESET, SERVICE_RESET, PUPPETEER_WATCHDOG and TILE_RESET (R304, R339,
R353, R383, R393, R400, R401, R403, R404). A warm reset keeps HBM and the always-on counter, loses the program and
waits for its boot, which PERST holds back until it ends; the error state, which a cold reset alone leaves, stays.
DEV.RESET acts with the key and its type alone; a service reset fails the step in progress and restarts the puppeteer,
and so does its watchdog; a hot reset loses the link; a tile reset clears the periphery of one tile and counts. A
write that has no effect changes nothing; in Deep it is latched, and a closed BAR counts a violation. -/
def Obligations.ResetsTakeEffect : Prop :=
  ∀ (s : State) (v : Nat),
    let dev : Prop := bitsOf v 8 8 = 0xa5 ∧ bitsOf v 0 2 = 1
    let svc : Prop := bitsOf v 8 8 = 0xa5 ∧ bitsOf v 0 2 = 2
    let tile : Prop := bitOf v 31 = true ∧ bitsOf v 0 14 < tileCount
    let resumes : Prop := s.pwr.on = true ∧ s.boot.awaits = none ∧ s.fb F.devBootReady = false ∧ s.boot.stopped = false
    let barks : Prop := s.fb F.devBootReady = true ∧ s.boot.stopped = false ∧ s.sec.halted = false ∧ s.pst_ ≠ 3
    let writes : List Instr := (if dev then [.devReset v] else []) ++ (if svc then [.serviceReset v] else []) ++ [.tileReset v]
    (s.pwr.perst = false → s.pwr.on = true → ∃ t : State, exec .perstAssert s = .next t ∧ t.pwr.perst = true ∧
      t.hbm = s.hbm ∧ t.aon = s.aon ∧ t.fuses = s.fuses ∧ t.load.loaded = false ∧ t.sch.inflight = [] ∧ t.cxl.up = false ∧
      t.f F.devBootCause = 1 ∧ t.boot.stopped = s.errorState) ∧
    (s.pwr.perst = false → s.pwr.on = false →
      exec .perstAssert s = .next { s with pwr := { s.pwr with perst := true } }) ∧
    (s.pwr.perst = true → exec .perstAssert s = .next s) ∧
    (s.pwr.perst = true → resumes → ∃ t : State, exec .perstDeassert s = .next t ∧ t.pwr.perst = false ∧
      t.boot.awaits = some 1 ∧ t.boot.since = s.aon) ∧
    (s.pwr.perst = true → ¬ resumes → exec .perstDeassert s = .next { s with pwr := { s.pwr with perst := false } }) ∧
    (s.pwr.perst = false → exec .perstDeassert s = .next s) ∧
    (s.pwr.on = true → s.cxl.up = true → ∃ t : State, exec .hotReset s = .next t ∧ t.cxl.up = false ∧
      t.f F.devBootCause = 2 ∧ t.sec.halted = false ∧ t.f F.secStatusDebug = 0 ∧
      (s.sec.halted = false → t.load = s.load ∧ t.fab = s.fab ∧ t.hbm = s.hbm)) ∧
    (s.pwr.on = false ∨ s.cxl.up = false → exec .hotReset s = .next s) ∧
    (s.hostOpen → dev → exec (.devReset v) s = .next (s.deviceReset 3) ∧ ∃ t : State, exec (.devReset v) s = .next t ∧
      t.boot.awaits = some 3 ∧ t.hbm = s.hbm ∧ t.aon = s.aon ∧ t.load.loaded = false ∧ t.sch.inflight = [] ∧
      t.cxl.up = s.cxl.up) ∧
    (s.hostOpen → svc → exec (.serviceReset v) s = .next s.serviceReset) ∧
    (¬ dev → exec (.devReset v) s = .next s) ∧
    (¬ svc → exec (.serviceReset v) s = .next s) ∧
    (barks → exec .puppeteerWatchdog s = .next s.serviceReset) ∧
    (¬ barks → exec .puppeteerWatchdog s = .next s) ∧
    (s.hostOpen → tile → exec (.tileReset v) s = .next (State.resetTile (bitsOf v 0 14) s)) ∧
    (s.hostOpen → ¬ tile → exec (.tileReset v) s = .next s) ∧
    (∀ c ∈ writes,
      (s.barReached = false → exec c s = .next s) ∧
      (s.barReached = true → s.pst_ = 3 → exec c s = .next (s.latchAccess c)) ∧
      (s.barReached = true → s.pst_ ≠ 3 → s.barClosed = true → exec c s = .next (s.violation 5)))

/-- BOOT, BOOT_WATCHDOG and ROLLBACK_ADVANCE (R372, R377, R378, R397 to R399, R408, R410). A boot that is due, whose
self-tests pass and whose fuses check, runs the image of the bank it begins with where that is accepted, of the other
bank where only that one is, and reaches ready; with neither it stops. A self-test that fails stops it, and so do
fuses that do not check and an error state that no cold reset has ended. Ten seconds without ready end the boot: a
trial by a reset, any other by the error state. After ready the rollback fuses below the running SVN are blown, up to
one that does not program, and the new count shows. -/
def Obligations.BootsRun : Prop :=
  ∀ (s : State) (cause : Nat) (r : BootReads) (i : Image) (p : Nat),
    let u := s.showFuses.showSettings
    let c := u.bootBank
    let b := c.2
    let x := c.1.ev 0xa002 unitSec b (c.1.bankFault b)
    let due : Prop := s.pwr.on = true ∧ s.boot.awaits = some cause
    let sound : Prop := s.fb F.secStatusSelftestFail = false ∧ s.fb F.devBootFail = false
    let late : Prop := s.pwr.on = true ∧ s.boot.awaits ≠ none ∧ s.boot.since + 31250000 ≤ s.aon
    let full := s.putThermo (blowRange s.fuses.thermo s.rollback i.svn)
    let behind : Prop := s.fb F.devBootReady = true ∧ s.rollback < i.svn
    (s.boot.next = none → c.1 = u ∧ b = s.boot.active) ∧
    (∀ n, s.boot.next = some n → s.boot.trial = false → b = n ∧ c.1.boot.trial = true) ∧
    (∀ n, s.boot.next = some n → s.boot.trial = true → b = s.boot.active ∧ c.1.boot.next = none ∧ c.1.boot.trial = false) ∧
    (due → sound → u.fuseCorrupt = false →
      (c.1.bankFault b = 0 → c.1.bankImage b = some i →
        exec (.boot true r) s = .next (c.1.bootImage b cause r.hottest r.fits i)) ∧
      (c.1.bankFault b ≠ 0 → x.bankFault (1 - b) = 0 → x.bankImage (1 - b) = some i →
        exec (.boot true r) s = .next (x.bootImage (1 - b) cause r.hottest r.fits i)) ∧
      (c.1.bankFault b ≠ 0 → x.bankFault (1 - b) ≠ 0 →
        exec (.boot true r) s = .next (((x.ev 0xa003 unitSec 0 0).setF F.devBootStage 3).stop))) ∧
    ((c.1.bootImage b cause r.hottest r.fits i).f F.devBootReady = 1 ∧ (c.1.bootImage b cause r.hottest r.fits i).boot.awaits = none ∧
      (c.1.bootImage b cause r.hottest r.fits i).boot.running = some i ∧ (c.1.bootImage b cause r.hottest r.fits i).f F.devBootCause = cause % 16) ∧
    (due → sound → ∃ t : State, exec (.boot false r) s = .next t ∧ t.boot.stopped = true ∧ t.boot.awaits = none ∧
      t.f F.secStatusSelftestFail = 1 ∧ t.f F.secStatusApproved = 0) ∧
    (due → sound → u.fuseCorrupt = true → exec (.boot true r) s = .next ((((u.setF F.devBootStage 1).setF
      F.otpStatusCorrupt 1).ev 0xa004 unitSec (u.effective.getD 0) 0).stop)) ∧
    (due → ¬ sound → ∀ good, exec (.boot good r) s = .next s.stop) ∧
    (s.pwr.on = false ∨ s.boot.awaits = none → ∀ good, exec (.boot good r) s = .next s) ∧
    (late → s.bootBank.1.boot.trial = true → exec .bootWatchdog s = .next (s.bootBank.1.deviceReset 5)) ∧
    (late → s.bootBank.1.boot.trial = false → exec .bootWatchdog s =
      .next ((((s.bootBank.1.setF F.devBootFail 1).ev 0x0013 unitDevice 0 0)).stop)) ∧
    (¬ late → exec .bootWatchdog s = .next s) ∧
    (s.boot.running = some i → behind →
      exec (.rollbackAdvance none) s = .next (full.ev 0xa005 unitSec full.rollback 0) ∧
      (s.rollback ≤ p → p < i.svn → exec (.rollbackAdvance (some p)) s =
        .next ((s.putThermo (blowRange s.fuses.thermo s.rollback p)).ev 0xa006 unitSec p 0)) ∧
      (p < s.rollback ∨ i.svn ≤ p →
        exec (.rollbackAdvance (some p)) s = .next (full.ev 0xa005 unitSec full.rollback 0))) ∧
    (s.boot.running = some i → ¬ behind → ∀ o, exec (.rollbackAdvance o) s = .next s) ∧
    (s.boot.running = none → ∀ o, exec (.rollbackAdvance o) s = .next s)

/-- LIFECYCLE, KEY_ROTATE, FEATURES and SCRUB_ALL (R372, R384 to R389, R395, R409). A transition that the table allows
seals a new generation that holds the target, one that it does not is denied, and retirement, which takes a token in
SECURED, blows the retirement word and scrubs every tile. Keys and features change under a token alone, each with its
record. SCRUB_ALL scrubs every tile where nothing of a job is out, and is denied otherwise. In the error state each
ends with SELFTEST, and while a command is in progress it changes nothing. -/
def Obligations.FusesAreProgrammed : Prop :=
  ∀ (s : State) (arg : Nat) (stuck : Option Nat),
    let d := s.setF F.secCmdStatusLastCmd 4
    let lc := d.f F.secStatusLifecycle
    let seals : Prop := (lc = 0 ∧ (arg = 1 ∨ arg = 2)) ∨ (lc = 1 ∧ arg = 2)
    let gen := d.newGen (setBits d.recordBase 16 8 arg) stuck
    let k := s.setF F.secCmdStatusLastCmd 5
    let f := s.setF F.secCmdStatusLastCmd 7
    let flc := f.f F.secStatusLifecycle
    let c := s.setF F.secCmdStatusLastCmd 6
    let keys := k.useNonce.newGen k.useNonce.rotated stuck
    let bits := f.useNonce.newGen (setBits f.useNonce.recordBase 32 32 (pieceNat f.useNonce.tokenBytes 232 4)) stuck
    let named : List (Instr × Nat) :=
      [(.lifecycle arg stuck, 4), (.keyRotate stuck, 5), (.scrubAll, 6), (.features stuck, 7)]
    (s.secOpen →
      (seals → exec (.lifecycle arg stuck) s = .next (gen.1.setF F.secCmdStatusStatus gen.2)) ∧
      (lc < 2 → ∃ t : State, exec (.lifecycle 3 none) s = .next t ∧ t.fuses.retire = 0xffffffff ∧
        t.f F.secScrubRunning = 1 ∧ t.f F.secCmdStatusBusy = 1 ∧ t.sec.scrubLeft = List.range tileCount) ∧
      (lc < 2 → exec (.lifecycle 3 stuck) s = .next (d.retire_ stuck).1) ∧
      (lc = 2 → d.tokenFault 2 [3] = 0 → exec (.lifecycle 3 stuck) s = .next (d.useNonce.retire_ stuck).1) ∧
      (∀ v, lc = 2 → d.tokenFault 2 [3] = v → v ≠ 0 → exec (.lifecycle 3 stuck) s =
        .next ((d.useNonce.ev 0xa00b unitSec v 0).setF F.secCmdStatusStatus v)) ∧
      (¬ seals → arg ≠ 3 ∨ 2 < lc → exec (.lifecycle arg stuck) s = .next (d.setF F.secCmdStatusStatus 1)) ∧
      (k.tokenFault 3 [0] = 0 → exec (.keyRotate stuck) s = .next (keys.1.setF F.secCmdStatusStatus keys.2)) ∧
      (k.tokenFault 3 [0] ≠ 0 → exec (.keyRotate stuck) s = .next ((k.useNonce.ev 0xa00b unitSec (k.tokenFault 3 [0]) 0).setF
        F.secCmdStatusStatus (k.tokenFault 3 [0]))) ∧
      (flc ≠ 0 → flc ≠ 3 → f.tokenFault 4 [0] = 0 →
        exec (.features stuck) s = .next (bits.1.setF F.secCmdStatusStatus bits.2)) ∧
      (flc ≠ 0 → flc ≠ 3 → f.tokenFault 4 [0] ≠ 0 → exec (.features stuck) s =
        .next ((f.useNonce.ev 0xa00b unitSec (f.tokenFault 4 [0]) 0).setF F.secCmdStatusStatus (f.tokenFault 4 [0]))) ∧
      (flc = 0 ∨ flc = 3 → exec (.features stuck) s = .next (f.useNonce.setF F.secCmdStatusStatus 1)) ∧
      (c.mayScrubAll = true → ∃ t : State, exec .scrubAll s = .next t ∧ t.f F.secCmdStatusBusy = 1 ∧
        t.f F.secScrubRunning = 1 ∧ t.sec.scrubLeft = List.range tileCount) ∧
      (c.mayScrubAll = false → exec .scrubAll s = .next (c.setF F.secCmdStatusStatus 1))) ∧
    (∀ x n, (x, n) ∈ named →
      (s.barReached = false → exec x s = .next s) ∧
      (s.barReached = true → s.pst_ = 3 → exec x s = .next (s.latchAccess x)) ∧
      (s.barReached = true → s.pst_ ≠ 3 → s.fb F.secCmdStatusBusy = true → exec x s = .next s) ∧
      (s.barReached = true → s.pst_ ≠ 3 → s.fb F.secCmdStatusBusy = false → s.boot.stopped = true →
        exec x s = .next ((s.setF F.secCmdStatusLastCmd n).setF F.secCmdStatusStatus 8)))

/-- NONCE, DEBUG_REQ, DEBUG_REL, SEC_BAD_CMD and ENTROPY_HEALTH_FAIL (R372, R390 to R393, R395). A nonce is new, is
shown in four registers and ends with DONE. A debug level that is held already, or is lower, ends with DONE; in OPEN a
higher one is granted without a token, unless it is halt and the loop runs or replay is resident; in SECURED it takes
a token, whose first fault is the status and is reported, and the nonce is used up either way; release closes the
grant. A value that names no command or no level ends with BAD_CMD, and any command in the error state with SELFTEST.
A command while one is in progress changes nothing. A health test that fails stops the device. DAP_ACCESS (R390):
without a grant, without power and in Deep the port does nothing; under observe it reads the rings and the trace of a
unit, whose words the spec leaves open; under halt it also halts and resumes the puppeteer, and reads and writes
memory and registers. An access that halt alone allows does nothing under observe, nor does one beyond a memory. -/
def Obligations.SecurityAndDebugCommands : Prop :=
  (∀ (s : State) (arg v alg : Nat),
     let d := s.setF F.secCmdStatusLastCmd 2
     let now := d.f F.secStatusDebug
     let denied : Prop := arg = 2 ∧ (d.looping = true ∨ d.resident = true)
     let level : Prop := arg = 1 ∨ arg = 2
     let fault := d.tokenFault 1 (if arg = 1 then [1, 2] else [2])
     let fails : Prop := s.pwr.on = true ∧ s.boot.stopped = false
     let named : List (Instr × Nat) := [(.nonce, 1), (.debugReq arg, 2), (.debugRel, 3), (.secBadCmd v, bitsOf v 0 8)]
     (s.secOpen → ∃ t : State, exec .nonce s = .next t ∧ t.f F.secCmdStatusStatus = 0 ∧ t.f F.secCmdStatusLastCmd = 1 ∧
       t.sec.nonce = some (Config.random s.freeCtr % 2 ^ 256) ∧ t.f F.secNonce0 = Config.random s.freeCtr % 2 ^ 64 ∧
       t.f F.secNonce1 = Config.random s.freeCtr % 2 ^ 256 / 2 ^ 64 % 2 ^ 64 ∧
       t.f F.secNonce2 = Config.random s.freeCtr % 2 ^ 256 / 2 ^ 128 % 2 ^ 64 ∧
       t.f F.secNonce3 = Config.random s.freeCtr % 2 ^ 256 / 2 ^ 192 % 2 ^ 64 ∧ t.freeCtr = s.freeCtr + 1) ∧
     (s.secOpen →
       (¬ level → exec (.debugReq arg) s = .next (d.setF F.secCmdStatusStatus 7)) ∧
       (level → arg = now → exec (.debugReq arg) s = .next (d.setF F.secCmdStatusStatus 0)) ∧
       (level → arg < now → exec (.debugReq arg) s = .next (d.lowerDebug.setF F.secCmdStatusStatus 0)) ∧
       (level → now < arg → d.f F.secStatusLifecycle ≠ 2 → ¬ denied →
         exec (.debugReq arg) s = .next ((d.grantDebug arg).setF F.secCmdStatusStatus 0)) ∧
       (level → now < arg → d.f F.secStatusLifecycle ≠ 2 → denied →
         exec (.debugReq arg) s = .next (d.setF F.secCmdStatusStatus 1)) ∧
       (level → now < arg → d.f F.secStatusLifecycle = 2 → denied →
         exec (.debugReq arg) s = .next (d.useNonce.setF F.secCmdStatusStatus 1)) ∧
       (level → now < arg → d.f F.secStatusLifecycle = 2 → ¬ denied → fault = 0 →
         exec (.debugReq arg) s = .next ((d.useNonce.grantDebug arg).setF F.secCmdStatusStatus 0)) ∧
       (level → now < arg → d.f F.secStatusLifecycle = 2 → ¬ denied → fault ≠ 0 →
         exec (.debugReq arg) s = .next ((d.useNonce.ev 0xa00b unitSec fault 0).setF F.secCmdStatusStatus fault))) ∧
     (s.secOpen → exec .debugRel s = .next (((s.setF F.secCmdStatusLastCmd 3).closeDebug 0).setF F.secCmdStatusStatus 0)) ∧
     (s.secOpen → exec (.secBadCmd v) s =
       .next ((s.setF F.secCmdStatusLastCmd (bitsOf v 0 8)).setF F.secCmdStatusStatus 7)) ∧
     (∀ c n, (c, n) ∈ named →
       (s.barReached = false → exec c s = .next s) ∧
       (s.barReached = true → s.pst_ = 3 → exec c s = .next (s.latchAccess c)) ∧
       (s.barReached = true → s.pst_ ≠ 3 → s.fb F.secCmdStatusBusy = true → exec c s = .next s) ∧
       (s.barReached = true → s.pst_ ≠ 3 → s.fb F.secCmdStatusBusy = false → s.boot.stopped = true →
         exec c s = .next ((s.setF F.secCmdStatusLastCmd n).setF F.secCmdStatusStatus 8))) ∧
     (fails → ∃ t : State, exec (.entropyHealthFail alg) s = .next t ∧ t.boot.stopped = true ∧
       t.f F.secStatusSelftestFail = 1 ∧ t.f F.secStatusApproved = 0) ∧
     (¬ fails → exec (.entropyHealthFail alg) s = .next s)) ∧
  (∀ (s : State) (op : DapOp) (space a : Nat) (b : Byte) (ext : Bool) (off unit v : Nat),
     let level := s.f F.secStatusDebug
     let live : Prop := s.pwr.on = true ∧ s.pst_ ≠ 3
     let t := if s.pst_ = 2 then { s with pwr := { s.pwr with selfRefresh := false, hbmAt := s.aon } } else s
     let given (u : State) (x : List Byte) : State := { u with out := { u.out with data := u.out.data ++ [(x, false)] } }
     let halts : List DapOp := [.haltPuppeteer, .stepPuppeteer, .resumePuppeteer, .readMem space a, .writeMem space a b,
       .readReg off, .writeReg off v]
     (¬ live ∨ level = 0 → exec (.dapAccess op) s = .next s) ∧
     (live → level ≠ 0 →
       exec (.dapAccess (.readRing ext off)) s = .next (given s [(if ext then s.evt.ext else s.evt.ring).byte off]) ∧
       exec (.dapAccess (.readTrace unit)) s =
         .next (given { s with freeCtr := s.freeCtr + 1 } (leBytes 8 (Config.freeWord (s.freeCtr + unit))))) ∧
     (live → level ≠ 0 → level ≠ 2 → ∀ o ∈ halts, exec (.dapAccess o) s = .next s) ∧
     (live → level = 2 →
       exec (.dapAccess .haltPuppeteer) s = .next { s with sec := { s.sec with halted := true } } ∧
       exec (.dapAccess .stepPuppeteer) s = .next s ∧
       exec (.dapAccess .resumePuppeteer) s = .next { s with sec := { s.sec with halted := false } } ∧
       (space < 2 → a < spaceTop space →
         exec (.dapAccess (.writeMem space a b)) s = .next (t.wr space a b) ∧
         exec (.dapAccess (.readMem space a)) s = .next (given t [s.rd space a])) ∧
       (2 ≤ space ∨ spaceTop space ≤ a → exec (.dapAccess (.writeMem space a b)) s = .next s ∧
         exec (.dapAccess (.readMem space a)) s = .next s) ∧
       exec (.dapAccess (.readReg off)) s = .next (given s (leBytes 8 (s.readReg off))) ∧
       (∀ xs, fieldsAt off = some xs → exec (.dapAccess (.writeReg off v)) s =
         .next (s.regEffect off xs (s.regWrite xs off 8 v))) ∧
       (fieldsAt off = none → exec (.dapAccess (.writeReg off v)) s = .next s)))

/-- WINDOW_ACCESS and DECODER_COMMIT (R72, R341 to R343, R348, R352, R363, R365, R383). The decoder is committed for
the whole window at one way from a base the map allows, and refuses anything else with its error bit; a committed one
stays. An access inside the window, through the committed decoder or through BAR4, reads the bytes of HBM at the base
with their poison, and a write stores them and ends their poison; while RUN is 1 a write that touches the descriptor
table is a violation and stores nothing. In CXL mode an access that the decoder does not take has no effect. In PCIe
mode an access beyond the window, or to one whose base the map does not allow, is a violation of kind BAR_OFFSET, and
a read of it returns zero. In Deep an access is latched. -/
def Obligations.WindowReachesMemory : Prop :=
  ∀ (s : State) (a n size ways : Nat) (data : Option (List Byte)),
    let base := s.f F.cxlWinBase * 2 ^ 30 + a
    let len := match data with
      | none => n
      | some b => b.length
    let t := if s.pst_ = 2 then { s with pwr := { s.pwr with selfRefresh := false, hbmAt := s.aon } } else s
    let effect : State := match data with
      | none => { t with out := { t.out with data := t.out.data ++ [(s.rdBytes 1 base n, s.poisonedRange 1 base n)] } }
      | some b => if s.fb F.schCtrlRun = true ∧ s.inTable base len = true then t.violation 2
        else (t.wrBytes 1 base b).unpoison 1 base len
    let zero (u : State) : State := match data with
      | none => { u with out := { u.out with data := u.out.data ++ [(leBytes n 0, false)] } }
      | some _ => u
    let taken : Prop := s.fb F.cxlStatusWinCommitted = true ∧ s.barClosed = false ∧ s.cxl.cmRefused = false ∧
      a + len ≤ windowBytes
    let mapped : Prop := s.f F.cxlWinBase ≤ baseTop ∧ a + len ≤ windowBytes
    let fits : Prop := size = windowBytes ∧ ways = 1 ∧ s.f F.cxlWinBase ≤ baseTop ∧ s.ideShut = false
    let decoder (ok : Bool) : State := { s with cxl := { s.cxl with commitErr := !ok } }
    (s.pcieMode = false →
      (taken → s.linkOpen → exec (.windowAccess a n data) s = .next effect) ∧
      (taken → s.reachable = true → s.pst_ = 3 →
        exec (.windowAccess a n data) s = .next (s.latchAccess (.windowAccess a n data))) ∧
      (¬ taken ∨ s.reachable = false → exec (.windowAccess a n data) s = .next s)) ∧
    (s.pcieMode = true →
      (s.hostOpen → mapped → exec (.windowAccess a n data) s = .next effect) ∧
      (s.hostOpen → ¬ mapped → exec (.windowAccess a n data) s = .next (zero (s.violation 5))) ∧
      (s.barReached = true → s.pst_ = 3 →
        exec (.windowAccess a n data) s = .next (s.latchAccess (.windowAccess a n data))) ∧
      (s.barReached = true → s.pst_ ≠ 3 → s.barClosed = true →
        exec (.windowAccess a n data) s = .next (zero (s.violation 5))) ∧
      (s.barReached = false → exec (.windowAccess a n data) s = .next s) ∧
      exec (.decoderCommit size ways) s = .next s) ∧
    (s.pcieMode = false → s.barReached = true → s.pst_ ≠ 3 →
      (s.boot.stopped = true → s.ideShut = false → exec (.decoderCommit size ways) s = .next (s.violation 5)) ∧
      (s.boot.stopped = false ∨ s.ideShut = true →
        (s.fb F.cxlStatusWinCommitted = true → exec (.decoderCommit size ways) s = .next s) ∧
        (s.fb F.cxlStatusWinCommitted = false → fits →
          exec (.decoderCommit size ways) s = .next ((decoder true).setF F.cxlStatusWinCommitted 1)) ∧
        (s.fb F.cxlStatusWinCommitted = false → ¬ fits →
          exec (.decoderCommit size ways) s = .next (decoder false)))) ∧
    (s.pcieMode = false → s.barReached = true → s.pst_ = 3 →
      exec (.decoderCommit size ways) s = .next (s.latchAccess (.decoderCommit size ways))) ∧
    (s.barReached = false → exec (.decoderCommit size ways) s = .next s)

/-- CACHE_RESPONSE, HOST_ACCESS_TIMEOUT, BUS_MASTER_ENABLE, MEMORY_SPACE_ENABLE and CXL_LINK_UP (R335, R336, R341,
R346, R352, R365, R403, R441). The answer to a write that is out ends it; a failed one is retried once and then
dropped, counted and reported, and so is one that has no answer in 50 ms. An answer to an instruction's read that
failed marks that instruction, one to the ingest's read its batch. An answer that nothing waits for is a violation of
kind CACHE_RESPONSE. The enables of configuration space are set, and what waited for the host is written. A link
trains to the mode, the width and the speed that the host accepts: CXL needs 16 GT/s or more, replay ends where it is
PCIe, and a narrow link is reported. IDE_INTEGRITY_FAIL, IDE_KM, SPDM_SESSION_START and SPDM_SESSION_END (R336, R351,
R365, R372, R373, R380). A stream whose check fails is insecure and is reported; in a session a stream gets its keys
and is secure, and without one, in the error state, after retirement, or for CXL.cachemem in PCIe mode, it is not. A
session begins only on a device with an identity, and its end is answered where one is open; in the error state the
answer is the error response. -/
def Obligations.LinkHostAndSessions : Prop :=
  (∀ (s : State) (tag w g : Nat) (cxl : Bool) (x : HostWrite) (o : HostOutcome),
     let out : State := s.setOuts (s.cxl.outs.filter (fun y => y.tag != tag))
     let again (t : State) : State :=
       t.setOuts (t.cxl.outs.map (fun y => if y.tag = x.tag then { y with again := true } else y))
     let dropped (t : State) : State :=
       let u := ((t.undoWrite x).setOuts (t.cxl.outs.filter (fun y => y.tag != x.tag))).addF F.cxlHostErrLost 1
       (if x.mirror = true then u.addF F.evtStatusMirrorLost 1 else u).ev 0x8003 unitCxl 0
         ((x.parts.head?.map (fun p => p.1)).getD 0)
     let bad (t : State) : State := { t with cxl := { t.cxl with badHost := t.cxl.badHost ++ [tag / 4] } }
     let writes : Prop := tag % 4 = 1 ∧ s.cxl.outs.find? (fun y => y.tag == tag) = some x
     let reads : Prop := tag % 4 = 0 ∧ s.instReads (tag / 4) = true
     let ingests : Prop := tag = 2 ∧ s.ingestReads = true
     let none_ : Prop := (tag % 4 = 1 → s.cxl.outs.find? (fun y => y.tag == tag) = none) ∧ ¬ reads ∧ ¬ ingests
     let counted : State := match o with
       | .ok => s
       | .error => s.addF F.cxlHostErrAbort 1
       | .poison => s.addF F.cxlHostErrPoison 1
     let late := s.addF F.cxlHostErrTimeout 1
     let trains : Prop := s.pwr.on = true ∧ s.pwr.perst = false ∧ s.cxl.up = false ∧ (w = 4 ∨ w = 8 ∨ w = 16) ∧
       (g = 3 ∨ g = 4 ∨ g = 5)
     let pcie := !(cxl && decide (4 ≤ g))
     let up := ((({ s with cxl := { s.cxl with up := true } } : State).setF F.cxlStatusMode (natOfBool pcie)).setF
       F.cxlStatusWidth w).setF F.cxlStatusSpeed g
     let told := if w < 16 then up.ev 0x8001 unitCxl w 0 else up
     let mse : State := { s with cxl := { s.cxl with mse := true } }
     let enables : List Instr := [.cacheResponse tag o, .busMasterEnable, .memorySpaceEnable]
     (s.linkOpen →
       (writes ∨ reads ∨ ingests → o = .ok →
         exec (.cacheResponse tag o) s = .next (if tag % 4 = 1 then out else s)) ∧
       (writes → o ≠ .ok → x.again = false → exec (.cacheResponse tag o) s = .next (again counted)) ∧
       (writes → o ≠ .ok → x.again = true → exec (.cacheResponse tag o) s = .next (dropped counted)) ∧
       (reads → o ≠ .ok → exec (.cacheResponse tag o) s = .next (bad counted)) ∧
       (ingests → o ≠ .ok → exec (.cacheResponse tag o) s = .next counted.ingestFailed) ∧
       (none_ → exec (.cacheResponse tag o) s = .next (s.violation 8)) ∧
       exec .busMasterEnable s = .next (({ s with cxl := { s.cxl with bme := true } } : State).drainAll) ∧
       exec .memorySpaceEnable s = .next (if s.pcieMode = true then mse.setF F.cxlStatusWinCommitted 1 else mse)) ∧
     (∀ c ∈ enables, (s.reachable = false → exec c s = .next s) ∧
       (s.reachable = true → s.pst_ = 3 → exec c s = .next (s.latchAccess c))) ∧
     (s.pwr.on = true →
       (writes → x.again = false → exec (.hostAccessTimeout tag) s = .next (again late)) ∧
       (writes → x.again = true → exec (.hostAccessTimeout tag) s = .next (dropped late)) ∧
       (reads → exec (.hostAccessTimeout tag) s = .next (bad late)) ∧
       (ingests → exec (.hostAccessTimeout tag) s = .next late.ingestFailed) ∧
       (none_ → exec (.hostAccessTimeout tag) s = .next s)) ∧
     (s.pwr.on = false → exec (.hostAccessTimeout tag) s = .next s) ∧
     (trains → exec (.cxlLinkUp cxl w g) s = .next (if pcie then told.exitReplay else told)) ∧
     (trains → ∃ t : State, exec (.cxlLinkUp cxl w g) s = .next t ∧ t.cxl.up = true ∧ t.f F.cxlStatusMode = natOfBool pcie ∧
       t.f F.cxlStatusWidth = w ∧ t.f F.cxlStatusSpeed = g) ∧
     (¬ trains → exec (.cxlLinkUp cxl w g) s = .next s)) ∧
  (∀ (s : State) (c : Bool),
     let fails : Prop := s.pwr.on = true ∧ s.cxl.up = true ∧ s.fb (ideFld c) = true
     let keys : Prop := s.sec.sessions ≠ 0 ∧ s.boot.stopped = false ∧ s.f F.secStatusLifecycle ≠ 3 ∧
       ¬ (c = true ∧ s.pcieMode = true)
     let say (t : State) (r : Reply) : State := { t with out := { t.out with doe := t.out.doe ++ [r] } }
     let count (n : Nat) : State := { s with sec := { s.sec with sessions := n } }
     (fails → ∃ t : State, exec (.ideIntegrityFail c) s = .next (t.ev 0x8004 unitCxl (natOfBool c) 0) ∧
       t.fb (ideFld c) = false ∧ t.cxl.ras = s.cxl.ras + 1 ∧ t.cxl.cmRefused = (s.cxl.cmRefused || c)) ∧
     (¬ fails → exec (.ideIntegrityFail c) s = .next s) ∧
     (s.linkOpen →
       (keys → ∃ t : State, exec (.ideKm c) s = .next t ∧ t.fb (ideFld c) = true ∧
         t.cxl.cmRefused = (s.cxl.cmRefused && !c)) ∧
       (¬ keys → exec (.ideKm c) s = .next s) ∧
       (s.boot.stopped = false → s.sec.identity ≠ [] →
         exec .spdmSessionStart s = .next (say (count (s.sec.sessions + 1)) (.session true))) ∧
       (s.boot.stopped = false → s.sec.identity = [] → exec .spdmSessionStart s = .next (say s .unsupported)) ∧
       (s.boot.stopped = false → s.sec.sessions ≠ 0 →
         exec .spdmSessionEnd s = .next (say (count (s.sec.sessions - 1)) (.session false))) ∧
       (s.boot.stopped = false → s.sec.sessions = 0 → exec .spdmSessionEnd s = .next (say s .unsupported)) ∧
       (s.boot.stopped = true → exec .spdmSessionStart s = .next (say s .doeError) ∧
         exec .spdmSessionEnd s = .next (say s .doeError))) ∧
     (∀ x ∈ ([.ideKm c, .spdmSessionStart, .spdmSessionEnd] : List Instr), (s.reachable = false → exec x s = .next s) ∧
       (s.reachable = true → s.pst_ = 3 → exec x s = .next (s.latchAccess x))))

/-- DOE_DISCOVERY, CDAT_TABLE_ACCESS, GET_CERTIFICATE, CHALLENGE, GET_MEASUREMENTS and ATTESTATION_REPORT (R336, R343,
R350, R365, R372, R380, R381). A discovery names the object at its index and the next one, or no vendor beyond the
last, and CDAT the one memory of the window. A device with an identity answers with its certificate chain, with a
signature over the challenge, with its measurements and with the signed report of its state, for slot 0 alone; one
without an identity answers Unsupported, and in the error state every answer is the error response. Nothing else
changes but the count of free values. In Deep a request is latched, and a device that the link does not reach answers
nothing. -/
def Obligations.DeviceAttests : Prop :=
  ∀ (s : State) (k : Nat) (nonce : List Byte),
    let say (t : State) (r : Reply) : State := { t with out := { t.out with doe := t.out.doe ++ [r] } }
    let id_ : Prop := s.boot.stopped = false ∧ s.sec.identity ≠ []
    let spdm : List Instr := [.getCertificate k, .challenge k nonce, .getMeasurements nonce, .attestationReport nonce]
    (s.linkOpen →
      (s.boot.stopped = false → ∀ v ty, doeObjects[k]? = some (v, ty) →
        exec (.doeDiscovery k) s = .next (say s (.discovery k v ty (if k + 1 < 4 then k + 1 else 0)))) ∧
      (s.boot.stopped = false → 4 ≤ k → exec (.doeDiscovery k) s = .next (say s (.discovery k 0xffff 0xff 0))) ∧
      (s.boot.stopped = false → exec (.cdatTableAccess k) s = .next (say s (.cdat windowBytes 700 50))) ∧
      (id_ →
        exec (.getCertificate 0) s = .next (say s (.chain (s.chainBytes 0))) ∧
        (k ≠ 0 → exec (.getCertificate k) s = .next (say s .unsupported)) ∧
        (∃ sig, exec (.challenge 0 nonce) s =
          .next (say { s with freeCtr := s.freeCtr + 1 } (.challenge 0 nonce sig))) ∧
        (k ≠ 0 → exec (.challenge k nonce) s = .next (say s .unsupported)) ∧
        (∃ sig, exec (.getMeasurements nonce) s =
          .next (say { s with freeCtr := s.freeCtr + 1 } (.measurements s.measurements nonce sig))) ∧
        exec (.attestationReport nonce) s =
          .next (say s (.report (s.chainBytes 1) (s.signedReport (s.reportHeader nonce))))) ∧
      (s.boot.stopped = false → s.sec.identity = [] → ∀ c ∈ spdm, exec c s = .next (say s .unsupported)) ∧
      (s.boot.stopped = true → ∀ c ∈ [.doeDiscovery k, .cdatTableAccess k] ++ spdm, exec c s = .next (say s .doeError))) ∧
    (∀ c ∈ [.doeDiscovery k, .cdatTableAccess k] ++ spdm, (s.reachable = false → exec c s = .next s) ∧
      (s.reachable = true → s.pst_ = 3 → exec c s = .next (s.latchAccess c)))

/-- The requests over MCTP and PLDM for monitoring (R452, R453): in every state but Off the endpoint answers each one.
The endpoint's ID is the one that the bus owner assigned last; the supported types, the commands of a type, the
sensors and the states they read are answered; a type or a sensor that does not exist gets an error. Nothing else
changes but the count of free values. A reading, a version and an ID that the spec states no value for are free
values, and so are the codes of the completions the model's (notes/assumptions/114). REQUEST_UPDATE, FIRMWARE_TRANSFER
and ACTIVATE_FIRMWARE (R377, R452, R454): one update runs at a time and not beside a staging; an image that verifies
is staged in the spare bank, in the error state unverified, and one that does not ends the update; a staged bank is
marked to boot next, unless the loop runs. Outside an update a transfer and an activation are refused, and without
power nothing answers. -/
def Obligations.ManagementAndFirmware : Prop :=
  (∀ (s : State) (k : Nat),
     let say (t : State) (r : Reply) : State := { t with out := { t.out with mctp := t.out.mctp ++ [r] } }
     let next : State := { s with freeCtr := s.freeCtr + 1 }
     let states : List Int := if k = 7 then [(s.powerState : Int)] else if k = 8 then [(s.f F.secStatusLifecycle : Int)]
       else [(s.f F.devBootStage : Int), (s.f F.devBootFail : Int)]
     let asks : List Instr := [.setEndpointId k, .getEndpointId, .getMctpVersionSupport k, .getMessageTypeSupport, .getTid,
       .getPldmVersion k, .getPldmTypes, .getPldmCommands k, .getPdr k, .getSensorReading k, .getStateSensorReadings k]
     (s.pwr.on = false → ∀ c ∈ asks, exec c s = .next s) ∧
     (s.pwr.on = true →
       (8 ≤ k → k < 255 → exec (.setEndpointId k) s = .next (say { s with eid := k } (.mctp 1 0 [(k : Int)]))) ∧
       (k < 8 ∨ 255 ≤ k → exec (.setEndpointId k) s = .next (say s (.mctp 1 2 [(s.eid : Int)]))) ∧
       exec .getEndpointId s = .next (say s (.mctp 2 0 [(s.eid : Int)])) ∧
       (k = 0 ∨ k = 1 ∨ k = 255 → ∃ v, exec (.getMctpVersionSupport k) s = .next (say next (.mctp 4 0 v))) ∧
       (k ≠ 0 → k ≠ 1 → k ≠ 255 → exec (.getMctpVersionSupport k) s = .next (say s (.mctp 4 0x80 []))) ∧
       exec .getMessageTypeSupport s = .next (say s (.mctp 5 0 [1])) ∧
       (∃ v, exec .getTid s = .next (say next (.pldm 0 2 0 v))) ∧
       (k = 0 ∨ k = 2 ∨ k = 5 → ∃ v, exec (.getPldmVersion k) s = .next (say next (.pldm 0 3 0 v))) ∧
       (k ≠ 0 → k ≠ 2 → k ≠ 5 → exec (.getPldmVersion k) s = .next (say s (.pldm 0 3 0x83 [])) ∧
         exec (.getPldmCommands k) s = .next (say s (.pldm 0 5 0x83 []))) ∧
       exec .getPldmTypes s = .next (say s (.pldm 0 4 0 [0, 2, 5])) ∧
       exec (.getPldmCommands 0) s = .next (say s (.pldm 0 5 0 [2, 3, 4, 5])) ∧
       exec (.getPldmCommands 2) s = .next (say s (.pldm 0 5 0 [0x11, 0x21, 0x51])) ∧
       exec (.getPldmCommands 5) s = .next (say s (.pldm 0 5 0 [0x10, 0x16, 0x1a])) ∧
       (1 ≤ k → k ≤ 10 → exec (.getPdr k) s = .next (say s (.pldm 2 0x51 0
         [((k - 1 : Nat) : Int), (if k ≤ 7 then 0 else 1), (if k < 10 then ((k + 1 : Nat) : Int) else 0)]))) ∧
       exec (.getPdr 0) s = exec (.getPdr 1) s ∧
       (10 < k → exec (.getPdr k) s = .next (say s (.pldm 2 0x51 0x82 []))) ∧
       exec (.getSensorReading 0) s = .next (say next (.pldm 2 0x11 0 [s.hottest])) ∧
       (1 ≤ k → k < 7 → ∃ v, exec (.getSensorReading k) s = .next (say next (.pldm 2 0x11 0 [v]))) ∧
       (7 ≤ k → exec (.getSensorReading k) s = .next (say s (.pldm 2 0x11 0x80 []))) ∧
       (7 ≤ k → k ≤ 9 → exec (.getStateSensorReadings k) s = .next (say s (.pldm 2 0x21 0 states))) ∧
       (k < 7 ∨ 9 < k → exec (.getStateSensorReadings k) s = .next (say s (.pldm 2 0x21 0x80 []))))) ∧
  (∀ (s : State) (img : List Byte),
     let say (t : State) (r : Reply) : State := { t with out := { t.out with mctp := t.out.mctp ++ [r] } }
     let updates (t : State) (b : Bool) : State := { t with boot := { t.boot with update := b } }
     let fault := s.imageFault (imageOf img) true
     let put (i : Option Image) (n : Nat) : State := (s.putBank s.spareBank i).setF F.schSvcStatusStaged n
     let booted : State := ({ s with boot := { s.boot with next := some s.spareBank } } : State).setF F.schSvcStatusActivate 1
     (s.pwr.on = false → ∀ c ∈ ([.requestUpdate, .firmwareTransfer img, .activateFirmware] : List Instr),
       exec c s = .next s) ∧
     (s.pwr.on = true →
       (s.boot.update = false → s.staging = false →
         exec .requestUpdate s = .next (say (updates s true) (.pldm 5 0x10 0 []))) ∧
       (s.boot.update = true ∨ s.staging = true → exec .requestUpdate s = .next (say s (.pldm 5 0x10 0x81 []))) ∧
       (s.boot.update = true → s.boot.stopped = false → fault = 0 →
         exec (.firmwareTransfer img) s = .next (say (put (some (imageOf img)) 1) (.pldm 5 0x16 0 []))) ∧
       (s.boot.update = true → s.boot.stopped = false → fault ≠ 0 →
         exec (.firmwareTransfer img) s = .next (say (updates (put none 0) false) (.pldm 5 0x16 1 [(fault : Int)]))) ∧
       (s.boot.update = true → s.boot.stopped = true →
         exec (.firmwareTransfer img) s = .next (say (put (some (imageOf img)) 1) (.pldm 5 0x16 0 []))) ∧
       (s.boot.update = true → s.looping = false → s.fb F.schSvcStatusStaged = true →
         exec .activateFirmware s = .next (say (updates booted false) (.pldm 5 0x1a 0 []))) ∧
       (s.boot.update = true → s.looping = true ∨ s.fb F.schSvcStatusStaged = false →
         exec .activateFirmware s = .next (say s (.pldm 5 0x1a 1 []))) ∧
       (s.boot.update = false → exec (.firmwareTransfer img) s = .next (say s (.pldm 5 0x16 0x80 [])) ∧
         exec .activateFirmware s = .next (say s (.pldm 5 0x1a 0x80 [])))))

/-- SUBMIT, KERNEL_TABLE, REPLAY_ENTER and REPLAY_EXIT (R339, R365, R383, R430 to R438, R440). With its conditions met
an ENTER unloads the native program and replay is resident; with one that fails REFUSE shows the first, and an ENTER
while replay is resident does nothing. An EXIT drops the tables that wait and replay is off. A table is queued, and
beyond 16 it is discarded and counted; written outside replay it is a violation of kind LEGACY, and in PCIe mode there
is no SUBMIT. The oldest table runs to its end, its RESULT stands and it is counted; before the boot has ended and at
rest none runs. A write that has no effect changes nothing; in Deep it is latched, and a closed BAR counts a
violation. -/
def Obligations.ReplayRuns : Prop :=
  ∀ (s : State) (v off : Nat) (rest : List Nat),
    let t0 : State := { s with bel := { s.bel with queue := rest, carry := List.replicate 256 0 } }
    let r := t0.runTable off 0 65536
    let u := r.event r.s
    let runs : Prop := s.resident = true ∧ s.fb F.devBootReady = true ∧ s.pst_ < 2
    let writes : List Instr := (if s.fb F.cxlStatusMode = true then [] else [.submit v]) ++ [.replayEnter, .replayExit]
    (s.hostOpen →
      (s.resident = true → exec .replayEnter s = .next s) ∧
      (s.resident = false → s.replayRefusal = 0 → exec .replayEnter s = .next s.enterReplay ∧
        ∃ t : State, exec .replayEnter s = .next t ∧ t.load.loaded = false ∧ t.f F.devReplayStatusState = 1 ∧
        t.f F.devReplayStatusTables = 0 ∧ t.bel.queue = [] ∧ ∀ q < 64, t.f (F.schQCfgEn q) = 0) ∧
      (s.resident = false → s.replayRefusal ≠ 0 →
        exec .replayEnter s = .next (s.setF F.devReplayStatusRefuse s.replayRefusal)) ∧
      (s.resident = true → ∃ t : State, exec .replayExit s = .next t ∧ t.f F.devReplayStatusState = 0 ∧ t.bel.queue = []) ∧
      (s.resident = false → exec .replayExit s = .next s) ∧
      (s.fb F.cxlStatusMode = false → s.resident = true → s.bel.queue.length < 16 →
        exec (.submit v) s = .next { s with bel := { s.bel with queue := s.bel.queue ++ [bitsOf v 8 32 * 256] } }) ∧
      (s.fb F.cxlStatusMode = false → s.resident = true → 16 ≤ s.bel.queue.length →
        exec (.submit v) s = .next { s with bel := { s.bel with overrun := min (2 ^ 64 - 1) (s.bel.overrun + 1) } }) ∧
      (s.fb F.cxlStatusMode = false → s.resident = false → exec (.submit v) s = .next (s.violation 7))) ∧
    (s.fb F.cxlStatusMode = true → exec (.submit v) s = .next s) ∧
    (∀ c ∈ writes,
      (s.barReached = false → exec c s = .next s) ∧
      (s.barReached = true → s.pst_ = 3 → exec c s = .next (s.latchAccess c)) ∧
      (s.barReached = true → s.pst_ ≠ 3 → s.barClosed = true → exec c s = .next (s.violation 5))) ∧
    (s.bel.queue = off :: rest → runs → exec .kernelTable s =
      .next (({ u with bel := { u.bel with result := r.result } } : State).addF F.devReplayStatusTables 1)) ∧
    (s.bel.queue = [] ∨ ¬ runs → exec .kernelTable s = .next s)

/-- EVENT_RECORD, INTERRUPT_HOLDOFF, EXTENSION_COPY, EVT_LOST and SUPPRESSION_WINDOW (R417, R419, R422, R423, R427).
The first event of the front end becomes the record with the next sequence number at the end of the always-on ring. A
message that the holdoff kept back leaves at its end, and is dropped where messages are off. The first record that the
extension ring lacks is copied there in its bytes, whenever HBM is out of self-refresh. Events that were dropped are
told once the front end has room; at the end of a window every code with suppressed events gives one summary. With
nothing to do, and without power, nothing changes. -/
def Obligations.EventsAreRecorded : Prop :=
  ∀ (s : State) (e : Event) (rest : List Event) (x : RingRec) (code : Nat),
    let holds : Prop := s.pwr.on = true ∧ s.evt.owed = true ∧ s.holdoffOver = true
    let reaches : Prop := s.fb F.devBootReady = true ∧ s.pwr.selfRefresh = false ∧ s.pst_ ≠ 3
    let lost : Prop := s.pwr.on = true ∧ s.evt.dropped ≠ 0 ∧ s.evt.front.length < 256
    let ends : Prop := s.pwr.on = true ∧ s.evt.window < s.aon / 3125000
    (s.pwr.on = true → s.evt.front = e :: rest → ∃ t : State, exec .eventRecord s = .next t ∧ t.evt.front = rest ∧
      t.evt.nextSeq = s.evt.nextSeq + 1 ∧ t.evt.ring.next = s.evt.nextSeq + 1 ∧
      (t.evt.ring.recs.getLast?).map (fun y => (y.seq, y.bytes)) = some (some s.evt.nextSeq, s.nextRecord e) ∧
      t.hbm = s.hbm) ∧
    (s.pwr.on = false ∨ s.evt.front = [] → exec .eventRecord s = .next s) ∧
    (holds → s.fb F.evtIntEn = true → exec .interruptHoldoff s = .next s.evtMessage ∧
      s.evtMessage.evt.owed = false ∧ s.evtMessage.evt.lastMsg = some s.aon) ∧
    (holds → s.fb F.evtIntEn = false →
      exec .interruptHoldoff s = .next { s with evt := { s.evt with owed := false } }) ∧
    (¬ holds → exec .interruptHoldoff s = .next s) ∧
    (reaches → s.nextCopy = some x → ∃ t : State,
      exec .extensionCopy s = .next t ∧
      (t.evt.ext.recs.getLast?).map (fun y => (y.seq, y.bytes)) = some (some (x.seq.getD 0), x.bytes) ∧
      t.evt.ext.next = x.seq.getD 0 + 1 ∧ t.evt.ring = s.evt.ring) ∧
    (¬ reaches ∨ s.nextCopy = none → exec .extensionCopy s = .next s) ∧
    (lost → exec .evtLost s =
      .next (({ s with evt := { s.evt with dropped := 0 } } : State).ev 0x0002 unitEvt 0 s.evt.dropped)) ∧
    (¬ lost → exec .evtLost s = .next s) ∧
    (ends → ∃ t : State, exec .suppressionWindow s = .next t ∧ t.evt.window = s.aon / 3125000 ∧
      (t.rateOf code).winCount = 0 ∧ t.evt.ring = s.evt.ring ∧
      ((s.evt.rates.map (fun x => x.1)).Nodup →
        s.evt.front.length + s.evt.rates.countP (fun x => x.2.winCount ≠ 0) ≤ 512 →
        t.evt.front.length = s.evt.front.length + s.evt.rates.countP (fun x => x.2.winCount ≠ 0))) ∧
    (¬ ends → exec .suppressionWindow s = .next s)

/-- Packed formats (R31): byte `j` of a packed operand in memory holds its elements from the least significant bits
up, and a write of one element leaves the other elements of its byte. -/
def Obligations.PackedElementsReadInOrder : Prop :=
  ∀ (s : State) (d : Desc) (a : Nat), d.loc ≤ 2 → fmtPacked d.format = true →
    (s.rd (locSpace d.loc) a).toNat = ((List.range (8 / fmtBits d.format)).map (fun m =>
      s.opBits d (8 * a + m * fmtBits d.format) (fmtBits d.format) * 2 ^ (m * fmtBits d.format))).sum ∧
    (∀ k m v : Nat, k < 8 / fmtBits d.format → m < 8 / fmtBits d.format →
      (s.wrBits (locSpace d.loc) (8 * a + k * fmtBits d.format) (fmtBits d.format) v).opBits d
        (8 * a + m * fmtBits d.format) (fmtBits d.format) =
        if m = k then v % 2 ^ fmtBits d.format else s.opBits d (8 * a + m * fmtBits d.format) (fmtBits d.format))

/-- Integer formats (R42): I8, I16, I32 and I4 read as two's complement of their width and U2 to U64 as unsigned
binary; I26 and I40 read the low 26 or 40 bits of their container, whose highest bit is the sign; and a written I26
fills the container bits above it with copies of the sign. -/
def Obligations.IntegerFormatsReadBack : Prop :=
  (∀ eb raw f w : Nat, (f, w) ∈ [(0xb, 8), (0xa, 16), (0x9, 32), (0xf, 4)] →
    rawVal f eb raw = .fin (if raw % 2 ^ w < 2 ^ (w - 1) then ((raw % 2 ^ w : Nat) : Int)
      else ((raw % 2 ^ w : Nat) : Int) - (2 ^ w : Nat) : Int)) ∧
  (∀ eb raw f w : Nat, (f, w) ∈ [(0x11, 2), (0x10, 4), (0xe, 8), (0xd, 16), (0xc, 32), (0x12, 64)] →
    rawVal f eb raw = .fin (raw % 2 ^ w : Nat)) ∧
  (∀ eb raw f w : Nat, (f, w) ∈ [(0x7, 26), (0x8, 40)] →
    rawVal f eb raw = unit152 eb (if raw % 2 ^ w < 2 ^ (w - 1) then ((raw % 2 ^ w : Nat) : Int)
      else ((raw % 2 ^ w : Nat) : Int) - (2 ^ w : Nat))) ∧
  (∀ (eb : Nat) (r : Rnd) (v : Val), (encElem 7 eb r v).val < 2 ^ 32 ∧
    signedOf 26 (encElem 7 eb r v).val = (toI26 r eb v).val ∧
    ∀ k : Nat, 26 ≤ k → k < 32 → bitOf (encElem 7 eb r v).val k = bitOf (encElem 7 eb r v).val 25)

/-- A sum of at most 16,384 contributions stays in the range of I40, so the overflow flag of a group comes from I26
quantization alone, here or in a block of a child (R43, R44). -/
def Obligations.SumsStayInRange : Prop :=
  (∀ (r : Rnd) (eb : Nat) (vs : List Val), vs.length ≤ 16384 →
    -(2 ^ 39) ≤ ((vs.map (fun v => (toI26 r eb v).val)).sum : Int) ∧
    ((vs.map (fun v => (toI26 r eb v).val)).sum : Int) < 2 ^ 39) ∧
  (∀ (s : State) (x : Bucket) (g : Nat), (s.groupSum x g).ov = true ↔
    (∃ k, k < x.groupLen g ∧ 0 < (toI26 .rne x.eb (s.elemVal x.grad 0 (144 * g + k))).sat) ∨
    (∃ c ∈ s.childrenIn x.b, ∃ y ∈ x.childBlocks g c, y.ov = true))

/-- The tree of bucket `b` (R192): for two ranks of one job, one is a child of the other exactly when the other is its
parent; the owner, rank b mod N, and no other rank is without a parent; and each rank but the owner has a parent in
the job. -/
def Obligations.TreesAgree : Prop :=
  (∀ (s u : State) (b : Nat), s.n = u.n → s.me < s.n → u.me < u.n →
    (u.me ∈ s.childrenIn b ↔ u.parentIn b = some s.me)) ∧
  (∀ (s : State) (b : Nat), s.me < s.n →
    (s.owns b = true ↔ s.me = b % s.n) ∧ (s.parentIn b = none ↔ s.owns b = true) ∧
    (∀ r, s.parentIn b = some r → r < s.n ∧ r ≠ s.me)) ∧
  (∀ (s : State) (b : Nat), s.n = 1 → s.me = 0 → s.owns b = true ∧ s.parentIn b = none ∧ s.childrenIn b = [])

/-- The weight digest (R235) is computed from the committed epoch, and does not depend on the order in which the
parameters are visited: each lane is the sum, taken in any order, of the mixed words of all parameters. -/
def Obligations.DigestIgnoresOrder : Prop :=
  ∀ (s : State) (l : List Nat), l.Perm (List.range s.load.params) →
    s.digestOf s.c = [0, 1, 2, 3].map (fun j => l.foldl (fun a i =>
      (a + mix ((j * 2 ^ 62) ^^^ (i * 2 ^ 16) ^^^ s.master i)) % 2 ^ 64) 0)

/-- The frame of the vector instructions: however a VEC instruction whose turn has come ends, it changes no byte but
those of its destinations, the tensors at slots 0 and 3 of the last member of its chain; no register field but the
counts of empty segments, of indices out of range, of finished tiles held and of dropped events; and no instruction
but its chain. -/
def Obligations.VecFrame : Prop :=
  ∀ (s : State) (id : Nat) (i : Inst) (c : Instr) (op : Nat),
    (c, op) ∈ vecElementwise id ++ (vecIrregular s id i).map (fun x => (x.1, x.2.1)) →
    s.mayStart (0x3000 + op) id i →
    (∀ m ∈ i.members, ∀ j, s.inst m = some j → (j.d 0).ndim ≤ 5 ∧ (j.d 3).ndim ≤ 5) →
    ∃ t : State, exec c s = .next t ∧ dataFrame s t
      (fun space a => ∃ j, (i.members.filterMap s.inst).getLast? = some j ∧
        ((j.d 0).storesTo space a ∨ (j.d 3).storesTo space a))
      [F.vecEmptySegments, F.vecIndexOob, F.vecFtqUsed, F.evtStatusDropped] i.members false

/-- The frame of the row instructions and of MEM.FILL, their slot 0 bound: however the instruction ends, it changes no
byte but those of its destinations: slot 0, the row flags at slot 5 of ROW.NORM or slot 3 of ROW.SMAX and ROW.LSE, and
the sums at slots 5 and 6 of ROW.NORMB; no register field but the row counts, the count of failed allocations, the
count of pages read in place and that of dropped events; and no other instruction. -/
def Obligations.RowAndFillFrame : Prop :=
  ∀ (s : State) (id : Nat) (i : Inst) (c : Instr) (op : Nat) (slots : List Nat),
    (c, op, slots) ∈ [(Instr.rowNorm id, 0x6000, [0, 5]), (.rowNormb id, 0x6001, [0, 5, 6]), (.rowSmax id, 0x6002, [0, 3]),
      (.rowSmaxb id, 0x6003, [0]), (.rowLse id, 0x6004, [0, 3]), (.rowLseb id, 0x6005, [0]), (.memFill id, 0x1004, [0])] →
    s.mayStart op id i → i.has 0 = true → (∀ k ∈ slots, (i.d k).ndim ≤ 5) →
    ∃ t : State, exec c s = .next t ∧ dataFrame s t (fun space a => ∃ k ∈ slots, (i.d k).storesTo space a)
      [F.rowRowsMasked, F.rowRowsInf, F.rowRowsNan, F.memFailCount, F.memValleyStateInplace, F.evtStatusDropped] [id] true

/-- The commands that store no byte and change neither the committed weights nor the tokens: the control instructions
but the token ones, allocation, the starts of the grids, the blocks of the reduction on their way, most messages of a
pass, links, maintenance, power requests, the security commands that burn no fuse, and the answers on the management
buses. -/
def quiet (c : Instr) : Bool :=
  match c with
  | .ctlNop .. | .ctlJoin .. | .ctlFence .. | .ctlMark .. | .memAlloc .. | .memQuota .. | .valPush .. | .valDrop .. |
    .arrProgram .. | .arrFallback .. | .arrCalib .. | .grdFwd .. | .grdDx .. | .grdDw .. | .colBucket .. |
    .colPass .. | .svcSeed .. | .svcCkpt .. | .svcScrub .. | .stall .. | .arrayArbitration .. | .partFailure .. |
    .ftqPost .. | .valleyPrefetch .. | .pageTransferDone .. | .doorbell .. | .ingestWake .. | .queueCfg .. |
    .quotaWrite .. | .linfoWrite .. | .forceProbe .. | .qclear .. | .headSeqRead .. | .evtRate .. | .msixUnmask .. |
    .settleExpiry .. | .ingestPoll .. | .ingestStall .. | .ready .. | .fail .. | .clear .. | .heartbeatSend .. |
    .heartbeat .. | .digestCompute .. | .digestDown .. | .digestUp .. | .joined .. | .table .. | .bucketRelease .. |
    .groupSend .. | .up26 .. | .up40 .. | .probeUp .. | .probeDown .. | .retry .. | .blockSend .. |
    .blockForward .. | .fecUncorrectable .. | .blockCrcFail .. | .ackTimeout .. | .resendLimit .. |
    .violationLimit .. | .linkTraining .. | .lossOfLock .. | .trainingRetry .. | .retrain .. | .unquarantine .. |
    .portEnable .. | .routeLoad .. | .calibrationDue .. | .calibration .. | .levelCrossingStart .. | .rowWrite .. |
    .wearWarn .. | .wearRetire .. | .suspectReprogram .. | .patrolScrub .. | .hbmRowRepair .. | .requestIdle .. |
    .requestDoze .. | .requestDeep .. | .d3hotEntry .. | .d0Return .. | .dozeEntry .. | .deepEntry .. |
    .dozeExit .. | .hbmSelfRefreshReturn .. | .unitSleep .. | .unitWake .. | .thermalSample .. |
    .throttleRelease .. | .pwrEnHigh .. | .perstDeassert .. | .tileReset .. |
    .entropyHealthFail .. | .nonce .. | .scrubAll .. | .secBadCmd .. |
    .decoderCommit .. | .ideIntegrityFail .. | .ideKm .. | .doeDiscovery .. | .cdatTableAccess .. |
    .getCertificate .. | .challenge .. | .getMeasurements .. | .attestationReport .. | .getEndpointId .. |
    .getMctpVersionSupport .. | .getMessageTypeSupport .. | .getTid .. | .getPldmVersion .. | .getPldmTypes .. |
    .getPldmCommands .. | .getPdr .. | .getSensorReading .. | .getStateSensorReadings .. | .requestUpdate .. |
    .firmwareTransfer .. | .activateFirmware .. | .submit .. | .interruptHoldoff .. | .extensionCopy .. |
    .evtLost .. | .suppressionWindow .. | .replayExit .. | .inputPowerApplied .. | .cxlLinkUp .. |
    .memorySpaceEnable .. | .spdmSessionStart .. | .spdmSessionEnd .. => true
  | _ => false

/-- A quiet command leaves every byte of the three spaces, the seesaw, the tokens, the fuses, the loaded job, the
endpoint ID and the waiting commands as they were. -/
def Obligations.QuietCommandsStoreNothing : Prop :=
  ∀ (c : Instr) (s t : State), quiet c = true → exec c s = .next t → quietFrame s t

/-- Fuses blow in one direction (R406): no step, whatever command it takes and in whatever state, clears a bit of a
generation's fuses, of the retirement word or of the thermometer. -/
def Obligations.FusesNeverUnblown : Prop := ∀ s t : State, goesOn s t → fusesKept s t

/-- Every step keeps the memories of the three spaces in their canonical form. -/
def Obligations.MemoryStaysCanonical : Prop := ∀ s t : State, s.memOk = true → goesOn s t → t.memOk = true

/-- After reset no command waits, the memories are in canonical form with nothing listed, and every register field but
the node number, the lifecycle, the count of sealed generations and the feature bits reads as the reset value of its
register table; the last three show the module as it ships: OPEN, generation 0 sealed, and BELGAR (R407, R456), and
the node number shows the position pins, which read high while nothing drives them (R334, R445). That unwritten memory
reads 0, that a field without a reset value in its table is 0, and that the pins are open are the model's choices
(notes/assumptions/6, 7 and 192). -/
def Obligations.ResetLeavesTheTableValues : Prop :=
  State.reset.memOk = true ∧ State.reset.hbm = [] ∧ State.reset.scratch = [] ∧ State.reset.host = [] ∧
  State.reset.pending = [] ∧
  (∀ x : Fld, x.key ∉ [F.fabNodeIdNode.key, F.secStatusLifecycle.key, F.otpStatusSealed.key, F.otpFeatures.key] →
    State.reset.f x = x.rst) ∧
  State.reset.f F.fabNodeIdNode = 0xffff ∧ State.reset.f F.secStatusLifecycle = 1 ∧ State.reset.f F.otpStatusSealed = 1 ∧ State.reset.f F.otpFeatures = 2

/-- What travels on the links reads back as it was written, byte by byte (R31, R195, R196, R218, R219, R318): the 256
payload bytes of a reduction block hold its header fields at their offsets and its elements packed from byte 16 on,
element 0 lowest, and those of a control message its fields; a reader takes the same block and the same message from
them. A link block is 276 bytes, the last four the CRC-32C of the others. -/
def Obligations.WireFormatsRoundTrip : Prop :=
  (∀ b : RedBlock, b.wf = true → b.image.length = 256 ∧ RedBlock.ofImage b.image = b ∧
    numAt b.image 1 1 = b.eb ∧ numAt b.image 2 1 = b.pk ∧ numAt b.image 3 1 = b.attempt ∧ numAt b.image 4 2 = b.bucket ∧
    numAt b.image 6 2 = 0 ∧ numAt b.image 8 4 = b.step ∧ numAt b.image 12 3 = b.first ∧ numAt b.image 15 1 = b.body.length ∧
    ∀ k v, b.body[k]? = some v → numAt b.image 16 240 / 2 ^ (RedBlock.elemBits b.kind * k) % 2 ^ RedBlock.elemBits b.kind =
      unsignedOf (RedBlock.elemBits b.kind) v) ∧
  (∀ m : CtlMsg, m.wf = true → m.image.length = 256 ∧ CtlMsg.ofImage m.image = m ∧ m.image.drop 64 = List.replicate 192 0) ∧
  (∀ b : LinkBlock, (∀ st off data, b.pay = .bulk st off data → data.length ≤ 240) →
    b.image.length = 276 ∧ b.image.take 272 = b.body ∧ b.image.drop 272 = leBytes 4 (crc32c (b.image.take 272)))

/-- No command stops the machine: in every state, reachable or not, every command of the table, whatever its operands,
answers a next state, and so does every step. A command that does not apply is turned away with the effect the spec
gives that, and is never a fault or a refusal (R4, R352). -/
def Obligations.NoCommandStops : Prop :=
  (∀ (c : Instr) (s : State), ∃ t : State, exec c s = .next t) ∧ ∀ s : State, ∃ t : State, Machine.step s = .next t
end

