-- ==== Sys2Proof/Laws/Memory.lean ====
section
/-! SUPPORT. The laws of the sparse maps and of the three memories: a read after a write, and the canonical form. -/

namespace Sys2Proof.Machine

variable {α : Type}

/-! ### Sparse maps -/

@[simp] theorem mget_nil (k : Nat) : mget k ([] : List (Nat × α)) = none := rfl

@[simp] theorem mget_mput_same (k : Nat) (v : α) (m : List (Nat × α)) : mget k (mput k v m) = some v := by
  induction m with
  | nil => simp [mput, mget]
  | cons p r ih =>
    unfold mput
    split
    · simp [mget]
    · split
      · simp [mget]
      · simp [mget, *]

theorem mget_mput_other {j k : Nat} (h : j ≠ k) (v : α) (m : List (Nat × α)) : mget j (mput k v m) = mget j m := by
  induction m with
  | nil => simp [mput, mget, Ne.symm h]
  | cons p r ih =>
    unfold mput
    split
    · simp [mget, Ne.symm h]
    · split
      · rename_i e; simp [mget, Ne.symm h, e]
      · simp [mget, ih]

theorem mget_mput (j k : Nat) (v : α) (m : List (Nat × α)) :
    mget j (mput k v m) = if j = k then some v else mget j m := by
  split
  · rename_i h; subst h; simp
  · rename_i h; exact mget_mput_other h v m

@[simp] theorem mget_mdel_same (k : Nat) (m : List (Nat × α)) : mget k (mdel k m) = none := by
  induction m with
  | nil => rfl
  | cons p r ih =>
    unfold mdel
    split
    · exact ih
    · simp [mget, *]

theorem mget_mdel_other {j k : Nat} (h : j ≠ k) (m : List (Nat × α)) : mget j (mdel k m) = mget j m := by
  induction m with
  | nil => rfl
  | cons p r ih =>
    unfold mdel
    split
    · rename_i e; simp [mget, ih, e, Ne.symm h]
    · simp [mget, ih]

/-! ### The canonical form -/

/-- Every key of the map lies above `k`. -/
theorem msorted_cons {p : Nat × α} {r : List (Nat × α)} :
    msorted (p :: r) = true ↔ (∀ q ∈ r, p.1 < q.1) ∧ msorted r = true := by
  induction r generalizing p with
  | nil => simp [msorted]
  | cons q r ih =>
    constructor
    · intro h
      simp only [msorted, Bool.and_eq_true, decide_eq_true_eq] at h
      have h2 := (ih (p := q)).1 h.2
      refine ⟨?_, h.2⟩
      intro x hx
      rcases List.mem_cons.1 hx with e | hx
      · exact e ▸ h.1
      · exact Nat.lt_trans h.1 (h2.1 x hx)
    · intro h
      simp only [msorted, Bool.and_eq_true, decide_eq_true_eq]
      exact ⟨h.1 q (by simp), h.2⟩

theorem mem_mput {k : Nat} {v : α} {m : List (Nat × α)} {x : Nat × α} (h : x ∈ mput k v m) : x = (k, v) ∨ x ∈ m := by
  induction m with
  | nil => simpa [mput] using h
  | cons p r ih =>
    unfold mput at h
    split at h
    · simpa using h
    · split at h
      · rcases List.mem_cons.1 h with e | h
        · exact .inl e
        · exact .inr (List.mem_cons_of_mem _ h)
      · rcases List.mem_cons.1 h with e | h
        · exact .inr (e ▸ List.mem_cons_self ..)
        · rcases ih h with e | h
          · exact .inl e
          · exact .inr (List.mem_cons_of_mem _ h)

theorem mem_mdel {k : Nat} {m : List (Nat × α)} {x : Nat × α} (h : x ∈ mdel k m) : x ∈ m := by
  induction m with
  | nil => simp [mdel] at h
  | cons p r ih =>
    unfold mdel at h
    split at h
    · exact List.mem_cons_of_mem _ (ih h)
    · rcases List.mem_cons.1 h with e | h
      · exact e ▸ List.mem_cons_self ..
      · exact List.mem_cons_of_mem _ (ih h)

theorem msorted_mput (k : Nat) (v : α) {m : List (Nat × α)} (h : msorted m = true) : msorted (mput k v m) = true := by
  induction m with
  | nil => rfl
  | cons p r ih =>
    have hp := msorted_cons.1 h
    unfold mput
    split
    · rename_i hk
      refine msorted_cons.2 ⟨?_, h⟩
      intro q hq
      rcases List.mem_cons.1 hq with e | hq
      · exact e ▸ hk
      · exact Nat.lt_trans hk (hp.1 q hq)
    · split
      · rename_i e
        refine msorted_cons.2 ⟨?_, hp.2⟩
        intro q hq; exact e ▸ hp.1 q hq
      · rename_i h1 h2
        refine msorted_cons.2 ⟨?_, ih hp.2⟩
        intro q hq
        rcases mem_mput hq with e | hq
        · subst e; show p.1 < k; omega
        · exact hp.1 q hq

theorem msorted_mdel (k : Nat) {m : List (Nat × α)} (h : msorted m = true) : msorted (mdel k m) = true := by
  induction m with
  | nil => rfl
  | cons p r ih =>
    have hp := msorted_cons.1 h
    unfold mdel
    split
    · exact ih hp.2
    · exact msorted_cons.2 ⟨fun q hq => hp.1 q (mem_mdel hq), ih hp.2⟩

theorem msorted_filter (g : Nat × α → Bool) {m : List (Nat × α)} (h : msorted m = true) :
    msorted (m.filter g) = true := by
  induction m with
  | nil => rfl
  | cons p r ih =>
    have hp := msorted_cons.1 h
    simp only [List.filter_cons]
    split
    · exact msorted_cons.2 ⟨fun q hq => hp.1 q (List.mem_of_mem_filter hq), ih hp.2⟩
    · exact ih hp.2

/-! ### One memory -/

theorem memory_wf_iff {m : List Host.Cell} :
    Memory.wf m = true ↔ msorted m = true ∧ ∀ c ∈ m, c.2 ≠ emptyByte := by
  simp [Memory.wf]

/-- Writing a byte keeps the canonical form. -/
theorem memory_wf_set (a : Nat) (b : Byte) {m : List Host.Cell} (h : Memory.wf m = true) :
    Memory.wf (memSet a b m) = true := by
  have hm := memory_wf_iff.1 h
  unfold memSet
  split
  · exact memory_wf_iff.2 ⟨msorted_mdel a hm.1, fun c hc => hm.2 c (mem_mdel hc)⟩
  · rename_i hb
    refine memory_wf_iff.2 ⟨msorted_mput a b hm.1, fun c hc => ?_⟩
    rcases mem_mput hc with e | hc
    · subst e; exact hb
    · exact hm.2 c hc

/-- Taking bytes out keeps the canonical form. -/
theorem memory_wf_filter (g : Host.Cell → Bool) {m : List Host.Cell} (h : Memory.wf m = true) :
    Memory.wf (m.filter g) = true := by
  have hm := memory_wf_iff.1 h
  exact memory_wf_iff.2 ⟨msorted_filter g hm.1, fun c hc => hm.2 c (List.mem_of_mem_filter hc)⟩

@[simp] theorem memGet_memSet_same (a : Nat) (b : Byte) (m : List Host.Cell) : memGet a (memSet a b m) = b := by
  unfold memSet memGet
  split
  · rename_i h; simp [h]
  · simp

theorem memGet_memSet_other {a c : Nat} (h : a ≠ c) (b : Byte) (m : List Host.Cell) :
    memGet a (memSet c b m) = memGet a m := by
  unfold memSet memGet
  split
  · rw [mget_mdel_other h]
  · rw [mget_mput_other h]

/-! ### The three memories -/

/-- The number of a memory in State.mem: 0 scratchpad, 1 HBM, 2 host. -/
def spaceIndex (space : Nat) : Nat := if space = 0 then 0 else if space = 1 then 1 else 2

theorem mem_setMem_same (s : State) (space : Nat) (m : List Host.Cell) : (s.setMem space m).mem space = m := by
  unfold State.setMem State.mem; split <;> (try split) <;> rfl

theorem mem_setMem_other {sp sq : Nat} (h : spaceIndex sp ≠ spaceIndex sq) (s : State) (m : List Host.Cell) :
    (s.setMem sq m).mem sp = s.mem sp := by
  unfold spaceIndex at h; unfold State.setMem State.mem
  by_cases a0 : sp = 0 <;> by_cases a1 : sp = 1 <;> by_cases b0 : sq = 0 <;> by_cases b1 : sq = 1 <;>
    simp [a0, a1, b0, b1] at h ⊢

theorem mem_of_index {sp sq : Nat} (h : spaceIndex sp = spaceIndex sq) (s : State) : s.mem sp = s.mem sq := by
  unfold spaceIndex at h; unfold State.mem
  by_cases a0 : sp = 0 <;> by_cases a1 : sp = 1 <;> by_cases b0 : sq = 0 <;> by_cases b1 : sq = 1 <;>
    simp [a0, a1, b0, b1] at h ⊢

/-- A read of the byte just written gives it, inside the space. -/
theorem rd_wr_same {space a : Nat} (h : a < spaceTop space) (s : State) (b : Byte) : (s.wr space a b).rd space a = b := by
  simp [State.rd, State.wr, mem_setMem_same, Nat.not_le.2 h]

/-- A write leaves every other byte of its space as it was. -/
theorem rd_wr_other {a c : Nat} (h : a ≠ c) (s : State) (sp space : Nat) (b : Byte) :
    (s.wr space c b).rd sp a = s.rd sp a := by
  unfold State.rd State.wr
  by_cases hc : spaceTop space ≤ c
  · rw [if_pos hc]
  rw [if_neg hc]
  by_cases hs : spaceIndex sp = spaceIndex space
  · rw [mem_of_index hs, mem_setMem_same, memGet_memSet_other h, mem_of_index hs]
  · rw [mem_setMem_other hs]

/-- A write leaves every byte of another space as it was. -/
theorem rd_wr_space {sp space : Nat} (h : spaceIndex sp ≠ spaceIndex space) (s : State) (a c : Nat) (b : Byte) :
    (s.wr space c b).rd sp a = s.rd sp a := by
  unfold State.rd State.wr
  by_cases hc : spaceTop space ≤ c
  · rw [if_pos hc]
  · rw [if_neg hc, mem_setMem_other h]

/-- Bytes outside a range that was written read as before. -/
theorem rd_wrBytes_other {sp space a : Nat} (b : List Byte) (s : State) (c : Nat)
    (h : spaceIndex sp ≠ spaceIndex space ∨ a < c ∨ c + b.length ≤ a) :
    (s.wrBytes space c b).rd sp a = s.rd sp a := by
  induction b generalizing s c with
  | nil => rfl
  | cons x r ih =>
    simp only [State.wrBytes]
    rw [ih]
    · rcases h with h | h | h
      · exact rd_wr_space h s a c x
      · exact rd_wr_other (by omega) s sp space x
      · simp only [List.length_cons] at h; exact rd_wr_other (by omega) s sp space x
    · rcases h with h | h | h
      · exact .inl h
      · exact .inr (.inl (by omega))
      · simp only [List.length_cons] at h; exact .inr (.inr (by omega))

/-- Byte `k` of a range that was written reads as written, inside the space. -/
theorem rd_wrBytes_same (b : List Byte) (s : State) (space c k : Nat) (h : k < b.length) (ht : c + k < spaceTop space) :
    (s.wrBytes space c b).rd space (c + k) = b[k] := by
  induction b generalizing s c k with
  | nil => simp at h
  | cons x r ih =>
    simp only [State.wrBytes]
    cases k with
    | zero => rw [rd_wrBytes_other r _ (c + 1) (.inr (.inl (by omega)))]; exact rd_wr_same ht s x
    | succ n =>
      have := ih (s.wr space c x) (c + 1) n (by simpa using h) (by omega)
      rw [show c + (n + 1) = c + 1 + n by omega, this]; rfl

end Sys2Proof.Machine
end

