-- ==== Sys2Proof/Laws/Regs.lean ====
section
/-! SUPPORT. The laws of the register file: a field read after a write, and what a write of a field leaves alone. -/

namespace Sys2Proof.Machine

/-- A field reads back what was written, in its width. -/
theorem f_setF_same (s : State) (x : Fld) (v : Nat) : (s.setF x v).f x = v % 2 ^ x.w := by
  simp only [State.setF, State.f, regsSet]
  split
  · rename_i h; simp [h]
  · simp

/-- A write of one field leaves every field at another place. -/
theorem f_setF_other {x y : Fld} (h : y.key ≠ x.key) (s : State) (v : Nat) : (s.setF x v).f y = s.f y := by
  simp only [State.setF, State.f, regsSet]
  split
  · rw [mget_mdel_other h]
  · rw [mget_mput_other h]

/-- A count is raised by `n`, and stops at its greatest value. -/
theorem f_addF_same (s : State) (x : Fld) (n : Nat) : (s.addF x n).f x = min (2 ^ x.w - 1) (s.f x + n) := by
  have h : 0 < 2 ^ x.w := Nat.two_pow_pos _
  rw [State.addF, f_setF_same, Nat.mod_eq_of_lt (by omega)]

theorem f_addF_other {x y : Fld} (h : y.key ≠ x.key) (s : State) (n : Nat) : (s.addF x n).f y = s.f y :=
  f_setF_other h s _

/-- The fields of a state depend on its register file alone. -/
theorem f_congr {s t : State} (h : t.regs = s.regs) (x : Fld) : t.f x = s.f x := by
  simp only [State.f, h]

theorem fb_congr {s t : State} (h : t.regs = s.regs) (x : Fld) : t.fb x = s.fb x := by
  simp only [State.fb, f_congr h]

end Sys2Proof.Machine
end

