-- ==== Sys2Proof/Laws/State.lean ====
section
/-! SUPPORT. What each elementary update of the state leaves alone: one lemma for each field and update, so that no proof
unfolds a record. -/

namespace Sys2Proof.Machine.State

variable (s : State)

@[simp] theorem setF_pending (x : Fld) (v : Nat) : (s.setF x v).pending = s.pending := rfl
@[simp] theorem setF_freeCtr (x : Fld) (v : Nat) : (s.setF x v).freeCtr = s.freeCtr := rfl
@[simp] theorem setF_aon (x : Fld) (v : Nat) : (s.setF x v).aon = s.aon := rfl
@[simp] theorem setF_hbm (x : Fld) (v : Nat) : (s.setF x v).hbm = s.hbm := rfl
@[simp] theorem setF_scratch (x : Fld) (v : Nat) : (s.setF x v).scratch = s.scratch := rfl
@[simp] theorem setF_host (x : Fld) (v : Nat) : (s.setF x v).host = s.host := rfl
@[simp] theorem setF_poison (x : Fld) (v : Nat) : (s.setF x v).poison = s.poison := rfl
@[simp] theorem setF_sch (x : Fld) (v : Nat) : (s.setF x v).sch = s.sch := rfl
@[simp] theorem setF_val (x : Fld) (v : Nat) : (s.setF x v).val = s.val := rfl
@[simp] theorem setF_units (x : Fld) (v : Nat) : (s.setF x v).units = s.units := rfl
@[simp] theorem setF_evt (x : Fld) (v : Nat) : (s.setF x v).evt = s.evt := rfl
@[simp] theorem setF_pass (x : Fld) (v : Nat) : (s.setF x v).pass = s.pass := rfl
@[simp] theorem setF_col (x : Fld) (v : Nat) : (s.setF x v).col = s.col := rfl
@[simp] theorem setF_fab (x : Fld) (v : Nat) : (s.setF x v).fab = s.fab := rfl
@[simp] theorem setF_seesaw (x : Fld) (v : Nat) : (s.setF x v).seesaw = s.seesaw := rfl
@[simp] theorem setF_arr (x : Fld) (v : Nat) : (s.setF x v).arr = s.arr := rfl
@[simp] theorem setF_pup (x : Fld) (v : Nat) : (s.setF x v).pup = s.pup := rfl
@[simp] theorem setF_load (x : Fld) (v : Nat) : (s.setF x v).load = s.load := rfl
@[simp] theorem setF_cxl (x : Fld) (v : Nat) : (s.setF x v).cxl = s.cxl := rfl
@[simp] theorem setF_pwr (x : Fld) (v : Nat) : (s.setF x v).pwr = s.pwr := rfl
@[simp] theorem setF_boot (x : Fld) (v : Nat) : (s.setF x v).boot = s.boot := rfl
@[simp] theorem setF_fuses (x : Fld) (v : Nat) : (s.setF x v).fuses = s.fuses := rfl
@[simp] theorem setF_sec (x : Fld) (v : Nat) : (s.setF x v).sec = s.sec := rfl
@[simp] theorem setF_bel (x : Fld) (v : Nat) : (s.setF x v).bel = s.bel := rfl
@[simp] theorem setF_ecc (x : Fld) (v : Nat) : (s.setF x v).ecc = s.ecc := rfl
@[simp] theorem setF_eid (x : Fld) (v : Nat) : (s.setF x v).eid = s.eid := rfl
@[simp] theorem setF_out (x : Fld) (v : Nat) : (s.setF x v).out = s.out := rfl

@[simp] theorem addF_pending (x : Fld) (n : Nat) : (s.addF x n).pending = s.pending := rfl
@[simp] theorem addF_freeCtr (x : Fld) (n : Nat) : (s.addF x n).freeCtr = s.freeCtr := rfl
@[simp] theorem addF_aon (x : Fld) (n : Nat) : (s.addF x n).aon = s.aon := rfl
@[simp] theorem addF_hbm (x : Fld) (n : Nat) : (s.addF x n).hbm = s.hbm := rfl
@[simp] theorem addF_scratch (x : Fld) (n : Nat) : (s.addF x n).scratch = s.scratch := rfl
@[simp] theorem addF_host (x : Fld) (n : Nat) : (s.addF x n).host = s.host := rfl
@[simp] theorem addF_poison (x : Fld) (n : Nat) : (s.addF x n).poison = s.poison := rfl
@[simp] theorem addF_sch (x : Fld) (n : Nat) : (s.addF x n).sch = s.sch := rfl
@[simp] theorem addF_val (x : Fld) (n : Nat) : (s.addF x n).val = s.val := rfl
@[simp] theorem addF_units (x : Fld) (n : Nat) : (s.addF x n).units = s.units := rfl
@[simp] theorem addF_evt (x : Fld) (n : Nat) : (s.addF x n).evt = s.evt := rfl
@[simp] theorem addF_pass (x : Fld) (n : Nat) : (s.addF x n).pass = s.pass := rfl
@[simp] theorem addF_col (x : Fld) (n : Nat) : (s.addF x n).col = s.col := rfl
@[simp] theorem addF_fab (x : Fld) (n : Nat) : (s.addF x n).fab = s.fab := rfl
@[simp] theorem addF_seesaw (x : Fld) (n : Nat) : (s.addF x n).seesaw = s.seesaw := rfl
@[simp] theorem addF_arr (x : Fld) (n : Nat) : (s.addF x n).arr = s.arr := rfl
@[simp] theorem addF_pup (x : Fld) (n : Nat) : (s.addF x n).pup = s.pup := rfl
@[simp] theorem addF_load (x : Fld) (n : Nat) : (s.addF x n).load = s.load := rfl
@[simp] theorem addF_cxl (x : Fld) (n : Nat) : (s.addF x n).cxl = s.cxl := rfl
@[simp] theorem addF_pwr (x : Fld) (n : Nat) : (s.addF x n).pwr = s.pwr := rfl
@[simp] theorem addF_boot (x : Fld) (n : Nat) : (s.addF x n).boot = s.boot := rfl
@[simp] theorem addF_fuses (x : Fld) (n : Nat) : (s.addF x n).fuses = s.fuses := rfl
@[simp] theorem addF_sec (x : Fld) (n : Nat) : (s.addF x n).sec = s.sec := rfl
@[simp] theorem addF_bel (x : Fld) (n : Nat) : (s.addF x n).bel = s.bel := rfl
@[simp] theorem addF_ecc (x : Fld) (n : Nat) : (s.addF x n).ecc = s.ecc := rfl
@[simp] theorem addF_eid (x : Fld) (n : Nat) : (s.addF x n).eid = s.eid := rfl
@[simp] theorem addF_out (x : Fld) (n : Nat) : (s.addF x n).out = s.out := rfl

@[simp] theorem putTok_pending (t : Nat) (v : Option Tok) : (s.putTok t v).pending = s.pending := rfl
@[simp] theorem putTok_freeCtr (t : Nat) (v : Option Tok) : (s.putTok t v).freeCtr = s.freeCtr := rfl
@[simp] theorem putTok_aon (t : Nat) (v : Option Tok) : (s.putTok t v).aon = s.aon := rfl
@[simp] theorem putTok_regs (t : Nat) (v : Option Tok) : (s.putTok t v).regs = s.regs := rfl
@[simp] theorem putTok_hbm (t : Nat) (v : Option Tok) : (s.putTok t v).hbm = s.hbm := rfl
@[simp] theorem putTok_scratch (t : Nat) (v : Option Tok) : (s.putTok t v).scratch = s.scratch := rfl
@[simp] theorem putTok_host (t : Nat) (v : Option Tok) : (s.putTok t v).host = s.host := rfl
@[simp] theorem putTok_poison (t : Nat) (v : Option Tok) : (s.putTok t v).poison = s.poison := rfl
@[simp] theorem putTok_sch_inflight (t : Nat) (v : Option Tok) : (s.putTok t v).sch.inflight = s.sch.inflight := rfl
@[simp] theorem putTok_sch_nextId (t : Nat) (v : Option Tok) : (s.putTok t v).sch.nextId = s.sch.nextId := rfl
@[simp] theorem putTok_sch_queues (t : Nat) (v : Option Tok) : (s.putTok t v).sch.queues = s.sch.queues := rfl
@[simp] theorem putTok_sch_cqHeld (t : Nat) (v : Option Tok) : (s.putTok t v).sch.cqHeld = s.sch.cqHeld := rfl
@[simp] theorem putTok_sch_cqFull (t : Nat) (v : Option Tok) : (s.putTok t v).sch.cqFull = s.sch.cqFull := rfl
@[simp] theorem putTok_sch_cqWrap (t : Nat) (v : Option Tok) : (s.putTok t v).sch.cqWrap = s.sch.cqWrap := rfl
@[simp] theorem putTok_sch_lastProgress (t : Nat) (v : Option Tok) : (s.putTok t v).sch.lastProgress = s.sch.lastProgress := rfl
@[simp] theorem putTok_sch_stallSeen (t : Nat) (v : Option Tok) : (s.putTok t v).sch.stallSeen = s.sch.stallSeen := rfl
@[simp] theorem putTok_sch_credit (t : Nat) (v : Option Tok) : (s.putTok t v).sch.credit = s.sch.credit := rfl
@[simp] theorem putTok_sch_lastServed (t : Nat) (v : Option Tok) : (s.putTok t v).sch.lastServed = s.sch.lastServed := rfl
@[simp] theorem putTok_sch_scratchAllocs (t : Nat) (v : Option Tok) : (s.putTok t v).sch.scratchAllocs = s.sch.scratchAllocs := rfl
@[simp] theorem putTok_sch_heapAllocs (t : Nat) (v : Option Tok) : (s.putTok t v).sch.heapAllocs = s.sch.heapAllocs := rfl
@[simp] theorem putTok_sch_reserved (t : Nat) (v : Option Tok) : (s.putTok t v).sch.reserved = s.sch.reserved := rfl
@[simp] theorem putTok_sch_deferInEffect (t : Nat) (v : Option Tok) : (s.putTok t v).sch.deferInEffect = s.sch.deferInEffect := rfl
@[simp] theorem putTok_sch_raising (t : Nat) (v : Option Tok) : (s.putTok t v).sch.raising = s.sch.raising := rfl
@[simp] theorem putTok_sch_dxDone (t : Nat) (v : Option Tok) : (s.putTok t v).sch.dxDone = s.sch.dxDone := rfl
@[simp] theorem putTok_val (t : Nat) (v : Option Tok) : (s.putTok t v).val = s.val := rfl
@[simp] theorem putTok_units (t : Nat) (v : Option Tok) : (s.putTok t v).units = s.units := rfl
@[simp] theorem putTok_evt (t : Nat) (v : Option Tok) : (s.putTok t v).evt = s.evt := rfl
@[simp] theorem putTok_pass (t : Nat) (v : Option Tok) : (s.putTok t v).pass = s.pass := rfl
@[simp] theorem putTok_col (t : Nat) (v : Option Tok) : (s.putTok t v).col = s.col := rfl
@[simp] theorem putTok_fab (t : Nat) (v : Option Tok) : (s.putTok t v).fab = s.fab := rfl
@[simp] theorem putTok_seesaw (t : Nat) (v : Option Tok) : (s.putTok t v).seesaw = s.seesaw := rfl
@[simp] theorem putTok_arr (t : Nat) (v : Option Tok) : (s.putTok t v).arr = s.arr := rfl
@[simp] theorem putTok_pup (t : Nat) (v : Option Tok) : (s.putTok t v).pup = s.pup := rfl
@[simp] theorem putTok_load (t : Nat) (v : Option Tok) : (s.putTok t v).load = s.load := rfl
@[simp] theorem putTok_cxl (t : Nat) (v : Option Tok) : (s.putTok t v).cxl = s.cxl := rfl
@[simp] theorem putTok_pwr (t : Nat) (v : Option Tok) : (s.putTok t v).pwr = s.pwr := rfl
@[simp] theorem putTok_boot (t : Nat) (v : Option Tok) : (s.putTok t v).boot = s.boot := rfl
@[simp] theorem putTok_fuses (t : Nat) (v : Option Tok) : (s.putTok t v).fuses = s.fuses := rfl
@[simp] theorem putTok_sec (t : Nat) (v : Option Tok) : (s.putTok t v).sec = s.sec := rfl
@[simp] theorem putTok_bel (t : Nat) (v : Option Tok) : (s.putTok t v).bel = s.bel := rfl
@[simp] theorem putTok_ecc (t : Nat) (v : Option Tok) : (s.putTok t v).ecc = s.ecc := rfl
@[simp] theorem putTok_eid (t : Nat) (v : Option Tok) : (s.putTok t v).eid = s.eid := rfl
@[simp] theorem putTok_out (t : Nat) (v : Option Tok) : (s.putTok t v).out = s.out := rfl

@[simp] theorem clearTokens_pending : (s.clearTokens).pending = s.pending := rfl
@[simp] theorem clearTokens_freeCtr : (s.clearTokens).freeCtr = s.freeCtr := rfl
@[simp] theorem clearTokens_aon : (s.clearTokens).aon = s.aon := rfl
@[simp] theorem clearTokens_regs : (s.clearTokens).regs = s.regs := rfl
@[simp] theorem clearTokens_hbm : (s.clearTokens).hbm = s.hbm := rfl
@[simp] theorem clearTokens_scratch : (s.clearTokens).scratch = s.scratch := rfl
@[simp] theorem clearTokens_host : (s.clearTokens).host = s.host := rfl
@[simp] theorem clearTokens_poison : (s.clearTokens).poison = s.poison := rfl
@[simp] theorem clearTokens_sch_inflight : (s.clearTokens).sch.inflight = s.sch.inflight := rfl
@[simp] theorem clearTokens_sch_nextId : (s.clearTokens).sch.nextId = s.sch.nextId := rfl
@[simp] theorem clearTokens_sch_queues : (s.clearTokens).sch.queues = s.sch.queues := rfl
@[simp] theorem clearTokens_sch_cqHeld : (s.clearTokens).sch.cqHeld = s.sch.cqHeld := rfl
@[simp] theorem clearTokens_sch_cqFull : (s.clearTokens).sch.cqFull = s.sch.cqFull := rfl
@[simp] theorem clearTokens_sch_cqWrap : (s.clearTokens).sch.cqWrap = s.sch.cqWrap := rfl
@[simp] theorem clearTokens_sch_lastProgress : (s.clearTokens).sch.lastProgress = s.sch.lastProgress := rfl
@[simp] theorem clearTokens_sch_stallSeen : (s.clearTokens).sch.stallSeen = s.sch.stallSeen := rfl
@[simp] theorem clearTokens_sch_credit : (s.clearTokens).sch.credit = s.sch.credit := rfl
@[simp] theorem clearTokens_sch_lastServed : (s.clearTokens).sch.lastServed = s.sch.lastServed := rfl
@[simp] theorem clearTokens_sch_scratchAllocs : (s.clearTokens).sch.scratchAllocs = s.sch.scratchAllocs := rfl
@[simp] theorem clearTokens_sch_heapAllocs : (s.clearTokens).sch.heapAllocs = s.sch.heapAllocs := rfl
@[simp] theorem clearTokens_sch_reserved : (s.clearTokens).sch.reserved = s.sch.reserved := rfl
@[simp] theorem clearTokens_sch_deferInEffect : (s.clearTokens).sch.deferInEffect = s.sch.deferInEffect := rfl
@[simp] theorem clearTokens_sch_raising : (s.clearTokens).sch.raising = s.sch.raising := rfl
@[simp] theorem clearTokens_sch_dxDone : (s.clearTokens).sch.dxDone = s.sch.dxDone := rfl
@[simp] theorem clearTokens_val : (s.clearTokens).val = s.val := rfl
@[simp] theorem clearTokens_units : (s.clearTokens).units = s.units := rfl
@[simp] theorem clearTokens_evt : (s.clearTokens).evt = s.evt := rfl
@[simp] theorem clearTokens_pass : (s.clearTokens).pass = s.pass := rfl
@[simp] theorem clearTokens_col : (s.clearTokens).col = s.col := rfl
@[simp] theorem clearTokens_fab : (s.clearTokens).fab = s.fab := rfl
@[simp] theorem clearTokens_seesaw : (s.clearTokens).seesaw = s.seesaw := rfl
@[simp] theorem clearTokens_arr : (s.clearTokens).arr = s.arr := rfl
@[simp] theorem clearTokens_pup : (s.clearTokens).pup = s.pup := rfl
@[simp] theorem clearTokens_load : (s.clearTokens).load = s.load := rfl
@[simp] theorem clearTokens_cxl : (s.clearTokens).cxl = s.cxl := rfl
@[simp] theorem clearTokens_pwr : (s.clearTokens).pwr = s.pwr := rfl
@[simp] theorem clearTokens_boot : (s.clearTokens).boot = s.boot := rfl
@[simp] theorem clearTokens_fuses : (s.clearTokens).fuses = s.fuses := rfl
@[simp] theorem clearTokens_sec : (s.clearTokens).sec = s.sec := rfl
@[simp] theorem clearTokens_bel : (s.clearTokens).bel = s.bel := rfl
@[simp] theorem clearTokens_ecc : (s.clearTokens).ecc = s.ecc := rfl
@[simp] theorem clearTokens_eid : (s.clearTokens).eid = s.eid := rfl
@[simp] theorem clearTokens_out : (s.clearTokens).out = s.out := rfl

@[simp] theorem putInst_pending (i : Inst) : (s.putInst i).pending = s.pending := rfl
@[simp] theorem putInst_freeCtr (i : Inst) : (s.putInst i).freeCtr = s.freeCtr := rfl
@[simp] theorem putInst_aon (i : Inst) : (s.putInst i).aon = s.aon := rfl
@[simp] theorem putInst_regs (i : Inst) : (s.putInst i).regs = s.regs := rfl
@[simp] theorem putInst_hbm (i : Inst) : (s.putInst i).hbm = s.hbm := rfl
@[simp] theorem putInst_scratch (i : Inst) : (s.putInst i).scratch = s.scratch := rfl
@[simp] theorem putInst_host (i : Inst) : (s.putInst i).host = s.host := rfl
@[simp] theorem putInst_poison (i : Inst) : (s.putInst i).poison = s.poison := rfl
@[simp] theorem putInst_sch_tokens (i : Inst) : (s.putInst i).sch.tokens = s.sch.tokens := rfl
@[simp] theorem putInst_sch_nextId (i : Inst) : (s.putInst i).sch.nextId = s.sch.nextId := rfl
@[simp] theorem putInst_sch_queues (i : Inst) : (s.putInst i).sch.queues = s.sch.queues := rfl
@[simp] theorem putInst_sch_cqHeld (i : Inst) : (s.putInst i).sch.cqHeld = s.sch.cqHeld := rfl
@[simp] theorem putInst_sch_cqFull (i : Inst) : (s.putInst i).sch.cqFull = s.sch.cqFull := rfl
@[simp] theorem putInst_sch_cqWrap (i : Inst) : (s.putInst i).sch.cqWrap = s.sch.cqWrap := rfl
@[simp] theorem putInst_sch_lastProgress (i : Inst) : (s.putInst i).sch.lastProgress = s.sch.lastProgress := rfl
@[simp] theorem putInst_sch_stallSeen (i : Inst) : (s.putInst i).sch.stallSeen = s.sch.stallSeen := rfl
@[simp] theorem putInst_sch_credit (i : Inst) : (s.putInst i).sch.credit = s.sch.credit := rfl
@[simp] theorem putInst_sch_lastServed (i : Inst) : (s.putInst i).sch.lastServed = s.sch.lastServed := rfl
@[simp] theorem putInst_sch_scratchAllocs (i : Inst) : (s.putInst i).sch.scratchAllocs = s.sch.scratchAllocs := rfl
@[simp] theorem putInst_sch_heapAllocs (i : Inst) : (s.putInst i).sch.heapAllocs = s.sch.heapAllocs := rfl
@[simp] theorem putInst_sch_reserved (i : Inst) : (s.putInst i).sch.reserved = s.sch.reserved := rfl
@[simp] theorem putInst_sch_deferInEffect (i : Inst) : (s.putInst i).sch.deferInEffect = s.sch.deferInEffect := rfl
@[simp] theorem putInst_sch_raising (i : Inst) : (s.putInst i).sch.raising = s.sch.raising := rfl
@[simp] theorem putInst_sch_dxDone (i : Inst) : (s.putInst i).sch.dxDone = s.sch.dxDone := rfl
@[simp] theorem putInst_val (i : Inst) : (s.putInst i).val = s.val := rfl
@[simp] theorem putInst_units (i : Inst) : (s.putInst i).units = s.units := rfl
@[simp] theorem putInst_evt (i : Inst) : (s.putInst i).evt = s.evt := rfl
@[simp] theorem putInst_pass (i : Inst) : (s.putInst i).pass = s.pass := rfl
@[simp] theorem putInst_col (i : Inst) : (s.putInst i).col = s.col := rfl
@[simp] theorem putInst_fab (i : Inst) : (s.putInst i).fab = s.fab := rfl
@[simp] theorem putInst_seesaw (i : Inst) : (s.putInst i).seesaw = s.seesaw := rfl
@[simp] theorem putInst_arr (i : Inst) : (s.putInst i).arr = s.arr := rfl
@[simp] theorem putInst_pup (i : Inst) : (s.putInst i).pup = s.pup := rfl
@[simp] theorem putInst_load (i : Inst) : (s.putInst i).load = s.load := rfl
@[simp] theorem putInst_cxl (i : Inst) : (s.putInst i).cxl = s.cxl := rfl
@[simp] theorem putInst_pwr (i : Inst) : (s.putInst i).pwr = s.pwr := rfl
@[simp] theorem putInst_boot (i : Inst) : (s.putInst i).boot = s.boot := rfl
@[simp] theorem putInst_fuses (i : Inst) : (s.putInst i).fuses = s.fuses := rfl
@[simp] theorem putInst_sec (i : Inst) : (s.putInst i).sec = s.sec := rfl
@[simp] theorem putInst_bel (i : Inst) : (s.putInst i).bel = s.bel := rfl
@[simp] theorem putInst_ecc (i : Inst) : (s.putInst i).ecc = s.ecc := rfl
@[simp] theorem putInst_eid (i : Inst) : (s.putInst i).eid = s.eid := rfl
@[simp] theorem putInst_out (i : Inst) : (s.putInst i).out = s.out := rfl

@[simp] theorem modInst_pending (id : Nat) (g : Inst → Inst) : (s.modInst id g).pending = s.pending := rfl
@[simp] theorem modInst_freeCtr (id : Nat) (g : Inst → Inst) : (s.modInst id g).freeCtr = s.freeCtr := rfl
@[simp] theorem modInst_aon (id : Nat) (g : Inst → Inst) : (s.modInst id g).aon = s.aon := rfl
@[simp] theorem modInst_regs (id : Nat) (g : Inst → Inst) : (s.modInst id g).regs = s.regs := rfl
@[simp] theorem modInst_hbm (id : Nat) (g : Inst → Inst) : (s.modInst id g).hbm = s.hbm := rfl
@[simp] theorem modInst_scratch (id : Nat) (g : Inst → Inst) : (s.modInst id g).scratch = s.scratch := rfl
@[simp] theorem modInst_host (id : Nat) (g : Inst → Inst) : (s.modInst id g).host = s.host := rfl
@[simp] theorem modInst_poison (id : Nat) (g : Inst → Inst) : (s.modInst id g).poison = s.poison := rfl
@[simp] theorem modInst_sch_tokens (id : Nat) (g : Inst → Inst) : (s.modInst id g).sch.tokens = s.sch.tokens := rfl
@[simp] theorem modInst_sch_nextId (id : Nat) (g : Inst → Inst) : (s.modInst id g).sch.nextId = s.sch.nextId := rfl
@[simp] theorem modInst_sch_queues (id : Nat) (g : Inst → Inst) : (s.modInst id g).sch.queues = s.sch.queues := rfl
@[simp] theorem modInst_sch_cqHeld (id : Nat) (g : Inst → Inst) : (s.modInst id g).sch.cqHeld = s.sch.cqHeld := rfl
@[simp] theorem modInst_sch_cqFull (id : Nat) (g : Inst → Inst) : (s.modInst id g).sch.cqFull = s.sch.cqFull := rfl
@[simp] theorem modInst_sch_cqWrap (id : Nat) (g : Inst → Inst) : (s.modInst id g).sch.cqWrap = s.sch.cqWrap := rfl
@[simp] theorem modInst_sch_lastProgress (id : Nat) (g : Inst → Inst) : (s.modInst id g).sch.lastProgress = s.sch.lastProgress := rfl
@[simp] theorem modInst_sch_stallSeen (id : Nat) (g : Inst → Inst) : (s.modInst id g).sch.stallSeen = s.sch.stallSeen := rfl
@[simp] theorem modInst_sch_credit (id : Nat) (g : Inst → Inst) : (s.modInst id g).sch.credit = s.sch.credit := rfl
@[simp] theorem modInst_sch_lastServed (id : Nat) (g : Inst → Inst) : (s.modInst id g).sch.lastServed = s.sch.lastServed := rfl
@[simp] theorem modInst_sch_scratchAllocs (id : Nat) (g : Inst → Inst) : (s.modInst id g).sch.scratchAllocs = s.sch.scratchAllocs := rfl
@[simp] theorem modInst_sch_heapAllocs (id : Nat) (g : Inst → Inst) : (s.modInst id g).sch.heapAllocs = s.sch.heapAllocs := rfl
@[simp] theorem modInst_sch_reserved (id : Nat) (g : Inst → Inst) : (s.modInst id g).sch.reserved = s.sch.reserved := rfl
@[simp] theorem modInst_sch_deferInEffect (id : Nat) (g : Inst → Inst) : (s.modInst id g).sch.deferInEffect = s.sch.deferInEffect := rfl
@[simp] theorem modInst_sch_raising (id : Nat) (g : Inst → Inst) : (s.modInst id g).sch.raising = s.sch.raising := rfl
@[simp] theorem modInst_sch_dxDone (id : Nat) (g : Inst → Inst) : (s.modInst id g).sch.dxDone = s.sch.dxDone := rfl
@[simp] theorem modInst_val (id : Nat) (g : Inst → Inst) : (s.modInst id g).val = s.val := rfl
@[simp] theorem modInst_units (id : Nat) (g : Inst → Inst) : (s.modInst id g).units = s.units := rfl
@[simp] theorem modInst_evt (id : Nat) (g : Inst → Inst) : (s.modInst id g).evt = s.evt := rfl
@[simp] theorem modInst_pass (id : Nat) (g : Inst → Inst) : (s.modInst id g).pass = s.pass := rfl
@[simp] theorem modInst_col (id : Nat) (g : Inst → Inst) : (s.modInst id g).col = s.col := rfl
@[simp] theorem modInst_fab (id : Nat) (g : Inst → Inst) : (s.modInst id g).fab = s.fab := rfl
@[simp] theorem modInst_seesaw (id : Nat) (g : Inst → Inst) : (s.modInst id g).seesaw = s.seesaw := rfl
@[simp] theorem modInst_arr (id : Nat) (g : Inst → Inst) : (s.modInst id g).arr = s.arr := rfl
@[simp] theorem modInst_pup (id : Nat) (g : Inst → Inst) : (s.modInst id g).pup = s.pup := rfl
@[simp] theorem modInst_load (id : Nat) (g : Inst → Inst) : (s.modInst id g).load = s.load := rfl
@[simp] theorem modInst_cxl (id : Nat) (g : Inst → Inst) : (s.modInst id g).cxl = s.cxl := rfl
@[simp] theorem modInst_pwr (id : Nat) (g : Inst → Inst) : (s.modInst id g).pwr = s.pwr := rfl
@[simp] theorem modInst_boot (id : Nat) (g : Inst → Inst) : (s.modInst id g).boot = s.boot := rfl
@[simp] theorem modInst_fuses (id : Nat) (g : Inst → Inst) : (s.modInst id g).fuses = s.fuses := rfl
@[simp] theorem modInst_sec (id : Nat) (g : Inst → Inst) : (s.modInst id g).sec = s.sec := rfl
@[simp] theorem modInst_bel (id : Nat) (g : Inst → Inst) : (s.modInst id g).bel = s.bel := rfl
@[simp] theorem modInst_ecc (id : Nat) (g : Inst → Inst) : (s.modInst id g).ecc = s.ecc := rfl
@[simp] theorem modInst_eid (id : Nat) (g : Inst → Inst) : (s.modInst id g).eid = s.eid := rfl
@[simp] theorem modInst_out (id : Nat) (g : Inst → Inst) : (s.modInst id g).out = s.out := rfl

@[simp] theorem modAll_pending (g : Inst → Inst) : (s.modAll g).pending = s.pending := rfl
@[simp] theorem modAll_freeCtr (g : Inst → Inst) : (s.modAll g).freeCtr = s.freeCtr := rfl
@[simp] theorem modAll_aon (g : Inst → Inst) : (s.modAll g).aon = s.aon := rfl
@[simp] theorem modAll_regs (g : Inst → Inst) : (s.modAll g).regs = s.regs := rfl
@[simp] theorem modAll_hbm (g : Inst → Inst) : (s.modAll g).hbm = s.hbm := rfl
@[simp] theorem modAll_scratch (g : Inst → Inst) : (s.modAll g).scratch = s.scratch := rfl
@[simp] theorem modAll_host (g : Inst → Inst) : (s.modAll g).host = s.host := rfl
@[simp] theorem modAll_poison (g : Inst → Inst) : (s.modAll g).poison = s.poison := rfl
@[simp] theorem modAll_sch_tokens (g : Inst → Inst) : (s.modAll g).sch.tokens = s.sch.tokens := rfl
@[simp] theorem modAll_sch_nextId (g : Inst → Inst) : (s.modAll g).sch.nextId = s.sch.nextId := rfl
@[simp] theorem modAll_sch_queues (g : Inst → Inst) : (s.modAll g).sch.queues = s.sch.queues := rfl
@[simp] theorem modAll_sch_cqHeld (g : Inst → Inst) : (s.modAll g).sch.cqHeld = s.sch.cqHeld := rfl
@[simp] theorem modAll_sch_cqFull (g : Inst → Inst) : (s.modAll g).sch.cqFull = s.sch.cqFull := rfl
@[simp] theorem modAll_sch_cqWrap (g : Inst → Inst) : (s.modAll g).sch.cqWrap = s.sch.cqWrap := rfl
@[simp] theorem modAll_sch_lastProgress (g : Inst → Inst) : (s.modAll g).sch.lastProgress = s.sch.lastProgress := rfl
@[simp] theorem modAll_sch_stallSeen (g : Inst → Inst) : (s.modAll g).sch.stallSeen = s.sch.stallSeen := rfl
@[simp] theorem modAll_sch_credit (g : Inst → Inst) : (s.modAll g).sch.credit = s.sch.credit := rfl
@[simp] theorem modAll_sch_lastServed (g : Inst → Inst) : (s.modAll g).sch.lastServed = s.sch.lastServed := rfl
@[simp] theorem modAll_sch_scratchAllocs (g : Inst → Inst) : (s.modAll g).sch.scratchAllocs = s.sch.scratchAllocs := rfl
@[simp] theorem modAll_sch_heapAllocs (g : Inst → Inst) : (s.modAll g).sch.heapAllocs = s.sch.heapAllocs := rfl
@[simp] theorem modAll_sch_reserved (g : Inst → Inst) : (s.modAll g).sch.reserved = s.sch.reserved := rfl
@[simp] theorem modAll_sch_deferInEffect (g : Inst → Inst) : (s.modAll g).sch.deferInEffect = s.sch.deferInEffect := rfl
@[simp] theorem modAll_sch_raising (g : Inst → Inst) : (s.modAll g).sch.raising = s.sch.raising := rfl
@[simp] theorem modAll_sch_dxDone (g : Inst → Inst) : (s.modAll g).sch.dxDone = s.sch.dxDone := rfl
@[simp] theorem modAll_val (g : Inst → Inst) : (s.modAll g).val = s.val := rfl
@[simp] theorem modAll_units (g : Inst → Inst) : (s.modAll g).units = s.units := rfl
@[simp] theorem modAll_evt (g : Inst → Inst) : (s.modAll g).evt = s.evt := rfl
@[simp] theorem modAll_pass (g : Inst → Inst) : (s.modAll g).pass = s.pass := rfl
@[simp] theorem modAll_col (g : Inst → Inst) : (s.modAll g).col = s.col := rfl
@[simp] theorem modAll_fab (g : Inst → Inst) : (s.modAll g).fab = s.fab := rfl
@[simp] theorem modAll_seesaw (g : Inst → Inst) : (s.modAll g).seesaw = s.seesaw := rfl
@[simp] theorem modAll_arr (g : Inst → Inst) : (s.modAll g).arr = s.arr := rfl
@[simp] theorem modAll_pup (g : Inst → Inst) : (s.modAll g).pup = s.pup := rfl
@[simp] theorem modAll_load (g : Inst → Inst) : (s.modAll g).load = s.load := rfl
@[simp] theorem modAll_cxl (g : Inst → Inst) : (s.modAll g).cxl = s.cxl := rfl
@[simp] theorem modAll_pwr (g : Inst → Inst) : (s.modAll g).pwr = s.pwr := rfl
@[simp] theorem modAll_boot (g : Inst → Inst) : (s.modAll g).boot = s.boot := rfl
@[simp] theorem modAll_fuses (g : Inst → Inst) : (s.modAll g).fuses = s.fuses := rfl
@[simp] theorem modAll_sec (g : Inst → Inst) : (s.modAll g).sec = s.sec := rfl
@[simp] theorem modAll_bel (g : Inst → Inst) : (s.modAll g).bel = s.bel := rfl
@[simp] theorem modAll_ecc (g : Inst → Inst) : (s.modAll g).ecc = s.ecc := rfl
@[simp] theorem modAll_eid (g : Inst → Inst) : (s.modAll g).eid = s.eid := rfl
@[simp] theorem modAll_out (g : Inst → Inst) : (s.modAll g).out = s.out := rfl

@[simp] theorem dropInst_pending (id : Nat) : (s.dropInst id).pending = s.pending := rfl
@[simp] theorem dropInst_freeCtr (id : Nat) : (s.dropInst id).freeCtr = s.freeCtr := rfl
@[simp] theorem dropInst_aon (id : Nat) : (s.dropInst id).aon = s.aon := rfl
@[simp] theorem dropInst_regs (id : Nat) : (s.dropInst id).regs = s.regs := rfl
@[simp] theorem dropInst_hbm (id : Nat) : (s.dropInst id).hbm = s.hbm := rfl
@[simp] theorem dropInst_scratch (id : Nat) : (s.dropInst id).scratch = s.scratch := rfl
@[simp] theorem dropInst_host (id : Nat) : (s.dropInst id).host = s.host := rfl
@[simp] theorem dropInst_poison (id : Nat) : (s.dropInst id).poison = s.poison := rfl
@[simp] theorem dropInst_sch_tokens (id : Nat) : (s.dropInst id).sch.tokens = s.sch.tokens := rfl
@[simp] theorem dropInst_sch_nextId (id : Nat) : (s.dropInst id).sch.nextId = s.sch.nextId := rfl
@[simp] theorem dropInst_sch_queues (id : Nat) : (s.dropInst id).sch.queues = s.sch.queues := rfl
@[simp] theorem dropInst_sch_cqHeld (id : Nat) : (s.dropInst id).sch.cqHeld = s.sch.cqHeld := rfl
@[simp] theorem dropInst_sch_cqFull (id : Nat) : (s.dropInst id).sch.cqFull = s.sch.cqFull := rfl
@[simp] theorem dropInst_sch_cqWrap (id : Nat) : (s.dropInst id).sch.cqWrap = s.sch.cqWrap := rfl
@[simp] theorem dropInst_sch_lastProgress (id : Nat) : (s.dropInst id).sch.lastProgress = s.sch.lastProgress := rfl
@[simp] theorem dropInst_sch_stallSeen (id : Nat) : (s.dropInst id).sch.stallSeen = s.sch.stallSeen := rfl
@[simp] theorem dropInst_sch_credit (id : Nat) : (s.dropInst id).sch.credit = s.sch.credit := rfl
@[simp] theorem dropInst_sch_lastServed (id : Nat) : (s.dropInst id).sch.lastServed = s.sch.lastServed := rfl
@[simp] theorem dropInst_sch_scratchAllocs (id : Nat) : (s.dropInst id).sch.scratchAllocs = s.sch.scratchAllocs := rfl
@[simp] theorem dropInst_sch_heapAllocs (id : Nat) : (s.dropInst id).sch.heapAllocs = s.sch.heapAllocs := rfl
@[simp] theorem dropInst_sch_reserved (id : Nat) : (s.dropInst id).sch.reserved = s.sch.reserved := rfl
@[simp] theorem dropInst_sch_deferInEffect (id : Nat) : (s.dropInst id).sch.deferInEffect = s.sch.deferInEffect := rfl
@[simp] theorem dropInst_sch_raising (id : Nat) : (s.dropInst id).sch.raising = s.sch.raising := rfl
@[simp] theorem dropInst_sch_dxDone (id : Nat) : (s.dropInst id).sch.dxDone = s.sch.dxDone := rfl
@[simp] theorem dropInst_val (id : Nat) : (s.dropInst id).val = s.val := rfl
@[simp] theorem dropInst_units (id : Nat) : (s.dropInst id).units = s.units := rfl
@[simp] theorem dropInst_evt (id : Nat) : (s.dropInst id).evt = s.evt := rfl
@[simp] theorem dropInst_pass (id : Nat) : (s.dropInst id).pass = s.pass := rfl
@[simp] theorem dropInst_col (id : Nat) : (s.dropInst id).col = s.col := rfl
@[simp] theorem dropInst_fab (id : Nat) : (s.dropInst id).fab = s.fab := rfl
@[simp] theorem dropInst_seesaw (id : Nat) : (s.dropInst id).seesaw = s.seesaw := rfl
@[simp] theorem dropInst_arr (id : Nat) : (s.dropInst id).arr = s.arr := rfl
@[simp] theorem dropInst_pup (id : Nat) : (s.dropInst id).pup = s.pup := rfl
@[simp] theorem dropInst_load (id : Nat) : (s.dropInst id).load = s.load := rfl
@[simp] theorem dropInst_cxl (id : Nat) : (s.dropInst id).cxl = s.cxl := rfl
@[simp] theorem dropInst_pwr (id : Nat) : (s.dropInst id).pwr = s.pwr := rfl
@[simp] theorem dropInst_boot (id : Nat) : (s.dropInst id).boot = s.boot := rfl
@[simp] theorem dropInst_fuses (id : Nat) : (s.dropInst id).fuses = s.fuses := rfl
@[simp] theorem dropInst_sec (id : Nat) : (s.dropInst id).sec = s.sec := rfl
@[simp] theorem dropInst_bel (id : Nat) : (s.dropInst id).bel = s.bel := rfl
@[simp] theorem dropInst_ecc (id : Nat) : (s.dropInst id).ecc = s.ecc := rfl
@[simp] theorem dropInst_eid (id : Nat) : (s.dropInst id).eid = s.eid := rfl
@[simp] theorem dropInst_out (id : Nat) : (s.dropInst id).out = s.out := rfl

@[simp] theorem putQst_pending (q : Nat) (x : QSt) : (s.putQst q x).pending = s.pending := rfl
@[simp] theorem putQst_freeCtr (q : Nat) (x : QSt) : (s.putQst q x).freeCtr = s.freeCtr := rfl
@[simp] theorem putQst_aon (q : Nat) (x : QSt) : (s.putQst q x).aon = s.aon := rfl
@[simp] theorem putQst_regs (q : Nat) (x : QSt) : (s.putQst q x).regs = s.regs := rfl
@[simp] theorem putQst_hbm (q : Nat) (x : QSt) : (s.putQst q x).hbm = s.hbm := rfl
@[simp] theorem putQst_scratch (q : Nat) (x : QSt) : (s.putQst q x).scratch = s.scratch := rfl
@[simp] theorem putQst_host (q : Nat) (x : QSt) : (s.putQst q x).host = s.host := rfl
@[simp] theorem putQst_poison (q : Nat) (x : QSt) : (s.putQst q x).poison = s.poison := rfl
@[simp] theorem putQst_sch_tokens (q : Nat) (x : QSt) : (s.putQst q x).sch.tokens = s.sch.tokens := rfl
@[simp] theorem putQst_sch_inflight (q : Nat) (x : QSt) : (s.putQst q x).sch.inflight = s.sch.inflight := rfl
@[simp] theorem putQst_sch_nextId (q : Nat) (x : QSt) : (s.putQst q x).sch.nextId = s.sch.nextId := rfl
@[simp] theorem putQst_sch_cqHeld (q : Nat) (x : QSt) : (s.putQst q x).sch.cqHeld = s.sch.cqHeld := rfl
@[simp] theorem putQst_sch_cqFull (q : Nat) (x : QSt) : (s.putQst q x).sch.cqFull = s.sch.cqFull := rfl
@[simp] theorem putQst_sch_cqWrap (q : Nat) (x : QSt) : (s.putQst q x).sch.cqWrap = s.sch.cqWrap := rfl
@[simp] theorem putQst_sch_lastProgress (q : Nat) (x : QSt) : (s.putQst q x).sch.lastProgress = s.sch.lastProgress := rfl
@[simp] theorem putQst_sch_stallSeen (q : Nat) (x : QSt) : (s.putQst q x).sch.stallSeen = s.sch.stallSeen := rfl
@[simp] theorem putQst_sch_credit (q : Nat) (x : QSt) : (s.putQst q x).sch.credit = s.sch.credit := rfl
@[simp] theorem putQst_sch_lastServed (q : Nat) (x : QSt) : (s.putQst q x).sch.lastServed = s.sch.lastServed := rfl
@[simp] theorem putQst_sch_scratchAllocs (q : Nat) (x : QSt) : (s.putQst q x).sch.scratchAllocs = s.sch.scratchAllocs := rfl
@[simp] theorem putQst_sch_heapAllocs (q : Nat) (x : QSt) : (s.putQst q x).sch.heapAllocs = s.sch.heapAllocs := rfl
@[simp] theorem putQst_sch_reserved (q : Nat) (x : QSt) : (s.putQst q x).sch.reserved = s.sch.reserved := rfl
@[simp] theorem putQst_sch_deferInEffect (q : Nat) (x : QSt) : (s.putQst q x).sch.deferInEffect = s.sch.deferInEffect := rfl
@[simp] theorem putQst_sch_raising (q : Nat) (x : QSt) : (s.putQst q x).sch.raising = s.sch.raising := rfl
@[simp] theorem putQst_sch_dxDone (q : Nat) (x : QSt) : (s.putQst q x).sch.dxDone = s.sch.dxDone := rfl
@[simp] theorem putQst_val (q : Nat) (x : QSt) : (s.putQst q x).val = s.val := rfl
@[simp] theorem putQst_units (q : Nat) (x : QSt) : (s.putQst q x).units = s.units := rfl
@[simp] theorem putQst_evt (q : Nat) (x : QSt) : (s.putQst q x).evt = s.evt := rfl
@[simp] theorem putQst_pass (q : Nat) (x : QSt) : (s.putQst q x).pass = s.pass := rfl
@[simp] theorem putQst_col (q : Nat) (x : QSt) : (s.putQst q x).col = s.col := rfl
@[simp] theorem putQst_fab (q : Nat) (x : QSt) : (s.putQst q x).fab = s.fab := rfl
@[simp] theorem putQst_seesaw (q : Nat) (x : QSt) : (s.putQst q x).seesaw = s.seesaw := rfl
@[simp] theorem putQst_arr (q : Nat) (x : QSt) : (s.putQst q x).arr = s.arr := rfl
@[simp] theorem putQst_pup (q : Nat) (x : QSt) : (s.putQst q x).pup = s.pup := rfl
@[simp] theorem putQst_load (q : Nat) (x : QSt) : (s.putQst q x).load = s.load := rfl
@[simp] theorem putQst_cxl (q : Nat) (x : QSt) : (s.putQst q x).cxl = s.cxl := rfl
@[simp] theorem putQst_pwr (q : Nat) (x : QSt) : (s.putQst q x).pwr = s.pwr := rfl
@[simp] theorem putQst_boot (q : Nat) (x : QSt) : (s.putQst q x).boot = s.boot := rfl
@[simp] theorem putQst_fuses (q : Nat) (x : QSt) : (s.putQst q x).fuses = s.fuses := rfl
@[simp] theorem putQst_sec (q : Nat) (x : QSt) : (s.putQst q x).sec = s.sec := rfl
@[simp] theorem putQst_bel (q : Nat) (x : QSt) : (s.putQst q x).bel = s.bel := rfl
@[simp] theorem putQst_ecc (q : Nat) (x : QSt) : (s.putQst q x).ecc = s.ecc := rfl
@[simp] theorem putQst_eid (q : Nat) (x : QSt) : (s.putQst q x).eid = s.eid := rfl
@[simp] theorem putQst_out (q : Nat) (x : QSt) : (s.putQst q x).out = s.out := rfl

@[simp] theorem progress_pending : (s.progress).pending = s.pending := rfl
@[simp] theorem progress_freeCtr : (s.progress).freeCtr = s.freeCtr := rfl
@[simp] theorem progress_aon : (s.progress).aon = s.aon := rfl
@[simp] theorem progress_regs : (s.progress).regs = s.regs := rfl
@[simp] theorem progress_hbm : (s.progress).hbm = s.hbm := rfl
@[simp] theorem progress_scratch : (s.progress).scratch = s.scratch := rfl
@[simp] theorem progress_host : (s.progress).host = s.host := rfl
@[simp] theorem progress_poison : (s.progress).poison = s.poison := rfl
@[simp] theorem progress_sch_tokens : (s.progress).sch.tokens = s.sch.tokens := rfl
@[simp] theorem progress_sch_inflight : (s.progress).sch.inflight = s.sch.inflight := rfl
@[simp] theorem progress_sch_nextId : (s.progress).sch.nextId = s.sch.nextId := rfl
@[simp] theorem progress_sch_queues : (s.progress).sch.queues = s.sch.queues := rfl
@[simp] theorem progress_sch_cqHeld : (s.progress).sch.cqHeld = s.sch.cqHeld := rfl
@[simp] theorem progress_sch_cqFull : (s.progress).sch.cqFull = s.sch.cqFull := rfl
@[simp] theorem progress_sch_cqWrap : (s.progress).sch.cqWrap = s.sch.cqWrap := rfl
@[simp] theorem progress_sch_credit : (s.progress).sch.credit = s.sch.credit := rfl
@[simp] theorem progress_sch_lastServed : (s.progress).sch.lastServed = s.sch.lastServed := rfl
@[simp] theorem progress_sch_scratchAllocs : (s.progress).sch.scratchAllocs = s.sch.scratchAllocs := rfl
@[simp] theorem progress_sch_heapAllocs : (s.progress).sch.heapAllocs = s.sch.heapAllocs := rfl
@[simp] theorem progress_sch_reserved : (s.progress).sch.reserved = s.sch.reserved := rfl
@[simp] theorem progress_sch_deferInEffect : (s.progress).sch.deferInEffect = s.sch.deferInEffect := rfl
@[simp] theorem progress_sch_raising : (s.progress).sch.raising = s.sch.raising := rfl
@[simp] theorem progress_sch_dxDone : (s.progress).sch.dxDone = s.sch.dxDone := rfl
@[simp] theorem progress_val : (s.progress).val = s.val := rfl
@[simp] theorem progress_units : (s.progress).units = s.units := rfl
@[simp] theorem progress_evt : (s.progress).evt = s.evt := rfl
@[simp] theorem progress_pass : (s.progress).pass = s.pass := rfl
@[simp] theorem progress_col : (s.progress).col = s.col := rfl
@[simp] theorem progress_fab : (s.progress).fab = s.fab := rfl
@[simp] theorem progress_seesaw : (s.progress).seesaw = s.seesaw := rfl
@[simp] theorem progress_arr : (s.progress).arr = s.arr := rfl
@[simp] theorem progress_pup : (s.progress).pup = s.pup := rfl
@[simp] theorem progress_load : (s.progress).load = s.load := rfl
@[simp] theorem progress_cxl : (s.progress).cxl = s.cxl := rfl
@[simp] theorem progress_pwr : (s.progress).pwr = s.pwr := rfl
@[simp] theorem progress_boot : (s.progress).boot = s.boot := rfl
@[simp] theorem progress_fuses : (s.progress).fuses = s.fuses := rfl
@[simp] theorem progress_sec : (s.progress).sec = s.sec := rfl
@[simp] theorem progress_bel : (s.progress).bel = s.bel := rfl
@[simp] theorem progress_ecc : (s.progress).ecc = s.ecc := rfl
@[simp] theorem progress_eid : (s.progress).eid = s.eid := rfl
@[simp] theorem progress_out : (s.progress).out = s.out := rfl

@[simp] theorem tick_pending : (s.tick).pending = s.pending := rfl
@[simp] theorem tick_aon : (s.tick).aon = s.aon := rfl
@[simp] theorem tick_regs : (s.tick).regs = s.regs := rfl
@[simp] theorem tick_hbm : (s.tick).hbm = s.hbm := rfl
@[simp] theorem tick_scratch : (s.tick).scratch = s.scratch := rfl
@[simp] theorem tick_host : (s.tick).host = s.host := rfl
@[simp] theorem tick_poison : (s.tick).poison = s.poison := rfl
@[simp] theorem tick_sch : (s.tick).sch = s.sch := rfl
@[simp] theorem tick_val : (s.tick).val = s.val := rfl
@[simp] theorem tick_units : (s.tick).units = s.units := rfl
@[simp] theorem tick_evt : (s.tick).evt = s.evt := rfl
@[simp] theorem tick_pass : (s.tick).pass = s.pass := rfl
@[simp] theorem tick_col : (s.tick).col = s.col := rfl
@[simp] theorem tick_fab : (s.tick).fab = s.fab := rfl
@[simp] theorem tick_seesaw : (s.tick).seesaw = s.seesaw := rfl
@[simp] theorem tick_arr : (s.tick).arr = s.arr := rfl
@[simp] theorem tick_pup : (s.tick).pup = s.pup := rfl
@[simp] theorem tick_load : (s.tick).load = s.load := rfl
@[simp] theorem tick_cxl : (s.tick).cxl = s.cxl := rfl
@[simp] theorem tick_pwr : (s.tick).pwr = s.pwr := rfl
@[simp] theorem tick_boot : (s.tick).boot = s.boot := rfl
@[simp] theorem tick_fuses : (s.tick).fuses = s.fuses := rfl
@[simp] theorem tick_sec : (s.tick).sec = s.sec := rfl
@[simp] theorem tick_bel : (s.tick).bel = s.bel := rfl
@[simp] theorem tick_ecc : (s.tick).ecc = s.ecc := rfl
@[simp] theorem tick_eid : (s.tick).eid = s.eid := rfl
@[simp] theorem tick_out : (s.tick).out = s.out := rfl

@[simp] theorem modPass_pending (g : Pass → Pass) : (s.modPass g).pending = s.pending := rfl
@[simp] theorem modPass_freeCtr (g : Pass → Pass) : (s.modPass g).freeCtr = s.freeCtr := rfl
@[simp] theorem modPass_aon (g : Pass → Pass) : (s.modPass g).aon = s.aon := rfl
@[simp] theorem modPass_regs (g : Pass → Pass) : (s.modPass g).regs = s.regs := rfl
@[simp] theorem modPass_hbm (g : Pass → Pass) : (s.modPass g).hbm = s.hbm := rfl
@[simp] theorem modPass_scratch (g : Pass → Pass) : (s.modPass g).scratch = s.scratch := rfl
@[simp] theorem modPass_host (g : Pass → Pass) : (s.modPass g).host = s.host := rfl
@[simp] theorem modPass_poison (g : Pass → Pass) : (s.modPass g).poison = s.poison := rfl
@[simp] theorem modPass_sch (g : Pass → Pass) : (s.modPass g).sch = s.sch := rfl
@[simp] theorem modPass_val (g : Pass → Pass) : (s.modPass g).val = s.val := rfl
@[simp] theorem modPass_units (g : Pass → Pass) : (s.modPass g).units = s.units := rfl
@[simp] theorem modPass_evt (g : Pass → Pass) : (s.modPass g).evt = s.evt := rfl
@[simp] theorem modPass_col (g : Pass → Pass) : (s.modPass g).col = s.col := rfl
@[simp] theorem modPass_fab (g : Pass → Pass) : (s.modPass g).fab = s.fab := rfl
@[simp] theorem modPass_seesaw (g : Pass → Pass) : (s.modPass g).seesaw = s.seesaw := rfl
@[simp] theorem modPass_arr (g : Pass → Pass) : (s.modPass g).arr = s.arr := rfl
@[simp] theorem modPass_pup (g : Pass → Pass) : (s.modPass g).pup = s.pup := rfl
@[simp] theorem modPass_load (g : Pass → Pass) : (s.modPass g).load = s.load := rfl
@[simp] theorem modPass_cxl (g : Pass → Pass) : (s.modPass g).cxl = s.cxl := rfl
@[simp] theorem modPass_pwr (g : Pass → Pass) : (s.modPass g).pwr = s.pwr := rfl
@[simp] theorem modPass_boot (g : Pass → Pass) : (s.modPass g).boot = s.boot := rfl
@[simp] theorem modPass_fuses (g : Pass → Pass) : (s.modPass g).fuses = s.fuses := rfl
@[simp] theorem modPass_sec (g : Pass → Pass) : (s.modPass g).sec = s.sec := rfl
@[simp] theorem modPass_bel (g : Pass → Pass) : (s.modPass g).bel = s.bel := rfl
@[simp] theorem modPass_ecc (g : Pass → Pass) : (s.modPass g).ecc = s.ecc := rfl
@[simp] theorem modPass_eid (g : Pass → Pass) : (s.modPass g).eid = s.eid := rfl
@[simp] theorem modPass_out (g : Pass → Pass) : (s.modPass g).out = s.out := rfl

@[simp] theorem modPup_pending (g : Pup → Pup) : (s.modPup g).pending = s.pending := rfl
@[simp] theorem modPup_freeCtr (g : Pup → Pup) : (s.modPup g).freeCtr = s.freeCtr := rfl
@[simp] theorem modPup_aon (g : Pup → Pup) : (s.modPup g).aon = s.aon := rfl
@[simp] theorem modPup_regs (g : Pup → Pup) : (s.modPup g).regs = s.regs := rfl
@[simp] theorem modPup_hbm (g : Pup → Pup) : (s.modPup g).hbm = s.hbm := rfl
@[simp] theorem modPup_scratch (g : Pup → Pup) : (s.modPup g).scratch = s.scratch := rfl
@[simp] theorem modPup_host (g : Pup → Pup) : (s.modPup g).host = s.host := rfl
@[simp] theorem modPup_poison (g : Pup → Pup) : (s.modPup g).poison = s.poison := rfl
@[simp] theorem modPup_sch (g : Pup → Pup) : (s.modPup g).sch = s.sch := rfl
@[simp] theorem modPup_val (g : Pup → Pup) : (s.modPup g).val = s.val := rfl
@[simp] theorem modPup_units (g : Pup → Pup) : (s.modPup g).units = s.units := rfl
@[simp] theorem modPup_evt (g : Pup → Pup) : (s.modPup g).evt = s.evt := rfl
@[simp] theorem modPup_pass (g : Pup → Pup) : (s.modPup g).pass = s.pass := rfl
@[simp] theorem modPup_col (g : Pup → Pup) : (s.modPup g).col = s.col := rfl
@[simp] theorem modPup_fab (g : Pup → Pup) : (s.modPup g).fab = s.fab := rfl
@[simp] theorem modPup_seesaw (g : Pup → Pup) : (s.modPup g).seesaw = s.seesaw := rfl
@[simp] theorem modPup_arr (g : Pup → Pup) : (s.modPup g).arr = s.arr := rfl
@[simp] theorem modPup_load (g : Pup → Pup) : (s.modPup g).load = s.load := rfl
@[simp] theorem modPup_cxl (g : Pup → Pup) : (s.modPup g).cxl = s.cxl := rfl
@[simp] theorem modPup_pwr (g : Pup → Pup) : (s.modPup g).pwr = s.pwr := rfl
@[simp] theorem modPup_boot (g : Pup → Pup) : (s.modPup g).boot = s.boot := rfl
@[simp] theorem modPup_fuses (g : Pup → Pup) : (s.modPup g).fuses = s.fuses := rfl
@[simp] theorem modPup_sec (g : Pup → Pup) : (s.modPup g).sec = s.sec := rfl
@[simp] theorem modPup_bel (g : Pup → Pup) : (s.modPup g).bel = s.bel := rfl
@[simp] theorem modPup_ecc (g : Pup → Pup) : (s.modPup g).ecc = s.ecc := rfl
@[simp] theorem modPup_eid (g : Pup → Pup) : (s.modPup g).eid = s.eid := rfl
@[simp] theorem modPup_out (g : Pup → Pup) : (s.modPup g).out = s.out := rfl

@[simp] theorem setCkpts_pending (l : List CkptJob) : (s.setCkpts l).pending = s.pending := rfl
@[simp] theorem setCkpts_freeCtr (l : List CkptJob) : (s.setCkpts l).freeCtr = s.freeCtr := rfl
@[simp] theorem setCkpts_aon (l : List CkptJob) : (s.setCkpts l).aon = s.aon := rfl
@[simp] theorem setCkpts_regs (l : List CkptJob) : (s.setCkpts l).regs = s.regs := rfl
@[simp] theorem setCkpts_hbm (l : List CkptJob) : (s.setCkpts l).hbm = s.hbm := rfl
@[simp] theorem setCkpts_scratch (l : List CkptJob) : (s.setCkpts l).scratch = s.scratch := rfl
@[simp] theorem setCkpts_host (l : List CkptJob) : (s.setCkpts l).host = s.host := rfl
@[simp] theorem setCkpts_poison (l : List CkptJob) : (s.setCkpts l).poison = s.poison := rfl
@[simp] theorem setCkpts_sch (l : List CkptJob) : (s.setCkpts l).sch = s.sch := rfl
@[simp] theorem setCkpts_val (l : List CkptJob) : (s.setCkpts l).val = s.val := rfl
@[simp] theorem setCkpts_units (l : List CkptJob) : (s.setCkpts l).units = s.units := rfl
@[simp] theorem setCkpts_evt (l : List CkptJob) : (s.setCkpts l).evt = s.evt := rfl
@[simp] theorem setCkpts_col (l : List CkptJob) : (s.setCkpts l).col = s.col := rfl
@[simp] theorem setCkpts_fab (l : List CkptJob) : (s.setCkpts l).fab = s.fab := rfl
@[simp] theorem setCkpts_seesaw (l : List CkptJob) : (s.setCkpts l).seesaw = s.seesaw := rfl
@[simp] theorem setCkpts_arr (l : List CkptJob) : (s.setCkpts l).arr = s.arr := rfl
@[simp] theorem setCkpts_pup (l : List CkptJob) : (s.setCkpts l).pup = s.pup := rfl
@[simp] theorem setCkpts_load (l : List CkptJob) : (s.setCkpts l).load = s.load := rfl
@[simp] theorem setCkpts_cxl (l : List CkptJob) : (s.setCkpts l).cxl = s.cxl := rfl
@[simp] theorem setCkpts_pwr (l : List CkptJob) : (s.setCkpts l).pwr = s.pwr := rfl
@[simp] theorem setCkpts_boot (l : List CkptJob) : (s.setCkpts l).boot = s.boot := rfl
@[simp] theorem setCkpts_fuses (l : List CkptJob) : (s.setCkpts l).fuses = s.fuses := rfl
@[simp] theorem setCkpts_sec (l : List CkptJob) : (s.setCkpts l).sec = s.sec := rfl
@[simp] theorem setCkpts_bel (l : List CkptJob) : (s.setCkpts l).bel = s.bel := rfl
@[simp] theorem setCkpts_ecc (l : List CkptJob) : (s.setCkpts l).ecc = s.ecc := rfl
@[simp] theorem setCkpts_eid (l : List CkptJob) : (s.setCkpts l).eid = s.eid := rfl
@[simp] theorem setCkpts_out (l : List CkptJob) : (s.setCkpts l).out = s.out := rfl

@[simp] theorem putFrame_pending (n : Nat) (f : Frame) : (s.putFrame n f).pending = s.pending := rfl
@[simp] theorem putFrame_freeCtr (n : Nat) (f : Frame) : (s.putFrame n f).freeCtr = s.freeCtr := rfl
@[simp] theorem putFrame_aon (n : Nat) (f : Frame) : (s.putFrame n f).aon = s.aon := rfl
@[simp] theorem putFrame_regs (n : Nat) (f : Frame) : (s.putFrame n f).regs = s.regs := rfl
@[simp] theorem putFrame_hbm (n : Nat) (f : Frame) : (s.putFrame n f).hbm = s.hbm := rfl
@[simp] theorem putFrame_scratch (n : Nat) (f : Frame) : (s.putFrame n f).scratch = s.scratch := rfl
@[simp] theorem putFrame_host (n : Nat) (f : Frame) : (s.putFrame n f).host = s.host := rfl
@[simp] theorem putFrame_poison (n : Nat) (f : Frame) : (s.putFrame n f).poison = s.poison := rfl
@[simp] theorem putFrame_sch (n : Nat) (f : Frame) : (s.putFrame n f).sch = s.sch := rfl
@[simp] theorem putFrame_units (n : Nat) (f : Frame) : (s.putFrame n f).units = s.units := rfl
@[simp] theorem putFrame_evt (n : Nat) (f : Frame) : (s.putFrame n f).evt = s.evt := rfl
@[simp] theorem putFrame_pass (n : Nat) (f : Frame) : (s.putFrame n f).pass = s.pass := rfl
@[simp] theorem putFrame_col (n : Nat) (f : Frame) : (s.putFrame n f).col = s.col := rfl
@[simp] theorem putFrame_fab (n : Nat) (f : Frame) : (s.putFrame n f).fab = s.fab := rfl
@[simp] theorem putFrame_seesaw (n : Nat) (f : Frame) : (s.putFrame n f).seesaw = s.seesaw := rfl
@[simp] theorem putFrame_arr (n : Nat) (f : Frame) : (s.putFrame n f).arr = s.arr := rfl
@[simp] theorem putFrame_pup (n : Nat) (f : Frame) : (s.putFrame n f).pup = s.pup := rfl
@[simp] theorem putFrame_load (n : Nat) (f : Frame) : (s.putFrame n f).load = s.load := rfl
@[simp] theorem putFrame_cxl (n : Nat) (f : Frame) : (s.putFrame n f).cxl = s.cxl := rfl
@[simp] theorem putFrame_pwr (n : Nat) (f : Frame) : (s.putFrame n f).pwr = s.pwr := rfl
@[simp] theorem putFrame_boot (n : Nat) (f : Frame) : (s.putFrame n f).boot = s.boot := rfl
@[simp] theorem putFrame_fuses (n : Nat) (f : Frame) : (s.putFrame n f).fuses = s.fuses := rfl
@[simp] theorem putFrame_sec (n : Nat) (f : Frame) : (s.putFrame n f).sec = s.sec := rfl
@[simp] theorem putFrame_bel (n : Nat) (f : Frame) : (s.putFrame n f).bel = s.bel := rfl
@[simp] theorem putFrame_ecc (n : Nat) (f : Frame) : (s.putFrame n f).ecc = s.ecc := rfl
@[simp] theorem putFrame_eid (n : Nat) (f : Frame) : (s.putFrame n f).eid = s.eid := rfl
@[simp] theorem putFrame_out (n : Nat) (f : Frame) : (s.putFrame n f).out = s.out := rfl

@[simp] theorem putTile_pending (t : Nat) (x : Tile) : (s.putTile t x).pending = s.pending := rfl
@[simp] theorem putTile_freeCtr (t : Nat) (x : Tile) : (s.putTile t x).freeCtr = s.freeCtr := rfl
@[simp] theorem putTile_aon (t : Nat) (x : Tile) : (s.putTile t x).aon = s.aon := rfl
@[simp] theorem putTile_regs (t : Nat) (x : Tile) : (s.putTile t x).regs = s.regs := rfl
@[simp] theorem putTile_hbm (t : Nat) (x : Tile) : (s.putTile t x).hbm = s.hbm := rfl
@[simp] theorem putTile_scratch (t : Nat) (x : Tile) : (s.putTile t x).scratch = s.scratch := rfl
@[simp] theorem putTile_host (t : Nat) (x : Tile) : (s.putTile t x).host = s.host := rfl
@[simp] theorem putTile_poison (t : Nat) (x : Tile) : (s.putTile t x).poison = s.poison := rfl
@[simp] theorem putTile_sch (t : Nat) (x : Tile) : (s.putTile t x).sch = s.sch := rfl
@[simp] theorem putTile_val (t : Nat) (x : Tile) : (s.putTile t x).val = s.val := rfl
@[simp] theorem putTile_units (t : Nat) (x : Tile) : (s.putTile t x).units = s.units := rfl
@[simp] theorem putTile_evt (t : Nat) (x : Tile) : (s.putTile t x).evt = s.evt := rfl
@[simp] theorem putTile_pass (t : Nat) (x : Tile) : (s.putTile t x).pass = s.pass := rfl
@[simp] theorem putTile_col (t : Nat) (x : Tile) : (s.putTile t x).col = s.col := rfl
@[simp] theorem putTile_fab (t : Nat) (x : Tile) : (s.putTile t x).fab = s.fab := rfl
@[simp] theorem putTile_seesaw (t : Nat) (x : Tile) : (s.putTile t x).seesaw = s.seesaw := rfl
@[simp] theorem putTile_pup (t : Nat) (x : Tile) : (s.putTile t x).pup = s.pup := rfl
@[simp] theorem putTile_load (t : Nat) (x : Tile) : (s.putTile t x).load = s.load := rfl
@[simp] theorem putTile_cxl (t : Nat) (x : Tile) : (s.putTile t x).cxl = s.cxl := rfl
@[simp] theorem putTile_pwr (t : Nat) (x : Tile) : (s.putTile t x).pwr = s.pwr := rfl
@[simp] theorem putTile_boot (t : Nat) (x : Tile) : (s.putTile t x).boot = s.boot := rfl
@[simp] theorem putTile_fuses (t : Nat) (x : Tile) : (s.putTile t x).fuses = s.fuses := rfl
@[simp] theorem putTile_sec (t : Nat) (x : Tile) : (s.putTile t x).sec = s.sec := rfl
@[simp] theorem putTile_bel (t : Nat) (x : Tile) : (s.putTile t x).bel = s.bel := rfl
@[simp] theorem putTile_ecc (t : Nat) (x : Tile) : (s.putTile t x).ecc = s.ecc := rfl
@[simp] theorem putTile_eid (t : Nat) (x : Tile) : (s.putTile t x).eid = s.eid := rfl
@[simp] theorem putTile_out (t : Nat) (x : Tile) : (s.putTile t x).out = s.out := rfl

@[simp] theorem putLayer_pending (h : Nat) (l : Layer) : (s.putLayer h l).pending = s.pending := rfl
@[simp] theorem putLayer_freeCtr (h : Nat) (l : Layer) : (s.putLayer h l).freeCtr = s.freeCtr := rfl
@[simp] theorem putLayer_aon (h : Nat) (l : Layer) : (s.putLayer h l).aon = s.aon := rfl
@[simp] theorem putLayer_regs (h : Nat) (l : Layer) : (s.putLayer h l).regs = s.regs := rfl
@[simp] theorem putLayer_hbm (h : Nat) (l : Layer) : (s.putLayer h l).hbm = s.hbm := rfl
@[simp] theorem putLayer_scratch (h : Nat) (l : Layer) : (s.putLayer h l).scratch = s.scratch := rfl
@[simp] theorem putLayer_host (h : Nat) (l : Layer) : (s.putLayer h l).host = s.host := rfl
@[simp] theorem putLayer_poison (h : Nat) (l : Layer) : (s.putLayer h l).poison = s.poison := rfl
@[simp] theorem putLayer_sch (h : Nat) (l : Layer) : (s.putLayer h l).sch = s.sch := rfl
@[simp] theorem putLayer_val (h : Nat) (l : Layer) : (s.putLayer h l).val = s.val := rfl
@[simp] theorem putLayer_units (h : Nat) (l : Layer) : (s.putLayer h l).units = s.units := rfl
@[simp] theorem putLayer_evt (h : Nat) (l : Layer) : (s.putLayer h l).evt = s.evt := rfl
@[simp] theorem putLayer_pass (h : Nat) (l : Layer) : (s.putLayer h l).pass = s.pass := rfl
@[simp] theorem putLayer_col (h : Nat) (l : Layer) : (s.putLayer h l).col = s.col := rfl
@[simp] theorem putLayer_fab (h : Nat) (l : Layer) : (s.putLayer h l).fab = s.fab := rfl
@[simp] theorem putLayer_seesaw (h : Nat) (l : Layer) : (s.putLayer h l).seesaw = s.seesaw := rfl
@[simp] theorem putLayer_pup (h : Nat) (l : Layer) : (s.putLayer h l).pup = s.pup := rfl
@[simp] theorem putLayer_load (h : Nat) (l : Layer) : (s.putLayer h l).load = s.load := rfl
@[simp] theorem putLayer_cxl (h : Nat) (l : Layer) : (s.putLayer h l).cxl = s.cxl := rfl
@[simp] theorem putLayer_pwr (h : Nat) (l : Layer) : (s.putLayer h l).pwr = s.pwr := rfl
@[simp] theorem putLayer_boot (h : Nat) (l : Layer) : (s.putLayer h l).boot = s.boot := rfl
@[simp] theorem putLayer_fuses (h : Nat) (l : Layer) : (s.putLayer h l).fuses = s.fuses := rfl
@[simp] theorem putLayer_sec (h : Nat) (l : Layer) : (s.putLayer h l).sec = s.sec := rfl
@[simp] theorem putLayer_bel (h : Nat) (l : Layer) : (s.putLayer h l).bel = s.bel := rfl
@[simp] theorem putLayer_ecc (h : Nat) (l : Layer) : (s.putLayer h l).ecc = s.ecc := rfl
@[simp] theorem putLayer_eid (h : Nat) (l : Layer) : (s.putLayer h l).eid = s.eid := rfl
@[simp] theorem putLayer_out (h : Nat) (l : Layer) : (s.putLayer h l).out = s.out := rfl

@[simp] theorem modLayer_pending (h : Nat) (g : Layer → Layer) : (s.modLayer h g).pending = s.pending := rfl
@[simp] theorem modLayer_freeCtr (h : Nat) (g : Layer → Layer) : (s.modLayer h g).freeCtr = s.freeCtr := rfl
@[simp] theorem modLayer_aon (h : Nat) (g : Layer → Layer) : (s.modLayer h g).aon = s.aon := rfl
@[simp] theorem modLayer_regs (h : Nat) (g : Layer → Layer) : (s.modLayer h g).regs = s.regs := rfl
@[simp] theorem modLayer_hbm (h : Nat) (g : Layer → Layer) : (s.modLayer h g).hbm = s.hbm := rfl
@[simp] theorem modLayer_scratch (h : Nat) (g : Layer → Layer) : (s.modLayer h g).scratch = s.scratch := rfl
@[simp] theorem modLayer_host (h : Nat) (g : Layer → Layer) : (s.modLayer h g).host = s.host := rfl
@[simp] theorem modLayer_poison (h : Nat) (g : Layer → Layer) : (s.modLayer h g).poison = s.poison := rfl
@[simp] theorem modLayer_sch (h : Nat) (g : Layer → Layer) : (s.modLayer h g).sch = s.sch := rfl
@[simp] theorem modLayer_val (h : Nat) (g : Layer → Layer) : (s.modLayer h g).val = s.val := rfl
@[simp] theorem modLayer_units (h : Nat) (g : Layer → Layer) : (s.modLayer h g).units = s.units := rfl
@[simp] theorem modLayer_evt (h : Nat) (g : Layer → Layer) : (s.modLayer h g).evt = s.evt := rfl
@[simp] theorem modLayer_pass (h : Nat) (g : Layer → Layer) : (s.modLayer h g).pass = s.pass := rfl
@[simp] theorem modLayer_col (h : Nat) (g : Layer → Layer) : (s.modLayer h g).col = s.col := rfl
@[simp] theorem modLayer_fab (h : Nat) (g : Layer → Layer) : (s.modLayer h g).fab = s.fab := rfl
@[simp] theorem modLayer_seesaw (h : Nat) (g : Layer → Layer) : (s.modLayer h g).seesaw = s.seesaw := rfl
@[simp] theorem modLayer_pup (h : Nat) (g : Layer → Layer) : (s.modLayer h g).pup = s.pup := rfl
@[simp] theorem modLayer_load (h : Nat) (g : Layer → Layer) : (s.modLayer h g).load = s.load := rfl
@[simp] theorem modLayer_cxl (h : Nat) (g : Layer → Layer) : (s.modLayer h g).cxl = s.cxl := rfl
@[simp] theorem modLayer_pwr (h : Nat) (g : Layer → Layer) : (s.modLayer h g).pwr = s.pwr := rfl
@[simp] theorem modLayer_boot (h : Nat) (g : Layer → Layer) : (s.modLayer h g).boot = s.boot := rfl
@[simp] theorem modLayer_fuses (h : Nat) (g : Layer → Layer) : (s.modLayer h g).fuses = s.fuses := rfl
@[simp] theorem modLayer_sec (h : Nat) (g : Layer → Layer) : (s.modLayer h g).sec = s.sec := rfl
@[simp] theorem modLayer_bel (h : Nat) (g : Layer → Layer) : (s.modLayer h g).bel = s.bel := rfl
@[simp] theorem modLayer_ecc (h : Nat) (g : Layer → Layer) : (s.modLayer h g).ecc = s.ecc := rfl
@[simp] theorem modLayer_eid (h : Nat) (g : Layer → Layer) : (s.modLayer h g).eid = s.eid := rfl
@[simp] theorem modLayer_out (h : Nat) (g : Layer → Layer) : (s.modLayer h g).out = s.out := rfl

@[simp] theorem putPort_pending (p : Nat) (x : Port) : (s.putPort p x).pending = s.pending := rfl
@[simp] theorem putPort_freeCtr (p : Nat) (x : Port) : (s.putPort p x).freeCtr = s.freeCtr := rfl
@[simp] theorem putPort_aon (p : Nat) (x : Port) : (s.putPort p x).aon = s.aon := rfl
@[simp] theorem putPort_regs (p : Nat) (x : Port) : (s.putPort p x).regs = s.regs := rfl
@[simp] theorem putPort_hbm (p : Nat) (x : Port) : (s.putPort p x).hbm = s.hbm := rfl
@[simp] theorem putPort_scratch (p : Nat) (x : Port) : (s.putPort p x).scratch = s.scratch := rfl
@[simp] theorem putPort_host (p : Nat) (x : Port) : (s.putPort p x).host = s.host := rfl
@[simp] theorem putPort_poison (p : Nat) (x : Port) : (s.putPort p x).poison = s.poison := rfl
@[simp] theorem putPort_sch (p : Nat) (x : Port) : (s.putPort p x).sch = s.sch := rfl
@[simp] theorem putPort_val (p : Nat) (x : Port) : (s.putPort p x).val = s.val := rfl
@[simp] theorem putPort_units (p : Nat) (x : Port) : (s.putPort p x).units = s.units := rfl
@[simp] theorem putPort_evt (p : Nat) (x : Port) : (s.putPort p x).evt = s.evt := rfl
@[simp] theorem putPort_pass (p : Nat) (x : Port) : (s.putPort p x).pass = s.pass := rfl
@[simp] theorem putPort_col (p : Nat) (x : Port) : (s.putPort p x).col = s.col := rfl
@[simp] theorem putPort_seesaw (p : Nat) (x : Port) : (s.putPort p x).seesaw = s.seesaw := rfl
@[simp] theorem putPort_arr (p : Nat) (x : Port) : (s.putPort p x).arr = s.arr := rfl
@[simp] theorem putPort_pup (p : Nat) (x : Port) : (s.putPort p x).pup = s.pup := rfl
@[simp] theorem putPort_load (p : Nat) (x : Port) : (s.putPort p x).load = s.load := rfl
@[simp] theorem putPort_cxl (p : Nat) (x : Port) : (s.putPort p x).cxl = s.cxl := rfl
@[simp] theorem putPort_pwr (p : Nat) (x : Port) : (s.putPort p x).pwr = s.pwr := rfl
@[simp] theorem putPort_boot (p : Nat) (x : Port) : (s.putPort p x).boot = s.boot := rfl
@[simp] theorem putPort_fuses (p : Nat) (x : Port) : (s.putPort p x).fuses = s.fuses := rfl
@[simp] theorem putPort_sec (p : Nat) (x : Port) : (s.putPort p x).sec = s.sec := rfl
@[simp] theorem putPort_bel (p : Nat) (x : Port) : (s.putPort p x).bel = s.bel := rfl
@[simp] theorem putPort_ecc (p : Nat) (x : Port) : (s.putPort p x).ecc = s.ecc := rfl
@[simp] theorem putPort_eid (p : Nat) (x : Port) : (s.putPort p x).eid = s.eid := rfl
@[simp] theorem putPort_out (p : Nat) (x : Port) : (s.putPort p x).out = s.out := rfl

@[simp] theorem putBucket_pending (x : Bucket) : (s.putBucket x).pending = s.pending := rfl
@[simp] theorem putBucket_freeCtr (x : Bucket) : (s.putBucket x).freeCtr = s.freeCtr := rfl
@[simp] theorem putBucket_aon (x : Bucket) : (s.putBucket x).aon = s.aon := rfl
@[simp] theorem putBucket_regs (x : Bucket) : (s.putBucket x).regs = s.regs := rfl
@[simp] theorem putBucket_hbm (x : Bucket) : (s.putBucket x).hbm = s.hbm := rfl
@[simp] theorem putBucket_scratch (x : Bucket) : (s.putBucket x).scratch = s.scratch := rfl
@[simp] theorem putBucket_host (x : Bucket) : (s.putBucket x).host = s.host := rfl
@[simp] theorem putBucket_poison (x : Bucket) : (s.putBucket x).poison = s.poison := rfl
@[simp] theorem putBucket_sch (x : Bucket) : (s.putBucket x).sch = s.sch := rfl
@[simp] theorem putBucket_val (x : Bucket) : (s.putBucket x).val = s.val := rfl
@[simp] theorem putBucket_units (x : Bucket) : (s.putBucket x).units = s.units := rfl
@[simp] theorem putBucket_evt (x : Bucket) : (s.putBucket x).evt = s.evt := rfl
@[simp] theorem putBucket_pass (x : Bucket) : (s.putBucket x).pass = s.pass := rfl
@[simp] theorem putBucket_fab (x : Bucket) : (s.putBucket x).fab = s.fab := rfl
@[simp] theorem putBucket_seesaw (x : Bucket) : (s.putBucket x).seesaw = s.seesaw := rfl
@[simp] theorem putBucket_arr (x : Bucket) : (s.putBucket x).arr = s.arr := rfl
@[simp] theorem putBucket_pup (x : Bucket) : (s.putBucket x).pup = s.pup := rfl
@[simp] theorem putBucket_load (x : Bucket) : (s.putBucket x).load = s.load := rfl
@[simp] theorem putBucket_cxl (x : Bucket) : (s.putBucket x).cxl = s.cxl := rfl
@[simp] theorem putBucket_pwr (x : Bucket) : (s.putBucket x).pwr = s.pwr := rfl
@[simp] theorem putBucket_boot (x : Bucket) : (s.putBucket x).boot = s.boot := rfl
@[simp] theorem putBucket_fuses (x : Bucket) : (s.putBucket x).fuses = s.fuses := rfl
@[simp] theorem putBucket_sec (x : Bucket) : (s.putBucket x).sec = s.sec := rfl
@[simp] theorem putBucket_bel (x : Bucket) : (s.putBucket x).bel = s.bel := rfl
@[simp] theorem putBucket_ecc (x : Bucket) : (s.putBucket x).ecc = s.ecc := rfl
@[simp] theorem putBucket_eid (x : Bucket) : (s.putBucket x).eid = s.eid := rfl
@[simp] theorem putBucket_out (x : Bucket) : (s.putBucket x).out = s.out := rfl

@[simp] theorem setOuts_pending (l : List HostWrite) : (s.setOuts l).pending = s.pending := rfl
@[simp] theorem setOuts_freeCtr (l : List HostWrite) : (s.setOuts l).freeCtr = s.freeCtr := rfl
@[simp] theorem setOuts_aon (l : List HostWrite) : (s.setOuts l).aon = s.aon := rfl
@[simp] theorem setOuts_regs (l : List HostWrite) : (s.setOuts l).regs = s.regs := rfl
@[simp] theorem setOuts_hbm (l : List HostWrite) : (s.setOuts l).hbm = s.hbm := rfl
@[simp] theorem setOuts_scratch (l : List HostWrite) : (s.setOuts l).scratch = s.scratch := rfl
@[simp] theorem setOuts_host (l : List HostWrite) : (s.setOuts l).host = s.host := rfl
@[simp] theorem setOuts_poison (l : List HostWrite) : (s.setOuts l).poison = s.poison := rfl
@[simp] theorem setOuts_sch (l : List HostWrite) : (s.setOuts l).sch = s.sch := rfl
@[simp] theorem setOuts_val (l : List HostWrite) : (s.setOuts l).val = s.val := rfl
@[simp] theorem setOuts_units (l : List HostWrite) : (s.setOuts l).units = s.units := rfl
@[simp] theorem setOuts_evt (l : List HostWrite) : (s.setOuts l).evt = s.evt := rfl
@[simp] theorem setOuts_pass (l : List HostWrite) : (s.setOuts l).pass = s.pass := rfl
@[simp] theorem setOuts_col (l : List HostWrite) : (s.setOuts l).col = s.col := rfl
@[simp] theorem setOuts_fab (l : List HostWrite) : (s.setOuts l).fab = s.fab := rfl
@[simp] theorem setOuts_seesaw (l : List HostWrite) : (s.setOuts l).seesaw = s.seesaw := rfl
@[simp] theorem setOuts_arr (l : List HostWrite) : (s.setOuts l).arr = s.arr := rfl
@[simp] theorem setOuts_pup (l : List HostWrite) : (s.setOuts l).pup = s.pup := rfl
@[simp] theorem setOuts_load (l : List HostWrite) : (s.setOuts l).load = s.load := rfl
@[simp] theorem setOuts_pwr (l : List HostWrite) : (s.setOuts l).pwr = s.pwr := rfl
@[simp] theorem setOuts_boot (l : List HostWrite) : (s.setOuts l).boot = s.boot := rfl
@[simp] theorem setOuts_fuses (l : List HostWrite) : (s.setOuts l).fuses = s.fuses := rfl
@[simp] theorem setOuts_sec (l : List HostWrite) : (s.setOuts l).sec = s.sec := rfl
@[simp] theorem setOuts_bel (l : List HostWrite) : (s.setOuts l).bel = s.bel := rfl
@[simp] theorem setOuts_ecc (l : List HostWrite) : (s.setOuts l).ecc = s.ecc := rfl
@[simp] theorem setOuts_eid (l : List HostWrite) : (s.setOuts l).eid = s.eid := rfl
@[simp] theorem setOuts_out (l : List HostWrite) : (s.setOuts l).out = s.out := rfl

@[simp] theorem setPending_freeCtr (l : List Instr) : (s.setPending l).freeCtr = s.freeCtr := rfl
@[simp] theorem setPending_aon (l : List Instr) : (s.setPending l).aon = s.aon := rfl
@[simp] theorem setPending_regs (l : List Instr) : (s.setPending l).regs = s.regs := rfl
@[simp] theorem setPending_hbm (l : List Instr) : (s.setPending l).hbm = s.hbm := rfl
@[simp] theorem setPending_scratch (l : List Instr) : (s.setPending l).scratch = s.scratch := rfl
@[simp] theorem setPending_host (l : List Instr) : (s.setPending l).host = s.host := rfl
@[simp] theorem setPending_poison (l : List Instr) : (s.setPending l).poison = s.poison := rfl
@[simp] theorem setPending_sch (l : List Instr) : (s.setPending l).sch = s.sch := rfl
@[simp] theorem setPending_val (l : List Instr) : (s.setPending l).val = s.val := rfl
@[simp] theorem setPending_units (l : List Instr) : (s.setPending l).units = s.units := rfl
@[simp] theorem setPending_evt (l : List Instr) : (s.setPending l).evt = s.evt := rfl
@[simp] theorem setPending_pass (l : List Instr) : (s.setPending l).pass = s.pass := rfl
@[simp] theorem setPending_col (l : List Instr) : (s.setPending l).col = s.col := rfl
@[simp] theorem setPending_fab (l : List Instr) : (s.setPending l).fab = s.fab := rfl
@[simp] theorem setPending_seesaw (l : List Instr) : (s.setPending l).seesaw = s.seesaw := rfl
@[simp] theorem setPending_arr (l : List Instr) : (s.setPending l).arr = s.arr := rfl
@[simp] theorem setPending_pup (l : List Instr) : (s.setPending l).pup = s.pup := rfl
@[simp] theorem setPending_load (l : List Instr) : (s.setPending l).load = s.load := rfl
@[simp] theorem setPending_cxl (l : List Instr) : (s.setPending l).cxl = s.cxl := rfl
@[simp] theorem setPending_pwr (l : List Instr) : (s.setPending l).pwr = s.pwr := rfl
@[simp] theorem setPending_boot (l : List Instr) : (s.setPending l).boot = s.boot := rfl
@[simp] theorem setPending_fuses (l : List Instr) : (s.setPending l).fuses = s.fuses := rfl
@[simp] theorem setPending_sec (l : List Instr) : (s.setPending l).sec = s.sec := rfl
@[simp] theorem setPending_bel (l : List Instr) : (s.setPending l).bel = s.bel := rfl
@[simp] theorem setPending_ecc (l : List Instr) : (s.setPending l).ecc = s.ecc := rfl
@[simp] theorem setPending_eid (l : List Instr) : (s.setPending l).eid = s.eid := rfl
@[simp] theorem setPending_out (l : List Instr) : (s.setPending l).out = s.out := rfl

end Sys2Proof.Machine.State
end

