-- ==== Sys2Proof/Laws/Frames.lean ====
section
/-! SUPPORT. What the shared operations leave alone: an event changes the recorder and the count of dropped events alone,
a write of bytes changes the memories alone, the end of a start changes no instruction, no token, no byte and no field,
and an instruction put back is the one found. -/

namespace Sys2Proof.Machine

/-! ### Events -/

theorem frontPush_frame (s : State) (e : Event) :
    s.frontPush e = { s with evt := (s.frontPush e).evt, regs := (s.frontPush e).regs } ∧
    ∀ x : Fld, x.key ≠ F.evtStatusDropped.key → (s.frontPush e).f x = s.f x := by
  unfold State.frontPush
  split
  · exact ⟨rfl, fun _ _ => rfl⟩
  · exact ⟨rfl, fun x h => f_addF_other h _ _⟩

/-- An event changes the recorder and the count of dropped events alone. -/
theorem raise_frame (s : State) (e : Event) :
    s.raise e = { s with evt := (s.raise e).evt, regs := (s.raise e).regs } ∧
    ∀ x : Fld, x.key ≠ F.evtStatusDropped.key → (s.raise e).f x = s.f x := by
  unfold State.raise
  dsimp only
  split
  · exact frontPush_frame _ _
  · split
    · exact ⟨rfl, fun _ _ => rfl⟩
    · split
      · generalize hr : ({ (s.rateOf (s.stamp e).code).upTo s.aon with
          level := ((s.rateOf (s.stamp e).code).upTo s.aon).level - 3125000 } : Rate) = r
        have h := frontPush_frame (s.putRate (s.stamp e).code r) (s.stamp e)
        exact ⟨by rw [h.1]; rfl, fun x hx => h.2 x hx⟩
      · exact ⟨rfl, fun _ _ => rfl⟩

@[simp] theorem raise_pending (s : State) (e : Event) : (s.raise e).pending = s.pending := by rw [(raise_frame s e).1]
@[simp] theorem raise_freeCtr (s : State) (e : Event) : (s.raise e).freeCtr = s.freeCtr := by rw [(raise_frame s e).1]
@[simp] theorem raise_aon (s : State) (e : Event) : (s.raise e).aon = s.aon := by rw [(raise_frame s e).1]
@[simp] theorem raise_hbm (s : State) (e : Event) : (s.raise e).hbm = s.hbm := by rw [(raise_frame s e).1]
@[simp] theorem raise_scratch (s : State) (e : Event) : (s.raise e).scratch = s.scratch := by rw [(raise_frame s e).1]
@[simp] theorem raise_host (s : State) (e : Event) : (s.raise e).host = s.host := by rw [(raise_frame s e).1]
@[simp] theorem raise_poison (s : State) (e : Event) : (s.raise e).poison = s.poison := by rw [(raise_frame s e).1]
@[simp] theorem raise_sch (s : State) (e : Event) : (s.raise e).sch = s.sch := by rw [(raise_frame s e).1]
@[simp] theorem raise_val (s : State) (e : Event) : (s.raise e).val = s.val := by rw [(raise_frame s e).1]
@[simp] theorem raise_units (s : State) (e : Event) : (s.raise e).units = s.units := by rw [(raise_frame s e).1]
@[simp] theorem raise_pass (s : State) (e : Event) : (s.raise e).pass = s.pass := by rw [(raise_frame s e).1]
@[simp] theorem raise_col (s : State) (e : Event) : (s.raise e).col = s.col := by rw [(raise_frame s e).1]
@[simp] theorem raise_fab (s : State) (e : Event) : (s.raise e).fab = s.fab := by rw [(raise_frame s e).1]
@[simp] theorem raise_seesaw (s : State) (e : Event) : (s.raise e).seesaw = s.seesaw := by rw [(raise_frame s e).1]
@[simp] theorem raise_arr (s : State) (e : Event) : (s.raise e).arr = s.arr := by rw [(raise_frame s e).1]
@[simp] theorem raise_pup (s : State) (e : Event) : (s.raise e).pup = s.pup := by rw [(raise_frame s e).1]
@[simp] theorem raise_load (s : State) (e : Event) : (s.raise e).load = s.load := by rw [(raise_frame s e).1]
@[simp] theorem raise_cxl (s : State) (e : Event) : (s.raise e).cxl = s.cxl := by rw [(raise_frame s e).1]
@[simp] theorem raise_pwr (s : State) (e : Event) : (s.raise e).pwr = s.pwr := by rw [(raise_frame s e).1]
@[simp] theorem raise_boot (s : State) (e : Event) : (s.raise e).boot = s.boot := by rw [(raise_frame s e).1]
@[simp] theorem raise_fuses (s : State) (e : Event) : (s.raise e).fuses = s.fuses := by rw [(raise_frame s e).1]
@[simp] theorem raise_sec (s : State) (e : Event) : (s.raise e).sec = s.sec := by rw [(raise_frame s e).1]
@[simp] theorem raise_bel (s : State) (e : Event) : (s.raise e).bel = s.bel := by rw [(raise_frame s e).1]
@[simp] theorem raise_ecc (s : State) (e : Event) : (s.raise e).ecc = s.ecc := by rw [(raise_frame s e).1]
@[simp] theorem raise_eid (s : State) (e : Event) : (s.raise e).eid = s.eid := by rw [(raise_frame s e).1]
@[simp] theorem raise_out (s : State) (e : Event) : (s.raise e).out = s.out := by rw [(raise_frame s e).1]

@[simp] theorem ev_pending (s : State) (c u x y : Nat) : (s.ev c u x y).pending = s.pending := raise_pending s _
@[simp] theorem ev_freeCtr (s : State) (c u x y : Nat) : (s.ev c u x y).freeCtr = s.freeCtr := raise_freeCtr s _
@[simp] theorem ev_aon (s : State) (c u x y : Nat) : (s.ev c u x y).aon = s.aon := raise_aon s _
@[simp] theorem ev_hbm (s : State) (c u x y : Nat) : (s.ev c u x y).hbm = s.hbm := raise_hbm s _
@[simp] theorem ev_scratch (s : State) (c u x y : Nat) : (s.ev c u x y).scratch = s.scratch := raise_scratch s _
@[simp] theorem ev_host (s : State) (c u x y : Nat) : (s.ev c u x y).host = s.host := raise_host s _
@[simp] theorem ev_poison (s : State) (c u x y : Nat) : (s.ev c u x y).poison = s.poison := raise_poison s _
@[simp] theorem ev_sch (s : State) (c u x y : Nat) : (s.ev c u x y).sch = s.sch := raise_sch s _
@[simp] theorem ev_val (s : State) (c u x y : Nat) : (s.ev c u x y).val = s.val := raise_val s _
@[simp] theorem ev_units (s : State) (c u x y : Nat) : (s.ev c u x y).units = s.units := raise_units s _
@[simp] theorem ev_pass (s : State) (c u x y : Nat) : (s.ev c u x y).pass = s.pass := raise_pass s _
@[simp] theorem ev_col (s : State) (c u x y : Nat) : (s.ev c u x y).col = s.col := raise_col s _
@[simp] theorem ev_fab (s : State) (c u x y : Nat) : (s.ev c u x y).fab = s.fab := raise_fab s _
@[simp] theorem ev_seesaw (s : State) (c u x y : Nat) : (s.ev c u x y).seesaw = s.seesaw := raise_seesaw s _
@[simp] theorem ev_arr (s : State) (c u x y : Nat) : (s.ev c u x y).arr = s.arr := raise_arr s _
@[simp] theorem ev_pup (s : State) (c u x y : Nat) : (s.ev c u x y).pup = s.pup := raise_pup s _
@[simp] theorem ev_load (s : State) (c u x y : Nat) : (s.ev c u x y).load = s.load := raise_load s _
@[simp] theorem ev_cxl (s : State) (c u x y : Nat) : (s.ev c u x y).cxl = s.cxl := raise_cxl s _
@[simp] theorem ev_pwr (s : State) (c u x y : Nat) : (s.ev c u x y).pwr = s.pwr := raise_pwr s _
@[simp] theorem ev_boot (s : State) (c u x y : Nat) : (s.ev c u x y).boot = s.boot := raise_boot s _
@[simp] theorem ev_fuses (s : State) (c u x y : Nat) : (s.ev c u x y).fuses = s.fuses := raise_fuses s _
@[simp] theorem ev_sec (s : State) (c u x y : Nat) : (s.ev c u x y).sec = s.sec := raise_sec s _
@[simp] theorem ev_bel (s : State) (c u x y : Nat) : (s.ev c u x y).bel = s.bel := raise_bel s _
@[simp] theorem ev_ecc (s : State) (c u x y : Nat) : (s.ev c u x y).ecc = s.ecc := raise_ecc s _
@[simp] theorem ev_eid (s : State) (c u x y : Nat) : (s.ev c u x y).eid = s.eid := raise_eid s _
@[simp] theorem ev_out (s : State) (c u x y : Nat) : (s.ev c u x y).out = s.out := raise_out s _
theorem f_ev {z : Fld} (h : z.key ≠ F.evtStatusDropped.key) (s : State) (c u x y : Nat) : (s.ev c u x y).f z = s.f z :=
  (raise_frame s _).2 z h

@[simp] theorem evI_pending (s : State) (c u x y : Nat) (i : Inst) : (s.evI c u x y i).pending = s.pending := raise_pending s _
@[simp] theorem evI_freeCtr (s : State) (c u x y : Nat) (i : Inst) : (s.evI c u x y i).freeCtr = s.freeCtr := raise_freeCtr s _
@[simp] theorem evI_aon (s : State) (c u x y : Nat) (i : Inst) : (s.evI c u x y i).aon = s.aon := raise_aon s _
@[simp] theorem evI_hbm (s : State) (c u x y : Nat) (i : Inst) : (s.evI c u x y i).hbm = s.hbm := raise_hbm s _
@[simp] theorem evI_scratch (s : State) (c u x y : Nat) (i : Inst) : (s.evI c u x y i).scratch = s.scratch := raise_scratch s _
@[simp] theorem evI_host (s : State) (c u x y : Nat) (i : Inst) : (s.evI c u x y i).host = s.host := raise_host s _
@[simp] theorem evI_poison (s : State) (c u x y : Nat) (i : Inst) : (s.evI c u x y i).poison = s.poison := raise_poison s _
@[simp] theorem evI_sch (s : State) (c u x y : Nat) (i : Inst) : (s.evI c u x y i).sch = s.sch := raise_sch s _
@[simp] theorem evI_val (s : State) (c u x y : Nat) (i : Inst) : (s.evI c u x y i).val = s.val := raise_val s _
@[simp] theorem evI_units (s : State) (c u x y : Nat) (i : Inst) : (s.evI c u x y i).units = s.units := raise_units s _
@[simp] theorem evI_pass (s : State) (c u x y : Nat) (i : Inst) : (s.evI c u x y i).pass = s.pass := raise_pass s _
@[simp] theorem evI_col (s : State) (c u x y : Nat) (i : Inst) : (s.evI c u x y i).col = s.col := raise_col s _
@[simp] theorem evI_fab (s : State) (c u x y : Nat) (i : Inst) : (s.evI c u x y i).fab = s.fab := raise_fab s _
@[simp] theorem evI_seesaw (s : State) (c u x y : Nat) (i : Inst) : (s.evI c u x y i).seesaw = s.seesaw := raise_seesaw s _
@[simp] theorem evI_arr (s : State) (c u x y : Nat) (i : Inst) : (s.evI c u x y i).arr = s.arr := raise_arr s _
@[simp] theorem evI_pup (s : State) (c u x y : Nat) (i : Inst) : (s.evI c u x y i).pup = s.pup := raise_pup s _
@[simp] theorem evI_load (s : State) (c u x y : Nat) (i : Inst) : (s.evI c u x y i).load = s.load := raise_load s _
@[simp] theorem evI_cxl (s : State) (c u x y : Nat) (i : Inst) : (s.evI c u x y i).cxl = s.cxl := raise_cxl s _
@[simp] theorem evI_pwr (s : State) (c u x y : Nat) (i : Inst) : (s.evI c u x y i).pwr = s.pwr := raise_pwr s _
@[simp] theorem evI_boot (s : State) (c u x y : Nat) (i : Inst) : (s.evI c u x y i).boot = s.boot := raise_boot s _
@[simp] theorem evI_fuses (s : State) (c u x y : Nat) (i : Inst) : (s.evI c u x y i).fuses = s.fuses := raise_fuses s _
@[simp] theorem evI_sec (s : State) (c u x y : Nat) (i : Inst) : (s.evI c u x y i).sec = s.sec := raise_sec s _
@[simp] theorem evI_bel (s : State) (c u x y : Nat) (i : Inst) : (s.evI c u x y i).bel = s.bel := raise_bel s _
@[simp] theorem evI_ecc (s : State) (c u x y : Nat) (i : Inst) : (s.evI c u x y i).ecc = s.ecc := raise_ecc s _
@[simp] theorem evI_eid (s : State) (c u x y : Nat) (i : Inst) : (s.evI c u x y i).eid = s.eid := raise_eid s _
@[simp] theorem evI_out (s : State) (c u x y : Nat) (i : Inst) : (s.evI c u x y i).out = s.out := raise_out s _
theorem f_evI {z : Fld} (h : z.key ≠ F.evtStatusDropped.key) (s : State) (c u x y : Nat) (i : Inst) : (s.evI c u x y i).f z = s.f z :=
  (raise_frame s _).2 z h

/-! ### Bytes -/

/-- A write of bytes to a space leaves everything but the memories alone. -/
structure bytesFrame (s t : State) : Prop where
  same : t = { s with hbm := t.hbm, scratch := t.scratch, host := t.host }

theorem bytesFrame_refl (s : State) : bytesFrame s s := ⟨rfl⟩

theorem bytesFrame_trans {s t u : State} (h : bytesFrame s t) (k : bytesFrame t u) : bytesFrame s u := by
  refine ⟨?_⟩
  have e := k.same
  rw [h.same] at e
  rw [e]

theorem bytesFrame_setMem (s : State) (space : Nat) (m : List Host.Cell) : bytesFrame s (s.setMem space m) := by
  unfold State.setMem
  split
  · exact ⟨rfl⟩
  · split <;> exact ⟨rfl⟩

theorem bytesFrame_wr (s : State) (space a : Nat) (b : Byte) : bytesFrame s (s.wr space a b) := by
  unfold State.wr
  split
  · exact bytesFrame_refl s
  · exact bytesFrame_setMem _ _ _

theorem bytesFrame_wrBytes (s : State) (space a : Nat) (l : List Byte) : bytesFrame s (s.wrBytes space a l) := by
  induction l generalizing s a with
  | nil => exact bytesFrame_refl s
  | cons b r ih => exact bytesFrame_trans (bytesFrame_wr s space a b) (ih _ _)

theorem bytesFrame_wrNat (s : State) (space a n v : Nat) : bytesFrame s (s.wrNat space a n v) := bytesFrame_wrBytes _ _ _ _

theorem bytesFrame_wrBits (s : State) (space b w v : Nat) : bytesFrame s (s.wrBits space b w v) := by
  unfold State.wrBits
  split
  · exact bytesFrame_wr _ _ _ _
  · exact bytesFrame_wrBytes _ _ _ _

theorem bytesFrame_wrElems (s : State) (d : Desc) (k : Nat) (l : List Nat) : bytesFrame s (s.wrElems d k l) := by
  induction l generalizing s k with
  | nil => exact bytesFrame_refl s
  | cons v r ih => exact bytesFrame_trans (bytesFrame_wrBits s _ _ _ _) (ih _ _)

theorem bytesFrame_foldl {α : Type} {g : State → α → State} (hg : ∀ t a, bytesFrame t (g t a)) (l : List α) (s : State) :
    bytesFrame s (l.foldl g s) := by
  induction l generalizing s with
  | nil => exact bytesFrame_refl s
  | cons a r ih => exact bytesFrame_trans (hg s a) (ih _)

theorem bytesFrame_wrBlock (s : State) (d : Desc) (k : Nat) (b : Nat × List Nat) : bytesFrame s (s.wrBlock d k b) := by
  unfold State.wrBlock
  exact bytesFrame_trans (bytesFrame_wrBytes _ _ _ _) (bytesFrame_wr _ _ _ _)

theorem bytesFrame_wrPart (s : State) (d : Desc) (e : Encoded) (p : Nat → Bool) : bytesFrame s (s.wrPart d e p) := by
  unfold State.wrPart
  split
  · refine bytesFrame_foldl (fun t b => ?_) _ s
    exact bytesFrame_wrBlock t d b.1 b.2
  · refine bytesFrame_foldl (fun t v => ?_) _ s
    exact bytesFrame_wrElems t d v.2 [v.1]

@[simp] theorem setMem_pending (s : State) (space : Nat) (m : List Host.Cell) : (s.setMem space m).pending = s.pending := by rw [(bytesFrame_setMem s space m).same]
@[simp] theorem setMem_freeCtr (s : State) (space : Nat) (m : List Host.Cell) : (s.setMem space m).freeCtr = s.freeCtr := by rw [(bytesFrame_setMem s space m).same]
@[simp] theorem setMem_aon (s : State) (space : Nat) (m : List Host.Cell) : (s.setMem space m).aon = s.aon := by rw [(bytesFrame_setMem s space m).same]
@[simp] theorem setMem_regs (s : State) (space : Nat) (m : List Host.Cell) : (s.setMem space m).regs = s.regs := by rw [(bytesFrame_setMem s space m).same]
@[simp] theorem setMem_poison (s : State) (space : Nat) (m : List Host.Cell) : (s.setMem space m).poison = s.poison := by rw [(bytesFrame_setMem s space m).same]
@[simp] theorem setMem_sch (s : State) (space : Nat) (m : List Host.Cell) : (s.setMem space m).sch = s.sch := by rw [(bytesFrame_setMem s space m).same]
@[simp] theorem setMem_val (s : State) (space : Nat) (m : List Host.Cell) : (s.setMem space m).val = s.val := by rw [(bytesFrame_setMem s space m).same]
@[simp] theorem setMem_units (s : State) (space : Nat) (m : List Host.Cell) : (s.setMem space m).units = s.units := by rw [(bytesFrame_setMem s space m).same]
@[simp] theorem setMem_evt (s : State) (space : Nat) (m : List Host.Cell) : (s.setMem space m).evt = s.evt := by rw [(bytesFrame_setMem s space m).same]
@[simp] theorem setMem_pass (s : State) (space : Nat) (m : List Host.Cell) : (s.setMem space m).pass = s.pass := by rw [(bytesFrame_setMem s space m).same]
@[simp] theorem setMem_col (s : State) (space : Nat) (m : List Host.Cell) : (s.setMem space m).col = s.col := by rw [(bytesFrame_setMem s space m).same]
@[simp] theorem setMem_fab (s : State) (space : Nat) (m : List Host.Cell) : (s.setMem space m).fab = s.fab := by rw [(bytesFrame_setMem s space m).same]
@[simp] theorem setMem_seesaw (s : State) (space : Nat) (m : List Host.Cell) : (s.setMem space m).seesaw = s.seesaw := by rw [(bytesFrame_setMem s space m).same]
@[simp] theorem setMem_arr (s : State) (space : Nat) (m : List Host.Cell) : (s.setMem space m).arr = s.arr := by rw [(bytesFrame_setMem s space m).same]
@[simp] theorem setMem_pup (s : State) (space : Nat) (m : List Host.Cell) : (s.setMem space m).pup = s.pup := by rw [(bytesFrame_setMem s space m).same]
@[simp] theorem setMem_load (s : State) (space : Nat) (m : List Host.Cell) : (s.setMem space m).load = s.load := by rw [(bytesFrame_setMem s space m).same]
@[simp] theorem setMem_cxl (s : State) (space : Nat) (m : List Host.Cell) : (s.setMem space m).cxl = s.cxl := by rw [(bytesFrame_setMem s space m).same]
@[simp] theorem setMem_pwr (s : State) (space : Nat) (m : List Host.Cell) : (s.setMem space m).pwr = s.pwr := by rw [(bytesFrame_setMem s space m).same]
@[simp] theorem setMem_boot (s : State) (space : Nat) (m : List Host.Cell) : (s.setMem space m).boot = s.boot := by rw [(bytesFrame_setMem s space m).same]
@[simp] theorem setMem_fuses (s : State) (space : Nat) (m : List Host.Cell) : (s.setMem space m).fuses = s.fuses := by rw [(bytesFrame_setMem s space m).same]
@[simp] theorem setMem_sec (s : State) (space : Nat) (m : List Host.Cell) : (s.setMem space m).sec = s.sec := by rw [(bytesFrame_setMem s space m).same]
@[simp] theorem setMem_bel (s : State) (space : Nat) (m : List Host.Cell) : (s.setMem space m).bel = s.bel := by rw [(bytesFrame_setMem s space m).same]
@[simp] theorem setMem_ecc (s : State) (space : Nat) (m : List Host.Cell) : (s.setMem space m).ecc = s.ecc := by rw [(bytesFrame_setMem s space m).same]
@[simp] theorem setMem_eid (s : State) (space : Nat) (m : List Host.Cell) : (s.setMem space m).eid = s.eid := by rw [(bytesFrame_setMem s space m).same]
@[simp] theorem setMem_out (s : State) (space : Nat) (m : List Host.Cell) : (s.setMem space m).out = s.out := by rw [(bytesFrame_setMem s space m).same]
@[simp] theorem f_setMem (s : State) (space : Nat) (m : List Host.Cell) (x : Fld) : (s.setMem space m).f x = s.f x := f_congr (setMem_regs s space m) x

@[simp] theorem wr_pending (s : State) (space a : Nat) (b : Byte) : (s.wr space a b).pending = s.pending := by rw [(bytesFrame_wr s space a b).same]
@[simp] theorem wr_freeCtr (s : State) (space a : Nat) (b : Byte) : (s.wr space a b).freeCtr = s.freeCtr := by rw [(bytesFrame_wr s space a b).same]
@[simp] theorem wr_aon (s : State) (space a : Nat) (b : Byte) : (s.wr space a b).aon = s.aon := by rw [(bytesFrame_wr s space a b).same]
@[simp] theorem wr_regs (s : State) (space a : Nat) (b : Byte) : (s.wr space a b).regs = s.regs := by rw [(bytesFrame_wr s space a b).same]
@[simp] theorem wr_poison (s : State) (space a : Nat) (b : Byte) : (s.wr space a b).poison = s.poison := by rw [(bytesFrame_wr s space a b).same]
@[simp] theorem wr_sch (s : State) (space a : Nat) (b : Byte) : (s.wr space a b).sch = s.sch := by rw [(bytesFrame_wr s space a b).same]
@[simp] theorem wr_val (s : State) (space a : Nat) (b : Byte) : (s.wr space a b).val = s.val := by rw [(bytesFrame_wr s space a b).same]
@[simp] theorem wr_units (s : State) (space a : Nat) (b : Byte) : (s.wr space a b).units = s.units := by rw [(bytesFrame_wr s space a b).same]
@[simp] theorem wr_evt (s : State) (space a : Nat) (b : Byte) : (s.wr space a b).evt = s.evt := by rw [(bytesFrame_wr s space a b).same]
@[simp] theorem wr_pass (s : State) (space a : Nat) (b : Byte) : (s.wr space a b).pass = s.pass := by rw [(bytesFrame_wr s space a b).same]
@[simp] theorem wr_col (s : State) (space a : Nat) (b : Byte) : (s.wr space a b).col = s.col := by rw [(bytesFrame_wr s space a b).same]
@[simp] theorem wr_fab (s : State) (space a : Nat) (b : Byte) : (s.wr space a b).fab = s.fab := by rw [(bytesFrame_wr s space a b).same]
@[simp] theorem wr_seesaw (s : State) (space a : Nat) (b : Byte) : (s.wr space a b).seesaw = s.seesaw := by rw [(bytesFrame_wr s space a b).same]
@[simp] theorem wr_arr (s : State) (space a : Nat) (b : Byte) : (s.wr space a b).arr = s.arr := by rw [(bytesFrame_wr s space a b).same]
@[simp] theorem wr_pup (s : State) (space a : Nat) (b : Byte) : (s.wr space a b).pup = s.pup := by rw [(bytesFrame_wr s space a b).same]
@[simp] theorem wr_load (s : State) (space a : Nat) (b : Byte) : (s.wr space a b).load = s.load := by rw [(bytesFrame_wr s space a b).same]
@[simp] theorem wr_cxl (s : State) (space a : Nat) (b : Byte) : (s.wr space a b).cxl = s.cxl := by rw [(bytesFrame_wr s space a b).same]
@[simp] theorem wr_pwr (s : State) (space a : Nat) (b : Byte) : (s.wr space a b).pwr = s.pwr := by rw [(bytesFrame_wr s space a b).same]
@[simp] theorem wr_boot (s : State) (space a : Nat) (b : Byte) : (s.wr space a b).boot = s.boot := by rw [(bytesFrame_wr s space a b).same]
@[simp] theorem wr_fuses (s : State) (space a : Nat) (b : Byte) : (s.wr space a b).fuses = s.fuses := by rw [(bytesFrame_wr s space a b).same]
@[simp] theorem wr_sec (s : State) (space a : Nat) (b : Byte) : (s.wr space a b).sec = s.sec := by rw [(bytesFrame_wr s space a b).same]
@[simp] theorem wr_bel (s : State) (space a : Nat) (b : Byte) : (s.wr space a b).bel = s.bel := by rw [(bytesFrame_wr s space a b).same]
@[simp] theorem wr_ecc (s : State) (space a : Nat) (b : Byte) : (s.wr space a b).ecc = s.ecc := by rw [(bytesFrame_wr s space a b).same]
@[simp] theorem wr_eid (s : State) (space a : Nat) (b : Byte) : (s.wr space a b).eid = s.eid := by rw [(bytesFrame_wr s space a b).same]
@[simp] theorem wr_out (s : State) (space a : Nat) (b : Byte) : (s.wr space a b).out = s.out := by rw [(bytesFrame_wr s space a b).same]
@[simp] theorem f_wr (s : State) (space a : Nat) (b : Byte) (x : Fld) : (s.wr space a b).f x = s.f x := f_congr (wr_regs s space a b) x

@[simp] theorem wrBytes_pending (s : State) (space a : Nat) (l : List Byte) : (s.wrBytes space a l).pending = s.pending := by rw [(bytesFrame_wrBytes s space a l).same]
@[simp] theorem wrBytes_freeCtr (s : State) (space a : Nat) (l : List Byte) : (s.wrBytes space a l).freeCtr = s.freeCtr := by rw [(bytesFrame_wrBytes s space a l).same]
@[simp] theorem wrBytes_aon (s : State) (space a : Nat) (l : List Byte) : (s.wrBytes space a l).aon = s.aon := by rw [(bytesFrame_wrBytes s space a l).same]
@[simp] theorem wrBytes_regs (s : State) (space a : Nat) (l : List Byte) : (s.wrBytes space a l).regs = s.regs := by rw [(bytesFrame_wrBytes s space a l).same]
@[simp] theorem wrBytes_poison (s : State) (space a : Nat) (l : List Byte) : (s.wrBytes space a l).poison = s.poison := by rw [(bytesFrame_wrBytes s space a l).same]
@[simp] theorem wrBytes_sch (s : State) (space a : Nat) (l : List Byte) : (s.wrBytes space a l).sch = s.sch := by rw [(bytesFrame_wrBytes s space a l).same]
@[simp] theorem wrBytes_val (s : State) (space a : Nat) (l : List Byte) : (s.wrBytes space a l).val = s.val := by rw [(bytesFrame_wrBytes s space a l).same]
@[simp] theorem wrBytes_units (s : State) (space a : Nat) (l : List Byte) : (s.wrBytes space a l).units = s.units := by rw [(bytesFrame_wrBytes s space a l).same]
@[simp] theorem wrBytes_evt (s : State) (space a : Nat) (l : List Byte) : (s.wrBytes space a l).evt = s.evt := by rw [(bytesFrame_wrBytes s space a l).same]
@[simp] theorem wrBytes_pass (s : State) (space a : Nat) (l : List Byte) : (s.wrBytes space a l).pass = s.pass := by rw [(bytesFrame_wrBytes s space a l).same]
@[simp] theorem wrBytes_col (s : State) (space a : Nat) (l : List Byte) : (s.wrBytes space a l).col = s.col := by rw [(bytesFrame_wrBytes s space a l).same]
@[simp] theorem wrBytes_fab (s : State) (space a : Nat) (l : List Byte) : (s.wrBytes space a l).fab = s.fab := by rw [(bytesFrame_wrBytes s space a l).same]
@[simp] theorem wrBytes_seesaw (s : State) (space a : Nat) (l : List Byte) : (s.wrBytes space a l).seesaw = s.seesaw := by rw [(bytesFrame_wrBytes s space a l).same]
@[simp] theorem wrBytes_arr (s : State) (space a : Nat) (l : List Byte) : (s.wrBytes space a l).arr = s.arr := by rw [(bytesFrame_wrBytes s space a l).same]
@[simp] theorem wrBytes_pup (s : State) (space a : Nat) (l : List Byte) : (s.wrBytes space a l).pup = s.pup := by rw [(bytesFrame_wrBytes s space a l).same]
@[simp] theorem wrBytes_load (s : State) (space a : Nat) (l : List Byte) : (s.wrBytes space a l).load = s.load := by rw [(bytesFrame_wrBytes s space a l).same]
@[simp] theorem wrBytes_cxl (s : State) (space a : Nat) (l : List Byte) : (s.wrBytes space a l).cxl = s.cxl := by rw [(bytesFrame_wrBytes s space a l).same]
@[simp] theorem wrBytes_pwr (s : State) (space a : Nat) (l : List Byte) : (s.wrBytes space a l).pwr = s.pwr := by rw [(bytesFrame_wrBytes s space a l).same]
@[simp] theorem wrBytes_boot (s : State) (space a : Nat) (l : List Byte) : (s.wrBytes space a l).boot = s.boot := by rw [(bytesFrame_wrBytes s space a l).same]
@[simp] theorem wrBytes_fuses (s : State) (space a : Nat) (l : List Byte) : (s.wrBytes space a l).fuses = s.fuses := by rw [(bytesFrame_wrBytes s space a l).same]
@[simp] theorem wrBytes_sec (s : State) (space a : Nat) (l : List Byte) : (s.wrBytes space a l).sec = s.sec := by rw [(bytesFrame_wrBytes s space a l).same]
@[simp] theorem wrBytes_bel (s : State) (space a : Nat) (l : List Byte) : (s.wrBytes space a l).bel = s.bel := by rw [(bytesFrame_wrBytes s space a l).same]
@[simp] theorem wrBytes_ecc (s : State) (space a : Nat) (l : List Byte) : (s.wrBytes space a l).ecc = s.ecc := by rw [(bytesFrame_wrBytes s space a l).same]
@[simp] theorem wrBytes_eid (s : State) (space a : Nat) (l : List Byte) : (s.wrBytes space a l).eid = s.eid := by rw [(bytesFrame_wrBytes s space a l).same]
@[simp] theorem wrBytes_out (s : State) (space a : Nat) (l : List Byte) : (s.wrBytes space a l).out = s.out := by rw [(bytesFrame_wrBytes s space a l).same]
@[simp] theorem f_wrBytes (s : State) (space a : Nat) (l : List Byte) (x : Fld) : (s.wrBytes space a l).f x = s.f x := f_congr (wrBytes_regs s space a l) x

@[simp] theorem wrNat_pending (s : State) (space a n v : Nat) : (s.wrNat space a n v).pending = s.pending := by rw [(bytesFrame_wrNat s space a n v).same]
@[simp] theorem wrNat_freeCtr (s : State) (space a n v : Nat) : (s.wrNat space a n v).freeCtr = s.freeCtr := by rw [(bytesFrame_wrNat s space a n v).same]
@[simp] theorem wrNat_aon (s : State) (space a n v : Nat) : (s.wrNat space a n v).aon = s.aon := by rw [(bytesFrame_wrNat s space a n v).same]
@[simp] theorem wrNat_regs (s : State) (space a n v : Nat) : (s.wrNat space a n v).regs = s.regs := by rw [(bytesFrame_wrNat s space a n v).same]
@[simp] theorem wrNat_poison (s : State) (space a n v : Nat) : (s.wrNat space a n v).poison = s.poison := by rw [(bytesFrame_wrNat s space a n v).same]
@[simp] theorem wrNat_sch (s : State) (space a n v : Nat) : (s.wrNat space a n v).sch = s.sch := by rw [(bytesFrame_wrNat s space a n v).same]
@[simp] theorem wrNat_val (s : State) (space a n v : Nat) : (s.wrNat space a n v).val = s.val := by rw [(bytesFrame_wrNat s space a n v).same]
@[simp] theorem wrNat_units (s : State) (space a n v : Nat) : (s.wrNat space a n v).units = s.units := by rw [(bytesFrame_wrNat s space a n v).same]
@[simp] theorem wrNat_evt (s : State) (space a n v : Nat) : (s.wrNat space a n v).evt = s.evt := by rw [(bytesFrame_wrNat s space a n v).same]
@[simp] theorem wrNat_pass (s : State) (space a n v : Nat) : (s.wrNat space a n v).pass = s.pass := by rw [(bytesFrame_wrNat s space a n v).same]
@[simp] theorem wrNat_col (s : State) (space a n v : Nat) : (s.wrNat space a n v).col = s.col := by rw [(bytesFrame_wrNat s space a n v).same]
@[simp] theorem wrNat_fab (s : State) (space a n v : Nat) : (s.wrNat space a n v).fab = s.fab := by rw [(bytesFrame_wrNat s space a n v).same]
@[simp] theorem wrNat_seesaw (s : State) (space a n v : Nat) : (s.wrNat space a n v).seesaw = s.seesaw := by rw [(bytesFrame_wrNat s space a n v).same]
@[simp] theorem wrNat_arr (s : State) (space a n v : Nat) : (s.wrNat space a n v).arr = s.arr := by rw [(bytesFrame_wrNat s space a n v).same]
@[simp] theorem wrNat_pup (s : State) (space a n v : Nat) : (s.wrNat space a n v).pup = s.pup := by rw [(bytesFrame_wrNat s space a n v).same]
@[simp] theorem wrNat_load (s : State) (space a n v : Nat) : (s.wrNat space a n v).load = s.load := by rw [(bytesFrame_wrNat s space a n v).same]
@[simp] theorem wrNat_cxl (s : State) (space a n v : Nat) : (s.wrNat space a n v).cxl = s.cxl := by rw [(bytesFrame_wrNat s space a n v).same]
@[simp] theorem wrNat_pwr (s : State) (space a n v : Nat) : (s.wrNat space a n v).pwr = s.pwr := by rw [(bytesFrame_wrNat s space a n v).same]
@[simp] theorem wrNat_boot (s : State) (space a n v : Nat) : (s.wrNat space a n v).boot = s.boot := by rw [(bytesFrame_wrNat s space a n v).same]
@[simp] theorem wrNat_fuses (s : State) (space a n v : Nat) : (s.wrNat space a n v).fuses = s.fuses := by rw [(bytesFrame_wrNat s space a n v).same]
@[simp] theorem wrNat_sec (s : State) (space a n v : Nat) : (s.wrNat space a n v).sec = s.sec := by rw [(bytesFrame_wrNat s space a n v).same]
@[simp] theorem wrNat_bel (s : State) (space a n v : Nat) : (s.wrNat space a n v).bel = s.bel := by rw [(bytesFrame_wrNat s space a n v).same]
@[simp] theorem wrNat_ecc (s : State) (space a n v : Nat) : (s.wrNat space a n v).ecc = s.ecc := by rw [(bytesFrame_wrNat s space a n v).same]
@[simp] theorem wrNat_eid (s : State) (space a n v : Nat) : (s.wrNat space a n v).eid = s.eid := by rw [(bytesFrame_wrNat s space a n v).same]
@[simp] theorem wrNat_out (s : State) (space a n v : Nat) : (s.wrNat space a n v).out = s.out := by rw [(bytesFrame_wrNat s space a n v).same]
@[simp] theorem f_wrNat (s : State) (space a n v : Nat) (x : Fld) : (s.wrNat space a n v).f x = s.f x := f_congr (wrNat_regs s space a n v) x

@[simp] theorem wrBits_pending (s : State) (space b w v : Nat) : (s.wrBits space b w v).pending = s.pending := by rw [(bytesFrame_wrBits s space b w v).same]
@[simp] theorem wrBits_freeCtr (s : State) (space b w v : Nat) : (s.wrBits space b w v).freeCtr = s.freeCtr := by rw [(bytesFrame_wrBits s space b w v).same]
@[simp] theorem wrBits_aon (s : State) (space b w v : Nat) : (s.wrBits space b w v).aon = s.aon := by rw [(bytesFrame_wrBits s space b w v).same]
@[simp] theorem wrBits_regs (s : State) (space b w v : Nat) : (s.wrBits space b w v).regs = s.regs := by rw [(bytesFrame_wrBits s space b w v).same]
@[simp] theorem wrBits_poison (s : State) (space b w v : Nat) : (s.wrBits space b w v).poison = s.poison := by rw [(bytesFrame_wrBits s space b w v).same]
@[simp] theorem wrBits_sch (s : State) (space b w v : Nat) : (s.wrBits space b w v).sch = s.sch := by rw [(bytesFrame_wrBits s space b w v).same]
@[simp] theorem wrBits_val (s : State) (space b w v : Nat) : (s.wrBits space b w v).val = s.val := by rw [(bytesFrame_wrBits s space b w v).same]
@[simp] theorem wrBits_units (s : State) (space b w v : Nat) : (s.wrBits space b w v).units = s.units := by rw [(bytesFrame_wrBits s space b w v).same]
@[simp] theorem wrBits_evt (s : State) (space b w v : Nat) : (s.wrBits space b w v).evt = s.evt := by rw [(bytesFrame_wrBits s space b w v).same]
@[simp] theorem wrBits_pass (s : State) (space b w v : Nat) : (s.wrBits space b w v).pass = s.pass := by rw [(bytesFrame_wrBits s space b w v).same]
@[simp] theorem wrBits_col (s : State) (space b w v : Nat) : (s.wrBits space b w v).col = s.col := by rw [(bytesFrame_wrBits s space b w v).same]
@[simp] theorem wrBits_fab (s : State) (space b w v : Nat) : (s.wrBits space b w v).fab = s.fab := by rw [(bytesFrame_wrBits s space b w v).same]
@[simp] theorem wrBits_seesaw (s : State) (space b w v : Nat) : (s.wrBits space b w v).seesaw = s.seesaw := by rw [(bytesFrame_wrBits s space b w v).same]
@[simp] theorem wrBits_arr (s : State) (space b w v : Nat) : (s.wrBits space b w v).arr = s.arr := by rw [(bytesFrame_wrBits s space b w v).same]
@[simp] theorem wrBits_pup (s : State) (space b w v : Nat) : (s.wrBits space b w v).pup = s.pup := by rw [(bytesFrame_wrBits s space b w v).same]
@[simp] theorem wrBits_load (s : State) (space b w v : Nat) : (s.wrBits space b w v).load = s.load := by rw [(bytesFrame_wrBits s space b w v).same]
@[simp] theorem wrBits_cxl (s : State) (space b w v : Nat) : (s.wrBits space b w v).cxl = s.cxl := by rw [(bytesFrame_wrBits s space b w v).same]
@[simp] theorem wrBits_pwr (s : State) (space b w v : Nat) : (s.wrBits space b w v).pwr = s.pwr := by rw [(bytesFrame_wrBits s space b w v).same]
@[simp] theorem wrBits_boot (s : State) (space b w v : Nat) : (s.wrBits space b w v).boot = s.boot := by rw [(bytesFrame_wrBits s space b w v).same]
@[simp] theorem wrBits_fuses (s : State) (space b w v : Nat) : (s.wrBits space b w v).fuses = s.fuses := by rw [(bytesFrame_wrBits s space b w v).same]
@[simp] theorem wrBits_sec (s : State) (space b w v : Nat) : (s.wrBits space b w v).sec = s.sec := by rw [(bytesFrame_wrBits s space b w v).same]
@[simp] theorem wrBits_bel (s : State) (space b w v : Nat) : (s.wrBits space b w v).bel = s.bel := by rw [(bytesFrame_wrBits s space b w v).same]
@[simp] theorem wrBits_ecc (s : State) (space b w v : Nat) : (s.wrBits space b w v).ecc = s.ecc := by rw [(bytesFrame_wrBits s space b w v).same]
@[simp] theorem wrBits_eid (s : State) (space b w v : Nat) : (s.wrBits space b w v).eid = s.eid := by rw [(bytesFrame_wrBits s space b w v).same]
@[simp] theorem wrBits_out (s : State) (space b w v : Nat) : (s.wrBits space b w v).out = s.out := by rw [(bytesFrame_wrBits s space b w v).same]
@[simp] theorem f_wrBits (s : State) (space b w v : Nat) (x : Fld) : (s.wrBits space b w v).f x = s.f x := f_congr (wrBits_regs s space b w v) x

@[simp] theorem wrElems_pending (s : State) (d : Desc) (k : Nat) (l : List Nat) : (s.wrElems d k l).pending = s.pending := by rw [(bytesFrame_wrElems s d k l).same]
@[simp] theorem wrElems_freeCtr (s : State) (d : Desc) (k : Nat) (l : List Nat) : (s.wrElems d k l).freeCtr = s.freeCtr := by rw [(bytesFrame_wrElems s d k l).same]
@[simp] theorem wrElems_aon (s : State) (d : Desc) (k : Nat) (l : List Nat) : (s.wrElems d k l).aon = s.aon := by rw [(bytesFrame_wrElems s d k l).same]
@[simp] theorem wrElems_regs (s : State) (d : Desc) (k : Nat) (l : List Nat) : (s.wrElems d k l).regs = s.regs := by rw [(bytesFrame_wrElems s d k l).same]
@[simp] theorem wrElems_poison (s : State) (d : Desc) (k : Nat) (l : List Nat) : (s.wrElems d k l).poison = s.poison := by rw [(bytesFrame_wrElems s d k l).same]
@[simp] theorem wrElems_sch (s : State) (d : Desc) (k : Nat) (l : List Nat) : (s.wrElems d k l).sch = s.sch := by rw [(bytesFrame_wrElems s d k l).same]
@[simp] theorem wrElems_val (s : State) (d : Desc) (k : Nat) (l : List Nat) : (s.wrElems d k l).val = s.val := by rw [(bytesFrame_wrElems s d k l).same]
@[simp] theorem wrElems_units (s : State) (d : Desc) (k : Nat) (l : List Nat) : (s.wrElems d k l).units = s.units := by rw [(bytesFrame_wrElems s d k l).same]
@[simp] theorem wrElems_evt (s : State) (d : Desc) (k : Nat) (l : List Nat) : (s.wrElems d k l).evt = s.evt := by rw [(bytesFrame_wrElems s d k l).same]
@[simp] theorem wrElems_pass (s : State) (d : Desc) (k : Nat) (l : List Nat) : (s.wrElems d k l).pass = s.pass := by rw [(bytesFrame_wrElems s d k l).same]
@[simp] theorem wrElems_col (s : State) (d : Desc) (k : Nat) (l : List Nat) : (s.wrElems d k l).col = s.col := by rw [(bytesFrame_wrElems s d k l).same]
@[simp] theorem wrElems_fab (s : State) (d : Desc) (k : Nat) (l : List Nat) : (s.wrElems d k l).fab = s.fab := by rw [(bytesFrame_wrElems s d k l).same]
@[simp] theorem wrElems_seesaw (s : State) (d : Desc) (k : Nat) (l : List Nat) : (s.wrElems d k l).seesaw = s.seesaw := by rw [(bytesFrame_wrElems s d k l).same]
@[simp] theorem wrElems_arr (s : State) (d : Desc) (k : Nat) (l : List Nat) : (s.wrElems d k l).arr = s.arr := by rw [(bytesFrame_wrElems s d k l).same]
@[simp] theorem wrElems_pup (s : State) (d : Desc) (k : Nat) (l : List Nat) : (s.wrElems d k l).pup = s.pup := by rw [(bytesFrame_wrElems s d k l).same]
@[simp] theorem wrElems_load (s : State) (d : Desc) (k : Nat) (l : List Nat) : (s.wrElems d k l).load = s.load := by rw [(bytesFrame_wrElems s d k l).same]
@[simp] theorem wrElems_cxl (s : State) (d : Desc) (k : Nat) (l : List Nat) : (s.wrElems d k l).cxl = s.cxl := by rw [(bytesFrame_wrElems s d k l).same]
@[simp] theorem wrElems_pwr (s : State) (d : Desc) (k : Nat) (l : List Nat) : (s.wrElems d k l).pwr = s.pwr := by rw [(bytesFrame_wrElems s d k l).same]
@[simp] theorem wrElems_boot (s : State) (d : Desc) (k : Nat) (l : List Nat) : (s.wrElems d k l).boot = s.boot := by rw [(bytesFrame_wrElems s d k l).same]
@[simp] theorem wrElems_fuses (s : State) (d : Desc) (k : Nat) (l : List Nat) : (s.wrElems d k l).fuses = s.fuses := by rw [(bytesFrame_wrElems s d k l).same]
@[simp] theorem wrElems_sec (s : State) (d : Desc) (k : Nat) (l : List Nat) : (s.wrElems d k l).sec = s.sec := by rw [(bytesFrame_wrElems s d k l).same]
@[simp] theorem wrElems_bel (s : State) (d : Desc) (k : Nat) (l : List Nat) : (s.wrElems d k l).bel = s.bel := by rw [(bytesFrame_wrElems s d k l).same]
@[simp] theorem wrElems_ecc (s : State) (d : Desc) (k : Nat) (l : List Nat) : (s.wrElems d k l).ecc = s.ecc := by rw [(bytesFrame_wrElems s d k l).same]
@[simp] theorem wrElems_eid (s : State) (d : Desc) (k : Nat) (l : List Nat) : (s.wrElems d k l).eid = s.eid := by rw [(bytesFrame_wrElems s d k l).same]
@[simp] theorem wrElems_out (s : State) (d : Desc) (k : Nat) (l : List Nat) : (s.wrElems d k l).out = s.out := by rw [(bytesFrame_wrElems s d k l).same]
@[simp] theorem f_wrElems (s : State) (d : Desc) (k : Nat) (l : List Nat) (x : Fld) : (s.wrElems d k l).f x = s.f x := f_congr (wrElems_regs s d k l) x

@[simp] theorem wrPart_pending (s : State) (d : Desc) (e : Encoded) (p : Nat → Bool) : (s.wrPart d e p).pending = s.pending := by rw [(bytesFrame_wrPart s d e p).same]
@[simp] theorem wrPart_freeCtr (s : State) (d : Desc) (e : Encoded) (p : Nat → Bool) : (s.wrPart d e p).freeCtr = s.freeCtr := by rw [(bytesFrame_wrPart s d e p).same]
@[simp] theorem wrPart_aon (s : State) (d : Desc) (e : Encoded) (p : Nat → Bool) : (s.wrPart d e p).aon = s.aon := by rw [(bytesFrame_wrPart s d e p).same]
@[simp] theorem wrPart_regs (s : State) (d : Desc) (e : Encoded) (p : Nat → Bool) : (s.wrPart d e p).regs = s.regs := by rw [(bytesFrame_wrPart s d e p).same]
@[simp] theorem wrPart_poison (s : State) (d : Desc) (e : Encoded) (p : Nat → Bool) : (s.wrPart d e p).poison = s.poison := by rw [(bytesFrame_wrPart s d e p).same]
@[simp] theorem wrPart_sch (s : State) (d : Desc) (e : Encoded) (p : Nat → Bool) : (s.wrPart d e p).sch = s.sch := by rw [(bytesFrame_wrPart s d e p).same]
@[simp] theorem wrPart_val (s : State) (d : Desc) (e : Encoded) (p : Nat → Bool) : (s.wrPart d e p).val = s.val := by rw [(bytesFrame_wrPart s d e p).same]
@[simp] theorem wrPart_units (s : State) (d : Desc) (e : Encoded) (p : Nat → Bool) : (s.wrPart d e p).units = s.units := by rw [(bytesFrame_wrPart s d e p).same]
@[simp] theorem wrPart_evt (s : State) (d : Desc) (e : Encoded) (p : Nat → Bool) : (s.wrPart d e p).evt = s.evt := by rw [(bytesFrame_wrPart s d e p).same]
@[simp] theorem wrPart_pass (s : State) (d : Desc) (e : Encoded) (p : Nat → Bool) : (s.wrPart d e p).pass = s.pass := by rw [(bytesFrame_wrPart s d e p).same]
@[simp] theorem wrPart_col (s : State) (d : Desc) (e : Encoded) (p : Nat → Bool) : (s.wrPart d e p).col = s.col := by rw [(bytesFrame_wrPart s d e p).same]
@[simp] theorem wrPart_fab (s : State) (d : Desc) (e : Encoded) (p : Nat → Bool) : (s.wrPart d e p).fab = s.fab := by rw [(bytesFrame_wrPart s d e p).same]
@[simp] theorem wrPart_seesaw (s : State) (d : Desc) (e : Encoded) (p : Nat → Bool) : (s.wrPart d e p).seesaw = s.seesaw := by rw [(bytesFrame_wrPart s d e p).same]
@[simp] theorem wrPart_arr (s : State) (d : Desc) (e : Encoded) (p : Nat → Bool) : (s.wrPart d e p).arr = s.arr := by rw [(bytesFrame_wrPart s d e p).same]
@[simp] theorem wrPart_pup (s : State) (d : Desc) (e : Encoded) (p : Nat → Bool) : (s.wrPart d e p).pup = s.pup := by rw [(bytesFrame_wrPart s d e p).same]
@[simp] theorem wrPart_load (s : State) (d : Desc) (e : Encoded) (p : Nat → Bool) : (s.wrPart d e p).load = s.load := by rw [(bytesFrame_wrPart s d e p).same]
@[simp] theorem wrPart_cxl (s : State) (d : Desc) (e : Encoded) (p : Nat → Bool) : (s.wrPart d e p).cxl = s.cxl := by rw [(bytesFrame_wrPart s d e p).same]
@[simp] theorem wrPart_pwr (s : State) (d : Desc) (e : Encoded) (p : Nat → Bool) : (s.wrPart d e p).pwr = s.pwr := by rw [(bytesFrame_wrPart s d e p).same]
@[simp] theorem wrPart_boot (s : State) (d : Desc) (e : Encoded) (p : Nat → Bool) : (s.wrPart d e p).boot = s.boot := by rw [(bytesFrame_wrPart s d e p).same]
@[simp] theorem wrPart_fuses (s : State) (d : Desc) (e : Encoded) (p : Nat → Bool) : (s.wrPart d e p).fuses = s.fuses := by rw [(bytesFrame_wrPart s d e p).same]
@[simp] theorem wrPart_sec (s : State) (d : Desc) (e : Encoded) (p : Nat → Bool) : (s.wrPart d e p).sec = s.sec := by rw [(bytesFrame_wrPart s d e p).same]
@[simp] theorem wrPart_bel (s : State) (d : Desc) (e : Encoded) (p : Nat → Bool) : (s.wrPart d e p).bel = s.bel := by rw [(bytesFrame_wrPart s d e p).same]
@[simp] theorem wrPart_ecc (s : State) (d : Desc) (e : Encoded) (p : Nat → Bool) : (s.wrPart d e p).ecc = s.ecc := by rw [(bytesFrame_wrPart s d e p).same]
@[simp] theorem wrPart_eid (s : State) (d : Desc) (e : Encoded) (p : Nat → Bool) : (s.wrPart d e p).eid = s.eid := by rw [(bytesFrame_wrPart s d e p).same]
@[simp] theorem wrPart_out (s : State) (d : Desc) (e : Encoded) (p : Nat → Bool) : (s.wrPart d e p).out = s.out := by rw [(bytesFrame_wrPart s d e p).same]
@[simp] theorem f_wrPart (s : State) (d : Desc) (e : Encoded) (p : Nat → Bool) (x : Fld) : (s.wrPart d e p).f x = s.f x := f_congr (wrPart_regs s d e p) x

/-- Storing a result changes the memories, and poisoned lines that the destination covers, alone. -/
theorem wrEncoded_frame (s : State) (d : Desc) (e : Encoded) :
    s.wrEncoded d e = { s with hbm := (s.wrEncoded d e).hbm, scratch := (s.wrEncoded d e).scratch,
                               host := (s.wrEncoded d e).host, poison := (s.wrEncoded d e).poison } := by
  have h : bytesFrame s (if fmtBlock d.format then e.blocks.foldl (fun t b => t.wrBlock d b.1 b.2) s
      else s.wrElems d 0 e.elems) := by
    split
    · refine bytesFrame_foldl (fun t b => ?_) _ s
      exact bytesFrame_wrBlock t d b.1 b.2
    · exact bytesFrame_wrElems _ _ _ _
  have hc : ∀ t : State, t.coverLines d = { t with poison := (t.coverLines d).poison } := by
    intro t
    unfold State.coverLines
    split <;> rfl
  unfold State.wrEncoded
  generalize (if fmtBlock d.format then e.blocks.foldl (fun t b => t.wrBlock d b.1 b.2) s
      else s.wrElems d 0 e.elems) = t at h ⊢
  obtain ⟨a, b, c, rfl⟩ : ∃ a b c, t = { s with hbm := a, scratch := b, host := c } := ⟨_, _, _, h.same⟩
  generalize hu : State.coverLines _ d = u
  have k := hc { s with hbm := a, scratch := b, host := c }
  rw [hu] at k
  rw [k]

@[simp] theorem wrEncoded_pending (s : State) (d : Desc) (e : Encoded) : (s.wrEncoded d e).pending = s.pending := by rw [wrEncoded_frame]
@[simp] theorem wrEncoded_freeCtr (s : State) (d : Desc) (e : Encoded) : (s.wrEncoded d e).freeCtr = s.freeCtr := by rw [wrEncoded_frame]
@[simp] theorem wrEncoded_aon (s : State) (d : Desc) (e : Encoded) : (s.wrEncoded d e).aon = s.aon := by rw [wrEncoded_frame]
@[simp] theorem wrEncoded_regs (s : State) (d : Desc) (e : Encoded) : (s.wrEncoded d e).regs = s.regs := by rw [wrEncoded_frame]
@[simp] theorem wrEncoded_sch (s : State) (d : Desc) (e : Encoded) : (s.wrEncoded d e).sch = s.sch := by rw [wrEncoded_frame]
@[simp] theorem wrEncoded_val (s : State) (d : Desc) (e : Encoded) : (s.wrEncoded d e).val = s.val := by rw [wrEncoded_frame]
@[simp] theorem wrEncoded_units (s : State) (d : Desc) (e : Encoded) : (s.wrEncoded d e).units = s.units := by rw [wrEncoded_frame]
@[simp] theorem wrEncoded_evt (s : State) (d : Desc) (e : Encoded) : (s.wrEncoded d e).evt = s.evt := by rw [wrEncoded_frame]
@[simp] theorem wrEncoded_pass (s : State) (d : Desc) (e : Encoded) : (s.wrEncoded d e).pass = s.pass := by rw [wrEncoded_frame]
@[simp] theorem wrEncoded_col (s : State) (d : Desc) (e : Encoded) : (s.wrEncoded d e).col = s.col := by rw [wrEncoded_frame]
@[simp] theorem wrEncoded_fab (s : State) (d : Desc) (e : Encoded) : (s.wrEncoded d e).fab = s.fab := by rw [wrEncoded_frame]
@[simp] theorem wrEncoded_seesaw (s : State) (d : Desc) (e : Encoded) : (s.wrEncoded d e).seesaw = s.seesaw := by rw [wrEncoded_frame]
@[simp] theorem wrEncoded_arr (s : State) (d : Desc) (e : Encoded) : (s.wrEncoded d e).arr = s.arr := by rw [wrEncoded_frame]
@[simp] theorem wrEncoded_pup (s : State) (d : Desc) (e : Encoded) : (s.wrEncoded d e).pup = s.pup := by rw [wrEncoded_frame]
@[simp] theorem wrEncoded_load (s : State) (d : Desc) (e : Encoded) : (s.wrEncoded d e).load = s.load := by rw [wrEncoded_frame]
@[simp] theorem wrEncoded_cxl (s : State) (d : Desc) (e : Encoded) : (s.wrEncoded d e).cxl = s.cxl := by rw [wrEncoded_frame]
@[simp] theorem wrEncoded_pwr (s : State) (d : Desc) (e : Encoded) : (s.wrEncoded d e).pwr = s.pwr := by rw [wrEncoded_frame]
@[simp] theorem wrEncoded_boot (s : State) (d : Desc) (e : Encoded) : (s.wrEncoded d e).boot = s.boot := by rw [wrEncoded_frame]
@[simp] theorem wrEncoded_fuses (s : State) (d : Desc) (e : Encoded) : (s.wrEncoded d e).fuses = s.fuses := by rw [wrEncoded_frame]
@[simp] theorem wrEncoded_sec (s : State) (d : Desc) (e : Encoded) : (s.wrEncoded d e).sec = s.sec := by rw [wrEncoded_frame]
@[simp] theorem wrEncoded_bel (s : State) (d : Desc) (e : Encoded) : (s.wrEncoded d e).bel = s.bel := by rw [wrEncoded_frame]
@[simp] theorem wrEncoded_ecc (s : State) (d : Desc) (e : Encoded) : (s.wrEncoded d e).ecc = s.ecc := by rw [wrEncoded_frame]
@[simp] theorem wrEncoded_eid (s : State) (d : Desc) (e : Encoded) : (s.wrEncoded d e).eid = s.eid := by rw [wrEncoded_frame]
@[simp] theorem wrEncoded_out (s : State) (d : Desc) (e : Encoded) : (s.wrEncoded d e).out = s.out := by rw [wrEncoded_frame]

/-! ### The end of a start -/

/-- The end of a start notes progress and may settle poisoned lines: nothing else changes. -/
theorem afterStart_frame (s : State) (id : Nat) :
    s.afterStart id = { s with poison := (s.afterStart id).poison, sch := { s.sch with lastProgress := s.aon, stallSeen := false } } := by
  unfold State.afterStart State.settleTags
  split
  · rfl
  · split <;> rfl

@[simp] theorem f_afterStart (s : State) (id : Nat) (x : Fld) : (s.afterStart id).f x = s.f x := by
  rw [afterStart_frame]
  rfl

@[simp] theorem inst_afterStart (s : State) (id m : Nat) : (s.afterStart id).inst m = s.inst m := by
  rw [afterStart_frame]
  rfl

@[simp] theorem tok_afterStart (s : State) (id m : Nat) : (s.afterStart id).tok m = s.tok m := by
  rw [afterStart_frame]
  rfl

@[simp] theorem rd_afterStart (s : State) (id space a : Nat) : (s.afterStart id).rd space a = s.rd space a := by
  rw [afterStart_frame]
  rfl

/-! ### Instructions and tokens -/

theorem inst_id {s : State} {id : Nat} {i : Inst} (h : s.inst id = some i) : i.id = id := by
  have := List.find?_some h
  simpa using this

/-- The instruction put back under its own number is the one found there. -/
theorem inst_putInst_same {s : State} {id : Nat} {i j : Inst} (h : s.inst id = some i) (hj : j.id = id) :
    (s.putInst j).inst id = some j := by
  have hm : ∀ l : List Inst, (l.map (fun x => if x.id = id then j else x)).find? (fun x => x.id == id) =
      (l.find? (fun x => x.id == id)).map (fun _ => j) := by
    intro l
    induction l with
    | nil => rfl
    | cons x l ih =>
      simp only [List.map_cons, List.find?_cons]
      by_cases q : x.id = id
      · simp [q, hj]
      · have : (x.id == id) = false := by simpa using q
        simp only [q, if_false, this, ih]
  simp only [State.inst, State.putInst] at h ⊢
  rw [hj, hm, h]
  rfl

theorem inst_putInst_other {s : State} {id : Nat} {j : Inst} (hj : j.id ≠ id) : (s.putInst j).inst id = s.inst id := by
  simp only [State.inst, State.putInst]
  induction s.sch.inflight with
  | nil => rfl
  | cons x l ih =>
    simp only [List.map_cons, List.find?_cons, ih]
    by_cases q : x.id = j.id
    · have h1 : (j.id == id) = false := by simpa using hj
      have h2 : (x.id == id) = false := by simpa [q] using hj
      simp [q, h1]
    · simp [q]

theorem tok_putTok (s : State) (t k : Nat) (v : Option Tok) : (s.putTok t v).tok k = if k = t then v else s.tok k := by
  cases v with
  | none =>
    change mget k (mdel t s.sch.tokens) = _
    split
    · subst k
      simp
    · exact mget_mdel_other (by assumption) _
  | some x =>
    change mget k (mput t x s.sch.tokens) = _
    split
    · subst k
      simp
    · exact mget_mput_other (by assumption) _ _

/-- A signal sets a CLEAR token, and leaves a POISONED one (R73). -/
theorem tok_signal {t : Nat} (h : t ≠ 0) (s : State) (k : Nat) : (s.signal t true).tok k =
    if k = t then some (if s.tok k = some .poisoned then .poisoned else .set) else s.tok k := by
  unfold State.signal
  rw [if_neg h]
  simp only [if_true]
  split
  · rename_i e
    rw [tok_putTok]
    split
    · subst k
      simp [e]
    · rfl
  · rename_i x e
    split
    · subst k
      rw [e]
      cases x <;> simp
    · rfl

end Sys2Proof.Machine
end

