-- ==== Sys2Proof/Laws/Grids.lean ====
section
/-! SUPPORT. What the grids' shared operations can do: idle grids that take items change what runs, alone; the posts of
finished tiles change the posts and their instruction's counts of them; the end of a tile's last item writes that tile. -/

namespace Sys2Proof.Machine

/-- Idle grids that take items change what runs, alone. -/
theorem dispatch_frame (s : State) :
    s.dispatch = { s with units := { s.units with running := s.dispatch.units.running } } := by
  have h : ∀ (l : List Nat) (t : State), ∃ r, l.foldl (fun t g => if t.gridIdle g then (match t.forGrid g with
      | some i => t.runItem i g
      | none => t) else t) t = { t with units := { t.units with running := r } } := by
    intro l
    induction l with
    | nil => exact fun t => ⟨t.units.running, rfl⟩
    | cons g l ih =>
      intro t
      obtain ⟨r, e⟩ := ih (if t.gridIdle g then (match t.forGrid g with
        | some i => t.runItem i g
        | none => t) else t)
      refine ⟨r, ?_⟩
      rw [List.foldl_cons, e]
      split
      · split <;> rfl
      · rfl
  obtain ⟨r, e⟩ := h (List.range 256) s
  have e' : s.dispatch = { s with units := { s.units with running := r } } := e
  rw [e']

@[simp] theorem dispatch_hbm (s : State) : s.dispatch.hbm = s.hbm := by rw [dispatch_frame]
@[simp] theorem dispatch_scratch (s : State) : s.dispatch.scratch = s.scratch := by rw [dispatch_frame]
@[simp] theorem dispatch_sch (s : State) : s.dispatch.sch = s.sch := by rw [dispatch_frame]
@[simp] theorem dispatch_inst (s : State) (id : Nat) : s.dispatch.inst id = s.inst id := by
  simp [State.inst]
@[simp] theorem dispatch_unsettled (s : State) : s.dispatch.units.unsettled = s.units.unsettled := by rw [dispatch_frame]

@[simp] theorem coverLines_sch (s : State) (d : Desc) : (s.coverLines d).sch = s.sch := by
  unfold State.coverLines; split <;> rfl
@[simp] theorem coverLines_hbm (s : State) (d : Desc) : (s.coverLines d).hbm = s.hbm := by
  unfold State.coverLines; split <;> rfl
@[simp] theorem coverLines_scratch (s : State) (d : Desc) : (s.coverLines d).scratch = s.scratch := by
  unfold State.coverLines; split <;> rfl
@[simp] theorem coverLines_inst (s : State) (d : Desc) (id : Nat) : (s.coverLines d).inst id = s.inst id := by
  simp [State.inst]

@[simp] theorem settleTags_sch (s : State) (id : Nat) : (s.settleTags id).sch = s.sch := by
  unfold State.settleTags; split <;> (try split) <;> rfl
@[simp] theorem settleTags_hbm (s : State) (id : Nat) : (s.settleTags id).hbm = s.hbm := by
  unfold State.settleTags; split <;> (try split) <;> rfl
@[simp] theorem settleTags_scratch (s : State) (id : Nat) : (s.settleTags id).scratch = s.scratch := by
  unfold State.settleTags; split <;> (try split) <;> rfl
@[simp] theorem settleTags_inst (s : State) (id n : Nat) : (s.settleTags id).inst n = s.inst n := by
  simp [State.inst]

/-- The posts of finished tiles write no memory, and leave of an instruction all but its counts of posts. -/
theorem postTiles_frame (id k : Nat) : ∀ {s : State} {i : Inst}, s.inst id = some i →
    (∃ p b, (s.postTiles id k).inst id = some { i with posted := p, held := b }) ∧
    (s.postTiles id k).hbm = s.hbm ∧ (s.postTiles id k).scratch = s.scratch ∧
    (s.postTiles id k).units.unsettled = s.units.unsettled := by
  induction k with
  | zero => exact fun {s i} h => ⟨⟨i.posted, i.held, h⟩, rfl, rfl, rfl⟩
  | succ k ih =>
    intro s i h
    have hid := inst_id h
    unfold State.postTiles
    simp only [h]
    split
    · exact ⟨⟨i.posted, i.held, h⟩, rfl, rfl, rfl⟩
    · split
      · have h' : (s.putInst { i with posted := i.posted + 1, held := false }).inst id =
            some { i with posted := i.posted + 1, held := false } := inst_putInst_same h hid
        have e := ih h'
        exact e
      · split
        · have h' : ((({ s with units := { s.units with ftq := s.units.ftq ++ [(id, nth i.made i.posted)] } } : State).setF
              F.vecFtqPeak (max (s.f F.vecFtqPeak) (s.units.ftq ++ [(id, nth i.made i.posted)]).length)).putInst
              { i with posted := i.posted + 1, held := false }).inst id =
              some { i with posted := i.posted + 1, held := false } := inst_putInst_same (s := _) h hid
          have e := ih h'
          exact e
        · split
          · exact ⟨⟨i.posted, i.held, h⟩, rfl, rfl, rfl⟩
          · exact ⟨⟨i.posted, true, inst_putInst_same (s := _) h hid⟩, rfl, rfl, rfl⟩

@[simp] theorem itemEnds_inst (s : State) (r : GridRun) (id : Nat) : (s.itemEnds r).inst id = s.inst id := rfl
@[simp] theorem itemEnds_unsettled (s : State) (r : GridRun) :
    (s.itemEnds r).units.unsettled = s.units.unsettled := rfl

/-- GRID_ITEM of an item that its grid runs (R144, R150, R231). -/
theorem gridItem_eq {s : State} {id g : Nat} {agree : Bool} {r : GridRun} {i : Inst}
    (hr : s.dispatch.units.running.find? (fun r => r.grid == g && r.inst == id) = some r)
    (hi : s.dispatch.inst id = some i) :
    execGridItem id g agree s = .next
      (if r.live = false ∨ i.items = 0 then (s.dispatch.itemEnds r).dispatch
       else ((s.dispatch.itemEnds r).endItem i r agree).dispatch) := by
  unfold execGridItem
  generalize s.dispatch = u at *
  simp only [hr, hi]
  generalize u.itemEnds r = v
  by_cases h : r.live = false ∨ i.items = 0
  · have h' : (!r.live || i.items == 0) = true := by simpa using h
    rw [if_pos h, if_pos h']
  · have h' : ¬ (!r.live || i.items == 0) = true := by simpa using h
    rw [if_neg h, if_neg h']

/-- The last item of an instruction's last tile, with a residue that agrees, writes that tile and ends the instruction with a
success status, unless an item of it is in dispute (R144, R231). -/
theorem endItem_last {u : State} {id : Nat} {i : Inst} {r : GridRun} {d : Desc} {e : Encoded} (hi : u.inst id = some i)
    (h1 : i.items = 1) (hn : nth i.left (i.itemTile r.item) = 1) (hp : i.pend = [(d, e)]) (hr : i.phase = .running)
    (hd : u.units.unsettled.all (fun x => x.2.2 != id) = true) :
    let p := i.itemTile r.item
    let v := u.putInst { i with items := 0, otherHalf := i.otherHalf || (r.dw == decide (r.grid < 128)) }
    (u.endItem i r true).hbm = (v.wrPart d e (fun k => d.outTileOf k == p)).hbm ∧
    (u.endItem i r true).scratch = (v.wrPart d e (fun k => d.outTileOf k == p)).scratch ∧
    ((u.endItem i r true).inst id).map (fun j => (j.phase == .done && isSuccess j.status, j.pend.isEmpty)) =
      some (true, true) := by
  intro p v
  have hid : i.id = id := inst_id hi
  let j : Inst := { i with items := 0, otherHalf := i.otherHalf || (r.dw == decide (r.grid < 128)) }
  let j2 : Inst := { j with left := i.left.set p 0 }
  let w := v.wrPart d e (fun k => d.outTileOf k == p)
  have hv : v.inst id = some j := inst_putInst_same hi hid
  have hw : w.inst id = some j := by
    rw [← hv]
    simp [State.inst, w]
  have h2 : (w.putInst { j2 with made := j2.madeWith p }).inst id = some { j2 with made := j2.madeWith p } :=
    inst_putInst_same hw hid
  obtain ⟨⟨pp, bb, e1⟩, e2, e3, e4⟩ := postTiles_frame id j.tiles h2
  have k1 : v.settleItem id p = (w.putInst { j2 with made := j2.madeWith p }).postTiles id j.tiles := by
    have f : j.pend.foldl (fun t x => t.wrPart x.1 x.2 (fun k => x.1.outTileOf k == p)) v = w := by
      rw [show j.pend = _ from hp]
      rfl
    have n0 : nth j.left p - 1 = 0 := by
      rw [show nth j.left p = 1 from hn]
    unfold State.settleItem
    rw [hv]
    dsimp only
    rw [n0, if_neg (by simp), f]
  have key : u.endItem i r true = (v.settleItem id p).commitRun id := by
    have k : u.endItem i r true = (v.settleItem i.id p).commitRun i.id := by
      unfold State.endItem
      dsimp only
      rw [if_pos rfl, show i.items - 1 = 0 by rw [h1]]
    rw [k, hid]
  have hu : w.units.unsettled = u.units.unsettled := by simp [w]; rfl
  have hd' : (v.settleItem id p).units.unsettled.all (fun x => x.2.2 != id) = true := by
    rw [k1, e4]
    change w.units.unsettled.all _ = true
    rw [hu]
    exact hd
  rw [← k1] at e1 e2 e3
  rw [key]
  unfold State.commitRun
  rw [e1]
  dsimp only
  rw [if_pos ⟨hr, rfl, by simp [j2, j, hp], hd'⟩]
  rw [show j2.pend = _ from hp]
  refine ⟨?_, ?_, ?_⟩
  · simp only [settleTags_hbm]
    exact (coverLines_hbm _ _).trans e2
  · simp only [settleTags_scratch]
    exact (coverLines_scratch _ _).trans e3
  · simp only [settleTags_inst]
    have e5 := (coverLines_inst (v.settleItem id p) d id).trans e1
    refine (congrArg (Option.map _) (inst_putInst_same e5 (by exact hid))).trans ?_
    change some (true && isSuccess (if i.spilled then stOkSpilled else stOk), true) = _
    cases i.spilled <;> rfl

end Sys2Proof.Machine
end

