-- ==== Sys2Proof/Laws/Ops.lean ====
section
/-! SUPPORT. What the shared operations do: the start of an instruction, a host access to a BAR, a service command and a
security command, once each, for the statements about the commands that call them. -/

namespace Sys2Proof.Machine

/-- An instruction that comes first among those whose own waits count as over comes first under any waits (R78). -/
theorem first_mono {s : State} {i : Inst} (cond : Inst → Bool) (h : s.first (fun _ => true) i = true) :
    s.first cond i = true := by
  simp only [State.first, Bool.or_eq_true, List.all_eq_true] at h ⊢
  rcases h with h | h
  · exact .inl h
  · refine .inr fun j hj => ?_
    have := h j hj
    simp only [Bool.and_true, Bool.and_eq_true, Bool.not_eq_true'] at this ⊢
    rcases this with this | ⟨h1, h2⟩
    · exact .inl this
    · exact .inr ⟨h1, by simp [h2]⟩

/-- An instruction that may start, and whose own wait is over, has its effect (R75). -/
theorem startIf_eq {s : State} {op id : Nat} {i : Inst} (h : s.mayStart op id i) (cond : Inst → Bool)
    (run : Inst → State) (hc : cond i = true) :
    s.startIf op id cond run = .next ((run i).afterStart id) := by
  have hm : i.members.findSome? (fun m => (s.inst m).bind s.poisonRead) = none := by
    rw [List.findSome?_eq_none_iff]; exact h.clean
  simp [State.startIf, h.here, h.code, h.ready, h.host, first_mono cond h.first, h.deps, hc, hm, State.afterStart]

/-- The same for an instruction without a wait of its own. -/
theorem start_eq {s : State} {op id : Nat} {i : Inst} (h : s.mayStart op id i) (run : Inst → State) :
    s.start op id run = .next ((run i).afterStart id) := startIf_eq h _ run rfl

/-- A host access has its effect (R339). -/
theorem hostAccess_eq {s : State} (h : s.hostOpen) (c : Instr) (sec : Bool) (run : State → State) :
    s.hostAccess c sec run = .next (run s) := by
  simp [State.hostAccess, h.reached, h.awake, h.access]

/-- A write of SCH.SVC_CMD (R313). -/
theorem svcRow_eq {s : State} (h : s.hostOpen) (c : Instr) (v : Nat) (mine : Nat → Bool)
    (run : State → SvcCmd → State) :
    s.svcRow c v mine run = .next (State.svcEffect v mine run s) := by
  simp [State.svcRow, hostAccess_eq h]

/-- An access to the SEC block has its effect, where nothing closes it (R372). -/
theorem secAccess_eq {s : State} (h : s.secOpen) (c : Instr) (run : State → State) :
    s.hostAccess c true run = .next (run s) := by
  simp [State.hostAccess, h.reached, h.awake]

/-- A security command runs, and its status is shown (R395). -/
theorem secCommand_eq {s : State} (h : s.secOpen) (cmd : Nat) (run : State → State × Option Nat) :
    s.secCommand cmd run = (match run (s.setF F.secCmdStatusLastCmd cmd) with
      | (u, some st) => u.setF F.secCmdStatusStatus st
      | (u, none) => u) := by
  simp only [State.secCommand, h.free, h.running, Bool.false_eq_true, if_false] <;> rfl

/-- An access to configuration space or the DOE mailbox (R336). -/
theorem configAccess_eq {s : State} (h : s.linkOpen) (c : Instr) (run : State → State) :
    s.configAccess c run = .next (run s) := by
  simp [State.configAccess, h.reached, h.awake]

/-- A command of SCH.SVC_CMD begins, and runs with the fields of its block (R313). -/
theorem takesCmd_eq {s : State} {v k : Nat} {x : SvcCmd} (h : s.takesCmd v k x) (c : Instr) (mine : Nat → Bool)
    (run : State → SvcCmd → State) (hm : mine k = true) : s.svcRow c v mine run = .next (run (s.beginCmd v) x) := by
  have hb := h.block
  have hr := h.runs
  rw [svcRow_eq h.access]
  simp only [State.svcEffect, h.free, h.readable, h.code, hm, Bool.not_true, Bool.false_eq_true, if_false, if_true,
    State.svcTake, hb]
  rw [if_neg]
  intro c
  exact hr ⟨c.1, c.2.1, by simpa using c.2.2⟩

/-- A command of SCH.SVC_CMD that is refused ends with BAD_STATE (R313). -/
theorem refusesCmd_eq {s : State} {v k : Nat} {x : SvcCmd} (h : s.cmdBegins v k x) (hk : s.refusesCmd k) (c : Instr)
    (mine : Nat → Bool) (run : State → SvcCmd → State) (hm : mine k = true) :
    s.svcRow c v mine run = .next ((s.beginCmd v).endCmd 1 0) := by
  have hb := h.block
  rw [svcRow_eq h.access]
  simp only [State.svcEffect, h.free, h.readable, h.code, hm, Bool.not_true, Bool.false_eq_true, if_false, if_true,
    State.svcTake, hb]
  rw [if_pos]
  exact ⟨hk.1, hk.2.1, by simpa using hk.2.2⟩

/-- An instruction starts in one of four ways: it has not its turn and nothing changes, it ends with DEP_FAILED, it ends
with what poison it reads, or its effect happens (R75, R178, R234). -/
theorem startIf_cases (s : State) (op id : Nat) (cond : Inst → Bool) (run : Inst → State) :
    s.startIf op id cond run = .next s ∨
    (∃ i, s.inst id = some i ∧ s.depFailed i = true ∧
      s.startIf op id cond run = .next (s.progress.endChain i.members stDepFailed)) ∨
    (∃ i r, s.inst id = some i ∧ s.startIf op id cond run = .next (s.readFails i r).progress) ∨
    (∃ i, s.inst id = some i ∧ i.code.op = op ∧ s.ready i = true ∧ cond i = true ∧ s.depFailed i = false ∧
      s.startIf op id cond run = .next ((run i).afterStart id)) := by
  unfold State.startIf
  cases hi : s.inst id with
  | none => exact .inl rfl
  | some i =>
    simp only
    split
    · exact .inl rfl
    · rename_i hn
      simp only [Bool.or_eq_true, bne_iff_ne, Bool.not_eq_true', not_or, ne_eq, not_not, Bool.not_eq_false] at hn
      split
      · rename_i hd
        exact .inr (.inl ⟨i, rfl, hd, rfl⟩)
      · rename_i hd
        split
        · rename_i r hr
          exact .inr (.inr (.inl ⟨i, r, rfl, rfl⟩))
        · exact .inr (.inr (.inr ⟨i, rfl, hn.1.1.1, hn.1.1.2, hn.1.2, by simpa using hd, rfl⟩))

/-- A host access ends in one of four ways: it does not arrive, the Deep latch holds it, it is a violation of kind
BAR_OFFSET, or its effect happens (R339, R365, R372). -/
theorem hostAccess_cases (s : State) (c : Instr) (sec : Bool) (run : State → State) :
    s.hostAccess c sec run = .next s ∨ s.hostAccess c sec run = .next (s.latchAccess c) ∨
    s.hostAccess c sec run = .next (s.violation 5) ∨
    (s.barReached = true ∧ s.pst_ ≠ 3 ∧ s.hostAccess c sec run = .next (run s)) := by
  unfold State.hostAccess
  split
  · exact .inl rfl
  · rename_i hr
    split
    · exact .inr (.inl rfl)
    · rename_i hp
      split
      · exact .inr (.inr (.inl rfl))
      · exact .inr (.inr (.inr ⟨by simpa using hr, hp, rfl⟩))

/-- Neither ends in a fault or a refusal. -/
theorem startIf_next (s : State) (op id : Nat) (cond : Inst → Bool) (run : Inst → State) :
    ∃ t, s.startIf op id cond run = .next t := by
  rcases startIf_cases s op id cond run with h | ⟨_, _, _, h⟩ | ⟨_, _, _, h⟩ | ⟨_, _, _, _, _, _, h⟩ <;> exact ⟨_, h⟩

theorem hostAccess_next (s : State) (c : Instr) (sec : Bool) (run : State → State) :
    ∃ t, s.hostAccess c sec run = .next t := by
  rcases hostAccess_cases s c sec run with h | h | h | ⟨_, _, h⟩ <;> exact ⟨_, h⟩

end Sys2Proof.Machine
end

