-- ==== Sys2Proof/Laws/KeepsSched.lean ====
section
/-! SUPPORT. Every step keeps the queue behind it, every fuse that is blown (R406) and the canonical form of the
three memories: here one lemma `<f>_keeps` for each function of the model that answers a state, an outcome or a state
beside something else. A lemma says: what is kept from a state `z` to `s` is kept from `z` to what the function makes of
`s`; functions given as arguments keep the same.
This file: the shared operations, the memories, the scheduler and the admission of records. -/

namespace Sys2Proof.Machine

set_option linter.unusedTactic false
set_option linter.unreachableTactic false
set_option linter.unusedVariables false
set_option Elab.async false

/-- What every command keeps: the queue, the fuses that are blown, and the canonical form of the memories. -/
structure Keeps (s t : State) : Prop where
  queue : t.pending = s.pending
  fuses : fusesKept s t
  mem   : s.memOk = true → t.memOk = true

theorem keeps_refl (s : State) : Keeps s s :=
  ⟨rfl, ⟨fun _ _ h => h, fun _ _ h => h, fun _ h => h⟩, fun h => h⟩

theorem keeps_trans {s t u : State} (h : Keeps s t) (k : Keeps t u) : Keeps s u :=
  ⟨k.queue.trans h.queue,
   ⟨fun g b x => k.fuses.1 g b (h.fuses.1 g b x), fun b y x => k.fuses.2.1 b y (h.fuses.2.1 b y x),
    fun b x => k.fuses.2.2 b (h.fuses.2.2 b x)⟩, fun x => k.mem (h.mem x)⟩

theorem keeps_mk {z u : State} (hk : Keeps z u) {freeCtr aon : Nat} {regs : List (Nat × Nat)}
    {poison : List (Nat × Nat × Option Nat)} {sch : Sch} {val : Valley} {units : Units} {evt : Evt} {pass : Pass} {col : Col}
    {fab : Fab} {seesaw : Seesaw} {arr : Arr} {pup : Pup} {load : Load} {cxl : Cxl} {pwr : Power} {boot : Boot} {sec : Sec}
    {bel : Belgar} {ecc : Ecc} {eid : Nat} {out : Out} :
    Keeps z ⟨u.pending, freeCtr, aon, regs, u.hbm, u.scratch, u.host, poison, sch, val, units, evt, pass, col, fab, seesaw, arr,
      pup, load, cxl, pwr, boot, u.fuses, sec, bel, ecc, eid, out⟩ := ⟨hk.queue, hk.fuses, hk.mem⟩

theorem keeps_lit {z u : State} {freeCtr aon : Nat} {regs : List (Nat × Nat)}
    {poison : List (Nat × Nat × Option Nat)} {sch : Sch} {val : Valley} {units : Units} {evt : Evt} {pass : Pass} {col : Col}
    {fab : Fab} {seesaw : Seesaw} {arr : Arr} {pup : Pup} {load : Load} {cxl : Cxl} {pwr : Power} {boot : Boot} {sec : Sec}
    {bel : Belgar} {ecc : Ecc} {eid : Nat} {out : Out} :
    Keeps z ⟨u.pending, freeCtr, aon, regs, u.hbm, u.scratch, u.host, poison, sch, val, units, evt, pass, col, fab, seesaw, arr,
      pup, load, cxl, pwr, boot, u.fuses, sec, bel, ecc, eid, out⟩ = Keeps z u :=
  propext ⟨fun h => ⟨h.queue, h.fuses, h.mem⟩, fun h => ⟨h.queue, h.fuses, h.mem⟩⟩

/-- An outcome whose next state keeps the same. -/
structure OKeeps (z : State) (o : Host.Outcome State Fault Refusal) : Prop where
  next : ∀ t, o = .next t → Keeps z t

theorem keeps_next {z t : State} (h : Keeps z t) : OKeeps z (.next t) := by
  refine ⟨fun u e => ?_⟩
  cases e
  exact h
theorem keeps_fault {z : State} {x : Fault} : OKeeps z (.fault x) := ⟨fun _ e => nomatch e⟩
theorem keeps_refused {z : State} {x : Refusal} : OKeeps z (.refused x) := ⟨fun _ e => nomatch e⟩
theorem keeps_ite {z : State} {c : Prop} [Decidable c] {a b : State} (ha : Keeps z a) (hb : Keeps z b) :
    Keeps z (if c then a else b) := by split <;> assumption
theorem keeps_ite1 {z : State} {α : Type} {c : Prop} [Decidable c] {a b : State × α} (ha : Keeps z a.1) (hb : Keeps z b.1) :
    Keeps z (if c then a else b).1 := by split <;> assumption
theorem okeeps_ite {z : State} {c : Prop} [Decidable c] {a b : Host.Outcome State Fault Refusal} (ha : OKeeps z a)
    (hb : OKeeps z b) : OKeeps z (if c then a else b) := by split <;> assumption
theorem keeps_foldl {z : State} {α : Type} {f : State → α → State} {l : List α} {s : State} (hk : Keeps z s)
    (hf : ∀ t x, Keeps z t → Keeps z (f t x)) : Keeps z (l.foldl f s) := by
  induction l generalizing s with
  | nil => exact hk
  | cons a l ih => exact ih (hf s a hk)
theorem keeps_pair {z t : State} {α : Type} {p : State × α} {a : α} (e : p = (t, a)) (h : Keeps z p.1) : Keeps z t := by
  subst e; exact h

theorem State.setF_keeps {z s : State} (hk : Keeps z s) (x : Fld) (v : Nat) :
    Keeps z (State.setF s x v) := by
  unfold State.setF
  repeat' first | with_reducible assumption | simp only [↓keeps_lit]

theorem State.addF_keeps {z s : State} (hk : Keeps z s) (x : Fld) (n : Nat) :
    Keeps z (State.addF s x n) := by
  unfold State.addF
  repeat' first | with_reducible assumption | with_reducible apply State.setF_keeps

theorem State.clearF_keeps {z s : State} (hk : Keeps z s) (xs : List Fld) :
    Keeps z (State.clearF s xs) := by
  unfold State.clearF
  repeat' first
    | with_reducible assumption | intro _ | with_reducible apply State.setF_keeps | with_reducible apply keeps_foldl

theorem memOk_setMem {s : State} (space : Nat) {m : List Host.Cell} (hm : Memory.wf m = true) (h : s.memOk = true) :
    (s.setMem space m).memOk = true := by
  simp only [State.memOk, Bool.and_eq_true] at h ⊢
  unfold State.setMem
  split
  · exact ⟨⟨h.1.1, hm⟩, h.2⟩
  · split
    · exact ⟨⟨hm, h.1.2⟩, h.2⟩
    · exact ⟨⟨h.1.1, h.1.2⟩, hm⟩

theorem mem_wf {s : State} (h : s.memOk = true) (space : Nat) : Memory.wf (s.mem space) = true := by
  simp only [State.memOk, Bool.and_eq_true] at h
  unfold State.mem
  split
  · exact h.1.2
  · split
    · exact h.1.1
    · exact h.2

theorem setMem_frame (s : State) (space : Nat) (m : List Host.Cell) :
    (s.setMem space m).pending = s.pending ∧ (s.setMem space m).fuses = s.fuses := by
  unfold State.setMem
  split
  · exact ⟨rfl, rfl⟩
  · split <;> exact ⟨rfl, rfl⟩

theorem State.setMem_keeps {z s : State} (hk : Keeps z s) (space : Nat) (m : List Host.Cell)
    (hm : Memory.wf (s.mem space) = true → Memory.wf m = true) : Keeps z (s.setMem space m) := by
  have hf := setMem_frame s space m
  refine ⟨hf.1.trans hk.queue, ?_, fun h => memOk_setMem space (hm (mem_wf (hk.mem h) space)) (hk.mem h)⟩
  have := hk.fuses
  simp only [fusesKept, State.gen] at this ⊢
  rw [hf.2]
  exact this

theorem State.wr_keeps {z s : State} (hk : Keeps z s) (space a : Nat) (b : Byte) : Keeps z (s.wr space a b) := by
  unfold State.wr
  exact keeps_ite hk (State.setMem_keeps hk space _ (memory_wf_set a b))

theorem State.wrBytes_keeps {z s : State} (hk : Keeps z s) (space a : Nat) (l : List Byte) :
    Keeps z (s.wrBytes space a l) := by
  induction l generalizing s a with
  | nil => exact hk
  | cons b r ih => exact ih (State.wr_keeps hk space a b) (a + 1)

theorem State.wrNat_keeps {z s : State} (hk : Keeps z s) (space a n v : Nat) :
    Keeps z (State.wrNat s space a n v) := by
  unfold State.wrNat
  repeat' first | with_reducible assumption | with_reducible apply State.wrBytes_keeps

theorem State.zeroRange_keeps {z s : State} (hk : Keeps z s) (space a n : Nat) : Keeps z (s.zeroRange space a n) :=
  State.setMem_keeps hk space _ (memory_wf_filter _)

theorem State.addPoison_keeps {z s : State} (hk : Keeps z s) (space line : Nat) (by_ : Option Nat) :
    Keeps z (State.addPoison s space line by_) := by
  unfold State.addPoison
  repeat' first | with_reducible assumption | simp only [↓keeps_lit] | with_reducible apply keeps_ite

theorem State.unpoison_keeps {z s : State} (hk : Keeps z s) (space a n : Nat) :
    Keeps z (State.unpoison s space a n) := by
  unfold State.unpoison
  repeat' first | with_reducible assumption | simp only [↓keeps_lit]

theorem State.tick_keeps {z s : State} (hk : Keeps z s) :
    Keeps z (State.tick s) := by
  unfold State.tick
  repeat' first | with_reducible assumption | simp only [↓keeps_lit]

theorem State.putTok_keeps {z s : State} (hk : Keeps z s) (t : Nat) (v : Option Tok) :
    Keeps z (State.putTok s t v) := by
  unfold State.putTok
  repeat' first | with_reducible assumption | simp only [↓keeps_lit]

theorem State.signal_keeps {z s : State} (hk : Keeps z s) (t : Nat) (ok : Bool) :
    Keeps z (State.signal s t ok) := by
  unfold State.signal
  repeat' first
    | with_reducible assumption | with_reducible apply State.putTok_keeps | with_reducible apply keeps_ite | split

theorem State.clearStepTokens_keeps {z s : State} (hk : Keeps z s) :
    Keeps z (State.clearStepTokens s) := by
  unfold State.clearStepTokens
  repeat' first | with_reducible assumption | simp only [↓keeps_lit]

theorem State.clearTokens_keeps {z s : State} (hk : Keeps z s) :
    Keeps z (State.clearTokens s) := by
  unfold State.clearTokens
  repeat' first | with_reducible assumption | simp only [↓keeps_lit]

theorem State.msi_keeps {z s : State} (hk : Keeps z s) (v : Nat) :
    Keeps z (State.msi s v) := by
  unfold State.msi
  repeat' first | with_reducible assumption | simp only [↓keeps_lit] | with_reducible apply keeps_ite

theorem State.putRate_keeps {z s : State} (hk : Keeps z s) (code : Nat) (r : Rate) :
    Keeps z (State.putRate s code r) := by
  unfold State.putRate
  repeat' first | with_reducible assumption | simp only [↓keeps_lit]

theorem State.frontPush_keeps {z s : State} (hk : Keeps z s) (e : Event) :
    Keeps z (State.frontPush s e) := by
  unfold State.frontPush
  repeat' first
    | with_reducible assumption | with_reducible apply State.addF_keeps | simp only [↓keeps_lit]
    | with_reducible apply keeps_ite

theorem State.raise_keeps {z s : State} (hk : Keeps z s) (e0 : Event) :
    Keeps z (State.raise s e0) := by
  unfold State.raise
  repeat' first
    | with_reducible assumption | with_reducible apply State.putRate_keeps
    | with_reducible apply State.frontPush_keeps | with_reducible apply keeps_ite

theorem State.ev_keeps {z s : State} (hk : Keeps z s) (code unit arg0 arg1 : Nat) :
    Keeps z (State.ev s code unit arg0 arg1) := by
  unfold State.ev
  repeat' first | with_reducible assumption | with_reducible apply State.raise_keeps

theorem State.evI_keeps {z s : State} (hk : Keeps z s) (code unit arg0 arg1 : Nat) (i : Inst) :
    Keeps z (State.evI s code unit arg0 arg1 i) := by
  unfold State.evI
  repeat' first | with_reducible assumption | with_reducible apply State.raise_keeps

theorem State.violation_keeps {z s : State} (hk : Keeps z s) (k : Nat) :
    Keeps z (State.violation s k) := by
  unfold State.violation
  repeat' first
    | with_reducible assumption | with_reducible apply State.setF_keeps | with_reducible apply State.addF_keeps
    | with_reducible apply State.ev_keeps

theorem State.modPass_keeps {z s : State} (hk : Keeps z s) (g : Pass → Pass) :
    Keeps z (State.modPass s g) := by
  unfold State.modPass
  repeat' first | with_reducible assumption | simp only [↓keeps_lit]

theorem State.modPup_keeps {z s : State} (hk : Keeps z s) (g : Pup → Pup) :
    Keeps z (State.modPup s g) := by
  unfold State.modPup
  repeat' first | with_reducible assumption | simp only [↓keeps_lit]

theorem State.putFail_keeps {z s : State} (hk : Keeps z s) (reason detail : Nat) :
    Keeps z (State.putFail s reason detail) := by
  unfold State.putFail
  repeat' first | with_reducible assumption | with_reducible apply State.modPass_keeps

theorem State.failCheck_keeps {z s : State} (hk : Keeps z s) (reason detail : Nat) :
    Keeps z (State.failCheck s reason detail) := by
  unfold State.failCheck
  repeat' first
    | with_reducible assumption | with_reducible apply State.putFail_keeps | with_reducible apply keeps_ite | split

theorem State.stateError_keeps {z s : State} (hk : Keeps z s) (unit : Nat) :
    Keeps z (State.stateError s unit) := by
  unfold State.stateError
  repeat' first
    | with_reducible assumption | with_reducible apply State.modPass_keeps
    | with_reducible apply State.failCheck_keeps

theorem State.putInst_keeps {z s : State} (hk : Keeps z s) (i : Inst) :
    Keeps z (State.putInst s i) := by
  unfold State.putInst
  repeat' first | with_reducible assumption | simp only [↓keeps_lit]

theorem State.modInst_keeps {z s : State} (hk : Keeps z s) (id : Nat) (g : Inst → Inst) :
    Keeps z (State.modInst s id g) := by
  unfold State.modInst
  repeat' first | with_reducible assumption | simp only [↓keeps_lit]

theorem State.modAll_keeps {z s : State} (hk : Keeps z s) (g : Inst → Inst) :
    Keeps z (State.modAll s g) := by
  unfold State.modAll
  repeat' first | with_reducible assumption | simp only [↓keeps_lit]

theorem State.dropInst_keeps {z s : State} (hk : Keeps z s) (id : Nat) :
    Keeps z (State.dropInst s id) := by
  unfold State.dropInst
  repeat' first | with_reducible assumption | simp only [↓keeps_lit]

theorem State.putQst_keeps {z s : State} (hk : Keeps z s) (q : Nat) (x : QSt) :
    Keeps z (State.putQst s q x) := by
  unfold State.putQst
  repeat' first | with_reducible assumption | simp only [↓keeps_lit]

theorem State.progress_keeps {z s : State} (hk : Keeps z s) :
    Keeps z (State.progress s) := by
  unfold State.progress
  repeat' first | with_reducible assumption | simp only [↓keeps_lit]

theorem ok_keeps {z s : State} (hk : Keeps z s) :
    OKeeps z (ok s) := by
  unfold ok
  repeat' first | with_reducible assumption | with_reducible apply keeps_next

theorem State.pwrInt_keeps {z s : State} (hk : Keeps z s) :
    Keeps z (State.pwrInt s) := by
  unfold State.pwrInt
  repeat' first | with_reducible assumption | with_reducible apply State.msi_keeps | with_reducible apply keeps_ite

theorem State.wakeUp_keeps {z s : State} (hk : Keeps z s) (code : Nat) :
    Keeps z (State.wakeUp s code) := by
  unfold State.wakeUp
  repeat' first
    | with_reducible assumption | with_reducible apply State.setF_keeps | simp only [↓keeps_lit]
    | with_reducible apply keeps_ite

theorem State.touchHbm_keeps {z s : State} (hk : Keeps z s) :
    Keeps z (State.touchHbm s) := by
  unfold State.touchHbm
  repeat' first | with_reducible assumption | simp only [↓keeps_lit] | with_reducible apply keeps_ite

theorem State.latchAccess_keeps {z s : State} (hk : Keeps z s) (c : Instr) :
    Keeps z (State.latchAccess s c) := by
  unfold State.latchAccess
  repeat' first | with_reducible assumption | with_reducible apply State.wakeUp_keeps | simp only [↓keeps_lit]

theorem State.hostAccess_keeps {z s : State} (hk : Keeps z s) (c : Instr) (sec : Bool)
    (run : State → State) (h_run : ∀ a0, Keeps z a0 → Keeps z (run a0)) :
    OKeeps z (State.hostAccess s c sec run) := by
  unfold State.hostAccess
  repeat' first
    | with_reducible assumption | with_reducible apply h_run | with_reducible apply State.violation_keeps
    | with_reducible apply State.latchAccess_keeps | with_reducible apply keeps_next | with_reducible apply okeeps_ite

theorem State.busError_keeps {z s : State} (hk : Keeps z s) (o : HostOutcome) :
    Keeps z (State.busError s o) := by
  unfold State.busError
  repeat' first | with_reducible assumption | with_reducible apply State.addF_keeps | split

theorem State.hostWrite_keeps {z s : State} (hk : Keeps z s) (mirror : Bool) (parts : List (Nat × List Byte)) :
    Keeps z (State.hostWrite s mirror parts) := by
  unfold State.hostWrite
  repeat' first
    | with_reducible assumption | intro _ | with_reducible apply State.wrBytes_keeps | simp only [↓keeps_lit]
    | with_reducible apply keeps_foldl

theorem State.wrBits_keeps {z s : State} (hk : Keeps z s) (space b w v : Nat) :
    Keeps z (State.wrBits s space b w v) := by
  unfold State.wrBits
  repeat' first
    | with_reducible assumption | with_reducible apply State.wr_keeps | with_reducible apply State.wrBytes_keeps
    | with_reducible apply keeps_ite

theorem State.wrElems_keeps {z s : State} (hk : Keeps z s) (d : Desc) (k : Nat) (l : List Nat) :
    Keeps z (s.wrElems d k l) := by
  induction l generalizing s k with
  | nil => exact hk
  | cons v r ih => exact ih (State.wrBits_keeps hk _ _ _ _) (k + 1)

theorem State.wrBlock_keeps {z s : State} (hk : Keeps z s) (d : Desc) (k : Nat) (b : Nat × List Nat) :
    Keeps z (State.wrBlock s d k b) := by
  unfold State.wrBlock
  repeat' first
    | with_reducible assumption | with_reducible apply State.wr_keeps | with_reducible apply State.wrBytes_keeps

theorem State.coverLines_keeps {z s : State} (hk : Keeps z s) (d : Desc) :
    Keeps z (State.coverLines s d) := by
  unfold State.coverLines
  repeat' first | with_reducible assumption | simp only [↓keeps_lit] | with_reducible apply keeps_ite

theorem State.wrEncoded_keeps {z s : State} (hk : Keeps z s) (d : Desc) (e : Encoded) :
    Keeps z (State.wrEncoded s d e) := by
  unfold State.wrEncoded
  repeat' first
    | with_reducible assumption | intro _ | with_reducible apply State.wrElems_keeps
    | with_reducible apply State.wrBlock_keeps | with_reducible apply State.coverLines_keeps
    | with_reducible apply keeps_ite | with_reducible apply keeps_foldl

theorem State.wrPart_keeps {z s : State} (hk : Keeps z s) (d : Desc) (e : Encoded) (p : Nat → Bool) :
    Keeps z (State.wrPart s d e p) := by
  unfold State.wrPart
  repeat' first
    | with_reducible assumption | intro _ | with_reducible apply State.wrElems_keeps
    | with_reducible apply State.wrBlock_keeps | with_reducible apply keeps_ite | with_reducible apply keeps_foldl

theorem State.evictOldest_keeps {z s : State} (hk : Keeps z s) {t : State} {b : Nat} (ho : s.evictOldest = some (t, b)) :
    Keeps z t := by
  unfold State.evictOldest at ho
  split at ho
  · split at ho
    · cases ho
      exact keeps_mk hk
    · cases ho
  · cases ho

theorem State.makeRoom_keeps {z s : State} (hk : Keeps z s) (size k : Nat) : Keeps z (s.makeRoom size k).1 := by
  induction k generalizing s with
  | zero => exact State.tick_keeps hk
  | succ k ih =>
    unfold State.makeRoom
    split
    · exact State.tick_keeps hk
    · split
      · exact ih (State.evictOldest_keeps hk (by assumption))
      · exact hk

theorem State.memFull_keeps {z s : State} (hk : Keeps z s) (size : Nat) :
    Keeps z (State.memFull s size) := by
  unfold State.memFull
  repeat' first
    | with_reducible assumption | with_reducible apply State.addF_keeps | with_reducible apply State.ev_keeps

theorem State.valleyFull_keeps {z s : State} (hk : Keeps z s) :
    Keeps z (State.valleyFull s) := by
  unfold State.valleyFull
  repeat' first | with_reducible assumption | with_reducible apply State.addF_keeps

theorem State.heapFor_keeps {z s : State} (hk : Keeps z s) (h : Nat) (d : Desc) (sp : Bool) :
    Keeps z (State.heapFor s h d sp).1 := by
  unfold State.heapFor
  repeat' first | with_reducible assumption | with_reducible apply State.tick_keeps | simp only [↓keeps_lit] | split

theorem State.allocFor_keeps {z s : State} (hk : Keeps z s) (h : Nat) (d : Desc) :
    Keeps z (State.allocFor s h d).1 := by
  unfold State.allocFor
  repeat' first
    | with_reducible assumption | with_reducible apply State.makeRoom_keeps | with_reducible apply State.heapFor_keeps
    | simp only [↓keeps_lit] | with_reducible apply keeps_ite1 | split

theorem State.freeStorage_keeps {z s : State} (hk : Keeps z s) (h : Nat) :
    Keeps z (State.freeStorage s h) := by
  unfold State.freeStorage
  repeat' first | with_reducible assumption | simp only [↓keeps_lit]

theorem State.addPage_keeps {z s : State} (hk : Keeps z s) (q : Nat) {t : State} (ho : s.addPage q = some t) : Keeps z t := by
  unfold State.addPage at ho
  dsimp only at ho
  split at ho
  · cases ho
    exact keeps_mk (State.tick_keeps hk)
  · split at ho
    · obtain ⟨c, h, e⟩ := Option.map_eq_some_iff.1 ho
      cases e
      exact keeps_mk (State.evictOldest_keeps hk h)
    · split at ho
      · cases ho
        exact keeps_mk hk
      · cases ho

theorem State.growPages_keeps {z s : State} (hk : Keeps z s) (q k : Nat) {t : State} (ho : s.growPages q k = some t) :
    Keeps z t := by
  induction k generalizing s q with
  | zero =>
    cases ho
    exact hk
  | succ k ih =>
    unfold State.growPages at ho
    split at ho
    · exact ih (State.addPage_keeps hk _ (by assumption)) _ ho
    · cases ho

theorem State.takeFrame_keeps {z s : State} (hk : Keeps z s) (bytes : Nat) {t : State} {b : Nat}
    (ho : s.takeFrame bytes = some (t, b)) : Keeps z t := by
  obtain ⟨c, h, e⟩ := Option.map_eq_some_iff.1 ho
  cases e
  exact keeps_mk (State.growPages_keeps hk _ _ h)

theorem State.notePeak_keeps {z s : State} (hk : Keeps z s) :
    Keeps z (State.notePeak s) := by
  unfold State.notePeak
  repeat' first | with_reducible assumption | simp only [↓keeps_lit]

theorem State.putFrame_keeps {z s : State} (hk : Keeps z s) (n : Nat) (f : Frame) :
    Keeps z (State.putFrame s n f) := by
  unfold State.putFrame
  repeat' first | with_reducible assumption | simp only [↓keeps_lit]

/-- A push whose frame keeps the same. -/
structure PKeeps (z : State) (p : Pushed) : Prop where
  made : ∀ t, p = .made t → Keeps z t

theorem pkeeps_made {z t : State} (h : Keeps z t) : PKeeps z (.made t) := by
  refine ⟨fun u e => ?_⟩
  cases e
  exact h

theorem pkeeps_failed {z : State} {x : Nat} : PKeeps z (.failed x) := ⟨fun _ e => nomatch e⟩

theorem State.pushFrame_keeps {z s : State} (hk : Keeps z s) (id n : Nat) (d : Desc) :
    PKeeps z (s.pushFrame id n d) := by
  unfold State.pushFrame
  split
  · exact pkeeps_failed
  · split
    · exact pkeeps_failed
    · exact pkeeps_made (State.notePeak_keeps (State.putFrame_keeps
        (keeps_mk (State.takeFrame_keeps hk _ (by assumption))) _ _))

theorem State.readFrame_keeps {z s : State} (hk : Keeps z s) (f : Frame) :
    Keeps z (State.readFrame s f) := by
  unfold State.readFrame
  repeat' first | with_reducible assumption | with_reducible apply State.addF_keeps

theorem State.consumeFrame_keeps {z s : State} (hk : Keeps z s) (n : Nat) :
    Keeps z (State.consumeFrame s n) := by
  unfold State.consumeFrame
  repeat' first
    | with_reducible assumption | with_reducible apply State.ev_keeps | with_reducible apply State.putFrame_keeps
    | simp only [↓keeps_lit] | with_reducible apply keeps_ite | split

theorem State.keepFrames_keeps {z s : State} (hk : Keeps z s) (fs : List (Nat × Frame)) :
    Keeps z (State.keepFrames s fs) := by
  unfold State.keepFrames
  repeat' first | with_reducible assumption | simp only [↓keeps_lit]

theorem State.releaseValley_keeps {z s : State} (hk : Keeps z s) (keep : Bool) :
    Keeps z (State.releaseValley s keep) := by
  unfold State.releaseValley
  repeat' first | with_reducible assumption | with_reducible apply State.keepFrames_keeps | simp only [↓keeps_lit]

theorem State.pageOut_keeps {z s : State} (hk : Keeps z s) (k : Nat) : Keeps z (s.pageOut k) := by
  induction k generalizing s with
  | zero => exact hk
  | succ k ih =>
    unfold State.pageOut
    split
    · exact hk
    · split
      · exact ih (State.evictOldest_keeps hk (by assumption))
      · exact hk

theorem State.spillSide_keeps {z s : State} (hk : Keeps z s) (need moved k : Nat) {t : State} {b : Nat}
    (ho : s.spillSide need moved k = some (t, b)) : Keeps z t := by
  induction k generalizing s moved with
  | zero =>
    change (if s.sideUsed + need ≤ sideBytes then some (s, moved) else none) = _ at ho
    split at ho
    · cases ho
      exact hk
    · cases ho
  | succ k ih =>
    change (if s.sideUsed + need ≤ sideBytes then some (s, moved)
      else match s.oldestSide with
        | none => none
        | some (n, f) => (match s.takeFrame f.bytes with
          | none => none
          | some (t, start) =>
            (t.putFrame n { f with side := false, start := start }).notePeak.spillSide need (moved + 1) k)) = _ at ho
    split at ho
    · cases ho
      exact hk
    · split at ho
      · cases ho
      · split at ho
        · cases ho
        · exact ih (State.notePeak_keeps (State.putFrame_keeps (State.takeFrame_keeps hk _ (by assumption)) _ _)) _ ho

theorem State.pushStat_keeps {z s : State} (hk : Keeps z s) (id n : Nat) (d : Desc) (kind rows rowLen : Nat) :
    PKeeps z (s.pushStat id n d kind rows rowLen) := by
  unfold State.pushStat
  dsimp only
  repeat' split
  · exact pkeeps_failed
  · exact pkeeps_failed
  · exact pkeeps_made (State.notePeak_keeps (State.putFrame_keeps (State.takeFrame_keeps (keeps_mk hk) _ (by assumption)) _ _))
  · exact pkeeps_failed
  · exact pkeeps_made (State.ev_keeps (keeps_mk (State.putFrame_keeps
      (State.spillSide_keeps (keeps_mk hk) _ _ _ (by assumption)) _ _)) _ _ _ _)
  · exact pkeeps_made (State.putFrame_keeps (State.spillSide_keeps (keeps_mk hk) _ _ _ (by assumption)) _ _)

theorem State.putEntry_keeps {z s : State} (hk : Keeps z s) (h : Nat) (d : Desc) :
    Keeps z (State.putEntry s h d) := by
  unfold State.putEntry
  repeat' first | with_reducible assumption | with_reducible apply State.wrBytes_keeps

/-- A binding whose state keeps the same. -/
structure BKeeps (z : State) (b : Bound) : Prop where
  good : ∀ t d sp, b = .good t d sp → Keeps z t
  bad  : ∀ t st, b = .bad t st → Keeps z t

theorem bkeeps_good {z t : State} {d : Desc} {sp : Bool} (h : Keeps z t) : BKeeps z (.good t d sp) := by
  exact ⟨fun u x y e => (Bound.good.inj e).1 ▸ h, fun u x e => (nomatch e)⟩

theorem bkeeps_bad {z t : State} {st : Nat} (h : Keeps z t) : BKeeps z (.bad t st) := by
  exact ⟨fun u x y e => (nomatch e), fun u x e => (Bound.bad.inj e).1 ▸ h⟩

theorem bkeeps_ite {z : State} {c : Prop} [Decidable c] {a b : Bound} (ha : BKeeps z a) (hb : BKeeps z b) :
    BKeeps z (if c then a else b) := by split <;> assumption

theorem State.bind_keeps {z s : State} (hk : Keeps z s) (r : Rec) (k h : Nat) : BKeeps z (s.bind r k h) := by
  unfold State.bind
  dsimp only
  repeat' first
    | with_reducible assumption
    | with_reducible apply bkeeps_ite
    | with_reducible apply bkeeps_good
    | with_reducible apply bkeeps_bad
    | with_reducible apply State.putEntry_keeps
    | with_reducible apply State.memFull_keeps
    | with_reducible apply State.allocFor_keeps
    | split

theorem bindSlots_keeps {z s : State} (hk : Keeps z s) (i : Inst) (l : List (Nat × Nat × Nat)) :
    Keeps z (bindSlots s i l).1 := by
  induction l generalizing s i with
  | nil => exact hk
  | cons x r ih =>
    obtain ⟨k, h, need⟩ := x
    unfold bindSlots
    split
    · split
      · exact hk
      · exact ih hk i
    · split
      · exact ih hk i
      · split
        · exact (State.bind_keeps hk _ _ _).bad _ _ (by assumption)
        · exact ih ((State.bind_keeps hk _ _ _).good _ _ _ (by assumption)) _

theorem State.bindLast_keeps {z s : State} (hk : Keeps z s) (id : Nat) :
    Keeps z (State.bindLast s id) := by
  unfold State.bindLast
  repeat' first
    | with_reducible assumption | with_reducible apply State.putInst_keeps | with_reducible apply bindSlots_keeps
    | with_reducible apply keeps_ite | split

theorem State.endChain_keeps {z s : State} (hk : Keeps z s) (ids : List Nat) (st : Nat) :
    Keeps z (State.endChain s ids st) := by
  unfold State.endChain
  repeat' first
    | with_reducible assumption | intro _ | with_reducible apply State.modInst_keeps
    | with_reducible apply keeps_foldl

theorem State.closeChain_keeps {z s : State} (hk : Keeps z s) (q : Nat) :
    Keeps z (State.closeChain s q) := by
  unfold State.closeChain
  repeat' first
    | with_reducible assumption | intro _ | with_reducible apply State.modInst_keeps
    | with_reducible apply State.putQst_keeps | with_reducible apply State.bindLast_keeps
    | with_reducible apply State.endChain_keeps | with_reducible apply keeps_foldl | split | dsimp only

theorem State.fails_keeps {z s : State} (hk : Keeps z s) (i : Inst) (st : Nat) :
    Keeps z (State.fails s i st) := by
  unfold State.fails
  repeat' first | with_reducible assumption | with_reducible apply State.putInst_keeps

theorem State.claimFails_keeps {z s : State} (hk : Keeps z s) (i : Inst) :
    Keeps z (State.claimFails s i) := by
  unfold State.claimFails
  repeat' first
    | with_reducible assumption | with_reducible apply State.valleyFull_keeps | with_reducible apply State.fails_keeps
    | with_reducible apply keeps_ite

theorem State.fillFrame_keeps {z s : State} (hk : Keeps z s) (i : Inst) (data : List Byte) (flags : Nat) :
    Keeps z (State.fillFrame s i data flags) := by
  unfold State.fillFrame
  repeat' first
    | with_reducible assumption | with_reducible apply State.putFrame_keeps | with_reducible apply keeps_ite | split

theorem State.finishes_keeps {z s : State} (hk : Keeps z s) (i : Inst) (sat nf result : Nat) :
    Keeps z (State.finishes s i sat nf result) := by
  unfold State.finishes
  repeat' first | with_reducible assumption | with_reducible apply State.putInst_keeps

theorem State.checkFails_keeps {z s : State} (hk : Keeps z s) (i : Inst) (reason detail : Nat) :
    Keeps z (State.checkFails s i reason detail) := by
  unfold State.checkFails
  repeat' first
    | with_reducible assumption | intro _ | with_reducible apply State.failCheck_keeps
    | with_reducible apply State.modInst_keeps | with_reducible apply State.endChain_keeps
    | with_reducible apply keeps_ite | with_reducible apply keeps_foldl

theorem State.readFails_keeps {z s : State} (hk : Keeps z s) (i : Inst) (reason : Nat) :
    Keeps z (State.readFails s i reason) := by
  unfold State.readFails
  repeat' first
    | with_reducible assumption | with_reducible apply State.stateError_keeps
    | with_reducible apply State.checkFails_keeps | with_reducible apply keeps_ite

theorem State.settleTags_keeps {z s : State} (hk : Keeps z s) (id : Nat) :
    Keeps z (State.settleTags s id) := by
  unfold State.settleTags
  repeat' first | with_reducible assumption | simp only [↓keeps_lit] | with_reducible apply keeps_ite | split

theorem State.startIf_keeps {z s : State} (hk : Keeps z s) (op id : Nat) (cond : Inst → Bool)
    (run : Inst → State) (h_run : ∀ a0, Keeps z (run a0)) :
    OKeeps z (State.startIf s op id cond run) := by
  unfold State.startIf
  repeat' first
    | with_reducible assumption | with_reducible apply h_run | with_reducible apply State.progress_keeps
    | with_reducible apply State.endChain_keeps | with_reducible apply State.readFails_keeps
    | with_reducible apply State.settleTags_keeps | with_reducible apply keeps_next | with_reducible apply okeeps_ite
    | split

theorem State.start_keeps {z s : State} (hk : Keeps z s) (op id : Nat) (run : Inst → State)
    (h_run : ∀ a0, Keeps z (run a0)) :
    OKeeps z (State.start s op id run) := by
  unfold State.start
  repeat' first | with_reducible assumption | with_reducible apply h_run | with_reducible apply State.startIf_keeps

theorem State.served_keeps {z s : State} (hk : Keeps z s) (q : Nat) :
    Keeps z (State.served s q) := by
  unfold State.served
  repeat' first | with_reducible assumption | simp only [↓keeps_lit]

theorem State.claimFrame_keeps {z s : State} (hk : Keeps z s) (i : Inst) : Keeps z (s.claimFrame i).1 := by
  unfold State.claimFrame
  split
  · exact hk
  · dsimp only
    split
    · rename_i t ht
      split at ht
      · exact (State.pushStat_keeps hk _ _ _ _ _ _).made _ ht
      · exact (State.pushFrame_keeps hk _ _ _).made _ ht
    · exact hk

theorem State.refreshDefer_keeps {z s : State} (hk : Keeps z s) :
    Keeps z (State.refreshDefer s) := by
  unfold State.refreshDefer
  repeat' first | with_reducible assumption | with_reducible apply State.setF_keeps | simp only [↓keeps_lit]

theorem State.noteDeferred_keeps {z s : State} (hk : Keeps z s) (i : Inst) :
    Keeps z (State.noteDeferred s i).1 := by
  unfold State.noteDeferred
  repeat' first | with_reducible assumption | simp only [↓keeps_lit]

theorem State.enqueue_keeps {z s : State} (hk : Keeps z s) (i : Inst) (joins : Bool) :
    Keeps z (State.enqueue s i joins) := by
  unfold State.enqueue
  repeat' first
    | with_reducible assumption | with_reducible apply State.modInst_keeps | with_reducible apply State.putQst_keeps
    | with_reducible apply State.bindLast_keeps | with_reducible apply State.closeChain_keeps | simp only [↓keeps_lit]
    | with_reducible apply keeps_ite

theorem State.noteDx_keeps {z s : State} (hk : Keeps z s) (r : Rec) :
    Keeps z (State.noteDx s r) := by
  unfold State.noteDx
  repeat' first | with_reducible assumption | with_reducible apply State.modPup_keeps | with_reducible apply keeps_ite

theorem State.countPass_keeps {z s : State} (hk : Keeps z s) (q : Nat) (r : Rec) :
    Keeps z (State.countPass s q r) := by
  unfold State.countPass
  repeat' first
    | with_reducible assumption | with_reducible apply State.modPass_keeps
    | with_reducible apply State.failCheck_keeps | with_reducible apply State.noteDx_keeps
    | with_reducible apply keeps_ite

theorem execRecordAdmission_keeps {z s : State} (hk : Keeps z s) (q : Nat) :
    OKeeps z (execRecordAdmission q s) := by
  unfold execRecordAdmission
  repeat' first
    | with_reducible assumption | with_reducible apply State.setF_keeps | with_reducible apply State.failCheck_keeps
    | with_reducible apply bindSlots_keeps | with_reducible apply State.closeChain_keeps
    | with_reducible apply State.served_keeps | with_reducible apply State.claimFrame_keeps
    | with_reducible apply State.refreshDefer_keeps | with_reducible apply State.noteDeferred_keeps
    | with_reducible apply State.enqueue_keeps | with_reducible apply State.countPass_keeps | simp only [↓keeps_lit]
    | with_reducible apply keeps_next | with_reducible apply keeps_ite | with_reducible apply okeeps_ite

theorem execChainClose_keeps {z s : State} (hk : Keeps z s) (q : Nat) :
    OKeeps z (execChainClose q s) := by
  unfold execChainClose
  repeat' first
    | with_reducible assumption | with_reducible apply State.closeChain_keeps | with_reducible apply keeps_next
    | with_reducible apply okeeps_ite | split

theorem State.hostWriteLost_keeps {z s : State} (hk : Keeps z s) (addr : Nat) :
    Keeps z (State.hostWriteLost s addr) := by
  unfold State.hostWriteLost
  repeat' first
    | with_reducible assumption | with_reducible apply State.addF_keeps | with_reducible apply State.ev_keeps

theorem State.writeCq_keeps {z s : State} (hk : Keeps z s) (n : Nat) (b : List Byte) :
    Keeps z (State.writeCq s n b) := by
  unfold State.writeCq
  repeat' first
    | with_reducible assumption | with_reducible apply State.setF_keeps | with_reducible apply State.wrBytes_keeps
    | with_reducible apply State.msi_keeps | with_reducible apply State.hostWrite_keeps
    | with_reducible apply State.hostWriteLost_keeps | simp only [↓keeps_lit] | with_reducible apply keeps_ite

theorem State.drainCq_keeps {z s : State} (hk : Keeps z s) (n : Nat) (l : List (List Byte)) : Keeps z (s.drainCq n l) := by
  induction l generalizing s with
  | nil => exact keeps_mk hk
  | cons b r ih =>
    unfold State.drainCq
    split
    · exact keeps_mk hk
    · exact ih (State.writeCq_keeps hk _ _)

theorem State.noteCqFull_keeps {z s : State} (hk : Keeps z s) (n : Nat) :
    Keeps z (State.noteCqFull s n) := by
  unfold State.noteCqFull
  repeat' first
    | with_reducible assumption | with_reducible apply State.ev_keeps | simp only [↓keeps_lit]
    | with_reducible apply keeps_ite

theorem State.stopLoop_keeps {z s : State} (hk : Keeps z s) (reason : Nat) :
    Keeps z (State.stopLoop s reason) := by
  unfold State.stopLoop
  repeat' first | with_reducible assumption | with_reducible apply State.setF_keeps

theorem State.programError_keeps {z s : State} (hk : Keeps z s) (i : Inst) :
    Keeps z (State.programError s i) := by
  unfold State.programError
  repeat' first
    | with_reducible assumption | with_reducible apply State.evI_keeps | with_reducible apply State.failCheck_keeps
    | with_reducible apply State.stopLoop_keeps | with_reducible apply keeps_ite | split

theorem State.settleFrames_keeps {z s : State} (hk : Keeps z s) (i : Inst) :
    Keeps z (State.settleFrames s i) := by
  unfold State.settleFrames
  repeat' first
    | with_reducible assumption | intro _ | with_reducible apply State.putFrame_keeps
    | with_reducible apply State.consumeFrame_keeps | with_reducible apply keeps_ite
    | with_reducible apply keeps_foldl | split

theorem State.deferPaired_keeps {z s : State} (hk : Keeps z s) (i : Inst) :
    Keeps z (State.deferPaired s i) := by
  unfold State.deferPaired
  repeat' first
    | with_reducible assumption | with_reducible apply State.modAll_keeps | simp only [↓keeps_lit]
    | with_reducible apply keeps_ite

theorem State.queueNotes_keeps {z s : State} (hk : Keeps z s) (i : Inst) :
    Keeps z (State.queueNotes s i) := by
  unfold State.queueNotes
  repeat' first
    | with_reducible assumption | with_reducible apply State.modAll_keeps | with_reducible apply State.putQst_keeps
    | with_reducible apply keeps_ite

theorem State.dropOld_keeps {z s : State} (hk : Keeps z s) :
    Keeps z (State.dropOld s) := by
  unfold State.dropOld
  repeat' first
    | with_reducible assumption | with_reducible apply State.keepFrames_keeps | with_reducible apply keeps_ite

theorem State.dropPosts_keeps {z s : State} (hk : Keeps z s) :
    Keeps z (State.dropPosts s) := by
  unfold State.dropPosts
  repeat' first | with_reducible assumption | simp only [↓keeps_lit]

theorem State.failConsumers_keeps {z s : State} (hk : Keeps z s) (i : Inst) :
    Keeps z (State.failConsumers s i) := by
  unfold State.failConsumers
  repeat' first | with_reducible assumption | with_reducible apply State.modAll_keeps | with_reducible apply keeps_ite

theorem State.completed_keeps {z s : State} (hk : Keeps z s) (i : Inst) :
    Keeps z (State.completed s i) := by
  unfold State.completed
  repeat' first
    | with_reducible assumption | with_reducible apply State.signal_keeps | with_reducible apply State.dropInst_keeps
    | with_reducible apply State.progress_keeps | with_reducible apply State.refreshDefer_keeps
    | with_reducible apply State.programError_keeps | with_reducible apply State.settleFrames_keeps
    | with_reducible apply State.deferPaired_keeps | with_reducible apply State.queueNotes_keeps
    | with_reducible apply State.dropOld_keeps | with_reducible apply State.dropPosts_keeps
    | with_reducible apply State.failConsumers_keeps | simp only [↓keeps_lit] | with_reducible apply keeps_ite

theorem State.atCompletion_keeps {z s : State} (hk : Keeps z s) (i : Inst) :
    Keeps z (State.atCompletion s i).1 := by
  unfold State.atCompletion
  repeat' first
    | with_reducible assumption | with_reducible apply State.wrElems_keeps | with_reducible apply keeps_ite
    | with_reducible apply keeps_ite1

theorem execInstructionCompletion_keeps {z s0 : State} (hk : Keeps z s0) (id : Nat) :
    OKeeps z (execInstructionCompletion id s0) := by
  unfold execInstructionCompletion
  repeat' first
    | with_reducible assumption | with_reducible apply State.writeCq_keeps
    | with_reducible apply State.noteCqFull_keeps | with_reducible apply State.completed_keeps
    | with_reducible apply State.atCompletion_keeps | simp only [↓keeps_lit] | with_reducible apply keeps_next
    | with_reducible apply okeeps_ite | split

theorem execStall_keeps {z s : State} (hk : Keeps z s) :
    OKeeps z (execStall s) := by
  unfold execStall
  repeat' first
    | with_reducible assumption | with_reducible apply State.setF_keeps | with_reducible apply State.evI_keeps
    | with_reducible apply State.failCheck_keeps | simp only [↓keeps_lit] | with_reducible apply keeps_next
    | with_reducible apply keeps_ite | with_reducible apply okeeps_ite | split

end Sys2Proof.Machine
end

