-- ==== Sys2Proof/Laws/KeepsUnits.lean ====
section
/-! SUPPORT. What every step keeps, went on with: the lemmas `<f>_keeps` of Laws/KeepsSched.lean for
the digital grids, the array and the movers. -/

namespace Sys2Proof.Machine

set_option linter.unusedTactic false
set_option linter.unreachableTactic false
set_option linter.unusedVariables false
set_option Elab.async false

theorem State.stampUnit_keeps {z s : State} (hk : Keeps z s) (k : SleepKind) (n : Nat) :
    Keeps z (State.stampUnit s k n) := by
  unfold State.stampUnit
  repeat' first | with_reducible assumption | simp only [↓keeps_lit]

theorem State.runItem_keeps {z s : State} (hk : Keeps z s) (i : Inst) (g : Nat) :
    Keeps z (State.runItem s i g) := by
  unfold State.runItem
  repeat' first | with_reducible assumption | simp only [↓keeps_lit]

theorem State.dispatch_keeps {z s : State} (hk : Keeps z s) :
    Keeps z (State.dispatch s) := by
  unfold State.dispatch
  repeat' first
    | with_reducible assumption | intro _ | with_reducible apply State.runItem_keeps | with_reducible apply keeps_ite
    | with_reducible apply keeps_foldl | split

theorem State.dropRuns_keeps {z s : State} (hk : Keeps z s) (p : Nat → Bool) :
    Keeps z (State.dropRuns s p) := by
  unfold State.dropRuns
  repeat' first | with_reducible assumption | simp only [↓keeps_lit]

theorem State.launchItems_keeps {z s : State} (hk : Keeps z s) (i : Inst) (items tiles result : Nat)
    (d : Desc) (e : Encoded) :
    Keeps z (State.launchItems s i items tiles result d e) := by
  unfold State.launchItems
  repeat' first
    | with_reducible assumption | with_reducible apply State.putInst_keeps | with_reducible apply State.dispatch_keeps

theorem State.readFrames_keeps {z s : State} (hk : Keeps z s) (i : Inst) :
    Keeps z (State.readFrames s i) := by
  unfold State.readFrames
  repeat' first
    | with_reducible assumption | intro _ | with_reducible apply State.readFrame_keeps
    | with_reducible apply keeps_foldl | split

theorem State.runGrid_keeps {z s : State} (hk : Keeps z s) (i : Inst) (st : Nat) (p : Product) (acc : Bool) :
    Keeps z (State.runGrid s i st p acc) := by
  unfold State.runGrid
  repeat' first
    | with_reducible assumption | with_reducible apply State.fails_keeps
    | with_reducible apply State.launchItems_keeps | with_reducible apply State.readFrames_keeps
    | with_reducible apply keeps_ite

theorem execGrdFwd_keeps {z s : State} (hk : Keeps z s) (id : Nat) :
    OKeeps z (execGrdFwd id s) := by
  unfold execGrdFwd
  repeat' first
    | with_reducible assumption | intro _ | with_reducible apply State.start_keeps
    | with_reducible apply State.runGrid_keeps

theorem execGrdDx_keeps {z s : State} (hk : Keeps z s) (id : Nat) :
    OKeeps z (execGrdDx id s) := by
  unfold execGrdDx
  repeat' first
    | with_reducible assumption | intro _ | with_reducible apply State.start_keeps
    | with_reducible apply State.runGrid_keeps

theorem execGrdDw_keeps {z s : State} (hk : Keeps z s) (id : Nat) :
    OKeeps z (execGrdDw id s) := by
  unfold execGrdDw
  repeat' first
    | with_reducible assumption | intro _ | with_reducible apply State.start_keeps
    | with_reducible apply State.runGrid_keeps

theorem State.postTiles_keeps {z s : State} (hk : Keeps z s) (id k : Nat) : Keeps z (s.postTiles id k) := by
  induction k generalizing s with
  | zero => exact hk
  | succ k ih =>
    unfold State.postTiles
    split
    · exact hk
    · refine keeps_ite hk (keeps_ite (ih (State.putInst_keeps hk _)) (keeps_ite ?_ (keeps_ite hk ?_)))
      · exact ih (State.putInst_keeps (State.setF_keeps (keeps_mk hk) _ _) _)
      · exact State.putInst_keeps (State.addF_keeps hk _ _) _

theorem State.settleItem_keeps {z s : State} (hk : Keeps z s) (id p : Nat) :
    Keeps z (State.settleItem s id p) := by
  unfold State.settleItem
  repeat' first
    | with_reducible assumption | intro _ | with_reducible apply State.putInst_keeps
    | with_reducible apply State.wrPart_keeps | with_reducible apply State.postTiles_keeps
    | with_reducible apply keeps_ite | with_reducible apply keeps_foldl | split

theorem State.commitRun_keeps {z s : State} (hk : Keeps z s) (id : Nat) :
    Keeps z (State.commitRun s id) := by
  unfold State.commitRun
  repeat' first
    | with_reducible assumption | intro _ | with_reducible apply State.putInst_keeps
    | with_reducible apply State.coverLines_keeps | with_reducible apply State.settleTags_keeps
    | with_reducible apply keeps_ite | with_reducible apply keeps_foldl | split

theorem State.endItem_keeps {z s : State} (hk : Keeps z s) (i : Inst) (r : GridRun) (agree : Bool) :
    Keeps z (State.endItem s i r agree) := by
  unfold State.endItem
  repeat' first
    | with_reducible assumption | with_reducible apply State.putInst_keeps
    | with_reducible apply State.settleItem_keeps | with_reducible apply State.commitRun_keeps
    | simp only [↓keeps_lit] | with_reducible apply keeps_ite

theorem State.itemEnds_keeps {z s : State} (hk : Keeps z s) (r : GridRun) :
    Keeps z (State.itemEnds s r) := by
  unfold State.itemEnds
  repeat' first
    | with_reducible assumption | with_reducible apply State.addF_keeps | with_reducible apply State.stampUnit_keeps
    | simp only [↓keeps_lit]

theorem execGridItem_keeps {z s0 : State} (hk : Keeps z s0) (id g : Nat) (agree : Bool) :
    OKeeps z (execGridItem id g agree s0) := by
  have hd := State.dispatch_keeps hk
  unfold execGridItem
  dsimp only
  split
  · exact keeps_next hk
  · have h1 := fun r => State.itemEnds_keeps hd r
    split
    · exact keeps_next (State.dispatch_keeps (h1 _))
    · exact okeeps_ite (keeps_next (State.dispatch_keeps (h1 _)))
        (keeps_next (State.dispatch_keeps (State.endItem_keeps (h1 _) _ _ _)))

theorem execFtqPost_keeps {z s : State} (hk : Keeps z s) :
    OKeeps z (execFtqPost s) := by
  unfold execFtqPost
  repeat' first
    | with_reducible assumption | with_reducible apply State.postTiles_keeps | with_reducible apply keeps_next | split

theorem State.showQuarantine_keeps {z s : State} (hk : Keeps z s) :
    Keeps z (State.showQuarantine s) := by
  unfold State.showQuarantine
  repeat' first | with_reducible assumption | with_reducible apply State.setF_keeps

theorem State.stopGrids_keeps {z s : State} (hk : Keeps z s) :
    Keeps z (State.stopGrids s) := by
  unfold State.stopGrids
  repeat' first | with_reducible assumption | with_reducible apply State.modAll_keeps | with_reducible apply keeps_ite

theorem State.quarantine_keeps {z s : State} (hk : Keeps z s) (k : UnitKind) (n : Nat) :
    Keeps z (State.quarantine s k n) := by
  unfold State.quarantine
  repeat' first
    | with_reducible assumption | with_reducible apply State.ev_keeps
    | with_reducible apply State.showQuarantine_keeps | with_reducible apply State.stopGrids_keeps
    | simp only [↓keeps_lit] | with_reducible apply keeps_ite

theorem State.withhold_keeps {z s : State} (hk : Keeps z s) (k : UnitKind) (n id code : Nat) :
    Keeps z (State.withhold s k n id code) := by
  unfold State.withhold
  repeat' first
    | with_reducible assumption | with_reducible apply State.failCheck_keeps
    | with_reducible apply State.checkFails_keeps | split

theorem State.clearDoubt_keeps {z s : State} (hk : Keeps z s) (k : UnitKind) (n id : Nat) :
    Keeps z (State.clearDoubt s k n id) := by
  unfold State.clearDoubt
  repeat' first
    | with_reducible assumption | with_reducible apply State.putInst_keeps
    | with_reducible apply State.settleItem_keeps | split

theorem execDigitalArbitration_keeps {z s : State} (hk : Keeps z s) (k : UnitKind) (n id : Nat) (v : ArbVerdict) :
    OKeeps z (execDigitalArbitration k n id v s) := by
  unfold execDigitalArbitration
  repeat' first
    | with_reducible assumption | with_reducible apply State.addF_keeps | with_reducible apply State.ev_keeps
    | with_reducible apply State.commitRun_keeps | with_reducible apply State.quarantine_keeps
    | with_reducible apply State.withhold_keeps | with_reducible apply State.clearDoubt_keeps | simp only [↓keeps_lit]
    | with_reducible apply keeps_next | with_reducible apply okeeps_ite | split

theorem State.tagLines_keeps {z s : State} (hk : Keeps z s) (id : Nat) (l : List (Nat × Nat)) :
    Keeps z (State.tagLines s id l) := by
  unfold State.tagLines
  repeat' first
    | with_reducible assumption | intro _ | with_reducible apply State.addPoison_keeps
    | with_reducible apply keeps_foldl

theorem State.runAgain_keeps {z s : State} (hk : Keeps z s) (i : Inst) :
    Keeps z (State.runAgain s i) := by
  unfold State.runAgain
  repeat' first
    | with_reducible assumption | with_reducible apply State.putInst_keeps | with_reducible apply State.modAll_keeps
    | with_reducible apply State.dropRuns_keeps | simp only [↓keeps_lit]

theorem execPartFailure_keeps {z s : State} (hk : Keeps z s) (id unit : Nat) :
    OKeeps z (execPartFailure id unit s) := by
  unfold execPartFailure
  repeat' first
    | with_reducible assumption | with_reducible apply State.tick_keeps | with_reducible apply State.checkFails_keeps
    | with_reducible apply State.dispatch_keeps | with_reducible apply State.quarantine_keeps
    | with_reducible apply State.tagLines_keeps | with_reducible apply State.runAgain_keeps
    | with_reducible apply keeps_next | with_reducible apply okeeps_ite | split

theorem State.putTile_keeps {z s : State} (hk : Keeps z s) (t : Nat) (x : Tile) :
    Keeps z (State.putTile s t x) := by
  unfold State.putTile
  repeat' first | with_reducible assumption | simp only [↓keeps_lit]

theorem State.modTile_keeps {z s : State} (hk : Keeps z s) (t : Nat) (g : Tile → Tile) :
    Keeps z (State.modTile s t g) := by
  unfold State.modTile
  repeat' first | with_reducible assumption | with_reducible apply State.putTile_keeps

theorem State.modTiles_keeps {z s : State} (hk : Keeps z s) (g : Tile → Tile) :
    Keeps z (State.modTiles s g) := by
  unfold State.modTiles
  repeat' first | with_reducible assumption | simp only [↓keeps_lit]

theorem State.putLayer_keeps {z s : State} (hk : Keeps z s) (h : Nat) (l : Layer) :
    Keeps z (State.putLayer s h l) := by
  unfold State.putLayer
  repeat' first | with_reducible assumption | simp only [↓keeps_lit]

theorem State.modLayer_keeps {z s : State} (hk : Keeps z s) (h : Nat) (g : Layer → Layer) :
    Keeps z (State.modLayer s h g) := by
  unfold State.modLayer
  repeat' first | with_reducible assumption | simp only [↓keeps_lit]

theorem State.modLayers_keeps {z s : State} (hk : Keeps z s) (g : Layer → Layer) :
    Keeps z (State.modLayers s g) := by
  unfold State.modLayers
  repeat' first | with_reducible assumption | simp only [↓keeps_lit]

theorem State.reevaluate_keeps {z s : State} (hk : Keeps z s) (t : Nat) (shadow : Bool) (held : Nat) :
    Keeps z (State.reevaluate s t shadow held) := by
  unfold State.reevaluate
  repeat' first
    | with_reducible assumption | intro _ | with_reducible apply State.addF_keeps
    | with_reducible apply State.ev_keeps | with_reducible apply State.putTile_keeps
    | with_reducible apply State.modLayer_keeps | with_reducible apply keeps_ite | split | dsimp only

theorem State.enterFallback_keeps {z s : State} (hk : Keeps z s) (h route : Nat) :
    Keeps z (State.enterFallback s h route) := by
  unfold State.enterFallback
  repeat' first
    | with_reducible assumption | intro _ | with_reducible apply State.ev_keeps
    | with_reducible apply State.modTile_keeps | with_reducible apply State.putLayer_keeps
    | with_reducible apply keeps_ite | with_reducible apply keeps_foldl | split

theorem State.fallsBack_keeps {z s : State} (hk : Keeps z s) (h route : Nat) :
    Keeps z (State.fallsBack s h route) := by
  unfold State.fallsBack
  repeat' first
    | with_reducible assumption | with_reducible apply State.modLayer_keeps
    | with_reducible apply State.enterFallback_keeps | with_reducible apply keeps_ite

theorem State.leaveFallback_keeps {z s : State} (hk : Keeps z s) (h : Nat) :
    Keeps z (State.leaveFallback s h) := by
  unfold State.leaveFallback
  repeat' first
    | with_reducible assumption | with_reducible apply State.ev_keeps | with_reducible apply State.putLayer_keeps
    | with_reducible apply keeps_ite | split

theorem State.endWaiters_keeps {z s : State} (hk : Keeps z s) (op : Nat) :
    Keeps z (State.endWaiters s op) := by
  unfold State.endWaiters
  repeat' first
    | with_reducible assumption | intro _ | with_reducible apply State.putInst_keeps
    | with_reducible apply State.modLayer_keeps | with_reducible apply keeps_ite | with_reducible apply keeps_foldl
    | split

theorem State.sealTile_keeps {z s : State} (hk : Keeps z s) (t : Nat) (b : Batch) :
    Keeps z (State.sealTile s t b) := by
  unfold State.sealTile
  repeat' first
    | with_reducible assumption | with_reducible apply State.modAll_keeps | with_reducible apply State.modTile_keeps
    | with_reducible apply State.reevaluate_keeps | with_reducible apply State.endWaiters_keeps
    | with_reducible apply keeps_ite

theorem State.retire_keeps {z s : State} (hk : Keeps z s) (t state reason : Nat) :
    Keeps z (State.retire s t state reason) := by
  unfold State.retire
  repeat' first
    | with_reducible assumption | intro _ | with_reducible apply State.ev_keeps
    | with_reducible apply State.modAll_keeps | with_reducible apply State.modTile_keeps
    | with_reducible apply State.putLayer_keeps | with_reducible apply State.fallsBack_keeps
    | with_reducible apply State.endWaiters_keeps | with_reducible apply keeps_ite | split | dsimp only

theorem State.columnFails_keeps {z s : State} (hk : Keeps z s) (t p : Nat) :
    Keeps z (State.columnFails s t p) := by
  unfold State.columnFails
  repeat' first
    | with_reducible assumption | with_reducible apply State.ev_keeps | with_reducible apply State.modTile_keeps
    | with_reducible apply State.retire_keeps | with_reducible apply keeps_ite

theorem State.columnsFail_keeps {z s : State} (hk : Keeps z s) (t : Nat) (ps : List Nat) :
    Keeps z (State.columnsFail s t ps) := by
  unfold State.columnsFail
  repeat' first
    | with_reducible assumption | intro _ | with_reducible apply State.columnFails_keeps
    | with_reducible apply keeps_ite | with_reducible apply keeps_foldl

theorem State.endScrub_keeps {z s : State} (hk : Keeps z s) :
    Keeps z (State.endScrub s) := by
  unfold State.endScrub
  repeat' first
    | with_reducible assumption | with_reducible apply State.setF_keeps | with_reducible apply State.ev_keeps
    | with_reducible apply State.modAll_keeps | simp only [↓keeps_lit] | with_reducible apply keeps_ite

theorem State.startScrub_keeps {z s : State} (hk : Keeps z s) (ts : List Nat) (cmd : Bool) :
    Keeps z (State.startScrub s ts cmd) := by
  unfold State.startScrub
  repeat' first
    | with_reducible assumption | intro _ | with_reducible apply State.setF_keeps
    | with_reducible apply State.modTile_keeps | with_reducible apply State.endScrub_keeps | simp only [↓keeps_lit]
    | with_reducible apply keeps_foldl

theorem State.scrubRow_keeps {z s : State} (hk : Keeps z s) (t : Nat) (b : Batch) (r : Nat)
    (rest : List Nat) (bad : Bool) :
    Keeps z (State.scrubRow s t b r rest bad) := by
  unfold State.scrubRow
  repeat' first
    | with_reducible assumption | with_reducible apply State.putTile_keeps | with_reducible apply State.endScrub_keeps
    | simp only [↓keeps_lit] | with_reducible apply keeps_ite

theorem State.rowWritten_keeps {z s : State} (hk : Keeps z s) (tile : Nat) (l : Layer) (b : Batch)
    (r : Nat) (rest failed : List Nat) :
    Keeps z (State.rowWritten s tile l b r rest failed) := by
  unfold State.rowWritten
  repeat' first
    | with_reducible assumption | intro _ | with_reducible apply State.modPup_keeps
    | with_reducible apply State.putTile_keeps | with_reducible apply State.sealTile_keeps
    | with_reducible apply State.columnsFail_keeps | with_reducible apply keeps_ite | split | dsimp only

theorem execRowWrite_keeps {z s : State} (hk : Keeps z s) (tile : Nat) (failed : List Nat) :
    OKeeps z (execRowWrite tile failed s) := by
  unfold execRowWrite
  repeat' first
    | with_reducible assumption | intro _ | with_reducible apply State.scrubRow_keeps
    | with_reducible apply State.rowWritten_keeps | with_reducible apply keeps_next | with_reducible apply okeeps_ite
    | split | dsimp only

theorem State.markDirty_keeps {z s : State} (hk : Keeps z s) (p : Nat) :
    Keeps z (State.markDirty s p) := by
  unfold State.markDirty
  repeat' first
    | with_reducible assumption | intro _ | with_reducible apply State.putTile_keeps | with_reducible apply keeps_ite
    | with_reducible apply keeps_foldl | split | dsimp only

theorem State.startCrossing_keeps {z s : State} (hk : Keeps z s) (shadow : Bool) (step t : Nat) :
    Keeps z (State.startCrossing s shadow step t) := by
  unfold State.startCrossing
  repeat' first
    | with_reducible assumption | with_reducible apply State.putTile_keeps
    | with_reducible apply State.reevaluate_keeps | with_reducible apply keeps_ite

theorem execLevelCrossingStart_keeps {z s : State} (hk : Keeps z s) (layer : Nat) :
    OKeeps z (execLevelCrossingStart layer s) := by
  unfold execLevelCrossingStart
  repeat' first
    | with_reducible assumption | intro _ | with_reducible apply State.modLayer_keeps
    | with_reducible apply State.startCrossing_keeps | simp only [↓keeps_lit] | with_reducible apply keeps_next
    | with_reducible apply okeeps_ite | with_reducible apply keeps_foldl | split

theorem execWearWarn_keeps {z s : State} (hk : Keeps z s) (tile : Nat) :
    OKeeps z (execWearWarn tile s) := by
  unfold execWearWarn
  repeat' first
    | with_reducible assumption | with_reducible apply State.ev_keeps | with_reducible apply State.putTile_keeps
    | with_reducible apply keeps_next | with_reducible apply okeeps_ite

theorem execWearRetire_keeps {z s : State} (hk : Keeps z s) (tile : Nat) :
    OKeeps z (execWearRetire tile s) := by
  unfold execWearRetire
  repeat' first
    | with_reducible assumption | with_reducible apply State.retire_keeps | with_reducible apply keeps_next
    | with_reducible apply okeeps_ite

theorem execSuspectReprogram_keeps {z s : State} (hk : Keeps z s) (tile : Nat) : OKeeps z (execSuspectReprogram tile s) := by
  have hf : ∀ x, Keeps z (s.putTile tile x) := fun x => State.putTile_keeps hk _ _
  have hr : ∀ a b, Keeps z (s.retire tile a b) := fun a b => State.retire_keeps hk _ _ _
  unfold execSuspectReprogram
  dsimp only
  split
  · exact keeps_next hk
  · refine okeeps_ite (keeps_next hk) (okeeps_ite (keeps_next (hr _ _)) (okeeps_ite (keeps_next hk) (okeeps_ite ?_ ?_)))
    · generalize State.staleRows _ _ _ = rows
      cases rows
      · exact keeps_next (hr _ _)
      · exact keeps_next (hf _)
    · exact keeps_next (hf _)

theorem execCalibrationDue_keeps {z s : State} (hk : Keeps z s) (tile : Nat) :
    OKeeps z (execCalibrationDue tile s) := by
  unfold execCalibrationDue
  repeat' first
    | with_reducible assumption | with_reducible apply State.putTile_keeps | with_reducible apply keeps_next
    | with_reducible apply okeeps_ite

theorem State.fitOne_keeps {z s : State} (hk : Keeps z s) (t p : Nat) (conv : List Readings) :
    Keeps z (State.fitOne s t p conv) := by
  unfold State.fitOne
  repeat' first
    | with_reducible assumption | intro _ | with_reducible apply State.ev_keeps
    | with_reducible apply State.putTile_keeps | with_reducible apply keeps_ite | split | dsimp only

theorem execCalibration_keeps {z s : State} (hk : Keeps z s) (tile : Nat) (ys : List (List Readings)) :
    OKeeps z (execCalibration tile ys s) := by
  unfold execCalibration
  repeat' first
    | with_reducible assumption | intro _ | with_reducible apply State.modAll_keeps
    | with_reducible apply State.putTile_keeps | with_reducible apply State.endWaiters_keeps
    | with_reducible apply State.retire_keeps | with_reducible apply State.fitOne_keeps
    | with_reducible apply keeps_next | with_reducible apply okeeps_ite | with_reducible apply keeps_foldl

theorem State.setMaster_keeps {z s : State} (hk : Keeps z s) (p v : Nat) :
    Keeps z (State.setMaster s p v) := by
  unfold State.setMaster
  repeat' first | with_reducible assumption | simp only [↓keeps_lit]

theorem State.oldMaster_keeps {z s : State} (hk : Keeps z s) (p : Nat) :
    Keeps z (State.oldMaster s old p) := by
  unfold State.oldMaster
  repeat' first | with_reducible assumption | simp only [↓keeps_lit]

theorem State.putRaw_keeps {z s : State} (hk : Keeps z s) (d : Desc) (k v : Nat) :
    Keeps z (State.putRaw s d k v) := by
  unfold State.putRaw
  repeat' first
    | with_reducible assumption | with_reducible apply State.wrBits_keeps | with_reducible apply State.setMaster_keeps
    | with_reducible apply keeps_ite

theorem copyElems_keeps {z s : State} (hk : Keeps z s) (dst src : Desc) (c : Nat) :
    Keeps z (copyElems s dst src c).1 := by
  unfold copyElems
  repeat' first
    | with_reducible assumption | intro _ | with_reducible apply State.wrBytes_keeps
    | with_reducible apply State.putRaw_keeps | with_reducible apply keeps_ite | with_reducible apply keeps_foldl

theorem copyExps_keeps {z s : State} (hk : Keeps z s) (dst src : Desc) (c : Nat) :
    Keeps z (copyExps s dst src c) := by
  unfold copyExps
  repeat' first
    | with_reducible assumption | intro _ | with_reducible apply State.wr_keeps | with_reducible apply keeps_foldl

theorem State.torn_keeps {z new : State} (hk : Keeps z new) (old : State) (space : Nat) (ranges : List (Nat × Nat)) :
    Keeps z (State.torn old new space ranges) :=
  keeps_foldl (State.tick_keeps hk) (fun t a h => by
    split
    · exact h
    · exact State.wr_keeps h _ _ _)

theorem State.tornMasters_keeps {z new : State} (hk : Keeps z new) (old : State) (lo n : Nat) :
    Keeps z (State.tornMasters old new lo n) :=
  keeps_foldl (State.tick_keeps hk) (fun t a h => by
    split
    · exact h
    · exact State.oldMaster_keeps h _)

theorem State.withholdBlock_keeps {z new : State} (hk : Keeps z new) (old : State) (x : Rows) (b : Nat) :
    Keeps z (State.withholdBlock old new x b) := keeps_foldl hk (fun _ _ h => State.wr_keeps h _ _ _)

theorem State.badDesc_keeps {z s : State} (hk : Keeps z s) (i : Inst) (tag addr code : Nat) :
    Keeps z (State.badDesc s i tag addr code) := by
  unfold State.badDesc
  repeat' first
    | with_reducible assumption | with_reducible apply State.addF_keeps | with_reducible apply State.evI_keeps

theorem State.channelDone_keeps {z s : State} (hk : Keeps z s) (n done bad : Nat) :
    Keeps z (State.channelDone s n done bad) := by
  unfold State.channelDone
  repeat' first | with_reducible assumption | with_reducible apply State.setF_keeps

theorem copyPart_keeps {z s : State} (hk : Keeps z s) (dst src : Desc) (n : Nat) :
    Keeps z (copyPart s dst src n).1 := by
  unfold copyPart
  repeat' first
    | with_reducible assumption | with_reducible apply copyElems_keeps | with_reducible apply copyExps_keeps
    | with_reducible apply keeps_ite1

theorem copyParts_keeps {z : State} {r : State × Nat} (hk : Keeps z r.1) (i : Inst) (dst src : Desc) (code : Nat) (l : List Nat)
    (bad : Nat) : Keeps z (copyParts i dst src code l bad r).1 := by
  induction l generalizing r bad with
  | nil =>
    unfold copyParts
    dsimp only
    split
    · exact hk
    · exact State.coverLines_keeps hk _
  | cons n l ih =>
    obtain ⟨s, sat⟩ := r
    unfold copyParts
    dsimp only
    split
    · refine ih ?_ _
      dsimp only
      split
      · exact State.badDesc_keeps (State.tornMasters_keeps (copyPart_keeps hk _ _ _) _ _ _) _ _ _ _
      · exact State.badDesc_keeps (State.torn_keeps (copyPart_keeps hk _ _ _) _ _ _) _ _ _ _
    · exact ih (r := ((copyPart s dst src n).1, sat + (copyPart s dst src n).2)) (copyPart_keeps hk _ _ _) _

theorem State.moverChecks_keeps {z s : State} (hk : Keeps z s) (i : Inst) (crc : MoverCrc)
    (hold : State → State → Nat × Nat → State) (run : State → State) (h_hold : ∀ a0 a1 a2, Keeps z a0 → Keeps z a1 → Keeps z (hold a0 a1 a2))
    (h_run : ∀ a0, Keeps z a0 → Keeps z (run a0)) :
    Keeps z (State.moverChecks s i crc hold run) := by
  unfold State.moverChecks
  repeat' first
    | with_reducible assumption | with_reducible apply h_hold | with_reducible apply h_run
    | with_reducible apply State.addF_keeps | with_reducible apply State.putInst_keeps
    | with_reducible apply State.checkFails_keeps | split

theorem Desc.holdCopy_keeps {z new : State} (hk : Keeps z new) (d : Desc) (old : State) (b : Nat × Nat) :
    Keeps z (d.holdCopy old new b) := by
  unfold Desc.holdCopy
  exact keeps_ite (keeps_foldl hk (fun _ _ h => State.oldMaster_keeps h _)) (State.withholdBlock_keeps hk _ _ _)

theorem execMovCopy_keeps {z s : State} (hk : Keeps z s) (id : Nat) (crc : MoverCrc) :
    OKeeps z (execMovCopy id crc s) := by
  unfold execMovCopy
  repeat' first
    | with_reducible assumption | intro _ | with_reducible apply State.setF_keeps
    | with_reducible apply State.tick_keeps | with_reducible apply State.putInst_keeps
    | with_reducible apply State.fails_keeps | with_reducible apply State.finishes_keeps
    | with_reducible apply State.start_keeps | with_reducible apply State.channelDone_keeps
    | with_reducible apply copyParts_keeps | with_reducible apply State.moverChecks_keeps
    | with_reducible apply Desc.holdCopy_keeps | with_reducible apply keeps_ite

theorem State.wrRow_keeps {z s : State} (hk : Keeps z s) (space b w : Nat) (l : List Nat) :
    Keeps z (s.wrRow space b w l) := by
  induction l generalizing s b with
  | nil => exact hk
  | cons v r ih => exact ih (State.wrBits_keeps hk _ _ _ _) (b + w)

theorem MovDesc.copy_keeps {z s : State} (hk : Keeps z s) (d : MovDesc) : Keeps z (d.copy s).1 :=
  keeps_foldl hk (fun t x h => State.wrRow_keeps h _ _ _ _)

theorem ListRun.one_keeps {z : State} {r : ListRun} (hk : Keeps z r.s) (i : Inst) (a : Nat) (d : MovDesc) :
    Keeps z (r.one i a d).s := by
  unfold ListRun.one
  dsimp only
  repeat' first
    | with_reducible assumption | intro _ | with_reducible apply State.setF_keeps
    | with_reducible apply State.tick_keeps | with_reducible apply State.evI_keeps
    | with_reducible apply State.badDesc_keeps | with_reducible apply State.wrNat_keeps
    | with_reducible apply State.torn_keeps | with_reducible apply MovDesc.copy_keeps
    | with_reducible apply State.unpoison_keeps | with_reducible apply keeps_ite | with_reducible apply keeps_foldl

theorem ListRun.go_keeps {z : State} {r : ListRun} (hk : Keeps z r.s) (i : Inst) (a k : Nat) : Keeps z (r.go i a k).s := by
  induction k generalizing r a with
  | zero => exact hk
  | succ k ih =>
    unfold ListRun.go
    split
    · exact hk
    · dsimp only
      split
      · exact ListRun.one_keeps hk _ _ _
      · exact ih (ListRun.one_keeps hk _ _ _) _

theorem holdList_keeps {z new : State} (hk : Keeps z new) (a : Nat) (old : State) (b : Nat × Nat) :
    Keeps z (holdList a old new b) := by
  unfold holdList
  exact keeps_ite hk (State.withholdBlock_keeps hk _ _ _)

theorem execMovList_keeps {z s : State} (hk : Keeps z s) (id : Nat) (crc : MoverCrc) : OKeeps z (execMovList id crc s) := by
  unfold execMovList
  repeat' first
    | with_reducible assumption | intro _ | with_reducible apply ListRun.go_keeps
    | with_reducible apply State.setF_keeps | with_reducible apply State.evI_keeps
    | with_reducible apply State.putInst_keeps | with_reducible apply State.fails_keeps
    | with_reducible apply State.finishes_keeps | with_reducible apply State.startIf_keeps
    | with_reducible apply State.channelDone_keeps | with_reducible apply State.moverChecks_keeps
    | with_reducible apply holdList_keeps | with_reducible apply keeps_ite

theorem execValPush_keeps {z s : State} (hk : Keeps z s) (id : Nat) (crc : MoverCrc) :
    OKeeps z (execValPush id crc s) := by
  unfold execValPush
  repeat' first
    | with_reducible assumption | intro _ | with_reducible apply State.fails_keeps
    | with_reducible apply State.claimFails_keeps | with_reducible apply State.fillFrame_keeps
    | with_reducible apply State.finishes_keeps | with_reducible apply State.start_keeps
    | with_reducible apply State.moverChecks_keeps | with_reducible apply keeps_ite | split

theorem execValPop_keeps {z s : State} (hk : Keeps z s) (id : Nat) (crc : MoverCrc) :
    OKeeps z (execValPop id crc s) := by
  unfold execValPop
  repeat' first
    | with_reducible assumption | intro _ | with_reducible apply State.coverLines_keeps
    | with_reducible apply State.readFrame_keeps | with_reducible apply State.fails_keeps
    | with_reducible apply State.finishes_keeps | with_reducible apply State.start_keeps
    | with_reducible apply copyElems_keeps | with_reducible apply copyExps_keeps
    | with_reducible apply State.moverChecks_keeps | with_reducible apply Desc.holdCopy_keeps
    | with_reducible apply keeps_ite | with_reducible apply keeps_foldl | split

theorem execValDrop_keeps {z s : State} (hk : Keeps z s) (id : Nat) :
    OKeeps z (execValDrop id s) := by
  unfold execValDrop
  repeat' first
    | with_reducible assumption | intro _ | with_reducible apply State.fails_keeps
    | with_reducible apply State.finishes_keeps | with_reducible apply State.start_keeps
    | with_reducible apply keeps_ite | split

theorem State.takeTiles_keeps {z s : State} (hk : Keeps z s) (h ct : Nat) (l : List (Nat × Nat)) :
    Keeps z (s.takeTiles h ct l) := by
  induction l generalizing s with
  | nil => exact hk
  | cons v r ih => exact ih (State.modTile_keeps hk _ _)

theorem execArrPlace_keeps {z s : State} (hk : Keeps z s) (id : Nat) :
    OKeeps z (execArrPlace id s) := by
  unfold execArrPlace
  repeat' first
    | with_reducible assumption | intro _ | with_reducible apply State.putEntry_keeps
    | with_reducible apply State.fails_keeps | with_reducible apply State.finishes_keeps
    | with_reducible apply State.start_keeps | with_reducible apply State.putLayer_keeps
    | with_reducible apply State.takeTiles_keeps | with_reducible apply keeps_ite | split

theorem execArrProgram_keeps {z s : State} (hk : Keeps z s) (id : Nat) :
    OKeeps z (execArrProgram id s) := by
  unfold execArrProgram
  repeat' first
    | with_reducible assumption | intro _ | with_reducible apply State.putInst_keeps
    | with_reducible apply State.fails_keeps | with_reducible apply State.startIf_keeps
    | with_reducible apply State.modTile_keeps | with_reducible apply State.putLayer_keeps
    | with_reducible apply State.endWaiters_keeps | with_reducible apply keeps_foldl | split

theorem State.releaseLayer_keeps {z s : State} (hk : Keeps z s) (h : Nat) :
    Keeps z (State.releaseLayer s h) := by
  unfold State.releaseLayer
  repeat' first
    | with_reducible assumption | intro _ | with_reducible apply State.modTile_keeps | simp only [↓keeps_lit]
    | with_reducible apply keeps_foldl | split

theorem execArrRelease_keeps {z s : State} (hk : Keeps z s) (id : Nat) :
    OKeeps z (execArrRelease id s) := by
  unfold execArrRelease
  repeat' first
    | with_reducible assumption | intro _ | with_reducible apply State.putEntry_keeps
    | with_reducible apply State.fails_keeps | with_reducible apply State.finishes_keeps
    | with_reducible apply State.startIf_keeps | with_reducible apply State.releaseLayer_keeps | split

theorem State.countTile_keeps {z s : State} (hk : Keeps z s) (s0 : State) (l : Layer) (i : Inst) (x : FwdIn) (v t : Nat) :
    Keeps z (State.countTile s0 s l i x v t) := by
  unfold State.countTile
  dsimp only
  split
  · exact State.putTile_keeps hk _ _
  · exact keeps_ite (keeps_mk (State.putTile_keeps hk _ _)) (keeps_mk (State.putTile_keeps hk _ _))

theorem State.disputeVetoes_keeps {z s : State} (hk : Keeps z s) (d : Dispute) :
    Keeps z (State.disputeVetoes s d) := by
  unfold State.disputeVetoes
  repeat' first
    | with_reducible assumption | with_reducible apply State.failCheck_keeps | with_reducible apply keeps_ite

theorem execArrayArbitration_keeps {z s : State} (hk : Keeps z s) (tile : Nat) (low high : List (List Int)) :
    OKeeps z (execArrayArbitration tile low high s) := by
  unfold execArrayArbitration
  repeat' first
    | with_reducible assumption | with_reducible apply State.ev_keeps | with_reducible apply State.modTile_keeps
    | with_reducible apply State.retire_keeps | with_reducible apply State.disputeVetoes_keeps
    | simp only [↓keeps_lit] | with_reducible apply keeps_next | with_reducible apply okeeps_ite | split

theorem State.takeNorm_keeps {z s : State} (hk : Keeps z s) (i : Inst) (h : Nat) (vs : List Val) :
    Keeps z (State.takeNorm s i h vs) := by
  unfold State.takeNorm
  repeat' first
    | with_reducible assumption | with_reducible apply State.modLayer_keeps | with_reducible apply keeps_ite

theorem State.stash_keeps {z s : State} (hk : Keeps z s) (i : Inst) :
    Keeps z (State.stash s i) := by
  unfold State.stash
  repeat' first
    | with_reducible assumption | with_reducible apply State.fillFrame_keeps | with_reducible apply keeps_ite

theorem State.fwdOnTiles_keeps {z s : State} (hk : Keeps z s) (i : Inst) (h : Nat) (l : Layer) :
    Keeps z (State.fwdOnTiles s i h l) := by
  unfold State.fwdOnTiles
  repeat' first
    | with_reducible assumption | intro _ | with_reducible apply State.tick_keeps
    | with_reducible apply State.putInst_keeps | with_reducible apply State.wrEncoded_keeps
    | with_reducible apply State.postTiles_keeps | with_reducible apply State.modLayer_keeps
    | with_reducible apply State.countTile_keeps | with_reducible apply State.takeNorm_keeps | simp only [↓keeps_lit]
    | with_reducible apply keeps_ite | with_reducible apply keeps_foldl

theorem State.fwdOnGrids_keeps {z s : State} (hk : Keeps z s) (i : Inst) (h : Nat) (l : Layer) (wide : Bool) :
    Keeps z (State.fwdOnGrids s i h l wide) := by
  unfold State.fwdOnGrids
  repeat' first
    | with_reducible assumption | with_reducible apply State.launchItems_keeps
    | with_reducible apply State.takeNorm_keeps

theorem State.fwdIdeal_keeps {z s : State} (hk : Keeps z s) (i : Inst) (l : Layer) :
    Keeps z (State.fwdIdeal s i l) := by
  unfold State.fwdIdeal
  repeat' first | with_reducible assumption | with_reducible apply State.launchItems_keeps

theorem execArrFwd_keeps {z s : State} (hk : Keeps z s) (id : Nat) :
    OKeeps z (execArrFwd id s) := by
  unfold execArrFwd
  repeat' first
    | with_reducible assumption | intro _ | with_reducible apply State.fails_keeps
    | with_reducible apply State.claimFails_keeps | with_reducible apply State.startIf_keeps
    | with_reducible apply State.stash_keeps | with_reducible apply State.fwdOnTiles_keeps
    | with_reducible apply State.fwdOnGrids_keeps | with_reducible apply State.fwdIdeal_keeps
    | with_reducible apply keeps_ite | split | dsimp only

theorem execArrLread_keeps {z s : State} (hk : Keeps z s) (id : Nat) :
    OKeeps z (execArrLread id s) := by
  unfold execArrLread
  repeat' first
    | with_reducible assumption | intro _ | with_reducible apply State.wrElems_keeps
    | with_reducible apply State.fails_keeps | with_reducible apply State.finishes_keeps
    | with_reducible apply State.startIf_keeps | with_reducible apply keeps_ite | split

theorem execArrFallback_keeps {z s : State} (hk : Keeps z s) (id : Nat) :
    OKeeps z (execArrFallback id s) := by
  unfold execArrFallback
  repeat' first
    | with_reducible assumption | intro _ | with_reducible apply State.fails_keeps
    | with_reducible apply State.finishes_keeps | with_reducible apply State.start_keeps
    | with_reducible apply State.putLayer_keeps | with_reducible apply State.enterFallback_keeps
    | with_reducible apply State.leaveFallback_keeps | with_reducible apply keeps_ite | split | dsimp only

theorem execArrCalib_keeps {z s : State} (hk : Keeps z s) (id : Nat) :
    OKeeps z (execArrCalib id s) := by
  unfold execArrCalib
  repeat' first
    | with_reducible assumption | intro _ | with_reducible apply State.putInst_keeps
    | with_reducible apply State.fails_keeps | with_reducible apply State.start_keeps
    | with_reducible apply State.modTile_keeps | with_reducible apply State.endWaiters_keeps
    | with_reducible apply keeps_foldl | split

end Sys2Proof.Machine
end

