-- ==== Sys2Proof/Laws/KeepsSteps.lean ====
section
/-! SUPPORT. What every step keeps, went on with: the lemmas `<f>_keeps` of Laws/KeepsSched.lean for
the reductions, the checkpoints, the commit of a step, recovery and takeover. -/

namespace Sys2Proof.Machine

set_option linter.unusedTactic false
set_option linter.unreachableTactic false
set_option linter.unusedVariables false
set_option Elab.async false

theorem State.putRank_keeps {z s : State} (hk : Keeps z s) (r fabric state tag : Nat) :
    Keeps z (State.putRank s r fabric state tag) := by
  unfold State.putRank
  repeat' first | with_reducible assumption | with_reducible apply State.wrNat_keeps

theorem State.setVersion_keeps {z s : State} (hk : Keeps z s) (v : Nat) :
    Keeps z (State.setVersion s v) := by
  unfold State.setVersion
  repeat' first
    | with_reducible assumption | with_reducible apply State.setF_keeps | with_reducible apply State.wrNat_keeps

theorem State.putPort_keeps {z s : State} (hk : Keeps z s) (p : Nat) (x : Port) :
    Keeps z (State.putPort s p x) := by
  unfold State.putPort
  repeat' first | with_reducible assumption | simp only [↓keeps_lit]

theorem State.modPort_keeps {z s : State} (hk : Keeps z s) (p : Nat) (g : Port → Port) :
    Keeps z (State.modPort s p g) := by
  unfold State.modPort
  repeat' first | with_reducible assumption | with_reducible apply State.putPort_keeps

theorem State.originate_keeps {z s : State} (hk : Keeps z s) (o : Origin) :
    Keeps z (State.originate s o) := by
  unfold State.originate
  repeat' first | with_reducible assumption | simp only [↓keeps_lit]

theorem State.sendCtl_keeps {z s : State} (hk : Keeps z s) (r : Nat) (m : CtlMsg) :
    Keeps z (State.sendCtl s r m) := by
  unfold State.sendCtl
  repeat' first | with_reducible assumption | with_reducible apply State.originate_keeps

theorem State.sendAll_keeps {z s : State} (hk : Keeps z s) (rs : List Nat) (m : CtlMsg) :
    Keeps z (State.sendAll s rs m) := by
  unfold State.sendAll
  repeat' first
    | with_reducible assumption | intro _ | with_reducible apply State.sendCtl_keeps
    | with_reducible apply keeps_foldl

theorem State.sendRed_keeps {z s : State} (hk : Keeps z s) (r : Nat) (b : RedBlock) :
    Keeps z (State.sendRed s r b) := by
  unfold State.sendRed
  repeat' first | with_reducible assumption | with_reducible apply State.originate_keeps

theorem State.sendReds_keeps {z s : State} (hk : Keeps z s) (rs : List Nat) (b : RedBlock) :
    Keeps z (State.sendReds s rs b) := by
  unfold State.sendReds
  repeat' first
    | with_reducible assumption | intro _ | with_reducible apply State.sendRed_keeps
    | with_reducible apply keeps_foldl

theorem State.flood_keeps {z s : State} (hk : Keeps z s) (m : CtlMsg) (but : Option Nat) :
    Keeps z (State.flood s m but) := by
  unfold State.flood
  repeat' first
    | with_reducible assumption | intro _ | with_reducible apply State.originate_keeps
    | with_reducible apply keeps_ite | with_reducible apply keeps_foldl

theorem State.freeCredit_keeps {z s : State} (hk : Keeps z s) (p tc : Nat) :
    Keeps z (State.freeCredit s p tc) := by
  unfold State.freeCredit
  repeat' first | with_reducible assumption | with_reducible apply State.modPort_keeps

theorem State.freeHeld_keeps {z s : State} (hk : Keeps z s) (q : Nat → Bool) :
    Keeps z (State.freeHeld s q) := by
  unfold State.freeHeld
  repeat' first
    | with_reducible assumption | intro _ | with_reducible apply State.freeCredit_keeps | simp only [↓keeps_lit]
    | with_reducible apply keeps_foldl

theorem State.dropEarly_keeps {z s : State} (hk : Keeps z s) :
    Keeps z (State.dropEarly s) := by
  unfold State.dropEarly
  repeat' first | with_reducible assumption | with_reducible apply State.freeHeld_keeps | simp only [↓keeps_lit]

theorem State.portViolates_keeps {z s : State} (hk : Keeps z s) (p k : Nat) :
    Keeps z (State.portViolates s p k) := by
  unfold State.portViolates
  repeat' first
    | with_reducible assumption | with_reducible apply State.setF_keeps | with_reducible apply State.addF_keeps
    | with_reducible apply State.ev_keeps | with_reducible apply State.modPort_keeps | with_reducible apply keeps_ite

theorem State.putK_keeps {z s : State} (hk : Keeps z s) (l : Nat) (k : Int) :
    Keeps z (State.putK s l k) := by
  unfold State.putK
  repeat' first | with_reducible assumption | with_reducible apply State.wrNat_keeps

theorem State.putSilent_keeps {z s : State} (hk : Keeps z s) (l n : Nat) :
    Keeps z (State.putSilent s l n) := by
  unfold State.putSilent
  repeat' first | with_reducible assumption | with_reducible apply State.wrNat_keeps

theorem State.putAverage_keeps {z s : State} (hk : Keeps z s) (b i v : Nat) :
    Keeps z (State.putAverage s b i v) := by
  unfold State.putAverage
  repeat' first | with_reducible assumption | with_reducible apply State.wrNat_keeps

theorem State.resetAverages_keeps {z s : State} (hk : Keeps z s) :
    Keeps z (State.resetAverages s) := by
  unfold State.resetAverages
  repeat' first
    | with_reducible assumption | intro _ | with_reducible apply State.setF_keeps
    | with_reducible apply State.wrNat_keeps | with_reducible apply keeps_foldl

theorem State.putHistory_keeps {z s : State} (hk : Keeps z s) (b pk : Nat) :
    Keeps z (State.putHistory s b pk) := by
  unfold State.putHistory
  repeat' first | with_reducible assumption | with_reducible apply State.wrNat_keeps

theorem State.showDigest_keeps {z s : State} (hk : Keeps z s) (l : List Nat) :
    Keeps z (State.showDigest s l) := by
  unfold State.showDigest
  repeat' first | with_reducible assumption | with_reducible apply State.setF_keeps

theorem State.computeDigests_keeps {z s : State} (hk : Keeps z s) :
    Keeps z (State.computeDigests s) := by
  unfold State.computeDigests
  repeat' first
    | with_reducible assumption | intro _ | with_reducible apply State.stateError_keeps
    | with_reducible apply State.showDigest_keeps | simp only [↓keeps_lit] | with_reducible apply keeps_ite
    | with_reducible apply keeps_foldl

theorem State.putShadow_keeps {z s : State} (hk : Keeps z s) (p v : Nat) :
    Keeps z (State.putShadow s p v) := by
  unfold State.putShadow
  repeat' first | with_reducible assumption | simp only [↓keeps_lit]

theorem State.putShadows_keeps {z s : State} (hk : Keeps z s) (p : Nat) (vs : List Nat) :
    Keeps z (State.putShadows s p vs) := by
  unfold State.putShadows
  repeat' first
    | with_reducible assumption | intro _ | with_reducible apply State.computeDigests_keeps
    | with_reducible apply State.putShadow_keeps | with_reducible apply keeps_foldl

theorem State.putBucket_keeps {z s : State} (hk : Keeps z s) (x : Bucket) :
    Keeps z (State.putBucket s x) := by
  unfold State.putBucket
  repeat' first | with_reducible assumption | simp only [↓keeps_lit]

theorem State.dropBucket_keeps {z s : State} (hk : Keeps z s) (b : Nat) :
    Keeps z (State.dropBucket s b) := by
  unfold State.dropBucket
  repeat' first | with_reducible assumption | simp only [↓keeps_lit]

theorem execColBucket_keeps {z s : State} (hk : Keeps z s) (id : Nat) :
    OKeeps z (execColBucket id s) := by
  unfold execColBucket
  repeat' first
    | with_reducible assumption | intro _ | with_reducible apply State.putInst_keeps
    | with_reducible apply State.fails_keeps | with_reducible apply State.start_keeps | simp only [↓keeps_lit]
    | with_reducible apply keeps_ite

theorem execBucketRelease_keeps {z s : State} (hk : Keeps z s) (id : Nat) :
    OKeeps z (execBucketRelease id s) := by
  unfold execBucketRelease
  repeat' first
    | with_reducible assumption | with_reducible apply State.putInst_keeps | with_reducible apply keeps_next
    | with_reducible apply okeeps_ite | split

theorem State.probeOn_keeps {z s : State} (hk : Keeps z s) (b : Nat) :
    Keeps z (State.probeOn s b) := by
  unfold State.probeOn
  repeat' first
    | with_reducible assumption | with_reducible apply State.sendRed_keeps | with_reducible apply State.sendReds_keeps
    | with_reducible apply State.putBucket_keeps | with_reducible apply keeps_ite | split

theorem State.arrive_keeps {z s : State} (hk : Keeps z s) (from_ : Nat) (k : RedBlock)
    (act : State → Bucket → State) (h_act : ∀ a0 a1, Keeps z a0 → Keeps z (act a0 a1)) :
    Keeps z (State.arrive s from_ k act) := by
  unfold State.arrive
  repeat' first
    | with_reducible assumption | with_reducible apply h_act | with_reducible apply State.failCheck_keeps
    | simp only [↓keeps_lit] | with_reducible apply keeps_ite | split

theorem State.arriveDown_keeps {z s : State} (hk : Keeps z s) (k : RedBlock) (act : State → Bucket → State)
    (h_act : ∀ a0 a1, Keeps z a0 → Keeps z (act a0 a1)) :
    Keeps z (State.arriveDown s k act) := by
  unfold State.arriveDown
  repeat' first | with_reducible assumption | with_reducible apply h_act | with_reducible apply State.arrive_keeps

theorem State.retry_keeps {z s : State} (hk : Keeps z s) (x : Bucket) (attempt eb : Nat) :
    Keeps z (State.retry s x attempt eb) := by
  unfold State.retry
  repeat' first
    | with_reducible assumption | with_reducible apply State.addF_keeps | with_reducible apply State.ev_keeps
    | with_reducible apply State.sendReds_keeps | with_reducible apply State.putBucket_keeps | simp only [↓keeps_lit]

theorem State.reReduce_keeps {z s : State} (hk : Keeps z s) (x : Bucket) :
    Keeps z (State.reReduce s x) := by
  unfold State.reReduce
  repeat' first | with_reducible assumption | with_reducible apply State.retry_keeps

theorem State.takeUp_keeps {z s : State} (hk : Keeps z s) (from_ : Nat) (k : RedBlock) (x : Bucket) :
    Keeps z (State.takeUp from_ k s x) := by
  unfold State.takeUp
  repeat' first
    | with_reducible assumption | with_reducible apply State.putBucket_keeps
    | with_reducible apply State.probeOn_keeps | with_reducible apply State.reReduce_keeps
    | with_reducible apply keeps_ite

theorem execUp26_keeps {z s : State} (hk : Keeps z s) (from_ : Nat) (b : RedBlock) :
    OKeeps z (execUp26 from_ b s) := by
  unfold execUp26
  repeat' first
    | with_reducible assumption | intro _ | with_reducible apply State.arrive_keeps
    | with_reducible apply State.takeUp_keeps | with_reducible apply keeps_next | with_reducible apply keeps_ite

theorem execUp40_keeps {z s : State} (hk : Keeps z s) (from_ : Nat) (b : RedBlock) :
    OKeeps z (execUp40 from_ b s) := by
  unfold execUp40
  repeat' first
    | with_reducible assumption | intro _ | with_reducible apply State.arrive_keeps
    | with_reducible apply State.takeUp_keeps | with_reducible apply keeps_next | with_reducible apply keeps_ite

theorem execProbeUp_keeps {z s : State} (hk : Keeps z s) (from_ : Nat) (b : RedBlock) :
    OKeeps z (execProbeUp from_ b s) := by
  unfold execProbeUp
  repeat' first
    | with_reducible assumption | intro _ | with_reducible apply State.arrive_keeps
    | with_reducible apply State.takeUp_keeps | with_reducible apply keeps_next | with_reducible apply keeps_ite

theorem State.takeProbeDown_keeps {z s : State} (hk : Keeps z s) (k : RedBlock) (x : Bucket) :
    Keeps z (State.takeProbeDown k s x) := by
  unfold State.takeProbeDown
  repeat' first
    | with_reducible assumption | with_reducible apply State.sendReds_keeps
    | with_reducible apply State.putBucket_keeps | with_reducible apply keeps_ite

theorem execProbeDown_keeps {z s : State} (hk : Keeps z s) (b : RedBlock) :
    OKeeps z (execProbeDown b s) := by
  unfold execProbeDown
  repeat' first
    | with_reducible assumption | intro _ | with_reducible apply State.arriveDown_keeps
    | with_reducible apply State.takeProbeDown_keeps | with_reducible apply keeps_next
    | with_reducible apply keeps_ite

theorem State.takeRetry_keeps {z s : State} (hk : Keeps z s) (k : RedBlock) (x : Bucket) :
    Keeps z (State.takeRetry k s x) := by
  unfold State.takeRetry
  repeat' first | with_reducible assumption | with_reducible apply State.retry_keeps | with_reducible apply keeps_ite

theorem execRetry_keeps {z s : State} (hk : Keeps z s) (b : RedBlock) :
    OKeeps z (execRetry b s) := by
  unfold execRetry
  repeat' first
    | with_reducible assumption | intro _ | with_reducible apply State.arriveDown_keeps
    | with_reducible apply State.takeRetry_keeps | with_reducible apply keeps_next | with_reducible apply keeps_ite

theorem execGroupSend_keeps {z s : State} (hk : Keeps z s) (b : Nat) :
    OKeeps z (execGroupSend b s) := by
  unfold execGroupSend
  repeat' first
    | with_reducible assumption | intro _ | with_reducible apply State.sendRed_keeps
    | with_reducible apply State.putBucket_keeps | with_reducible apply State.reReduce_keeps
    | with_reducible apply keeps_next | with_reducible apply keeps_ite | with_reducible apply okeeps_ite
    | with_reducible apply keeps_foldl | split

theorem State.endBucket_keeps {z s : State} (hk : Keeps z s) (x : Bucket) (e : RedBlock) (norm : Norm) :
    Keeps z (State.endBucket s x e norm) := by
  unfold State.endBucket
  repeat' first
    | with_reducible assumption | intro _ | with_reducible apply State.modInst_keeps
    | with_reducible apply State.markDirty_keeps | with_reducible apply State.sendReds_keeps
    | with_reducible apply State.dropBucket_keeps | simp only [↓keeps_lit] | with_reducible apply keeps_foldl

theorem State.sendDown_keeps {z s : State} (hk : Keeps z s) (x : Bucket) (k : Nat) : Keeps z (s.sendDown x k) := by
  induction k generalizing s x with
  | zero => exact hk
  | succ k ih =>
    unfold State.sendDown
    dsimp only
    split
    · exact ih (State.putBucket_keeps (State.sendReds_keeps hk _ _) _) _
    · exact hk

theorem execUpdateGroup_keeps {z s : State} (hk : Keeps z s) (b : Nat) :
    OKeeps z (execUpdateGroup b s) := by
  unfold execUpdateGroup
  repeat' first
    | with_reducible assumption | intro _ | with_reducible apply State.addF_keeps
    | with_reducible apply State.wrNat_keeps | with_reducible apply State.stateError_keeps
    | with_reducible apply State.putAverage_keeps | with_reducible apply State.putShadows_keeps
    | with_reducible apply State.putBucket_keeps | with_reducible apply State.endBucket_keeps
    | with_reducible apply State.sendDown_keeps | with_reducible apply keeps_next | with_reducible apply keeps_ite
    | with_reducible apply okeeps_ite | with_reducible apply keeps_foldl | split

theorem State.takeDown_keeps {z s : State} (hk : Keeps z s) (k : RedBlock) (x : Bucket) :
    Keeps z (State.takeDown k s x) := by
  unfold State.takeDown
  repeat' first
    | with_reducible assumption | with_reducible apply State.sendReds_keeps
    | with_reducible apply State.putShadows_keeps | with_reducible apply State.putBucket_keeps
    | with_reducible apply keeps_ite

theorem execDown_keeps {z s : State} (hk : Keeps z s) (b : RedBlock) :
    OKeeps z (execDown b s) := by
  unfold execDown
  repeat' first
    | with_reducible assumption | intro _ | with_reducible apply State.arriveDown_keeps
    | with_reducible apply State.takeDown_keeps | with_reducible apply keeps_next | with_reducible apply keeps_ite

theorem State.takeEnd_keeps {z s : State} (hk : Keeps z s) (k : RedBlock) (x : Bucket) :
    Keeps z (State.takeEnd k s x) := by
  unfold State.takeEnd
  repeat' first
    | with_reducible assumption | with_reducible apply State.failCheck_keeps
    | with_reducible apply State.endBucket_keeps | with_reducible apply keeps_ite

theorem execEnd_keeps {z s : State} (hk : Keeps z s) (b : RedBlock) :
    OKeeps z (execEnd b s) := by
  unfold execEnd
  repeat' first
    | with_reducible assumption | intro _ | with_reducible apply State.arriveDown_keeps
    | with_reducible apply State.takeEnd_keeps | with_reducible apply keeps_next | with_reducible apply keeps_ite

theorem State.takeEarly_keeps {z s : State} (hk : Keeps z s) (from_ : Nat) (k : RedBlock) :
    Keeps z (State.takeEarly s from_ k) := by
  unfold State.takeEarly
  repeat' first
    | with_reducible assumption | intro _ | with_reducible apply State.arrive_keeps
    | with_reducible apply State.takeUp_keeps | with_reducible apply State.takeProbeDown_keeps
    | with_reducible apply State.takeRetry_keeps | with_reducible apply State.takeDown_keeps
    | with_reducible apply State.takeEnd_keeps | split

theorem execBucketEntry_keeps {z s : State} (hk : Keeps z s) :
    OKeeps z (execBucketEntry s) := by
  unfold execBucketEntry
  repeat' first
    | with_reducible assumption | intro _ | with_reducible apply State.addF_keeps
    | with_reducible apply State.stateError_keeps | with_reducible apply State.freeHeld_keeps
    | with_reducible apply State.putBucket_keeps | with_reducible apply State.probeOn_keeps
    | with_reducible apply State.takeEarly_keeps | simp only [↓keeps_lit] | with_reducible apply keeps_next
    | with_reducible apply keeps_ite | with_reducible apply okeeps_ite | with_reducible apply keeps_foldl | split

theorem State.applyUpdates_keeps {z s : State} (hk : Keeps z s) :
    Keeps z (State.applyUpdates s) := by
  unfold State.applyUpdates
  repeat' first
    | with_reducible assumption | intro _ | with_reducible apply State.wrBytes_keeps
    | with_reducible apply State.resetAverages_keeps | simp only [↓keeps_lit] | with_reducible apply keeps_ite
    | with_reducible apply keeps_foldl

theorem State.updatesIfIdle_keeps {z s : State} (hk : Keeps z s) :
    Keeps z (State.updatesIfIdle s) := by
  unfold State.updatesIfIdle
  repeat' first
    | with_reducible assumption | with_reducible apply State.applyUpdates_keeps | with_reducible apply keeps_ite

theorem execColUpdcfg_keeps {z s : State} (hk : Keeps z s) (id : Nat) :
    OKeeps z (execColUpdcfg id s) := by
  unfold execColUpdcfg
  repeat' first
    | with_reducible assumption | intro _ | with_reducible apply State.fails_keeps
    | with_reducible apply State.finishes_keeps | with_reducible apply State.start_keeps
    | with_reducible apply State.updatesIfIdle_keeps | simp only [↓keeps_lit] | with_reducible apply keeps_ite

theorem execColAvgreset_keeps {z s : State} (hk : Keeps z s) (id : Nat) :
    OKeeps z (execColAvgreset id s) := by
  unfold execColAvgreset
  repeat' first
    | with_reducible assumption | intro _ | with_reducible apply State.finishes_keeps
    | with_reducible apply State.start_keeps | with_reducible apply State.updatesIfIdle_keeps | simp only [↓keeps_lit]

theorem State.showEpoch_keeps {z s : State} (hk : Keeps z s) (step sel : Nat) :
    Keeps z (State.showEpoch s step sel) := by
  unfold State.showEpoch
  repeat' first | with_reducible assumption | with_reducible apply State.setF_keeps

theorem State.writePointer_keeps {z s : State} (hk : Keeps z s) (step sel : Nat) :
    Keeps z (State.writePointer s step sel) := by
  unfold State.writePointer
  repeat' first
    | with_reducible assumption | with_reducible apply State.wrBytes_keeps
    | with_reducible apply State.showEpoch_keeps

theorem State.putPieces_keeps {z s : State} (hk : Keeps z s) (space addr : Nat) (ps : List (Nat × List Byte)) :
    Keeps z (State.putPieces s space addr ps) := by
  unfold State.putPieces
  repeat' first
    | with_reducible assumption | intro _ | with_reducible apply State.wrBytes_keeps
    | with_reducible apply keeps_foldl

theorem State.sendPieces_keeps {z s : State} (hk : Keeps z s) (r stream : Nat) (ps : List (Nat × List Byte)) :
    Keeps z (State.sendPieces s r stream ps) := by
  unfold State.sendPieces
  repeat' first
    | with_reducible assumption | intro _ | with_reducible apply State.originate_keeps
    | with_reducible apply keeps_foldl

theorem State.restoreEpoch_keeps {z s : State} (hk : Keeps z s) (b : List Byte) :
    Keeps z (State.restoreEpoch s b) := by
  unfold State.restoreEpoch
  repeat' first | with_reducible assumption | simp only [↓keeps_lit]

theorem State.restoreAverages_keeps {z s : State} (hk : Keeps z s) (b : List Byte) :
    Keeps z (State.restoreAverages s b) := by
  unfold State.restoreAverages
  repeat' first
    | with_reducible assumption | intro _ | with_reducible apply State.wrBytes_keeps
    | with_reducible apply State.wrNat_keeps | with_reducible apply keeps_foldl

theorem State.restoreMonitor_keeps {z s : State} (hk : Keeps z s) (b : List Byte) :
    Keeps z (State.restoreMonitor s b) := by
  unfold State.restoreMonitor
  repeat' first | with_reducible assumption | simp only [↓keeps_lit]

theorem State.restoreArrays_keeps {z s : State} (hk : Keeps z s) (b : List Byte) :
    Keeps z (State.restoreArrays s b) := by
  unfold State.restoreArrays
  repeat' first | with_reducible assumption | simp only [↓keeps_lit]

theorem State.restoreWith_keeps {z s : State} (hk : Keeps z s) (space addr kind : Nat)
    (put : State → List Byte → State) (h_put : ∀ a0 a1, Keeps z a0 → Keeps z (put a0 a1))
    :
    Keeps z (State.restoreWith s space addr kind put) := by
  unfold State.restoreWith
  repeat' first | with_reducible assumption | with_reducible apply h_put | split

theorem State.reprogramLayer_keeps {z s : State} (hk : Keeps z s) (h : Nat) (l : Layer) :
    Keeps z (State.reprogramLayer s h l) := by
  unfold State.reprogramLayer
  repeat' first
    | with_reducible assumption | intro _ | with_reducible apply State.putTile_keeps
    | with_reducible apply State.putLayer_keeps | with_reducible apply keeps_foldl

theorem State.rewindIngest_keeps {z s : State} (hk : Keeps z s) (ingest : Nat) :
    Keeps z (State.rewindIngest s ingest) := by
  unfold State.rewindIngest
  repeat' first
    | with_reducible assumption | with_reducible apply State.setF_keeps | with_reducible apply State.ev_keeps
    | simp only [↓keeps_lit] | with_reducible apply keeps_ite

theorem State.restoreFrom_keeps {z s : State} (hk : Keeps z s) (space addr : Nat) (host : Bool) :
    Keeps z (State.restoreFrom s space addr host) := by
  unfold State.restoreFrom
  repeat' first
    | with_reducible assumption | intro _ | with_reducible apply State.setF_keeps
    | with_reducible apply State.wrBytes_keeps | with_reducible apply State.zeroRange_keeps
    | with_reducible apply State.clearTokens_keeps | with_reducible apply State.restoreEpoch_keeps
    | with_reducible apply State.restoreAverages_keeps | with_reducible apply State.restoreMonitor_keeps
    | with_reducible apply State.restoreArrays_keeps | with_reducible apply State.restoreWith_keeps
    | with_reducible apply State.reprogramLayer_keeps | with_reducible apply State.rewindIngest_keeps
    | simp only [↓keeps_lit] | with_reducible apply keeps_ite | with_reducible apply keeps_foldl

theorem State.startDigest_keeps {z s : State} (hk : Keeps z s) (step : Nat) :
    Keeps z (State.startDigest s step) := by
  unfold State.startDigest
  repeat' first | with_reducible assumption | simp only [↓keeps_lit] | with_reducible apply keeps_ite

theorem State.judgeCkpt_keeps {z s : State} (hk : Keeps z s) (step : Nat) (clean : Bool) :
    Keeps z (State.judgeCkpt s step clean) := by
  unfold State.judgeCkpt
  repeat' first | with_reducible assumption | simp only [↓keeps_lit] | with_reducible apply keeps_ite

theorem State.digestOn_keeps {z s : State} (hk : Keeps z s) (step : Nat) :
    Keeps z (State.digestOn s step) := by
  unfold State.digestOn
  repeat' first
    | with_reducible assumption | with_reducible apply State.setF_keeps | with_reducible apply State.ev_keeps
    | with_reducible apply State.sendCtl_keeps | simp only [↓keeps_lit] | with_reducible apply keeps_ite | split

theorem State.compareOwn_keeps {z s : State} (hk : Keeps z s) (step : Nat) :
    Keeps z (State.compareOwn s step) := by
  unfold State.compareOwn
  repeat' first | with_reducible assumption | with_reducible apply State.judgeCkpt_keeps | split

theorem State.setRootDigest_keeps {z s : State} (hk : Keeps z s) (step : Nat) (l : List Nat) :
    Keeps z (State.setRootDigest s step l) := by
  unfold State.setRootDigest
  repeat' first | with_reducible assumption | simp only [↓keeps_lit]

theorem execDigestCompute_keeps {z s : State} (hk : Keeps z s) :
    OKeeps z (execDigestCompute s) := by
  unfold execDigestCompute
  repeat' first
    | with_reducible assumption | intro _ | with_reducible apply State.sendAll_keeps
    | with_reducible apply State.computeDigests_keeps | with_reducible apply State.digestOn_keeps
    | with_reducible apply State.compareOwn_keeps | with_reducible apply State.setRootDigest_keeps
    | with_reducible apply keeps_next | with_reducible apply keeps_ite | with_reducible apply keeps_foldl | split

theorem execDigestDown_keeps {z s : State} (hk : Keeps z s) (m : CtlMsg) :
    OKeeps z (execDigestDown m s) := by
  unfold execDigestDown
  repeat' first
    | with_reducible assumption | with_reducible apply State.sendAll_keeps
    | with_reducible apply State.startDigest_keeps | with_reducible apply State.digestOn_keeps
    | with_reducible apply State.compareOwn_keeps | with_reducible apply State.setRootDigest_keeps
    | with_reducible apply keeps_next | with_reducible apply okeeps_ite

theorem execDigestUp_keeps {z s : State} (hk : Keeps z s) (from_ : Nat) (m : CtlMsg) :
    OKeeps z (execDigestUp from_ m s) := by
  unfold execDigestUp
  repeat' first
    | with_reducible assumption | with_reducible apply State.digestOn_keeps | simp only [↓keeps_lit]
    | with_reducible apply keeps_next | with_reducible apply okeeps_ite

theorem State.waitCkpt_keeps {z s : State} (hk : Keeps z s) (ids : List Nat) (cmd : Bool) :
    Keeps z (State.waitCkpt s ids cmd) := by
  unfold State.waitCkpt
  repeat' first | with_reducible assumption | simp only [↓keeps_lit]

theorem State.setCkptDue_keeps {z s : State} (hk : Keeps z s) (b : Bool) :
    Keeps z (State.setCkptDue s b) := by
  unfold State.setCkptDue
  repeat' first | with_reducible assumption | simp only [↓keeps_lit]

theorem State.setCkpts_keeps {z s : State} (hk : Keeps z s) (js : List CkptJob) :
    Keeps z (State.setCkpts s js) := by
  unfold State.setCkpts
  repeat' first | with_reducible assumption | simp only [↓keeps_lit]

theorem State.hostCopy_keeps {z s : State} (hk : Keeps z s) (step : Nat) :
    Keeps z (State.hostCopy s step) := by
  unfold State.hostCopy
  repeat' first
    | with_reducible assumption | with_reducible apply State.addF_keeps | with_reducible apply State.ev_keeps
    | with_reducible apply State.putPieces_keeps | with_reducible apply State.setCkpts_keeps | simp only [↓keeps_lit]
    | with_reducible apply keeps_ite

theorem State.giveCkpt_keeps {z s : State} (hk : Keeps z s) (step id : Nat) :
    Keeps z (State.giveCkpt s step id) := by
  unfold State.giveCkpt
  repeat' first
    | with_reducible assumption | intro _ | with_reducible apply State.wrElems_keeps | with_reducible apply keeps_ite
    | with_reducible apply keeps_foldl | split

theorem State.takeCkpt_keeps {z s : State} (hk : Keeps z s) (step : Nat) :
    Keeps z (State.takeCkpt s step) := by
  unfold State.takeCkpt
  repeat' first
    | with_reducible assumption | intro _ | with_reducible apply State.ev_keeps
    | with_reducible apply State.putPieces_keeps | with_reducible apply State.sendPieces_keeps
    | with_reducible apply State.startDigest_keeps | with_reducible apply State.waitCkpt_keeps
    | with_reducible apply State.setCkptDue_keeps | with_reducible apply State.setCkpts_keeps
    | with_reducible apply State.hostCopy_keeps | with_reducible apply State.giveCkpt_keeps
    | with_reducible apply keeps_ite | with_reducible apply keeps_foldl | split

theorem State.scheduleAfter_keeps {z s : State} (hk : Keeps z s) (step : Nat) :
    Keeps z (State.scheduleAfter s step) := by
  unfold State.scheduleAfter
  repeat' first
    | with_reducible assumption | with_reducible apply State.startDigest_keeps
    | with_reducible apply State.takeCkpt_keeps | with_reducible apply keeps_ite

theorem State.dropDigests_keeps {z s : State} (hk : Keeps z s) :
    Keeps z (State.dropDigests s) := by
  unfold State.dropDigests
  repeat' first | with_reducible assumption | simp only [↓keeps_lit]

theorem State.abandonCkpts_keeps {z s : State} (hk : Keeps z s) :
    Keeps z (State.abandonCkpts s) := by
  unfold State.abandonCkpts
  repeat' first | with_reducible assumption | simp only [↓keeps_lit]

theorem State.endCmd_keeps {z s : State} (hk : Keeps z s) (status result : Nat) :
    Keeps z (State.endCmd s status result) := by
  unfold State.endCmd
  repeat' first
    | with_reducible assumption | with_reducible apply State.setF_keeps | with_reducible apply State.wrNat_keeps
    | with_reducible apply State.ev_keeps | simp only [↓keeps_lit] | split

theorem State.lateHostCopy_keeps {z s : State} (hk : Keeps z s) (j : CkptJob) :
    Keeps z (State.lateHostCopy s j) := by
  unfold State.lateHostCopy
  repeat' first | with_reducible assumption | with_reducible apply State.wrBytes_keeps | split

theorem execCheckpointConfirm_keeps {z s : State} (hk : Keeps z s) :
    OKeeps z (execCheckpointConfirm s) := by
  unfold execCheckpointConfirm
  repeat' first
    | with_reducible assumption | intro _ | with_reducible apply State.setF_keeps
    | with_reducible apply State.modInst_keeps | with_reducible apply State.waitCkpt_keeps
    | with_reducible apply State.setCkpts_keeps | with_reducible apply State.endCmd_keeps
    | with_reducible apply State.lateHostCopy_keeps | with_reducible apply keeps_next | with_reducible apply keeps_ite
    | with_reducible apply okeeps_ite | with_reducible apply keeps_foldl | split

theorem execCtlNop_keeps {z s : State} (hk : Keeps z s) (id : Nat) :
    OKeeps z (execCtlNop id s) := by
  unfold execCtlNop
  repeat' first
    | with_reducible assumption | intro _ | with_reducible apply State.finishes_keeps
    | with_reducible apply State.start_keeps

theorem execCtlJoin_keeps {z s : State} (hk : Keeps z s) (id : Nat) :
    OKeeps z (execCtlJoin id s) := by
  unfold execCtlJoin
  repeat' first
    | with_reducible assumption | intro _ | with_reducible apply State.fails_keeps
    | with_reducible apply State.finishes_keeps | with_reducible apply State.startIf_keeps
    | with_reducible apply keeps_ite

theorem execCtlTset_keeps {z s : State} (hk : Keeps z s) (id : Nat) :
    OKeeps z (execCtlTset id s) := by
  unfold execCtlTset
  repeat' first
    | with_reducible assumption | intro _ | with_reducible apply State.signal_keeps
    | with_reducible apply State.fails_keeps | with_reducible apply State.finishes_keeps
    | with_reducible apply State.start_keeps | with_reducible apply keeps_ite | with_reducible apply keeps_foldl

theorem execCtlTclr_keeps {z s : State} (hk : Keeps z s) (id : Nat) :
    OKeeps z (execCtlTclr id s) := by
  unfold execCtlTclr
  repeat' first
    | with_reducible assumption | intro _ | with_reducible apply State.putTok_keeps
    | with_reducible apply State.fails_keeps | with_reducible apply State.finishes_keeps
    | with_reducible apply State.start_keeps | with_reducible apply keeps_ite | with_reducible apply keeps_foldl

theorem execCtlFence_keeps {z s : State} (hk : Keeps z s) (id : Nat) :
    OKeeps z (execCtlFence id s) := by
  unfold execCtlFence
  repeat' first
    | with_reducible assumption | intro _ | with_reducible apply State.fails_keeps
    | with_reducible apply State.finishes_keeps | with_reducible apply State.startIf_keeps
    | with_reducible apply keeps_ite

theorem execCtlMark_keeps {z s : State} (hk : Keeps z s) (id : Nat) :
    OKeeps z (execCtlMark id s) := by
  unfold execCtlMark
  repeat' first
    | with_reducible assumption | intro _ | with_reducible apply State.evI_keeps
    | with_reducible apply State.fails_keeps | with_reducible apply State.finishes_keeps
    | with_reducible apply State.start_keeps | with_reducible apply keeps_ite

theorem execMemAlloc_keeps {z s : State} (hk : Keeps z s) (id : Nat) :
    OKeeps z (execMemAlloc id s) := by
  unfold execMemAlloc
  repeat' first
    | with_reducible assumption | intro _ | with_reducible apply State.fails_keeps
    | with_reducible apply State.finishes_keeps | with_reducible apply State.start_keeps
    | with_reducible apply keeps_ite

theorem State.releaseEntry_keeps {z s : State} (hk : Keeps z s) (h : Nat) (d : Desc) :
    Keeps z (State.releaseEntry s h d).1 := by
  unfold State.releaseEntry
  repeat' first
    | with_reducible assumption | with_reducible apply State.freeStorage_keeps | with_reducible apply keeps_ite1

theorem execMemFree_keeps {z s : State} (hk : Keeps z s) (id : Nat) :
    OKeeps z (execMemFree id s) := by
  unfold execMemFree
  repeat' first
    | with_reducible assumption | intro _ | with_reducible apply State.putEntry_keeps
    | with_reducible apply State.fails_keeps | with_reducible apply State.finishes_keeps
    | with_reducible apply State.startIf_keeps | with_reducible apply State.releaseEntry_keeps
    | with_reducible apply keeps_ite

theorem execMemDset_keeps {z s : State} (hk : Keeps z s) (id : Nat) :
    OKeeps z (execMemDset id s) := by
  unfold execMemDset
  repeat' first
    | with_reducible assumption | intro _ | with_reducible apply State.wrBytes_keeps
    | with_reducible apply State.unpoison_keeps | with_reducible apply State.fails_keeps
    | with_reducible apply State.finishes_keeps | with_reducible apply State.startIf_keeps
    | with_reducible apply State.releaseEntry_keeps | with_reducible apply keeps_ite

theorem State.applyQuotas_keeps {z s : State} (hk : Keeps z s) :
    Keeps z (State.applyQuotas s) := by
  unfold State.applyQuotas
  repeat' first
    | with_reducible assumption | with_reducible apply State.setF_keeps | with_reducible apply State.ev_keeps
    | with_reducible apply State.pageOut_keeps | with_reducible apply State.refreshDefer_keeps
    | simp only [↓keeps_lit] | with_reducible apply keeps_ite

theorem State.quotasIfIdle_keeps {z s : State} (hk : Keeps z s) :
    Keeps z (State.quotasIfIdle s) := by
  unfold State.quotasIfIdle
  repeat' first
    | with_reducible assumption | with_reducible apply State.applyQuotas_keeps | with_reducible apply keeps_ite

theorem execMemQuota_keeps {z s : State} (hk : Keeps z s) (id : Nat) :
    OKeeps z (execMemQuota id s) := by
  unfold execMemQuota
  repeat' first
    | with_reducible assumption | intro _ | with_reducible apply State.setF_keeps
    | with_reducible apply State.fails_keeps | with_reducible apply State.finishes_keeps
    | with_reducible apply State.start_keeps | with_reducible apply State.quotasIfIdle_keeps
    | with_reducible apply keeps_ite

theorem execMemFill_keeps {z s : State} (hk : Keeps z s) (id : Nat) :
    OKeeps z (execMemFill id s) := by
  unfold execMemFill
  repeat' first
    | with_reducible assumption | intro _ | with_reducible apply State.wrEncoded_keeps
    | with_reducible apply State.fails_keeps | with_reducible apply State.finishes_keeps
    | with_reducible apply State.start_keeps | with_reducible apply keeps_ite

theorem State.makeDue_keeps {z s : State} (hk : Keeps z s) (ts : List Nat) :
    Keeps z (State.makeDue s ts) := by
  unfold State.makeDue
  repeat' first
    | with_reducible assumption | intro _ | with_reducible apply State.modTile_keeps
    | with_reducible apply keeps_foldl

theorem State.rangeLayer_keeps {z s : State} (hk : Keeps z s) (h : Nat) (l : Layer) :
    Keeps z (State.rangeLayer s h l) := by
  unfold State.rangeLayer
  repeat' first
    | with_reducible assumption | with_reducible apply State.ev_keeps | with_reducible apply State.putLayer_keeps
    | with_reducible apply State.makeDue_keeps | with_reducible apply keeps_ite

theorem State.driftTile_keeps {z s : State} (hk : Keeps z s) (t : Nat) (x : Tile) :
    Keeps z (State.driftTile s t x) := by
  unfold State.driftTile
  repeat' first
    | with_reducible assumption | with_reducible apply State.ev_keeps | with_reducible apply State.putTile_keeps
    | with_reducible apply keeps_ite

theorem State.noteJump_keeps {z s : State} (hk : Keeps z s) (h : Nat) (l : Layer) :
    Keeps z (State.noteJump s h l) := by
  unfold State.noteJump
  repeat' first
    | with_reducible assumption | with_reducible apply State.ev_keeps | with_reducible apply State.putLayer_keeps
    | with_reducible apply keeps_ite | split

theorem State.monitorLayer_keeps {z s : State} (hk : Keeps z s) (h : Nat) (l : Layer) :
    Keeps z (State.monitorLayer s h l) := by
  unfold State.monitorLayer
  repeat' first
    | with_reducible assumption | with_reducible apply State.putLayer_keeps
    | with_reducible apply State.modLayer_keeps | with_reducible apply State.noteJump_keeps | split

theorem State.arrCommit_keeps {z s : State} (hk : Keeps z s) :
    Keeps z (State.arrCommit s) := by
  unfold State.arrCommit
  repeat' first
    | with_reducible assumption | intro _ | with_reducible apply State.modTiles_keeps
    | with_reducible apply State.rangeLayer_keeps | with_reducible apply State.driftTile_keeps
    | with_reducible apply State.monitorLayer_keeps | with_reducible apply keeps_foldl

theorem State.arrVeto_keeps {z s : State} (hk : Keeps z s) :
    Keeps z (State.arrVeto s) := by
  unfold State.arrVeto
  repeat' first
    | with_reducible assumption | intro _ | with_reducible apply State.modTiles_keeps
    | with_reducible apply State.modLayers_keeps | with_reducible apply State.sealTile_keeps | simp only [↓keeps_lit]
    | with_reducible apply keeps_ite | with_reducible apply keeps_foldl | split

theorem State.takeInfo_keeps {z s : State} (hk : Keeps z s) (h : Nat) :
    Keeps z (State.takeInfo s h) := by
  unfold State.takeInfo
  repeat' first
    | with_reducible assumption | with_reducible apply State.putLayer_keeps | with_reducible apply State.makeDue_keeps
    | with_reducible apply keeps_ite | split

theorem State.launchLayer_keeps {z s : State} (hk : Keeps z s) (h : Nat) :
    Keeps z (State.launchLayer s h) := by
  unfold State.launchLayer
  repeat' first
    | with_reducible assumption | intro _ | with_reducible apply State.putLayer_keeps
    | with_reducible apply State.enterFallback_keeps | with_reducible apply State.leaveFallback_keeps
    | with_reducible apply State.takeInfo_keeps | with_reducible apply keeps_ite | split | dsimp only

theorem State.arrLaunch_keeps {z s : State} (hk : Keeps z s) :
    Keeps z (State.arrLaunch s) := by
  unfold State.arrLaunch
  repeat' first
    | with_reducible assumption | intro _ | with_reducible apply State.ev_keeps
    | with_reducible apply State.launchLayer_keeps | simp only [↓keeps_lit] | with_reducible apply keeps_ite
    | with_reducible apply keeps_foldl

theorem State.commitUpd_keeps {z s : State} (hk : Keeps z s) (l : Nat) :
    Keeps z (State.commitUpd s l) := by
  unfold State.commitUpd
  repeat' first
    | with_reducible assumption | with_reducible apply State.ev_keeps | with_reducible apply State.putK_keeps
    | with_reducible apply State.putSilent_keeps | simp only [↓keeps_lit] | with_reducible apply keeps_ite

theorem State.commitBucket_keeps {z s : State} (hk : Keeps z s) (e : Ended) :
    Keeps z (State.commitBucket s e) := by
  unfold State.commitBucket
  repeat' first
    | with_reducible assumption | with_reducible apply State.wrNat_keeps | with_reducible apply State.putHistory_keeps
    | simp only [↓keeps_lit] | with_reducible apply keeps_ite | split

theorem State.colClear_keeps {z s : State} (hk : Keeps z s) :
    Keeps z (State.colClear s) := by
  unfold State.colClear
  repeat' first
    | with_reducible assumption | with_reducible apply State.ev_keeps | simp only [↓keeps_lit]
    | with_reducible apply keeps_ite

theorem State.colCommit_keeps {z s : State} (hk : Keeps z s) :
    Keeps z (State.colCommit s) := by
  unfold State.colCommit
  repeat' first
    | with_reducible assumption | intro _ | with_reducible apply State.commitUpd_keeps
    | with_reducible apply State.commitBucket_keeps | simp only [↓keeps_lit] | with_reducible apply keeps_foldl

theorem State.lowerK_keeps {z s : State} (hk : Keeps z s) :
    Keeps z (State.lowerK s) := by
  unfold State.lowerK
  repeat' first
    | with_reducible assumption | intro _ | with_reducible apply State.putK_keeps | with_reducible apply keeps_foldl

theorem State.putRecord_keeps {z s : State} (hk : Keeps z s) (outcome : Nat) (b : List Byte) :
    Keeps z (State.putRecord s outcome b) := by
  unfold State.putRecord
  repeat' first
    | with_reducible assumption | with_reducible apply State.addF_keeps | with_reducible apply State.wrBytes_keeps
    | with_reducible apply State.tick_keeps | simp only [↓keeps_lit]

theorem State.writeRecord_keeps {z s : State} (hk : Keeps z s) (outcome : Nat) :
    Keeps z (State.writeRecord s outcome) := by
  unfold State.writeRecord
  repeat' first | with_reducible assumption | with_reducible apply State.putRecord_keeps

theorem State.straggle_keeps {z s : State} (hk : Keeps z s) :
    Keeps z (State.straggle s) := by
  unfold State.straggle
  repeat' first
    | with_reducible assumption | with_reducible apply State.setF_keeps | with_reducible apply State.ev_keeps
    | simp only [↓keeps_lit] | with_reducible apply keeps_ite

theorem State.withdrawInsts_keeps {z s : State} (hk : Keeps z s) :
    Keeps z (State.withdrawInsts s) := by
  unfold State.withdrawInsts
  repeat' first
    | with_reducible assumption | with_reducible apply State.ev_keeps | with_reducible apply State.dropRuns_keeps
    | simp only [↓keeps_lit] | with_reducible apply keeps_ite

theorem State.withdraw_keeps {z s : State} (hk : Keeps z s) :
    Keeps z (State.withdraw s) := by
  unfold State.withdraw
  repeat' first
    | with_reducible assumption | with_reducible apply State.releaseValley_keeps
    | with_reducible apply State.refreshDefer_keeps | with_reducible apply State.dropEarly_keeps
    | with_reducible apply State.arrVeto_keeps | with_reducible apply State.colClear_keeps
    | with_reducible apply State.withdrawInsts_keeps | simp only [↓keeps_lit] | with_reducible apply keeps_ite

theorem State.rewindQueues_keeps {z s : State} (hk : Keeps z s) :
    Keeps z (State.rewindQueues s) := by
  unfold State.rewindQueues
  repeat' first
    | with_reducible assumption | intro _ | with_reducible apply State.setF_keeps
    | with_reducible apply State.putQst_keeps | with_reducible apply keeps_ite | with_reducible apply keeps_foldl

theorem State.launch_keeps {z s : State} (hk : Keeps z s) (replay : Bool) :
    Keeps z (State.launch s replay) := by
  unfold State.launch
  repeat' first
    | with_reducible assumption | with_reducible apply State.setF_keeps
    | with_reducible apply State.clearStepTokens_keeps | with_reducible apply State.failCheck_keeps
    | with_reducible apply State.progress_keeps | with_reducible apply State.releaseValley_keeps
    | with_reducible apply State.applyUpdates_keeps | with_reducible apply State.applyQuotas_keeps
    | with_reducible apply State.arrLaunch_keeps | with_reducible apply State.rewindQueues_keeps
    | simp only [↓keeps_lit] | with_reducible apply keeps_ite

theorem State.releaseSlot_keeps {z s : State} (hk : Keeps z s) :
    Keeps z (State.releaseSlot s) := by
  unfold State.releaseSlot
  repeat' first | with_reducible assumption | simp only [↓keeps_lit] | with_reducible apply keeps_ite

theorem State.setKeep_keeps {z s : State} (hk : Keeps z s) :
    Keeps z (State.setKeep s) := by
  unfold State.setKeep
  repeat' first
    | with_reducible assumption | with_reducible apply State.setF_keeps | with_reducible apply State.wrNat_keeps
    | with_reducible apply keeps_ite

theorem State.startSettle_keeps {z s : State} (hk : Keeps z s) :
    Keeps z (State.startSettle s) := by
  unfold State.startSettle
  repeat' first | with_reducible assumption | simp only [↓keeps_lit]

theorem State.loopOn_keeps {z s : State} (hk : Keeps z s) :
    Keeps z (State.loopOn s) := by
  unfold State.loopOn
  repeat' first
    | with_reducible assumption | with_reducible apply State.setF_keeps | with_reducible apply State.endCmd_keeps
    | simp only [↓keeps_lit] | with_reducible apply keeps_ite | split

theorem State.loopStopped_keeps {z s : State} (hk : Keeps z s) (reason : Nat) :
    Keeps z (State.loopStopped s reason) := by
  unfold State.loopStopped
  repeat' first
    | with_reducible assumption | with_reducible apply State.setF_keeps | with_reducible apply State.endCmd_keeps
    | simp only [↓keeps_lit] | with_reducible apply keeps_ite | split

theorem State.setPst_keeps {z s : State} (hk : Keeps z s) (k : Nat) :
    Keeps z (State.setPst s k) := by
  unfold State.setPst
  repeat' first | with_reducible assumption | with_reducible apply State.setF_keeps

theorem State.noteJumps_keeps {z s : State} (hk : Keeps z s) :
    Keeps z (State.noteJumps s) := by
  unfold State.noteJumps
  repeat' first
    | with_reducible assumption | intro _ | with_reducible apply State.ev_keeps
    | with_reducible apply State.noteJump_keeps | with_reducible apply keeps_foldl

theorem execColPass_keeps {z s : State} (hk : Keeps z s) (id : Nat) :
    OKeeps z (execColPass id s) := by
  unfold execColPass
  repeat' first
    | with_reducible assumption | intro _ | with_reducible apply State.modPass_keeps
    | with_reducible apply State.failCheck_keeps | with_reducible apply State.putInst_keeps
    | with_reducible apply State.fails_keeps | with_reducible apply State.start_keeps | with_reducible apply keeps_ite

theorem State.copyUnbucketed_keeps {z s : State} (hk : Keeps z s) :
    Keeps z (State.copyUnbucketed s) := by
  unfold State.copyUnbucketed
  repeat' first
    | with_reducible assumption | intro _ | with_reducible apply State.computeDigests_keeps
    | with_reducible apply State.putShadow_keeps | simp only [↓keeps_lit] | with_reducible apply keeps_ite
    | with_reducible apply keeps_foldl

theorem State.answerWith_keeps {z s : State} (hk : Keeps z s) (m : CtlMsg) :
    Keeps z (State.answerWith s m) := by
  unfold State.answerWith
  repeat' first
    | with_reducible assumption | with_reducible apply State.modPass_keeps | with_reducible apply State.sendAll_keeps

theorem State.answerVeto_keeps {z s : State} (hk : Keeps z s) (r : Nat) :
    Keeps z (State.answerVeto s r) := by
  unfold State.answerVeto
  repeat' first
    | with_reducible assumption | with_reducible apply State.ev_keeps | with_reducible apply State.modPass_keeps
    | with_reducible apply State.answerWith_keeps | with_reducible apply keeps_ite

theorem State.answerNoCkpt_keeps {z s : State} (hk : Keeps z s) :
    Keeps z (State.answerNoCkpt s) := by
  unfold State.answerNoCkpt
  repeat' first | with_reducible assumption | with_reducible apply State.answerWith_keeps

theorem State.sendTo_keeps {z s : State} (hk : Keeps z s) (ds : List Nat) (m : CtlMsg) :
    Keeps z (State.sendTo s ds m) := by
  unfold State.sendTo
  repeat' first
    | with_reducible assumption | intro _ | with_reducible apply State.originate_keeps
    | with_reducible apply keeps_foldl

theorem State.rideTable_keeps {z s : State} (hk : Keeps z s) :
    Keeps z (State.rideTable s) := by
  unfold State.rideTable
  repeat' first
    | with_reducible assumption | intro _ | with_reducible apply State.modPass_keeps
    | with_reducible apply State.sendAll_keeps | with_reducible apply State.sendTo_keeps | split | dsimp only

theorem State.answerCommit_keeps {z s : State} (hk : Keeps z s) (m : CtlMsg) :
    Keeps z (State.answerCommit s m) := by
  unfold State.answerCommit
  repeat' first
    | with_reducible assumption | with_reducible apply State.answerWith_keeps
    | with_reducible apply State.rideTable_keeps

theorem State.passAnswer_keeps {z s : State} (hk : Keeps z s) :
    Keeps z (State.passAnswer s) := by
  unfold State.passAnswer
  repeat' first
    | with_reducible assumption | with_reducible apply State.answerVeto_keeps
    | with_reducible apply State.answerNoCkpt_keeps | with_reducible apply State.answerCommit_keeps
    | with_reducible apply keeps_ite | split

theorem execReadySend_keeps {z s : State} (hk : Keeps z s) :
    OKeeps z (execReadySend s) := by
  unfold execReadySend
  repeat' first
    | with_reducible assumption | with_reducible apply State.modPass_keeps
    | with_reducible apply State.failCheck_keeps | with_reducible apply State.sendCtl_keeps
    | with_reducible apply State.setPst_keeps | with_reducible apply State.noteJumps_keeps
    | with_reducible apply State.copyUnbucketed_keeps | with_reducible apply State.passAnswer_keeps
    | with_reducible apply keeps_next | with_reducible apply okeeps_ite | split

theorem execReady_keeps {z s : State} (hk : Keeps z s) (from_ : Nat) (m : CtlMsg) :
    OKeeps z (execReady from_ m s) := by
  unfold execReady
  repeat' first
    | with_reducible assumption | with_reducible apply State.modPass_keeps
    | with_reducible apply State.passAnswer_keeps | with_reducible apply keeps_next | with_reducible apply okeeps_ite

theorem State.passFail_keeps {z s : State} (hk : Keeps z s) (own : Bool) (m : CtlMsg) :
    Keeps z (State.passFail s own m) := by
  unfold State.passFail
  repeat' first
    | with_reducible assumption | with_reducible apply State.modPass_keeps | with_reducible apply State.sendCtl_keeps
    | with_reducible apply State.passAnswer_keeps | with_reducible apply keeps_ite | split

theorem execFail_keeps {z s : State} (hk : Keeps z s) (from_ : Nat) (m : CtlMsg) :
    OKeeps z (execFail from_ m s) := by
  unfold execFail
  repeat' first
    | with_reducible assumption | with_reducible apply State.modPass_keeps | with_reducible apply State.setPst_keeps
    | with_reducible apply State.passFail_keeps | with_reducible apply keeps_next | with_reducible apply keeps_ite
    | with_reducible apply okeeps_ite | split

theorem State.dropAnswer_keeps {z s : State} (hk : Keeps z s) :
    Keeps z (State.dropAnswer s) := by
  unfold State.dropAnswer
  repeat' first | with_reducible assumption | with_reducible apply State.modPass_keeps

theorem State.enterStopped_keeps {z s : State} (hk : Keeps z s) (reason : Nat) :
    Keeps z (State.enterStopped s reason) := by
  unfold State.enterStopped
  repeat' first
    | with_reducible assumption | with_reducible apply State.modPass_keeps
    | with_reducible apply State.dropDigests_keeps | with_reducible apply State.withdraw_keeps
    | with_reducible apply State.loopStopped_keeps | with_reducible apply State.setPst_keeps
    | with_reducible apply State.dropAnswer_keeps

theorem State.selfFailed_keeps {z s : State} (hk : Keeps z s) :
    Keeps z (State.selfFailed s) := by
  unfold State.selfFailed
  repeat' first
    | with_reducible assumption | with_reducible apply State.ev_keeps | with_reducible apply State.enterStopped_keeps

theorem State.minded_keeps {z s : State} (hk : Keeps z s) :
    Keeps z (State.minded s) := by
  unfold State.minded
  repeat' first
    | with_reducible assumption | with_reducible apply State.selfFailed_keeps | with_reducible apply keeps_ite

theorem State.applyTable_keeps {z s : State} (hk : Keeps z s) :
    Keeps z (State.applyTable s) := by
  unfold State.applyTable
  repeat' first
    | with_reducible assumption | intro _ | with_reducible apply State.setF_keeps
    | with_reducible apply State.wrNat_keeps | with_reducible apply State.modPass_keeps
    | with_reducible apply State.putRank_keeps | with_reducible apply State.setVersion_keeps
    | with_reducible apply keeps_ite | with_reducible apply keeps_foldl | split

theorem State.noteLeftover_keeps {z s : State} (hk : Keeps z s) :
    Keeps z (State.noteLeftover s) := by
  unfold State.noteLeftover
  repeat' first | with_reducible assumption | with_reducible apply State.ev_keeps | with_reducible apply keeps_ite

theorem State.passDone_keeps {z s : State} (hk : Keeps z s) (step g : Nat) :
    Keeps z (State.passDone s step g) := by
  unfold State.passDone
  repeat' first | with_reducible assumption | with_reducible apply State.modInst_keeps | split

theorem State.passOver_keeps {z s : State} (hk : Keeps z s) :
    Keeps z (State.passOver s) := by
  unfold State.passOver
  repeat' first | with_reducible assumption | with_reducible apply State.modPass_keeps

theorem State.commitStep_keeps {z s : State} (hk : Keeps z s) (m : CtlMsg) :
    Keeps z (State.commitStep s m) := by
  unfold State.commitStep
  repeat' first
    | with_reducible assumption | with_reducible apply State.setF_keeps
    | with_reducible apply State.releaseValley_keeps | with_reducible apply State.writePointer_keeps
    | with_reducible apply State.scheduleAfter_keeps | with_reducible apply State.arrCommit_keeps
    | with_reducible apply State.colClear_keeps | with_reducible apply State.colCommit_keeps
    | with_reducible apply State.putRecord_keeps | with_reducible apply State.straggle_keeps
    | with_reducible apply State.releaseSlot_keeps | with_reducible apply State.setKeep_keeps
    | with_reducible apply State.startSettle_keeps | with_reducible apply State.loopOn_keeps
    | with_reducible apply State.setPst_keeps | with_reducible apply State.minded_keeps
    | with_reducible apply State.applyTable_keeps | with_reducible apply State.noteLeftover_keeps
    | with_reducible apply State.passDone_keeps | with_reducible apply State.passOver_keeps | simp only [↓keeps_lit]

theorem execCommit_keeps {z s : State} (hk : Keeps z s) (m : CtlMsg) :
    OKeeps z (execCommit m s) := by
  unfold execCommit
  repeat' first
    | with_reducible assumption | with_reducible apply State.sendAll_keeps | with_reducible apply State.sendTo_keeps
    | with_reducible apply State.minded_keeps | with_reducible apply State.applyTable_keeps
    | with_reducible apply State.commitStep_keeps | with_reducible apply keeps_next | with_reducible apply okeeps_ite
    | split

theorem State.sendFences_keeps {z s : State} (hk : Keeps z s) (step : Nat) :
    Keeps z (State.sendFences s step) := by
  unfold State.sendFences
  repeat' first
    | with_reducible assumption | intro _ | with_reducible apply State.modPort_keeps
    | with_reducible apply State.originate_keeps | with_reducible apply keeps_ite | with_reducible apply keeps_foldl

theorem State.startRecovery_keeps {z s : State} (hk : Keeps z s) (policy step : Nat) :
    Keeps z (State.startRecovery s policy step) := by
  unfold State.startRecovery
  repeat' first
    | with_reducible assumption | with_reducible apply State.modPass_keeps
    | with_reducible apply State.sendFences_keeps | with_reducible apply keeps_ite

theorem State.answerResume_keeps {z s : State} (hk : Keeps z s) :
    Keeps z (State.answerResume s) := by
  unfold State.answerResume
  repeat' first | with_reducible assumption | with_reducible apply State.answerWith_keeps

theorem State.rootClear_keeps {z s : State} (hk : Keeps z s) (m : CtlMsg) :
    Keeps z (State.rootClear s m) := by
  unfold State.rootClear
  repeat' first
    | with_reducible assumption | with_reducible apply State.answerWith_keeps
    | with_reducible apply State.answerNoCkpt_keeps | with_reducible apply State.answerResume_keeps
    | with_reducible apply keeps_ite

theorem State.tryClear_keeps {z s : State} (hk : Keeps z s) (detail : Nat) :
    Keeps z (State.tryClear s detail) := by
  unfold State.tryClear
  repeat' first
    | with_reducible assumption | with_reducible apply State.modPass_keeps | with_reducible apply State.sendCtl_keeps
    | with_reducible apply State.rootClear_keeps | with_reducible apply keeps_ite | split

theorem State.tryClears_keeps {z s : State} (hk : Keeps z s) :
    Keeps z (State.tryClears s) := by
  unfold State.tryClears
  repeat' first | with_reducible assumption | with_reducible apply State.tryClear_keeps

theorem execClear_keeps {z s : State} (hk : Keeps z s) (from_ : Nat) (m : CtlMsg) :
    OKeeps z (execClear from_ m s) := by
  unfold execClear
  repeat' first
    | with_reducible assumption | with_reducible apply State.modPass_keeps
    | with_reducible apply State.tryClears_keeps | with_reducible apply keeps_next | with_reducible apply okeeps_ite

theorem State.resync_keeps {z s : State} (hk : Keeps z s) (m : CtlMsg) :
    Keeps z (State.resync s m) := by
  unfold State.resync
  repeat' first
    | with_reducible assumption | with_reducible apply State.setF_keeps | with_reducible apply State.ev_keeps
    | with_reducible apply keeps_ite

theorem State.noteVeto_keeps {z s : State} (hk : Keeps z s) (m : CtlMsg) :
    Keeps z (State.noteVeto s m) := by
  unfold State.noteVeto
  repeat' first
    | with_reducible assumption | with_reducible apply State.setF_keeps | with_reducible apply State.addF_keeps
    | with_reducible apply State.ev_keeps | simp only [↓keeps_lit]

theorem State.passStop_keeps {z s : State} (hk : Keeps z s) (reason : Nat) :
    Keeps z (State.passStop s reason) := by
  unfold State.passStop
  repeat' first
    | with_reducible assumption | with_reducible apply State.ev_keeps | with_reducible apply State.enterStopped_keeps

theorem State.replayNext_keeps {z s : State} (hk : Keeps z s) (wide : Bool) :
    Keeps z (State.replayNext s wide) := by
  unfold State.replayNext
  repeat' first
    | with_reducible assumption | with_reducible apply State.modPass_keeps | with_reducible apply State.modPup_keeps
    | with_reducible apply State.loopOn_keeps | with_reducible apply keeps_ite

theorem State.haltPrograms_keeps {z s : State} (hk : Keeps z s) :
    Keeps z (State.haltPrograms s) := by
  unfold State.haltPrograms
  repeat' first | with_reducible assumption | with_reducible apply State.modTiles_keeps

theorem State.vetoStep_keeps {z s : State} (hk : Keeps z s) (m : CtlMsg) :
    Keeps z (State.vetoStep s m) := by
  unfold State.vetoStep
  repeat' first
    | with_reducible assumption | with_reducible apply State.setF_keeps | with_reducible apply State.ev_keeps
    | with_reducible apply State.modPass_keeps | with_reducible apply State.lowerK_keeps
    | with_reducible apply State.writeRecord_keeps | with_reducible apply State.withdraw_keeps
    | with_reducible apply State.releaseSlot_keeps | with_reducible apply State.setKeep_keeps
    | with_reducible apply State.loopOn_keeps | with_reducible apply State.setPst_keeps
    | with_reducible apply State.dropAnswer_keeps | with_reducible apply State.startRecovery_keeps
    | with_reducible apply State.tryClears_keeps | with_reducible apply State.resync_keeps
    | with_reducible apply State.noteVeto_keeps | with_reducible apply State.passStop_keeps
    | with_reducible apply State.replayNext_keeps | with_reducible apply State.haltPrograms_keeps
    | with_reducible apply keeps_ite

theorem execVeto_keeps {z s : State} (hk : Keeps z s) (m : CtlMsg) :
    OKeeps z (execVeto m s) := by
  unfold execVeto
  repeat' first
    | with_reducible assumption | with_reducible apply State.sendAll_keeps | with_reducible apply State.vetoStep_keeps
    | with_reducible apply keeps_next | with_reducible apply okeeps_ite

theorem State.recovered_keeps {z s : State} (hk : Keeps z s) :
    Keeps z (State.recovered s) := by
  unfold State.recovered
  repeat' first
    | with_reducible assumption | with_reducible apply State.setF_keeps | with_reducible apply State.modPass_keeps

theorem State.noteAttempt_keeps {z s : State} (hk : Keeps z s) :
    Keeps z (State.noteAttempt s) := by
  unfold State.noteAttempt
  repeat' first
    | with_reducible assumption | with_reducible apply State.modPass_keeps | with_reducible apply State.modPup_keeps
    | split

theorem State.resumeStep_keeps {z s : State} (hk : Keeps z s) (m : CtlMsg) :
    Keeps z (State.resumeStep s m) := by
  unfold State.resumeStep
  repeat' first
    | with_reducible assumption | with_reducible apply State.setF_keeps | with_reducible apply State.modPass_keeps
    | with_reducible apply State.modPup_keeps | with_reducible apply State.startSettle_keeps
    | with_reducible apply State.loopOn_keeps | with_reducible apply State.setPst_keeps
    | with_reducible apply State.recovered_keeps | with_reducible apply State.noteAttempt_keeps
    | with_reducible apply keeps_ite

theorem execResume_keeps {z s : State} (hk : Keeps z s) (m : CtlMsg) :
    OKeeps z (execResume m s) := by
  unfold execResume
  repeat' first
    | with_reducible assumption | with_reducible apply State.sendAll_keeps
    | with_reducible apply State.resumeStep_keeps | with_reducible apply keeps_next | with_reducible apply okeeps_ite

theorem State.failState_keeps {z s : State} (hk : Keeps z s) :
    Keeps z (State.failState s) := by
  unfold State.failState
  repeat' first
    | with_reducible assumption | with_reducible apply State.modPass_keeps | with_reducible apply State.putFail_keeps

theorem State.restored_keeps {z s : State} (hk : Keeps z s) :
    Keeps z (State.restored s) := by
  unfold State.restored
  repeat' first | with_reducible assumption | with_reducible apply State.modPass_keeps

theorem State.sendWards_keeps {z s : State} (hk : Keeps z s) (step : Nat) :
    Keeps z (State.sendWards s step) := by
  unfold State.sendWards
  repeat' first
    | with_reducible assumption | intro _ | with_reducible apply State.sendPieces_keeps
    | with_reducible apply keeps_foldl

theorem State.fillArea_keeps {z s : State} (hk : Keeps z s) (step : Nat) :
    Keeps z (State.fillArea s step) := by
  unfold State.fillArea
  repeat' first | with_reducible assumption | with_reducible apply State.modPass_keeps

theorem State.restoreLocal_keeps {z s : State} (hk : Keeps z s) (step : Nat) : Keeps z (s.restoreLocal step) := by
  unfold State.restoreLocal
  generalize s.soundArea step = o
  cases o with
  | some k => exact State.restored_keeps (State.restoreFrom_keeps hk _ _ _)
  | none => exact keeps_ite (State.fillArea_keeps hk _) (State.failState_keeps hk)

theorem State.rollbackStep_keeps {z s : State} (hk : Keeps z s) (m : CtlMsg) :
    Keeps z (State.rollbackStep s m) := by
  unfold State.rollbackStep
  repeat' first
    | with_reducible assumption | with_reducible apply State.setF_keeps | with_reducible apply State.modPass_keeps
    | with_reducible apply State.abandonCkpts_keeps | with_reducible apply State.setPst_keeps
    | with_reducible apply State.passAnswer_keeps | with_reducible apply State.sendWards_keeps
    | with_reducible apply State.fillArea_keeps | with_reducible apply State.restoreLocal_keeps
    | with_reducible apply keeps_ite

theorem execRollback_keeps {z s : State} (hk : Keeps z s) (m : CtlMsg) :
    OKeeps z (execRollback m s) := by
  unfold execRollback
  repeat' first
    | with_reducible assumption | with_reducible apply State.sendAll_keeps
    | with_reducible apply State.rollbackStep_keeps | with_reducible apply keeps_next
    | with_reducible apply okeeps_ite

theorem State.useOwnEpoch_keeps {z s : State} (hk : Keeps z s) :
    Keeps z (State.useOwnEpoch s) := by
  unfold State.useOwnEpoch
  repeat' first
    | with_reducible assumption | with_reducible apply State.wrBytes_keeps | with_reducible apply State.ev_keeps
    | with_reducible apply State.modPass_keeps | with_reducible apply keeps_ite

theorem State.spareOn_keeps {z s : State} (hk : Keeps z s) (off len : Nat) :
    Keeps z (State.spareOn s off len) := by
  unfold State.spareOn
  repeat' first
    | with_reducible assumption | with_reducible apply State.restoreFrom_keeps
    | with_reducible apply State.failState_keeps | with_reducible apply State.restored_keeps
    | with_reducible apply State.useOwnEpoch_keeps | with_reducible apply keeps_ite

theorem State.takeCopy_keeps {z s : State} (hk : Keeps z s) (off : Nat) (data : List Byte) :
    Keeps z (State.takeCopy s off data) := by
  unfold State.takeCopy
  repeat' first
    | with_reducible assumption | with_reducible apply State.wrBytes_keeps | with_reducible apply State.spareOn_keeps
    | with_reducible apply keeps_ite

theorem State.rebind_keeps {z s : State} (hk : Keeps z s) :
    Keeps z (State.rebind s) := by
  unfold State.rebind
  repeat' first
    | with_reducible assumption | intro _ | with_reducible apply State.setF_keeps
    | with_reducible apply State.modPass_keeps | with_reducible apply State.putRank_keeps
    | with_reducible apply State.setVersion_keeps | with_reducible apply keeps_ite | with_reducible apply keeps_foldl

theorem execRollbackComplete_keeps {z s : State} (hk : Keeps z s) :
    OKeeps z (execRollbackComplete s) := by
  unfold execRollbackComplete
  repeat' first
    | with_reducible assumption | with_reducible apply State.setF_keeps | with_reducible apply State.modPass_keeps
    | with_reducible apply State.writePointer_keeps | with_reducible apply State.endCmd_keeps
    | with_reducible apply State.setPst_keeps | with_reducible apply State.minded_keeps
    | with_reducible apply State.tryClears_keeps | with_reducible apply State.rebind_keeps
    | with_reducible apply keeps_next | with_reducible apply okeeps_ite | split

theorem State.hear_keeps {z s : State} (hk : Keeps z s) (fabric : Nat) :
    Keeps z (State.hear s fabric) := by
  unfold State.hear
  repeat' first | with_reducible assumption | with_reducible apply State.modPass_keeps | split

theorem execHeartbeatSend_keeps {z s : State} (hk : Keeps z s) :
    OKeeps z (execHeartbeatSend s) := by
  unfold execHeartbeatSend
  repeat' first
    | with_reducible assumption | with_reducible apply State.modPass_keeps | with_reducible apply State.sendAll_keeps
    | with_reducible apply keeps_next | with_reducible apply okeeps_ite

theorem execHeartbeat_keeps {z s : State} (hk : Keeps z s) (from_ : Nat) (m : CtlMsg) :
    OKeeps z (execHeartbeat from_ m s) := by
  unfold execHeartbeat
  repeat' first
    | with_reducible assumption | with_reducible apply State.modPass_keeps | with_reducible apply keeps_next
    | with_reducible apply okeeps_ite

theorem State.showRecovery_keeps {z s : State} (hk : Keeps z s) :
    Keeps z (State.showRecovery s) := by
  unfold State.showRecovery
  repeat' first | with_reducible assumption | with_reducible apply State.setF_keeps

theorem State.propose_keeps {z s : State} (hk : Keeps z s) :
    Keeps z (State.propose s) := by
  unfold State.propose
  repeat' first
    | with_reducible assumption | with_reducible apply State.modPass_keeps | with_reducible apply keeps_ite | split

theorem State.freeze_keeps {z s : State} (hk : Keeps z s) :
    Keeps z (State.freeze s) := by
  unfold State.freeze
  repeat' first
    | with_reducible assumption | with_reducible apply State.setF_keeps | with_reducible apply State.modPass_keeps
    | with_reducible apply State.abandonCkpts_keeps | with_reducible apply State.withdraw_keeps
    | with_reducible apply State.setPst_keeps | with_reducible apply State.dropAnswer_keeps
    | with_reducible apply State.startRecovery_keeps | with_reducible apply State.showRecovery_keeps

theorem State.noteFailed_keeps {z s : State} (hk : Keeps z s) (f : Nat) :
    Keeps z (State.noteFailed s f) := by
  unfold State.noteFailed
  repeat' first
    | with_reducible assumption | with_reducible apply State.wrNat_keeps | with_reducible apply State.modPass_keeps
    | with_reducible apply State.selfFailed_keeps | with_reducible apply State.propose_keeps
    | with_reducible apply State.freeze_keeps | with_reducible apply keeps_ite

theorem State.noted_keeps {z s : State} (hk : Keeps z s) (f v : Nat) :
    Keeps z (State.noted s f v) := by
  unfold State.noted
  repeat' first | with_reducible assumption | with_reducible apply State.modPass_keeps

theorem execHeartbeatMiss_keeps {z s : State} (hk : Keeps z s) (f : Nat) :
    OKeeps z (execHeartbeatMiss f s) := by
  unfold execHeartbeatMiss
  repeat' first
    | with_reducible assumption | with_reducible apply State.flood_keeps | with_reducible apply State.noteFailed_keeps
    | with_reducible apply State.noted_keeps | with_reducible apply keeps_next | with_reducible apply okeeps_ite

theorem execFailnote_keeps {z s : State} (hk : Keeps z s) (from_ : Nat) (m : CtlMsg) :
    OKeeps z (execFailnote from_ m s) := by
  unfold execFailnote
  repeat' first
    | with_reducible assumption | with_reducible apply State.flood_keeps | with_reducible apply State.noteFailed_keeps
    | with_reducible apply State.noted_keeps | with_reducible apply keeps_next | with_reducible apply okeeps_ite

theorem State.takeoverStops_keeps {z s : State} (hk : Keeps z s) (f : Nat) :
    Keeps z (State.takeoverStops s f) := by
  unfold State.takeoverStops
  repeat' first
    | with_reducible assumption | with_reducible apply State.setF_keeps | with_reducible apply State.ev_keeps
    | with_reducible apply State.modPass_keeps | with_reducible apply State.enterStopped_keeps

theorem State.acceptTakeover_keeps {z s : State} (hk : Keeps z s) (m : CtlMsg) :
    Keeps z (State.acceptTakeover s m) := by
  unfold State.acceptTakeover
  repeat' first
    | with_reducible assumption | with_reducible apply State.setF_keeps | with_reducible apply State.ev_keeps
    | with_reducible apply State.modPass_keeps | with_reducible apply State.wakeUp_keeps
    | with_reducible apply State.selfFailed_keeps | with_reducible apply State.tryClears_keeps
    | with_reducible apply State.showRecovery_keeps | with_reducible apply State.propose_keeps
    | with_reducible apply State.freeze_keeps | with_reducible apply State.takeoverStops_keeps
    | with_reducible apply keeps_ite

theorem execTakeover_keeps {z s : State} (hk : Keeps z s) (from_ : Nat) (m : CtlMsg) :
    OKeeps z (execTakeover from_ m s) := by
  unfold execTakeover
  repeat' first
    | with_reducible assumption | with_reducible apply State.flood_keeps
    | with_reducible apply State.acceptTakeover_keeps | with_reducible apply keeps_next
    | with_reducible apply okeeps_ite | split

theorem State.answerJoin_keeps {z s : State} (hk : Keeps z s) (m : CtlMsg) (detail subject version : Nat) :
    Keeps z (State.answerJoin s m detail subject version) := by
  unfold State.answerJoin
  repeat' first | with_reducible assumption | with_reducible apply State.sendTo_keeps

theorem State.refuseJoin_keeps {z s : State} (hk : Keeps z s) (m : CtlMsg) :
    Keeps z (State.refuseJoin s m) := by
  unfold State.refuseJoin
  repeat' first
    | with_reducible assumption | with_reducible apply State.ev_keeps | with_reducible apply State.answerJoin_keeps

theorem State.recordJoin_keeps {z s : State} (hk : Keeps z s) (m : CtlMsg) (tag : Nat) :
    Keeps z (State.recordJoin s m tag) := by
  unfold State.recordJoin
  repeat' first
    | with_reducible assumption | with_reducible apply State.modPass_keeps
    | with_reducible apply State.answerJoin_keeps | with_reducible apply State.refuseJoin_keeps | split

theorem State.takeJoin_keeps {z s : State} (hk : Keeps z s) (m : CtlMsg) :
    Keeps z (State.takeJoin s m) := by
  unfold State.takeJoin
  repeat' first
    | with_reducible assumption | with_reducible apply State.wrNat_keeps | with_reducible apply State.modPass_keeps
    | with_reducible apply State.propose_keeps | with_reducible apply State.answerJoin_keeps
    | with_reducible apply State.refuseJoin_keeps | with_reducible apply State.recordJoin_keeps
    | with_reducible apply keeps_ite | split

theorem execJoin_keeps {z s : State} (hk : Keeps z s) (from_ : Nat) (m : CtlMsg) :
    OKeeps z (execJoin from_ m s) := by
  unfold execJoin
  repeat' first
    | with_reducible assumption | with_reducible apply State.originate_keeps
    | with_reducible apply State.sendCtl_keeps | with_reducible apply State.takeJoin_keeps
    | with_reducible apply keeps_next | with_reducible apply keeps_ite | with_reducible apply okeeps_ite | split

theorem execJoined_keeps {z s : State} (hk : Keeps z s) (m : CtlMsg) :
    OKeeps z (execJoined m s) := by
  unfold execJoined
  repeat' first
    | with_reducible assumption | with_reducible apply State.setF_keeps | with_reducible apply State.wakeUp_keeps
    | with_reducible apply State.setPst_keeps | with_reducible apply keeps_next | with_reducible apply okeeps_ite

theorem execTable_keeps {z s : State} (hk : Keeps z s) (m : CtlMsg) :
    OKeeps z (execTable m s) := by
  unfold execTable
  repeat' first
    | with_reducible assumption | with_reducible apply State.modPass_keeps | with_reducible apply State.sendAll_keeps
    | with_reducible apply State.sendTo_keeps | with_reducible apply keeps_next | with_reducible apply keeps_ite
    | with_reducible apply okeeps_ite

end Sys2Proof.Machine
end

