-- ==== Sys2Proof/Laws/KeepsFabric.lean ====
section
/-! SUPPORT. What every step keeps, went on with: the lemmas `<f>_keeps` of Laws/KeepsSched.lean for
the links and ports, the fuses, the puppeteer, the vector chains and the row units. -/

namespace Sys2Proof.Machine

set_option linter.unusedTactic false
set_option linter.unreachableTactic false
set_option linter.unusedVariables false
set_option Elab.async false

theorem State.sendCtlBlock_keeps {z s : State} (hk : Keeps z s) (p : Nat) (pay : Payload) :
    Keeps z (State.sendCtlBlock s p pay) := by
  unfold State.sendCtlBlock
  repeat' first
    | with_reducible assumption | with_reducible apply State.modPort_keeps | with_reducible apply keeps_ite

theorem State.carried_keeps {z s : State} (hk : Keeps z s) (p : Nat) (pay : Payload) :
    Keeps z (State.carried s p pay) := by
  unfold State.carried
  repeat' first | with_reducible assumption | with_reducible apply State.modPort_keeps | split

theorem State.sendSync_keeps {z s : State} (hk : Keeps z s) (p : Nat) :
    Keeps z (State.sendSync s p) := by
  unfold State.sendSync
  repeat' first
    | with_reducible assumption | with_reducible apply State.modPort_keeps
    | with_reducible apply State.sendCtlBlock_keeps

theorem State.takeAck_keeps {z s : State} (hk : Keeps z s) (p ack : Nat) :
    Keeps z (State.takeAck s p ack) := by
  unfold State.takeAck
  repeat' first
    | with_reducible assumption | with_reducible apply State.putPort_keeps
    | with_reducible apply State.portViolates_keeps | with_reducible apply keeps_ite

theorem State.takeCredits_keeps {z s : State} (hk : Keeps z s) (p : Nat) (cs : List Nat) :
    Keeps z (State.takeCredits s p cs) := by
  unfold State.takeCredits
  repeat' first
    | with_reducible assumption | with_reducible apply State.putPort_keeps
    | with_reducible apply State.portViolates_keeps | with_reducible apply State.sendSync_keeps
    | with_reducible apply keeps_ite

theorem State.nakGap_keeps {z s : State} (hk : Keeps z s) (p seq : Nat) :
    Keeps z (State.nakGap s p seq) := by
  unfold State.nakGap
  repeat' first
    | with_reducible assumption | with_reducible apply State.addF_keeps | with_reducible apply State.modPort_keeps
    | with_reducible apply keeps_ite

theorem State.takeBulk_keeps {z s : State} (hk : Keeps z s) (src stream off : Nat) (data : List Byte) :
    Keeps z (State.takeBulk s src stream off data) := by
  unfold State.takeBulk
  repeat' first
    | with_reducible assumption | with_reducible apply State.wrBytes_keeps | with_reducible apply State.takeCopy_keeps
    | simp only [↓keeps_lit] | with_reducible apply keeps_ite

theorem State.takeFence_keeps {z s : State} (hk : Keeps z s) (p step version : Nat) :
    Keeps z (State.takeFence s p step version) := by
  unfold State.takeFence
  repeat' first
    | with_reducible assumption | with_reducible apply State.ev_keeps | with_reducible apply State.modPort_keeps
    | with_reducible apply State.tryClears_keeps | with_reducible apply keeps_ite

theorem State.takeTransit_keeps {z s : State} (hk : Keeps z s) (p : Nat) (b : LinkBlock) :
    Keeps z (State.takeTransit s p b) := by
  unfold State.takeTransit
  repeat' first
    | with_reducible assumption | with_reducible apply State.ev_keeps | with_reducible apply State.freeCredit_keeps
    | with_reducible apply State.sendCtlBlock_keeps | simp only [↓keeps_lit] | with_reducible apply keeps_ite

theorem State.takeContent_keeps {z s : State} (hk : Keeps z s) (p : Nat) (b : LinkBlock) :
    Keeps z (State.takeContent s p b) := by
  unfold State.takeContent
  repeat' first
    | with_reducible assumption | with_reducible apply State.portViolates_keeps
    | with_reducible apply State.hear_keeps | with_reducible apply State.takeBulk_keeps
    | with_reducible apply keeps_ite | split

theorem State.release_keeps {z s : State} (hk : Keeps z s) (p : Nat) (b : LinkBlock) :
    Keeps z (State.release s p b) := by
  unfold State.release
  repeat' first
    | with_reducible assumption | with_reducible apply State.freeCredit_keeps | simp only [↓keeps_lit] | split

theorem State.deliver_keeps {z s : State} (hk : Keeps z s) (p : Nat) (b : LinkBlock) :
    Keeps z (State.deliver s p b) := by
  unfold State.deliver
  repeat' first
    | with_reducible assumption | with_reducible apply State.addF_keeps | with_reducible apply State.freeCredit_keeps
    | with_reducible apply State.portViolates_keeps | with_reducible apply State.carried_keeps
    | with_reducible apply State.takeFence_keeps | with_reducible apply State.takeTransit_keeps
    | with_reducible apply State.takeContent_keeps | with_reducible apply State.release_keeps
    | with_reducible apply keeps_ite | split

theorem State.deliverHeld_keeps {z s : State} (hk : Keeps z s) (p k : Nat) : Keeps z (s.deliverHeld p k) := by
  induction k generalizing s with
  | zero => exact hk
  | succ k ih =>
    unfold State.deliverHeld
    dsimp only
    split
    · exact hk
    · exact ih (State.deliver_keeps (State.putPort_keeps hk _ _) _ _)

theorem State.takeSeq_keeps {z s : State} (hk : Keeps z s) (p : Nat) (b : LinkBlock) :
    Keeps z (State.takeSeq s p b) := by
  unfold State.takeSeq
  repeat' first
    | with_reducible assumption | with_reducible apply State.modPort_keeps
    | with_reducible apply State.portViolates_keeps | with_reducible apply State.sendCtlBlock_keeps
    | with_reducible apply State.sendSync_keeps | with_reducible apply State.nakGap_keeps
    | with_reducible apply State.deliver_keeps | with_reducible apply State.deliverHeld_keeps
    | with_reducible apply keeps_ite

theorem State.takeUnseq_keeps {z s : State} (hk : Keeps z s) (p : Nat) (b : LinkBlock) :
    Keeps z (State.takeUnseq s p b) := by
  unfold State.takeUnseq
  repeat' first
    | with_reducible assumption | with_reducible apply State.putPort_keeps | with_reducible apply State.modPort_keeps
    | with_reducible apply State.portViolates_keeps | with_reducible apply State.nakGap_keeps
    | with_reducible apply keeps_ite | split

theorem State.linkIn_keeps {z s : State} (hk : Keeps z s) (p : Nat) (b : LinkBlock) :
    Keeps z (State.linkIn s p b) := by
  unfold State.linkIn
  repeat' first
    | with_reducible assumption | with_reducible apply State.portViolates_keeps
    | with_reducible apply State.sendCtlBlock_keeps | with_reducible apply State.takeAck_keeps
    | with_reducible apply State.takeCredits_keeps | with_reducible apply State.takeSeq_keeps
    | with_reducible apply State.takeUnseq_keeps | with_reducible apply keeps_ite

theorem execIdle_keeps {z s : State} (hk : Keeps z s) (p : Nat) (b : LinkBlock) :
    OKeeps z (execIdle p b s) := by
  unfold execIdle
  repeat' first
    | with_reducible assumption | with_reducible apply State.linkIn_keeps | with_reducible apply keeps_next

theorem execFence_keeps {z s : State} (hk : Keeps z s) (p : Nat) (b : LinkBlock) :
    OKeeps z (execFence p b s) := by
  unfold execFence
  repeat' first
    | with_reducible assumption | with_reducible apply State.linkIn_keeps | with_reducible apply keeps_next
    | with_reducible apply keeps_ite

theorem execBulkData_keeps {z s : State} (hk : Keeps z s) (p : Nat) (b : LinkBlock) :
    OKeeps z (execBulkData p b s) := by
  unfold execBulkData
  repeat' first
    | with_reducible assumption | with_reducible apply State.linkIn_keeps | with_reducible apply keeps_next
    | with_reducible apply keeps_ite

theorem execNak_keeps {z s : State} (hk : Keeps z s) (p : Nat) (b : LinkBlock) :
    OKeeps z (execNak p b s) := by
  unfold execNak
  repeat' first
    | with_reducible assumption | with_reducible apply State.linkIn_keeps | with_reducible apply keeps_next
    | with_reducible apply keeps_ite

theorem execCreditSync_keeps {z s : State} (hk : Keeps z s) (p : Nat) (b : LinkBlock) :
    OKeeps z (execCreditSync p b s) := by
  unfold execCreditSync
  repeat' first
    | with_reducible assumption | with_reducible apply State.linkIn_keeps | with_reducible apply keeps_next
    | with_reducible apply keeps_ite

theorem State.dropLink_keeps {z s : State} (hk : Keeps z s) (p : Nat) :
    Keeps z (State.dropLink s p) := by
  unfold State.dropLink
  repeat' first
    | with_reducible assumption | with_reducible apply State.failCheck_keeps
    | with_reducible apply State.putPort_keeps | with_reducible apply keeps_ite

theorem State.linkDown_keeps {z s : State} (hk : Keeps z s) (p state reason : Nat) :
    Keeps z (State.linkDown s p state reason) := by
  unfold State.linkDown
  repeat' first
    | with_reducible assumption | with_reducible apply State.setF_keeps | with_reducible apply State.ev_keeps
    | with_reducible apply State.modPort_keeps | with_reducible apply State.tryClears_keeps
    | with_reducible apply State.dropLink_keeps | with_reducible apply keeps_ite

theorem State.startTraining_keeps {z s : State} (hk : Keeps z s) (p : Nat) :
    Keeps z (State.startTraining s p) := by
  unfold State.startTraining
  repeat' first | with_reducible assumption | with_reducible apply State.setF_keeps

theorem State.quarantinePort_keeps {z s : State} (hk : Keeps z s) (p reason k : Nat) :
    Keeps z (State.quarantinePort s p reason k) := by
  unfold State.quarantinePort
  repeat' first
    | with_reducible assumption | with_reducible apply State.ev_keeps | with_reducible apply State.linkDown_keeps

theorem execViolationLimit_keeps {z s : State} (hk : Keeps z s) (p : Nat) :
    OKeeps z (execViolationLimit p s) := by
  unfold execViolationLimit
  repeat' first
    | with_reducible assumption | with_reducible apply State.quarantinePort_keeps | with_reducible apply keeps_next
    | with_reducible apply okeeps_ite

theorem State.takeIdent_keeps {z s : State} (hk : Keeps z s) (p fabric tag : Nat) :
    Keeps z (State.takeIdent s p fabric tag) := by
  unfold State.takeIdent
  repeat' first
    | with_reducible assumption | with_reducible apply State.setF_keeps | with_reducible apply State.ev_keeps
    | with_reducible apply State.quarantinePort_keeps | with_reducible apply keeps_ite

theorem execIdent_keeps {z s : State} (hk : Keeps z s) (p : Nat) (b : LinkBlock) :
    OKeeps z (execIdent p b s) := by
  unfold execIdent
  repeat' first
    | with_reducible assumption | with_reducible apply State.linkIn_keeps | with_reducible apply State.takeIdent_keeps
    | with_reducible apply keeps_next | with_reducible apply okeeps_ite | split

theorem State.dropUnrouted_keeps {z s : State} (hk : Keeps z s) :
    Keeps z (State.dropUnrouted s) := by
  unfold State.dropUnrouted
  repeat' first
    | with_reducible assumption | intro _ | with_reducible apply State.ev_keeps | simp only [↓keeps_lit]
    | with_reducible apply keeps_foldl

theorem State.emit_keeps {z s : State} (hk : Keeps z s) (p : Nat) (b : LinkBlock) :
    Keeps z (State.emit s p b) := by
  unfold State.emit
  repeat' first | with_reducible assumption | with_reducible apply State.putPort_keeps | simp only [↓keeps_lit]

theorem State.emitNew_keeps {z s : State} (hk : Keeps z s) (p : Nat) (b : LinkBlock) :
    Keeps z (State.emitNew s p b) := by
  unfold State.emitNew
  repeat' first
    | with_reducible assumption | with_reducible apply State.putPort_keeps | with_reducible apply State.carried_keeps
    | with_reducible apply State.emit_keeps

theorem State.sendOrigin_keeps {z s : State} (hk : Keeps z s) (p : Nat) (x : Nat × Origin) :
    Keeps z (State.sendOrigin s p x) := by
  unfold State.sendOrigin
  repeat' first | with_reducible assumption | with_reducible apply State.emitNew_keeps | simp only [↓keeps_lit]

theorem State.sendTransit_keeps {z s : State} (hk : Keeps z s) (p : Nat) (y : Nat × Nat × LinkBlock) :
    Keeps z (State.sendTransit s p y) := by
  unfold State.sendTransit
  repeat' first
    | with_reducible assumption | with_reducible apply State.freeCredit_keeps
    | with_reducible apply State.emitNew_keeps | simp only [↓keeps_lit]

theorem State.sendClass_keeps {z s : State} (hk : Keeps z s) (p tc : Nat) :
    Keeps z (State.sendClass s p tc) := by
  unfold State.sendClass
  repeat' first
    | with_reducible assumption | with_reducible apply State.sendOrigin_keeps
    | with_reducible apply State.sendTransit_keeps | split

theorem State.spendTurn_keeps {z s : State} (hk : Keeps z s) (p tc : Nat) :
    Keeps z (State.spendTurn s p tc) := by
  unfold State.spendTurn
  repeat' first
    | with_reducible assumption | with_reducible apply State.modPort_keeps | with_reducible apply keeps_ite

theorem State.sendResend_keeps {z s : State} (hk : Keeps z s) (p seq : Nat) :
    Keeps z (State.sendResend s p seq) := by
  unfold State.sendResend
  repeat' first
    | with_reducible assumption | intro _ | with_reducible apply State.putPort_keeps
    | with_reducible apply State.emit_keeps | split | dsimp only

theorem execBlockSend_keeps {z s0 : State} (hk : Keeps z s0) (p : Nat) :
    OKeeps z (execBlockSend p s0) := by
  unfold execBlockSend
  repeat' first
    | with_reducible assumption | intro _ | with_reducible apply State.putPort_keeps
    | with_reducible apply State.dropUnrouted_keeps | with_reducible apply State.emit_keeps
    | with_reducible apply State.sendClass_keeps | with_reducible apply State.spendTurn_keeps
    | with_reducible apply State.sendResend_keeps | with_reducible apply keeps_next | with_reducible apply keeps_ite
    | with_reducible apply okeeps_ite | split | dsimp only

theorem execBlockForward_keeps {z s : State} (hk : Keeps z s) (p : Nat) :
    OKeeps z (execBlockForward p s) := by
  unfold execBlockForward
  repeat' first
    | with_reducible assumption | with_reducible apply State.addF_keeps | with_reducible apply State.ev_keeps
    | with_reducible apply State.freeCredit_keeps | with_reducible apply State.sendCtlBlock_keeps
    | with_reducible apply State.sendTransit_keeps | with_reducible apply State.spendTurn_keeps
    | simp only [↓keeps_lit] | with_reducible apply keeps_next | with_reducible apply okeeps_ite | split

theorem execFecUncorrectable_keeps {z s : State} (hk : Keeps z s) (p : Nat) :
    OKeeps z (execFecUncorrectable p s) := by
  unfold execFecUncorrectable
  repeat' first
    | with_reducible assumption | with_reducible apply State.addF_keeps | with_reducible apply keeps_next
    | with_reducible apply keeps_ite

theorem execBlockCrcFail_keeps {z s : State} (hk : Keeps z s) (p : Nat) :
    OKeeps z (execBlockCrcFail p s) := by
  unfold execBlockCrcFail
  repeat' first
    | with_reducible assumption | with_reducible apply State.addF_keeps | with_reducible apply keeps_next
    | with_reducible apply keeps_ite

theorem execAckTimeout_keeps {z s : State} (hk : Keeps z s) (p : Nat) :
    OKeeps z (execAckTimeout p s) := by
  unfold execAckTimeout
  repeat' first
    | with_reducible assumption | intro _ | with_reducible apply State.putPort_keeps | with_reducible apply keeps_next
    | with_reducible apply okeeps_ite | split | dsimp only

theorem State.fastRetrain_keeps {z s : State} (hk : Keeps z s) (p : Nat) :
    Keeps z (State.fastRetrain s p) := by
  unfold State.fastRetrain
  repeat' first
    | with_reducible assumption | with_reducible apply State.setF_keeps | with_reducible apply State.modPort_keeps

theorem execResendLimit_keeps {z s : State} (hk : Keeps z s) (p : Nat) :
    OKeeps z (execResendLimit p s) := by
  unfold execResendLimit
  repeat' first
    | with_reducible assumption | with_reducible apply State.fastRetrain_keeps | with_reducible apply keeps_next
    | with_reducible apply okeeps_ite

theorem State.setLanes_keeps {z s : State} (hk : Keeps z s) (p lanes : Nat) :
    Keeps z (State.setLanes s p lanes) := by
  unfold State.setLanes
  repeat' first
    | with_reducible assumption | with_reducible apply State.setF_keeps | with_reducible apply State.modPort_keeps | with_reducible apply State.ev_keeps
    | with_reducible apply keeps_ite

theorem State.activate_keeps {z s : State} (hk : Keeps z s) (p : Nat) :
    Keeps z (State.activate s p) := by
  unfold State.activate
  repeat' first
    | with_reducible assumption | with_reducible apply State.setF_keeps | with_reducible apply State.modPort_keeps

theorem State.fullTraining_keeps {z s : State} (hk : Keeps z s) (p : Nat) :
    Keeps z (State.fullTraining s p) := by
  unfold State.fullTraining
  repeat' first
    | with_reducible assumption | with_reducible apply State.linkDown_keeps
    | with_reducible apply State.startTraining_keeps

theorem execLinkTraining_keeps {z s : State} (hk : Keeps z s) (p lanes : Nat) (signal : Bool) (fabricId idTag : Nat) :
    OKeeps z (execLinkTraining p lanes signal fabricId idTag s) := by
  unfold execLinkTraining
  repeat' first
    | with_reducible assumption | with_reducible apply State.ev_keeps | with_reducible apply State.linkDown_keeps
    | with_reducible apply State.takeIdent_keeps | with_reducible apply State.setLanes_keeps
    | with_reducible apply State.activate_keeps | with_reducible apply State.fullTraining_keeps
    | simp only [↓keeps_lit] | with_reducible apply keeps_next | with_reducible apply okeeps_ite

theorem execLossOfLock_keeps {z s : State} (hk : Keeps z s) (p : Nat) :
    OKeeps z (execLossOfLock p s) := by
  unfold execLossOfLock
  repeat' first
    | with_reducible assumption | with_reducible apply State.fastRetrain_keeps | with_reducible apply keeps_next
    | with_reducible apply keeps_ite

theorem execTrainingRetry_keeps {z s : State} (hk : Keeps z s) (p : Nat) :
    OKeeps z (execTrainingRetry p s) := by
  unfold execTrainingRetry
  repeat' first
    | with_reducible assumption | with_reducible apply State.startTraining_keeps | with_reducible apply keeps_next
    | with_reducible apply okeeps_ite

theorem State.retrainPort_keeps {z s : State} (hk : Keeps z s) (p : Nat) :
    Keeps z (State.retrainPort p s) := by
  unfold State.retrainPort
  repeat' first
    | with_reducible assumption | with_reducible apply State.startTraining_keeps
    | with_reducible apply State.fastRetrain_keeps | with_reducible apply keeps_ite

theorem execRetrain_keeps {z s : State} (hk : Keeps z s) (p : Nat) :
    OKeeps z (execRetrain p s) := by
  unfold execRetrain
  repeat' first
    | with_reducible assumption | intro _ | with_reducible apply State.hostAccess_keeps
    | with_reducible apply State.retrainPort_keeps

theorem State.unquarantinePort_keeps {z s : State} (hk : Keeps z s) (p : Nat) :
    Keeps z (State.unquarantinePort p s) := by
  unfold State.unquarantinePort
  repeat' first
    | with_reducible assumption | with_reducible apply State.setF_keeps
    | with_reducible apply State.startTraining_keeps | with_reducible apply keeps_ite

theorem execUnquarantine_keeps {z s : State} (hk : Keeps z s) (p : Nat) :
    OKeeps z (execUnquarantine p s) := by
  unfold execUnquarantine
  repeat' first
    | with_reducible assumption | intro _ | with_reducible apply State.hostAccess_keeps
    | with_reducible apply State.unquarantinePort_keeps

theorem State.enablePort_keeps {z s : State} (hk : Keeps z s) (p : Nat) (en : Bool) :
    Keeps z (State.enablePort p en s) := by
  unfold State.enablePort
  repeat' first
    | with_reducible assumption | with_reducible apply State.setF_keeps | with_reducible apply State.linkDown_keeps
    | with_reducible apply State.startTraining_keeps | with_reducible apply keeps_ite

theorem execPortEnable_keeps {z s : State} (hk : Keeps z s) (p : Nat) (en : Bool) :
    OKeeps z (execPortEnable p en s) := by
  unfold execPortEnable
  repeat' first
    | with_reducible assumption | intro _ | with_reducible apply State.hostAccess_keeps
    | with_reducible apply State.enablePort_keeps

theorem State.loadRoutes_keeps {z s : State} (hk : Keeps z s) :
    Keeps z (State.loadRoutes s) := by
  unfold State.loadRoutes
  repeat' first | with_reducible assumption | simp only [↓keeps_lit]

theorem execRouteLoad_keeps {z s : State} (hk : Keeps z s) :
    OKeeps z (execRouteLoad s) := by
  unfold execRouteLoad
  repeat' first
    | with_reducible assumption | with_reducible apply State.hostAccess_keeps
    | with_reducible apply State.loadRoutes_keeps

theorem bitOf_eq (x k : Nat) : bitOf x k = x.testBit k := by
  simp [bitOf, Nat.testBit_eq_decide_div_mod_eq, beq_eq_decide]

theorem bitOf_setBits (x lo w v k : Nat) :
    bitOf (setBits x lo w v) k = if k < lo then bitOf x k else if k < lo + w then bitOf v (k - lo) else bitOf x k := by
  have e : setBits x lo w v = 2 ^ lo * (2 ^ w * (x / 2 ^ (lo + w)) + v % 2 ^ w) + x % 2 ^ lo := by
    rw [setBits, Nat.pow_add]
    ring
  simp only [bitOf_eq]
  rw [e, Nat.testBit_two_pow_mul_add _ (Nat.mod_lt _ (Nat.two_pow_pos _)),
    Nat.testBit_two_pow_mul_add _ (Nat.mod_lt _ (Nat.two_pow_pos _))]
  simp only [Nat.testBit_mod_two_pow, Nat.testBit_div_two_pow]
  split
  · simp [*]
  · split
    · rw [if_pos (by omega)]
      simp [show k - lo < w by omega]
    · rw [if_neg (by omega)]
      congr 1
      omega

theorem bitOf_blowSeed {g b : Nat} (h : bitOf g b = true) : bitOf (blowSeed g) b = true := by
  rw [blowSeed, bitOf_setBits]
  split
  · exact h
  · split
    · rw [bitOf_eq, Nat.testBit_two_pow_sub_one]
      simp
      omega
    · exact h

theorem State.writeGen_keeps {z s : State} (hk : Keeps z s) (g : Nat) (stuck : Option Nat) : Keeps z (s.writeGen g stuck).1 := by
  have put : ∀ k v, (∀ b, bitOf (s.gen k) b = true → bitOf v b = true) →
      Keeps z { s with fuses := { s.fuses with gens := s.fuses.gens.set k v } } := by
    intro k v hv
    refine ⟨hk.queue, ⟨fun g b h => ?_, hk.fuses.2⟩, hk.mem⟩
    have h1 := hk.fuses.1 g b h
    by_cases q : k = g
    · subst q
      have h2 := hv b h1
      simp only [State.gen, nth, List.getD_eq_getElem?_getD, List.getElem?_set_self'] at h1 ⊢
      cases e : s.fuses.gens[k]? with
      | none =>
        rw [e] at h1
        exact h1
      | some x => exact h2
    · simp only [State.gen, nth, List.getD_eq_getElem?_getD] at h1 ⊢
      rw [List.getElem?_set_ne q]
      exact h1
  unfold State.writeGen
  dsimp only
  split
  · exact hk
  · rename_i k hf
    have hr : s.gen k ||| sealRecord g = sealRecord g := by
      have := List.find?_some hf
      simp only [Bool.and_eq_true, beq_iff_eq] at this
      exact this.2
    have hsub : ∀ b, bitOf (s.gen k) b = true → bitOf (sealRecord g) b = true := by
      intro b h
      rw [bitOf_eq] at h ⊢
      rw [← hr, Nat.testBit_or, h]
      rfl
    split
    · split
      · refine put _ _ (fun b h => ?_)
        rw [bitOf_eq] at h ⊢
        rw [Nat.testBit_or, h]
        rfl
      · exact put _ _ hsub
    · exact put _ _ hsub

theorem State.putBank_keeps {z s : State} (hk : Keeps z s) (k : Nat) (i : Option Image) :
    Keeps z (State.putBank s k i) := by
  unfold State.putBank
  repeat' first | with_reducible assumption | simp only [↓keeps_lit] | with_reducible apply keeps_ite

theorem State.stage_keeps {z s : State} (hk : Keeps z s) (b : List Byte) :
    Keeps z (State.stage s b).1 := by
  unfold State.stage
  repeat' first
    | with_reducible assumption | with_reducible apply State.setF_keeps | with_reducible apply State.putBank_keeps

theorem State.activateBank_keeps {z s : State} (hk : Keeps z s) :
    Keeps z (State.activateBank s) := by
  unfold State.activateBank
  repeat' first | with_reducible assumption | with_reducible apply State.setF_keeps | simp only [↓keeps_lit]

theorem State.putSlot_keeps {z s : State} (hk : Keeps z s) (k : Nat) (x : BatchSlot) :
    Keeps z (State.putSlot s k x) := by
  unfold State.putSlot
  repeat' first | with_reducible assumption | with_reducible apply State.modPup_keeps

theorem State.takeSlot_keeps {z s : State} (hk : Keeps z s) :
    Keeps z (State.takeSlot s) := by
  unfold State.takeSlot
  repeat' first | with_reducible assumption | with_reducible apply State.modPup_keeps | split

theorem execLoopLaunch_keeps {z s : State} (hk : Keeps z s) :
    OKeeps z (execLoopLaunch s) := by
  unfold execLoopLaunch
  repeat' first
    | with_reducible assumption | with_reducible apply State.modPup_keeps | with_reducible apply State.launch_keeps
    | with_reducible apply State.takeSlot_keeps | with_reducible apply keeps_next | with_reducible apply okeeps_ite
    | split

theorem State.softLaunch_keeps {z s : State} (hk : Keeps z s) :
    Keeps z (State.softLaunch s) := by
  unfold State.softLaunch
  repeat' first
    | with_reducible assumption | with_reducible apply State.modPup_keeps | with_reducible apply State.launch_keeps
    | with_reducible apply State.takeSlot_keeps | with_reducible apply keeps_ite

theorem execStepLaunch_keeps {z s : State} (hk : Keeps z s) :
    OKeeps z (execStepLaunch s) := by
  unfold execStepLaunch
  repeat' first
    | with_reducible assumption | with_reducible apply State.hostAccess_keeps
    | with_reducible apply State.softLaunch_keeps

theorem execSettleExpiry_keeps {z s : State} (hk : Keeps z s) :
    OKeeps z (execSettleExpiry s) := by
  unfold execSettleExpiry
  repeat' first
    | with_reducible assumption | with_reducible apply State.modPup_keeps | with_reducible apply keeps_next
    | with_reducible apply okeeps_ite

theorem State.takeProd_keeps {z s : State} (hk : Keeps z s) (v : Nat) :
    Keeps z (State.takeProd s v) := by
  unfold State.takeProd
  repeat' first
    | with_reducible assumption | with_reducible apply State.violation_keeps | with_reducible apply State.modPup_keeps
    | with_reducible apply keeps_ite

theorem execIngestPoll_keeps {z s : State} (hk : Keeps z s) (o : HostOutcome) :
    OKeeps z (execIngestPoll o s) := by
  unfold execIngestPoll
  repeat' first
    | with_reducible assumption | with_reducible apply State.modPup_keeps | with_reducible apply State.busError_keeps
    | with_reducible apply State.takeProd_keeps | with_reducible apply keeps_next | with_reducible apply okeeps_ite

theorem State.entryDone_keeps {z s : State} (hk : Keeps z s) (status : Nat) :
    Keeps z (State.entryDone s status) := by
  unfold State.entryDone
  repeat' first
    | with_reducible assumption | with_reducible apply State.setF_keeps | with_reducible apply State.wrNat_keeps
    | with_reducible apply State.modPup_keeps

theorem State.ingestBad_keeps {z s : State} (hk : Keeps z s) (id : Nat) :
    Keeps z (State.ingestBad s id) := by
  unfold State.ingestBad
  repeat' first
    | with_reducible assumption | with_reducible apply State.tick_keeps | with_reducible apply State.ev_keeps
    | with_reducible apply State.modPup_keeps | with_reducible apply State.entryDone_keeps

theorem State.readErrors_keeps {z s : State} (hk : Keeps z s) (o : HostOutcome) :
    Keeps z (State.readErrors s o) := by
  unfold State.readErrors
  repeat' first
    | with_reducible assumption | with_reducible apply State.busError_keeps | with_reducible apply keeps_ite

theorem execIngestTake_keeps {z s : State} (hk : Keeps z s) (o : HostOutcome) :
    OKeeps z (execIngestTake o s) := by
  unfold execIngestTake
  repeat' first
    | with_reducible assumption | with_reducible apply State.modPup_keeps | with_reducible apply State.putSlot_keeps
    | with_reducible apply State.ingestBad_keeps | with_reducible apply State.readErrors_keeps
    | with_reducible apply keeps_next | with_reducible apply okeeps_ite | split

theorem execBatchPresent_keeps {z s : State} (hk : Keeps z s) (o : HostOutcome) :
    OKeeps z (execBatchPresent o s) := by
  unfold execBatchPresent
  repeat' first
    | with_reducible assumption | with_reducible apply State.wrBytes_keeps | with_reducible apply State.unpoison_keeps
    | with_reducible apply State.putSlot_keeps | with_reducible apply State.entryDone_keeps
    | with_reducible apply State.ingestBad_keeps | with_reducible apply State.readErrors_keeps
    | with_reducible apply keeps_next | with_reducible apply okeeps_ite | split

theorem execIngestStall_keeps {z s : State} (hk : Keeps z s) :
    OKeeps z (execIngestStall s) := by
  unfold execIngestStall
  repeat' first
    | with_reducible assumption | with_reducible apply State.ev_keeps | with_reducible apply State.modPup_keeps
    | with_reducible apply keeps_next | with_reducible apply okeeps_ite | split

theorem execSvcSeed_keeps {z s : State} (hk : Keeps z s) (id : Nat) :
    OKeeps z (execSvcSeed id s) := by
  unfold execSvcSeed
  repeat' first
    | with_reducible assumption | intro _ | with_reducible apply State.modPass_keeps
    | with_reducible apply State.finishes_keeps | with_reducible apply State.startIf_keeps
    | with_reducible apply keeps_ite

theorem execSvcCkpt_keeps {z s : State} (hk : Keeps z s) (id : Nat) :
    OKeeps z (execSvcCkpt id s) := by
  unfold execSvcCkpt
  repeat' first
    | with_reducible assumption | intro _ | with_reducible apply State.modPass_keeps
    | with_reducible apply State.putInst_keeps | with_reducible apply State.fails_keeps
    | with_reducible apply State.startIf_keeps | with_reducible apply keeps_ite

theorem execSvcScrub_keeps {z s : State} (hk : Keeps z s) (id : Nat) :
    OKeeps z (execSvcScrub id s) := by
  unfold execSvcScrub
  repeat' first
    | with_reducible assumption | intro _ | with_reducible apply State.putInst_keeps
    | with_reducible apply State.fails_keeps | with_reducible apply State.startIf_keeps
    | with_reducible apply State.startScrub_keeps | with_reducible apply keeps_ite

theorem execSvcRecord_keeps {z s : State} (hk : Keeps z s) (id : Nat) :
    OKeeps z (execSvcRecord id s) := by
  unfold execSvcRecord
  repeat' first
    | with_reducible assumption | intro _ | with_reducible apply State.wrElems_keeps
    | with_reducible apply State.fails_keeps | with_reducible apply State.finishes_keeps
    | with_reducible apply State.startIf_keeps | with_reducible apply keeps_ite

theorem State.tryHalt_keeps {z s : State} (hk : Keeps z s) :
    Keeps z (State.tryHalt s) := by
  unfold State.tryHalt
  repeat' first | with_reducible assumption | with_reducible apply State.loopOn_keeps | with_reducible apply keeps_ite

theorem State.beginCmd_keeps {z s : State} (hk : Keeps z s) (v : Nat) :
    Keeps z (State.beginCmd s v) := by
  unfold State.beginCmd
  repeat' first
    | with_reducible assumption | with_reducible apply State.setF_keeps | with_reducible apply State.modPup_keeps
    | with_reducible apply State.wakeUp_keeps

theorem State.svcTake_keeps {z s : State} (hk : Keeps z s) (v : Nat) (run : State → SvcCmd → State)
    (h_run : ∀ a0 a1, Keeps z a0 → Keeps z (run a0 a1)) :
    Keeps z (State.svcTake v run s) := by
  unfold State.svcTake
  repeat' first
    | with_reducible assumption | intro _ | with_reducible apply h_run | with_reducible apply State.endCmd_keeps
    | with_reducible apply State.beginCmd_keeps | with_reducible apply keeps_ite | split | dsimp only

theorem State.svcWait_keeps {z s : State} (hk : Keeps z s) (v : Nat) :
    Keeps z (State.svcWait v s) := by
  unfold State.svcWait
  repeat' first
    | with_reducible assumption | with_reducible apply State.setF_keeps | with_reducible apply State.modPup_keeps
    | with_reducible apply State.wakeUp_keeps

theorem State.svcEffect_keeps {z s : State} (hk : Keeps z s) (v : Nat) (mine : Nat → Bool)
    (run : State → SvcCmd → State) (h_run : ∀ a0 a1, Keeps z a0 → Keeps z (run a0 a1)) :
    Keeps z (State.svcEffect v mine run s) := by
  unfold State.svcEffect
  repeat' first
    | with_reducible assumption | intro _ | with_reducible apply h_run | with_reducible apply State.violation_keeps
    | with_reducible apply State.svcTake_keeps | with_reducible apply State.svcWait_keeps
    | with_reducible apply keeps_ite | split | dsimp only

theorem State.svcRow_keeps {z s : State} (hk : Keeps z s) (c : Instr) (v : Nat) (mine : Nat → Bool)
    (run : State → SvcCmd → State) (h_run : ∀ a0 a1, Keeps z a0 → Keeps z (run a0 a1)) :
    OKeeps z (State.svcRow s c v mine run) := by
  unfold State.svcRow
  repeat' first
    | with_reducible assumption | intro _ | with_reducible apply h_run | with_reducible apply State.hostAccess_keeps
    | with_reducible apply State.svcEffect_keeps

theorem State.loopStart_keeps {z s : State} (hk : Keeps z s) (x : SvcCmd) :
    Keeps z (State.loopStart s x) := by
  unfold State.loopStart
  repeat' first
    | with_reducible assumption | with_reducible apply State.setF_keeps | with_reducible apply State.modPup_keeps
    | with_reducible apply State.endCmd_keeps | with_reducible apply keeps_ite

theorem execLoopStart_keeps {z s : State} (hk : Keeps z s) (v : Nat) :
    OKeeps z (execLoopStart v s) := by
  unfold execLoopStart
  repeat' first
    | with_reducible assumption | intro _ | with_reducible apply State.svcRow_keeps
    | with_reducible apply State.loopStart_keeps

theorem State.loopStop_keeps {z s : State} (hk : Keeps z s) :
    Keeps z (State.loopStop s) := by
  unfold State.loopStop
  repeat' first
    | with_reducible assumption | with_reducible apply State.setF_keeps | with_reducible apply State.endCmd_keeps
    | with_reducible apply State.tryHalt_keeps | with_reducible apply keeps_ite

theorem execLoopStop_keeps {z s : State} (hk : Keeps z s) (v : Nat) :
    OKeeps z (execLoopStop v s) := by
  unfold execLoopStop
  repeat' first
    | with_reducible assumption | intro _ | with_reducible apply State.svcRow_keeps
    | with_reducible apply State.loopStop_keeps

theorem State.loopRestart_keeps {z s : State} (hk : Keeps z s) (x : SvcCmd) :
    Keeps z (State.loopRestart s x) := by
  unfold State.loopRestart
  repeat' first
    | with_reducible assumption | with_reducible apply State.setF_keeps | with_reducible apply State.endCmd_keeps
    | with_reducible apply State.setPst_keeps | with_reducible apply State.startRecovery_keeps
    | with_reducible apply State.tryClears_keeps | with_reducible apply State.replayNext_keeps
    | with_reducible apply keeps_ite

theorem execLoopRestart_keeps {z s : State} (hk : Keeps z s) (v : Nat) :
    OKeeps z (execLoopRestart v s) := by
  unfold execLoopRestart
  repeat' first
    | with_reducible assumption | intro _ | with_reducible apply State.svcRow_keeps
    | with_reducible apply State.loopRestart_keeps

theorem State.restoreHost_keeps {z s : State} (hk : Keeps z s) (x : SvcCmd) :
    Keeps z (State.restoreHost s x) := by
  unfold State.restoreHost
  repeat' first
    | with_reducible assumption | with_reducible apply State.modPass_keeps | with_reducible apply State.modPup_keeps
    | with_reducible apply State.restoreFrom_keeps | with_reducible apply State.abandonCkpts_keeps
    | with_reducible apply State.endCmd_keeps | with_reducible apply State.withdraw_keeps
    | with_reducible apply State.setPst_keeps | with_reducible apply keeps_ite

theorem execRestoreHost_keeps {z s : State} (hk : Keeps z s) (v : Nat) :
    OKeeps z (execRestoreHost v s) := by
  unfold execRestoreHost
  repeat' first
    | with_reducible assumption | intro _ | with_reducible apply State.svcRow_keeps
    | with_reducible apply State.restoreHost_keeps

theorem execCkptNow_keeps {z s : State} (hk : Keeps z s) (v : Nat) :
    OKeeps z (execCkptNow v s) := by
  unfold execCkptNow
  repeat' first
    | with_reducible assumption | intro _ | with_reducible apply State.modPass_keeps
    | with_reducible apply State.svcRow_keeps

theorem State.fwStage_keeps {z s : State} (hk : Keeps z s) (x : SvcCmd) :
    Keeps z (State.fwStage s x) := by
  unfold State.fwStage
  repeat' first
    | with_reducible assumption | with_reducible apply State.setF_keeps | with_reducible apply State.endCmd_keeps
    | with_reducible apply State.putBank_keeps | with_reducible apply State.stage_keeps
    | with_reducible apply keeps_ite

theorem execFwStage_keeps {z s : State} (hk : Keeps z s) (v : Nat) :
    OKeeps z (execFwStage v s) := by
  unfold execFwStage
  repeat' first
    | with_reducible assumption | intro _ | with_reducible apply State.svcRow_keeps
    | with_reducible apply State.fwStage_keeps

theorem State.fwActivate_keeps {z s : State} (hk : Keeps z s) :
    Keeps z (State.fwActivate s) := by
  unfold State.fwActivate
  repeat' first
    | with_reducible assumption | with_reducible apply State.endCmd_keeps
    | with_reducible apply State.activateBank_keeps | with_reducible apply keeps_ite

theorem execFwActivate_keeps {z s : State} (hk : Keeps z s) (v : Nat) :
    OKeeps z (execFwActivate v s) := by
  unfold execFwActivate
  repeat' first
    | with_reducible assumption | intro _ | with_reducible apply State.svcRow_keeps
    | with_reducible apply State.fwActivate_keeps

theorem execServiceBadCmd_keeps {z s : State} (hk : Keeps z s) (v : Nat) :
    OKeeps z (execServiceBadCmd v s) := by
  unfold execServiceBadCmd
  repeat' first
    | with_reducible assumption | intro _ | with_reducible apply State.endCmd_keeps
    | with_reducible apply State.svcRow_keeps

theorem State.svcRun_keeps {z t : State} (hk : Keeps z t) (x : SvcCmd) :
    Keeps z (State.svcRun t x) := by
  unfold State.svcRun
  repeat' first
    | with_reducible assumption | with_reducible apply State.modPass_keeps | with_reducible apply State.endCmd_keeps
    | with_reducible apply State.loopStart_keeps | with_reducible apply State.loopStop_keeps
    | with_reducible apply State.loopRestart_keeps | with_reducible apply State.restoreHost_keeps
    | with_reducible apply State.fwStage_keeps | with_reducible apply State.fwActivate_keeps
    | with_reducible apply keeps_ite

theorem State.svcWrite_keeps {z s : State} (hk : Keeps z s) (v : Nat) :
    Keeps z (State.svcWrite v s) := by
  unfold State.svcWrite
  repeat' first
    | with_reducible assumption | intro _ | with_reducible apply State.svcEffect_keeps
    | with_reducible apply State.svcRun_keeps

theorem State.svcLate_keeps {z s : State} (hk : Keeps z s) :
    Keeps z (State.svcLate s) := by
  unfold State.svcLate
  repeat' first
    | with_reducible assumption | intro _ | with_reducible apply State.modPup_keeps
    | with_reducible apply State.svcTake_keeps | with_reducible apply State.svcRun_keeps
    | with_reducible apply keeps_ite | split

theorem State.consumePosts_keeps {z s : State} (hk : Keeps z s) (i : Inst) :
    Keeps z (State.consumePosts s i) := by
  unfold State.consumePosts
  repeat' first | with_reducible assumption | simp only [↓keeps_lit] | split

theorem State.irregularCounts_keeps {z s : State} (hk : Keeps z s) (c : MemberCount) :
    Keeps z (State.irregularCounts s c) := by
  unfold State.irregularCounts
  repeat' first
    | with_reducible assumption | with_reducible apply State.addF_keeps | with_reducible apply State.evI_keeps
    | with_reducible apply keeps_ite | split

theorem State.runWhole_keeps {z s : State} (hk : Keeps z s) (i : Inst) (ms : List Inst) :
    Keeps z (State.runWhole s i ms) := by
  unfold State.runWhole
  repeat' first
    | with_reducible assumption | intro _ | with_reducible apply State.modInst_keeps
    | with_reducible apply State.wrElems_keeps | with_reducible apply State.wrEncoded_keeps
    | with_reducible apply State.wrPart_keeps | with_reducible apply State.endChain_keeps
    | with_reducible apply State.irregularCounts_keeps | with_reducible apply keeps_ite
    | with_reducible apply keeps_foldl | split

theorem State.runTile_keeps {z s : State} (hk : Keeps z s) (i : Inst) (ms : List Inst) (k : Nat) :
    Keeps z (State.runTile s i ms k) := by
  unfold State.runTile
  repeat' first
    | with_reducible assumption | intro _ | with_reducible apply State.modInst_keeps
    | with_reducible apply State.wrPart_keeps | with_reducible apply keeps_foldl | split | dsimp only

theorem State.feed_keeps {z s : State} (hk : Keeps z s) (i : Inst) (ms : List Inst) :
    Keeps z (State.feed s i ms) := by
  unfold State.feed
  repeat' first
    | with_reducible assumption | intro _ | with_reducible apply State.modInst_keeps
    | with_reducible apply State.consumePosts_keeps | with_reducible apply State.runWhole_keeps
    | with_reducible apply State.runTile_keeps | with_reducible apply keeps_ite | with_reducible apply keeps_foldl

theorem State.starve_keeps {z s : State} (hk : Keeps z s) (i : Inst) (ms : List Inst) :
    Keeps z (State.starve s i ms) := by
  unfold State.starve
  repeat' first
    | with_reducible assumption | with_reducible apply State.endChain_keeps
    | with_reducible apply State.tagLines_keeps | with_reducible apply State.consumePosts_keeps

theorem State.runVec_keeps {z s : State} (hk : Keeps z s) (i : Inst) :
    Keeps z (State.runVec s i) := by
  unfold State.runVec
  repeat' first
    | with_reducible assumption | intro _ | with_reducible apply State.endChain_keeps
    | with_reducible apply State.consumePosts_keeps | with_reducible apply State.runWhole_keeps
    | with_reducible apply State.feed_keeps | with_reducible apply keeps_ite | split

theorem State.startVec_keeps {z s : State} (hk : Keeps z s) (op id : Nat) :
    OKeeps z (State.startVec s op id) := by
  unfold State.startVec
  repeat' first
    | with_reducible assumption | with_reducible apply State.settleTags_keeps
    | with_reducible apply State.startIf_keeps | with_reducible apply State.feed_keeps
    | with_reducible apply State.starve_keeps | with_reducible apply State.runVec_keeps
    | with_reducible apply keeps_next | with_reducible apply keeps_ite | with_reducible apply okeeps_ite | split

theorem execVecAdd_keeps {z s : State} (hk : Keeps z s) (id : Nat) :
    OKeeps z (execVecAdd id s) := by
  unfold execVecAdd
  repeat' first | with_reducible assumption | with_reducible apply State.startVec_keeps

theorem execVecSub_keeps {z s : State} (hk : Keeps z s) (id : Nat) :
    OKeeps z (execVecSub id s) := by
  unfold execVecSub
  repeat' first | with_reducible assumption | with_reducible apply State.startVec_keeps

theorem execVecMul_keeps {z s : State} (hk : Keeps z s) (id : Nat) :
    OKeeps z (execVecMul id s) := by
  unfold execVecMul
  repeat' first | with_reducible assumption | with_reducible apply State.startVec_keeps

theorem execVecFma_keeps {z s : State} (hk : Keeps z s) (id : Nat) :
    OKeeps z (execVecFma id s) := by
  unfold execVecFma
  repeat' first | with_reducible assumption | with_reducible apply State.startVec_keeps

theorem execVecMin_keeps {z s : State} (hk : Keeps z s) (id : Nat) :
    OKeeps z (execVecMin id s) := by
  unfold execVecMin
  repeat' first | with_reducible assumption | with_reducible apply State.startVec_keeps

theorem execVecMax_keeps {z s : State} (hk : Keeps z s) (id : Nat) :
    OKeeps z (execVecMax id s) := by
  unfold execVecMax
  repeat' first | with_reducible assumption | with_reducible apply State.startVec_keeps

theorem execVecAbs_keeps {z s : State} (hk : Keeps z s) (id : Nat) :
    OKeeps z (execVecAbs id s) := by
  unfold execVecAbs
  repeat' first | with_reducible assumption | with_reducible apply State.startVec_keeps

theorem execVecNeg_keeps {z s : State} (hk : Keeps z s) (id : Nat) :
    OKeeps z (execVecNeg id s) := by
  unfold execVecNeg
  repeat' first | with_reducible assumption | with_reducible apply State.startVec_keeps

theorem execVecAnd_keeps {z s : State} (hk : Keeps z s) (id : Nat) :
    OKeeps z (execVecAnd id s) := by
  unfold execVecAnd
  repeat' first | with_reducible assumption | with_reducible apply State.startVec_keeps

theorem execVecOr_keeps {z s : State} (hk : Keeps z s) (id : Nat) :
    OKeeps z (execVecOr id s) := by
  unfold execVecOr
  repeat' first | with_reducible assumption | with_reducible apply State.startVec_keeps

theorem execVecXor_keeps {z s : State} (hk : Keeps z s) (id : Nat) :
    OKeeps z (execVecXor id s) := by
  unfold execVecXor
  repeat' first | with_reducible assumption | with_reducible apply State.startVec_keeps

theorem execVecNot_keeps {z s : State} (hk : Keeps z s) (id : Nat) :
    OKeeps z (execVecNot id s) := by
  unfold execVecNot
  repeat' first | with_reducible assumption | with_reducible apply State.startVec_keeps

theorem execVecShl_keeps {z s : State} (hk : Keeps z s) (id : Nat) :
    OKeeps z (execVecShl id s) := by
  unfold execVecShl
  repeat' first | with_reducible assumption | with_reducible apply State.startVec_keeps

theorem execVecShr_keeps {z s : State} (hk : Keeps z s) (id : Nat) :
    OKeeps z (execVecShr id s) := by
  unfold execVecShr
  repeat' first | with_reducible assumption | with_reducible apply State.startVec_keeps

theorem execVecSar_keeps {z s : State} (hk : Keeps z s) (id : Nat) :
    OKeeps z (execVecSar id s) := by
  unfold execVecSar
  repeat' first | with_reducible assumption | with_reducible apply State.startVec_keeps

theorem execVecCmp_keeps {z s : State} (hk : Keeps z s) (id : Nat) :
    OKeeps z (execVecCmp id s) := by
  unfold execVecCmp
  repeat' first | with_reducible assumption | with_reducible apply State.startVec_keeps

theorem execVecSel_keeps {z s : State} (hk : Keeps z s) (id : Nat) :
    OKeeps z (execVecSel id s) := by
  unfold execVecSel
  repeat' first | with_reducible assumption | with_reducible apply State.startVec_keeps

theorem execVecFunc_keeps {z s : State} (hk : Keeps z s) (id : Nat) :
    OKeeps z (execVecFunc id s) := by
  unfold execVecFunc
  repeat' first | with_reducible assumption | with_reducible apply State.startVec_keeps

theorem execVecCvt_keeps {z s : State} (hk : Keeps z s) (id : Nat) :
    OKeeps z (execVecCvt id s) := by
  unfold execVecCvt
  repeat' first | with_reducible assumption | with_reducible apply State.startVec_keeps

theorem execVecGather_keeps {z s : State} (hk : Keeps z s) (id : Nat) :
    OKeeps z (execVecGather id s) := by
  unfold execVecGather
  repeat' first | with_reducible assumption | with_reducible apply State.startVec_keeps

theorem execVecScatadd_keeps {z s : State} (hk : Keeps z s) (id : Nat) :
    OKeeps z (execVecScatadd id s) := by
  unfold execVecScatadd
  repeat' first | with_reducible assumption | with_reducible apply State.startVec_keeps

theorem execVecSegsum_keeps {z s : State} (hk : Keeps z s) (id : Nat) :
    OKeeps z (execVecSegsum id s) := by
  unfold execVecSegsum
  repeat' first | with_reducible assumption | with_reducible apply State.startVec_keeps

theorem execVecSegmax_keeps {z s : State} (hk : Keeps z s) (id : Nat) :
    OKeeps z (execVecSegmax id s) := by
  unfold execVecSegmax
  repeat' first | with_reducible assumption | with_reducible apply State.startVec_keeps

theorem execVecSort_keeps {z s : State} (hk : Keeps z s) (id : Nat) :
    OKeeps z (execVecSort id s) := by
  unfold execVecSort
  repeat' first | with_reducible assumption | with_reducible apply State.startVec_keeps

theorem execVecTopk_keeps {z s : State} (hk : Keeps z s) (id : Nat) :
    OKeeps z (execVecTopk id s) := by
  unfold execVecTopk
  repeat' first | with_reducible assumption | with_reducible apply State.startVec_keeps

theorem execVecHist_keeps {z s : State} (hk : Keeps z s) (id : Nat) :
    OKeeps z (execVecHist id s) := by
  unfold execVecHist
  repeat' first | with_reducible assumption | with_reducible apply State.startVec_keeps

theorem State.writeCols_keeps {z s : State} (hk : Keeps z s) (i : Inst) (k : Nat) (vs : List Val) :
    Keeps z (State.writeCols s i k vs).1 := by
  unfold State.writeCols
  repeat' first
    | with_reducible assumption | with_reducible apply State.wrEncoded_keeps | with_reducible apply keeps_ite1

theorem State.noteFlags_keeps {z s : State} (hk : Keeps z s) (i : Inst) (k : Nat) (fs : List Nat) :
    Keeps z (State.noteFlags s i k fs) := by
  unfold State.noteFlags
  repeat' first
    | with_reducible assumption | with_reducible apply State.addF_keeps | with_reducible apply State.wrElems_keeps
    | with_reducible apply keeps_ite

theorem State.fillStat_keeps {z s : State} (hk : Keeps z s) (i : Inst) (ss : List RowStat) (fs : List Nat) :
    Keeps z (State.fillStat s i ss fs) := by
  unfold State.fillStat
  repeat' first
    | with_reducible assumption | intro _ | with_reducible apply State.fillFrame_keeps | split | dsimp only

theorem State.runRows_keeps {z s : State} (hk : Keeps z s) (i : Inst) (flagSlot : Nat)
    (forward : Bool) (run : State → RowsOut) :
    Keeps z (State.runRows s i flagSlot forward run) := by
  unfold State.runRows
  repeat' first
    | with_reducible assumption | intro _ | with_reducible apply State.putInst_keeps
    | with_reducible apply State.wrEncoded_keeps | with_reducible apply State.fails_keeps
    | with_reducible apply State.claimFails_keeps | with_reducible apply State.readFrames_keeps
    | with_reducible apply State.writeCols_keeps | with_reducible apply State.noteFlags_keeps
    | with_reducible apply State.fillStat_keeps | with_reducible apply keeps_ite | with_reducible apply keeps_ite1
    | split | dsimp only

theorem execRowNorm_keeps {z s : State} (hk : Keeps z s) (id : Nat) :
    OKeeps z (execRowNorm id s) := by
  unfold execRowNorm
  repeat' first
    | with_reducible assumption | intro _ | with_reducible apply State.start_keeps
    | with_reducible apply State.runRows_keeps

theorem execRowNormb_keeps {z s : State} (hk : Keeps z s) (id : Nat) :
    OKeeps z (execRowNormb id s) := by
  unfold execRowNormb
  repeat' first
    | with_reducible assumption | intro _ | with_reducible apply State.start_keeps
    | with_reducible apply State.runRows_keeps

theorem execRowSmax_keeps {z s : State} (hk : Keeps z s) (id : Nat) :
    OKeeps z (execRowSmax id s) := by
  unfold execRowSmax
  repeat' first
    | with_reducible assumption | intro _ | with_reducible apply State.start_keeps
    | with_reducible apply State.runRows_keeps

theorem execRowSmaxb_keeps {z s : State} (hk : Keeps z s) (id : Nat) :
    OKeeps z (execRowSmaxb id s) := by
  unfold execRowSmaxb
  repeat' first
    | with_reducible assumption | intro _ | with_reducible apply State.start_keeps
    | with_reducible apply State.runRows_keeps

theorem execRowLse_keeps {z s : State} (hk : Keeps z s) (id : Nat) :
    OKeeps z (execRowLse id s) := by
  unfold execRowLse
  repeat' first
    | with_reducible assumption | intro _ | with_reducible apply State.start_keeps
    | with_reducible apply State.runRows_keeps

theorem execRowLseb_keeps {z s : State} (hk : Keeps z s) (id : Nat) :
    OKeeps z (execRowLseb id s) := by
  unfold execRowLseb
  repeat' first
    | with_reducible assumption | intro _ | with_reducible apply State.start_keeps
    | with_reducible apply State.runRows_keeps

end Sys2Proof.Machine
end

