-- ==== Sys2Proof/Laws/KeepsHost.lean ====
section
/-! SUPPORT. What every step keeps, went on with: the lemmas `<f>_keeps` of Laws/KeepsSched.lean for
the host interface, the power states, the program load, the replay tables and the windows. -/

namespace Sys2Proof.Machine

set_option linter.unusedTactic false
set_option linter.unreachableTactic false
set_option linter.unusedVariables false
set_option Elab.async false

theorem State.ringDoorbell_keeps {z s : State} (hk : Keeps z s) (q v : Nat) :
    Keeps z (State.ringDoorbell q v s) := by
  unfold State.ringDoorbell
  repeat' first
    | with_reducible assumption | with_reducible apply State.setF_keeps | with_reducible apply State.violation_keeps
    | with_reducible apply State.wakeUp_keeps | with_reducible apply keeps_ite

theorem execDoorbell_keeps {z s : State} (hk : Keeps z s) (q v : Nat) :
    OKeeps z (execDoorbell q v s) := by
  unfold execDoorbell
  repeat' first
    | with_reducible assumption | intro _ | with_reducible apply State.hostAccess_keeps
    | with_reducible apply State.ringDoorbell_keeps

theorem State.wakeIngest_keeps {z s : State} (hk : Keeps z s) :
    Keeps z (State.wakeIngest s) := by
  unfold State.wakeIngest
  repeat' first | with_reducible assumption | with_reducible apply State.modPup_keeps

theorem execIngestWake_keeps {z s : State} (hk : Keeps z s) (v : Nat) :
    OKeeps z (execIngestWake v s) := by
  unfold execIngestWake
  repeat' first
    | with_reducible assumption | with_reducible apply State.hostAccess_keeps
    | with_reducible apply State.wakeIngest_keeps

theorem State.tokenClear_keeps {z s : State} (hk : Keeps z s) :
    Keeps z (State.tokenClear s) := by
  unfold State.tokenClear
  repeat' first
    | with_reducible assumption | with_reducible apply State.clearTokens_keeps | with_reducible apply keeps_ite

theorem execTokenClearAll_keeps {z s : State} (hk : Keeps z s) :
    OKeeps z (execTokenClearAll s) := by
  unfold execTokenClearAll
  repeat' first
    | with_reducible assumption | with_reducible apply State.hostAccess_keeps
    | with_reducible apply State.tokenClear_keeps

theorem State.setRun_keeps {z s : State} (hk : Keeps z s) (on : Bool) :
    Keeps z (State.setRun on s) := by
  unfold State.setRun
  repeat' first
    | with_reducible assumption | with_reducible apply State.setF_keeps | with_reducible apply State.tryHalt_keeps
    | with_reducible apply keeps_ite

theorem execRun_keeps {z s : State} (hk : Keeps z s) (on : Bool) :
    OKeeps z (execRun on s) := by
  unfold execRun
  repeat' first
    | with_reducible assumption | intro _ | with_reducible apply State.hostAccess_keeps
    | with_reducible apply State.setRun_keeps

theorem State.setQueue_keeps {z s : State} (hk : Keeps z s) (q v : Nat) :
    Keeps z (State.setQueue s q v) := by
  unfold State.setQueue
  repeat' first | with_reducible assumption | with_reducible apply State.setF_keeps

theorem State.queueWrite_keeps {z s : State} (hk : Keeps z s) (q v : Nat) :
    Keeps z (State.queueWrite q v s) := by
  unfold State.queueWrite
  repeat' first
    | with_reducible assumption | with_reducible apply State.setF_keeps | with_reducible apply State.ev_keeps
    | with_reducible apply State.putQst_keeps | with_reducible apply State.setQueue_keeps
    | with_reducible apply keeps_ite

theorem execQueueCfg_keeps {z s : State} (hk : Keeps z s) (q v : Nat) :
    OKeeps z (execQueueCfg q v s) := by
  unfold execQueueCfg
  repeat' first
    | with_reducible assumption | intro _ | with_reducible apply State.hostAccess_keeps
    | with_reducible apply State.queueWrite_keeps

theorem State.cqWrite_keeps {z s : State} (hk : Keeps z s) (n v : Nat) :
    Keeps z (State.cqWrite n v s) := by
  unfold State.cqWrite
  repeat' first
    | with_reducible assumption | with_reducible apply State.setF_keeps | with_reducible apply State.ev_keeps
    | with_reducible apply State.drainCq_keeps | simp only [↓keeps_lit] | with_reducible apply keeps_ite

theorem execCqCfg_keeps {z s : State} (hk : Keeps z s) (n v : Nat) :
    OKeeps z (execCqCfg n v s) := by
  unfold execCqCfg
  repeat' first
    | with_reducible assumption | intro _ | with_reducible apply State.hostAccess_keeps
    | with_reducible apply State.cqWrite_keeps

theorem State.cqHeadWrite_keeps {z s : State} (hk : Keeps z s) (n h : Nat) :
    Keeps z (State.cqHeadWrite n h s) := by
  unfold State.cqHeadWrite
  repeat' first
    | with_reducible assumption | with_reducible apply State.setF_keeps | with_reducible apply State.drainCq_keeps
    | with_reducible apply keeps_ite

theorem execCqHead_keeps {z s : State} (hk : Keeps z s) (n head : Nat) :
    OKeeps z (execCqHead n head s) := by
  unfold execCqHead
  repeat' first
    | with_reducible assumption | intro _ | with_reducible apply State.hostAccess_keeps
    | with_reducible apply State.cqHeadWrite_keeps

theorem State.quotaRegs_keeps {z s : State} (hk : Keeps z s) (defer : Bool) (v : Nat) :
    Keeps z (State.quotaRegs defer v s) := by
  unfold State.quotaRegs
  repeat' first
    | with_reducible assumption | with_reducible apply State.setF_keeps
    | with_reducible apply State.quotasIfIdle_keeps | with_reducible apply keeps_ite

theorem execQuotaWrite_keeps {z s : State} (hk : Keeps z s) (defer : Bool) (v : Nat) :
    OKeeps z (execQuotaWrite defer v s) := by
  unfold execQuotaWrite
  repeat' first
    | with_reducible assumption | intro _ | with_reducible apply State.hostAccess_keeps
    | with_reducible apply State.quotaRegs_keeps

theorem State.infoWrite_keeps {z s : State} (hk : Keeps z s) (v : Nat) :
    Keeps z (State.infoWrite v s) := by
  unfold State.infoWrite
  repeat' first
    | with_reducible assumption | intro _ | with_reducible apply State.putLayer_keeps
    | with_reducible apply State.takeInfo_keeps | with_reducible apply keeps_ite | split | dsimp only

theorem execLinfoWrite_keeps {z s : State} (hk : Keeps z s) (v : Nat) :
    OKeeps z (execLinfoWrite v s) := by
  unfold execLinfoWrite
  repeat' first
    | with_reducible assumption | intro _ | with_reducible apply State.hostAccess_keeps
    | with_reducible apply State.infoWrite_keeps

theorem State.forceProbes_keeps {z s : State} (hk : Keeps z s) :
    Keeps z (State.forceProbes s) := by
  unfold State.forceProbes
  repeat' first | with_reducible assumption | simp only [↓keeps_lit]

theorem execForceProbe_keeps {z s : State} (hk : Keeps z s) :
    OKeeps z (execForceProbe s) := by
  unfold execForceProbe
  repeat' first
    | with_reducible assumption | with_reducible apply State.hostAccess_keeps
    | with_reducible apply State.forceProbes_keeps

theorem State.clearQuarantine_keeps {z s : State} (hk : Keeps z s) :
    Keeps z (State.clearQuarantine s) := by
  unfold State.clearQuarantine
  repeat' first
    | with_reducible assumption | with_reducible apply State.showQuarantine_keeps | simp only [↓keeps_lit]
    | with_reducible apply keeps_ite

theorem execQclear_keeps {z s : State} (hk : Keeps z s) :
    OKeeps z (execQclear s) := by
  unfold execQclear
  repeat' first
    | with_reducible assumption | with_reducible apply State.hostAccess_keeps
    | with_reducible apply State.clearQuarantine_keeps

theorem State.latchHead_keeps {z s : State} (hk : Keeps z s) :
    Keeps z (State.latchHead s) := by
  unfold State.latchHead
  repeat' first | with_reducible assumption | with_reducible apply State.setF_keeps

theorem State.rateWrite_keeps {z s : State} (hk : Keeps z s) (v : Nat) :
    Keeps z (State.rateWrite v s) := by
  unfold State.rateWrite
  repeat' first | with_reducible assumption | with_reducible apply State.putRate_keeps

theorem execEvtRate_keeps {z s : State} (hk : Keeps z s) (v : Nat) :
    OKeeps z (execEvtRate v s) := by
  unfold execEvtRate
  repeat' first
    | with_reducible assumption | intro _ | with_reducible apply State.hostAccess_keeps
    | with_reducible apply State.rateWrite_keeps

theorem State.unmask_keeps {z s : State} (hk : Keeps z s) (vec : Nat) :
    Keeps z (State.unmask vec s) := by
  unfold State.unmask
  repeat' first | with_reducible assumption | simp only [↓keeps_lit] | with_reducible apply keeps_ite

theorem State.mask_keeps {z s : State} (hk : Keeps z s) (vec : Nat) :
    Keeps z (State.mask vec s) := by
  unfold State.mask
  repeat' first | with_reducible assumption | simp only [↓keeps_lit]

theorem execMsixUnmask_keeps {z s : State} (hk : Keeps z s) (vec : Nat) :
    OKeeps z (execMsixUnmask vec s) := by
  unfold execMsixUnmask
  repeat' first
    | with_reducible assumption | intro _ | with_reducible apply State.hostAccess_keeps
    | with_reducible apply State.unmask_keeps

theorem State.pend_keeps {z s : State} (hk : Keeps z s) (target : Nat) :
    Keeps z (State.pend s target) := by
  unfold State.pend
  repeat' first
    | with_reducible assumption | with_reducible apply State.setF_keeps | with_reducible apply State.ev_keeps
    | with_reducible apply State.pwrInt_keeps | with_reducible apply keeps_ite

theorem State.requestState_keeps {z s : State} (hk : Keeps z s) (target : Nat) :
    Keeps z (State.requestState target s) := by
  unfold State.requestState
  repeat' first
    | with_reducible assumption | with_reducible apply State.setF_keeps | with_reducible apply State.wakeUp_keeps
    | with_reducible apply State.pend_keeps | with_reducible apply keeps_ite

theorem execRequestIdle_keeps {z s : State} (hk : Keeps z s) :
    OKeeps z (execRequestIdle s) := by
  unfold execRequestIdle
  repeat' first
    | with_reducible assumption | intro _ | with_reducible apply State.hostAccess_keeps
    | with_reducible apply State.requestState_keeps

theorem execRequestDoze_keeps {z s : State} (hk : Keeps z s) :
    OKeeps z (execRequestDoze s) := by
  unfold execRequestDoze
  repeat' first
    | with_reducible assumption | intro _ | with_reducible apply State.hostAccess_keeps
    | with_reducible apply State.requestState_keeps

theorem execRequestDeep_keeps {z s : State} (hk : Keeps z s) :
    OKeeps z (execRequestDeep s) := by
  unfold execRequestDeep
  repeat' first
    | with_reducible assumption | intro _ | with_reducible apply State.hostAccess_keeps
    | with_reducible apply State.requestState_keeps

theorem execD3hotEntry_keeps {z s : State} (hk : Keeps z s) :
    OKeeps z (execD3hotEntry s) := by
  unfold execD3hotEntry
  repeat' first
    | with_reducible assumption | with_reducible apply State.requestState_keeps | simp only [↓keeps_lit]
    | with_reducible apply keeps_next | with_reducible apply okeeps_ite

theorem execD0Return_keeps {z s : State} (hk : Keeps z s) :
    OKeeps z (execD0Return s) := by
  unfold execD0Return
  repeat' first
    | with_reducible assumption | with_reducible apply State.requestState_keeps | simp only [↓keeps_lit]
    | with_reducible apply keeps_next | with_reducible apply okeeps_ite

theorem State.keepAlive_keeps {z s : State} (hk : Keeps z s) :
    Keeps z (State.keepAlive s) := by
  unfold State.keepAlive
  repeat' first
    | with_reducible assumption | intro _ | with_reducible apply State.setF_keeps
    | with_reducible apply State.modPort_keeps | with_reducible apply State.sendSync_keeps
    | with_reducible apply keeps_ite | with_reducible apply keeps_foldl

theorem State.sleepAll_keeps {z s : State} (hk : Keeps z s) :
    Keeps z (State.sleepAll s) := by
  unfold State.sleepAll
  repeat' first | with_reducible assumption | simp only [↓keeps_lit]

theorem State.enterRest_keeps {z s : State} (hk : Keeps z s) (target : Nat) :
    Keeps z (State.enterRest s target) := by
  unfold State.enterRest
  repeat' first
    | with_reducible assumption | with_reducible apply State.setF_keeps | with_reducible apply State.ev_keeps
    | with_reducible apply State.pwrInt_keeps | with_reducible apply State.keepAlive_keeps
    | with_reducible apply State.sleepAll_keeps | simp only [↓keeps_lit]

theorem State.heldMove_keeps {z s : State} (hk : Keeps z s) :
    Keeps z (State.heldMove s) := by
  unfold State.heldMove
  repeat' first
    | with_reducible assumption | with_reducible apply State.setF_keeps | with_reducible apply State.ev_keeps
    | with_reducible apply State.pwrInt_keeps | with_reducible apply keeps_ite

theorem execDozeEntry_keeps {z s : State} (hk : Keeps z s) :
    OKeeps z (execDozeEntry s) := by
  unfold execDozeEntry
  repeat' first
    | with_reducible assumption | with_reducible apply State.setF_keeps | with_reducible apply State.addF_keeps
    | with_reducible apply State.enterRest_keeps | with_reducible apply State.heldMove_keeps
    | with_reducible apply keeps_next | with_reducible apply keeps_ite | with_reducible apply okeeps_ite

theorem State.endDebug_keeps {z s : State} (hk : Keeps z s) (cause : Nat) :
    Keeps z (State.endDebug s cause) := by
  unfold State.endDebug
  repeat' first
    | with_reducible assumption | with_reducible apply State.setF_keeps | with_reducible apply State.ev_keeps
    | with_reducible apply keeps_ite

theorem State.dropKeys_keeps {z s : State} (hk : Keeps z s) :
    Keeps z (State.dropKeys s) := by
  unfold State.dropKeys
  repeat' first | with_reducible assumption | with_reducible apply State.setF_keeps | simp only [↓keeps_lit]

theorem execDeepEntry_keeps {z s : State} (hk : Keeps z s) :
    OKeeps z (execDeepEntry s) := by
  unfold execDeepEntry
  repeat' first
    | with_reducible assumption | with_reducible apply State.setF_keeps | with_reducible apply State.addF_keeps
    | with_reducible apply State.enterRest_keeps | with_reducible apply State.endDebug_keeps
    | with_reducible apply State.dropKeys_keeps | with_reducible apply State.heldMove_keeps | simp only [↓keeps_lit]
    | with_reducible apply keeps_next | with_reducible apply okeeps_ite

theorem State.leaveKeepAlive_keeps {z s : State} (hk : Keeps z s) :
    Keeps z (State.leaveKeepAlive s) := by
  unfold State.leaveKeepAlive
  repeat' first
    | with_reducible assumption | intro _ | with_reducible apply State.setF_keeps
    | with_reducible apply State.fastRetrain_keeps | with_reducible apply keeps_ite | with_reducible apply keeps_foldl

theorem State.wakeTiles_keeps {z s : State} (hk : Keeps z s) (all : Bool) :
    Keeps z (State.wakeTiles s all) := by
  unfold State.wakeTiles
  repeat' first
    | with_reducible assumption | intro _ | with_reducible apply State.putTile_keeps | with_reducible apply keeps_ite
    | with_reducible apply keeps_foldl

theorem execDozeExit_keeps {z s : State} (hk : Keeps z s) (w : WakeCause) :
    OKeeps z (execDozeExit w s) := by
  unfold execDozeExit
  repeat' first
    | with_reducible assumption | with_reducible apply State.setF_keeps | with_reducible apply State.ev_keeps
    | with_reducible apply State.pwrInt_keeps | with_reducible apply State.leaveKeepAlive_keeps
    | with_reducible apply State.wakeTiles_keeps | simp only [↓keeps_lit] | with_reducible apply keeps_next
    | with_reducible apply okeeps_ite

theorem State.leaveDeep_keeps {z s : State} (hk : Keeps z s) (code : Nat) :
    Keeps z (State.leaveDeep s code) := by
  unfold State.leaveDeep
  repeat' first
    | with_reducible assumption | with_reducible apply State.setF_keeps | with_reducible apply State.ev_keeps
    | with_reducible apply State.pwrInt_keeps | with_reducible apply State.wakeTiles_keeps | simp only [↓keeps_lit]

theorem execHbmSelfRefreshReturn_keeps {z s : State} (hk : Keeps z s) :
    OKeeps z (execHbmSelfRefreshReturn s) := by
  unfold execHbmSelfRefreshReturn
  repeat' first
    | with_reducible assumption | simp only [↓keeps_lit] | with_reducible apply keeps_next
    | with_reducible apply okeeps_ite

theorem execUnitSleep_keeps {z s : State} (hk : Keeps z s) (k : SleepKind) (n : Nat) :
    OKeeps z (execUnitSleep k n s) := by
  unfold execUnitSleep
  repeat' first
    | with_reducible assumption | simp only [↓keeps_lit] | with_reducible apply keeps_next
    | with_reducible apply okeeps_ite

theorem execUnitWake_keeps {z s : State} (hk : Keeps z s) (k : SleepKind) (n : Nat) :
    OKeeps z (execUnitWake k n s) := by
  unfold execUnitWake
  repeat' first
    | with_reducible assumption | with_reducible apply State.stampUnit_keeps
    | with_reducible apply State.dispatch_keeps | with_reducible apply State.modTile_keeps | simp only [↓keeps_lit]
    | with_reducible apply keeps_next | with_reducible apply okeeps_ite

theorem State.readClusters_keeps {z s : State} (hk : Keeps z s) (temps : List Int) :
    Keeps z (State.readClusters s temps) := by
  unfold State.readClusters
  repeat' first
    | with_reducible assumption | intro _ | with_reducible apply State.ev_keeps | simp only [↓keeps_lit]
    | with_reducible apply keeps_ite | with_reducible apply keeps_foldl

theorem execThermalSample_keeps {z s : State} (hk : Keeps z s) (temps : List Int) (hottest : Int) :
    OKeeps z (execThermalSample temps hottest s) := by
  unfold execThermalSample
  repeat' first
    | with_reducible assumption | with_reducible apply State.setF_keeps | with_reducible apply State.addF_keeps
    | with_reducible apply State.ev_keeps | with_reducible apply State.modPup_keeps
    | with_reducible apply State.pwrInt_keeps | with_reducible apply State.readClusters_keeps | simp only [↓keeps_lit]
    | with_reducible apply keeps_next | with_reducible apply okeeps_ite

theorem execThrottleRelease_keeps {z s : State} (hk : Keeps z s) :
    OKeeps z (execThrottleRelease s) := by
  unfold execThrottleRelease
  repeat' first
    | with_reducible assumption | with_reducible apply State.setF_keeps | with_reducible apply State.ev_keeps
    | with_reducible apply State.pwrInt_keeps | with_reducible apply keeps_next | with_reducible apply okeeps_ite
    | split

theorem State.dropProgram_keeps {z s : State} (hk : Keeps z s) :
    Keeps z (State.dropProgram s) := by
  unfold State.dropProgram
  repeat' first | with_reducible assumption | with_reducible apply State.withdraw_keeps | simp only [↓keeps_lit]

theorem State.releaseAll_keeps {z s : State} (hk : Keeps z s) :
    Keeps z (State.releaseAll s) := by
  unfold State.releaseAll
  repeat' first
    | with_reducible assumption | intro _ | with_reducible apply State.modTiles_keeps
    | with_reducible apply State.releaseLayer_keeps | with_reducible apply keeps_foldl

theorem State.zeroCounts_keeps {z s : State} (hk : Keeps z s) :
    Keeps z (State.zeroCounts s) := by
  unfold State.zeroCounts
  repeat' first
    | with_reducible assumption | with_reducible apply State.setF_keeps | with_reducible apply State.clearF_keeps

theorem State.loadPup_keeps {z s : State} (hk : Keeps z s) :
    Keeps z (State.loadPup s) := by
  unfold State.loadPup
  repeat' first
    | with_reducible assumption | intro _ | with_reducible apply State.modPass_keeps
    | with_reducible apply State.modPup_keeps | with_reducible apply State.endCmd_keeps
    | with_reducible apply keeps_ite | split | dsimp only

theorem State.takeLoad_keeps {z s : State} (hk : Keeps z s) (r : Nat) :
    Keeps z (State.takeLoad s r) := by
  unfold State.takeLoad
  repeat' first | with_reducible assumption | with_reducible apply State.setF_keeps | simp only [↓keeps_lit]

theorem State.zeroClean_keeps {z s : State} (hk : Keeps z s) (a n : Nat) :
    Keeps z (State.zeroClean s a n) := by
  unfold State.zeroClean
  repeat' first
    | with_reducible assumption | with_reducible apply State.zeroRange_keeps
    | with_reducible apply State.unpoison_keeps

theorem State.zeroArea_keeps {z s : State} (hk : Keeps z s) (keep : Bool) (k : Nat) :
    Keeps z (State.zeroArea s keep k) := by
  unfold State.zeroArea
  repeat' first
    | with_reducible assumption | with_reducible apply State.zeroClean_keeps | with_reducible apply keeps_ite

theorem State.zeroLoad_keeps {z s : State} (hk : Keeps z s) (keep : Bool) : Keeps z (s.zeroLoad keep) := by
  have h0 : Keeps z { s with scratch := [], poison := s.poison.filter (fun p => p.1 != 0) } :=
    ⟨hk.queue, hk.fuses, fun h => by
      have := hk.mem h
      simp only [State.memOk, Bool.and_eq_true] at this ⊢
      exact ⟨⟨this.1.1, rfl⟩, this.2⟩⟩
  have h1 : ∀ a b c d e f : Nat, ∀ l : List Nat, Keeps z (l.foldl (fun (u : State) k => u.zeroArea keep k)
      (((State.zeroClean { s with scratch := [], poison := s.poison.filter (fun p => p.1 != 0) } a b).zeroClean c d).zeroClean
        e f)) :=
    fun a b c d e f l => keeps_foldl (State.zeroClean_keeps (State.zeroClean_keeps (State.zeroClean_keeps h0 _ _) _ _) _ _)
      (fun t x h => State.zeroArea_keeps h _ _)
  unfold State.zeroLoad
  exact keeps_ite (h1 _ _ _ _ _ _ _) (State.zeroClean_keeps (h1 _ _ _ _ _ _ _) _ _)

theorem State.showPointer_keeps {z s : State} (hk : Keeps z s) :
    Keeps z (State.showPointer s) := by
  unfold State.showPointer
  repeat' first | with_reducible assumption | with_reducible apply State.showEpoch_keeps | split

theorem State.hearAll_keeps {z s : State} (hk : Keeps z s) :
    Keeps z (State.hearAll s) := by
  unfold State.hearAll
  repeat' first | with_reducible assumption | with_reducible apply State.modPass_keeps

theorem State.loadNow_keeps {z s : State} (hk : Keeps z s) (r : Nat) :
    Keeps z (State.loadNow s r) := by
  unfold State.loadNow
  repeat' first
    | with_reducible assumption | with_reducible apply State.applyQuotas_keeps
    | with_reducible apply State.requestState_keeps | with_reducible apply State.dropProgram_keeps
    | with_reducible apply State.releaseAll_keeps | with_reducible apply State.zeroCounts_keeps
    | with_reducible apply State.loadPup_keeps | with_reducible apply State.takeLoad_keeps
    | with_reducible apply State.zeroLoad_keeps | with_reducible apply State.showPointer_keeps
    | with_reducible apply State.hearAll_keeps | with_reducible apply keeps_ite

theorem State.programLoad_keeps {z s : State} (hk : Keeps z s) :
    Keeps z (State.programLoad s) := by
  unfold State.programLoad
  repeat' first
    | with_reducible assumption | with_reducible apply State.setF_keeps | with_reducible apply State.ev_keeps
    | with_reducible apply State.loadNow_keeps | with_reducible apply keeps_ite | split

theorem execProgramLoad_keeps {z s : State} (hk : Keeps z s) :
    OKeeps z (execProgramLoad s) := by
  unfold execProgramLoad
  repeat' first
    | with_reducible assumption | with_reducible apply State.hostAccess_keeps
    | with_reducible apply State.programLoad_keeps

theorem State.fetchPage_keeps {z s : State} (hk : Keeps z s) (q b : Nat) :
    Keeps z (State.fetchPage s q b) := by
  unfold State.fetchPage
  repeat' first | with_reducible assumption | simp only [↓keeps_lit]

theorem execValleyPrefetch_keeps {z s : State} (hk : Keeps z s) :
    OKeeps z (execValleyPrefetch s) := by
  unfold execValleyPrefetch
  repeat' first
    | with_reducible assumption | with_reducible apply State.tick_keeps | with_reducible apply State.fetchPage_keeps
    | simp only [↓keeps_lit] | with_reducible apply keeps_next | with_reducible apply okeeps_ite | split

theorem execPageTransferDone_keeps {z s : State} (hk : Keeps z s) (page : Nat) :
    OKeeps z (execPageTransferDone page s) := by
  unfold execPageTransferDone
  repeat' first | with_reducible assumption | simp only [↓keeps_lit] | with_reducible apply keeps_next | split

theorem State.bgEvent_keeps {z s : State} (hk : Keeps z s) (n level entry tile result : Nat) (detail : List Byte) :
    Keeps z (State.bgEvent s n level entry tile result detail) := by
  unfold State.bgEvent
  repeat' first | with_reducible assumption | with_reducible apply State.raise_keeps

theorem State.enterReplay_keeps {z s : State} (hk : Keeps z s) :
    Keeps z (State.enterReplay s) := by
  unfold State.enterReplay
  repeat' first
    | with_reducible assumption | intro _ | with_reducible apply State.setF_keeps
    | with_reducible apply State.zeroRange_keeps | with_reducible apply State.unpoison_keeps
    | with_reducible apply State.clearTokens_keeps | with_reducible apply State.releaseAll_keeps
    | with_reducible apply State.bgEvent_keeps | simp only [↓keeps_lit] | with_reducible apply keeps_foldl

theorem State.replayEntry_keeps {z s : State} (hk : Keeps z s) :
    Keeps z (State.replayEntry s) := by
  unfold State.replayEntry
  repeat' first
    | with_reducible assumption | with_reducible apply State.setF_keeps | with_reducible apply State.enterReplay_keeps
    | with_reducible apply keeps_ite

theorem execReplayEnter_keeps {z s : State} (hk : Keeps z s) :
    OKeeps z (execReplayEnter s) := by
  unfold execReplayEnter
  repeat' first
    | with_reducible assumption | with_reducible apply State.hostAccess_keeps
    | with_reducible apply State.replayEntry_keeps

theorem State.exitReplay_keeps {z s : State} (hk : Keeps z s) :
    Keeps z (State.exitReplay s) := by
  unfold State.exitReplay
  repeat' first
    | with_reducible assumption | with_reducible apply State.setF_keeps | with_reducible apply State.bgEvent_keeps
    | simp only [↓keeps_lit] | with_reducible apply keeps_ite

theorem execReplayExit_keeps {z s : State} (hk : Keeps z s) :
    OKeeps z (execReplayExit s) := by
  unfold execReplayExit
  repeat' first
    | with_reducible assumption | with_reducible apply State.hostAccess_keeps
    | with_reducible apply State.exitReplay_keeps

theorem State.submitTable_keeps {z s : State} (hk : Keeps z s) (v : Nat) :
    Keeps z (State.submitTable v s) := by
  unfold State.submitTable
  repeat' first | with_reducible assumption | simp only [↓keeps_lit] | with_reducible apply keeps_ite

theorem State.submitWrite_keeps {z s : State} (hk : Keeps z s) (v : Nat) :
    Keeps z (State.submitWrite v s) := by
  unfold State.submitWrite
  repeat' first
    | with_reducible assumption | with_reducible apply State.violation_keeps
    | with_reducible apply State.submitTable_keeps | with_reducible apply keeps_ite

theorem execSubmit_keeps {z s : State} (hk : Keeps z s) (v : Nat) :
    OKeeps z (execSubmit v s) := by
  unfold execSubmit
  repeat' first
    | with_reducible assumption | intro _ | with_reducible apply State.hostAccess_keeps
    | with_reducible apply State.submitWrite_keeps | with_reducible apply keeps_next | with_reducible apply okeeps_ite

theorem State.runMac_keeps {z s : State} (hk : Keeps z s) (k : Kernel) :
    Keeps z (State.runMac s k) := by
  unfold State.runMac
  repeat' first
    | with_reducible assumption | with_reducible apply State.wrBytes_keeps | with_reducible apply State.unpoison_keeps
    | simp only [↓keeps_lit] | with_reducible apply keeps_ite

theorem State.runLoad_keeps {z s : State} (hk : Keeps z s) (k : Kernel) :
    Keeps z (State.runLoad s k) := by
  unfold State.runLoad
  repeat' first
    | with_reducible assumption | with_reducible apply State.wrBytes_keeps | with_reducible apply State.unpoison_keeps

theorem State.runTable_keeps {z s : State} (hk : Keeps z s) (off n k : Nat) : Keeps z (s.runTable off n k).s := by
  induction k generalizing s n with
  | zero => exact hk
  | succ k ih =>
    have hs : ∀ (c : Prop) [Decidable c] (a b : TableRun), Keeps z a.s → Keeps z b.s → Keeps z (if c then a else b).s := by
      intro c _ a b ha hb
      split <;> assumption
    unfold State.runTable
    dsimp only
    exact hs _ _ _ hk (hs _ _ _ hk (hs _ _ _ hk (hs _ _ _ hk (hs _ _ _ hk
      (ih (keeps_ite (State.runLoad_keeps hk _) (State.runMac_keeps hk _)) _)))))

theorem TableRun.event_keeps {z s : State} (hk : Keeps z s) (r : TableRun) :
    Keeps z (TableRun.event r s) := by
  unfold TableRun.event
  repeat' first
    | with_reducible assumption | with_reducible apply State.bgEvent_keeps | with_reducible apply keeps_ite

theorem execKernelTable_keeps {z s : State} (hk : Keeps z s) : OKeeps z (execKernelTable s) := by
  unfold execKernelTable
  dsimp only
  repeat' first
    | with_reducible assumption | with_reducible apply State.runTable_keeps | with_reducible apply State.addF_keeps
    | with_reducible apply TableRun.event_keeps | simp only [↓keeps_lit] | with_reducible apply keeps_next
    | with_reducible apply okeeps_ite | split

theorem State.configAccess_keeps {z s : State} (hk : Keeps z s) (c : Instr) (run : State → State)
    (h_run : ∀ a0, Keeps z a0 → Keeps z (run a0)) :
    OKeeps z (State.configAccess s c run) := by
  unfold State.configAccess
  repeat' first
    | with_reducible assumption | with_reducible apply h_run | with_reducible apply State.latchAccess_keeps
    | with_reducible apply keeps_next | with_reducible apply okeeps_ite

theorem State.windowWrite_keeps {z s : State} (hk : Keeps z s) (a : Nat) (b : List Byte) :
    Keeps z (State.windowWrite s a b) := by
  unfold State.windowWrite
  repeat' first
    | with_reducible assumption | with_reducible apply State.wrBytes_keeps | with_reducible apply State.unpoison_keeps
    | with_reducible apply State.violation_keeps | with_reducible apply keeps_ite

theorem State.windowRead_keeps {z s : State} (hk : Keeps z s) (a n : Nat) :
    Keeps z (State.windowRead s a n) := by
  unfold State.windowRead
  repeat' first | with_reducible assumption | simp only [↓keeps_lit]

theorem State.windowTouch_keeps {z s : State} (hk : Keeps z s) (a n : Nat) (data : Option (List Byte)) :
    Keeps z (State.windowTouch s a n data) := by
  unfold State.windowTouch
  repeat' first
    | with_reducible assumption | with_reducible apply State.touchHbm_keeps
    | with_reducible apply State.windowWrite_keeps | with_reducible apply State.windowRead_keeps | split

theorem State.zeroRead_keeps {z s : State} (hk : Keeps z s) (n : Nat) (data : Option (List Byte)) :
    Keeps z (State.zeroRead s n data) := by
  unfold State.zeroRead
  repeat' first | with_reducible assumption | simp only [↓keeps_lit] | split

theorem State.barWindow_keeps {z s : State} (hk : Keeps z s) (a n : Nat) (data : Option (List Byte)) :
    Keeps z (State.barWindow a n data s) := by
  unfold State.barWindow
  repeat' first
    | with_reducible assumption | with_reducible apply State.violation_keeps
    | with_reducible apply State.windowTouch_keeps | with_reducible apply State.zeroRead_keeps
    | with_reducible apply keeps_ite

theorem execWindowAccess_keeps {z s : State} (hk : Keeps z s) (addr len : Nat) (data : Option (List Byte)) :
    OKeeps z (execWindowAccess addr len data s) := by
  unfold execWindowAccess
  repeat' first
    | with_reducible assumption | intro _ | with_reducible apply State.violation_keeps
    | with_reducible apply State.hostAccess_keeps | with_reducible apply State.configAccess_keeps
    | with_reducible apply State.windowTouch_keeps | with_reducible apply State.zeroRead_keeps
    | with_reducible apply State.barWindow_keeps | with_reducible apply keeps_next | with_reducible apply okeeps_ite

theorem State.commitDecoder_keeps {z s : State} (hk : Keeps z s) (size ways : Nat) :
    Keeps z (State.commitDecoder size ways s) := by
  unfold State.commitDecoder
  repeat' first
    | with_reducible assumption | with_reducible apply State.setF_keeps | simp only [↓keeps_lit]
    | with_reducible apply keeps_ite

theorem execDecoderCommit_keeps {z s : State} (hk : Keeps z s) (size ways : Nat) :
    OKeeps z (execDecoderCommit size ways s) := by
  unfold execDecoderCommit
  repeat' first
    | with_reducible assumption | intro _ | with_reducible apply State.hostAccess_keeps
    | with_reducible apply State.commitDecoder_keeps | with_reducible apply keeps_next
    | with_reducible apply okeeps_ite

theorem State.undoWrite_keeps {z s : State} (hk : Keeps z s) (w : HostWrite) :
    Keeps z (State.undoWrite s w) := by
  unfold State.undoWrite
  repeat' first
    | with_reducible assumption | intro _ | with_reducible apply State.wrBytes_keeps | with_reducible apply keeps_ite
    | with_reducible apply keeps_foldl

theorem State.setOuts_keeps {z s : State} (hk : Keeps z s) (ws : List HostWrite) :
    Keeps z (State.setOuts s ws) := by
  unfold State.setOuts
  repeat' first | with_reducible assumption | simp only [↓keeps_lit]

theorem State.writeFailed_keeps {z s : State} (hk : Keeps z s) (w : HostWrite) :
    Keeps z (State.writeFailed s w) := by
  unfold State.writeFailed
  repeat' first
    | with_reducible assumption | with_reducible apply State.addF_keeps | with_reducible apply State.ev_keeps
    | with_reducible apply State.undoWrite_keeps | with_reducible apply State.setOuts_keeps
    | with_reducible apply keeps_ite

theorem State.ingestFailed_keeps {z s : State} (hk : Keeps z s) :
    Keeps z (State.ingestFailed s) := by
  unfold State.ingestFailed
  repeat' first
    | with_reducible assumption | with_reducible apply State.modPup_keeps | with_reducible apply State.ingestBad_keeps
    | with_reducible apply keeps_ite | split

theorem State.hostAnswer_keeps {z s : State} (hk : Keeps z s) (tag : Nat) (bad : Option (State → State))
    (h_bad : ∀ f, bad = some f → ∀ t, Keeps z t → Keeps z (f t)) {o : State} (ho : s.hostAnswer tag bad = some o) :
    Keeps z o := by
  unfold State.hostAnswer at ho
  dsimp only at ho
  repeat' split at ho
  all_goals cases ho
  all_goals first
    | exact hk
    | exact State.setOuts_keeps hk _
    | exact State.writeFailed_keeps (h_bad _ rfl _ hk) _
    | exact keeps_mk (h_bad _ rfl _ hk)
    | exact State.ingestFailed_keeps (h_bad _ rfl _ hk)

theorem State.takeAnswer_keeps {z s : State} (hk : Keeps z s) (tag : Nat) (o : HostOutcome) :
    Keeps z (s.takeAnswer tag o) := by
  have hb : ∀ f, (if o = HostOutcome.ok then none else some (fun t : State => t.busError o)) = some f →
      ∀ t, Keeps z t → Keeps z (f t) := by
    intro f e t ht
    split at e
    · cases e
    · cases e
      exact State.busError_keeps ht _
  unfold State.takeAnswer
  dsimp only
  generalize (if o = HostOutcome.ok then none else some (fun t : State => t.busError o)) = bad at hb ⊢
  split
  · exact State.hostAnswer_keeps hk _ _ hb (by with_reducible assumption)
  · exact State.violation_keeps hk _

theorem execCacheResponse_keeps {z s : State} (hk : Keeps z s) (tag : Nat) (o : HostOutcome) :
    OKeeps z (execCacheResponse tag o s) := by
  unfold execCacheResponse
  repeat' first
    | with_reducible assumption | intro _ | with_reducible apply State.configAccess_keeps
    | with_reducible apply State.takeAnswer_keeps

theorem execHostAccessTimeout_keeps {z s : State} (hk : Keeps z s) (tag : Nat) : OKeeps z (execHostAccessTimeout tag s) := by
  have hb : ∀ f, some (fun t : State => t.addF F.cxlHostErrTimeout 1) = some f → ∀ t, Keeps z t → Keeps z (f t) := by
    intro f e t ht
    cases e
    exact State.addF_keeps ht _ _
  unfold execHostAccessTimeout
  repeat' first
    | with_reducible assumption | exact State.hostAnswer_keeps hk _ _ hb (by with_reducible assumption)
    | with_reducible apply State.addF_keeps | refine State.hostAnswer_keeps ?_ _ _ (by with_reducible assumption)
    | with_reducible apply keeps_next | with_reducible apply okeeps_ite | split

theorem State.streamFails_keeps {z s : State} (hk : Keeps z s) (cachemem : Bool) :
    Keeps z (State.streamFails s cachemem) := by
  unfold State.streamFails
  repeat' first
    | with_reducible assumption | with_reducible apply State.setF_keeps | with_reducible apply State.ev_keeps
    | simp only [↓keeps_lit] | with_reducible apply keeps_ite

theorem execIdeIntegrityFail_keeps {z s : State} (hk : Keeps z s) (cachemem : Bool) :
    OKeeps z (execIdeIntegrityFail cachemem s) := by
  unfold execIdeIntegrityFail
  repeat' first
    | with_reducible assumption | with_reducible apply State.streamFails_keeps | with_reducible apply keeps_next
    | with_reducible apply okeeps_ite

theorem State.keyStream_keeps {z s : State} (hk : Keeps z s) (cachemem : Bool) :
    Keeps z (State.keyStream cachemem s) := by
  unfold State.keyStream
  repeat' first
    | with_reducible assumption | with_reducible apply State.setF_keeps | simp only [↓keeps_lit]
    | with_reducible apply keeps_ite

theorem execIdeKm_keeps {z s : State} (hk : Keeps z s) (cachemem : Bool) :
    OKeeps z (execIdeKm cachemem s) := by
  unfold execIdeKm
  repeat' first
    | with_reducible assumption | intro _ | with_reducible apply State.configAccess_keeps
    | with_reducible apply State.keyStream_keeps

theorem State.doeReply_keeps {z s : State} (hk : Keeps z s) (r : Reply) :
    Keeps z (State.doeReply s r) := by
  unfold State.doeReply
  repeat' first | with_reducible assumption | simp only [↓keeps_lit]

theorem State.spdmReply_keeps {z s : State} (hk : Keeps z s) (run : State → State) (h_run : ∀ a0, Keeps z a0 → Keeps z (run a0))
    :
    Keeps z (State.spdmReply s run) := by
  unfold State.spdmReply
  repeat' first
    | with_reducible assumption | with_reducible apply h_run | with_reducible apply State.doeReply_keeps
    | with_reducible apply keeps_ite

theorem State.openSession_keeps {z s : State} (hk : Keeps z s) :
    Keeps z (State.openSession s) := by
  unfold State.openSession
  repeat' first
    | with_reducible assumption | intro _ | with_reducible apply State.doeReply_keeps
    | with_reducible apply State.spdmReply_keeps | simp only [↓keeps_lit]

theorem execSpdmSessionStart_keeps {z s : State} (hk : Keeps z s) :
    OKeeps z (execSpdmSessionStart s) := by
  unfold execSpdmSessionStart
  repeat' first
    | with_reducible assumption | with_reducible apply State.configAccess_keeps
    | with_reducible apply State.openSession_keeps

theorem State.closeSession_keeps {z s : State} (hk : Keeps z s) :
    Keeps z (State.closeSession s) := by
  unfold State.closeSession
  repeat' first
    | with_reducible assumption | with_reducible apply State.doeReply_keeps | simp only [↓keeps_lit]
    | with_reducible apply keeps_ite

theorem execSpdmSessionEnd_keeps {z s : State} (hk : Keeps z s) :
    OKeeps z (execSpdmSessionEnd s) := by
  unfold execSpdmSessionEnd
  repeat' first
    | with_reducible assumption | with_reducible apply State.configAccess_keeps
    | with_reducible apply State.closeSession_keeps

theorem State.drainAll_keeps {z s : State} (hk : Keeps z s) :
    Keeps z (State.drainAll s) := by
  unfold State.drainAll
  repeat' first
    | with_reducible assumption | intro _ | with_reducible apply State.drainCq_keeps | with_reducible apply keeps_ite
    | with_reducible apply keeps_foldl

theorem State.enableMaster_keeps {z s : State} (hk : Keeps z s) :
    Keeps z (State.enableMaster s) := by
  unfold State.enableMaster
  repeat' first | with_reducible assumption | with_reducible apply State.drainAll_keeps | simp only [↓keeps_lit]

theorem execBusMasterEnable_keeps {z s : State} (hk : Keeps z s) :
    OKeeps z (execBusMasterEnable s) := by
  unfold execBusMasterEnable
  repeat' first
    | with_reducible assumption | with_reducible apply State.configAccess_keeps
    | with_reducible apply State.enableMaster_keeps

theorem State.enableSpace_keeps {z s : State} (hk : Keeps z s) :
    Keeps z (State.enableSpace s) := by
  unfold State.enableSpace
  repeat' first
    | with_reducible assumption | with_reducible apply State.setF_keeps | simp only [↓keeps_lit]
    | with_reducible apply keeps_ite

theorem execMemorySpaceEnable_keeps {z s : State} (hk : Keeps z s) :
    OKeeps z (execMemorySpaceEnable s) := by
  unfold execMemorySpaceEnable
  repeat' first
    | with_reducible assumption | with_reducible apply State.configAccess_keeps
    | with_reducible apply State.enableSpace_keeps

theorem execCxlLinkUp_keeps {z s : State} (hk : Keeps z s) (cxl : Bool) (width speed : Nat) :
    OKeeps z (execCxlLinkUp cxl width speed s) := by
  unfold execCxlLinkUp
  repeat' first
    | with_reducible assumption | with_reducible apply State.setF_keeps | with_reducible apply State.ev_keeps
    | with_reducible apply State.exitReplay_keeps | simp only [↓keeps_lit] | with_reducible apply keeps_next
    | with_reducible apply keeps_ite | with_reducible apply okeeps_ite

theorem State.logRepair_keeps {z s : State} (hk : Keeps z s) (row : Nat) :
    Keeps z (State.logRepair s row) := by
  unfold State.logRepair
  repeat' first
    | with_reducible assumption | with_reducible apply State.ev_keeps | simp only [↓keeps_lit]
    | with_reducible apply keeps_ite

theorem State.eccCorrected_keeps {z s : State} (hk : Keeps z s) (addr : Nat) :
    Keeps z (State.eccCorrected s addr) := by
  unfold State.eccCorrected
  repeat' first
    | with_reducible assumption | with_reducible apply State.addF_keeps | with_reducible apply State.ev_keeps
    | simp only [↓keeps_lit]

theorem State.eccUncorrectable_keeps {z s : State} (hk : Keeps z s) (addr : Nat) :
    Keeps z (State.eccUncorrectable s addr) := by
  unfold State.eccUncorrectable
  repeat' first
    | with_reducible assumption | with_reducible apply State.setF_keeps | with_reducible apply State.addF_keeps
    | with_reducible apply State.addPoison_keeps | with_reducible apply State.ev_keeps

theorem execPatrolScrub_keeps {z s : State} (hk : Keeps z s) (addr : Nat) (o : EccOutcome) :
    OKeeps z (execPatrolScrub addr o s) := by
  unfold execPatrolScrub
  repeat' first
    | with_reducible assumption | with_reducible apply State.touchHbm_keeps
    | with_reducible apply State.eccCorrected_keeps | with_reducible apply State.eccUncorrectable_keeps
    | with_reducible apply keeps_next | with_reducible apply keeps_ite | with_reducible apply okeeps_ite | split

theorem execHbmRowRepair_keeps {z s : State} (hk : Keeps z s) (row : Nat) :
    OKeeps z (execHbmRowRepair row s) := by
  unfold execHbmRowRepair
  repeat' first
    | with_reducible assumption | with_reducible apply State.logRepair_keeps | with_reducible apply keeps_next
    | with_reducible apply okeeps_ite

end Sys2Proof.Machine
end

