-- ==== Sys2Proof/Laws/KeepsSecure.lean ====
section
/-! SUPPORT. What every step keeps, went on with: the lemmas `<f>_keeps` of Laws/KeepsSched.lean for
the resets, the boot, the security commands, the events, the management port and the writes of the host. -/

namespace Sys2Proof.Machine

set_option linter.unusedTactic false
set_option linter.unreachableTactic false
set_option linter.unusedVariables false
set_option Elab.async false

theorem State.showFuses_keeps {z s : State} (hk : Keeps z s) :
    Keeps z (State.showFuses s) := by
  unfold State.showFuses
  repeat' first | with_reducible assumption | with_reducible apply State.setF_keeps

theorem State.showSettings_keeps {z s : State} (hk : Keeps z s) :
    Keeps z (State.showSettings s) := by
  unfold State.showSettings
  repeat' first | with_reducible assumption | with_reducible apply State.setF_keeps

theorem State.loadFuses_keeps {z s : State} (hk : Keeps z s) :
    Keeps z (State.loadFuses s) := by
  unfold State.loadFuses
  repeat' first
    | with_reducible assumption | with_reducible apply State.setF_keeps | with_reducible apply State.showFuses_keeps
    | with_reducible apply State.showSettings_keeps

theorem State.bare_keeps {z s : State} (hk : Keeps z s) (cold : Bool) : Keeps z (s.bare cold) := by
  unfold State.bare
  dsimp only
  refine State.modTiles_keeps ?_ _
  refine ⟨hk.queue, hk.fuses, fun h => ?_⟩
  have := hk.mem h
  simp only [State.memOk, Bool.and_eq_true] at this ⊢
  exact ⟨⟨rfl, rfl⟩, this.2⟩

theorem State.coldLost_keeps {z s : State} (hk : Keeps z s) :
    Keeps z (State.coldLost s) := by
  unfold State.coldLost
  repeat' first
    | with_reducible assumption | with_reducible apply State.loadFuses_keeps | with_reducible apply State.bare_keeps

theorem bare_frame (s : State) (cold : Bool) : (s.bare cold).scratch = [] ∧ (s.bare cold).host = s.host := ⟨rfl, rfl⟩

theorem State.warmLost_keeps {z s : State} (hk : Keeps z s) (link : Bool) : Keeps z (s.warmLost link) := by
  unfold State.warmLost
  dsimp only
  refine State.showSettings_keeps (State.showFuses_keeps ?_)
  have hb := State.bare_keeps hk false
  refine ⟨hb.queue, hb.fuses, fun h => ?_⟩
  have := hk.mem h
  simp only [State.memOk, Bool.and_eq_true] at this ⊢
  exact ⟨⟨this.1.1, rfl⟩, this.2⟩

theorem State.tellReset_keeps {z s : State} (hk : Keeps z s) (cause : Nat) (count : Fld) :
    Keeps z (State.tellReset s cause count) := by
  unfold State.tellReset
  repeat' first
    | with_reducible assumption | with_reducible apply State.setF_keeps | with_reducible apply State.addF_keeps
    | with_reducible apply State.ev_keeps

theorem State.awaitBoot_keeps {z s : State} (hk : Keeps z s) (cause : Nat) :
    Keeps z (State.awaitBoot s cause) := by
  unfold State.awaitBoot
  repeat' first | with_reducible assumption | simp only [↓keeps_lit]

theorem State.deviceReset_keeps {z s : State} (hk : Keeps z s) (cause : Nat) :
    Keeps z (State.deviceReset s cause) := by
  unfold State.deviceReset
  repeat' first
    | with_reducible assumption | with_reducible apply State.endDebug_keeps
    | with_reducible apply State.warmLost_keeps | with_reducible apply State.tellReset_keeps
    | with_reducible apply State.awaitBoot_keeps

theorem State.useNonce_keeps {z s : State} (hk : Keeps z s) :
    Keeps z (State.useNonce s) := by
  unfold State.useNonce
  repeat' first | with_reducible assumption | with_reducible apply State.clearF_keeps | simp only [↓keeps_lit]

theorem State.restartPuppeteer_keeps {z s : State} (hk : Keeps z s) :
    Keeps z (State.restartPuppeteer s) := by
  unfold State.restartPuppeteer
  repeat' first
    | with_reducible assumption | with_reducible apply State.failCheck_keeps
    | with_reducible apply State.stateError_keeps | with_reducible apply State.enterStopped_keeps
    | with_reducible apply State.useNonce_keeps | simp only [↓keeps_lit] | with_reducible apply keeps_ite

theorem State.serviceReset_keeps {z s : State} (hk : Keeps z s) :
    Keeps z (State.serviceReset s) := by
  unfold State.serviceReset
  repeat' first
    | with_reducible assumption | with_reducible apply State.tellReset_keeps
    | with_reducible apply State.restartPuppeteer_keeps

theorem State.closeDebug_keeps {z s : State} (hk : Keeps z s) (cause : Nat) :
    Keeps z (State.closeDebug s cause) := by
  unfold State.closeDebug
  repeat' first
    | with_reducible assumption | with_reducible apply State.endDebug_keeps
    | with_reducible apply State.serviceReset_keeps | with_reducible apply keeps_ite

theorem State.scrubStopped_keeps {z s : State} (hk : Keeps z s) (t : Nat) :
    Keeps z (State.scrubStopped s t) := by
  unfold State.scrubStopped
  repeat' first
    | with_reducible assumption | with_reducible apply State.endScrub_keeps | simp only [↓keeps_lit]
    | with_reducible apply keeps_ite

theorem State.stopTile_keeps {z s : State} (hk : Keeps z s) (t : Nat) (b : Batch) :
    Keeps z (State.stopTile s t b) := by
  unfold State.stopTile
  repeat' first
    | with_reducible assumption | intro _ | with_reducible apply State.putTile_keeps
    | with_reducible apply State.scrubStopped_keeps | with_reducible apply keeps_ite | split | dsimp only

theorem State.readBackTile_keeps {z s : State} (hk : Keeps z s) (t : Nat) :
    Keeps z (State.readBackTile s t) := by
  unfold State.readBackTile
  repeat' first
    | with_reducible assumption | intro _ | with_reducible apply State.putTile_keeps | with_reducible apply keeps_ite
    | split | dsimp only

theorem State.resetTile_keeps {z s : State} (hk : Keeps z s) (t : Nat) :
    Keeps z (State.resetTile t s) := by
  unfold State.resetTile
  repeat' first
    | with_reducible assumption | with_reducible apply State.addF_keeps | with_reducible apply State.ev_keeps
    | with_reducible apply State.modTile_keeps | with_reducible apply State.useNonce_keeps
    | with_reducible apply State.stopTile_keeps | with_reducible apply State.readBackTile_keeps | split

theorem State.devResetWrite_keeps {z s : State} (hk : Keeps z s) (v : Nat) :
    Keeps z (State.devResetWrite v s) := by
  unfold State.devResetWrite
  repeat' first
    | with_reducible assumption | with_reducible apply State.deviceReset_keeps
    | with_reducible apply State.serviceReset_keeps | with_reducible apply keeps_ite

theorem execDevReset_keeps {z s : State} (hk : Keeps z s) (v : Nat) :
    OKeeps z (execDevReset v s) := by
  unfold execDevReset
  repeat' first
    | with_reducible assumption | intro _ | with_reducible apply State.hostAccess_keeps
    | with_reducible apply State.devResetWrite_keeps | with_reducible apply keeps_next
    | with_reducible apply okeeps_ite

theorem execServiceReset_keeps {z s : State} (hk : Keeps z s) (v : Nat) :
    OKeeps z (execServiceReset v s) := by
  unfold execServiceReset
  repeat' first
    | with_reducible assumption | intro _ | with_reducible apply State.hostAccess_keeps
    | with_reducible apply State.devResetWrite_keeps | with_reducible apply keeps_next
    | with_reducible apply okeeps_ite

theorem execPuppeteerWatchdog_keeps {z s : State} (hk : Keeps z s) :
    OKeeps z (execPuppeteerWatchdog s) := by
  unfold execPuppeteerWatchdog
  repeat' first
    | with_reducible assumption | with_reducible apply State.serviceReset_keeps | with_reducible apply keeps_next
    | with_reducible apply okeeps_ite

theorem State.tileResetWrite_keeps {z s : State} (hk : Keeps z s) (v : Nat) :
    Keeps z (State.tileResetWrite v s) := by
  unfold State.tileResetWrite
  repeat' first
    | with_reducible assumption | with_reducible apply State.resetTile_keeps | with_reducible apply keeps_ite

theorem execTileReset_keeps {z s : State} (hk : Keeps z s) (v : Nat) :
    OKeeps z (execTileReset v s) := by
  unfold execTileReset
  repeat' first
    | with_reducible assumption | intro _ | with_reducible apply State.hostAccess_keeps
    | with_reducible apply State.tileResetWrite_keeps

theorem execPerstAssert_keeps {z s : State} (hk : Keeps z s) :
    OKeeps z (execPerstAssert s) := by
  unfold execPerstAssert
  repeat' first
    | with_reducible assumption | with_reducible apply State.endDebug_keeps
    | with_reducible apply State.warmLost_keeps | with_reducible apply State.tellReset_keeps | simp only [↓keeps_lit]
    | with_reducible apply keeps_next | with_reducible apply okeeps_ite

theorem execPerstDeassert_keeps {z s : State} (hk : Keeps z s) :
    OKeeps z (execPerstDeassert s) := by
  unfold execPerstDeassert
  repeat' first
    | with_reducible assumption | with_reducible apply State.awaitBoot_keeps | simp only [↓keeps_lit]
    | with_reducible apply keeps_next | with_reducible apply keeps_ite | with_reducible apply okeeps_ite

theorem State.linkLost_keeps {z s : State} (hk : Keeps z s) :
    Keeps z (State.linkLost s) := by
  unfold State.linkLost
  repeat' first
    | with_reducible assumption | with_reducible apply State.setF_keeps | with_reducible apply State.dropKeys_keeps
    | with_reducible apply State.useNonce_keeps | simp only [↓keeps_lit]

theorem execHotReset_keeps {z s : State} (hk : Keeps z s) :
    OKeeps z (execHotReset s) := by
  unfold execHotReset
  repeat' first
    | with_reducible assumption | with_reducible apply State.tellReset_keeps
    | with_reducible apply State.closeDebug_keeps | with_reducible apply State.linkLost_keeps
    | with_reducible apply keeps_next | with_reducible apply okeeps_ite

theorem State.powerDown_keeps {z s : State} (hk : Keeps z s) :
    Keeps z (State.powerDown s) := by
  unfold State.powerDown
  repeat' first | with_reducible assumption | with_reducible apply State.coldLost_keeps | simp only [↓keeps_lit]

theorem State.goDown_keeps {z s : State} (hk : Keeps z s) :
    Keeps z (State.goDown s) := by
  unfold State.goDown
  repeat' first
    | with_reducible assumption | with_reducible apply State.powerDown_keeps | with_reducible apply keeps_ite

theorem State.goUp_keeps {z s : State} (hk : Keeps z s) :
    Keeps z (State.goUp s) := by
  unfold State.goUp
  repeat' first | with_reducible assumption | simp only [↓keeps_lit] | with_reducible apply keeps_ite

theorem State.setEnable_keeps {z s : State} (hk : Keeps z s) (b : Bool) :
    Keeps z (State.setEnable s b) := by
  unfold State.setEnable
  repeat' first | with_reducible assumption | simp only [↓keeps_lit]

theorem State.setInput_keeps {z s : State} (hk : Keeps z s) (b : Bool) :
    Keeps z (State.setInput s b) := by
  unfold State.setInput
  repeat' first | with_reducible assumption | simp only [↓keeps_lit]

theorem execPwrEnHigh_keeps {z s : State} (hk : Keeps z s) :
    OKeeps z (execPwrEnHigh s) := by
  unfold execPwrEnHigh
  repeat' first
    | with_reducible assumption | with_reducible apply State.goUp_keeps | with_reducible apply State.setEnable_keeps
    | with_reducible apply keeps_next | with_reducible apply okeeps_ite

theorem execPwrEnLow_keeps {z s : State} (hk : Keeps z s) :
    OKeeps z (execPwrEnLow s) := by
  unfold execPwrEnLow
  repeat' first
    | with_reducible assumption | with_reducible apply State.goDown_keeps | with_reducible apply State.setEnable_keeps
    | with_reducible apply keeps_next

theorem execInputPowerApplied_keeps {z s : State} (hk : Keeps z s) :
    OKeeps z (execInputPowerApplied s) := by
  unfold execInputPowerApplied
  repeat' first
    | with_reducible assumption | with_reducible apply State.goUp_keeps | with_reducible apply State.setInput_keeps
    | with_reducible apply keeps_next | with_reducible apply okeeps_ite

theorem execInputPowerRemoved_keeps {z s : State} (hk : Keeps z s) :
    OKeeps z (execInputPowerRemoved s) := by
  unfold execInputPowerRemoved
  repeat' first
    | with_reducible assumption | with_reducible apply State.goDown_keeps | with_reducible apply State.setInput_keeps
    | with_reducible apply keeps_next

theorem execInputOutOfRange_keeps {z s : State} (hk : Keeps z s) (v us : Nat) :
    OKeeps z (execInputOutOfRange v us s) := by
  unfold execInputOutOfRange
  repeat' first
    | with_reducible assumption | with_reducible apply State.goDown_keeps | with_reducible apply State.setInput_keeps
    | with_reducible apply keeps_next | with_reducible apply okeeps_ite

theorem execPowerGood_keeps {z s : State} (hk : Keeps z s) :
    OKeeps z (execPowerGood s) := by
  unfold execPowerGood
  repeat' first
    | with_reducible assumption | with_reducible apply State.coldLost_keeps
    | with_reducible apply State.awaitBoot_keeps | simp only [↓keeps_lit] | with_reducible apply keeps_next
    | with_reducible apply okeeps_ite

theorem execColdRstN_keeps {z s : State} (hk : Keeps z s) (us : Nat) :
    OKeeps z (execColdRstN us s) := by
  unfold execColdRstN
  repeat' first
    | with_reducible assumption | with_reducible apply State.goDown_keeps | with_reducible apply State.goUp_keeps
    | with_reducible apply keeps_next | with_reducible apply okeeps_ite

theorem execThermalTrip_keeps {z s : State} (hk : Keeps z s) :
    OKeeps z (execThermalTrip s) := by
  unfold execThermalTrip
  repeat' first
    | with_reducible assumption | with_reducible apply State.powerDown_keeps | simp only [↓keeps_lit]
    | with_reducible apply keeps_next | with_reducible apply okeeps_ite

theorem State.stop_keeps {z s : State} (hk : Keeps z s) :
    Keeps z (State.stop s) := by
  unfold State.stop
  repeat' first | with_reducible assumption | simp only [↓keeps_lit]

theorem State.testFails_keeps {z s : State} (hk : Keeps z s) (alg : Nat) :
    Keeps z (State.testFails s alg) := by
  unfold State.testFails
  repeat' first
    | with_reducible assumption | with_reducible apply State.setF_keeps | with_reducible apply State.ev_keeps
    | with_reducible apply State.stop_keeps

theorem State.eraseIdentity_keeps {z s : State} (hk : Keeps z s) : Keeps z s.eraseIdentity := by
  unfold State.eraseIdentity
  dsimp only
  refine State.setF_keeps (State.dropKeys_keeps ?_) _ _
  refine ⟨hk.queue, ⟨fun g b h => ?_, hk.fuses.2⟩, hk.mem⟩
  have h1 := hk.fuses.1 g b h
  simp only [State.gen, nth, List.getD_eq_getElem?_getD, List.getElem?_map] at h1 ⊢
  cases e : s.fuses.gens[g]? with
  | none =>
    rw [e] at h1
    exact h1
  | some x =>
    rw [e] at h1
    exact bitOf_blowSeed h1

theorem State.scrubTiles_keeps {z s : State} (hk : Keeps z s) :
    Keeps z (State.scrubTiles s) := by
  unfold State.scrubTiles
  repeat' first
    | with_reducible assumption | intro _ | with_reducible apply State.setF_keeps
    | with_reducible apply State.modTile_keeps | simp only [↓keeps_lit] | with_reducible apply keeps_foldl

theorem State.bootBank_keeps {z s : State} (hk : Keeps z s) :
    Keeps z (State.bootBank s).1 := by
  unfold State.bootBank
  repeat' first
    | with_reducible assumption | with_reducible apply State.ev_keeps | simp only [↓keeps_lit]
    | with_reducible apply keeps_ite1 | split

theorem State.acceptBank_keeps {z s : State} (hk : Keeps z s) (b : Nat) :
    Keeps z (State.acceptBank s b).1 := by
  unfold State.acceptBank
  repeat' first | with_reducible assumption | with_reducible apply State.ev_keeps | with_reducible apply keeps_ite1

theorem State.derive_keeps {z s : State} (hk : Keeps z s) (i : Image) :
    Keeps z (State.derive s i) := by
  unfold State.derive
  repeat' first
    | with_reducible assumption | with_reducible apply State.setF_keeps | simp only [↓keeps_lit]
    | with_reducible apply keeps_ite

theorem State.applyRepairs_keeps {z s : State} (hk : Keeps z s) :
    Keeps z (State.applyRepairs s) := by
  unfold State.applyRepairs
  repeat' first
    | with_reducible assumption | intro _ | with_reducible apply State.modTile_keeps | with_reducible apply keeps_ite
    | with_reducible apply keeps_foldl

theorem State.wakeFits_keeps {z s : State} (hk : Keeps z s) (ys : List (Nat × List (List Readings))) :
    Keeps z (State.wakeFits s ys) := by
  unfold State.wakeFits
  repeat' first
    | with_reducible assumption | intro _ | with_reducible apply State.ev_keeps | simp only [↓keeps_lit]
    | with_reducible apply keeps_ite | with_reducible apply keeps_foldl

theorem State.wakeArrays_keeps {z s : State} (hk : Keeps z s) :
    Keeps z (State.wakeArrays s) := by
  unfold State.wakeArrays
  repeat' first
    | with_reducible assumption | intro _ | with_reducible apply State.ev_keeps
    | with_reducible apply State.modTiles_keeps | with_reducible apply State.applyRepairs_keeps
    | simp only [↓keeps_lit] | with_reducible apply keeps_ite | with_reducible apply keeps_foldl

theorem State.wakeHbm_keeps {z s : State} (hk : Keeps z s) (cold : Bool) :
    Keeps z (State.wakeHbm s cold) := by
  unfold State.wakeHbm
  repeat' first
    | with_reducible assumption | with_reducible apply State.setF_keeps | with_reducible apply State.showPointer_keeps
    | simp only [↓keeps_lit] | with_reducible apply keeps_ite

theorem State.startPorts_keeps {z s : State} (hk : Keeps z s) :
    Keeps z (State.startPorts s) := by
  unfold State.startPorts
  repeat' first
    | with_reducible assumption | intro _ | with_reducible apply State.startTraining_keeps
    | with_reducible apply keeps_ite | with_reducible apply keeps_foldl

theorem State.confirmBank_keeps {z s : State} (hk : Keeps z s) (b : Nat) :
    Keeps z (State.confirmBank s b) := by
  unfold State.confirmBank
  repeat' first | with_reducible assumption | simp only [↓keeps_lit] | with_reducible apply keeps_ite

theorem State.showTrip_keeps {z s : State} (hk : Keeps z s) :
    Keeps z (State.showTrip s) := by
  unfold State.showTrip
  repeat' first
    | with_reducible assumption | with_reducible apply State.setF_keeps | with_reducible apply State.ev_keeps
    | simp only [↓keeps_lit] | split

theorem State.reachReady_keeps {z s : State} (hk : Keeps z s) (b cause : Nat) (hottest : Int) :
    Keeps z (State.reachReady s b cause hottest) := by
  unfold State.reachReady
  repeat' first
    | with_reducible assumption | with_reducible apply State.setF_keeps | with_reducible apply State.ev_keeps
    | with_reducible apply State.confirmBank_keeps | with_reducible apply State.showTrip_keeps
    | simp only [↓keeps_lit] | with_reducible apply keeps_ite

theorem State.bootImage_keeps {z s : State} (hk : Keeps z s) (b cause : Nat) (hottest : Int)
    (ys : List (Nat × List (List Readings))) (i : Image) :
    Keeps z (State.bootImage s b cause hottest ys i) := by
  unfold State.bootImage
  repeat' first
    | with_reducible assumption | with_reducible apply State.setF_keeps
    | with_reducible apply State.eraseIdentity_keeps | with_reducible apply State.scrubTiles_keeps
    | with_reducible apply State.derive_keeps | with_reducible apply State.wakeFits_keeps
    | with_reducible apply State.wakeArrays_keeps | with_reducible apply State.wakeHbm_keeps
    | with_reducible apply State.startPorts_keeps | with_reducible apply State.reachReady_keeps
    | simp only [↓keeps_lit] | with_reducible apply keeps_ite

theorem State.bootSteps_keeps {z s : State} (hk : Keeps z s) (cause : Nat) (selfTest : Bool)
    (hottest : Int) (ys : List (Nat × List (List Readings))) :
    Keeps z (State.bootSteps s cause selfTest hottest ys) := by
  unfold State.bootSteps
  repeat' first
    | with_reducible assumption | intro _ | with_reducible apply State.setF_keeps
    | with_reducible apply State.tick_keeps | with_reducible apply State.ev_keeps
    | with_reducible apply State.showFuses_keeps | with_reducible apply State.showSettings_keeps
    | with_reducible apply State.stop_keeps | with_reducible apply State.testFails_keeps
    | with_reducible apply State.bootBank_keeps | with_reducible apply State.acceptBank_keeps
    | with_reducible apply State.bootImage_keeps | with_reducible apply keeps_ite
    | refine keeps_pair (by with_reducible assumption) ?_ | split | dsimp only

theorem execBoot_keeps {z s : State} (hk : Keeps z s) (selfTest : Bool) (r : BootReads) :
    OKeeps z (execBoot selfTest r s) := by
  unfold execBoot
  repeat' first
    | with_reducible assumption | with_reducible apply State.bootSteps_keeps | with_reducible apply keeps_next
    | with_reducible apply okeeps_ite | split

theorem execBootWatchdog_keeps {z s : State} (hk : Keeps z s) :
    OKeeps z (execBootWatchdog s) := by
  unfold execBootWatchdog
  repeat' first
    | with_reducible assumption | with_reducible apply State.setF_keeps | with_reducible apply State.ev_keeps
    | with_reducible apply State.deviceReset_keeps | with_reducible apply State.stop_keeps
    | with_reducible apply State.bootBank_keeps | with_reducible apply keeps_next | with_reducible apply okeeps_ite

theorem State.putThermo_keeps {z s : State} (hk : Keeps z s) {m : Nat}
    (hm : ∀ b, bitOf s.fuses.thermo b = true → bitOf m b = true) : Keeps z (s.putThermo m) :=
  State.showFuses_keeps ⟨hk.queue, ⟨hk.fuses.1, hk.fuses.2.1, fun b h => hm b (hk.fuses.2.2 b h)⟩, hk.mem⟩

theorem bitOf_add_free {m j b : Nat} (hj : bitOf m j = false) (h : bitOf m b = true) : bitOf (m + 2 ^ j) b = true := by
  have e : m + 2 ^ j = setBits m j 1 1 := by
    have h1 := Nat.div_add_mod m (2 ^ (j + 1))
    have h2 := Nat.mod_pow_succ (x := m) (b := 2) (k := j)
    have h3 : m / 2 ^ j % 2 = 0 := by
      have : ¬m / 2 ^ j % 2 = 1 := by simpa [bitOf] using hj
      omega
    rw [h3] at h2
    rw [setBits, Nat.mul_comm (m / 2 ^ (j + 1))]
    omega
  rw [e, bitOf_setBits]
  split
  · exact h
  · split
    · have : b = j := by omega
      subst this
      rw [hj] at h
      cases h
    · exact h

theorem bitOf_blowRange (t k e b : Nat) (h : bitOf t b = true) : bitOf (blowRange t k e) b = true := by
  unfold blowRange
  generalize List.range (e - k) = l
  induction l generalizing t with
  | nil => exact h
  | cons i l ih =>
    refine ih _ ?_
    dsimp only
    split
    · exact h
    · rename_i q
      exact bitOf_add_free (by simpa using q) h

theorem execRollbackAdvance_keeps {z s : State} (hk : Keeps z s) (stuck : Option Nat) :
    OKeeps z (execRollbackAdvance stuck s) := by
  have hp : ∀ k e, Keeps z (s.putThermo (blowRange s.fuses.thermo k e)) :=
    fun k e => State.putThermo_keeps hk (fun b h => bitOf_blowRange _ _ _ _ h)
  unfold execRollbackAdvance
  dsimp only
  repeat' first
    | with_reducible assumption | with_reducible apply hp | with_reducible apply State.ev_keeps
    | with_reducible apply State.putThermo_keeps | with_reducible apply keeps_next | with_reducible apply okeeps_ite
    | split

theorem retireDevice_thermo (s : State) : Keeps { s with fuses := { s.fuses with retire := 0xffffffff } } s.retireDevice := by
  unfold State.retireDevice
  dsimp only
  have hk := keeps_refl { s with fuses := { s.fuses with retire := 0xffffffff } }
  exact State.showSettings_keeps (State.showFuses_keeps (State.releaseAll_keeps (State.exitReplay_keeps
    (State.closeDebug_keeps (State.eraseIdentity_keeps hk) _))))

theorem State.retireDevice_keeps {z s : State} (hk : Keeps z s) : Keeps z s.retireDevice := by
  refine keeps_trans (t := { s with fuses := { s.fuses with retire := 0xffffffff } })
    ⟨hk.queue, ⟨hk.fuses.1, fun b hb _ => ?_, hk.fuses.2.2⟩, hk.mem⟩ (retireDevice_thermo s)
  dsimp only
  rw [show (0xffffffff : Nat) = 2 ^ 32 - 1 by norm_num]
  rw [bitOf_eq, Nat.testBit_two_pow_sub_one]
  simp [hb]

theorem State.secCommand_keeps {z s : State} (hk : Keeps z s) (cmd : Nat) (run : State → State × Option Nat)
    (h_run : ∀ a0, Keeps z a0 → Keeps z (run a0).1) :
    Keeps z (State.secCommand cmd run s) := by
  unfold State.secCommand
  repeat' first
    | with_reducible assumption | with_reducible apply h_run | with_reducible apply State.setF_keeps
    | with_reducible apply keeps_ite | refine keeps_pair (by with_reducible assumption) ?_ | split

theorem secEnds_keeps {z : State} {x : State × Nat} (hk : Keeps z x.1) : Keeps z (secEnds x).1 := hk

theorem State.withToken_keeps {z s : State} (hk : Keeps z s) (type : Nat) (args : List Nat)
    (run : State → State × Nat) (h_run : ∀ a0, Keeps z a0 → Keeps z (run a0).1) :
    Keeps z (State.withToken s type args run).1 := by
  unfold State.withToken
  repeat' first
    | with_reducible assumption | with_reducible apply h_run | with_reducible apply State.ev_keeps
    | with_reducible apply State.useNonce_keeps | with_reducible apply keeps_ite1

theorem State.newNonce_keeps {z s : State} (hk : Keeps z s) :
    Keeps z (State.newNonce s) := by
  unfold State.newNonce
  repeat' first
    | with_reducible assumption | with_reducible apply State.setF_keeps | with_reducible apply State.tick_keeps
    | simp only [↓keeps_lit]

theorem State.nonceCmd_keeps {z s : State} (hk : Keeps z s) :
    Keeps z (State.nonceCmd s) := by
  unfold State.nonceCmd
  repeat' first
    | with_reducible assumption | with_reducible apply State.secCommand_keeps
    | with_reducible apply State.newNonce_keeps

theorem execNonce_keeps {z s : State} (hk : Keeps z s) :
    OKeeps z (execNonce s) := by
  unfold execNonce
  repeat' first
    | with_reducible assumption | with_reducible apply State.hostAccess_keeps
    | with_reducible apply State.nonceCmd_keeps

theorem State.grantDebug_keeps {z s : State} (hk : Keeps z s) (level : Nat) :
    Keeps z (State.grantDebug s level) := by
  unfold State.grantDebug
  repeat' first
    | with_reducible assumption | with_reducible apply State.setF_keeps | with_reducible apply State.ev_keeps
    | with_reducible apply State.dropKeys_keeps | with_reducible apply State.streamFails_keeps | simp only [↓keeps_lit] | with_reducible apply keeps_ite

theorem State.lowerDebug_keeps {z s : State} (hk : Keeps z s) :
    Keeps z (State.lowerDebug s) := by
  unfold State.lowerDebug
  repeat' first
    | with_reducible assumption | with_reducible apply State.setF_keeps
    | with_reducible apply State.serviceReset_keeps | with_reducible apply keeps_ite

theorem State.debugRequest_keeps {z s : State} (hk : Keeps z s) (level : Nat) :
    Keeps z (State.debugRequest s level).1 := by
  unfold State.debugRequest
  repeat' first
    | with_reducible assumption | intro _ | with_reducible apply State.useNonce_keeps
    | with_reducible apply State.withToken_keeps | with_reducible apply State.grantDebug_keeps
    | with_reducible apply State.lowerDebug_keeps | with_reducible apply keeps_ite1

theorem State.debugCmd_keeps {z s : State} (hk : Keeps z s) (arg : Nat) :
    Keeps z (State.debugCmd arg s) := by
  unfold State.debugCmd
  repeat' first
    | with_reducible assumption | intro _ | with_reducible apply State.secCommand_keeps
    | with_reducible apply secEnds_keeps | with_reducible apply State.debugRequest_keeps
    | with_reducible apply keeps_ite1

theorem execDebugReq_keeps {z s : State} (hk : Keeps z s) (arg : Nat) :
    OKeeps z (execDebugReq arg s) := by
  unfold execDebugReq
  repeat' first
    | with_reducible assumption | intro _ | with_reducible apply State.hostAccess_keeps
    | with_reducible apply State.debugCmd_keeps

theorem State.releaseDebug_keeps {z s : State} (hk : Keeps z s) :
    Keeps z (State.releaseDebug s) := by
  unfold State.releaseDebug
  repeat' first
    | with_reducible assumption | intro _ | with_reducible apply State.closeDebug_keeps
    | with_reducible apply State.secCommand_keeps

theorem execDebugRel_keeps {z s : State} (hk : Keeps z s) :
    OKeeps z (execDebugRel s) := by
  unfold execDebugRel
  repeat' first
    | with_reducible assumption | with_reducible apply State.hostAccess_keeps
    | with_reducible apply State.releaseDebug_keeps

theorem State.showPending_keeps {z s : State} (hk : Keeps z s) :
    Keeps z (State.showPending s) := by
  unfold State.showPending
  repeat' first | with_reducible assumption | with_reducible apply State.setF_keeps

theorem State.newGen_keeps {z s : State} (hk : Keeps z s) (g : Nat) (stuck : Option Nat) :
    Keeps z (State.newGen s g stuck).1 := by
  unfold State.newGen
  repeat' first
    | with_reducible assumption | with_reducible apply State.writeGen_keeps
    | with_reducible apply State.showFuses_keeps | with_reducible apply State.showPending_keeps

theorem keeps_unblown {z s u : State} (hk : Keeps z s) (h0 : Keeps z u) {b : Nat} (hb : ¬bitOf s.fuses.retire b = true) :
    Keeps z { u with fuses := { u.fuses with retire := setBits u.fuses.retire b 1 0 } } := by
  refine ⟨h0.queue, ⟨h0.fuses.1, fun c hc h => ?_, h0.fuses.2.2⟩, h0.mem⟩
  have h2 := hk.fuses.2.1 c hc h
  have h3 := h0.fuses.2.1 c hc h
  dsimp only
  rw [bitOf_setBits]
  split
  · exact h3
  · split
    · have : c = b := by omega
      subst this
      exact absurd h2 hb
    · exact h3

theorem State.retire__keeps {z s : State} (hk : Keeps z s) (stuck : Option Nat) : Keeps z (s.retire_ stuck).1 := by
  have h0 := State.retireDevice_keeps hk
  unfold State.retire_
  dsimp only
  refine State.startScrub_keeps (State.setF_keeps (State.showPending_keeps ?_) _ _) _ _
  split
  · split
    · rename_i h
      exact State.showFuses_keeps (keeps_unblown hk h0 (by simpa using h.2))
    · exact h0
  · exact h0

theorem State.lifecycleTo_keeps {z s : State} (hk : Keeps z s) (target : Nat) (stuck : Option Nat) :
    Keeps z (s.lifecycleTo target stuck).1 := by
  unfold State.lifecycleTo
  dsimp only
  repeat' first
    | with_reducible assumption | with_reducible apply State.retire__keeps | with_reducible apply State.ev_keeps
    | with_reducible apply State.useNonce_keeps | with_reducible apply secEnds_keeps
    | with_reducible apply State.newGen_keeps | with_reducible apply State.retire__keeps
    | with_reducible apply keeps_ite1

theorem State.lifecycleCmd_keeps {z s : State} (hk : Keeps z s) (arg : Nat) (stuck : Option Nat) :
    Keeps z (State.lifecycleCmd arg stuck s) := by
  unfold State.lifecycleCmd
  repeat' first
    | with_reducible assumption | intro _ | with_reducible apply State.secCommand_keeps
    | with_reducible apply State.lifecycleTo_keeps

theorem execLifecycle_keeps {z s : State} (hk : Keeps z s) (arg : Nat) (stuck : Option Nat) :
    OKeeps z (execLifecycle arg stuck s) := by
  unfold execLifecycle
  repeat' first
    | with_reducible assumption | intro _ | with_reducible apply State.hostAccess_keeps
    | with_reducible apply State.lifecycleCmd_keeps

theorem State.rotateCmd_keeps {z s : State} (hk : Keeps z s) (stuck : Option Nat) :
    Keeps z (State.rotateCmd stuck s) := by
  unfold State.rotateCmd
  repeat' first
    | with_reducible assumption | intro _ | with_reducible apply State.secCommand_keeps
    | with_reducible apply secEnds_keeps | with_reducible apply State.withToken_keeps
    | with_reducible apply State.newGen_keeps

theorem execKeyRotate_keeps {z s : State} (hk : Keeps z s) (stuck : Option Nat) :
    OKeeps z (execKeyRotate stuck s) := by
  unfold execKeyRotate
  repeat' first
    | with_reducible assumption | intro _ | with_reducible apply State.hostAccess_keeps
    | with_reducible apply State.rotateCmd_keeps

theorem State.changeFeatures_keeps {z s : State} (hk : Keeps z s) (stuck : Option Nat) :
    Keeps z (State.changeFeatures s stuck).1 := by
  unfold State.changeFeatures
  repeat' first
    | with_reducible assumption | intro _ | with_reducible apply State.useNonce_keeps
    | with_reducible apply State.withToken_keeps | with_reducible apply State.newGen_keeps
    | with_reducible apply keeps_ite1

theorem State.featuresCmd_keeps {z s : State} (hk : Keeps z s) (stuck : Option Nat) :
    Keeps z (State.featuresCmd stuck s) := by
  unfold State.featuresCmd
  repeat' first
    | with_reducible assumption | intro _ | with_reducible apply State.secCommand_keeps
    | with_reducible apply secEnds_keeps | with_reducible apply State.changeFeatures_keeps

theorem execFeatures_keeps {z s : State} (hk : Keeps z s) (stuck : Option Nat) :
    OKeeps z (execFeatures stuck s) := by
  unfold execFeatures
  repeat' first
    | with_reducible assumption | intro _ | with_reducible apply State.hostAccess_keeps
    | with_reducible apply State.featuresCmd_keeps

theorem State.scrubCmd_keeps {z s : State} (hk : Keeps z s) :
    Keeps z (State.scrubCmd s) := by
  unfold State.scrubCmd
  repeat' first
    | with_reducible assumption | intro _ | with_reducible apply State.setF_keeps
    | with_reducible apply State.startScrub_keeps | with_reducible apply State.releaseAll_keeps
    | with_reducible apply State.secCommand_keeps | with_reducible apply keeps_ite1

theorem execScrubAll_keeps {z s : State} (hk : Keeps z s) :
    OKeeps z (execScrubAll s) := by
  unfold execScrubAll
  repeat' first
    | with_reducible assumption | with_reducible apply State.hostAccess_keeps
    | with_reducible apply State.scrubCmd_keeps

theorem State.secBadCommand_keeps {z s : State} (hk : Keeps z s) (v : Nat) :
    Keeps z (State.secBadCommand v s) := by
  unfold State.secBadCommand
  repeat' first | with_reducible assumption | intro _ | with_reducible apply State.secCommand_keeps

theorem execSecBadCmd_keeps {z s : State} (hk : Keeps z s) (v : Nat) :
    OKeeps z (execSecBadCmd v s) := by
  unfold execSecBadCmd
  repeat' first
    | with_reducible assumption | intro _ | with_reducible apply State.hostAccess_keeps
    | with_reducible apply State.secBadCommand_keeps

theorem execEntropyHealthFail_keeps {z s : State} (hk : Keeps z s) (alg : Nat) :
    OKeeps z (execEntropyHealthFail alg s) := by
  unfold execEntropyHealthFail
  repeat' first
    | with_reducible assumption | with_reducible apply State.testFails_keeps | with_reducible apply keeps_next
    | with_reducible apply okeeps_ite

theorem State.mirrorWrite_keeps {z s : State} (hk : Keeps z s) (seq : Nat) (b : List Byte) :
    Keeps z (State.mirrorWrite s seq b) := by
  unfold State.mirrorWrite
  repeat' first | with_reducible assumption | with_reducible apply State.hostWrite_keeps | simp only [↓keeps_lit]

theorem State.mirror_keeps {z s : State} (hk : Keeps z s) (seq : Nat) (b : List Byte) :
    Keeps z (State.mirror s seq b) := by
  unfold State.mirror
  repeat' first
    | with_reducible assumption | with_reducible apply State.addF_keeps | with_reducible apply State.mirrorWrite_keeps
    | with_reducible apply keeps_ite

theorem State.evtMessage_keeps {z s : State} (hk : Keeps z s) :
    Keeps z (State.evtMessage s) := by
  unfold State.evtMessage
  repeat' first | with_reducible assumption | with_reducible apply State.msi_keeps | simp only [↓keeps_lit]

theorem State.evtInterrupt_keeps {z s : State} (hk : Keeps z s) (sev : Nat) :
    Keeps z (State.evtInterrupt s sev) := by
  unfold State.evtInterrupt
  repeat' first
    | with_reducible assumption | with_reducible apply State.evtMessage_keeps | simp only [↓keeps_lit]
    | with_reducible apply keeps_ite

theorem State.noteSeq_keeps {z s : State} (hk : Keeps z s) (e : Event) (seq : Nat) :
    Keeps z (State.noteSeq s e seq) := by
  unfold State.noteSeq
  repeat' first | with_reducible assumption | with_reducible apply State.modPup_keeps | with_reducible apply keeps_ite

theorem State.logRecord_keeps {z s : State} (hk : Keeps z s) (e : Event) (rest : List Event) :
    Keeps z (State.logRecord s e rest) := by
  unfold State.logRecord
  repeat' first
    | with_reducible assumption | with_reducible apply State.addF_keeps | with_reducible apply State.tick_keeps
    | with_reducible apply State.mirror_keeps | with_reducible apply State.evtInterrupt_keeps
    | with_reducible apply State.noteSeq_keeps | simp only [↓keeps_lit]

theorem execEventRecord_keeps {z s : State} (hk : Keeps z s) :
    OKeeps z (execEventRecord s) := by
  unfold execEventRecord
  repeat' first
    | with_reducible assumption | with_reducible apply State.logRecord_keeps | with_reducible apply keeps_next
    | with_reducible apply okeeps_ite | split

theorem execInterruptHoldoff_keeps {z s : State} (hk : Keeps z s) :
    OKeeps z (execInterruptHoldoff s) := by
  unfold execInterruptHoldoff
  repeat' first
    | with_reducible assumption | with_reducible apply State.evtMessage_keeps | simp only [↓keeps_lit]
    | with_reducible apply keeps_next | with_reducible apply keeps_ite | with_reducible apply okeeps_ite

theorem State.copyRecord_keeps {z s : State} (hk : Keeps z s) (x : RingRec) :
    Keeps z (State.copyRecord s x) := by
  unfold State.copyRecord
  repeat' first | with_reducible assumption | with_reducible apply State.tick_keeps | simp only [↓keeps_lit]

theorem execExtensionCopy_keeps {z s : State} (hk : Keeps z s) :
    OKeeps z (execExtensionCopy s) := by
  unfold execExtensionCopy
  repeat' first
    | with_reducible assumption | with_reducible apply State.copyRecord_keeps | with_reducible apply keeps_next
    | with_reducible apply okeeps_ite | split

theorem execEvtLost_keeps {z s : State} (hk : Keeps z s) :
    OKeeps z (execEvtLost s) := by
  unfold execEvtLost
  repeat' first
    | with_reducible assumption | with_reducible apply State.ev_keeps | simp only [↓keeps_lit]
    | with_reducible apply keeps_next | with_reducible apply okeeps_ite

theorem State.summary_keeps {z s : State} (hk : Keeps z s) (code : Nat) :
    Keeps z (State.summary s code) := by
  unfold State.summary
  repeat' first
    | with_reducible assumption | with_reducible apply State.putRate_keeps
    | with_reducible apply State.frontPush_keeps | with_reducible apply keeps_ite

theorem execSuppressionWindow_keeps {z s : State} (hk : Keeps z s) :
    OKeeps z (execSuppressionWindow s) := by
  unfold execSuppressionWindow
  repeat' first
    | with_reducible assumption | intro _ | with_reducible apply State.summary_keeps | simp only [↓keeps_lit]
    | with_reducible apply keeps_next | with_reducible apply okeeps_ite | with_reducible apply keeps_foldl

theorem State.doeAnswer_keeps {z s : State} (hk : Keeps z s) (r : Reply) :
    Keeps z (State.doeAnswer s r) := by
  unfold State.doeAnswer
  repeat' first | with_reducible assumption | with_reducible apply State.doeReply_keeps

theorem State.discover_keeps {z s : State} (hk : Keeps z s) (index : Nat) :
    Keeps z (State.discover index s) := by
  unfold State.discover
  repeat' first | with_reducible assumption | with_reducible apply State.doeAnswer_keeps

theorem execDoeDiscovery_keeps {z s : State} (hk : Keeps z s) (index : Nat) :
    OKeeps z (execDoeDiscovery index s) := by
  unfold execDoeDiscovery
  repeat' first
    | with_reducible assumption | intro _ | with_reducible apply State.configAccess_keeps
    | with_reducible apply State.discover_keeps

theorem State.cdatAnswer_keeps {z s : State} (hk : Keeps z s) :
    Keeps z (State.cdatAnswer s) := by
  unfold State.cdatAnswer
  repeat' first | with_reducible assumption | with_reducible apply State.doeAnswer_keeps

theorem execCdatTableAccess_keeps {z s : State} (hk : Keeps z s) (handle : Nat) :
    OKeeps z (execCdatTableAccess handle s) := by
  unfold execCdatTableAccess
  repeat' first
    | with_reducible assumption | with_reducible apply State.configAccess_keeps
    | with_reducible apply State.cdatAnswer_keeps

theorem State.certificate_keeps {z s : State} (hk : Keeps z s) (slot : Nat) :
    Keeps z (State.certificate slot s) := by
  unfold State.certificate
  repeat' first
    | with_reducible assumption | intro _ | with_reducible apply State.doeReply_keeps
    | with_reducible apply State.spdmReply_keeps

theorem execGetCertificate_keeps {z s : State} (hk : Keeps z s) (slot : Nat) :
    OKeeps z (execGetCertificate slot s) := by
  unfold execGetCertificate
  repeat' first
    | with_reducible assumption | intro _ | with_reducible apply State.configAccess_keeps
    | with_reducible apply State.certificate_keeps

theorem State.challenged_keeps {z s : State} (hk : Keeps z s) (slot : Nat) (nonce : List Byte) :
    Keeps z (State.challenged slot nonce s) := by
  unfold State.challenged
  repeat' first
    | with_reducible assumption | intro _ | with_reducible apply State.tick_keeps
    | with_reducible apply State.doeReply_keeps | with_reducible apply State.spdmReply_keeps
    | with_reducible apply keeps_ite

theorem execChallenge_keeps {z s : State} (hk : Keeps z s) (slot : Nat) (nonce : List Byte) :
    OKeeps z (execChallenge slot nonce s) := by
  unfold execChallenge
  repeat' first
    | with_reducible assumption | intro _ | with_reducible apply State.configAccess_keeps
    | with_reducible apply State.challenged_keeps

theorem State.measured_keeps {z s : State} (hk : Keeps z s) (nonce : List Byte) :
    Keeps z (State.measured nonce s) := by
  unfold State.measured
  repeat' first
    | with_reducible assumption | intro _ | with_reducible apply State.tick_keeps
    | with_reducible apply State.doeReply_keeps | with_reducible apply State.spdmReply_keeps

theorem execGetMeasurements_keeps {z s : State} (hk : Keeps z s) (nonce : List Byte) :
    OKeeps z (execGetMeasurements nonce s) := by
  unfold execGetMeasurements
  repeat' first
    | with_reducible assumption | intro _ | with_reducible apply State.configAccess_keeps
    | with_reducible apply State.measured_keeps

theorem State.reported_keeps {z s : State} (hk : Keeps z s) (nonce : List Byte) :
    Keeps z (State.reported nonce s) := by
  unfold State.reported
  repeat' first
    | with_reducible assumption | intro _ | with_reducible apply State.doeReply_keeps
    | with_reducible apply State.spdmReply_keeps

theorem execAttestationReport_keeps {z s : State} (hk : Keeps z s) (nonce : List Byte) :
    OKeeps z (execAttestationReport nonce s) := by
  unfold execAttestationReport
  repeat' first
    | with_reducible assumption | intro _ | with_reducible apply State.configAccess_keeps
    | with_reducible apply State.reported_keeps

theorem State.mgmt_keeps {z s : State} (hk : Keeps z s) (run : State → State × Reply)
    (h_run : ∀ a0, Keeps z a0 → Keeps z (run a0).1) :
    OKeeps z (State.mgmt s run) := by
  unfold State.mgmt
  repeat' first
    | with_reducible assumption | with_reducible apply h_run | simp only [↓keeps_lit]
    | with_reducible apply keeps_next | with_reducible apply okeeps_ite

theorem execSetEndpointId_keeps {z s : State} (hk : Keeps z s) (eid : Nat) :
    OKeeps z (execSetEndpointId eid s) := by
  unfold execSetEndpointId
  repeat' first
    | with_reducible assumption | intro _ | with_reducible apply State.mgmt_keeps | simp only [↓keeps_lit]
    | with_reducible apply keeps_ite1

theorem execGetEndpointId_keeps {z s : State} (hk : Keeps z s) :
    OKeeps z (execGetEndpointId s) := by
  unfold execGetEndpointId
  repeat' first | with_reducible assumption | intro _ | with_reducible apply State.mgmt_keeps

theorem execGetMctpVersionSupport_keeps {z s : State} (hk : Keeps z s) (type : Nat) :
    OKeeps z (execGetMctpVersionSupport type s) := by
  unfold execGetMctpVersionSupport
  repeat' first
    | with_reducible assumption | intro _ | with_reducible apply State.tick_keeps
    | with_reducible apply State.mgmt_keeps | with_reducible apply keeps_ite1

theorem execGetMessageTypeSupport_keeps {z s : State} (hk : Keeps z s) :
    OKeeps z (execGetMessageTypeSupport s) := by
  unfold execGetMessageTypeSupport
  repeat' first | with_reducible assumption | intro _ | with_reducible apply State.mgmt_keeps

theorem execGetTid_keeps {z s : State} (hk : Keeps z s) :
    OKeeps z (execGetTid s) := by
  unfold execGetTid
  repeat' first
    | with_reducible assumption | with_reducible apply State.tick_keeps | with_reducible apply State.mgmt_keeps

theorem execGetPldmVersion_keeps {z s : State} (hk : Keeps z s) (type : Nat) :
    OKeeps z (execGetPldmVersion type s) := by
  unfold execGetPldmVersion
  repeat' first
    | with_reducible assumption | intro _ | with_reducible apply State.tick_keeps
    | with_reducible apply State.mgmt_keeps | split

theorem execGetPldmTypes_keeps {z s : State} (hk : Keeps z s) :
    OKeeps z (execGetPldmTypes s) := by
  unfold execGetPldmTypes
  repeat' first | with_reducible assumption | intro _ | with_reducible apply State.mgmt_keeps

theorem execGetPldmCommands_keeps {z s : State} (hk : Keeps z s) (type : Nat) :
    OKeeps z (execGetPldmCommands type s) := by
  unfold execGetPldmCommands
  repeat' first | with_reducible assumption | intro _ | with_reducible apply State.mgmt_keeps | split

theorem execGetPdr_keeps {z s : State} (hk : Keeps z s) (handle : Nat) :
    OKeeps z (execGetPdr handle s) := by
  unfold execGetPdr
  repeat' first
    | with_reducible assumption | intro _ | with_reducible apply State.mgmt_keeps | with_reducible apply keeps_ite1

theorem execGetSensorReading_keeps {z s : State} (hk : Keeps z s) (sensor : Nat) :
    OKeeps z (execGetSensorReading sensor s) := by
  unfold execGetSensorReading
  repeat' first
    | with_reducible assumption | intro _ | with_reducible apply State.tick_keeps
    | with_reducible apply State.mgmt_keeps | with_reducible apply keeps_ite1

theorem execGetStateSensorReadings_keeps {z s : State} (hk : Keeps z s) (sensor : Nat) :
    OKeeps z (execGetStateSensorReadings sensor s) := by
  unfold execGetStateSensorReadings
  repeat' first | with_reducible assumption | intro _ | with_reducible apply State.mgmt_keeps | split

theorem State.setUpdate_keeps {z s : State} (hk : Keeps z s) (b : Bool) :
    Keeps z (State.setUpdate s b) := by
  unfold State.setUpdate
  repeat' first | with_reducible assumption | simp only [↓keeps_lit]

theorem execRequestUpdate_keeps {z s : State} (hk : Keeps z s) :
    OKeeps z (execRequestUpdate s) := by
  unfold execRequestUpdate
  repeat' first
    | with_reducible assumption | intro _ | with_reducible apply State.mgmt_keeps
    | with_reducible apply State.setUpdate_keeps | with_reducible apply keeps_ite1

theorem State.transfer_keeps {z s : State} (hk : Keeps z s) (b : List Byte) :
    Keeps z (State.transfer s b).1 := by
  unfold State.transfer
  repeat' first
    | with_reducible assumption | with_reducible apply State.setF_keeps | with_reducible apply State.putBank_keeps
    | with_reducible apply State.stage_keeps | with_reducible apply keeps_ite1

theorem execFirmwareTransfer_keeps {z s : State} (hk : Keeps z s) (image : List Byte) :
    OKeeps z (execFirmwareTransfer image s) := by
  unfold execFirmwareTransfer
  repeat' first
    | with_reducible assumption | intro _ | with_reducible apply State.mgmt_keeps
    | with_reducible apply State.setUpdate_keeps | with_reducible apply State.transfer_keeps
    | with_reducible apply keeps_ite1

theorem execActivateFirmware_keeps {z s : State} (hk : Keeps z s) :
    OKeeps z (execActivateFirmware s) := by
  unfold execActivateFirmware
  repeat' first
    | with_reducible assumption | intro _ | with_reducible apply State.activateBank_keeps
    | with_reducible apply State.mgmt_keeps | with_reducible apply State.setUpdate_keeps
    | with_reducible apply keeps_ite1

theorem State.idleTick_keeps {z s : State} (hk : Keeps z s) :
    Keeps z (State.idleTick s) := by
  unfold State.idleTick
  repeat' first
    | with_reducible assumption | with_reducible apply State.svcLate_keeps | simp only [↓keeps_lit]
    | with_reducible apply keeps_ite

theorem State.writeField_keeps {z s : State} (hk : Keeps z s) (r : RegWrite) (x : Fld) :
    Keeps z (State.writeField r s x) := by
  unfold State.writeField
  repeat' first
    | with_reducible assumption | with_reducible apply State.setF_keeps | with_reducible apply keeps_ite | split

theorem State.plainWrite_keeps {z s : State} (hk : Keeps z s) (xs : List Fld) (r : RegWrite) :
    Keeps z (State.plainWrite xs r s) := by
  unfold State.plainWrite
  repeat' first
    | with_reducible assumption | intro _ | with_reducible apply State.writeField_keeps
    | with_reducible apply keeps_foldl

theorem State.plainUnless_keeps {z s : State} (hk : Keeps z s) (ignored : Bool) (xs : List Fld) (r : RegWrite) :
    Keeps z (State.plainUnless ignored xs r s) := by
  unfold State.plainUnless
  repeat' first
    | with_reducible assumption | with_reducible apply State.plainWrite_keeps | with_reducible apply keeps_ite

theorem State.ctrlWrite_keeps {z s : State} (hk : Keeps z s) (r : RegWrite) :
    Keeps z (State.ctrlWrite r s) := by
  unfold State.ctrlWrite
  repeat' first
    | with_reducible assumption | with_reducible apply State.softLaunch_keeps
    | with_reducible apply State.tokenClear_keeps | with_reducible apply State.setRun_keeps
    | with_reducible apply keeps_ite

theorem State.queueReg_keeps {z s : State} (hk : Keeps z s) (place n : Nat) (xs : List Fld) (r : RegWrite) :
    Keeps z (State.queueReg place n xs r s) := by
  unfold State.queueReg
  repeat' first
    | with_reducible assumption | with_reducible apply State.queueWrite_keeps
    | with_reducible apply State.cqWrite_keeps | with_reducible apply State.cqHeadWrite_keeps
    | with_reducible apply State.plainWrite_keeps | with_reducible apply State.plainUnless_keeps
    | with_reducible apply keeps_ite | split

theorem State.arrCtrlWrite_keeps {z s : State} (hk : Keeps z s) (xs : List Fld) (r : RegWrite) :
    Keeps z (State.arrCtrlWrite xs r s) := by
  unfold State.arrCtrlWrite
  repeat' first | with_reducible assumption | with_reducible apply State.plainWrite_keeps

theorem State.lmonWrite_keeps {z s : State} (hk : Keeps z s) (r : RegWrite) :
    Keeps z (State.lmonWrite r s) := by
  unfold State.lmonWrite
  repeat' first | with_reducible assumption | with_reducible apply State.modLayer_keeps

theorem State.portWrite_keeps {z s : State} (hk : Keeps z s) (p : Nat) (r : RegWrite) :
    Keeps z (State.portWrite p r s) := by
  unfold State.portWrite
  repeat' first
    | with_reducible assumption | with_reducible apply State.retrainPort_keeps
    | with_reducible apply State.unquarantinePort_keeps | with_reducible apply State.enablePort_keeps
    | with_reducible apply keeps_ite

theorem State.evtCtrlWrite_keeps {z s : State} (hk : Keeps z s) (xs : List Fld) (r : RegWrite) :
    Keeps z (State.evtCtrlWrite xs r s) := by
  unfold State.evtCtrlWrite
  repeat' first
    | with_reducible assumption | with_reducible apply State.plainWrite_keeps | simp only [↓keeps_lit]
    | with_reducible apply keeps_ite

theorem State.replayWrite_keeps {z s : State} (hk : Keeps z s) (r : RegWrite) :
    Keeps z (State.replayWrite r s) := by
  unfold State.replayWrite
  repeat' first
    | with_reducible assumption | with_reducible apply State.replayEntry_keeps
    | with_reducible apply State.exitReplay_keeps | with_reducible apply keeps_ite

theorem State.secWrite_keeps {z s : State} (hk : Keeps z s) (v : Nat) :
    Keeps z (State.secWrite v s) := by
  unfold State.secWrite
  repeat' first
    | with_reducible assumption | with_reducible apply State.nonceCmd_keeps
    | with_reducible apply State.debugCmd_keeps | with_reducible apply State.releaseDebug_keeps
    | with_reducible apply State.lifecycleCmd_keeps | with_reducible apply State.rotateCmd_keeps
    | with_reducible apply State.featuresCmd_keeps | with_reducible apply State.scrubCmd_keeps
    | with_reducible apply State.secBadCommand_keeps | with_reducible apply keeps_ite

theorem State.regEffect_keeps {z s : State} (hk : Keeps z s) (reg : Nat) (xs : List Fld) (r : RegWrite) :
    Keeps z (State.regEffect reg xs r s) := by
  unfold State.regEffect
  repeat' first
    | with_reducible assumption | with_reducible apply State.loadRoutes_keeps
    | with_reducible apply State.svcWrite_keeps | with_reducible apply State.quotaRegs_keeps
    | with_reducible apply State.infoWrite_keeps | with_reducible apply State.forceProbes_keeps
    | with_reducible apply State.clearQuarantine_keeps | with_reducible apply State.rateWrite_keeps
    | with_reducible apply State.requestState_keeps | with_reducible apply State.devResetWrite_keeps
    | with_reducible apply State.tileResetWrite_keeps | with_reducible apply State.plainWrite_keeps
    | with_reducible apply State.plainUnless_keeps | with_reducible apply State.ctrlWrite_keeps
    | with_reducible apply State.queueReg_keeps | with_reducible apply State.arrCtrlWrite_keeps
    | with_reducible apply State.lmonWrite_keeps | with_reducible apply State.portWrite_keeps
    | with_reducible apply State.evtCtrlWrite_keeps | with_reducible apply State.replayWrite_keeps
    | with_reducible apply State.secWrite_keeps | with_reducible apply keeps_ite | split

theorem State.msixWord_keeps {z s : State} (hk : Keeps z s) (k v : Nat) :
    Keeps z (State.msixWord s k v) := by
  unfold State.msixWord
  repeat' first | with_reducible assumption | simp only [↓keeps_lit] | with_reducible apply keeps_ite

theorem State.msixWrite_keeps {z s : State} (hk : Keeps z s) (off bytes v : Nat) :
    Keeps z (State.msixWrite off bytes v s) := by
  unfold State.msixWrite
  repeat' first
    | with_reducible assumption | intro _ | with_reducible apply State.unmask_keeps
    | with_reducible apply State.mask_keeps | with_reducible apply State.msixWord_keeps
    | with_reducible apply keeps_ite | split | dsimp only

theorem State.bar0Write_keeps {z s : State} (hk : Keeps z s) (off bytes v : Nat) :
    Keeps z (State.bar0Write off bytes v s) := by
  unfold State.bar0Write
  repeat' first
    | with_reducible assumption | with_reducible apply State.violation_keeps
    | with_reducible apply State.regEffect_keeps | with_reducible apply State.msixWrite_keeps
    | with_reducible apply keeps_ite | split

theorem State.pageWrite_keeps {z s : State} (hk : Keeps z s) (off bytes v : Nat) :
    Keeps z (State.pageWrite off bytes v s) := by
  unfold State.pageWrite
  repeat' first
    | with_reducible assumption | with_reducible apply State.violation_keeps
    | with_reducible apply State.submitTable_keeps | simp only [↓keeps_lit] | with_reducible apply keeps_ite

theorem State.legacyWrite_keeps {z s : State} (hk : Keeps z s) (off bytes v : Nat) :
    Keeps z (State.legacyWrite off bytes v s) := by
  unfold State.legacyWrite
  repeat' first
    | with_reducible assumption | with_reducible apply State.wrNat_keeps | with_reducible apply State.violation_keeps
    | with_reducible apply State.touchHbm_keeps | with_reducible apply State.pageWrite_keeps
    | with_reducible apply keeps_ite

theorem bar2Write_keeps {z s : State} (hk : Keeps z s) (off bytes v : Nat) :
    OKeeps z (bar2Write off bytes v s) := by
  unfold bar2Write
  repeat' first
    | with_reducible assumption | intro _ | with_reducible apply State.violation_keeps
    | with_reducible apply State.hostAccess_keeps | with_reducible apply State.ringDoorbell_keeps
    | with_reducible apply State.wakeIngest_keeps | with_reducible apply okeeps_ite

theorem barWrite_keeps {z s : State} (hk : Keeps z s) (bar off bytes v : Nat) :
    OKeeps z (barWrite bar off bytes v s) := by
  unfold barWrite
  repeat' first
    | with_reducible assumption | intro _ | with_reducible apply State.violation_keeps
    | with_reducible apply State.hostAccess_keeps | with_reducible apply State.barWindow_keeps
    | with_reducible apply State.bar0Write_keeps | with_reducible apply State.legacyWrite_keeps
    | with_reducible apply bar2Write_keeps | with_reducible apply okeeps_ite

theorem State.readWith_keeps {z s : State} (hk : Keeps z s) (b : List Byte) :
    Keeps z (State.readWith s b) := by
  unfold State.readWith
  repeat' first | with_reducible assumption | simp only [↓keeps_lit]

theorem State.badRead_keeps {z s : State} (hk : Keeps z s) (k bytes : Nat) :
    Keeps z (State.badRead s k bytes) := by
  unfold State.badRead
  repeat' first
    | with_reducible assumption | with_reducible apply State.violation_keeps
    | with_reducible apply State.readWith_keeps

theorem State.bar0Read_keeps {z s : State} (hk : Keeps z s) (off bytes : Nat) :
    Keeps z (State.bar0Read off bytes s) := by
  unfold State.bar0Read
  repeat' first
    | with_reducible assumption | with_reducible apply State.tick_keeps | with_reducible apply State.latchHead_keeps
    | with_reducible apply State.readWith_keeps | with_reducible apply State.badRead_keeps
    | with_reducible apply keeps_ite

theorem State.legacyRead_keeps {z s : State} (hk : Keeps z s) (off bytes : Nat) :
    Keeps z (State.legacyRead off bytes s) := by
  unfold State.legacyRead
  repeat' first
    | with_reducible assumption | with_reducible apply State.touchHbm_keeps
    | with_reducible apply State.readWith_keeps | with_reducible apply State.badRead_keeps
    | with_reducible apply keeps_ite

theorem State.bar2Read_keeps {z s : State} (hk : Keeps z s) (off bytes : Nat) :
    Keeps z (State.bar2Read off bytes s) := by
  unfold State.bar2Read
  repeat' first
    | with_reducible assumption | with_reducible apply State.readWith_keeps | with_reducible apply State.badRead_keeps
    | with_reducible apply keeps_ite

theorem State.barRead_keeps {z s : State} (hk : Keeps z s) (bar off bytes : Nat) :
    Keeps z (State.barRead bar off bytes s) := by
  unfold State.barRead
  repeat' first
    | with_reducible assumption | with_reducible apply State.barWindow_keeps
    | with_reducible apply State.badRead_keeps | with_reducible apply State.bar0Read_keeps
    | with_reducible apply State.legacyRead_keeps | with_reducible apply State.bar2Read_keeps
    | with_reducible apply keeps_ite

theorem State.openRead_keeps {z s : State} (hk : Keeps z s) (bar off bytes : Nat) :
    Keeps z (State.openRead bar off bytes s) := by
  unfold State.openRead
  repeat' first
    | with_reducible assumption | with_reducible apply State.badRead_keeps
    | with_reducible apply State.barRead_keeps | with_reducible apply keeps_ite

theorem execHeadSeqRead_keeps {z s : State} (hk : Keeps z s) :
    OKeeps z (execHeadSeqRead s) := by
  unfold execHeadSeqRead
  repeat' first
    | with_reducible assumption | intro _ | with_reducible apply State.hostAccess_keeps
    | with_reducible apply State.openRead_keeps

theorem execRegisterWrite_keeps {z s : State} (hk : Keeps z s) (bar off bytes : Nat) (v : Option Nat) :
    OKeeps z (execRegisterWrite bar off bytes v s) := by
  unfold execRegisterWrite
  repeat' first
    | with_reducible assumption | intro _ | with_reducible apply State.hostAccess_keeps
    | with_reducible apply State.openRead_keeps | with_reducible apply barWrite_keeps | split

theorem State.giveData_keeps {z s : State} (hk : Keeps z s) (b : List Byte) :
    Keeps z (State.giveData s b) := by
  unfold State.giveData
  repeat' first | with_reducible assumption | simp only [↓keeps_lit]

theorem State.observe_keeps {z s : State} (hk : Keeps z s) (op : DapOp) {t : State} (ho : s.observe op = some t) : Keeps z t := by
  unfold State.observe at ho
  split at ho
  all_goals cases ho
  all_goals first
    | exact State.giveData_keeps hk _
    | exact State.giveData_keeps (State.tick_keeps hk) _

theorem State.setHalted_keeps {z s : State} (hk : Keeps z s) (b : Bool) :
    Keeps z (State.setHalted s b) := by
  unfold State.setHalted
  repeat' first | with_reducible assumption | simp only [↓keeps_lit]

theorem State.haltAccess_keeps {z s : State} (hk : Keeps z s) (op : DapOp) : Keeps z (s.haltAccess op) := by
  unfold State.haltAccess
  repeat' first
    | with_reducible assumption | with_reducible apply State.wr_keeps | with_reducible apply State.touchHbm_keeps
    | with_reducible apply State.regEffect_keeps | with_reducible apply State.giveData_keeps
    | with_reducible apply State.setHalted_keeps | with_reducible apply keeps_ite | split

theorem execDapAccess_keeps {z s : State} (hk : Keeps z s) (op : DapOp) :
    OKeeps z (execDapAccess op s) := by
  unfold execDapAccess
  repeat' first
    | with_reducible assumption | refine State.observe_keeps ?_ _ (by with_reducible assumption)
    | with_reducible apply State.haltAccess_keeps | with_reducible apply keeps_next | with_reducible apply okeeps_ite
    | split

theorem runHeld_keeps {z s : State} (hk : Keeps z s) (c : Instr) :
    OKeeps z (runHeld c s) := by
  unfold runHeld
  repeat' first
    | with_reducible assumption | with_reducible apply execRetrain_keeps | with_reducible apply execUnquarantine_keeps
    | with_reducible apply execPortEnable_keeps | with_reducible apply execRouteLoad_keeps
    | with_reducible apply execStepLaunch_keeps | with_reducible apply execLoopStart_keeps
    | with_reducible apply execLoopStop_keeps | with_reducible apply execLoopRestart_keeps
    | with_reducible apply execRestoreHost_keeps | with_reducible apply execCkptNow_keeps
    | with_reducible apply execFwStage_keeps | with_reducible apply execFwActivate_keeps
    | with_reducible apply execServiceBadCmd_keeps | with_reducible apply execDoorbell_keeps
    | with_reducible apply execIngestWake_keeps | with_reducible apply execTokenClearAll_keeps
    | with_reducible apply execRun_keeps | with_reducible apply execQueueCfg_keeps
    | with_reducible apply execCqCfg_keeps | with_reducible apply execCqHead_keeps
    | with_reducible apply execQuotaWrite_keeps | with_reducible apply execLinfoWrite_keeps
    | with_reducible apply execForceProbe_keeps | with_reducible apply execQclear_keeps
    | with_reducible apply execEvtRate_keeps | with_reducible apply execMsixUnmask_keeps
    | with_reducible apply execRequestIdle_keeps | with_reducible apply execRequestDoze_keeps
    | with_reducible apply execRequestDeep_keeps | with_reducible apply execProgramLoad_keeps
    | with_reducible apply execReplayEnter_keeps | with_reducible apply execReplayExit_keeps
    | with_reducible apply execSubmit_keeps | with_reducible apply execWindowAccess_keeps
    | with_reducible apply execDecoderCommit_keeps | with_reducible apply execCacheResponse_keeps
    | with_reducible apply execIdeKm_keeps | with_reducible apply execSpdmSessionStart_keeps
    | with_reducible apply execSpdmSessionEnd_keeps | with_reducible apply execBusMasterEnable_keeps
    | with_reducible apply execMemorySpaceEnable_keeps | with_reducible apply execDevReset_keeps
    | with_reducible apply execServiceReset_keeps | with_reducible apply execTileReset_keeps
    | with_reducible apply execNonce_keeps | with_reducible apply execDebugReq_keeps
    | with_reducible apply execDebugRel_keeps | with_reducible apply execLifecycle_keeps
    | with_reducible apply execKeyRotate_keeps | with_reducible apply execFeatures_keeps
    | with_reducible apply execScrubAll_keeps | with_reducible apply execSecBadCmd_keeps
    | with_reducible apply execDoeDiscovery_keeps | with_reducible apply execCdatTableAccess_keeps
    | with_reducible apply execGetCertificate_keeps | with_reducible apply execChallenge_keeps
    | with_reducible apply execGetMeasurements_keeps | with_reducible apply execAttestationReport_keeps
    | with_reducible apply execRegisterWrite_keeps | with_reducible apply execHeadSeqRead_keeps
    | with_reducible apply keeps_next | split

theorem runLatch_keeps {z s : State} (hk : Keeps z s) (l : List Instr) : OKeeps z (runLatch s l) := by
  induction l generalizing s with
  | nil => exact keeps_next hk
  | cons c r ih =>
    unfold runLatch
    have h := (runHeld_keeps hk c).next
    split
    · exact ih (h _ (by assumption))
    · exact keeps_fault
    · exact keeps_refused

theorem State.emptyLatch_keeps {z s : State} (hk : Keeps z s) :
    Keeps z (State.emptyLatch s) := by
  unfold State.emptyLatch
  repeat' first | with_reducible assumption | simp only [↓keeps_lit]

theorem execDeepExit_keeps {z s : State} (hk : Keeps z s) (w : WakeCause) :
    OKeeps z (execDeepExit w s) := by
  unfold execDeepExit
  repeat' first
    | with_reducible assumption | with_reducible apply State.leaveDeep_keeps | with_reducible apply runLatch_keeps
    | with_reducible apply State.emptyLatch_keeps | with_reducible apply keeps_next | with_reducible apply okeeps_ite

end Sys2Proof.Machine
end

