-- ==== Sys2Proof/Laws/Writes.lean ====
section
/-! SUPPORT. What a write of a register gives its fields: the fields of one register lie at different places, and a write
without an effect of its own gives each what its access code gives it. -/

namespace Sys2Proof.Machine

/-- No two fields of one register lie at one place. -/
theorem regRows_nodup :
    (regRows.all fun r => (List.range r.count).all fun n => decide ((r.flds n).map Fld.key).Nodup) = true := by
  decide +kernel

theorem fieldsAt_nodup {off : Nat} {xs : List Fld} (h : fieldsAt off = some xs) : (xs.map Fld.key).Nodup := by
  unfold fieldsAt at h
  obtain ⟨r, hr, rfl⟩ := Option.map_eq_some_iff.1 h
  have hm := List.mem_of_find?_eq_some hr
  have hp := List.find?_some hr
  simp only [Bool.and_eq_true, decide_eq_true_eq] at hp
  have hn : (off - r.off) / r.stride < r.count := by
    have h0 : 0 < r.stride := by
      rcases Nat.eq_zero_or_pos r.stride with h0 | h0
      · rw [h0] at hp; omega
      · exact h0
    rw [Nat.div_lt_iff_lt_mul h0, Nat.mul_comm]
    omega
  have := List.all_eq_true.1 (List.all_eq_true.1 regRows_nodup r hm) _ (List.mem_range.2 hn)
  simpa using this

/-- A write of one field by its access code (R12). -/
theorem writeField_same (r : RegWrite) (s : State) (x : Fld) : (s.writeField r x).f x =
    if r.touches x = false then s.f x
    else match x.acc with
      | .rw => r.value x / 2 ^ x.align * 2 ^ x.align % 2 ^ x.w
      | .rws => r.value x / 2 ^ x.align * 2 ^ x.align % 2 ^ x.w
      | .w1c => if r.hits x then 0 else s.f x
      | .ro => s.f x
      | .wo => s.f x := by
  unfold State.writeField
  cases r.touches x <;> simp
  cases x.acc <;> simp [f_setF_same]
  cases r.hits x <;> simp [f_setF_same]

theorem writeField_other {r : RegWrite} {s : State} {x y : Fld} (h : y.key ≠ x.key) :
    (s.writeField r x).f y = s.f y := by
  unfold State.writeField
  split
  · rfl
  · split <;> (try split) <;> first | rfl | exact f_setF_other h _ _

/-- A write without an effect of its own gives each field of the register what its access code gives it. -/
theorem plainWrite_f {xs : List Fld} (hn : (xs.map Fld.key).Nodup) {x : Fld} (hx : x ∈ xs) (r : RegWrite) (s : State) :
    (s.plainWrite xs r).f x = (s.writeField r x).f x := by
  unfold State.plainWrite
  induction xs generalizing s with
  | nil => simp at hx
  | cons y l ih =>
    simp only [List.map_cons, List.nodup_cons] at hn
    rw [List.foldl_cons]
    have rest : ∀ (m : List Fld) (t : State), (∀ z ∈ m, x.key ≠ z.key) → (m.foldl (State.writeField r) t).f x = t.f x := by
      intro m
      induction m with
      | nil => intros; rfl
      | cons z m ihm =>
        intro t hz
        rw [List.foldl_cons, ihm _ (fun w hw => hz w (by simp [hw])), writeField_other (hz z (by simp))]
    rcases List.mem_cons.1 hx with rfl | hx
    · exact rest _ _ (fun z hz e => hn.1 (e ▸ List.mem_map_of_mem hz))
    · rw [ih hn.2 hx]
      have h : x.key ≠ y.key := fun e => hn.1 (e ▸ List.mem_map_of_mem hx)
      rw [writeField_same, writeField_same, writeField_other h]

theorem writeField_frame (r : RegWrite) (s : State) (x : Fld) :
    s.writeField r x = { s with regs := (s.writeField r x).regs } := by
  unfold State.writeField
  split
  · rfl
  · split <;> (try split) <;> rfl

/-- A write without an effect of its own changes the register file alone. -/
theorem plainWrite_frame (xs : List Fld) (r : RegWrite) (s : State) :
    s.plainWrite xs r = { s with regs := (s.plainWrite xs r).regs } := by
  unfold State.plainWrite
  induction xs generalizing s with
  | nil => rfl
  | cons x l ih =>
    rw [List.foldl_cons, ih, writeField_frame]

@[simp] theorem plainWrite_rd (xs : List Fld) (r : RegWrite) (s : State) (sp a : Nat) :
    (s.plainWrite xs r).rd sp a = s.rd sp a := by
  rw [plainWrite_frame]
  rfl

/-- The registers whose write has no effect of its own (R12). -/
theorem regEffect_plain {reg : Nat} {xs : List Fld} {r : RegWrite} {s : State}
    (h1 : ¬ (0x11000 ≤ reg ∧ reg < 0x12000)) (h2 : ¬ (0x91000 ≤ reg ∧ reg < 0x91300 ∧ reg % 0x40 = 0))
    (h3 : reg ∉ [0x00010, 0x00018, 0x00030, 0x10000, 0x10030, 0x100c0, 0x20020, 0x30000, 0x30048, 0x30090, 0x80000,
      0x800c8, 0x90000, 0xa0008, 0xb0000, 0xc0008, 0xe0000, 0xe0058])
    (h4 : reg ∈ [0x20010, 0x20018, 0x20030, 0x80018] → s.fb F.schCtrlRun = false) :
    s.regEffect reg xs r = s.plainWrite xs r := by
  simp only [List.mem_cons, List.not_mem_nil, or_false, not_or] at h3
  unfold State.regEffect
  rw [if_neg h1, if_neg h2]
  split <;> first | omega | rfl | (simp [State.plainUnless, h4])

end Sys2Proof.Machine
end

