-- ==== Sys2Proof/Tests/Slice0.lean ====
section
/-! SUPPORT. Tests: an ill-formed command for each check of WellFormed; for each statement, states and operands that meet
the hypotheses of its clauses together; and single steps whose results are worked out by hand from the spec. -/

namespace Sys2Proof.Machine.T

open Sys2Proof Sys2Proof.Machine

set_option Elab.async false

/-! ### Builders -/

/-- An instruction of ICLASS and OPCODE `op` under number 1. -/
def ins (op : Nat) (slots : List (Nat × Desc) := []) (r : Rec := {}) : Inst :=
  { id := 1, code := { r with opcode := op % 4096, iclass := op / 4096 }
    slots := slots.map (fun x => (x.1, (0, x.2))) }

/-- Reset with instructions in flight. -/
def st (l : List Inst) : State := { State.reset with sch := { inflight := l } }

/-- A compact tensor of one dimension in HBM. -/
def vec (format base n : Nat) : Desc :=
  { format := format, loc := 1, ndim := 1, base := base, ext := [n, 1, 1, 1, 1], stride := [1, n, n, n, n] }

/-- A compact tensor of two dimensions in HBM. -/
def mat (format base n m : Nat) : Desc :=
  { format := format, loc := 1, ndim := 2, base := base, ext := [n, m, 1, 1, 1], stride := [1, n, n * m, n * m, n * m] }

/-- The conditions of mayStart, as a test. -/
def starts (s : State) (op id : Nat) (i : Inst) : Bool :=
  s.inst id == some i && i.code.op == op && s.ready i && s.hostFree i && s.first (fun _ => true) i && !s.depFailed i &&
  i.members.all (fun m => ((s.inst m).bind s.poisonRead).isNone)

theorem mayStart_of {s : State} {op id : Nat} {i : Inst} (h : starts s op id i = true) : s.mayStart op id i := by
  simp only [starts, Bool.and_eq_true, beq_iff_eq, Bool.not_eq_true', List.all_eq_true, Option.isNone_iff_eq_none] at h
  exact ⟨h.1.1.1.1.1.1, h.1.1.1.1.1.2, h.1.1.1.1.2, h.1.1.1.2, h.1.1.2, h.1.2, h.2⟩

/-- The instruction alone in flight may start. -/
def lone (i : Inst) : Bool := starts (st [i]) i.code.op 1 i

/-- A command answers a next state of which `p` holds. -/
def isNext (o : Host.Outcome State Fault Refusal) (p : State → Bool) : Bool := match o with
  | .next t => p t
  | _ => false

/-! ### Witnesses: control, tokens and memory -/

/-- The queue that a step takes its command from, and an empty one. -/
theorem witness_StepTakesTheFrontCommand : State.reset.pending = [] ∧
    step (State.reset.setPending [.ftqPost, .chainClose 0]) = exec .ftqPost (State.reset.setPending [.chainClose 0]) :=
  ⟨rfl, rfl⟩

def joinRec : Rec := { wait := 0x10, imm1 := 0x20 }
def joined (a b : Tok) : State := ((st [ins 1 [] joinRec]).putTok 0x10 (some a)).putTok 0x20 (some b)

theorem witness_ControlInstructionsComplete :
    (lone (ins 0) = true) ∧
    (starts (joined .set .set) 1 1 (ins 1 [] joinRec) = true ∧ ∀ t ∈ joinRec.joinTokens, (joined .set .set).tok t = some .set) ∧
    (starts (joined .set .poisoned) 1 1 (ins 1 [] joinRec) = true ∧
      ∃ t ∈ joinRec.joinTokens, (joined .set .poisoned).tok t = some .poisoned) ∧
    (lone (ins 4) = true ∧ (ins 4).covers.2 = false ∧
      ∀ j ∈ (st [ins 4]).sch.inflight, j.queue = (ins 4).queue → (ins 4).covers.1 ≤ j.id → (ins 4).id ≤ j.id) ∧
    (lone (ins 5) = true ∧ (ins 5).has 0 = false) ∧
    (lone (ins 5 [(0, vec 0x12 4096 4)] { imm2 := 3 }) = true ∧ (ins 5 [(0, vec 0x12 4096 4)] {}).has 0 = true ∧
      3 < (vec 0x12 4096 4).count) := by decide +kernel

/-- FIRST and COUNT of CTL.TSET and CTL.TCLR. -/
def rangeOf (first count : Nat) : Rec := { imm1 := first + count * 2 ^ 16 }

theorem witness_ControlInstructionsComplete_tokens :
    ∀ op ∈ [2, 3], lone (ins op [] (rangeOf 1 0xffff)) = true ∧ lone (ins op [] (rangeOf 0xffff 1)) = true ∧
      1 + 0xffff - 1 ≤ 0xffff ∧ lone (ins op [] (rangeOf 0xffff 2)) = true ∧
      bitsOf (rangeOf 0xffff 2).imm1 0 16 + bitsOf (rangeOf 0xffff 2).imm1 16 16 - 1 = 0x10000 := by decide +kernel

/-- A descriptor table of one entry at HBM address 0. -/
def table (l : List Inst) (d : Desc) : State := ((st l).setF F.schDtCount 1).wrBytes 1 0 d.bytes

/-- Valid entries of the table in host memory and in a layer. -/
def hostEntry : Desc :=
  { valid := true, loc := 2, ndim := 1, base := 4096, ext := [4, 0, 0, 0, 0], stride := [1, 0, 0, 0, 0] }
def layerEntry : Desc :=
  { valid := true, format := 5, loc := 4, ndim := 2, ext := [2, 1, 0, 0, 0], stride := [0, 0, 0, 0, 0] }

def free_ : Inst := ins 0x1001 [] { h0 := 0 }
def dset : Inst := ins 0x1002 [] { h0 := 0, imm1 := 64 }

theorem witness_MemInstructionsComplete :
    (lone (ins 0x1000 [(0, vec 0 4096 4)]) = true ∧ (st []).seesawBeyond (ins 0x1000 [(0, vec 0 4096 4)]) = false) ∧
    (lone (ins 0x1000 [(0, { vec 1 1 16 with loc := 5 })]) = true ∧
      (st []).seesawBeyond (ins 0x1000 [(0, { vec 1 1 16 with loc := 5 })]) = true) ∧
    (∀ d ∈ [hostEntry, layerEntry], starts (table [free_] d) 0x1001 1 free_ = true ∧
      (table [free_] d).unnamed free_ 0 = true ∧ ((table [free_] d).descEntry 0).valid = true ∧
      ((table [free_] d).descEntry 0).loc = d.loc) ∧
    (∀ b ∈ [true, false], starts (table [free_] { vec 0 4096 4 with bound := b }) 0x1001 1 free_ = true ∧
      (table [free_] { vec 0 4096 4 with bound := b }).unnamed free_ 0 = true ∧
      ((table [free_] { vec 0 4096 4 with bound := b }).descEntry 0).loc = 1 ∧
      ((table [free_] { vec 0 4096 4 with bound := b }).descEntry 0).bound = b) ∧
    (starts (table [dset] (vec 0 4096 4)) 0x1002 1 dset = true ∧ (table [dset] (vec 0 4096 4)).unnamed dset 0 = true ∧
      bitsOf dset.code.imm1 0 48 % 64 = 0 ∧ bitsOf dset.code.imm1 0 48 + 64 ≤ hbmTop ∧
      ((table [dset] (vec 0 4096 4)).descEntry 0).bound = false) ∧
    (∀ k ∈ [1, 2, 4, 0], lone (ins 0x1003 [] { imm0 := k }) = true) ∧
    (lone (ins 0x1003 [] { imm0 := 2, imm1 := 2 ^ 32 }) = true ∧
      (st []).val.hbmQuota + (st []).heapFree / pageBytes < bitsOf (2 ^ 32) 32 32) ∧
    (lone (ins 0x1004 [(0, vec 0 4096 4)]) = true ∧ (vec 0 4096 4).loc ≤ 1) := by decide +kernel

/-! ### Witnesses: vector engine, movers, valley and arrays -/

/-- A VEC record of OPCODE `op` with operands of a format that the instruction takes. -/
def vecIns (op : Nat) : Inst :=
  let f := if op = 0x12 then 1 else if 8 ≤ op ∧ op ≤ 0xe then 9 else 0
  let a := if op = 0x10 then 0xe else f
  let d := if op = 0x0f then 0xe else if op = 0x12 then 9 else f
  let src : List (Nat × Desc) := if op = 0x0b ∨ op = 0x06 ∨ op = 0x07 ∨ op = 0x11 ∨ op = 0x12 then []
    else if 0xc ≤ op ∧ op ≤ 0xe then [(2, vec 0xe 3072 4)] else [(2, vec f 3072 4)]
  let third : List (Nat × Desc) := if op = 0x03 ∨ op = 0x10 then [(3, vec f 4096 4)] else []
  ins (0x3000 + op) ([(0, vec d 1024 4), (1, vec a 2048 4)] ++ src ++ third)

theorem witness_VecElementwiseComplete : (vecElementwise 1).all (fun p =>
    starts (st [vecIns p.2]) (0x3000 + p.2) 1 (vecIns p.2) &&
    (st [vecIns p.2]).ewStatus (vecIns p.2) { d := (vecIns p.2).d 1 } ((vecIns p.2).d 0) true == stOk) = true ∧
    ∀ p ∈ vecElementwise 1, (vecIns p.2).alone := by
  refine ⟨by decide +kernel, ?_⟩
  simp [vecElementwise, Inst.alone, vecIns, ins, Rec.flag, bitOf]

/-- The irregular VEC instructions on index lists of zeros. -/
def irrIns (op : Nat) : Inst := ins (0x3000 + op) (match op with
  | 0x20 => [(0, mat 0 1024 4 2), (1, mat 0 2048 4 3), (2, vec 0xc 3072 2)]
  | 0x21 => [(0, mat 0 1024 4 3), (1, mat 0 2048 4 2), (2, vec 0xc 3072 2)]
  | 0x22 => [(0, mat 0 1024 4 2), (1, mat 0 2048 4 3), (2, vec 0xc 3072 3)]
  | 0x23 => [(0, mat 0 1024 4 2), (1, mat 0 2048 4 3), (2, vec 0xc 3072 3)]
  | 0x24 => [(0, mat 0 1024 4 2), (1, mat 0 2048 4 2)]
  | 0x25 => [(0, mat 0 1024 2 2), (1, mat 0 2048 4 2), (3, mat 0xc 3072 2 2)]
  | _ => [(0, vec 0xc 1024 4), (1, vec 9 2048 4)]) { imm1 := if op = 0x25 then 2 else 0 }

def irrAt (op : Nat) : List (Instr × Nat × Nat × Irr) :=
  (vecIrregular (st [irrIns op]) 1 (irrIns op)).filter (fun x => x.2.1 == op)

theorem witness_VecIrregularComplete : [0x20, 0x21, 0x22, 0x23, 0x24, 0x25, 0x26].all (fun op =>
    starts (st [irrIns op]) (0x3000 + op) 1 (irrIns op) && (irrAt op).length == 1 &&
    (irrAt op).all (fun x => x.2.2.1 == stOk && x.2.2.2.status == stOk)) = true ∧
    ∀ op ∈ [0x20, 0x21, 0x22, 0x23, 0x24, 0x25, 0x26], (irrIns op).alone := by
  refine ⟨by decide +kernel, ?_⟩
  simp [Inst.alone, irrIns, ins, Rec.flag, bitOf]

/-- A vector record that fails its checks, and a consumer of the tiles of a grid instruction that has posted one. -/
def wrongVec : Inst := ins 0x3000 [(0, vec 0 1024 4), (1, vec 9 2048 4), (2, vec 0 3072 4)]
def maker : Inst :=
  { ins 0x5000 with phase := .running, tiles := 2, made := [0], posted := 1 }
def taker : Inst := { vecIns 0 with id := 2, code := { (vecIns 0).code with flags := 4 }, producer := some 1, prodOp := 0x5000 }
def fed (bad : Bool) : Inst := { taker with phase := .running, took := [0], depBad := bad }

theorem witness_VecIrregularComplete_chains :
    (starts (st [wrongVec]) 0x3000 1 wrongVec = true ∧ wrongVec.members.head? = some 1 ∧
      (st [wrongVec]).chainStatus (wrongVec.members.filterMap (st [wrongVec]).inst) ≠ stOk) ∧
    (starts (st [vecIns 0]) 0x3000 1 (vecIns 0) = true ∧ (vecIns 0).members.head? = some 1 ∧
      (st [vecIns 0]).chainStatus ((vecIns 0).members.filterMap (st [vecIns 0]).inst) = stOk ∧
      (st [vecIns 0]).sourceWhole (vecIns 0) = true) ∧
    (starts (st [maker, taker]) 0x3000 2 taker = true ∧ taker.members.head? = some 2 ∧
      (st [maker, taker]).chainStatus (taker.members.filterMap (st [maker, taker]).inst) = stOk ∧
      (st [maker, taker]).sourceWhole taker = false) ∧
    ∀ b ∈ [false, true], (st [maker, fed b]).inst 2 = some (fed b) ∧ (fed b).phase = .running ∧ (fed b).code.op = 0x3000 ∧
      (fed b).took ≠ [] ∧ (fed b).members.head? = some 2 ∧ (fed b).depBad = b := by decide +kernel

theorem witness_VecFrame : (∀ op ∈ [0x20, 0x21, 0x22, 0x23, 0x24, 0x25, 0x26],
      starts (st [irrIns op]) (0x3000 + op) 1 (irrIns op) = true ∧
      ∀ j ∈ (irrIns op).members.filterMap (st [irrIns op]).inst, (j.d 0).ndim ≤ 5 ∧ (j.d 3).ndim ≤ 5) ∧
    (∀ p ∈ vecElementwise 1, starts (st [vecIns p.2]) (0x3000 + p.2) 1 (vecIns p.2) = true ∧
      ∀ j ∈ (vecIns p.2).members.filterMap (st [vecIns p.2]).inst, (j.d 0).ndim ≤ 5 ∧ (j.d 3).ndim ≤ 5) := by
  decide +kernel

/-- The host answers: the link is up, and bus mastering and memory space are enabled. -/
def linked (s : State) : State := { s with cxl := { s.cxl with up := true, bme := true, mse := true } }

/-- A mover descriptor in HBM: one row of 4 bytes from one HBM address to another. -/
def movDesc (src dst : Nat) : Nat :=
  (2 ^ 48 + src) * 2 ^ 64 + (2 ^ 48 + dst) * 2 ^ 128 + 4 * 2 ^ 192 + 2 * 2 ^ 224 + 2 * 2 ^ 228 + 1 * 2 ^ 256

def copyIns : Inst := ins 0x2000 [(0, vec 0 4096 4), (1, vec 0 8192 4)]
def copyOut : Inst := ins 0x2000 [(0, vec 0 4096 4), (1, { vec 0 8192 4 with loc := 2 })]
def listIns (a : Nat) : Inst := ins 0x2001 [] { imm1 := a }
def listAt (w : Nat) : State := linked ((st [listIns 4096]).wrNat 1 4096 64 w)
def listRun (w : Nat) : ListRun := ListRun.go { s := listAt w, errs := (listAt w).busErrors 1 } (listIns 4096) 4096 1048576
def badCrc : MoverCrc := { fails := 2, bad := some (0, 0) }

theorem witness_MoverAndValley_copies :
    (lone copyIns = true ∧ (st [copyIns]).copyStatus copyIns = stOk ∧ ({} : MoverCrc).bad = none ∧
      badCrc.bad = some (0, 0) ∧ (copyIns.d 0).loc ≠ 2 ∧ (copyIns.d 1).loc ≠ 2) ∧
    (∀ n ∈ [0, 1], let s := { linked (st [copyOut]) with cxl := { (linked (st [copyOut])).cxl with badHost := List.replicate n 1 } }
      starts s 0x2000 1 copyOut = true ∧ s.copyStatus copyOut = stOk ∧ (copyOut.d 1).loc = 2 ∧ s.busErrors 1 = n) ∧
    starts (linked (st [listIns 32])) 0x2001 1 (listIns 32) = true := by
  refine ⟨?_, ?_, ?_⟩ <;> decide +kernel

/-- A list of one descriptor that names HBM alone runs whether or not the host answers. -/
theorem witness_MoverAndValley_good_list : starts (listAt (movDesc 8192 12288)) 0x2001 1 (listIns 4096) = true ∧
    (listAt (movDesc 8192 12288)).hostReady = true ∧ (st [listIns 4096]).hostReady = false ∧
    ((st [listIns 4096]).wrNat 1 4096 64 (movDesc 8192 12288)).listHost 4096 1 = false ∧
    (listRun (movDesc 8192 12288)).broken = false ∧ (listRun (movDesc 8192 12288)).bad = 0 := by
  refine ⟨?_, ?_, ?_, ?_, ?_, ?_⟩ <;> decide +kernel

theorem witness_MoverAndValley_bad_lists : (starts (listAt 0) 0x2001 1 (listIns 4096) = true ∧
      (listAt 0).hostReady = true ∧ (listRun 0).broken = false ∧ (listRun 0).bad = 1) ∧
    (starts (listAt (movDesc 8192 12288 + 32)) 0x2001 1 (listIns 4096) = true ∧
      (listRun (movDesc 8192 12288 + 32)).broken = true) := by
  refine ⟨?_, ?_⟩ <;> decide +kernel

/-- A frame operand, and a PRESENT frame of its shape. -/
def frameOp : Desc := { vec 1 7 64 with loc := 3 }
def frame : Frame := { state := .present, format := 1, ndim := 1, ext := [64, 1, 1, 1, 1], bytes := 128 }
def withFrame (l : List Inst) : State := (st l).putFrame 7 frame
def pushIns (claim : Nat) : Inst := { ins 0x8000 [(0, frameOp), (1, vec 1 4096 64)] with claim := claim }
def popIns : Inst := ins 0x8001 [(0, vec 1 4096 64), (1, frameOp)]
def dropIns : Inst := ins 0x8002 [(1, frameOp)]
def valley (v : Valley) : State := { State.reset with val := v }
def drained : State :=
  valley { frames := [(7, { frame with start := 0 })], pages := [(0, .hbm)], drain := true, fill := 128 }
/-- No more pages fit on chip, and the one there is of consumed frames. -/
def crowded : State :=
  valley { frames := [(7, { frame with start := pageBytes })], pages := [(0, .chip 0), (1, .hbm)], drain := true
           fill := pageBytes + 128, chipQuota := 1, hbmQuota := 2 }

/-- A place for an allocation exists, wherever the hint lies. -/
theorem room_isSome {s : State} {size : Nat} (h : fitsAt 0 scratchTop 4096 size s.scratchUsed 0 = true) :
    ∃ b, s.scratchRoom size = some b := by
  rw [← Option.isSome_iff_exists, State.scratchRoom, findRoom, List.find?_isSome]
  exact ⟨0, by simp, h⟩

theorem witness_MoverAndValley_frames :
    (∀ k ∈ [stOk, stFrameExists, stValleyFull], lone (pushIns k) = true ∧ (pushIns k).claim = k ∧
      (st [pushIns k]).frameCopyStatus (pushIns k) ((pushIns k).d 0) ((pushIns k).d 1) [0, 1, 5] = stOk) ∧
    (starts (withFrame [popIns]) 0x8001 1 popIns = true ∧ (withFrame [popIns]).frame 7 = some frame ∧
      (withFrame [popIns]).frameCopyStatus popIns (popIns.d 1) (popIns.d 0) [0, 1] = stOk ∧
      (withFrame [popIns]).framesStatus popIns = stOk) ∧
    (starts (withFrame [dropIns]) 0x8002 1 dropIns = true ∧ (dropIns.d 1).loc = 3 ∧
      (withFrame [dropIns]).framesStatus dropIns = stOk) ∧
    (drained.transfers < 4 ∧ drained.broughtBack < drained.val.prefetch ∧ drained.newestHbm = some 0 ∧
      drained.chipPages < min 128 drained.val.chipQuota) ∧
    (crowded.transfers < 4 ∧ crowded.broughtBack < crowded.val.prefetch ∧ crowded.newestHbm = some 1 ∧
      min 128 crowded.val.chipQuota ≤ crowded.chipPages ∧ crowded.spentChip = some (0, 0) ∧
      crowded.hbmPages < crowded.val.hbmQuota) ∧
    mget 0 (valley { pages := [(0, .toChip 0)] }).val.pages = some (.toChip 0) := by decide +kernel

theorem witness_MoverAndValley_room : ∃ b, drained.scratchRoom pageBytes = some b := room_isSome (by decide +kernel)

/-- A layer of two inputs and one output on tile 0, with its operand. -/
def layer : Layer := { inDim := 2, outDim := 1, tiles := [some 0], programmed := true, scales := [0x3f80] }
def layerOp : Desc := { mat 5 0 2 1 with loc := 4, bound := true }
def mastersOp : Desc := { mat 1 0 2 1 with loc := 5 }
def placed (l : List Inst) (y : Layer) : State := { st l with
  arr := { layers := [(0, y)], tiles := [(0, { state := 1 })] }
  units := { awake := [(.tile, 0)] }
  load := { loaded := true, params := 16, n := 1 } }
def placeIns : Inst := ins 0x4000 [(0, { layerOp with bound := false }), (1, mastersOp)]
def programIns : Inst := ins 0x4001 [(0, layerOp)]
def releaseIns : Inst := ins 0x4002 [(0, layerOp)]
def lreadIns : Inst := ins 0x4004 [(0, mat 5 4096 2 1), (1, layerOp)]
def fallIns : Inst := ins 0x4005 [(0, layerOp)] { imm0 := 1 }
def calibIns : Inst := ins 0x4006 [(0, layerOp)]
def launched (s : State) : State := { s with pass := { s.pass with launched := true } }

theorem witness_ArrayInstructionsComplete :
    (starts (placed [placeIns] layer) 0x4000 1 placeIns = true ∧ (placed [placeIns] layer).placeStatus placeIns 1 = stOk ∧
      (placed [placeIns] layer).freeHandle = some 1) ∧
    (starts (placed [programIns] layer) 0x4001 1 programIns = true ∧ (placed [programIns] layer).mayProgram programIns = true ∧
      (placed [programIns] layer).layer 0 = some layer ∧ programIns.layerOf 0 = 0) ∧
    (starts (placed [releaseIns] layer) 0x4002 1 releaseIns = true ∧
      (placed [releaseIns] layer).layerNamed releaseIns 0 = false ∧
      (placed [releaseIns] layer).settledTiles layer = true) ∧
    (starts (placed [lreadIns] layer) 0x4004 1 lreadIns = true ∧
      (∀ t ∈ layer.held, (SleepKind.tile, t) ∈ (placed [lreadIns] layer).units.awake) ∧
      (lreadIns.d 0).format = 5 ∧ (lreadIns.d 0).e 0 = layer.inDim ∧ (lreadIns.d 0).e 1 = layer.outDim) ∧
    (starts (placed [fallIns] layer) 0x4005 1 fallIns = true ∧ layer.fallback = false ∧
      starts (launched (placed [fallIns] layer)) 0x4005 1 fallIns = true) ∧
    starts (placed [calibIns] layer) 0x4006 1 calibIns = true := by decide +kernel

/-- A layer that has lost its tile, and the entry of a bound layer operand. -/
def lost : Layer := { layer with tiles := [none] }
def boundEntry : Desc := { layerEntry with bound := true }
def bareIns : Inst := ins 0x4000 [(0, { layerOp with bound := false }), (1, vec 0 0 2)]
def leaveIns : Inst := ins 0x4005 [(0, layerOp)]
def noLayer (op : Nat) : Inst := ins op [(0, { layerOp with base := 5 }), (1, { layerOp with base := 5 }), (2, { layerOp with base := 5 })]

theorem witness_ArrayInstructionsComplete_ends :
    (let s := (placed [placeIns] layer).wrBytes 1 0 boundEntry.bytes
     starts s 0x4000 1 placeIns = true ∧ (s.descEntry 0).bound = true) ∧
    ((placeIns.d 0).bound = false ∧ ((placed [placeIns] layer).descEntry 0).bound = false) ∧
    (starts (placed [bareIns] layer) 0x4000 1 bareIns = true ∧ ((placed [bareIns] layer).descEntry 0).bound = false ∧
      (placed [bareIns] layer).placeStatus bareIns 1 ≠ stOk) ∧
    (starts (placed [leaveIns] lost) 0x4005 1 leaveIns = true ∧ lost.whole = false) ∧
    (starts (placed [leaveIns] layer) 0x4005 1 leaveIns = true ∧ layer.whole = true ∧ layer.pendFall = none ∧
      (placed [leaveIns] layer).pass.launched = false) ∧
    (starts (launched (placed [leaveIns] layer)) 0x4005 1 leaveIns = true ∧
      (launched (placed [leaveIns] layer)).pass.launched = true) ∧
    (∀ p ∈ [(0x4001, 0), (0x4002, 0), (0x4003, 2), (0x4004, 1), (0x4005, 0), (0x4006, 0)],
      let s := placed [noLayer p.1] layer
      starts s p.1 1 (noLayer p.1) = true ∧ s.layer ((noLayer p.1).layerOf p.2) = none ∧ s.pass.launched = false ∧
        s.layerNamed (noLayer p.1) ((noLayer p.1).layerOf 0) = false ∧ s.fwdMay (noLayer p.1) = true) := by decide +kernel

/-! ### Witnesses: forward, grids, rows and the collective instructions -/

/-- A block tensor of two dimensions in HBM. -/
def blk (format base n m : Nat) : Desc := { mat format base n m with block := 3, expOff := 65536, expStride := [1, 1, 1, 1] }

def fwdIns (k : Nat) : Inst := ins 0x4003 [(0, vec 0 4096 1), (1, { vec 2 8192 2 with block := 3 }), (2, layerOp)] { imm0 := k }
def fwdStep : Inst := { fwdIns 0 with step := some 1 }
def wide (s : State) : State := { s with pass := { s.pass with wide := true, launched := true } }

/-- Every digital unit of a kind is quarantined. -/
def noUnits (k : UnitKind) (n : Nat) (s : State) : State :=
  { s with units := { s.units with quarantined := (List.range n).map (fun g => (k, g)) } }

theorem witness_ArrayForwardCompletes_ends :
    (starts (placed [fwdIns 2] layer) 0x4003 1 (fwdIns 2) = true ∧ (placed [fwdIns 2] layer).fwdMay (fwdIns 2) = true ∧
      fwdStatus (fwdIns 2) layer ≠ stOk) ∧
    (let i : Inst := { fwdIns 0 with claim := stFrameExists }
     starts (placed [i] layer) 0x4003 1 i = true ∧ (placed [i] layer).fwdMay i = true ∧ fwdStatus i layer = stOk) ∧
    (let l := { layer with programmed := false }
     starts (placed [fwdIns 0] l) 0x4003 1 (fwdIns 0) = true ∧ (placed [fwdIns 0] l).fwdMay (fwdIns 0) = true ∧
      fwdStatus (fwdIns 0) l = stOk) ∧
    (let s := noUnits .grid 256 (placed [fwdIns 1] layer)
     starts s 0x4003 1 (fwdIns 1) = true ∧ s.fwdMay (fwdIns 1) = true ∧ s.fwdPlace (fwdIns 1) layer ≠ .tiles ∧
      (s.stash (fwdIns 1)).noGrids = true) := by decide +kernel

theorem witness_ArrayForwardCompletes :
    (∀ k ∈ [0, 1], starts (placed [fwdIns k] layer) 0x4003 1 (fwdIns k) = true ∧ (fwdIns k).layerOf 2 = 0 ∧
      fwdStatus (fwdIns k) layer = stOk ∧ (fwdIns k).code.flag 3 = false ∧ layer.programmed = true ∧
      (placed [fwdIns k] layer).fwdMay (fwdIns k) = true ∧ (placed [fwdIns k] layer).noGrids = false ∧
      (placed [fwdIns k] layer).fwdPlace (fwdIns k) layer = (if k = 1 then .ideal else .tiles)) ∧
    (let l := { layer with fallback := true }
     starts (placed [fwdIns 0] l) 0x4003 1 (fwdIns 0) = true ∧ (placed [fwdIns 0] l).fwdMay (fwdIns 0) = true ∧
      (placed [fwdIns 0] l).fwdPlace (fwdIns 0) l = .fallback) ∧
    (starts (wide (placed [fwdStep] layer)) 0x4003 1 fwdStep = true ∧ (wide (placed [fwdStep] layer)).fwdMay fwdStep = true ∧
      (wide (placed [fwdStep] layer)).fwdPlace fwdStep layer = .wide) := by decide +kernel

def grdFwdIns : Inst := ins 0x5000 [(0, mat 0 4096 4 2), (1, blk 2 8192 3 2), (2, blk 4 12288 3 4)]
def grdDxIns : Inst := ins 0x5001 [(0, mat 0 4096 3 2), (1, blk 3 8192 4 2), (2, blk 4 12288 3 4)]
def grdDwIns : Inst := ins 0x5002 [(0, mat 0 4096 3 4), (1, blk 2 8192 3 2), (2, blk 3 12288 4 2)]

/-- A grid instruction with items out, of which grid 0 runs the last. -/
def running (n : Nat) : Inst :=
  { grdFwdIns with phase := .running, items := n, work := 1, left := [1], pend := [(mat 0 4096 4 2, {})] }
def itemOf (live : Bool) : GridRun := { grid := 0, inst := 1, live := live }
def gridUp (i : Inst) (live : Bool) : State := { st [i] with units := { awake := [(.grid, 0)], running := [itemOf live] } }
/-- Grid instructions that fail: one without operands, and one whose frame is missing. -/
def frameless (i : Inst) : Inst := { i with slots := i.slots ++ [(9, (0, frameOp))] }

theorem witness_GridInstructionsComplete :
    (lone grdFwdIns = true ∧ (st [grdFwdIns]).grdFwdStatus grdFwdIns = stOk ∧ (st [grdFwdIns]).framesStatus grdFwdIns = stOk ∧
      (st [grdFwdIns]).noGrids = false) ∧
    (lone grdDxIns = true ∧ (st [grdDxIns]).grdDxStatus grdDxIns = stOk ∧ (st [grdDxIns]).framesStatus grdDxIns = stOk) ∧
    (lone grdDwIns = true ∧ (st [grdDwIns]).grdDwStatus grdDwIns = stOk ∧ (st [grdDwIns]).framesStatus grdDwIns = stOk) ∧
    (∀ n ∈ [0, 1], ∀ b ∈ [true, false], let s := gridUp (running n) b
      s.dispatch.units.running.find? (fun r => r.grid == 0 && r.inst == 1) = some (itemOf b) ∧
      s.dispatch.inst 1 = some (running n) ∧ s.units.unsettled.all (fun u => u.2.2 != 1) = true) ∧
    (nth (running 1).left ((running 1).itemTile 0) = 1 ∧ (running 1).pend = [(mat 0 4096 4 2, {})]) := by decide +kernel

theorem witness_GridInstructionsComplete_ends :
    (lone (ins 0x5000) = true ∧ (st [ins 0x5000]).grdFwdStatus (ins 0x5000) ≠ stOk ∧
      lone (ins 0x5001) = true ∧ (st [ins 0x5001]).grdDxStatus (ins 0x5001) ≠ stOk ∧
      lone (ins 0x5002) = true ∧ (st [ins 0x5002]).grdDwStatus (ins 0x5002) ≠ stOk) ∧
    (∀ i ∈ [grdFwdIns, grdDxIns, grdDwIns], lone (frameless i) = true ∧
      (st [frameless i]).framesStatus (frameless i) ≠ stOk ∧
      starts (noUnits .grid 256 (st [i])) i.code.op 1 i = true ∧ (noUnits .grid 256 (st [i])).noGrids = true) ∧
    (st [frameless grdFwdIns]).grdFwdStatus (frameless grdFwdIns) = stOk := by decide +kernel

/-- A row instruction of OPCODE `op` with its operands, and the stat frame that a backward one reads. -/
def rowIns (op : Nat) : Inst :=
  let x : List (Nat × Desc) := [(0, mat 0 4096 4 2), (1, mat 0 8192 4 2)]
  let stat : List (Nat × Desc) := [(4, { mat 0 7 2 2 with loc := 3 })]
  ins op (match op with
    | 0x6000 => x ++ [(2, vec 0 12288 4), (3, vec 0 16384 4)]
    | 0x6001 => x ++ [(2, mat 0 12288 4 2), (3, vec 0 16384 4)] ++ stat
    | 0x6002 => x
    | 0x6003 => x ++ [(2, mat 0 12288 4 2)] ++ stat
    | 0x6004 => [(0, mat 0 4096 1 2), (1, mat 0 8192 4 2)]
    | _ => x ++ [(2, mat 0 12288 1 2)] ++ stat)

/-- The PRESENT stat frame of two rows. -/
def statFrame (op : Nat) : Frame :=
  { state := .present, ndim := 2, ext := [2, 2, 1, 1, 1], bytes := 16
    stat := some ((rowIns op).code.statKind, 0, 2, 4) }
def rowState (op : Nat) : State := (st [rowIns op]).putFrame 7 (statFrame op)

theorem mget_none {α : Type} {k : Nat} {m : List (Nat × α)} (h : ∀ p ∈ m, p.1 ≠ k) : mget k m = none := by
  induction m with
  | nil => rfl
  | cons p r ih =>
    have := h p (by simp)
    simp only [mget, this, if_false]
    exact ih (fun q hq => h q (by simp [hq]))

theorem witness_RowInstructionsComplete : [0x6000, 0x6001, 0x6002, 0x6003, 0x6004, 0x6005].all (fun op =>
    starts (rowState op) op 1 (rowIns op) && (rowState op).rowStatus (rowIns op) == stOk &&
    (rowState op).framesStatus (rowIns op) == stOk && (rowState op).statKindOk (rowIns op) && !(rowState op).noRows &&
    !(rowIns op).code.flag 3 && !(rowIns op).code.flag 4 && ([0x6002, 0x6004].contains op → !(rowIns op).has 3)) = true ∧
    ∀ op ∈ [0x6000, 0x6001, 0x6002, 0x6003, 0x6004, 0x6005], ∀ k, 5 ≤ k → (rowIns op).has k = false := by
  refine ⟨by decide +kernel, ?_⟩
  intro op ho k hk
  have h : ∀ op ∈ [0x6000, 0x6001, 0x6002, 0x6003, 0x6004, 0x6005], ∀ p ∈ (rowIns op).slots, p.1 ≤ 4 := by decide +kernel
  have hn : mget k (rowIns op).slots = none := mget_none (fun p hp => by have := h op ho p hp; omega)
  simp only [Inst.has, Inst.slot, hn, Option.isSome_none]

def wrongRow (op : Nat) : Inst := ins op [(0, mat 9 4096 4 2), (1, mat 9 8192 4 2)]

/-- Every row instruction on integers fails its checks, and one that got no frame at admission ends with that. -/
theorem witness_RowInstructionsComplete_ends : [0x6000, 0x6001, 0x6002, 0x6003, 0x6004, 0x6005].all (fun op =>
    lone (wrongRow op) && (st [wrongRow op]).rowStatus (wrongRow op) != stOk &&
    (let i : Inst := { rowIns op with claim := stValleyFull }
     let s := (st [i]).putFrame 7 (statFrame op)
     starts s op 1 i && s.rowStatus i == stOk && s.framesStatus i == stOk)) = true := by decide +kernel

theorem witness_RowAndFillFrame : [0x6000, 0x6001, 0x6002, 0x6003, 0x6004, 0x6005].all (fun op =>
    starts (rowState op) op 1 (rowIns op) && (rowIns op).has 0 && [0, 3, 5, 6].all (fun k => decide (((rowIns op).d k).ndim ≤ 5))) = true ∧
    lone (ins 0x1004 [(0, vec 0 4096 4)]) = true := by decide +kernel

/-- A loaded job of one rank with layer 0 of four parameters in the update table, in a launched step. -/
def bucketIns : Inst := { ins 0x7000 [(0, vec 0 4096 4)] { imm2 := 4 * 2 ^ 32 } with step := some 1 }
def bucketState : State := { launched (st [bucketIns]) with
  load := { loaded := true, params := 16, n := 1, buckets := 4 } }
def passIns (flags imm0 : Nat) : Inst := { ins 0x7001 [] { flags := flags, imm0 := imm0 } with step := some 1 }
def updcfgIns (a : Nat) : Inst := ins 0x7002 [] { imm1 := a }

theorem witness_CollectiveAndServiceInstructions_collective :
    (lone (ins 0x7000) = true ∧ (ins 0x7000).step = none ∧ lone (ins 0x7001) = true) ∧
    (lone (passIns 0 2) = true ∧ (passIns 0 2).code.flag 3 = false ∧ lone (passIns 8 2) = true ∧
      (passIns 8 2).code.flag 3 = true ∧ (passIns 8 2).code.imm0 % 4 ≠ 3) ∧
    (lone (updcfgIns 0) = true ∧ updImageOk ((st [updcfgIns 0]).rdBytes 1 0 64) = true ∧
      lone (updcfgIns 32) = true ∧ lone (updcfgIns (hbmTop - 64)) = true ∧ lone (updcfgIns hbmTop) = true) ∧
    lone (ins 0x7003) = true ∧
    (lone (passIns 8 3) = true ∧ (passIns 8 3).code.flag 3 = true ∧ (passIns 8 3).code.imm0 % 4 = 3 ∧
      (passIns 0 2).step.isSome = true ∧ (ins 0x7001).step = none ∧ (ins 0x7001).code.flag 3 = false) ∧
    (let w : Inst := { ins 0x1004 [(0, vec 0 4096 4)] with id := 0 }
     let i : Inst := { ins 0x7000 [(0, vec 0 4096 4)] with phase := .running }
     (st [w, i]).inst 1 = some i ∧ w.id < 1 ∧
      ¬ ∀ x ∈ w.access, x.1 = true → ∀ z ∈ (i.d 0).stor, x.2.overlaps (st [w, i]).masters z = false) ∧
    (let i : Inst := { ins 0x7000 [(0, vec 0 4096 4)] with phase := .running }
     (st [i]).inst 1 = some i ∧ i.released = false ∧
      ∀ j ∈ (st [i]).sch.inflight, j.id < 1 → ∀ x ∈ j.access, x.1 = true → ∀ z ∈ (i.d 0).stor,
        x.2.overlaps (st [i]).masters z = false) := by decide +kernel

theorem witness_CollectiveAndServiceInstructions_service :
    (lone (ins 0x9000) = true ∧ (st [ins 0x9000]).svcTurn (ins 0x9000) = true ∧
      starts (launched (st [ins 0x9000])) 0x9000 1 (ins 0x9000) = true) ∧
    (lone (ins 0x9001) = true ∧ (ins 0x9001).code.flag 3 = false ∧
      svcOperand (vec 0xe 4096 1048576) (ckptBytes 0 0 0) = stOk) ∧
    (lone (ins 0x9002) = true ∧ (st [ins 0x9002]).f F.secStatusDebug ≠ 2 ∧ (st [ins 0x9002]).fb F.secScrubRunning = false ∧
      starts ((st [ins 0x9002]).setF F.secStatusDebug 2) 0x9002 1 (ins 0x9002) = true ∧
      ((st [ins 0x9002]).setF F.secStatusDebug 2).f F.secStatusDebug = 2 ∧
      ((st [ins 0x9002]).setF F.secStatusDebug 2).svcTurn (ins 0x9002) = true) ∧
    (let i := ins 0x9001 [(0, vec 0xe 4096 8)] { flags := 8 }
     lone i = true ∧ (st [i]).svcTurn i = true ∧ i.code.flag 3 = true ∧ svcOperand (i.d 0) (ckptBytes 0 0 0) ≠ stOk) ∧
    (lone (ins 0x9003) = true ∧ (st [ins 0x9003]).svcTurn (ins 0x9003) = true ∧ svcOperand ((ins 0x9003).d 0) 256 ≠ stOk) ∧
    (lone (ins 0x9003 [(0, vec 0xe 4096 256)]) = true ∧ svcOperand (vec 0xe 4096 256) 256 = stOk) := by decide +kernel

/-! ### Witnesses: admission, completion, arbitration and the host's registers -/

/-- The device on its link: booted, and the host may read and write its registers. -/
def up (s : State) : State := linked (s.setF F.devBootReady 1)

/-- The conditions of hostOpen, as a test. -/
def isOpen (s : State) : Bool := s.barReached && decide (s.pst_ ≠ 3) && !s.barClosed

/-- Queue 0 on with 16 slots, a record in its first slot, and RUN. -/
def queueOn (r : Rec) (tail : Nat) : State :=
  ((((up State.reset).setF (F.schQCfgEn 0) 1).setF (F.schQCfgLog2size 0) 4).setF (F.schQPtrTail 0) tail).setF
    F.schCtrlRun 1 |>.wrBytes 1 0 r.bytes

def openChain : State := { st [ins 0x3000] with sch := { (st [ins 0x3000]).sch with queues := [(0, { chain := [1] })] } }

theorem witness_RecordsAreAdmitted :
    (∀ op ∈ [0, 0xfff], (queueOn { opcode := op } 1).mayServe 0 = true ∧
      (queueOn { opcode := op } 1).f (F.schQBase 0) + 32 * (queueOn { opcode := op } 1).f (F.schQPtrHead 0) + 32 ≤ hbmTop ∧
      (queueOn { opcode := op } 1).f (F.schQCfgLog2size 0) ≤ 16) ∧
    (Rec.ofBytes ((queueOn { opcode := 0xfff } 1).rdBytes 1 0 32)).valid = false ∧
    ((openChain.qst 0).chain.head? = some 1 ∧ (openChain.inst 1).isSome = true ∧
      openChain.f (F.schQPtrHead 0) = openChain.f (F.schQPtrTail 0) ∧ openChain.tokenReady (ins 0x3000) = true ∧
      openChain.clearAhead (ins 0x3000) = true) ∧
    State.reset.mayServe 63 = false := by decide +kernel

/-- An ended instruction, and completion queue 0 on with 16 slots. -/
def ended (op flags : Nat) : Inst := { ins op [] { flags := flags } with phase := .done }
def cqOn (i : Inst) : State := ((st [i]).setF (F.schCqCfgEn 0) 1).setF (F.schCqCfgLog2size 0) 4
/-- The completion queue with `n` records held, and one that is full; and CTL.MARK with an operand. -/
def heldCq (n : Nat) : State :=
  { cqOn (ended 0 1) with sch := { (cqOn (ended 0 1)).sch with cqHeld := [(0, List.replicate n [])] } }
def cqFull : State := (cqOn (ended 0 1)).setF (F.schCqPtrHead 0) 1
def markTo : Inst := { ins 5 [(0, vec 0x12 4096 4)] with phase := .done }
def waiting : Inst := ins 0 [] { wait := 5 }
/-- A released bucket whose predecessor is never issued. -/
def stuckIns : Inst := { ins 0x7000 [(0, vec 0 4096 4)] with phase := .running, released := true }
def stuck : State := { st [stuckIns] with col := { buckets := [{ b := 1, id := 1, layer := 0, first := 0, count := 4, grad := vec 0 4096 4 }] } }
def stalled (l : Bool) : State :=
  let s := { st [waiting] with aon := (st []).f F.schStallTimeout }
  if l then launched s else s

theorem witness_InstructionsCompleteAndStall :
    (∀ p ∈ [(0, 0), (0, 1), (5, 1)], (cqOn (ended p.1 p.2)).inst 1 = some (ended p.1 p.2) ∧
      (cqOn (ended p.1 p.2)).settled (ended p.1 p.2) = true ∧ (cqOn (ended p.1 p.2)).held 0 = [] ∧
      (cqOn (ended p.1 p.2)).cqIsFull 0 = false ∧ bitOf ((cqOn (ended p.1 p.2)).f F.cxlCqLoc) 0 = false ∧
      (cqOn (ended p.1 p.2)).f (F.schCqBase 0) + 32 * (cqOn (ended p.1 p.2)).f (F.schCqPtrTail 0) + 32 ≤ hbmTop) ∧
    (∀ l ∈ [true, false], (stalled l).stalledOn = some (waiting, 5) ∧ (stalled l).pass.launched = l ∧
      max (stalled l).sch.lastProgress waiting.since + (stalled l).f F.schStallTimeout ≤ (stalled l).aon ∧
      (stalled l).sch.stallSeen = false) ∧
    (∀ n ∈ [255, 256], let s := heldCq n
      s.inst 1 = some (ended 0 1) ∧ s.settled (ended 0 1) = true ∧ (s.held 0).length = n ∧ (s.held 0).isEmpty = false) ∧
    ((cqFull.held 0).isEmpty = true ∧ cqFull.cqIsFull 0 = true ∧ cqFull.inst 1 = some (ended 0 1)) ∧
    (cqOn markTo).inst 1 = some markTo ∧ markTo.has 0 = true ∧ stuck.stalledOn = some (stuckIns, 0) := by decide +kernel

/-- Disagreements on a grid and on tile 0, whose re-read and pass gave the codes `a` and `b`. -/
def dispute (b : Int) : Dispute := { tile := 0, id := 1, mant := List.replicate 128 0, codes := List.replicate 4 [b] }
def disputed (b : Int) : State := { placed [] layer with
  units := { unsettled := [(.grid, 3, 1)] }
  arr := { (placed [] layer).arr with disputes := [dispute b] } }
def reread (a : Int) : List (List Int) := List.replicate 4 [a]
def inRun (k : Nat) : Inst := { grdFwdIns with phase := .running, items := 2, work := 2, again := k }
/-- A producer whose next post is held, with `n` posts in the queue, and the consumer that awaits it. -/
def poster : Inst := { grdFwdIns with phase := .done, tiles := 1, made := [0], held := true }
def awaiting (n : Nat) : State := { st [poster, { ins 0x3000 with id := 2, producer := some 1 }] with
  units := { ftq := List.replicate n (9, 0) } }

theorem witness_ChecksAndPostsComplete :
    (disputed 0).disagrees .grid 3 1 = true ∧
    (∀ b ∈ [0, 4], (disputed b).arr.disputes.find? (fun d => d.tile == 0) = some (dispute b) ∧
      (disputed b).layer 0 = some layer ∧ ((disputed b).tile 0).state = 1 ∧ ((disputed b).tile 0).layer = 0 ∧
      (disputed b).rereadAgrees layer ((disputed b).tile 0) (dispute b) (reread 3) (reread 3) = true ∧
      (disputed b).rereadAgrees layer ((disputed b).tile 0) (dispute b) (reread 3) (reread 4) = false ∧
      (disputed b).rereadAgrees layer ((disputed b).tile 0) (dispute b) (reread 4) (reread 3) = false ∧
      (disputed b).originalAgrees layer ((disputed b).tile 0) (dispute b) = decide (b = 0)) ∧
    (∀ k ∈ [0, 1], (st [inRun k]).inst 1 = some (inRun k) ∧ unitOf 0x2fff = none ∧ unitOf 0x319c = none) ∧
    (starts (rowState 0x6000) 0x6000 1 (rowIns 0x6000) = true ∧ (rowIns 0x6000).code.iclass = 6) ∧
    ((awaiting 4095).sch.inflight.find? (fun i => i.held && (decide ((awaiting 4095).units.ftq.length < 4096) ||
        !(awaiting 4095).awaited i.id)) = some poster ∧ (awaiting 4095).inst 1 = some poster ∧
      poster.made.length = poster.posted + 1 ∧ (awaiting 4095).awaited 1 = true) := by decide +kernel

def belled (head tail : Nat) : State := ((queueOn {} tail).setF (F.schQPtrHead 0) head).setF F.pwrStatusMoving 0

theorem witness_DoorbellsMoveTail :
    (isOpen (belled 0 0) = true ∧ (belled 0 0).pst_ = 1 ∧ (belled 0 0).fb F.pwrStatusMoving = false ∧
      (belled 0 0).qSize 0 = 16 ∧ (belled 0 0).fb (F.schQCfgEn 0) = true ∧ (belled 0 0).fb (F.schQCfgStep 0) = false ∧
      (0 + 16 - 0) % 16 + (15 + 16 - 0) % 16 ≤ 16 - 1) ∧
    ((belled 5 4).f (F.schQPtrTail 0) = 4 ∧ (4 + 16 - 5) % 16 ≤ 15 ∧ 15 < (4 + 16 - 5) % 16 + (5 + 16 - 4) % 16) ∧
    (belled 0 0).fb (F.schQCfgEn 1) = false ∧ (belled 0 0).qSize 0 ≤ 16 ∧
    (let s := launched ((belled 0 0).setF (F.schQCfgStep 0) 1)
     isOpen s = true ∧ s.fb (F.schQCfgStep 0) = true ∧ s.pass.launched = true) ∧
    (((belled 0 0).setF F.pwrStatusState 3).barReached = true ∧ ((belled 0 0).setF F.pwrStatusState 3).pst_ = 3) := by
  decide +kernel

/-- A completion queue or a submission queue value with EN and a size. -/
def cfgOf (n : Nat) : Nat := 2 ^ 31 + n * 2 ^ 16

theorem witness_QueuesAreConfigured :
    isOpen (up State.reset) = true ∧ (up State.reset).fb (F.schQCfgEn 0) = false ∧ (belled 0 0).fb (F.schQCfgEn 0) = true ∧
    (∀ n ∈ [3, 4, 16, 17], bitOf (cfgOf n) 31 = true ∧ bitsOf (cfgOf n) 16 5 = n ∧ cfgOf n < 2 ^ 32 ∧
      bitsOf (2 ^ 31 + n) 0 5 = n) ∧
    (up State.reset).fb (F.schCqCfgEn 0) = false ∧ (up State.reset).held 0 = [] := by decide +kernel

/-- A loaded job of one rank. -/
def loaded (s : State) : State := { s with load := { loaded := true, params := 16, n := 1, buckets := 4 } }
def running_ (s : State) : State := s.setF F.schCtrlRun 1

theorem witness_RunControlAndSwitches :
    (let s := running_ (loaded (up State.reset))
     isOpen s = true ∧ s.fb F.schCtrlRun = true ∧ s.f F.schLoopState = 0 ∧ s.passState = psIdle ∧ s.pass.launched = false ∧
      s.pass.recover = false ∧ s.oldBody = false ∧ s.resident = false) ∧
    (let s := running_ (loaded (up (st [{ ins 0 with step := some 0 }])))
     s.oldBody = true ∧ isOpen s = true) ∧
    (up State.reset).fb F.schCtrlRun = false ∧
    (let s := (launched (up State.reset)).setF F.schLoopState 1
     isOpen s = true ∧ s.resident = false ∧ s.f F.schLoopState = 1 ∧ s.pass.launched = true) ∧
    (let s := launched (up (placed [] layer))
     isOpen s = true ∧ s.f F.arrLselLayer = 0 ∧ s.layer 0 = some layer) ∧
    (let s := up (placed [] layer)
     isOpen s = true ∧ s.layer 0 = some layer ∧ s.pass.launched = false ∧ (up State.reset).layer 0 = none) ∧
    (let s := (up State.reset).setF F.devReplayStatusState 1
     isOpen s = true ∧ s.resident = true) ∧
    (running_ (up State.reset)).fb F.schCtrlRun = true ∧
    bitsOf 0 32 32 ≤ ((up State.reset).heapFree + (up State.reset).val.hbmQuota * pageBytes) / pageBytes := by
  decide +kernel

/-! ### Witnesses: registers, the program, the loop and ingest -/

theorem hostOpen_of {s : State} (h : isOpen s = true) : s.hostOpen := by
  simp only [isOpen, Bool.and_eq_true, decide_eq_true_eq, Bool.not_eq_true'] at h
  exact ⟨h.1.1, h.1.2, h.2⟩

/-- The device in Deep, and one that has stopped after a fault. -/
def deep : State := (up State.reset).setF F.pwrStatusState 3
def faulted : State := { up State.reset with boot := { (up State.reset).boot with stopped := true } }

theorem witness_RegisterAccesses_reached :
    State.reset.barReached = false ∧ (deep.barReached = true ∧ deep.pst_ = 3) ∧
    (faulted.barReached = true ∧ faulted.pst_ ≠ 3 ∧ faulted.barClosed = true ∧ inSec 0xbfff8 = false ∧
      inSec 0xc0000 = true ∧ inSec 0xcfff8 = true ∧ inSec 0xd0000 = false) := by decide +kernel

theorem witness_RegisterAccesses :
    (isOpen (up State.reset) = true ∧ 0xffff8 < 0x100000 ∧ fieldsAt (0xffff8 / 8 * 8) = none ∧
      fieldsAt (0x10038 / 8 * 8) ≠ none ∧ widthOk 0x10038 4 = true ∧ widthOk 0x1003c 8 = false ∧
      (up State.reset).boot.stopped = false ∧ (1 % 0x1000 : Nat) ≠ 0) ∧
    (plainReg 0x10038 false = true ∧ fieldsAt 0x10038 ≠ none ∧ plainReg 0x20010 true = false ∧
      plainReg 0x20010 false = true ∧ plainReg 0xa0008 false = false) ∧
    (fieldsAt (0xe0018 / 8 * 8) ≠ none ∧ widthOk 0xe0018 8 = true ∧ fieldsAt (0xe7ff8 / 8 * 8) = none) ∧
    (∀ m ∈ [0, 1], let s := (up State.reset).setF F.cxlStatusMode m
      isOpen s = true ∧ s.pcieMode = decide (m = 1)) ∧
    (∀ vec ∈ [0, 2047], let s := { up State.reset with cxl := { (up State.reset).cxl with pba := [vec] } }
      isOpen s = true ∧ vec < 2048 ∧ vec ∈ s.cxl.pba ∧ vec ∉ (up State.reset).cxl.pba) := by decide +kernel

/-- A rank table of `n` ranks at HBM address 4096 with this device as rank 0, and a heap. -/
def tabled (n size : Nat) (s : State) : State :=
  let t := (((s.setF F.schRankTable 4096).setF F.memHeapBase 0x100000).setF F.memHeapSize size).setF F.memSeesawParams 16
  ((t.wrNat 1 4096 4 n).wrNat 1 4112 4 t.myId).setF F.secStatusLifecycle 1
def loadsIn (s : State) : Nat := loadBytes (s.f F.memSeesawParams) s.bucketLimit s.tableN
def good (size : Nat) : State := tabled 1 size (up State.reset)
def fits : State := good (loadsIn (good 0x10000000))
def tooHigh : State := fits.setF F.memHeapBase (hbmProgTop + 0x10000 - fits.f F.memHeapSize)
def tooSmall : State := good (loadsIn (good 0x10000000) - 4096)

theorem witness_ProgramLoadsOrRefuses_high :
    isOpen tooHigh = true ∧ tooHigh.f F.secStatusLifecycle = 1 ∧ tooHigh.resident = false ∧ tooHigh.tableOk = true ∧
      tooHigh.ownRanks = [0] ∧ hbmProgTop < tooHigh.f F.memHeapBase + tooHigh.f F.memHeapSize := by decide +kernel

theorem witness_ProgramLoadsOrRefuses :
    (isOpen fits = true ∧ fits.f F.secStatusLifecycle = 1 ∧ fits.resident = false ∧
      fits.tableOk = true ∧ fits.ownRanks = [0] ∧ fits.f F.memHeapBase + fits.f F.memHeapSize ≤ hbmProgTop ∧
      loadsIn fits ≤ fits.f F.memHeapSize) ∧
    (∀ lc ∈ [0, 3], let s := fits.setF F.secStatusLifecycle lc
      isOpen s = true ∧ s.f F.secStatusLifecycle = lc) ∧
    (let s := fits.setF F.devReplayStatusState 1
     isOpen s = true ∧ s.f F.secStatusLifecycle = 1 ∧ s.resident = true) ∧
    (let s := fits.wrNat 1 4096 4 3
     isOpen s = true ∧ s.resident = false ∧ s.tableOk = false) ∧
    (let s := fits.wrNat 1 4112 4 99
     isOpen s = true ∧ s.resident = false ∧ s.tableOk = true ∧ s.ownRanks.length ≠ 1) ∧
    (isOpen tooSmall = true ∧ tooSmall.f F.secStatusLifecycle = 1 ∧
      tooSmall.resident = false ∧ tooSmall.tableOk = true ∧ tooSmall.ownRanks = [0] ∧
      tooSmall.f F.memHeapBase + tooSmall.f F.memHeapSize ≤ hbmProgTop ∧ tooSmall.f F.memHeapSize < loadsIn tooSmall) := by
  refine ⟨?_, ?_, ?_, ?_, ?_, ?_⟩ <;> decide +kernel

/-- A running loop whose settling time is over. -/
def loops : State :=
  let s := (running_ (loaded (up State.reset))).setF F.schLoopState 1
  { s with pup := { s.pup with settled := true, next := .next } }
def full : State := loops.putSlot 1 { state := .present }
def retold : State := { loops with pup := { loops.pup with mine := true, next := .replay } }
def unsettled_ (t : Nat) : State :=
  { State.reset with
    aon := t
    pup := { State.reset.pup with settled := false }
    col := { State.reset.col with settleAt := 100 } }
def starved : State :=
  let s := loops.setF F.schIngestCfgTimeout 0
  { s with aon := 3127, pup := { s.pup with waitFrom := some 1 } }

theorem witness_LoopAdvances :
    (full.mayLaunch = true ∧ full.sec.halted = false ∧ full.pup.swLaunch = false ∧ full.looping = true ∧
      full.pup.settled = true ∧ full.pst_ < 2 ∧ full.pup.next = .next ∧ full.presentSlot = some 1) ∧
    (retold.mayLaunch = true ∧ retold.sec.halted = false ∧ retold.pup.swLaunch = false ∧ retold.looping = true ∧
      retold.pup.settled = true ∧ retold.pst_ < 2 ∧ retold.pup.next = .replay ∧ retold.pup.mine = true) ∧
    (loops.mayLaunch = true ∧ loops.sec.halted = false ∧ loops.pup.swLaunch = false ∧ loops.looping = true ∧
      loops.pup.settled = true ∧ loops.pst_ < 2 ∧ loops.pup.next = .next ∧ loops.presentSlot = none) ∧
    (let s := full.modPup (fun p => { p with next := .replay })
     s.mayLaunch = true ∧ s.looping = true ∧ s.pup.settled = true ∧ s.pst_ < 2 ∧ s.pup.mine = false ∧
       s.presentSlot = some 1) ∧
    (let s := loops.modPup (fun p => { p with swLaunch := true })
     s.mayLaunch = true ∧ s.sec.halted = false ∧ s.pup.swLaunch = true) ∧
    State.reset.mayLaunch = false ∧
    ((unsettled_ 100).pup.settled = false ∧ (unsettled_ 100).col.settleAt ≤ (unsettled_ 100).aon) ∧
    ((unsettled_ 99).aon < (unsettled_ 99).col.settleAt) ∧
    (starved.pup.waitFrom = some 1 ∧ starved.pup.stallSeen = false ∧ starved.pup.next = .next ∧
      starved.pup.settled = true ∧ starved.presentSlot = none ∧ starved.looping = true ∧
      starved.f F.schIngestCfgTimeout = 0 ∧ 1 + max 1 0 * 3125 < starved.aon) := by
  refine ⟨?_, ?_, ?_, ?_, ?_, ?_, ?_, ?_, ?_⟩ <;> decide +kernel

/-- The host's ring at address 4096 with one entry. -/
def ring (addr len : Nat) : State :=
  let s := (loops.setF F.schIngestBase 4096).setF F.schBatchSize 4096
  let s := ((s.wrNat 2 4096 8 1).wrNat 2 4160 8 addr).wrNat 2 4168 4 len
  s.modPup (fun p => { p with prod := 1 })
def filling : State := (ring 8192 128).putSlot 0 { state := .filling, addr := 8192, length := 128 }
def beyond : State := (ring 8192 128).putSlot 0 { state := .filling, addr := hostTop - 64, length := 128 }

theorem witness_IngestReadsTheRing :
    (let s := (ring 8192 128).modPup (fun p => { p with prod := 0 })
     s.ingests = true ∧ s.freeSlot = some 0 ∧ s.pup.prod ≤ s.cursor ∧ s.pup.polled ≤ s.aon ∧
       s.f F.schIngestBase + 8 ≤ hostTop) ∧
    (let s := ring 8192 (4096 - 64)
     s.ingests = true ∧ s.freeSlot = some 0 ∧ s.cursor < s.pup.prod ∧ s.entryAddr s.cursor + 64 ≤ hostTop ∧
       s.rdNat 2 (s.entryAddr s.cursor + 8) 4 = 4096 - 64 ∧ s.f F.schBatchSize = 4096 ∧
       s.rdNat 2 (s.entryAddr s.cursor) 8 % 64 = 0) ∧
    (∀ x ∈ [(8192, 0), (8192, 4096 - 63), (8193, 128)], let s := ring x.1 x.2
     s.ingests = true ∧ s.freeSlot = some 0 ∧ s.cursor < s.pup.prod ∧ s.entryAddr s.cursor + 64 ≤ hostTop ∧
       s.rdNat 2 (s.entryAddr s.cursor) 8 = x.1 ∧ s.rdNat 2 (s.entryAddr s.cursor + 8) 4 = x.2) ∧
    (filling.ingests = true ∧ [0, 1].find? (fun k => (filling.batchSlot k).state == .filling) = some 0 ∧
      (filling.batchSlot 0).addr + (filling.batchSlot 0).length ≤ hostTop) ∧
    (beyond.ingests = true ∧ [0, 1].find? (fun k => (beyond.batchSlot k).state == .filling) = some 0 ∧
      hostTop < (beyond.batchSlot 0).addr + (beyond.batchSlot 0).length) := by
  refine ⟨?_, ?_, ?_, ?_, ?_⟩ <;> decide +kernel

/-! ### Witnesses: service commands -/

/-- A command block at HBM address 4096, and a write of SCH.SVC_CMD that names it. -/
def svc (k arg0 arg1 : Nat) (s : State) : State := ((s.wrNat 1 4096 2 k).wrNat 1 4104 8 arg0).wrNat 1 4112 8 arg1
def begun (s : State) : State := s.beginCmd 4096
def cmdOf (s : State) : SvcCmd := (begun s).pup.cmd.getD { cmd := 0, space := 0, addr := 0, tag := 0, arg0 := 0, arg1 := 0 }

/-- The conditions of cmdBegins and takesCmd, as tests. -/
def begins (s : State) (k : Nat) : Bool :=
  isOpen s && !s.fb F.schSvcStatusBusy && s.svcReadable 4096 && s.svcCode 4096 == k && (begun s).pup.cmd.isSome
def takes (s : State) (k : Nat) : Bool :=
  begins s k && s.passState != psFrozen && s.passState != psRestore && !s.resident

theorem cmdBegins_of {s : State} {k : Nat} (h : begins s k = true) : s.cmdBegins 4096 k (cmdOf s) := by
  simp only [begins, Bool.and_eq_true, Bool.not_eq_true', beq_iff_eq] at h
  obtain ⟨⟨⟨⟨a, b⟩, c⟩, d⟩, i⟩ := h
  refine ⟨hostOpen_of a, b, c, d, ?_⟩
  obtain ⟨x, hx⟩ := Option.isSome_iff_exists.1 i
  simp only [begun] at hx
  simp [cmdOf, begun, hx]

theorem takesCmd_of {s : State} {k : Nat} (h : takes s k = true) : s.takesCmd 4096 k (cmdOf s) := by
  simp only [takes, Bool.and_eq_true, Bool.not_eq_true', bne_iff_ne] at h
  refine ⟨cmdBegins_of h.1.1.1, fun hr => ?_⟩
  simp_all [State.refusesCmd]

def halted_ : State := running_ (loaded (up State.reset))
def stopped : State := (loaded (up State.reset)).setF F.schLoopState 3

theorem witness_LoopAndMailboxCommands_loop :
    (∀ a ∈ [0, 1, 0xffffffff], let s := svc 1 a 0 halted_
     takes s 1 = true ∧ (begun s).f F.schLoopState = 0 ∧ (begun s).fb F.schCtrlRun = true ∧ (begun s).load.loaded = true ∧
       (begun s).f F.secStatusDebug ≠ 2 ∧ (cmdOf s).arg0 = a ∧ (begun s).c = 0) ∧
    (let s := svc 1 0 0 loops
     takes s 1 = true ∧ (begun s).f F.schLoopState ≠ 0) ∧
    (let s := (svc 1 5 0 halted_).setF F.colCountersStep 5
     takes s 1 = true ∧ (begun s).f F.schLoopState = 0 ∧ (begun s).fb F.schCtrlRun = true ∧ (begun s).load.loaded = true ∧
       (begun s).f F.secStatusDebug ≠ 2 ∧ (cmdOf s).arg0 = 5 ∧ (begun s).c = 5) ∧
    (let s := svc 2 0 0 (launched loops)
     takes s 2 = true ∧ (begun s).looping = true ∧ (begun s).pass.launched = true) ∧
    (let s := svc 2 0 0 loops
     takes s 2 = true ∧ (begun s).looping = true ∧ (begun s).pass.launched = false ∧ (begun s).pass.recover = false ∧
       (begun s).pup.next ≠ .replay ∧ (cmdOf s).cmd = 2) ∧
    (let s := svc 2 0 0 halted_
     takes s 2 = true ∧ (begun s).looping = false) ∧
    (let s := svc 3 1 0 stopped
     takes s 3 = true ∧ (begun s).f F.schLoopState = 3 ∧ (begun s).isActive = true ∧ (begun s).f F.secStatusDebug ≠ 2 ∧
       (cmdOf s).arg0 = 1) ∧
    (∀ a ∈ [0, 2], let s := svc 3 a 0 stopped
     takes s 3 = true ∧ (begun s).f F.schLoopState = 3 ∧ (begun s).isActive = true ∧ (cmdOf s).arg0 = a) ∧
    (let s := svc 3 1 0 loops
     takes s 3 = true ∧ (begun s).f F.schLoopState ≠ 3) ∧
    (∀ k ∈ [1, 3, 4, 5, 7], begins (svc k 0 0 (halted_.setPst psFrozen)) k = true ∧
      (svc k 0 0 (halted_.setPst psFrozen)).passState = psFrozen) ∧
    (∀ k ∈ [1, 2, 3, 4, 5, 7], begins (svc k 0 0 (halted_.setF F.devReplayStatusState 1)) k = true ∧
      (svc k 0 0 (halted_.setF F.devReplayStatusState 1)).resident = true) := by
  refine ⟨?_, ?_, ?_, ?_, ?_, ?_, ?_, ?_, ?_, ?_, ?_⟩ <;> decide +kernel

/-- An image without its MAGIC does not verify. -/
theorem badMagic {s : State} {b : List Byte} (h : pieceNat b 0 4 ≠ 0x5453f001) : s.imageFault (imageOf b) true ≠ 0 := by
  have hm : (imageOf b).magic ≠ 0x5453f001 := h
  unfold State.imageFault
  rw [List.map_congr_left (g := fun _ => 1)
    (fun k _ => by simp [State.imageChecks, hm, List.findIdx?_cons])]
  cases s.keyDigests true <;> simp

theorem rdBytes_magic {s : State} {a n : Nat} (h : 4 ≤ n) : pieceNat (s.rdBytes 1 a n) 0 4 = s.rdNat 1 a 4 := by
  simp only [pieceNat, piece, List.drop_zero, State.rdBytes, State.rdNat, ← List.map_take, List.take_range,
    Nat.min_eq_left h]

/-- Chunks of bytes, each with the register after it. -/
def crcRuns : List (List Byte × Nat) → Nat → Bool
  | [], _ => true
  | (l, d) :: r, c => l.foldl crcByte c == d && crcRuns r d

theorem crcRuns_fold : ∀ (r : List (List Byte × Nat)) (c : Nat), crcRuns r c = true →
    (r.flatMap Prod.fst).foldl crcByte c = (r.getLastD ([], c)).2
  | [], _, _ => rfl
  | (l, d) :: r, c, h => by
    simp only [crcRuns, Bool.and_eq_true, beq_iff_eq] at h
    rw [List.flatMap_cons, List.foldl_append, h.1, crcRuns_fold r d h.2]
    cases r <;> rfl

/-- The header of a checkpoint of step 7 of a job of one rank, with one section of a KIND that no check reads; the CRC of it
is worked out by hand. -/
def ckptStart : List Byte :=
  leBytes 4 0x5453c701 ++ leBytes 2 1 ++ leBytes 2 1 ++ leBytes 4 7 ++ leBytes 16 0 ++ leBytes 4 1 ++ leBytes 4 0
def ckptHead : List Byte := ckptStart ++ leBytes 4 0xf4ca4b0 ++ leBytes 216 0
def headChunks : List (List Byte × Nat) :=
  [(ckptStart, 0x81835d1f)] ++ [0xe1ae4e00, 0x4496d1b, 0xd3d68d3d, 0x401188f6, 0x38af7c7c].map (fun d => (leBytes 40 0, d)) ++ [(leBytes 20 0, 0xf0b35b4f)]

theorem ckptHead_crc : crc32c (ckptHead.take 36 ++ leBytes 4 0 ++ ckptHead.drop 40) = 0xf4ca4b0 := by
  have h : ckptHead.take 36 ++ leBytes 4 0 ++ ckptHead.drop 40 = headChunks.flatMap Prod.fst := by decide +kernel
  rw [crc32c, h, crcRuns_fold headChunks _ (by decide +kernel)]
  decide +kernel

/-- A memory of the bytes from an address on. -/
def cells (a : Nat) (b : List Byte) : List Host.Cell := (b.zipIdx.map (fun x => (a + x.2, x.1))).filter (fun c => c.2 != 0)

theorem ckptOk_of {s : State} {space a : Nat} {step : Option Nat} (h : s.rdBytes space a 256 = ckptHead)
    (hs : (s.hdr space a 0 4 == 0x5453c701 && s.hdr space a 4 2 == 1 && s.hdr space a 6 2 == 1 &&
      s.hdr space a 36 4 == 0xf4ca4b0 && s.sectionsOk space a && (step.all (fun g => s.hdr space a 8 4 == g))) = true) :
    s.ckptOk space a step = true := by
  simp only [Bool.and_eq_true, beq_iff_eq] at hs
  obtain ⟨⟨⟨⟨⟨h0, h1⟩, h2⟩, h3⟩, h4⟩, h5⟩ := hs
  have hc := ckptHead_crc
  simp only [State.ckptOk, State.headerOk, h, h0, h1, h2, h3, h4, hc]
  cases step <;> simp_all

/-- A command block in host memory while the host does not answer. -/
def hostless : State := { halted_ with cxl := { halted_.cxl with bme := false } }

def hostCopy : State := svc 4 8192 0 { halted_ with host := cells 8192 ckptHead }

theorem hostCopy_ok : (begun hostCopy).ckptOk 2 8192 none = true := ckptOk_of (by decide +kernel) (by decide +kernel)

theorem witness_LoopAndMailboxCommands_mailbox :
    (takes hostCopy 4 = true ∧ (begun hostCopy).looping = false ∧ (begun hostCopy).hostReady = true ∧
      (cmdOf hostCopy).arg0 = 8192 ∧ (begun hostCopy).load.loaded = true ∧
      (begun hostCopy).hdr 2 8192 24 2 = (begun hostCopy).f F.schRankRank ∧
      (begun hostCopy).hdr 2 8192 28 4 = (begun hostCopy).n) ∧
    (begun hostCopy).ckptOk 2 8192 none = true ∧
    (let s := svc 4 8192 0 halted_
     takes s 4 = true ∧ (begun s).looping = false ∧ (begun s).hostReady = true ∧ (cmdOf s).arg0 = 8192 ∧
       (begun s).ckptOk 2 8192 none = false) ∧
    takes (svc 5 0 0 halted_) 5 = true ∧
    (∀ n ∈ [5632, 5632 + 0x4000000], let s := svc 6 8192 n halted_
     takes s 6 = true ∧ (begun s).boot.update = false ∧ (cmdOf s).space = 1 ∧ (cmdOf s).arg1 = n ∧
       (cmdOf s).arg0 + n ≤ hbmTop) ∧
    (let s := svc 6 8192 5632 halted_
     (begun s).imageFault (imageOf ((begun s).rdBytes 1 8192 5632)) true ≠ 0) ∧
    (let s := svc 7 0 0 (halted_.setF F.schSvcStatusStaged 1)
     takes s 7 = true ∧ (begun s).looping = false ∧ (begun s).fb F.schSvcStatusStaged = true) ∧
    (let s := svc 7 0 0 halted_
     takes s 7 = true ∧ (begun s).fb F.schSvcStatusStaged = false) ∧
    (∀ k ∈ [0, 8, 0xffff], takes (svc k 0 0 halted_) k = true) ∧
    (let s := halted_.setF F.schSvcStatusBusy 1
     isOpen s = true ∧ s.fb F.schSvcStatusBusy = true) ∧
    (isOpen halted_ = true ∧ halted_.fb F.schSvcStatusBusy = false ∧ ∃ v, hostless.svcReadable v = false) ∧
    (let s := { svc 4 8192 0 halted_ with cxl := { halted_.cxl with bme := false } }
     takes s 4 = true ∧ (begun s).looping = false ∧ (begun s).hostReady = false) ∧
    (takes (svc 4 8192 0 loops) 4 = true ∧ (begun (svc 4 8192 0 loops)).looping = true) ∧
    (let s := { svc 6 8192 5632 halted_ with boot := { halted_.boot with update := true } }
     takes s 6 = true ∧ (begun s).boot.update = true) := by
  refine ⟨?_, hostCopy_ok, ?_, ?_, ?_, badMagic ?_, ?_, ?_, ?_, ?_, ?_, ?_, ?_, ?_⟩
  case refine_5 => rw [rdBytes_magic (by decide)]; decide +kernel
  · decide +kernel
  · decide +kernel
  · decide +kernel
  · decide +kernel
  · decide +kernel
  · decide +kernel
  · decide +kernel
  · decide +kernel
  · exact ⟨by decide +kernel, by decide +kernel, 2 ^ 63, by decide +kernel⟩
  · decide +kernel
  · decide +kernel
  · decide +kernel

/-! ### Witnesses: the control tree -/

/-- Rank `r` of a loaded job of `n` ranks, whose rank table lies at HBM address 4096. -/
def job (n r : Nat) (s : State) : State :=
  { (s.setF F.schRankTable 4096).setF F.schRankRank r with
    load := { loaded := true, params := 16, n := n, buckets := 4 } }

/-- Rank 1 of four, whose parent is rank 0 and whose child is rank 3. -/
def mid : State := job 4 1 State.reset

/-- It runs a step whose COL.PASS has been dispatched, and its child has sent READY. -/
def readyWith (m : CtlMsg) : State :=
  (mid.setPst psRun).modPass (fun p => { p with launched := true, passId := some 9, readies := [(3, m)] })
def goodReady : CtlMsg := { type := 1, step := 1, bcstep := 1 }
def failing : State :=
  (mid.setPst psReady).modPass (fun p => { p with launched := true, fail := some (rsnNonfinite, 5) })

def restored (c : Option SvcCmd) : State :=
  let s := (mid.setPst psRestore).modPass (fun p => { p with recover := true, stage := 2, target := 7 })
  s.modPup (fun p => { p with cmd := c })
def restoreCmd : SvcCmd := { cmd := 4, space := 2, addr := 4096, tag := 0, arg0 := 8192, arg1 := 0, step := some 7 }

theorem witness_ReadyFailAndAnswers_up :
    (let s := readyWith goodReady
     s.readyDue = true ∧ (∀ y ∈ s.pass.readies.map (fun x => x.2), y.version = s.version ∧ y.step = s.stepNow ∧
       y.bcstep = s.bcNow) ∧ s.parent = some 0) ∧
    (let s := readyWith { goodReady with version := 1 }
     s.readyDue = true ∧ ∃ y ∈ s.pass.readies.map (fun x => x.2), y.version ≠ s.version) ∧
    (∀ m ∈ [{ goodReady with step := 2 }, { goodReady with bcstep := 0 }], let s := readyWith m
     s.readyDue = true ∧ (∀ y ∈ s.pass.readies.map (fun x => x.2), y.version = s.version) ∧
       ∃ y ∈ s.pass.readies.map (fun x => x.2), y.step ≠ s.stepNow ∨ y.bcstep ≠ s.bcNow) ∧
    (goodReady.type = 1 ∧ 3 ∈ failing.children ∧ failing.takesReady = true ∧ failing.isRoot = false) ∧
    (failing.pass.fail = some (rsnNonfinite, 5) ∧ failing.pass.failSent = false ∧ failing.parent = some 0 ∧
      failing.takesReady = true ∧ failing.pass.fails = []) ∧
    (3 ≠ failing.me ∧ 3 ∈ failing.children) ∧
    (let s : State := { readyWith goodReady with poison := [(1, 64, none)] }
     s.readyDue = true ∧ s.tablePoisoned = true ∧ (readyWith goodReady).tablePoisoned = false) ∧
    (mid.readyDue = false ∧ mid.pass.fail = none ∧ 2 ∉ mid.children) ∧
    ((restored none).takesReady = false ∧ (restored none).takesState = true ∧ 3 ∈ (restored none).children) ∧
    (let s := job 4 0 State.reset
     s.parent = none ∧ 1 ∈ s.children ∧ 1 ≠ s.me ∧ s.takesReady = true) := by
  refine ⟨?_, ?_, ?_, ?_, ?_, ?_, ?_, ?_, ?_, ?_⟩ <;> decide +kernel

def recovering : State := (mid.setPst psRecover).modPass (fun p => { p with recover := true })

/-- The root, which recovers and has given an answer. -/
def answered (m : CtlMsg) : State := (job 4 0 State.reset).modPass (fun p => { p with answer := some m, recover := true })

theorem witness_ReadyFailAndAnswers_down :
    (let s := mid.setPst psReady
     s.isActive = true ∧ s.isRoot = false ∧ s.load.loaded = true ∧ s.passState = psReady ∧ s.pass.table = none ∧
       s.passState ≠ psStopped ∧ s.pass.recover = false) ∧
    (let s := mid.setPst psRun
     s.isActive = true ∧ s.isRoot = false ∧ s.passState ≠ psReady) ∧
    (let s := mid.setPst psStopped
     s.isActive = true ∧ s.isRoot = false ∧ s.passState = psStopped) ∧
    (recovering.isActive = true ∧ recovering.isRoot = false ∧ recovering.pass.recover = true) ∧
    (∀ m ∈ [{ type := 3 }, { type := 4, policy := 2 }, { type := 6 }], let s := answered m
     s.isActive = true ∧ s.isRoot = true ∧ s.pass.answer = some m ∧ s.load.loaded = true ∧ s.passState ≠ psStopped ∧
       s.pass.recover = true) ∧
    (let s := job 4 0 State.reset
     s.isRoot = true ∧ s.pass.answer ≠ some {} ∧ s.isActive = true ∧ s.pass.recover = false) ∧
    (let s := job 4 5 State.reset
     s.load.loaded = true ∧ s.isActive = false) := by
  refine ⟨?_, ?_, ?_, ?_, ?_, ?_, ?_⟩ <;> decide +kernel

theorem witness_RecoveryRuns_rollback :
    (3 ∈ mid.children ∧ mid.pass.recover = false) ∧
    (recovering.isActive = true ∧ recovering.pass.recover = true ∧ recovering.passState ≠ psRestore ∧
      recovering.isRoot = false) ∧
    ((restored none).passState = psRestore ∧ (restored none).pass.stage = 2 ∧ (restored none).reprogramming = false ∧
      (restored none).restoring = none) ∧
    ((restored (some restoreCmd)).passState = psRestore ∧ (restored (some restoreCmd)).pass.stage = 2 ∧
      (restored (some restoreCmd)).reprogramming = false ∧ (restored (some restoreCmd)).restoring = some 7) ∧
    (let s : State := { mid with arr := { tiles := [(0, { batch := some { kind := .program, rows := [0] } })] } }
     s.reprogramming = true) ∧
    (∀ m ∈ [{ type := 7 }, { type := 7, step := 5 }], let s := answered { type := 7 }
     m.type = 7 ∧ s.isActive = true ∧ s.pass.recover = true ∧ s.passState ≠ psRestore ∧ s.isRoot = true ∧
       (s.pass.answer = some m ↔ m.step = 0)) := by
  refine ⟨?_, ?_, ?_, ?_, ?_, ?_⟩ <;> decide +kernel

/-- The same rank at a later tick, with a neighbour that it has heard. -/
def later (t : Nat) : State := { mid.modPass (fun p => { p with heard := [(3, 10)] }) with aon := t }
def noteSeen : State := mid.modPass (fun p => { p with noted := [(2, 0)] })
def leaderNote : State := mid.modPass (fun p => { p with tko := { p.tko with version := 5, proposal := some { type := 10 } } })

theorem witness_RecoveryRuns_failures :
    ((later 200).load.loaded = true ∧ (later 200).pass.beat + 200 ≤ (later 200).aon ∧
      (later 199).aon < (later 199).pass.beat + 200) ∧
    (3 ∈ (later 0).neighbours) ∧
    (3 ∈ (later 617).neighbours ∧ (mget 3 (later 617).pass.heard).getD 0 + 607 = (later 617).aon ∧
      (3, (later 617).version) ∉ (later 617).pass.noted ∧ (later 617).passState ≠ psStopped) ∧
    ((2, 0) ∈ noteSeen.pass.noted ∧ (2, 1) ∉ noteSeen.pass.noted ∧ noteSeen.load.loaded = true) ∧
    (leaderNote.load.loaded = true ∧ 3 ≠ leaderNote.f F.schRankRank ∧
      max leaderNote.version leaderNote.pass.tko.version < 6 ∧ 5 ≤ max leaderNote.version leaderNote.pass.tko.version ∧
      leaderNote.pass.tko.proposal = some { type := 10 }) ∧
    (mid.pass.tko.proposal = none ∧ 2 ∉ mid.neighbours ∧ (later 616).aon < (mget 3 (later 616).pass.heard).getD 0 + 607) ∧
    (let s : State := { (later 617).modPass (fun p => { p with noted := [(3, 0)] }) with aon := 617 }
     s.load.loaded = true ∧ 3 ∈ s.neighbours ∧ (3, s.version) ∈ s.pass.noted) := by
  refine ⟨?_, ?_, ?_, ?_, ?_, ?_, ?_⟩ <;> decide +kernel

/-! ### Witnesses: digests, checkpoints and joins -/

/-- A checkpoint of step 7 in area 0, whose comparison was clean. -/
def ckptJob : CkptJob := { step := 7, area := 0, ids := [1], clean := true }
def withJob (s : State) : State := (s.setF F.colCkptBase 8192).setCkpts [ckptJob]
def dueOf (s : State) : Option CkptJob :=
  s.pass.ckpts.find? (fun j => j.clean && !s.buddyOut j.area && (j.host.isNone || s.hostReady))
def keptOf (s : State) : State := (s.lateHostCopy ckptJob).setCkpts (s.pass.ckpts.filter (fun x => x != ckptJob))
def goodArea : State := withJob { mid with hbm := cells 8192 ckptHead }

theorem goodArea_ok : (keptOf goodArea).ckptOk 1 ((keptOf goodArea).areaAddr 0) (some 7) = true :=
  ckptOk_of (by decide +kernel) (by decide +kernel)

theorem witness_DigestsCheckpointsAndJoins_digests :
    (let s := mid.modPass (fun p => { p with digs := [{ step := 200 }] })
     s.pass.digs = [{ step := 200 }] ∧ s.isRoot = false ∧ s.digestPoisoned = false) ∧
    (mid.isRoot = false ∧ 3 ∈ mid.children) ∧
    (dueOf goodArea = some ckptJob ∧ ckptJob.cmd = false ∧ (keptOf goodArea).areaPoisoned 0 = false) ∧
    (keptOf goodArea).ckptOk 1 ((keptOf goodArea).areaAddr 0) (some 7) = true ∧
    (dueOf (withJob mid) = some ckptJob ∧
      (keptOf (withJob mid)).ckptOk 1 ((keptOf (withJob mid)).areaAddr 0) (some 7) = false) ∧
    (dueOf mid = none ∧ mid.pass.digs = [] ∧ 2 ∉ mid.children) ∧
    (let s := (job 4 0 State.reset).modPass (fun p => { p with digs := [{ step := 200 }] })
     s.pass.digs = [{ step := 200 }] ∧ s.isRoot = true ∧ s.digestPoisoned = false) ∧
    (let s := mid.modPass (fun p => { p with digs := [{ step := 200, root := some [1, 2, 3, 4] }] })
     s.pass.digs = [{ step := 200, root := some [1, 2, 3, 4] }] ∧ s.digestPoisoned = false) := by
  refine ⟨?_, ?_, ?_, goodArea_ok, ?_, ?_, ?_, ?_⟩ <;> decide +kernel

/-- Rank 0 of four with one spare entry that is VACANT, at index 4 of a table whose other entries are ACTIVE. -/
def root : State := ((job 4 0 State.reset).wrNat 1 4100 2 1).wrNat 1 (4096 + 16 + 16 * 4 + 4) 1 3
def joinMsg (fabric tag : Nat) : CtlMsg := { type := 13, detail := fabric, digest := [tag, 0, 0, 0] }

/-- Port 11 active and with credits. -/
def port : State := State.reset.setF (F.fabPStatusState 11) pActive |>.putPort 11 { credit := [4, 4, 4], grant := [16, 512, 256] }

/-- The leader while a takeover waits for a spare, and entry 4 is a FAILED spare of device 77 and tag 5. -/
def waitsSpare : State :=
  let s := (((root.wrNat 1 (4096 + 16 + 16 * 4) 4 77).wrNat 1 (4096 + 16 + 16 * 4 + 4) 1 2).wrNat 1 (4096 + 16 + 16 * 4 + 8) 8 5)
  s.modPass (fun p => { p with tko := { p.tko with waits := true } })
def spareOf (s : State) : Option Nat := s.allRanks.find? (fun r => decide (s.n ≤ r) && s.rankFabric r == 77 &&
  s.rankTag r == 5 && s.rankState r == 2)

theorem witness_DigestsCheckpointsAndJoins_joins :
    (root.load.loaded = true ∧ root.leads = true ∧ root.pass.tko.waits = false ∧
      root.vacant.find? (fun r => !root.pass.joins.any (fun j => j.2.2 == r)) = some 4 ∧
      root.allRanks.find? (fun r => root.rankFabric r == 77 && root.rankState r != 3) = none) ∧
    (let s := root.wrNat 1 (4096 + 16 + 16 * 2) 4 77
     s.load.loaded = true ∧ s.leads = true ∧
       s.allRanks.find? (fun r => s.rankFabric r == 77 && s.rankState r != 3) = some 2 ∧ s.rankTag 2 ≠ 5) ∧
    (mid.load.loaded = true ∧ mid.leads = false ∧ 3 ≠ mid.f F.schRankRank ∧ mid.leader = some 0) ∧
    (mid.isActive = true ∧ mid.isRoot = false) ∧
    (let s := job 4 5 State.reset
     s.load.loaded = true ∧ s.isActive = false) ∧
    (let s := root.modPass (fun p => { p with joins := [(9, 9, 4)] })
     s.leads = true ∧ s.vacant.find? (fun r => !s.pass.joins.any (fun j => j.2.2 == r)) = none) ∧
    (let s := waitsSpare
     s.load.loaded = true ∧ s.leads = true ∧ s.pass.tko.waits = true ∧ spareOf s = some 4 ∧
       s.allRanks.find? (fun r => s.rankFabric r == 77 && s.rankState r != 3) = some 4 ∧ s.rankTag 4 = 5) ∧
    (let s := job 4 5 port
     s.load.loaded = true ∧ s.leads = false ∧ s.f F.schRankRank = 5 ∧ allPorts.find? s.portUp = some 11 ∧ s.isActive = false) ∧
    (let s := job 4 0 State.reset
     s.load.loaded = true ∧ s.isActive = true ∧ s.isRoot = true) := by
  refine ⟨?_, ?_, ?_, ?_, ?_, ?_, ?_, ?_, ?_⟩ <;> decide +kernel

/-! ### Witnesses: buckets and the reduction -/

/-- Bucket `b` of one group of `count` elements. -/
def bkt (b count : Nat) : Bucket := { b := b, id := 1, layer := 0, first := 0, count := count, grad := vec 0 65536 count }
def entered (b count : Nat) : Bucket := { bkt b count with entered := true, eb := 100 }
def redIns : Inst := { ins 0x7000 [(0, vec 0 65536 4)] { imm2 := 4 * 2 ^ 32 } with phase := .running, released := true }
def buckets (n r : Nat) (l : List Bucket) (i : Inst := redIns) : State :=
  let s := (job n r (st [i])).setF F.colHistBase 8192
  { s with col := { s.col with buckets := l }, pass := { s.pass with launched := true } }

def upBlock (ov : Bool) : RedBlock := { kind := 2, ov := ov, eb := 100, bucket := 0, step := 1, first := 0, body := [1, 2] }
def holding (ov : Bool) : Bucket := { entered 0 2 with blocks := [(1, upBlock ov), (2, upBlock false)] }

/-- A history word with VALID and the peak `p`. -/
def withPeak (p : Nat) (s : State) : State := s.wrNat 1 8192 4 (2 ^ 31 + p)

theorem witness_BucketsEnterAndSend :
    (∀ p ∈ [1, 255], let s := withPeak p (buckets 4 0 [bkt 0 2])
     s.bucket s.col.next = some (bkt 0 2) ∧ s.inst (bkt 0 2).id = some redIns ∧ redIns.released = true ∧
       (bkt 0 2).entered = false ∧ s.inInterface < 64 ∧ s.col.settleAt ≤ s.aon ∧ s.col.probeAll = false ∧
       s.peakOf 0 = some p ∧ p ≠ 0 ∧ s.col.early = [] ∧ s.poison = []) ∧
    (let i := { redIns with released := false }
     let s := buckets 4 0 [bkt 0 2] i
     s.bucket s.col.next = some (bkt 0 2) ∧ s.inst (bkt 0 2).id = some i ∧ i.released = false) ∧
    (∀ count ∈ [1, 144], let s := buckets 4 3 [entered 0 count]
     s.bucket 0 = some (entered 0 count) ∧ (entered 0 count).entered = true ∧ (entered 0 count).probing = false ∧
       (entered 0 count).sent < (entered 0 count).groups ∧ s.groupHere (entered 0 count) 0 = true ∧
       s.parentIn 0 = some 1 ∧ (s.childrenIn 0).isEmpty = true) ∧
    (let x := { entered 0 2 with blocks := [(3, upBlock false)] }
     let s := buckets 4 1 [x]
     s.bucket 0 = some x ∧ s.groupHere x 0 = true ∧ s.parentIn 0 = some 0 ∧ (s.childrenIn 0).isEmpty = false ∧
       x.entered = true ∧ x.probing = false ∧ x.sent < x.groups) ∧
    (∀ ov ∈ [false, true], let s := buckets 4 0 [holding ov]
     s.bucket 0 = some (holding ov) ∧ (holding ov).entered = true ∧ (holding ov).probing = false ∧
       (holding ov).sent < (holding ov).groups ∧ s.groupHere (holding ov) 0 = true ∧ s.parentIn 0 = none ∧
       (s.groupSum (holding ov) 0).ov = ov ∧ (holding ov).mayRetry = true) ∧
    (let x := { holding true with eb := 0xfe }
     let s := buckets 4 0 [x]
     s.bucket 0 = some x ∧ s.parentIn 0 = none ∧ x.mayRetry = false ∧ s.groupHere x 0 = true) ∧
    (let s : State := { buckets 4 0 [bkt 0 2] with aon := 5 }
     let t : State := { s with col := { s.col with settleAt := 6 } }
     t.bucket t.col.next = some (bkt 0 2) ∧ t.inst 1 = some redIns ∧ t.aon < t.col.settleAt) ∧
    (let l := (List.range 64).map (fun b => entered b 2) ++ [bkt 64 2]
     let s := buckets 4 0 l
     let t : State := { s with col := { s.col with next := 64 } }
     t.bucket t.col.next = some (bkt 64 2) ∧ 64 ≤ t.inInterface) ∧
    (let s := buckets 4 0 [entered 0 2]
     s.bucket 0 = some (entered 0 2) ∧ s.groupHere (entered 0 2) 0 = false) := by
  refine ⟨?_, ?_, ?_, ?_, ?_, ?_, ?_, ?_, ?_⟩ <;> decide +kernel

/-- The owner of a bucket of two groups, of which one waits for the update. -/
def owned : Bucket := { entered 0 145 with sent := 1 }

theorem witness_OwnersUpdateGroups :
    (buckets 4 0 [owned]).bucket 0 = some owned ∧ (buckets 4 0 [owned]).owns 0 = true ∧ owned.done < owned.sent ∧
    owned.done + 1 < owned.groups ∧ ((buckets 4 0 [owned]).upd owned.layer).rule = 0 ∧
    (buckets 4 0 [owned]).updatePoisoned owned 0 144 = false ∧
    (let x := { owned with done := 1, sent := 2 }
     (buckets 4 0 [x]).bucket 0 = some x ∧ x.done < x.sent ∧ x.groups ≤ x.done + 1 ∧
       (buckets 4 0 [x]).updatePoisoned x 144 1 = false) ∧
    (let s : State := { buckets 4 0 [owned] with poison := [(1, (buckets 4 0 [owned]).updAddr 0 / 64, none)] }
     s.bucket 0 = some owned ∧ s.owns 0 = true ∧ s.updatePoisoned owned 0 144 = true) ∧
    (buckets 4 1 [owned]).owns 0 = false ∧
    (let x := { owned with done := 1 }
     (buckets 4 0 [x]).bucket 0 = some x ∧ x.sent ≤ x.done) := by decide +kernel

/-- The bucket that takes an arriving block, and the test that it does not fit its bucket. -/
def arrives (s : State) (k : RedBlock) : Option Bucket := match s.arrival k with
  | .good x => some x
  | _ => none
def mismatches (s : State) (k : RedBlock) : Bool := match s.arrival k with
  | .mismatch => true
  | _ => false

theorem arrival_of {s : State} {k : RedBlock} {x : Bucket} (h : arrives s k = some x) : s.arrival k = .good x := by
  cases e : s.arrival k <;> simp_all [arrives]

theorem mismatch_of {s : State} {k : RedBlock} (h : mismatches s k = true) : s.arrival k = .mismatch := by
  cases e : s.arrival k <;> simp_all [mismatches]

def blockOf (kind : Nat) : RedBlock := { upBlock false with kind := kind }
def ended_ : State :=
  let s := buckets 4 1 []
  { s with col := { s.col with ends := [{ b := 0, layer := 0, first := 0, count := 2, pk := 0, nf := false, ov := false,
                                          changed := false, eb := 100, attempt := 1 }] } }
/-- The port of the way to rank 3 is fenced. -/
def fencedState : State :=
  let s := (job 4 1 (port.putPort 11 { fencing := true })).wrNat 1 (4096 + 16 + 16 * 3) 4 77
  (s.setF (F.fabPPartnerFabricId 11) 77).setF (F.fabPPartnerValid 11) 1

theorem witness_BlocksArrive_up :
    (∀ k ∈ [1, 2, 4], let s := buckets 4 1 [entered 0 2]
     s.load.loaded = true ∧ s.fencedFrom 3 = false ∧ arrives s (blockOf k) = some (entered 0 2) ∧ 3 ∈ s.childrenIn 0 ∧
       s.owns 0 = false ∧ (blockOf k).kind = k ∧ (blockOf k).ov = false) ∧
    (∀ e ∈ [100, 0xfd], let x := { entered 0 2 with eb := e, attempt := 14 }
     let k := { upBlock true with eb := e, attempt := 14 }
     let s := buckets 4 0 [x]
     s.load.loaded = true ∧ s.fencedFrom 1 = false ∧ arrives s k = some x ∧ arrives s { k with kind := 1 } = some x ∧
       1 ∈ s.childrenIn 0 ∧ k.kind = 2 ∧ k.ov = true ∧ s.owns 0 = true ∧ x.mayRetry = true) := by
  refine ⟨?_, ?_⟩ <;> decide +kernel

theorem witness_BlocksArrive_down :
    (∀ got ∈ [0, 2], let x := { entered 0 2 with got := got }
     let s := buckets 4 1 [x]
     s.fencedFrom ((s.parentIn 0).getD s.me) = false ∧ s.owns 0 = false ∧ arrives s (blockOf 3) = some x ∧
       arrives s (blockOf 6) = some x ∧ (blockOf 3).first = 0 ∧ x.got = got ∧ x.count = 2) ∧
    (let x := { entered 0 2 with probing := true }
     let s := buckets 4 1 [x]
     s.fencedFrom ((s.parentIn 0).getD s.me) = false ∧ s.owns 0 = false ∧ arrives s (blockOf 5) = some x) ∧
    (let k := { blockOf 7 with attempt := 1 }
     let s := buckets 4 1 [entered 0 2]
     s.fencedFrom ((s.parentIn 0).getD s.me) = false ∧ s.owns 0 = false ∧ arrives s k = some (entered 0 2)) ∧
    (let k := { upBlock false with eb := 99 }
     let s := buckets 4 1 [entered 0 2]
     s.fencedFrom 3 = false ∧ k.kind = 2 ∧ mismatches s k = true) ∧
    (let k := { upBlock false with step := 2 }
     let s := buckets 4 1 [entered 0 2]
     s.fencedFrom 3 = false ∧ k.kind = 2 ∧ k.step ≠ s.stepNow ∧ s.pass.launched = true ∧ ∀ e ∈ s.col.ends, e.b ≠ k.bucket) ∧
    (∀ a ∈ [0, 1], let k := { upBlock false with attempt := a }
     k.step = ended_.stepNow ∧ (ended_.col.ends.find? (fun e => e.b == k.bucket)).map (fun e => e.attempt) = some 1 ∧
       redDisagrees k 1 100 2 = decide (a = 0) ∧ redDisagrees { k with eb := 99 } 1 100 2 = true) ∧
    (let s := buckets 4 1 []
     (upBlock false).step = s.stepNow ∧ s.col.ends.find? (fun e => e.b == 0) = none ∧ s.bucket 0 = none ∧
       (buckets 4 1 [bkt 0 2]).bucket 0 = some (bkt 0 2) ∧ (bkt 0 2).entered = false ∧
       (upBlock false).attempt < { entered 0 2 with attempt := 1 }.attempt) ∧
    (fencedState.load.loaded = true ∧ fencedState.fencedFrom 3 = true) := by
  refine ⟨?_, ?_, ?_, ?_, ?_, ?_, ?_, ?_⟩ <;> decide +kernel

/-! ### Witnesses: the fabric -/

def fabBlock (btype tc : Nat) (pay : Payload) : LinkBlock := { btype := btype, tc := tc, pay := pay, dest := port.idOn 11 }
def acked (b : LinkBlock) : State := (port.takeAck 11 b.ack).takeCredits 11 [b.cr0, b.cr1, b.cr2]

/-- The conditions of blockIn and blockInTurn, as tests. -/
def inWindow (b : LinkBlock) : Bool := port.portUp 11 && !fmtBad b && !outOfWindow b.seq (port.port 11).rxSeq
def inTurn (b : LinkBlock) : Bool :=
  inWindow b && isSequenced b && seqGap b.seq ((acked b).port 11).rxSeq == 0 && ((acked b).port 11).held.isEmpty &&
  nth ((acked b).port 11).avail b.tc != 0

theorem blockIn_of {b : LinkBlock} (h : inWindow b = true) : port.blockIn 11 b (acked b) := by
  simp only [inWindow, Bool.and_eq_true, Bool.not_eq_true'] at h
  exact ⟨h.1.1, h.1.2, h.2, rfl⟩

theorem blockInTurn_of {b : LinkBlock} (h : inTurn b = true) : port.blockInTurn 11 b (acked b) := by
  simp only [inTurn, Bool.and_eq_true, beq_iff_eq, bne_iff_ne, List.isEmpty_iff] at h
  refine ⟨blockIn_of h.1.1.1.1, h.1.1.1.2, h.1.1.2, ?_, h.2⟩
  simp [h.1.2]

def bulkOf (n : Nat) : LinkBlock := fabBlock 1 2 (.bulk 0 0 (List.replicate n 5))
def nakOf (reason seq : Nat) : LinkBlock := fabBlock 3 0 (.nak reason seq)
def nakState : State := port.putPort 11 { credit := [4, 4, 4], grant := [16, 512, 256], txSeq := 1,
                                          replay := [(0, fabBlock 1 0 (.ctl {}))] }
/-- Port 11 without buffers for class 2, and of a job in which device 77 has failed. -/
def noBuffers : State := State.reset.setF (F.fabPStatusState 11) pActive |>.putPort 11 { avail := [16, 512, 0] }
def deadPeer : State := (job 4 0 port).wrNat 1 (4096 + 16 + 32) 4 77 |>.wrNat 1 (4096 + 16 + 36) 1 2

theorem witness_FabricBlocksArrive :
    inTurn (fabBlock 2 1 (.fence 3 4)) = true ∧
    (∀ n ∈ [1, 240], inTurn (bulkOf n) = true ∧ (List.replicate n (5 : Byte)).length = n ∧
      ((acked (bulkOf n)).turnTaken 11 (bulkOf n)).failedDevice (bulkOf n).src = false ∧
      (bulkOf n).dest = ((acked (bulkOf n)).turnTaken 11 (bulkOf n)).idOn 11) ∧
    (let b := { bulkOf 1 with dest := port.idOn 11 + 1 }
     inTurn b = true ∧ b.dest ≠ ((acked b).turnTaken 11 b).idOn 11) ∧
    (let b := nakOf 1 0
     let a := (nakState.takeAck 11 b.ack).takeCredits 11 [0, 0, 0]
     nakState.portUp 11 = true ∧ fmtBad b = false ∧ outOfWindow b.seq (nakState.port 11).rxSeq = false ∧
       seqGap b.seq (a.port 11).rxSeq = 0 ∧ (0, fabBlock 1 0 (.ctl {})) ∈ (a.port 11).replay ∧ 0 ∉ (a.port 11).resend) ∧
    (inWindow (nakOf 2 7) = true ∧ inWindow (fabBlock 4 0 (.creditSync 1 2 3)) = true ∧
      inWindow (fabBlock 0 0 .idle) = true) ∧
    (let s := State.reset.setF (F.fabPStatusState 11) pTraining
     s.pst 11 = pTraining ∧ (s.port 11).fast = false ∧ s.identityBad 5 6 = false) ∧
    State.reset.portUp 11 = false := by
  refine ⟨?_, ?_, ?_, ?_, ?_, ?_, ?_⟩ <;> decide +kernel

theorem witness_FabricBlocksArrive_turns :
    (let b := { bulkOf 1 with src := 77 }
     deadPeer.portUp 11 = true ∧ fmtBad b = false ∧ isSequenced b = true ∧ b.tc ≠ 0 ∧
       (let a := (deadPeer.takeAck 11 b.ack).takeCredits 11 [0, 0, 0]
        seqGap b.seq (a.port 11).rxSeq = 0 ∧ nth (a.port 11).avail b.tc ≠ 0 ∧ (a.turnTaken 11 b).failedDevice b.src = true)) ∧
    (∀ q ∈ [1, 1024, 3072, 4095], let b := { bulkOf 1 with seq := q }
     inWindow b = true ∧ isSequenced b = true ∧ (seqGap b.seq ((acked b).port 11).rxSeq ≤ 1024 ↔ q ≤ 1024) ∧
       ((acked b).port 11).held.any (fun h => h.1 == b.seq) = false ∧ nth ((acked b).port 11).avail b.tc ≠ 0) ∧
    (noBuffers.portUp 11 = true ∧ nth (noBuffers.port 11).avail (bulkOf 1).tc = 0) ∧
    (∀ q ∈ [1025, 3071], outOfWindow q (port.port 11).rxSeq = true) ∧
    (fmtBad (fabBlock 5 0 .idle) = true ∧ fmtBad (fabBlock 6 0 .idle) = true ∧ fmtBad (fabBlock 0 3 .idle) = true ∧
      fmtBad (fabBlock 2 2 .idle) = true) := by
  refine ⟨?_, ?_, ?_, ?_, ?_⟩ <;> decide +kernel

/-- Port 11 with an origin of class 0 to send, or with what `x` holds. -/
def sends (x : Port) : State := port.putPort 11 { x with credit := [4, 4, 4], grant := [16, 512, 256] }
def ctlOut : Origin := { tc := 0, dest := 0, pay := .ctl {}, port := some 11 }
def originState : State := { port with fab := { port.fab with orig := [ctlOut] } }
def passing (b : LinkBlock) (routes : List (Nat × Nat)) (s : State) : State :=
  { s with fab := { s.fab with ingress := [(11, b)], routes := routes } }

/-- The block that waits on port 11 and is due, and an origin of class 1 or 2 that waits. -/
def dueOn (s : State) : Option ((Nat × LinkBlock) × Nat) :=
  s.fab.ingress.zipIdx.find? (s.movesOn 11)
def waitsOn (tc : Nat) : State := { port with fab := { port.fab with orig := [{ ctlOut with tc := tc }] } }

theorem witness_BlocksLeave :
    ((sends { resend := [3], replay := [(3, fabBlock 1 0 .idle)] }).portUp 11 = true ∧
      ((sends { resend := [3], replay := [(3, fabBlock 1 0 .idle)] }).dropUnrouted.port 11).resend = [3]) ∧
    (((sends { ctl := [.creditSync 0 0 0] }).dropUnrouted.port 11).resend = [] ∧
      ((sends { ctl := [.creditSync 0 0 0] }).dropUnrouted.port 11).ctl = [.creditSync 0 0 0]) ∧
    (originState.portUp 11 = true ∧ (originState.dropUnrouted.port 11).resend = [] ∧
      (originState.dropUnrouted.port 11).ctl = [] ∧ originState.fab.ingress = [] ∧
      originState.dropUnrouted.nextOrigin 11 0 = some (0, ctlOut) ∧ originState.dropUnrouted.classWaits 11 0 = true) ∧
    (∀ n ∈ [1, 2], (waitsOn n).portUp 11 = true ∧ (waitsOn n).dropUnrouted.classWaits 11 0 = false ∧
      (waitsOn n).dropUnrouted.turnOf 11 = some n) ∧
    (port.dropUnrouted.classWaits 11 0 = false ∧ port.dropUnrouted.turnOf 11 = none ∧ dueOn port = none) ∧
    State.reset.portUp 11 = false ∧
    (let b := { fabBlock 1 1 (.red {}) with hops := 2, dest := 5 }
     let s := passing b [(5, 0x10b)] port
     dueOn s = some ((11, b), 0) ∧ s.failedDevice b.src = false ∧ s.routeTo b.dest = some 11 ∧
       dueOn (passing b [] port) = some ((11, b), 0) ∧ (passing b [] port).routeTo b.dest = none) ∧
    (let b := { fabBlock 1 1 (.red {}) with hops := 2, dest := 5, src := 77 }
     let s := passing b [(5, 0x10b)] deadPeer
     dueOn s = some ((11, b), 0) ∧ b.tc ≠ 0 ∧ s.failedDevice b.src = true) := by
  refine ⟨?_, ?_, ?_, ?_, ?_, ?_, ?_, ?_⟩ <;> decide +kernel

def kept (t : Nat) : State :=
  { sends { replay := [(3, fabBlock 1 0 .idle)], resent := [(3, 4)], ackAt := 10, winAt := 10 } with aon := t }
def ackTicks : Nat := (max 1000 (port.f F.fabLinkCfgAckTimeout) + 319) / 320
def limit (t n c : Nat) : State := ((kept t).setF F.fabViolCfgLimit n).setF (F.fabPViolWindowCount 11) c

theorem witness_LinksAreKept_errors :
    ((kept 0).portUp 11 = true) ∧
    ((kept (10 + ackTicks)).portUp 11 = true ∧ ((kept (10 + ackTicks)).port 11).replay = [(3, fabBlock 1 0 .idle)] ∧
      3 ∉ ((kept 0).port 11).resend ∧ ((kept 0).port 11).ackAt + ackTicks ≤ (kept (10 + ackTicks)).aon) ∧
    (kept (9 + ackTicks)).aon < ((kept (9 + ackTicks)).port 11).ackAt + ackTicks ∧
    (∃ y ∈ (((kept 0).setF F.fabLinkCfgResendLimit 4).port 11).resent,
      max 1 (((kept 0).setF F.fabLinkCfgResendLimit 4).f F.fabLinkCfgResendLimit) ≤ y.2) ∧
    (∀ y ∈ (((kept 0).setF F.fabLinkCfgResendLimit 5).port 11).resent,
      y.2 < max 1 (((kept 0).setF F.fabLinkCfgResendLimit 5).f F.fabLinkCfgResendLimit)) ∧
    (0 < (limit 10 3 3).f F.fabViolCfgLimit ∧ (limit 10 3 3).f F.fabViolCfgLimit ≤ (limit 10 3 3).f (F.fabPViolWindowCount 11) ∧
      (limit 10 3 3).aon < ((limit 10 3 3).port 11).winAt + max 1 ((limit 10 3 3).f F.fabViolCfgWindow) ∧
      (limit 10 3 3).pst 11 ≠ pQuarantined) ∧
    (limit 10 0 3).f F.fabViolCfgLimit = 0 ∧ (limit 10 3 2).f (F.fabPViolWindowCount 11) < (limit 10 3 2).f F.fabViolCfgLimit ∧
    (port.port 11).replay = [] ∧ State.reset.portUp 11 = false := by
  refine ⟨?_, ?_, ?_, ?_, ?_, ?_, ?_, ?_, ?_, ?_⟩ <;> decide +kernel

/-- Port 11 in a state, switched on, of a device whose registers the host reaches. -/
def portIn (x : Nat) : State := ((up State.reset).setF (F.fabPStatusState 11) x).setF (F.fabPCtrlEn 11) 1
def trains : State := job 4 0 (portIn pTraining)

theorem witness_LinksAreKept_training :
    (trains.pst 11 = pTraining ∧ trains.fb (F.fabPCtrlEn 11) = true ∧ (trains.port 11).fast = false ∧ widthOf 1 ≠ 0 ∧
      widthOf 0 = 0 ∧ (trains.takeIdent 11 5 6).pst 11 ≠ pQuarantined) ∧
    (let s := trains.wrNat 1 4112 4 5
     s.pst 11 = pTraining ∧ s.fb (F.fabPCtrlEn 11) = true ∧ (s.port 11).fast = false ∧
       (s.takeIdent 11 5 6).pst 11 = pQuarantined) ∧
    (let s := { portIn pDown with aon := 3125000 }
     s.pst 11 = pDown ∧ s.fb (F.fabPCtrlEn 11) = true ∧ (s.port 11).failAt + 3125000 ≤ s.aon) ∧
    (isOpen (portIn pActive) = true ∧ (portIn pActive).portUp 11 = true ∧ (portIn pActive).pst 11 ≠ pQuarantined) ∧
    (isOpen (portIn pQuarantined) = true ∧ (portIn pQuarantined).pst 11 = pQuarantined ∧
      (portIn pQuarantined).fb (F.fabPCtrlEn 11) = true) ∧
    (isOpen (portIn pDown) = true ∧ (portIn pDown).pst 11 = pDown ∧
      (portIn pDown).aon < ((portIn pDown).port 11).failAt + 3125000) ∧
    (let s := trains.putPort 11 { fast := true }
     s.pst 11 = pTraining ∧ s.fb (F.fabPCtrlEn 11) = true ∧ (s.port 11).fast = true) ∧
    (let s := (portIn pQuarantined).setF (F.fabPCtrlEn 11) 0
     isOpen s = true ∧ s.pst 11 = pQuarantined ∧ s.fb (F.fabPCtrlEn 11) = false ∧ s.pst 11 ≠ pTraining ∧ s.pst 11 ≠ pDown) := by
  refine ⟨?_, ?_, ?_, ?_, ?_, ?_, ?_, ?_⟩ <;> decide +kernel

/-! ### Witnesses: array tiles, rows and HBM -/

/-- Tile 0 as `x` says, awake, with layer 0 on it. -/
def tiled (x : Tile) : State := (placed [] layer).putTile 0 x
def fitsOf (n : Nat) : List Fit := List.replicate 8 { run := n }
def calTile (n : Nat) : Tile := { state := 1, due := true, fits := fitsOf n }
def fitted (n : Nat) : State := (List.range 8).foldl (fun t p => t.fitOne 0 p []) (tiled (calTile n))

def batchOf (k : BatchKind) : Batch := { kind := k, rows := [7, 8] }
def rowTile (k : BatchKind) : Tile := { state := 1, batch := some (batchOf k), levels := [(7 * 256 + 3, 5)], wear := [(7, 0xffffff)] }
/-- An ARR.FWD of the committed step that waits, where `n` is 1. -/
def withFwd (n : Nat) (s : State) : State :=
  { s with sch := { s.sch with inflight := List.replicate n { fwdIns 0 with step := some 0 } } }

theorem witness_ArraysAreMaintained :
    (let s := { tiled { state := 1 } with aon := 3125 * 100 }
     (s.tile 0).state = 1 ∧ (s.tile 0).due = false ∧ (SleepKind.tile, 0) ∈ s.units.awake ∧
       (s.tile 0).lastCal + max 1 (min 100 (s.f F.arrCalCfgInterval)) * 3125 ≤ s.aon) ∧
    (let s := tiled { state := 1, convs := 2 ^ 20 }
     2 ^ max 12 (min 20 (s.f F.arrCalCfgConvLog2)) ≤ (s.tile 0).convs) ∧
    ((tiled { state := 1 }).calTrigger 0 = false ∧ State.reset.layer 0 = none ∧ (State.reset.tile 0).state ≠ 1) ∧
    (∀ n ∈ [0, 1], let s := withFwd n (tiled { state := 1, late := true, dirty := [3] })
     s.layer 0 = some layer ∧ (∀ t ∈ layer.held, (s.tile t).batch = none) ∧ (∃ t ∈ layer.held, (s.tile t).late = true) ∧
       s.forwardsLeft 0 s.c = decide (n = 1)) ∧
    (let s := tiled (rowTile .program)
     s.layer 0 = some layer ∧ ∃ t ∈ layer.held, (s.tile t).batch ≠ none) ∧
    (let s := tiled { state := 1 }
     s.layer 0 = some layer ∧ (∀ t ∈ layer.held, (s.tile t).batch = none ∧ (s.tile t).late = false) ∧
       s.pass.launched = false) ∧
    (∀ n ∈ [0, 4], ((tiled (calTile n)).tile 0).state = 1 ∧ ((tiled (calTile n)).tile 0).due = true ∧
      ((tiled (calTile n)).tile 0).sealed = true ∧ ((tiled (calTile n)).tile 0).batch = none ∧
      (SleepKind.tile, 0) ∈ (tiled (calTile n)).units.awake ∧ ∀ f ∈ ((fitted n).tile 0).fits, f.run < 6) ∧
    (((tiled (calTile 5)).tile 0).state = 1 ∧ ((tiled (calTile 5)).tile 0).due = true ∧
      ((tiled (calTile 5)).tile 0).sealed = true ∧ ((tiled (calTile 5)).tile 0).batch = none ∧
      (SleepKind.tile, 0) ∈ (tiled (calTile 5)).units.awake ∧ ∃ f ∈ ((fitted 5).tile 0).fits, 6 ≤ f.run) ∧
    (let s := { launched (tiled { state := 1 }) with seesaw := { written := [(0, 2)] } }
     s.layer 0 = some layer ∧ layer.programmed = true ∧ (∀ t ∈ layer.held, (s.tile t).batch = none ∧ (s.tile t).late = false) ∧
       s.pass.launched = true ∧ layer.crossed = false ∧ s.allWritten layer = true ∧ s.forwardsLeft 0 s.stepNow = false ∧
       s.bodyAdmitted = true) := by
  refine ⟨?_, ?_, ?_, ?_, ?_, ?_, ?_, ?_, ?_⟩ <;> decide +kernel

def worn (n : Nat) : Tile := { state := 1, wear := [(7, n)] }

/-- The level that a master of 0 is programmed to. -/
def zeroLevel : Int := level2 false (levelCode false 0)

theorem witness_RowsAndMemoryAreMaintained_rows :
    (∀ k ∈ [BatchKind.program, .scrub], let s := tiled (rowTile k)
     (s.tile 0).batch = some (batchOf k) ∧ s.mayWrite 0 (batchOf k) = true ∧ (SleepKind.tile, 0) ∈ s.units.awake ∧
       (batchOf k).kind = k ∧ (batchOf k).rows = [7, 8] ∧ s.layer (s.tile 0).layer = some layer) ∧
    (let s := (tiled (worn 9)).setF F.arrWearCfgWarn 9
     s.f F.arrWearCfgWarn ≤ (s.tile 0).maxWear ∧ (s.tile 0).warned = false) ∧
    (let s := tiled { worn 9 with warned := true }
     (s.tile 0).warned = true) ∧
    (let s := tiled (worn 10000000)
     min 10000000 (s.f F.arrWearCfgRetire) ≤ (s.tile 0).maxWear ∧ (s.tile 0).state ≤ 1 ∧ (s.tile 0).batch = none) ∧
    (∀ c ∈ [false, true], let s := tiled { state := 1, csFault := c, suspect := !c }
     s.layer (s.tile 0).layer = some layer ∧ s.pass.launched = false ∧ (s.tile 0).batch = none ∧ (s.tile 0).state = 1 ∧
       layer.programmed = true ∧ (s.tile 0).csFault = c ∧ (s.tile 0).suspect = !c ∧ (s.tile 0).sinceRe = none) ∧
    (let s := { tiled (rowTile .program) with arr := { (tiled (rowTile .program)).arr with layers := [] } }
     s.layer 0 = none ∧ (s.tile 0).batch = some (batchOf .program) ∧ s.mayWrite 0 (batchOf .program) = true) ∧
    (let s := tiled { state := 1, batch := some { kind := .program, rows := [] } }
     (s.tile 0).batch = some { kind := .program, rows := [] }) ∧
    (let s := { tiled (rowTile .program) with units := { awake := [] } }
     (s.tile 0).batch = some (batchOf .program) ∧ (SleepKind.tile, 0) ∉ s.units.awake) ∧
    (let s := tiled { state := 1 }
     (s.tile 0).batch = none ∧ (s.tile 0).maxWear < s.f F.arrWearCfgWarn ∧ (s.tile 0).suspect = false) ∧
    (let s := placed [] { layer with programmed := false }
     s.layer 0 = some { layer with programmed := false }) := by
  refine ⟨?_, ?_, ?_, ?_, ?_, ?_, ?_, ?_, ?_, ?_⟩ <;> decide +kernel

/-- A suspect tile, 16 or more steps after it was reprogrammed, whose first cell holds the level `v`. -/
def suspectTile (n : Nat) (v : Int) : Tile :=
  { state := 1, suspect := true, sinceRe := some n, levels := [(0, v), (256, zeroLevel)] }

theorem clean_rows {n : Nat} (hn : n ∈ [16, 17]) : (tiled (suspectTile n zeroLevel)).staleRows layer (suspectTile n zeroLevel) = [] := by
  simp only [State.staleRows, List.filter_eq_nil_iff, List.mem_range, List.any_eq_true, not_exists, not_and, bne_iff_ne,
    not_not]
  intro r _ c hc
  by_cases h0 : r = 0 ∧ c = 0
  · obtain ⟨rfl, rfl⟩ := h0
    revert n; decide +kernel
  by_cases h1 : r = 1 ∧ c = 0
  · obtain ⟨rfl, rfl⟩ := h1
    revert n; decide +kernel
  have e0 : ¬ (0 = r * 256 + c) := by omega
  have e1 : ¬ (256 = r * 256 + c) := by omega
  have hl : (suspectTile n zeroLevel).level r c = 0 := by simp [suspectTile, Tile.level, mget, e0, e1]
  have hw : layer.weightAt (suspectTile n zeroLevel) r c = none := by
    simp only [Layer.weightAt, suspectTile, layer, Nat.zero_mul, Nat.zero_add, ite_eq_right_iff]
    omega
  rw [hl, State.targetLevel, hw]

theorem stale_row {n : Nat} (hn : n ∈ [16, 17]) : (tiled (suspectTile n (zeroLevel + 1))).staleRows layer (suspectTile n (zeroLevel + 1)) ≠ [] := by
  refine List.ne_nil_of_mem (a := 0) ?_
  simp only [State.staleRows, List.mem_filter, List.mem_range, List.any_eq_true]
  exact ⟨by decide, 0, by decide, by revert n; decide +kernel⟩

theorem witness_RowsAndMemoryAreMaintained_suspects : ∀ n ∈ [16, 17], ∀ v ∈ [zeroLevel, zeroLevel + 1],
    let s := tiled (suspectTile n v)
    s.layer 0 = some layer ∧ s.pass.launched = false ∧ s.tile 0 = suspectTile n v ∧ layer.programmed = true ∧
      (suspectTile n v).batch = none ∧ (suspectTile n v).sinceRe = some n := by decide +kernel

theorem witness_RowsAndMemoryAreMaintained_hbm :
    (∀ a ∈ [0, hbmProgTop - 64], let s := up State.reset
     s.fb F.devBootReady = true ∧ s.pst_ = 1 ∧ a % 64 = 0 ∧ a < hbmProgTop ∧ s.isPoisoned 1 (a / 64) = false) ∧
    (let s := { up State.reset with poison := [(1, 0, none)] }
     s.fb F.devBootReady = true ∧ s.pst_ = 1 ∧ s.isPoisoned 1 0 = true) ∧
    (let s := { State.reset with ecc := { rows := [(5, 16), (6, 16)], repairs := [6] } }
     16 ≤ s.rowErrors 5 ∧ 5 ∉ s.ecc.repairs ∧ 16 ≤ s.rowErrors 6 ∧ 6 ∈ s.ecc.repairs ∧ s.rowErrors 7 < 16) ∧
    State.reset.fb F.devBootReady = false := by
  refine ⟨?_, ?_, ?_, ?_⟩ <;> decide +kernel

/-! ### Witnesses: power, temperature, resets and boots -/

/-- The host can reach a device in power state `x`. -/
def inState (x : Nat) (s : State) : State := (up s).setF F.pwrStatusState x
def act : State := inState 1 State.reset
/-- The device without power. -/
def off : State := { State.reset with pwr := { State.reset.pwr with on := false, rising := false } }
def busy : State := inState 1 (st [ins 0x3000])

theorem witness_PowerRequestsPend :
    (isOpen act = true ∧ act.pst_ = 1 ∧ (act.setF F.pwrCtrlReq 2).holdBits 2 = 0) ∧
    (isOpen busy = true ∧ busy.pst_ = 1 ∧ (busy.setF F.pwrCtrlReq 3).holdBits 3 ≠ 0 ∧ busy.f F.pwrStatusPending ≠ 3) ∧
    (act.reachable = true ∧ act.cxl.d3hot = false) ∧
    (let s : State := { act with cxl := { act.cxl with d3hot := true } }
     s.reachable = true ∧ s.cxl.d3hot = true) ∧
    (let s := busy.setF F.pwrStatusPending 3
     isOpen s = true ∧ s.pst_ ≠ 3 ∧ (s.setF F.pwrCtrlReq 3).holdBits 3 ≠ 0 ∧ s.f F.pwrStatusPending = 3) ∧
    (let s := inState 2 State.reset
     isOpen s = true ∧ s.pst_ = 2 ∧ s.pwr.wake = none) ∧
    State.reset.reachable = false := by
  refine ⟨?_, ?_, ?_, ?_, ?_, ?_, ?_⟩ <;> decide +kernel

def rests (x pending : Nat) (wake : Option Nat) : State :=
  let s := (inState x State.reset).setF F.pwrStatusPending pending
  { s with aon := 313, pwr := { s.pwr with wake := wake, selfRefresh := false } }

/-- A device with work that moves to rest (m = 1) under a halt, its stored holds being h. -/
def moves (p h m : Nat) : State :=
  (((busy.setF F.pwrStatusPending p).setF F.secStatusDebug 2).setF F.pwrStatusHold h).setF F.pwrStatusMoving m

theorem witness_RestIsEnteredAndLeft :
    ((rests 1 2 none).pwr.on = true ∧ (rests 1 2 none).pst_ = 1 ∧ (rests 1 2 none).free = true ∧
      (rests 1 2 none).portsQuiet = true ∧ (rests 1 2 none).f F.pwrStatusPending = 2) ∧
    (∀ p ∈ [2, 3], ∀ h ∈ [0, 1], ∀ m ∈ [0, 1], let s := moves p h m
     s.pwr.on = true ∧ s.pst_ = 1 ∧ s.f F.pwrStatusPending = p ∧ s.free = false ∧ s.haltHold = true ∧ s.pwr.wake = none ∧
       s.f F.pwrStatusMoving = m ∧ s.holdBits p ≠ 0 ∧ s.f F.pwrStatusHold = h) ∧
    ((rests 1 2 (some 1)).pwr.wake ≠ none ∧ act.pwr.on = true ∧ act.f F.pwrStatusPending ≠ 2 ∧
      act.f F.pwrStatusPending ≠ 3) ∧
    (∀ x ∈ [1, 2], (rests x 3 none).pwr.on = true ∧ (rests x 3 none).pst_ = x ∧ (rests x 3 none).free = true ∧
      (rests x 3 none).portsQuiet = true ∧ (rests x 3 none).f F.pwrStatusPending = 3 ∧ (rests x 3 none).haltHold = false ∧
      (rests x 3 none).pwr.wake = none) ∧
    (∀ x ∈ [2, 3], ∀ w ∈ [WakeCause.doorbell, .service], (rests x 7 (some (wakeCode w))).pst_ = x ∧
      (rests x 7 (some (wakeCode w))).pwr.on = true ∧ (rests x 7 (some (wakeCode w))).pwr.wake = some (wakeCode w) ∧
      (rests x 7 (some (wakeCode w))).pwr.latch = []) ∧
    ((rests 3 7 none).pst_ = 3 ∧ (rests 3 7 none).pwr.wake = none) ∧
    ((rests 2 7 none).pst_ = 2 ∧ (rests 2 7 none).pwr.selfRefresh = false ∧ (rests 2 7 none).pwr.wake = none ∧
      (rests 2 7 none).pwr.hbmAt + 313 ≤ (rests 2 7 none).aon) ∧
    (let s := (rests 1 3 none).setF F.secStatusDebug 2
     s.pwr.on = true ∧ s.pst_ = 1 ∧ s.free = true ∧ s.f F.pwrStatusPending = 3 ∧ s.haltHold = true ∧ s.portsQuiet = true) ∧
    (∀ p ∈ [2, 3], let s := ((rests 1 p none).setF (F.fabPStatusState 11) pActive).putPort 11 { fencing := true }
     s.pwr.on = true ∧ s.pst_ = 1 ∧ s.free = true ∧ s.f F.pwrStatusPending = p ∧ s.portsQuiet = false) ∧
    ({ rests 2 7 none with aon := 312 } : State).aon < 313 := by
  refine ⟨?_, ?_, ?_, ?_, ?_, ?_, ?_, ?_, ?_, ?_⟩ <;> decide +kernel

def sleepy : State := { (inState 1 State.reset).setF F.pwrSleepCfgSleepEn 0x3f with units := { awake := [(.grid, 3), (.tile, 0)] } }
def dueTile (aon : Nat) : State :=
  let s := (inState 1 State.reset).putTile 0 { state := 1, due := true }
  { s with aon := aon, units := { s.units with awake := [], slept := [(0, 10)] } }

theorem witness_UnitsSleepAndTemperatureActs :
    ((SleepKind.grid, 3) ∈ sleepy.units.awake ∧ bitOf (sleepy.f F.pwrSleepCfgSleepEn) (sleepBit .grid) = true ∧
      sleepy.unitWork .grid 3 = false) ∧
    (let s := dueTile 312511
     s.unitWork .tile 0 = true ∧ s.pwr.on = true ∧ s.pst_ = 1 ∧ 0 < sleepUnits .tile ∧ 0 < tileCount ∧
       (SleepKind.tile, 0) ∉ s.units.awake ∧ mget 0 s.units.slept = some 10 ∧ 10 + 312500 < s.aon ∧ (s.tile 0).state = 1) ∧
    (act.pwr.on = true ∧ act.pst_ ≠ 3 ∧ act.throttleAt < 32767 ∧ -32768 ≤ act.throttleAt) ∧
    (∀ t ∈ [312499, 312500], let s := act.setF F.pwrThermalThrottled 1
     let u : State := { s with aon := t, pwr := { s.pwr with coolAt := some 0 } }
     u.pwr.coolAt = some 0 ∧ u.fb F.pwrThermalThrottled = true ∧ u.aon = t) ∧
    ((act.setF F.pwrThermalHottest 500).pwr.on = true ∧ 500 ≤ (act.setF F.pwrThermalHottest 500).hottest) ∧
    (act.setF F.pwrThermalHottest 499).hottest < 500 ∧
    (∀ t ∈ [0, 1], let s : State := { sleepy with units := { sleepy.units with woke := [(unitKey .grid 3, 0)] } }
     let u : State := { s with aon := t * s.holdTime .grid }
     s.holdTime .grid ≤ 320 * (u.aon - 0) ↔ t = 1) ∧
    (∀ x ∈ [0, 1], let s := dueTile 312510
     let u := s.putTile 0 { state := x, due := true }
     u.unitWork .tile 0 = true ∧ u.pwr.on = true ∧ u.pst_ = 1 ∧ (SleepKind.tile, 0) ∉ u.units.awake ∧
       u.aon - 10 ≤ 312500 ∧ (u.tile 0).state = x) ∧
    (let s := inState 1 (st [ins 0x5000])
     s.pwr.on = true ∧ s.pst_ = 1 ∧ 255 < sleepUnits .grid ∧ (SleepKind.grid, 255) ∉ s.units.awake ∧
       s.unitWork .grid 255 = true) ∧
    (off.pwr.on = false ∧ (inState 3 State.reset).pst_ = 3 ∧ act.fb F.pwrThermalThrottled = false) := by
  refine ⟨?_, ?_, ?_, ?_, ?_, ?_, ?_, ?_, ?_, ?_⟩ <;> decide +kernel

def pwrWith (p : Power) : State := { State.reset with pwr := p }

theorem witness_PowerComesAndGoes :
    (∀ b ∈ [false, true], let s := pwrWith { on := false, rising := false, enable := !b, inputOk := b }
     s.pwr.on = false ∧ s.pwr.rising = false ∧ s.pwr.enable = !b ∧ s.pwr.inputOk = b) ∧
    (let s := pwrWith { on := false, rising := false, enable := false, inputOk := false }
     s.pwr.on = false ∧ s.pwr.rising = false ∧ s.pwr.enable = false ∧ s.pwr.inputOk = false) ∧
    (State.reset.pwr.on = true ∧ State.reset.pwr.enable = true ∧ State.reset.pwr.inputOk = true) ∧
    ((4599 < 4600 ∧ 1000 ≤ 1000 ∧ 5700 < 5701) ∧ ¬ ((4600 : Nat) < 4600 ∧ 1000 ≤ 1000) ∧ ¬ ((4599 : Nat) < 4600 ∧ 1000 ≤ 999)) ∧
    (off.pwr.rising = false ∧ off.pwr.on = false) ∧
    (pwrWith { on := false, rising := true }).pwr.rising = true := by decide +kernel

theorem witness_ResetsTakeEffect :
    (State.reset.pwr.on = true ∧ State.reset.pwr.perst = false) ∧
    (let s : State := { State.reset with
      pwr := { State.reset.pwr with perst := true }
      boot := { State.reset.boot with awaits := none } }
     s.pwr.on = true ∧ s.pwr.perst = true ∧ s.boot.awaits = none ∧ s.fb F.devBootReady = false ∧ s.boot.stopped = false) ∧
    (act.pwr.on = true ∧ act.cxl.up = true ∧ isOpen act = true ∧ act.fb F.devBootReady = true ∧ act.boot.stopped = false ∧
      act.sec.halted = false ∧ act.pst_ ≠ 3) ∧
    (bitsOf 0xa4ff 8 8 ≠ 0xa5 ∧ bitOf (2 ^ 31 + tileCount - 1) 31 = true ∧
      bitsOf (2 ^ 31 + tileCount - 1) 0 14 < tileCount ∧ bitOf 0 31 = false) ∧
    (bitsOf 0xa501 8 8 = 0xa5 ∧ bitsOf 0xa501 0 2 = 1 ∧ bitsOf 0xa502 0 2 = 2) ∧
    (let s : State := { off with pwr := { off.pwr with perst := false } }
     s.pwr.perst = false ∧ s.pwr.on = false ∧ s.cxl.up = false) ∧
    (let s : State := { State.reset with pwr := { State.reset.pwr with perst := true } }
     s.pwr.perst = true ∧ s.boot.awaits ≠ none) := by
  refine ⟨?_, ?_, ?_, ?_, ?_, ?_, ?_⟩ <;> decide +kernel

/-- An image for a device in lifecycle BLANK whose keys are those that the boot ROM holds. -/
def romImage (svn : Nat) : Image := { flags := 1, svn := svn, edDigest := Config.romEdDigest, mlDigest := Config.romMlDigest }
def bootable : State :=
  { State.reset.setF F.otpStatusEffective 15 with boot := { State.reset.boot with bank0 := some (romImage 0) } }
def readied : State := bootable.showFuses.showSettings

theorem witness_BootsRun_accepted : bootable.pwr.on = true ∧ bootable.boot.awaits = some 0 ∧
    bootable.fb F.secStatusSelftestFail = false ∧ bootable.fb F.devBootFail = false ∧ readied.fuseCorrupt = false ∧
    readied.boot.next = none ∧ readied.boot.active = 0 ∧ readied.bankImage 0 = some (romImage 0) ∧ readied.bankFault 0 = 0 := by
  have hb : readied.bankImage 0 = some (romImage 0) := rfl
  have he : readied.effective = none := by decide +kernel
  have hl : readied.f F.secStatusLifecycle = 0 := by decide +kernel
  have hr : readied.rollback = 0 := by decide +kernel
  refine ⟨by decide +kernel, by decide +kernel, by decide +kernel, by decide +kernel, by decide +kernel, by decide +kernel,
    by decide +kernel, hb, ?_⟩
  have hc : ∀ k, k = (Config.romEdDigest, Config.romMlDigest) →
      readied.imageChecks (romImage 0) k = [true, true, true, true, true, true, true, true, true] := by
    intro k hk
    simp [State.imageChecks, hl, hr, romImage, hk]
  unfold State.bankFault State.imageFault State.keyDigests
  simp only [hb, he, if_false, Bool.false_eq_true, List.append_nil, List.map_cons, List.map_nil, hc _ rfl]
  decide

def badFuses : State :=
  let s := State.reset.setF F.otpStatusEffective 0
  { s with fuses := { gens := [0, 0, 0, 0] } }

/-- The CRC register after each 51 zero bytes of a generation. -/
def zeroRuns : List (List Byte × Nat) :=
  [0x2de014b6, 0xef703099, 0x22729509, 0x2ddc4e9d, 0xea3ae566, 0x3f2ea963, 0x1357f06, 0xe2aeac85, 0x389a8f77, 0xe4549e74,
   0xb34f9c6a, 0x1e520278, 0x7018fab9, 0xed18a197, 0x48a2470d, 0xfb10bde2, 0x50acefd0, 0x4d021a17, 0xdb3b9135, 0x49be321d,
   0xa527b510, 0xfe256953, 0x3480fa27, 0xd46d5e72, 0x9f11b925, 0xd2489851, 0x69c07ecc, 0x5042bf79, 0xdb21dd1e, 0x345fabbe,
   0x5cb66e0, 0x1a6824a3, 0xedfc7abc, 0xa62cb823, 0x22711691, 0x868318af, 0xbb59377a, 0xb2183761, 0x9497e53e, 0x98b5af47].map (fun d => (leBytes 51 0, d))

theorem zeros_eq : ∀ n : Nat, leBytes n 0 = List.replicate n 0
  | 0 => rfl
  | n + 1 => by simp only [leBytes, List.replicate_succ, zeros_eq n, Nat.zero_div]; rfl

theorem zeroRuns_bytes : leBytes 2040 0 = zeroRuns.flatMap Prod.fst := by
  have h : zeroRuns.flatMap Prod.fst = (zeroRuns.map Prod.snd).flatMap (fun _ => leBytes 51 0) := by
    simp only [zeroRuns, List.flatMap_map, List.map_map, Function.comp_def]
  have hr : ∀ l : List Nat, l.flatMap (fun _ => List.replicate 51 (0 : Byte)) = List.replicate (51 * l.length) 0 := by
    intro l
    induction l with
    | nil => rfl
    | cons a l ih => rw [List.flatMap_cons, ih, List.replicate_append_replicate, List.length_cons, Nat.mul_succ, Nat.add_comm]
  have hl : (zeroRuns.map Prod.snd).length = 40 := rfl
  rw [h, zeros_eq, zeros_eq, hr, hl]

theorem zeroRuns_ok : crcRuns zeroRuns 0xffffffff = true := by decide +kernel

theorem badFuses_corrupt : badFuses.showFuses.showSettings.fuseCorrupt = true := by
  have he : badFuses.showFuses.showSettings.effective = some 0 := by decide +kernel
  have hg : badFuses.showFuses.showSettings.gen 0 = 0 := by decide +kernel
  have hn : genNoUds 0 = 0 := by decide +kernel
  have hc : genCrc 0 = 0x674a50b8 := by
    rw [genCrc, hn, crc32c, zeroRuns_bytes, crcRuns_fold zeroRuns _ zeroRuns_ok]
    decide +kernel
  unfold State.fuseCorrupt
  rw [he]
  simp only [hg, hc]
  decide +kernel

def runs (svn : Nat) : State :=
  let s := State.reset.setF F.devBootReady 1
  { s with boot := { s.boot with running := some (romImage svn), awaits := none } }

theorem witness_BootsRun_others :
    (let s := badFuses
     s.pwr.on = true ∧ s.boot.awaits = some 0 ∧ s.fb F.secStatusSelftestFail = false ∧ s.fb F.devBootFail = false ∧
       s.showFuses.showSettings.effective = some 0) ∧
    badFuses.showFuses.showSettings.fuseCorrupt = true ∧
    (let s : State := { State.reset with aon := 31250000 }
     s.pwr.on = true ∧ s.boot.awaits = some 0 ∧ s.boot.since + 31250000 ≤ s.aon ∧ s.boot.next = none ∧ s.boot.trial = false) ∧
    ((runs 1).boot.awaits = none ∧ (runs 1).fb F.devBootReady = true ∧ (runs 1).rollback = 0 ∧ (runs 1).pwr.on = true) ∧
    (∀ b ∈ [false, true], let s : State := { State.reset with aon := 31250000, boot := { State.reset.boot with trial := b, next := some 1 } }
     s.pwr.on = true ∧ s.boot.awaits ≠ none ∧ s.boot.since + 31250000 ≤ s.aon ∧ s.boot.next = some 1 ∧ s.boot.trial = b ∧
       s.bootBank.1.boot.trial = !b) ∧
    (let s := State.reset.setF F.devBootFail 1
     s.pwr.on = true ∧ s.boot.awaits = some 0 ∧ s.fb F.devBootFail = true) ∧
    (off.pwr.on = false ∧ State.reset.boot.running = none ∧ State.reset.aon < State.reset.boot.since + 31250000) := by
  refine ⟨?_, badFuses_corrupt, ?_, ?_, ?_, ?_, ?_⟩ <;> decide +kernel

/-- A bank without an image does not boot; the other holds image `i`. -/
def oneBank (i : Option Image) : State :=
  { State.reset.setF F.otpStatusEffective 15 with boot := { State.reset.boot with bank0 := none, bank1 := i } }

theorem witness_BootsRun_banks (i : Option Image) : (oneBank i).showFuses.showSettings.bankImage 0 = none ∧
    (oneBank i).showFuses.showSettings.bankFault 0 ≠ 0 ∧ (oneBank i).showFuses.showSettings.bankImage 1 = i ∧
    (oneBank none).showFuses.showSettings.bankFault 1 ≠ 0 := by
  have h : (oneBank i).showFuses.showSettings.bankImage 0 = none := rfl
  have hn : (oneBank none).showFuses.showSettings.bankImage 1 = none := rfl
  refine ⟨h, ?_, rfl, ?_⟩ <;> simp only [State.bankFault, h, hn] <;> decide

/-! ### Witnesses: security -/

/-- The conditions of secOpen, as a test. -/
def secFree (s : State) : Bool := s.barReached && decide (s.pst_ ≠ 3) && !s.fb F.secCmdStatusBusy && !s.boot.stopped

theorem secOpen_of {s : State} (h : secFree s = true) : s.secOpen := by
  simp only [secFree, Bool.and_eq_true, decide_eq_true_eq, Bool.not_eq_true'] at h
  exact ⟨h.1.1.1, h.1.1.2, h.1.2, h.2⟩

/-- A device in lifecycle `lc` with debug level `g`, whose registers the host reaches. -/
def secured (lc g : Nat) : State := (act.setF F.secStatusLifecycle lc).setF F.secStatusDebug g
def afterCmd (k : Nat) (s : State) : State := s.setF F.secCmdStatusLastCmd k

theorem witness_FusesAreProgrammed :
    (∀ lc ∈ [0, 1, 2, 3], secFree (secured lc 0) = true ∧ (afterCmd 4 (secured lc 0)).f F.secStatusLifecycle = lc ∧
      (afterCmd 7 (secured lc 0)).f F.secStatusLifecycle = lc ∧ (afterCmd 5 (secured lc 0)).tokenFault 3 [0] ≠ 0) ∧
    (secFree (secured 1 0) = true ∧ (afterCmd 6 (secured 1 0)).mayScrubAll = true) ∧
    (secFree (secured 1 2) = true ∧ (afterCmd 6 (secured 1 2)).mayScrubAll = false) ∧
    (let s := (secured 1 0).setF F.secCmdStatusBusy 1
     s.barReached = true ∧ s.pst_ ≠ 3 ∧ s.fb F.secCmdStatusBusy = true) ∧
    ((afterCmd 4 (secured 2 0)).tokenFault 2 [3] ≠ 0 ∧ (afterCmd 7 (secured 1 0)).tokenFault 4 [0] ≠ 0) := by
  refine ⟨?_, ?_, ?_, ?_, ?_⟩ <;> decide +kernel

theorem witness_SecurityAndDebugCommands :
    (∀ lc ∈ [0, 1, 3], secFree (secured lc 0) = true ∧ (afterCmd 2 (secured lc 0)).f F.secStatusDebug = 0 ∧
      (afterCmd 2 (secured lc 0)).f F.secStatusLifecycle = lc ∧ (afterCmd 2 (secured lc 0)).looping = false ∧
      (afterCmd 2 (secured lc 0)).resident = false) ∧
    (let s := (secured 1 1).setF F.schLoopState 1
     secFree s = true ∧ (afterCmd 2 s).f F.secStatusDebug = 1 ∧ (afterCmd 2 s).f F.secStatusLifecycle = 1 ∧
       (afterCmd 2 s).looping = true) ∧
    (secFree (secured 2 0) = true ∧ (afterCmd 2 (secured 2 0)).f F.secStatusDebug = 0 ∧
      (afterCmd 2 (secured 2 0)).f F.secStatusLifecycle = 2 ∧ (afterCmd 2 (secured 2 0)).tokenFault 1 [1, 2] ≠ 0) ∧
    (let s : State := { act with boot := { act.boot with stopped := true } }
     s.barReached = true ∧ s.pst_ ≠ 3 ∧ s.fb F.secCmdStatusBusy = false ∧ s.boot.stopped = true) ∧
    (∀ g ∈ [0, 1, 2], (secured 1 g).pwr.on = true ∧ (secured 1 g).pst_ = 1 ∧ (secured 1 g).f F.secStatusDebug = g) ∧
    spaceTop 1 - 1 < spaceTop 1 ∧
    (off.pwr.on = false ∧ (secured 1 0).boot.stopped = false ∧ fieldsAt 0x10038 ≠ none ∧ fieldsAt 0xffff8 = none) ∧
    (let s := (secured 2 1).setF F.schLoopState 1
     secFree s = true ∧ (afterCmd 2 s).f F.secStatusLifecycle = 2 ∧ (afterCmd 2 s).f F.secStatusDebug = 1 ∧
       (afterCmd 2 s).looping = true) := by
  refine ⟨?_, ?_, ?_, ?_, ?_, ?_, ?_, ?_⟩ <;> decide +kernel

/-! ### Witnesses: the window, the link and the management buses -/

def cxlWith (f : Cxl → Cxl) (s : State) : State := { s with cxl := f s.cxl }
def windowed : State := ((act.setF F.cxlStatusWinCommitted 1).setF F.schDtBase 64).setF F.schDtCount 1
def pcie : State := act.setF F.cxlStatusMode 1

/-- The conditions of linkOpen, as a test. -/
def linkFree (s : State) : Bool := s.reachable && decide (s.pst_ ≠ 3)

theorem linkOpen_of {s : State} (h : linkFree s = true) : s.linkOpen := by
  simp only [linkFree, Bool.and_eq_true, decide_eq_true_eq] at h
  exact ⟨h.1, h.2⟩

theorem witness_WindowReachesMemory :
    (windowed.pcieMode = false ∧ windowed.fb F.cxlStatusWinCommitted = true ∧ linkFree windowed = true ∧
      windowed.barClosed = false ∧ windowed.cxl.cmRefused = false ∧ windowed.pst_ = 1 ∧ windowed.fb F.schCtrlRun = false ∧
      windowBytes - 8 + 8 ≤ windowBytes) ∧
    (let s := running_ windowed
     s.pcieMode = false ∧ s.fb F.cxlStatusWinCommitted = true ∧ linkFree s = true ∧ s.barClosed = false ∧
       s.cxl.cmRefused = false ∧ s.pst_ = 1 ∧ s.fb F.schCtrlRun = true ∧
       ∀ a ∈ [64, 127], s.inTable (s.f F.cxlWinBase * 2 ^ 30 + a) 1 = true) ∧
    (act.pcieMode = false ∧ act.fb F.cxlStatusWinCommitted = false ∧ isOpen act = true ∧ act.f F.cxlWinBase ≤ baseTop) ∧
    (pcie.pcieMode = true ∧ isOpen pcie = true ∧ windowBytes < windowBytes - 7 + 8 ∧ pcie.f F.cxlWinBase ≤ baseTop) ∧
    (let s := windowed.setF F.pwrStatusState 3
     s.pcieMode = false ∧ s.reachable = true ∧ s.barReached = true ∧ s.pst_ = 3 ∧ s.barClosed = false) ∧
    (let s := pcie.setF F.pwrStatusState 3
     s.pcieMode = true ∧ s.barReached = true ∧ s.pst_ = 3) ∧
    (let s : State := { act with boot := { act.boot with stopped := true } }
     s.pcieMode = false ∧ s.barReached = true ∧ s.pst_ ≠ 3 ∧ s.boot.stopped = true ∧ s.ideShut = false) ∧
    (State.reset.barReached = false ∧ State.reset.reachable = false) := by
  refine ⟨?_, ?_, ?_, ?_, ?_, ?_, ?_, ?_⟩ <;> decide +kernel

def write_ (again : Bool) : HostWrite := { tag := 5, again := again }
def writing (again : Bool) : State := cxlWith (fun x => { x with outs := [write_ again] }) act

theorem witness_LinkHostAndSessions_host :
    (∀ again ∈ [false, true], linkFree (writing again) = true ∧ (writing again).pwr.on = true ∧ (5 : Nat) % 4 = 1 ∧
      (writing again).cxl.outs.find? (fun w => w.tag == 5) = some (write_ again) ∧ (write_ again).again = again) ∧
    (linkFree act = true ∧ act.cxl.outs.find? (fun w => w.tag == 5) = none ∧ (7 : Nat) % 4 = 3) ∧
    (act.pcieMode = false) ∧
    (State.reset.pwr.on = true ∧ State.reset.pwr.perst = false ∧ State.reset.cxl.up = false ∧
      State.reset.resident = false) ∧
    (let s := up (st [copyOut])
     linkFree s = true ∧ (4 : Nat) % 4 = 0 ∧ s.instReads (4 / 4) = true) ∧
    (let s := up loops
     linkFree (s.modPup (fun p => { p with prod := 0 })) = true ∧ (ring 8192 128).ingestReads = true) ∧
    (let s := act.setF F.pwrStatusState 3
     s.reachable = true ∧ s.pst_ = 3 ∧ off.pwr.on = false) := by
  refine ⟨?_, ?_, ?_, ?_, ?_, ?_, ?_⟩ <;> decide +kernel

def secWith (f : Sec → Sec) (s : State) : State := { s with sec := f s.sec }
def inSession : State := secWith (fun x => { x with sessions := 1, identity := [1] }) act

theorem witness_LinkHostAndSessions_sessions :
    (∀ c ∈ [false, true], let s := act.setF (ideFld c) 1
     s.pwr.on = true ∧ s.cxl.up = true ∧ s.fb (ideFld c) = true) ∧
    (linkFree inSession = true ∧ inSession.sec.sessions ≠ 0 ∧ inSession.boot.stopped = false ∧
      inSession.f F.secStatusLifecycle ≠ 3 ∧ inSession.pcieMode = false ∧ inSession.sec.identity ≠ []) ∧
    (linkFree act = true ∧ act.sec.sessions = 0 ∧ act.boot.stopped = false ∧ act.sec.identity = []) ∧
    (linkFree faulted = true ∧ faulted.boot.stopped = true) := by
  refine ⟨?_, ?_, ?_, ?_⟩ <;> decide +kernel

theorem witness_DeviceAttests :
    (∀ k ∈ [0, 3], linkFree act = true ∧ act.boot.stopped = false ∧ (doeObjects[k]?).isSome = true) ∧
    (linkFree inSession = true ∧ inSession.boot.stopped = false ∧ inSession.sec.identity ≠ [] ∧ act.sec.identity = []) ∧
    (let s : State := { act with boot := { act.boot with stopped := true } }
     linkFree s = true ∧ s.boot.stopped = true) := by
  refine ⟨?_, ?_, ?_⟩ <;> decide +kernel

def updating : State := { act with boot := { act.boot with update := true } }
def noMagic : List Byte := leBytes 8 0

theorem witness_ManagementAndFirmware :
    (act.pwr.on = true ∧ act.boot.update = false ∧ act.staging = false ∧ updating.boot.update = true ∧
      updating.pwr.on = true ∧ updating.boot.stopped = false ∧ updating.looping = false) ∧
    (∀ k ∈ [0, 2, 5], (pldmCommands k).isSome = true) ∧ (∀ k ∈ [1, 3, 4, 6], pldmCommands k = none) ∧
    updating.imageFault (imageOf noMagic) true ≠ 0 ∧
    ((updating.setF F.schSvcStatusStaged 1).looping = false ∧
      (updating.setF F.schSvcStatusStaged 1).fb F.schSvcStatusStaged = true) ∧
    (updating.setF F.schLoopState 1).looping = true ∧
    ({ updating with boot := { updating.boot with stopped := true } } : State).boot.update = true ∧
    (halted_.modPup (fun p => { p with cmd := some { cmd := 6, space := 1, addr := 0, tag := 0, arg0 := 0, arg1 := 0 } })).pwr.on = true := by
  refine ⟨?_, ?_, ?_, badMagic ?_, ?_, ?_, ?_, ?_⟩ <;> decide +kernel

def resident_ : State := act.setF F.devReplayStatusState 1
def tables (n : Nat) (s : State) : State := { s with bel := { s.bel with queue := List.replicate n 4096 } }

theorem witness_ReplayRuns :
    (isOpen act = true ∧ act.f F.devReplayStatusState = 0 ∧ act.resident = false ∧ act.fb F.cxlStatusMode = false) ∧
    (let s := act.setF F.secStatusLifecycle 1
     s.f F.devReplayStatusState = 0 ∧ s.replayRefusal = 0) ∧
    (let s := act.setF F.secStatusDebug 2
     s.f F.devReplayStatusState = 0 ∧ s.replayRefusal ≠ 0) ∧
    (∀ n ∈ [0, 15, 16], isOpen (tables n resident_) = true ∧ (tables n resident_).legacyOpen = true ∧
      (tables n resident_).bel.queue.length = n ∧ (tables n resident_).bel.overrun < 2 ^ 64 - 1) ∧
    ((tables 1 resident_).bel.queue = [4096] ∧ (tables 1 resident_).resident = true ∧
      (tables 1 resident_).fb F.devBootReady = true ∧ (tables 1 resident_).pst_ < 2) ∧
    (resident_.bel.queue = [] ∧ pcie.fb F.cxlStatusMode = true) := by
  refine ⟨?_, ?_, ?_, ?_, ?_, ?_⟩ <;> decide +kernel

def evtWith (x : Evt) (s : State) : State := { s with evt := x }
def rec0 : RingRec := { seq := some 0, off := 0, bytes := leBytes 64 5 }

theorem witness_EventsAreRecorded :
    (let s := evtWith { front := [{ code := 2 }] } act
     s.pwr.on = true ∧ s.evt.front = [{ code := 2 }]) ∧
    (act.evt.front = []) ∧
    (let s := (evtWith { owed := true } act).setF F.evtIntEn 1
     s.pwr.on = true ∧ s.evt.owed = true ∧ s.holdoffOver = true ∧ s.fb F.evtIntEn = true ∧ act.evt.owed = false) ∧
    (let s := evtWith { ring := { recs := [rec0], head := 64, next := 1 } } act
     s.fb F.devBootReady = true ∧ s.pwr.selfRefresh = false ∧ s.pst_ ≠ 3 ∧ s.nextCopy = some rec0) ∧
    (let s := evtWith { dropped := 3 } act
     s.pwr.on = true ∧ s.evt.dropped ≠ 0 ∧ s.evt.front.length < 256) ∧
    (∀ t ∈ [3124999, 3125000], let s : State := { act with aon := t }
     s.pwr.on = true ∧ (s.evt.window < s.aon / 3125000 ↔ t = 3125000)) := by
  refine ⟨?_, ?_, ?_, ?_, ?_, ?_⟩ <;> decide +kernel

/-! ### Witnesses: values, frames and invariants -/

theorem witness_PackedElementsReadInOrder : (∀ f ∈ [0x11, 0xf, 0x10], fmtPacked f = true ∧ (vec f 0 8).loc ≤ 2 ∧
    8 / fmtBits f - 1 < 8 / fmtBits f) := by decide +kernel

theorem witness_SumsStayInRange : (List.replicate 16384 Val.nan).length ≤ 16384 ∧
    ((buckets 4 0 [holding true]).groupSum (holding true) 0).ov = true ∧
    ((buckets 4 0 [holding false]).groupSum (holding false) 0).ov = false := by
  refine ⟨Nat.le_of_eq List.length_replicate, ?_, ?_⟩ <;> decide +kernel

theorem witness_TreesAgree :
    (let s := job 4 1 State.reset
     let u := job 4 3 State.reset
     s.n = u.n ∧ s.me < s.n ∧ u.me < u.n ∧ u.me ∈ s.childrenIn 0 ∧ u.parentIn 0 = some s.me) ∧
    (let s := job 4 2 State.reset
     s.me < s.n ∧ s.owns 6 = true ∧ s.parentIn 7 = some 0) ∧
    (let s := job 1 0 State.reset
     s.n = 1 ∧ s.me = 0) := by
  refine ⟨?_, ?_, ?_⟩ <;> decide +kernel

theorem witness_DigestIgnoresOrder : (List.range mid.load.params).reverse.Perm (List.range mid.load.params) :=
  List.reverse_perm _

theorem witness_QuietCommandsStoreNothing : quiet (.doorbell 0 5) = true ∧ quiet (.ctlNop 1) = true ∧
    exec (.ctlNop 1) State.reset = .next State.reset ∧ isOpen (belled 0 0) = true := by
  refine ⟨rfl, rfl, rfl, ?_⟩
  decide +kernel

theorem witness_FusesNeverUnblown : goesOn (State.reset.setPending [.chainClose 1]) State.reset := rfl

theorem witness_MemoryStaysCanonical : (State.reset.setPending [.chainClose 1]).memOk = true ∧
    goesOn (State.reset.setPending [.chainClose 1]) State.reset := ⟨rfl, rfl⟩

/-- Blocks that travel: a full block of 40-bit sums with the least and the greatest, a message of greatest fields, and bulk data. -/
def redOut : RedBlock := { kind := 2, ov := true, eb := 255, pk := 255, attempt := 15, bucket := 65535, step := 2 ^ 32 - 1,
                           first := 48 * 300000, body := -(2 ^ 39) :: List.replicate 47 (2 ^ 39 - 1) }
def msgOut : CtlMsg := { type := 12, reason := 255, step := 2 ^ 32 - 1, origin := 65535, digest := List.replicate 4 (2 ^ 64 - 1) }

theorem witness_WireFormatsRoundTrip : redOut.wf = true ∧ redOut.body[47]? = some (2 ^ 39 - 1) ∧ msgOut.wf = true ∧
    (∀ st off data, (bulkOf 240).pay = .bulk st off data → data.length ≤ 240) := by
  refine ⟨by decide +kernel, by decide +kernel, by decide +kernel, ?_⟩
  intro st off data h
  rw [show (bulkOf 240).pay = .bulk 0 0 (List.replicate 240 5) from rfl] at h
  injection h with _ _ h
  rw [← h, List.length_replicate]

theorem witness_IntegerFormatsReadBack : (0xb, 8) ∈ [(0xb, 8), (0xa, 16), (0x9, 32), (0xf, 4)] ∧
    (0x8, 40) ∈ [(0x7, 26), (0x8, 40)] ∧ (25 < 26 ∧ 31 < 32) := by decide

/-! ### Ill-formed commands -/

def badMsgs : List CtlMsg := [
  { type := 256 }, { reason := 256 }, { mon := 4 }, { policy := 4 }, { replays := 256 }, { step := 2 ^ 32 },
  { bcstep := 2 ^ 32 }, { version := 2 ^ 32 }, { origin := 65536 }, { count := 65536 }, { subject := 65536 },
  { detail := 2 ^ 32 }, { ckpt := 2 ^ 32 }, { digest := [0, 0, 0] }, { digest := [0, 0, 0, 2 ^ 64] }]
def badReds : List RedBlock := [
  { kind := 16 }, { eb := 256 }, { pk := 256 }, { attempt := 16 }, { bucket := 65536 }, { step := 2 ^ 32 },
  { first := 2 ^ 24 }, { body := [0] }, { kind := 1 }, { kind := 1, body := List.replicate 73 0 }, { kind := 1, first := 71, body := [0] },
  { kind := 1, body := [2 ^ 25] }, { kind := 2, body := List.replicate 49 0 }, { kind := 2, body := [-(2 ^ 39) - 1] },
  { kind := 3, body := List.replicate 121 0 }, { kind := 3, body := [-1] }, { kind := 3, body := [65536] }]
def badBlocks : List LinkBlock := [
  { btype := 16 }, { tc := 4 }, { hops := 256 }, { seq := 4096 }, { ack := 4096 }, { cr0 := 16 }, { cr1 := 64 },
  { cr2 := 64 }, { dest := 2 ^ 32 }, { src := 2 ^ 32 }]

theorem test_ill_formed_messages : badMsgs.all (fun m => !CtlMsg.wf m && !Instr.wf (.commit m) && !Instr.wf (.ready 0 m) &&
    !Instr.wf (.table m)) && CtlMsg.wf {} = true := by decide +kernel

theorem test_ill_formed_blocks : badReds.all (fun b => !RedBlock.wf b && !Instr.wf (.down b) && !Instr.wf (.up26 0 b)) &&
    badBlocks.all (fun b => !LinkBlock.wf b && !Instr.wf (.nak 0 b) && !Instr.wf (.idle 11 b)) &&
    RedBlock.wf {} && LinkBlock.wf {} && RedBlock.wf { kind := 3, first := 120, body := List.replicate 120 65535 } = true := by decide +kernel

theorem test_ill_formed_commands : ([
    .movCopy 1 { fails := 0, bad := some (0, 0) }, .valPush 1 { fails := 0, bad := some (1, 0) }, .recordAdmission 64, .chainClose 64,
    .gridItem 1 256 true, .arrayArbitration 12288 (reread 0) (reread 0), .arrayArbitration 0 [] (reread 0),
    .arrayArbitration 0 (reread 0) (reread 64), .arrayArbitration 0 (List.replicate 4 (List.replicate 257 0)) (reread 0),
    .doorbell 64 0, .doorbell 0 (2 ^ 64), .ingestWake (2 ^ 64),
    .queueCfg 64 0, .cqCfg 0 (2 ^ 64), .cqHead 0 65536, .cqHead 64 0, .quotaWrite true (2 ^ 64), .linfoWrite (2 ^ 64),
    .registerWrite 6 0 8 none, .registerWrite 0 (2 ^ 36) 8 none, .registerWrite 0 0 0 none, .registerWrite 0 0 9 none,
    .registerWrite 0 0 4 (some (2 ^ 32)), .evtRate (2 ^ 64), .msixUnmask 2048, .loopStart (2 ^ 64), .heartbeatMiss 17408,
    .groupSend 65536, .updateGroup 65536, .blockSend 12, .linkTraining 0 16 true 0 0, .linkTraining 0 0 true (2 ^ 32) 0,
    .linkTraining 0 0 true 0 (2 ^ 64), .calibrationDue 12288, .calibration 0 [[List.replicate 25 0]],
    .calibration 0 [[List.replicate 26 64]], .calibration 0 [[List.replicate 26 (-65)]], .levelCrossingStart 4096,
    .rowWrite 0 [260], .patrolScrub 63 .clean, .thermalSample [] 0, .thermalSample (List.replicate 192 0) 32768,
    .thermalSample (List.replicate 192 (-32769)) 0, .boot true ⟨32768, []⟩, .boot true ⟨0, [(12288, [])]⟩, .boot true ⟨0, [(0, [[[64]]])]⟩, .rollbackAdvance (some 16384), .debugReq 256,
    .lifecycle 256 none, .lifecycle 1 (some 16384), .keyRotate (some 16384), .secBadCmd (2 ^ 64), .challenge 0 [],
    .getMeasurements [], .attestationReport [], .setEndpointId 256, .getMctpVersionSupport 256, .getPldmVersion 256,
    .getPldmCommands 256, .devReset (2 ^ 64), .tileReset (2 ^ 64), .inputOutOfRange (2 ^ 64) 0] : List Instr).all
    (fun i => !i.wf) = true := by decide +kernel

/-! ### Worked examples of the spec -/

/-- The outcome of one command, as a test of its next state. -/
def after (c : Instr) (s : State) (p : State → Bool) : Bool := isNext (exec c s) p

/-- The bytes of the example record (spec/10). -/
def exampleRecord : List Byte :=
  [0x02, 0x30, 0x09, 0x00, 0x01, 0x01, 0x02, 0x01, 0x03, 0x02, 0x02, 0x02, 0xff, 0xff, 0xff, 0xff,
   0x00, 0x00, 0x00, 0x3f, 0, 0, 0, 0, 0, 0, 0, 0, 0, 0, 0, 0]

def exampleFields : Rec :=
  { opcode := 2, iclass := 3, flags := 9, wait := 0x101, signal := 0x102, h0 := 0x203, h1 := 0x202, imm1 := 0x3f000000 }

theorem test_record_fields : Rec.ofBytes exampleRecord = exampleFields ∧
    (Rec.ofBytes exampleRecord).bytes = exampleRecord := by decide +kernel

/-- A gradient into I26: 5 × 2 ^ -9 under exponent 120 saturates (spec/02). -/
theorem test_gradient_saturates : toI26 .rne 120 (.fin (5 / 512)) = { val := 0x1ffffff, sat := 1 } := by decide +kernel

/-- Five F32 values into a block of A8: 3.3, -0.71875 and ties to even (spec/02). -/
def cvtIns : Inst :=
  ins 0x3012 [(0, { vec 2 8192 16 with block := 0, expOff := 4096, expStride := [1, 1, 1, 1] }), (1, vec 0 4096 16)]
def cvtState : State :=
  (st [cvtIns]).wrBytes 1 4096 ([0x40533333, 0xbf380000, 0x3c800000, 0x3d400000, 0x3da00000].flatMap (leBytes 4))

theorem test_block_conversion : after (.vecCvt 1) cvtState (fun t => t.rdBytes 1 8192 6 == [0x6a, 0xe9, 0, 2, 2, 0] &&
    t.rd 1 (8192 + 4096) == 0x7a) = true := by decide +kernel

/-- Ranks 100 and 10 in the tree of bucket 37 over 1,024 ranks (spec/08). -/
theorem test_tree : (job 1024 100 State.reset).parentIn 37 = some 68 ∧
    (job 1024 100 State.reset).childrenIn 37 = [164, 165] ∧ (job 1024 10 State.reset).parentIn 37 = some 535 ∧
    (job 1024 10 State.reset).childrenIn 37 = [] := by decide +kernel

/-- The entry of the example: MOMENTUM. -/
def momentum : UpdEntry :=
  { rule := 1, valid := true, mask := false, kauto := true, handle := 0, k := 4, silent := 0, base := 0, eta := .fin (1 / 1024)
    lambda := .fin 0, beta1 := .fin (7 / 8), beta2 := .fin 0, mu := .fin (1 / 1024), count := 1 }

/-- One element under MOMENTUM (spec/08): the random bits carry, and the master stays. -/
theorem test_update : let u := momentum
    (updateElem u 111 (3 * 2 ^ 31) 0x3f00 0x3d80 4 200 0x4c21).w = 0x3f00 ∧
    (updateElem u 111 (3 * 2 ^ 31) 0x3f00 0x3d80 4 200 0x4c21).m = 0x3d60 ∧
    (updateElem u 111 (3 * 2 ^ 31) 0x3f00 0x3d80 4 200 0x006f).w = 0x3eff := by decide +kernel

/-- The codes of the two row groups, and the output that they give (spec/04). -/
def exCode (b j : Nat) : Int := (([[20, 44, 63, -18], [0, 4, -11, 5]] : List (List Int)).getD b []).getD j 0
def exVector : FwdIn :=
  { exps := [0x7a, 0x77], mant := (List.range 256).map (fun i => if i = 5 then 24 else if i = 130 then 1 else 0) }

theorem test_periphery : [130, 88, 41, 7, 0].map (fun S => heldCode (rawCode S 1)) = [63, 44, 20, 4, 0] ∧
    isClip (rawCode 130 1) = true ∧
    exVector.output 1 (3 / 128) exCode [(5, -7 / 256)] = .fin (33 / 1024) := by decide +kernel

/-- A column of a replay MAC wraps at 20 bits, and -54.5 rounds away from zero (spec/19). -/
theorem test_replay_mac : macColumn 7 0 (fun g => nth [250000, 200000, 152112, 9] g) = -446464 ∧
    roundAway (-446464) 13 = -55 := by decide +kernel

/-- Four U2 elements of the byte 0x1b become bytes, and five I16 values become nibbles of which two saturate (spec/07). -/
def unpackIns : Inst := ins 0x2000 [(0, vec 0xe 8192 4), (1, vec 0x11 4096 4)]
def narrowIns : Inst := ins 0x2000 [(0, vec 0xf 8192 5), (1, vec 0xa 4096 5)]
def narrowState : State := ((st [narrowIns]).wrBytes 1 4096 [5, 0, 0xf7, 0xff, 7, 0, 0xf8, 0xff, 100, 0]).wr 1 8194 0xa0

theorem test_unpack : after (.movCopy 1 {}) ((st [unpackIns]).wr 1 4096 0x1b)
    (fun t => t.rdBytes 1 8192 4 == [3, 2, 1, 0]) = true := by decide +kernel

theorem test_narrow : after (.movCopy 1 {}) narrowState (fun t => t.rdBytes 1 8192 3 == [0x85, 0x87, 0xa7] &&
    (t.inst 1).all (fun i => i.sat == 2)) = true := by decide +kernel

/-- TOPK with k = 2 over the scores of a token: ties keep their order, and NaN ranks above (spec/07). -/
def topkIns : Inst := ins 0x3025 [(0, vec 0 8192 2), (1, vec 0 4096 4), (3, vec 0xc 12288 2)] { imm1 := 2 }
def scored (l : List Nat) : State := (st [topkIns]).wrBytes 1 4096 (l.flatMap (leBytes 4))
def places (l : List Nat) (p : List Nat) : Bool :=
  after (.vecTopk 1) (scored l) (fun t => t.rdBytes 1 12288 8 == p.flatMap (leBytes 4))

theorem test_topk : places [0x3f000000, 0x40000000, 0x40000000, 0xbf800000] [1, 2] = true ∧
    places [0, 0x80000000, 0xc0400000, 0x80000000] [0, 1] = true ∧
    places [0x3f800000, 0x7fc00000, 0x40800000, 0x40400000] [1, 2] = true ∧
    places [0x3e800000, 0x40400000, 0xc0000000, 0x40400000] [1, 3] = true :=
  ⟨by decide +kernel, by decide +kernel, by decide +kernel, by decide +kernel⟩

/-! ### Single steps, worked out by hand -/

def addState (op : Nat) (a b : Nat) : State := ((st [vecIns op]).wrNat 1 2048 4 a).wrNat 1 3072 4 b

/-- 1 + 2 in F32; a sum of I32 saturates nowhere, since AND takes bits. -/
theorem test_add : after (.vecAdd 1) (addState 0 0x3f800000 0x40000000) (fun t => t.rdNat 1 1024 4 == 0x40400000) = true := by
  decide +kernel

theorem test_and : after (.vecAnd 1) (addState 8 0xff00ff00 0x0ff00ff0) (fun t => t.rdNat 1 1024 4 == 0x0f000f00) = true := by
  decide +kernel

/-- A doorbell moves TAIL, and one that would pass HEAD is a violation and moves nothing (R60). -/
theorem test_doorbell : after (.doorbell 0 3) (belled 0 0) (fun t => t.f (F.schQPtrTail 0) == 3) = true ∧
    after (.doorbell 0 5) (belled 5 4) (fun t => t.f (F.schQPtrTail 0) == 4) = true :=
  ⟨by decide +kernel, by decide +kernel⟩

/-- A join of two set tokens clears both and ends with OK. -/
theorem test_join : after (.ctlJoin 1) (joined .set .set) (fun t => (t.inst 1).all (fun i => i.status == stOk)) = true := by
  decide +kernel

end Sys2Proof.Machine.T
end

section
/-! No command stops the machine (R4, R352): each command of the table answers a next state, and so does every step. The
rows of the instructions, of the accesses and of the management requests answer through the operation that they share; a
row with a meaning of its own answers in each of its cases. -/

namespace Sys2Proof.Machine

/-- An outcome that is a next state, and neither a fault nor a refusal. -/
def Answers (o : Host.Outcome State Fault Refusal) : Prop := ∃ t : State, o = .next t

/-! ### The shapes of an answer -/

theorem answers_next (t : State) : Answers (.next t) := ⟨t, rfl⟩

theorem answers_ite {c : Prop} [Decidable c] {a b : Host.Outcome State Fault Refusal} (ha : Answers a) (hb : Answers b) :
    Answers (if c then a else b) := by split <;> assumption

/-- A command that is turned away under one condition and has its effect otherwise. -/
theorem answers_guard {c : Prop} [Decidable c] (s t : State) :
    Answers (if c then .next s else .next t) := answers_ite (answers_next s) (answers_next t)

/-! ### The shared operations -/

theorem startVec_answers (s : State) (op id : Nat) : Answers (s.startVec op id) := by
  unfold State.startVec
  split
  · exact answers_next _
  · exact answers_ite (answers_guard _ _) (startIf_next _ _ _ _ _)

theorem configAccess_answers (s : State) (c : Instr) (run : State → State) : Answers (s.configAccess c run) :=
  answers_ite (answers_next _) (answers_guard _ _)

/-! ### The scheduler and the grids -/

theorem execChainClose_answers (q : Nat) (s : State) : Answers (execChainClose q s) := by
  unfold execChainClose
  split
  · exact answers_next _
  · split
    · exact answers_next _
    · exact answers_guard _ _

theorem execInstructionCompletion_answers (id : Nat) (s : State) : Answers (execInstructionCompletion id s) := by
  unfold execInstructionCompletion
  split
  · exact answers_next _
  · exact answers_ite (answers_next _) (answers_ite (answers_next _) (answers_ite (answers_next _) (answers_guard _ _)))

theorem execStall_answers (s : State) : Answers (execStall s) := by
  unfold execStall
  split
  · exact answers_next _
  · exact answers_guard _ _

theorem execGridItem_answers (id g : Nat) (agree : Bool) (s : State) : Answers (execGridItem id g agree s) := by
  dsimp only [execGridItem]
  split
  · exact answers_next _
  · split
    · exact answers_next _
    · exact answers_guard _ _

theorem execFtqPost_answers (s : State) : Answers (execFtqPost s) := by
  unfold execFtqPost
  split <;> exact answers_next _

theorem execDigitalArbitration_answers (k : UnitKind) (n id : Nat) (v : ArbVerdict) (s : State) :
    Answers (execDigitalArbitration k n id v s) := by
  refine answers_ite (answers_next _) ?_
  cases v <;> exact answers_next _

theorem execPartFailure_answers (id unit : Nat) (s : State) : Answers (execPartFailure id unit s) := by
  unfold execPartFailure
  split
  · exact answers_next _
  · exact answers_ite (answers_next _) (answers_guard _ _)

/-! ### The arrays -/

theorem execRowWrite_answers (tile : Nat) (failed : List Nat) (s : State) : Answers (execRowWrite tile failed s) := by
  dsimp only [execRowWrite]
  split
  · exact answers_next _
  · refine answers_ite (answers_next _) ?_
    split
    · exact answers_next _
    · refine answers_ite (answers_next _) ?_
      split <;> exact answers_next _

theorem execLevelCrossingStart_answers (layer : Nat) (s : State) : Answers (execLevelCrossingStart layer s) := by
  unfold execLevelCrossingStart
  split
  · exact answers_next _
  · exact answers_ite (answers_next _) (answers_ite (answers_guard _ _) (answers_guard _ _))

theorem execSuspectReprogram_answers (tile : Nat) (s : State) : Answers (execSuspectReprogram tile s) := by
  dsimp only [execSuspectReprogram]
  split
  · exact answers_next _
  · refine answers_ite (answers_next _) (answers_ite (answers_next _)
      (answers_ite (answers_next _) (answers_ite ?_ (answers_next _))))
    split <;> exact answers_next _

theorem execArrayArbitration_answers (tile : Nat) (low high : List (List Int)) (s : State) :
    Answers (execArrayArbitration tile low high s) := by
  unfold execArrayArbitration
  split
  · exact answers_next _
  · dsimp only
    split
    · exact answers_next _
    · exact answers_ite (answers_next _) (answers_ite (answers_next _) (answers_guard _ _))

/-! ### The reduction and the checkpoints -/

theorem execBucketRelease_answers (id : Nat) (s : State) : Answers (execBucketRelease id s) := by
  unfold execBucketRelease
  split
  · exact answers_next _
  · exact answers_ite (answers_next _) (answers_guard _ _)

theorem execGroupSend_answers (b : Nat) (s : State) : Answers (execGroupSend b s) := by
  unfold execGroupSend
  split
  · exact answers_next _
  · refine answers_ite (answers_next _) ?_
    dsimp only
    split <;> exact answers_next _

theorem execUpdateGroup_answers (b : Nat) (s : State) : Answers (execUpdateGroup b s) := by
  unfold execUpdateGroup
  split
  · exact answers_next _
  · exact answers_ite (answers_next _) (answers_ite (answers_next _) (answers_guard _ _))

theorem execBucketEntry_answers (s : State) : Answers (execBucketEntry s) := by
  unfold execBucketEntry
  split
  · exact answers_next _
  · exact answers_guard _ _

theorem execCheckpointConfirm_answers (s : State) : Answers (execCheckpointConfirm s) := by
  unfold execCheckpointConfirm
  split
  · exact answers_next _
  · exact answers_guard _ _

/-! ### The pass -/

theorem execFail_answers (from_ : Nat) (m : CtlMsg) (s : State) : Answers (execFail from_ m s) := by
  refine answers_ite ?_ (answers_guard _ _)
  split
  · exact answers_next _
  · exact answers_guard _ _

theorem execRollbackComplete_answers (s : State) : Answers (execRollbackComplete s) := by
  refine answers_ite (answers_next _) ?_
  split <;> exact answers_next _

theorem execTakeover_answers (from_ : Nat) (m : CtlMsg) (s : State) : Answers (execTakeover from_ m s) := by
  refine answers_ite (answers_next _) (answers_ite ?_ (answers_guard _ _))
  split <;> exact answers_next _

theorem execJoin_answers (from_ : Nat) (m : CtlMsg) (s : State) : Answers (execJoin from_ m s) := by
  refine answers_ite (answers_next _) (answers_ite ?_ (answers_guard _ _))
  split <;> exact answers_next _

/-! ### The fabric -/

theorem execIdent_answers (p : Nat) (b : LinkBlock) (s : State) : Answers (execIdent p b s) := by
  unfold execIdent
  split
  case h_1 => exact answers_ite (answers_next _) (answers_ite (answers_next _) (answers_guard _ _))
  all_goals exact answers_next _

theorem execBlockSend_answers (p : Nat) (s : State) : Answers (execBlockSend p s) := by
  refine answers_ite (answers_next _) ?_
  dsimp only
  split <;> exact answers_next _

theorem execBlockForward_answers (p : Nat) (s : State) : Answers (execBlockForward p s) := by
  unfold execBlockForward
  split
  · exact answers_next _
  · refine answers_ite (answers_next _) ?_
    split <;> exact answers_next _

theorem execAckTimeout_answers (p : Nat) (s : State) : Answers (execAckTimeout p s) := by
  dsimp only [execAckTimeout]
  split
  · exact answers_next _
  · exact answers_guard _ _

/-! ### The loop and the ingest -/

theorem execLoopLaunch_answers (s : State) : Answers (execLoopLaunch s) := by
  refine answers_ite (answers_next _) (answers_ite (answers_next _) (answers_ite (answers_next _) ?_))
  split
  · exact answers_next _
  · split <;> exact answers_next _
  · refine answers_ite (answers_next _) ?_
    split <;> exact answers_next _

theorem execIngestTake_answers (o : HostOutcome) (s : State) : Answers (execIngestTake o s) := by
  refine answers_ite (answers_next _) ?_
  split
  · exact answers_next _
  · exact answers_ite (answers_next _) (answers_guard _ _)

theorem execBatchPresent_answers (o : HostOutcome) (s : State) : Answers (execBatchPresent o s) := by
  unfold execBatchPresent
  split
  · exact answers_next _
  · exact answers_ite (answers_next _) (answers_guard _ _)

theorem execIngestStall_answers (s : State) : Answers (execIngestStall s) := by
  unfold execIngestStall
  split
  · exact answers_next _
  · exact answers_guard _ _

theorem execValleyPrefetch_answers (s : State) : Answers (execValleyPrefetch s) := by
  refine answers_ite (answers_next _) ?_
  split
  · exact answers_next _
  · dsimp only
    split
    · exact answers_next _
    · split
      · exact answers_next _
      · exact answers_guard _ _

theorem execPageTransferDone_answers (page : Nat) (s : State) : Answers (execPageTransferDone page s) := by
  unfold execPageTransferDone
  split <;> exact answers_next _

/-! ### Power, boot and the recorder -/

theorem execThrottleRelease_answers (s : State) : Answers (execThrottleRelease s) := by
  unfold execThrottleRelease
  split
  · exact answers_next _
  · exact answers_guard _ _

theorem execBoot_answers (selfTest : Bool) (r : BootReads) (s : State) : Answers (execBoot selfTest r s) := by
  unfold execBoot
  split
  · exact answers_next _
  · exact answers_guard _ _

theorem execRollbackAdvance_answers (stuck : Option Nat) (s : State) : Answers (execRollbackAdvance stuck s) := by
  unfold execRollbackAdvance
  split
  · exact answers_next _
  · refine answers_ite (answers_next _) ?_
    dsimp only
    split
    · exact answers_guard _ _
    · exact answers_next _

theorem execEventRecord_answers (s : State) : Answers (execEventRecord s) := by
  refine answers_ite (answers_next _) ?_
  split <;> exact answers_next _

theorem execExtensionCopy_answers (s : State) : Answers (execExtensionCopy s) := by
  refine answers_ite (answers_next _) ?_
  split <;> exact answers_next _

theorem execPatrolScrub_answers (addr : Nat) (o : EccOutcome) (s : State) : Answers (execPatrolScrub addr o s) := by
  refine answers_ite (answers_next _) ?_
  cases o <;> exact answers_next _

/-! ### The host, the debug port and the replay -/

theorem execKernelTable_answers (s : State) : Answers (execKernelTable s) := by
  unfold execKernelTable
  split
  · exact answers_next _
  · exact answers_guard _ _

theorem execHostAccessTimeout_answers (tag : Nat) (s : State) : Answers (execHostAccessTimeout tag s) := by
  refine answers_ite (answers_next _) ?_
  split <;> exact answers_next _

theorem execWindowAccess_answers (addr len : Nat) (data : Option (List Byte)) (s : State) :
    Answers (execWindowAccess addr len data s) :=
  answers_ite (answers_ite (answers_next _) (hostAccess_next _ _ _ _))
    (answers_ite (answers_next _) (configAccess_answers _ _ _))

theorem barWrite_answers (bar off bytes v : Nat) (s : State) : Answers (barWrite bar off bytes v s) := by
  have access (c : Instr) (sec : Bool) (run : State → State) : Answers (s.hostAccess c sec run) :=
    hostAccess_next s c sec run
  have bar2 : Answers (bar2Write off bytes v s) :=
    answers_ite (access _ _ _) (answers_ite (access _ _ _) (answers_ite (access _ _ _) (access _ _ _)))
  exact answers_ite (access _ _ _)
    (answers_ite bar2 (answers_ite (answers_ite (access _ _ _) (access _ _ _)) (access _ _ _)))

theorem execRegisterWrite_answers (bar off bytes : Nat) (v : Option Nat) (s : State) :
    Answers (execRegisterWrite bar off bytes v s) := by
  cases v with
  | none => exact hostAccess_next _ _ _ _
  | some v => exact barWrite_answers _ _ _ _ _

theorem execDapAccess_answers (op : DapOp) (s : State) : Answers (execDapAccess op s) := by
  refine answers_ite (answers_next _) ?_
  split
  · exact answers_next _
  · exact answers_guard _ _

/-! ### Every command -/

/-- A command other than DEEP_EXIT, which runs the commands of the wake latch, answers a next state. -/
theorem exec_answers_of_ne_deepExit {c : Instr} (hc : ∀ w, c ≠ .deepExit w) (s : State) : Answers (exec c s) := by
  cases c with
  -- an instruction starts, or waits, or ends with what it failed on
  | ctlNop | ctlTset | ctlTclr | ctlMark | memAlloc | memQuota | memFill | movCopy | valPush | valPop | valDrop
  | arrPlace | arrFallback | arrCalib | grdFwd | grdDx | grdDw | rowNorm | rowNormb | rowSmax | rowSmaxb | rowLse
  | rowLseb | colBucket | colPass | colUpdcfg | colAvgreset
  | ctlJoin | ctlFence | memFree | memDset | movList | arrProgram | arrRelease | arrFwd | arrLread | svcSeed | svcCkpt
  | svcScrub | svcRecord => exact startIf_next _ _ _ _ _
  | vecAdd | vecSub | vecMul | vecFma | vecMin | vecMax | vecAbs | vecNeg | vecAnd | vecOr | vecXor | vecNot | vecShl
  | vecShr | vecSar | vecCmp | vecSel | vecFunc | vecCvt | vecGather | vecScatadd | vecSegsum | vecSegmax | vecSort
  | vecTopk | vecHist => exact startVec_answers _ _ _
  -- an access reaches the device, or is turned away, held or a violation
  | doorbell | ingestWake | stepLaunch | tokenClearAll | run | queueCfg | cqCfg | cqHead | quotaWrite | linfoWrite
  | forceProbe | qclear | headSeqRead | evtRate | msixUnmask | programLoad | retrain | unquarantine | portEnable
  | routeLoad | requestIdle | requestDoze | requestDeep | tileReset | nonce | debugReq | debugRel | lifecycle | keyRotate
  | scrubAll | features | secBadCmd | replayEnter | replayExit
  | loopStart | loopStop | loopRestart | restoreHost | ckptNow | fwStage | fwActivate | serviceBadCmd =>
    exact hostAccess_next _ _ _ _
  | submit | decoderCommit | devReset | serviceReset => exact answers_ite (answers_next _) (hostAccess_next _ _ _ _)
  | cacheResponse | ideKm | doeDiscovery | cdatTableAccess | getCertificate | challenge | getMeasurements
  | attestationReport | busMasterEnable | memorySpaceEnable | spdmSessionStart | spdmSessionEnd =>
    exact configAccess_answers _ _ _
  -- an effect without a condition
  | digestCompute | up26 | up40 | probeUp | probeDown | retry | down | end_ | fence | bulkData | nak | creditSync | idle
  | fecUncorrectable | blockCrcFail | lossOfLock | pwrEnLow | inputPowerRemoved => exact answers_next _
  -- a management request has its answer while the power is on
  | setEndpointId | getEndpointId | getMctpVersionSupport | getMessageTypeSupport | getTid | getPldmVersion | getPldmTypes
  | getPldmCommands | getPdr | getSensorReading | getStateSensorReadings | requestUpdate | firmwareTransfer
  | activateFirmware => exact answers_guard _ _
  -- an effect under one condition, or under several in turn
  | wearWarn | wearRetire | calibrationDue | digestDown | digestUp | ready | clear | heartbeatSend | heartbeat
  | heartbeatMiss | failnote | joined | table | violationLimit | resendLimit | trainingRetry | settleExpiry | d3hotEntry
  | d0Return | dozeExit | hbmSelfRefreshReturn | unitSleep | ideIntegrityFail | cxlLinkUp | hbmRowRepair
  | puppeteerWatchdog | perstDeassert | hotReset | pwrEnHigh | inputPowerApplied | inputOutOfRange | powerGood | coldRstN
  | thermalTrip | entropyHealthFail | interruptHoldoff | evtLost | suppressionWindow => exact answers_guard _ _
  | recordAdmission | calibration | ingestPoll | thermalSample | perstAssert | bootWatchdog =>
    exact answers_ite (answers_next _) (answers_guard _ _)
  | dozeEntry | deepEntry => exact answers_ite (answers_next _) (answers_ite (answers_next _) (answers_guard _ _))
  | readySend =>
    exact answers_ite (answers_next _) (answers_ite (answers_next _) (answers_ite (answers_next _) (answers_guard _ _)))
  | veto | resume | rollback => exact answers_ite (answers_next _) (answers_ite (answers_guard _ _) (answers_next _))
  | commit =>
    exact answers_ite (answers_next _)
      (answers_ite (answers_next _) (answers_ite (answers_guard _ _) (answers_guard _ _)))
  | linkTraining =>
    exact answers_ite (answers_next _) (answers_ite (answers_guard _ _) (answers_ite (answers_next _)
      (answers_ite (answers_next _) (answers_guard _ _))))
  | unitWake => exact answers_ite (answers_next _) (answers_ite (answers_guard _ _) (answers_next _))
  -- an effect that depends on what the state holds
  | chainClose => exact execChainClose_answers _ _
  | instructionCompletion => exact execInstructionCompletion_answers _ _
  | stall => exact execStall_answers _
  | gridItem id grid agree => exact execGridItem_answers id grid agree s
  | digitalArbitration => exact execDigitalArbitration_answers _ _ _ _ _
  | arrayArbitration => exact execArrayArbitration_answers _ _ _ _
  | partFailure => exact execPartFailure_answers _ _ _
  | ftqPost => exact execFtqPost_answers _
  | valleyPrefetch => exact execValleyPrefetch_answers _
  | pageTransferDone => exact execPageTransferDone_answers _ _
  | registerWrite => exact execRegisterWrite_answers _ _ _ _ _
  | loopLaunch => exact execLoopLaunch_answers _
  | ingestTake => exact execIngestTake_answers _ _
  | batchPresent => exact execBatchPresent_answers _ _
  | ingestStall => exact execIngestStall_answers _
  | fail => exact execFail_answers _ _ _
  | rollbackComplete => exact execRollbackComplete_answers _
  | takeover => exact execTakeover_answers _ _ _
  | checkpointConfirm => exact execCheckpointConfirm_answers _
  | join => exact execJoin_answers _ _ _
  | bucketRelease => exact execBucketRelease_answers _ _
  | bucketEntry => exact execBucketEntry_answers _
  | groupSend => exact execGroupSend_answers _ _
  | updateGroup => exact execUpdateGroup_answers _ _
  | ident => exact execIdent_answers _ _ _
  | blockSend => exact execBlockSend_answers _ _
  | blockForward => exact execBlockForward_answers _ _
  | ackTimeout => exact execAckTimeout_answers _ _
  | levelCrossingStart => exact execLevelCrossingStart_answers _ _
  | rowWrite => exact execRowWrite_answers _ _ _
  | suspectReprogram => exact execSuspectReprogram_answers _ _
  | patrolScrub => exact execPatrolScrub_answers _ _ _
  | throttleRelease => exact execThrottleRelease_answers _
  | boot => exact execBoot_answers _ _ _
  | rollbackAdvance => exact execRollbackAdvance_answers _ _
  | dapAccess => exact execDapAccess_answers _ _
  | windowAccess => exact execWindowAccess_answers _ _ _ _
  | hostAccessTimeout => exact execHostAccessTimeout_answers _ _
  | eventRecord => exact execEventRecord_answers _
  | extensionCopy => exact execExtensionCopy_answers _
  | kernelTable => exact execKernelTable_answers _
  | deepExit w => exact absurd rfl (hc w)

/-- What the wake latch runs is a command with its meaning, never DEEP_EXIT, and it leaves alone what it cannot hold. -/
theorem runHeld_eq_exec_or_next (c : Instr) (s : State) :
    (runHeld c s = exec c s ∧ ∀ w, c ≠ .deepExit w) ∨ runHeld c s = .next s := by
  unfold runHeld
  split
  case h_61 => exact .inr rfl
  all_goals exact .inl ⟨rfl, nofun⟩

theorem runHeld_answers (c : Instr) (s : State) : Answers (runHeld c s) := by
  rcases runHeld_eq_exec_or_next c s with ⟨h, hc⟩ | h
  · exact h ▸ exec_answers_of_ne_deepExit hc s
  · exact h ▸ answers_next s

theorem runLatch_answers (s : State) (l : List Instr) : Answers (runLatch s l) := by
  induction l generalizing s with
  | nil => exact answers_next s
  | cons c r ih =>
    obtain ⟨t, ht⟩ := runHeld_answers c s
    rw [runLatch, ht]
    exact ih t

theorem exec_answers (c : Instr) (s : State) : Answers (exec c s) := by
  by_cases hc : ∃ w, c = .deepExit w
  · obtain ⟨w, rfl⟩ := hc
    exact answers_ite (answers_next _) (runLatch_answers _ _)
  · exact exec_answers_of_ne_deepExit (fun w h => hc ⟨w, h⟩) s

/-- A step is a tick or the command at the front of the queue. -/
theorem step_answers (s : State) : Answers (step s) := by
  unfold step
  split
  · exact answers_next _
  · exact exec_answers _ _

/-- Settles O60: every row of the table answers through the operation that it shares or in each of its own cases, and the
exit from Deep by induction on the accesses that the wake latch holds. -/
theorem noCommandStops : Obligations.NoCommandStops := ⟨exec_answers, step_answers⟩

end Sys2Proof.Machine
end

section
/-! What a host access to a register does (R12, R339, R349, R352, R421, R424): where the access goes, the writes by BAR,
and the reads. -/

namespace Sys2Proof.Machine

/-! ### Where an access goes -/

theorem hostAccess_unreached {s : State} (h : s.barReached = false) (c : Instr) (sec : Bool) (run : State → State) :
    s.hostAccess c sec run = .next s := by
  simp [State.hostAccess, h]

theorem hostAccess_deep {s : State} (h : s.barReached = true) (hp : s.pst_ = 3) (c : Instr) (sec : Bool)
    (run : State → State) : s.hostAccess c sec run = .next (s.latchAccess c) := by
  simp [State.hostAccess, h, hp]

theorem hostAccess_closed {s : State} (h : s.barReached = true) (hp : s.pst_ ≠ 3) (hc : s.barClosed = true) (c : Instr)
    (run : State → State) : s.hostAccess c false run = .next (s.violation 5) := by
  simp [State.hostAccess, h, hp, hc]

/-- An access to the SEC block, or one that judges closed blocks by itself, has its effect. -/
theorem hostAccess_sec {s : State} (h : s.barReached = true) (hp : s.pst_ ≠ 3) (c : Instr) (run : State → State) :
    s.hostAccess c true run = .next (run s) := by
  simp [State.hostAccess, h, hp]

/-- A write to any BAR is one host access; Deep holds it as it came, but for the doorbells and the wake of BAR2. -/
theorem barWrite_eq_hostAccess (bar off bytes v : Nat) (s : State) :
    ∃ c run, barWrite bar off bytes v s = s.hostAccess c (bar == 0 && inSec off) run ∧
      (bar ≠ 2 → c = .registerWrite bar off bytes (some v)) := by
  unfold barWrite
  by_cases h0 : bar = 0
  · subst h0
    exact ⟨_, _, if_pos rfl, fun _ => rfl⟩
  rw [if_neg h0, show (bar == 0 && inSec off) = false by simp [h0]]
  by_cases h2 : bar = 2
  · rw [if_pos h2]
    unfold bar2Write
    split
    · exact ⟨_, _, rfl, fun h => absurd h2 h⟩
    · split
      · exact ⟨_, _, rfl, fun h => absurd h2 h⟩
      · split <;> exact ⟨_, _, rfl, fun h => absurd h2 h⟩
  · rw [if_neg h2]
    split
    · split <;> exact ⟨_, _, rfl, fun _ => rfl⟩
    · exact ⟨_, _, rfl, fun _ => rfl⟩

/-! ### Writes of BAR0 -/

theorem bar0Write_reserved {s : State} {off : Nat} (ho : off < 0x100000) (hf : fieldsAt (off / 8 * 8) = none)
    (bytes v : Nat) : s.bar0Write off bytes v = s.violation 5 := by
  rw [State.bar0Write, if_neg (by omega), hf]

/-- A write to a register: of its width, and in the error state to SEC.CMD alone (R352, R398). -/
theorem bar0Write_register {s : State} {off : Nat} {xs : List Fld} (ho : off < 0x100000)
    (hf : fieldsAt (off / 8 * 8) = some xs) (bytes v : Nat) :
    s.bar0Write off bytes v =
      if widthOk off bytes = false then s.violation 6
      else if s.boot.stopped = true ∧ off / 8 * 8 ≠ 0xc0008 then s.violation 5
      else s.regEffect (off / 8 * 8) xs (s.regWrite xs off bytes v) := by
  rw [State.bar0Write, if_neg (by omega), hf]
  simp

theorem regEffect_of_plainReg {reg : Nat} {s : State} (h : plainReg reg (s.fb F.schCtrlRun) = true) (xs : List Fld)
    (r : RegWrite) : s.regEffect reg xs r = s.plainWrite xs r := by
  simp only [plainReg, Bool.and_eq_true, Bool.not_eq_true', Bool.or_eq_false_iff, Bool.and_eq_false_iff,
    decide_eq_false_iff_not, beq_eq_false_iff_ne, List.contains_eq_mem] at h
  obtain ⟨⟨⟨hq, hp⟩, hown⟩, hrun⟩ := h
  refine regEffect_plain (by omega) (by omega) ?_ fun hm => ?_
  · simp only [List.mem_cons, List.not_mem_nil, or_false] at hown ⊢
    omega
  · simpa [hm] using hrun

theorem ringDoorbell_of_queue {q : Nat} (hq : q < 64) (v : Nat) (s : State) :
    s.ringDoorbell q v =
      if s.doorbellBad q v then (s.wakeUp 1).violation 1 else (s.wakeUp 1).setF (F.schQPtrTail q) v :=
  if_neg (by omega)

/-- A write to BAR2: a doorbell or the wake of the ingest, of 8 bytes (R305, R340). -/
theorem bar2Write_eq {s : State} (h : s.hostOpen) (off bytes v : Nat) :
    bar2Write off bytes v s = .next (
      if off ≠ 0x40000 ∧ ¬ (off % 0x1000 = 0 ∧ off < 0x40000) then s.violation 5
      else if bytes ≠ 8 then s.violation 6
      else if off = 0x40000 then s.wakeIngest
      else if s.doorbellBad (off / 0x1000) v then (s.wakeUp 1).violation 1
      else (s.wakeUp 1).setF (F.schQPtrTail (off / 0x1000)) v) := by
  have offset : (!(off == 0x40000 || (off % 0x1000 == 0 && decide (off < 0x40000)))) = true ↔
      off ≠ 0x40000 ∧ ¬ (off % 0x1000 = 0 ∧ off < 0x40000) := by
    simp [imp_iff_not_or]
  unfold bar2Write
  simp only [hostAccess_eq h, offset, ← apply_ite (Host.Outcome.next (φ := Fault) (ρ := Refusal))]
  by_cases hb : off ≠ 0x40000 ∧ ¬ (off % 0x1000 = 0 ∧ off < 0x40000)
  · rw [if_pos hb, if_pos hb]
  · rw [if_neg hb, if_neg hb]
    by_cases hw : off = 0x40000
    · simp only [if_pos hw]
    · simp only [if_neg hw]
      rw [ringDoorbell_of_queue (by omega)]

/-! ### Reads -/

/-- A read of a BAR that is open (R339). -/
theorem openRead_of_hostOpen {s : State} (h : s.hostOpen) (bar off bytes : Nat) :
    s.openRead bar off bytes = s.barRead bar off bytes := by
  simp [State.openRead, h.access]

theorem openRead_sec {off : Nat} (hs : inSec off = true) (s : State) (bytes : Nat) :
    s.openRead 0 off bytes = s.bar0Read off bytes := by
  simp [State.openRead, State.barRead, hs]

theorem barRead_bar0 (s : State) (off bytes : Nat) : s.barRead 0 off bytes = s.bar0Read off bytes := if_pos rfl

theorem openRead_closed {s : State} {bar off : Nat} (hc : s.barClosed = true) (hs : ¬ (bar = 0 ∧ inSec off = true))
    (bytes : Nat) : s.openRead bar off bytes = s.badRead 5 bytes := by
  rw [State.openRead, if_pos]
  simpa [hc, or_iff_not_imp_left] using hs

/-- A read below the event window is one of a register. -/
theorem bar0Read_register {off : Nat} (ho : off < 0xe8000) (s : State) (bytes : Nat) :
    s.bar0Read off bytes =
      if (fieldsAt (off / 8 * 8)).isNone then s.badRead 5 bytes
      else if !widthOk off bytes then s.badRead 6 bytes
      else
        let t := if off / 8 * 8 = 0xe0018 then s.latchHead else s
        t.readWith (leBytes bytes (bitsOf (t.readReg (off / 8 * 8)) (8 * (off % 8)) (8 * bytes))) := by
  rw [State.bar0Read, if_neg (by omega), if_neg (by omega), if_neg (by omega), if_neg (by omega)]

theorem readReg_of_fieldsAt {reg : Nat} {xs : List Fld} (hf : fieldsAt reg = some xs) (s : State) :
    s.readReg reg = s.wordOf xs := by
  simp [State.readReg, hf]

/-- A read of a register other than EVT.HEAD_SEQ returns its bytes and changes nothing. -/
theorem bar0Read_of_ne_headSeq {off bytes : Nat} {xs : List Fld} (ho : off < 0xe8000)
    (hf : fieldsAt (off / 8 * 8) = some xs) (hr : off / 8 * 8 ≠ 0xe0018) (hw : widthOk off bytes = true) (s : State) :
    s.bar0Read off bytes = s.readWith (leBytes bytes (bitsOf (s.wordOf xs) (8 * (off % 8)) (8 * bytes))) := by
  rw [bar0Read_register ho, if_neg (by simp [hf]), if_neg (by simp [hw]), if_neg hr]
  exact congrArg (fun w => s.readWith (leBytes bytes (bitsOf w _ _))) (readReg_of_fieldsAt hf s)

/-- A read latches the place of the next record and of the oldest of the selected ring (R424). -/
def headLatched (s t : State) : Prop :=
  t.f F.evtHeadSeq = s.selectedRing.headSeq % 2 ^ 64 ∧ t.f F.evtHeadOff = s.selectedRing.head % 2 ^ 32 ∧
  t.f F.evtTailSeq = s.selectedRing.tailSeq % 2 ^ 64 ∧ t.f F.evtTailOff = s.selectedRing.tailOff % 2 ^ 32

theorem latchHead_latched (s : State) : headLatched s s.latchHead := by
  unfold headLatched State.latchHead
  refine ⟨?_, ?_, ?_, ?_⟩
  · rw [f_setF_other (by decide), f_setF_other (by decide), f_setF_other (by decide), f_setF_same]
    rfl
  · rw [f_setF_other (by decide), f_setF_other (by decide), f_setF_same]
    rfl
  · rw [f_setF_other (by decide), f_setF_same]
    rfl
  · rw [f_setF_same]
    rfl

/-- No field that shows the state of a unit lies in EVT.HEAD_SEQ: the register file holds it. -/
theorem live_off_ne_headSeq (s : State) : s.live.all (fun y => y.1.off != 0xe0018) = true := by
  have tile : s.liveTile.all (fun y => y.1.off != 0xe0018) = true := by
    dsimp only [State.liveTile]
    split
    · rfl
    · split <;> rfl
  have layer : s.liveLayer.all (fun y => y.1.off != 0xe0018) = true := by
    unfold State.liveLayer
    split <;> rfl
  simp only [State.live, List.all_append, tile, layer, Bool.and_eq_true, and_true]
  exact ⟨⟨⟨⟨⟨rfl, rfl⟩, rfl⟩, rfl⟩, rfl⟩, rfl⟩

theorem shown_headSeq (s : State) : s.shown F.evtHeadSeq = s.f F.evtHeadSeq := by
  have hl : s.live.find? (fun y => y.1 == F.evtHeadSeq) = none := by
    rw [List.find?_eq_none]
    intro y hy he
    have := List.all_eq_true.1 (live_off_ne_headSeq s) y hy
    rw [eq_of_beq he] at this
    exact absurd this (by decide)
  rw [State.shown, if_neg (by decide), hl]

theorem readReg_headSeq (s : State) : s.readReg 0xe0018 = s.f F.evtHeadSeq := by
  have hf : fieldsAt 0xe0018 = some [F.evtHeadSeq] := by decide +kernel
  simp [readReg_of_fieldsAt hf, State.wordOf, shown_headSeq, show F.evtHeadSeq.lo = 0 from rfl]

/-- A read of bytes of EVT.HEAD_SEQ (R424). -/
theorem bar0Read_headSeq {off bytes : Nat} (hr : off / 8 * 8 = 0xe0018) (hw : widthOk off bytes = true) (s : State) :
    s.bar0Read off bytes = s.latchHead.readWith
      (leBytes bytes (bitsOf (s.selectedRing.headSeq % 2 ^ 64) (8 * (off % 8)) (8 * bytes))) := by
  have hf : (fieldsAt 0xe0018).isNone = false := by decide +kernel
  obtain ⟨hseq, -⟩ := latchHead_latched s
  rw [bar0Read_register (by omega), hr, hf, hw]
  simp [readReg_headSeq, hseq]

/-! ### Bytes -/

/-- The bytes of a number are those of its low bits. -/
theorem leBytes_mod (n v : Nat) : leBytes n (v % 256 ^ n) = leBytes n v := by
  induction n generalizing v with
  | zero => rfl
  | succ n ih =>
    have hb : BitVec.ofNat 8 (v % 256 ^ (n + 1)) = BitVec.ofNat 8 v := by
      apply BitVec.eq_of_toNat_eq
      simp [Nat.mod_mod_of_dvd, pow_succ]
    rw [leBytes, leBytes, hb, pow_succ', Nat.mod_mul_right_div_self, ih]

theorem leBytes_bitsOf (v : Nat) : leBytes 8 (bitsOf (v % 2 ^ 64) 0 64) = leBytes 8 v := by
  rw [← leBytes_mod 8 v]
  simp [bitsOf]

/-! ### The rate of a code and the vectors of MSI-X -/

theorem rateOf_putRate_same (s : State) (code : Nat) (r : Rate) : (s.putRate code r).rateOf code = r := by
  simp [State.rateOf, State.putRate]

theorem rateOf_putRate_other {code k : Nat} (h : k ≠ code) (s : State) (r : Rate) :
    (s.putRate code r).rateOf k = s.rateOf k := by
  simp [State.rateOf, State.putRate, mget_mput_other h]

/-- A vector unmasked: open, not pending, and sent if it was (R349). -/
theorem unmask_eq {vec : Nat} (hv : vec < 2048) (s : State) :
    vec ∈ (s.unmask vec).cxl.msixOpen ∧ vec ∉ (s.unmask vec).cxl.pba ∧
      (s.unmask vec).out.msix = if vec ∈ s.cxl.pba then s.out.msix ++ [vec] else s.out.msix := by
  have hopen : vec ∈ (if s.cxl.msixOpen.contains vec then s.cxl.msixOpen else s.cxl.msixOpen ++ [vec]) := by
    split
    · rename_i h; simpa using h
    · simp
  rw [State.unmask, if_neg (by omega)]
  by_cases hp : vec ∈ s.cxl.pba
  · simpa [hp] using hopen
  · simpa [hp] using hopen

/-! ### The commands -/

theorem exec_write_eq (bar off bytes v : Nat) (s : State) :
    exec (.registerWrite bar off bytes (some v)) s = barWrite bar off bytes v s := rfl

theorem exec_write_unreached {s : State} (h : s.barReached = false) (bar off bytes v : Nat) :
    exec (.registerWrite bar off bytes (some v)) s = .next s := by
  obtain ⟨c, run, hw, -⟩ := barWrite_eq_hostAccess bar off bytes v s
  exact hw.trans (hostAccess_unreached h _ _ _)

theorem exec_write_deep {s : State} (h : s.barReached = true) (hp : s.pst_ = 3) {bar : Nat} (h2 : bar ≠ 2)
    (off bytes v : Nat) : exec (.registerWrite bar off bytes (some v)) s =
      .next (s.latchAccess (.registerWrite bar off bytes (some v))) := by
  obtain ⟨c, run, hw, hc⟩ := barWrite_eq_hostAccess bar off bytes v s
  rw [exec_write_eq, hw, hostAccess_deep h hp, hc h2]

theorem exec_write_closed {s : State} (h : s.barReached = true) (hp : s.pst_ ≠ 3) (hc : s.barClosed = true)
    {bar off : Nat} (hs : ¬ (bar = 0 ∧ inSec off = true)) (bytes v : Nat) :
    exec (.registerWrite bar off bytes (some v)) s = .next (s.violation 5) := by
  obtain ⟨c, run, hw, -⟩ := barWrite_eq_hostAccess bar off bytes v s
  rw [show (bar == 0 && inSec off) = false by simpa [or_iff_not_imp_left] using hs] at hw
  exact hw.trans (hostAccess_closed h hp hc _ _)

theorem exec_write_sec {s : State} (h : s.barReached = true) (hp : s.pst_ ≠ 3) {off : Nat} (hs : inSec off = true)
    (bytes v : Nat) : exec (.registerWrite 0 off bytes (some v)) s = .next (s.bar0Write off bytes v) := by
  rw [exec_write_eq, barWrite, if_pos rfl, hs, hostAccess_sec h hp]

/-! A write to an open BAR, by its BAR (R339). -/

theorem exec_write_bar0 {s : State} (h : s.hostOpen) (off bytes v : Nat) :
    exec (.registerWrite 0 off bytes (some v)) s = .next (s.bar0Write off bytes v) := by
  rw [exec_write_eq, barWrite, if_pos rfl, hostAccess_eq h]

theorem exec_write_bar2 (s : State) (off bytes v : Nat) :
    exec (.registerWrite 2 off bytes (some v)) s = bar2Write off bytes v s := by
  rw [exec_write_eq, barWrite, if_neg (by decide), if_pos rfl]

theorem exec_write_bar4 {s : State} (h : s.hostOpen) (off bytes v : Nat) :
    exec (.registerWrite 4 off bytes (some v)) s = .next (
      if s.pcieMode then s.barWindow off bytes (some (leBytes bytes v)) else s.legacyWrite off bytes v) := by
  rw [exec_write_eq, barWrite, if_neg (by decide), if_neg (by decide), if_pos rfl]
  split <;> exact hostAccess_eq h _ _ _

theorem exec_write_noBar {s : State} (h : s.hostOpen) {bar : Nat} (hb : bar ∉ [0, 2, 4]) (off bytes v : Nat) :
    exec (.registerWrite bar off bytes (some v)) s = .next (s.violation 5) := by
  simp only [List.mem_cons, List.not_mem_nil, or_false, not_or] at hb
  obtain ⟨h0, h2, h4⟩ := hb
  rw [exec_write_eq, barWrite, if_neg h0, if_neg h2, if_neg h4, hostAccess_eq h]

/-- A write to a register without an effect of its own (R12, R13). -/
theorem bar0Write_plain {s : State} (h : s.boot.stopped = false) {off bytes : Nat} {xs : List Fld} (ho : off < 0x100000)
    (hf : fieldsAt (off / 8 * 8) = some xs) (hw : widthOk off bytes = true)
    (hp : plainReg (off / 8 * 8) (s.fb F.schCtrlRun) = true) (v : Nat) :
    s.bar0Write off bytes v = s.plainWrite xs (s.regWrite xs off bytes v) := by
  rw [bar0Write_register ho hf, if_neg (by simp [hw]), if_neg (by simp [h]), regEffect_of_plainReg hp]

/-- A read of an open BAR (R339). -/
theorem exec_read_of_hostOpen {s : State} (h : s.hostOpen) (bar off bytes : Nat) :
    exec (.registerWrite bar off bytes none) s = .next (s.barRead bar off bytes) :=
  (hostAccess_sec h.reached h.awake _ _).trans (congrArg _ (openRead_of_hostOpen h _ _ _))

theorem exec_headSeqRead_of_hostOpen {s : State} (h : s.hostOpen) :
    exec .headSeqRead s = .next (s.latchHead.readWith (leBytes 8 s.selectedRing.headSeq)) := by
  have hr : s.barRead 0 0xe0018 8 = s.latchHead.readWith (leBytes 8 s.selectedRing.headSeq) := by
    rw [barRead_bar0, bar0Read_headSeq (by decide) (by decide)]
    exact congrArg _ (leBytes_bitsOf _)
  rw [← hr, ← openRead_of_hostOpen h]
  exact hostAccess_eq h _ _ _

/-- Settles O18: every write and every read is one host access, and what it does is said by BAR and, in BAR0, by the
register. -/
theorem registerAccesses : Obligations.RegisterAccesses := by
  refine ⟨fun s bar off bytes v => ⟨fun h => exec_write_unreached h _ _ _ _,
    fun h hp h2 => exec_write_deep h hp h2 _ _ _, fun h hp hc hs => exec_write_closed h hp hc hs _ _, ?_, fun h => ?_⟩,
    fun s bar off bytes v vec => ⟨fun h => hostAccess_unreached h _ _ _, fun h hp => hostAccess_deep h hp _ _ _, ?_, ?_,
      fun h => hostAccess_unreached h _ _ _, fun h hp => hostAccess_deep h hp _ _ _, ?_, fun h => ?_⟩⟩
  · rintro h hp rfl hs
    exact exec_write_sec h hp hs _ _
  · refine ⟨?_, fun xs => ?_, ?_, ?_, ?_, fun hb => exec_write_noBar h hb _ _ _⟩
    · rintro rfl ho hf
      rw [exec_write_bar0 h, bar0Write_reserved ho hf]
    · rintro rfl ho hf
      refine ⟨fun hw => ?_, fun hw hs hr => ?_, fun hw hr => ?_, fun hw hs hp => ?_⟩
      · rw [exec_write_bar0 h, bar0Write_register ho hf, if_pos hw]
      · rw [exec_write_bar0 h, bar0Write_register ho hf, if_neg (by simp [hw]), if_pos ⟨hs, hr⟩]
      · rw [exec_write_bar0 h, bar0Write_register ho hf, if_neg (by simp [hw]), if_neg]
        rintro ⟨hs, hn⟩
        exact hr.elim (by simp [hs]) hn
      · rw [exec_write_bar0 h, bar0Write_plain hs ho hf hw hp]
        refine ⟨_, rfl, plainWrite_rd _ _ _, fun x hx => ?_⟩
        refine ((plainWrite_f (fieldsAt_nodup hf) hx _ s).trans (writeField_same _ s x)).trans ?_
        cases x.acc <;> rfl
    · rintro rfl ho
      rw [exec_write_bar0 h, State.bar0Write, if_pos ho]
    · rintro rfl
      exact (exec_write_bar2 _ _ _ _).trans (bar2Write_eq h _ _ _)
    · rintro rfl
      exact exec_write_bar4 h _ _ _
  · intro h hp hc hs
    exact (hostAccess_sec h hp _ _).trans (congrArg _ (openRead_closed hc hs _))
  · rintro h hp rfl hs
    exact (hostAccess_sec h hp _ _).trans (congrArg _ (openRead_sec hs _ _))
  · intro h hp hc
    exact (hostAccess_sec h hp _ _).trans (congrArg _ (openRead_closed hc (by decide) _))
  · refine ⟨?_, ?_, fun xs => ?_, ?_, ?_, ?_, ?_, ?_, ?_, ?_, ?_⟩
    · exact ⟨_, exec_headSeqRead_of_hostOpen h, latchHead_latched s, rfl⟩
    · rintro rfl hr hw
      refine ⟨_, exec_read_of_hostOpen h _ _ _, ?_⟩
      rw [barRead_bar0, bar0Read_headSeq hr hw]
      exact ⟨latchHead_latched s, rfl⟩
    · rintro rfl ho hf hr hw
      exact (exec_read_of_hostOpen h _ _ _).trans (congrArg _ (bar0Read_of_ne_headSeq ho hf hr hw s))
    · rintro rfl ho hf
      rw [exec_read_of_hostOpen h, barRead_bar0, bar0Read_register ho, hf]
      rfl
    · rintro rfl ho hf hw
      rw [exec_read_of_hostOpen h, barRead_bar0, bar0Read_register ho, if_neg (by simpa using hf), hw]
      rfl
    · rintro rfl ho
      exact (exec_read_of_hostOpen h _ _ _).trans (congrArg _ (if_pos ho))
    · rintro rfl -
      exact exec_read_of_hostOpen h _ _ _
    · rintro rfl
      exact exec_read_of_hostOpen h _ _ _
    · refine ⟨_, hostAccess_eq h _ _ _, ?_⟩
      rw [State.rateWrite, rateOf_putRate_same]
      exact ⟨rfl, rfl, rfl, rfl, fun code hc => rateOf_putRate_other hc _ _⟩
    · intro hv
      exact ⟨_, hostAccess_eq h _ _ _, unmask_eq hv s⟩
    · intro hv
      exact (hostAccess_eq h _ _ _).trans (congrArg _ (if_pos hv))

end Sys2Proof.Machine
end

section
/-! How the arrays are maintained (R25, R107, R108, R117 to R122): when a calibration is due and what one does, and when
the dirty rows of a layer are rewritten. -/

namespace Sys2Proof.Machine

/-! ### A calibration becomes due (R117) -/

theorem calTrigger_iff (s : State) (k : Nat) :
    s.calTrigger k = true ↔
      2 ^ max 12 (min 20 (s.f F.arrCalCfgConvLog2)) ≤ (s.tile k).convs ∨
      (s.tile k).lastCal + max 1 (min 100 (s.f F.arrCalCfgInterval)) * 3125 ≤ s.aon ∨
      ((∃ f ∈ (s.tile k).fits, f.done = true) ∧ ((max 1 (min 16 (s.f F.arrCalCfgDt)) : Nat) : Int) <
        max (s.clusterTemp k - (s.tile k).lastFit) (-(s.clusterTemp k - (s.tile k).lastFit))) := by
  simp only [State.calTrigger, Bool.or_eq_true, Bool.and_eq_true, decide_eq_true_eq, List.any_eq_true, or_assoc]

/-- A placed, awake tile whose calibration has not been due becomes due when a condition of R117 holds. -/
def State.becomesDue (s : State) (k : Nat) : Prop :=
  (s.tile k).state = 1 ∧ (s.tile k).due = false ∧ (SleepKind.tile, k) ∈ s.units.awake ∧ s.calTrigger k = true

theorem execCalibrationDue_guard (s : State) (k : Nat) :
    ((s.tile k).state = 1 && !(s.tile k).due && s.units.awake.contains (.tile, k) && s.calTrigger k) = true ↔
      s.becomesDue k := by
  simp only [State.becomesDue, Bool.and_eq_true, decide_eq_true_eq, Bool.not_eq_true', List.contains_iff_mem, and_assoc]

theorem exec_calibrationDue_of_becomesDue {s : State} {k : Nat} (h : s.becomesDue k) :
    exec (.calibrationDue k) s = .next (s.putTile k { s.tile k with due := true }) :=
  if_pos ((execCalibrationDue_guard s k).mpr h)

theorem exec_calibrationDue_of_not {s : State} {k : Nat} (h : ¬ s.becomesDue k) :
    exec (.calibrationDue k) s = .next s :=
  if_neg (mt (execCalibrationDue_guard s k).mp h)

/-! ### A calibration (R118 to R122) -/

/-- The tile is placed, its calibration is due, its write has ended with a seal, and it does not sleep. -/
def State.mayCalibrate (s : State) (k : Nat) : Prop :=
  (s.tile k).state = 1 ∧ ((s.tile k).due = true ∨ (s.tile k).calFirst = true) ∧ (s.tile k).sealed = true ∧
    (s.tile k).batch = none ∧ (SleepKind.tile, k) ∈ s.units.awake

/-- The eight groups of a tile fitted from the codes of their converters (R119 to R121). -/
def State.refit (s : State) (k : Nat) (ys : List (List Readings)) : State :=
  (List.range 8).foldl (fun t p => t.fitOne k p (ys.getD p [])) s

/-- The groups fitted, the calibration counted, the counts begun anew, and every ARR.CALIB that waits told (R118). -/
def State.calibrated (s : State) (k : Nat) (ys : List (List Readings)) : State :=
  let u := s.refit k ys
  let y := u.tile k
  let sing := y.fits.countP (fun f => f.flag)
  ((u.putTile k { y with
    calCount := min 0xffffffff (y.calCount + 1), due := false, calFirst := false, convs := 0, lastCal := u.aon,
    fresh := if y.fresh = 1 ∧ sing = 0 then 2 else y.fresh }).modAll (fun i =>
      if i.code.op = 0x4006 ∧ i.wants.contains k then { i.rewant k none with result := i.result + sing } else i)).endWaiters
    0x4006

theorem execCalibration_guard (s : State) (k : Nat) :
    ((s.tile k).state ≠ 1 || !((s.tile k).due || (s.tile k).calFirst) || !(s.tile k).sealed || (s.tile k).batch.isSome ||
      !s.units.awake.contains (.tile, k)) = true ↔ ¬ s.mayCalibrate k := by
  rw [← Bool.not_eq_false, not_iff_not]
  simp only [State.mayCalibrate, Bool.or_eq_false_iff, decide_eq_false_iff_not, Bool.not_eq_false', Bool.or_eq_true,
    not_not, ne_eq, Option.isSome_eq_false_iff, Option.isNone_iff_eq_none, List.contains_iff_mem, and_assoc]

theorem exec_calibration_of_not {s : State} {k : Nat} (h : ¬ s.mayCalibrate k) (ys : List (List Readings)) :
    exec (.calibration k ys) s = .next s :=
  if_pos ((execCalibration_guard s k).mpr h)

/-- A calibration ends with the retirement of a tile one of whose groups has been singular six times in a row (R122). -/
theorem exec_calibration_of_mayCalibrate {s : State} {k : Nat} (h : s.mayCalibrate k) (ys : List (List Readings)) :
    exec (.calibration k ys) s =
      if ((s.refit k ys).tile k).fits.any (fun f => decide (6 ≤ f.run)) then .next ((s.calibrated k ys).retire k 2 3)
      else .next (s.calibrated k ys) :=
  if_neg (fun hg => (execCalibration_guard s k).mp hg h)

theorem exec_calibration_kept {s : State} {k : Nat} (h : s.mayCalibrate k) {ys : List (List Readings)}
    (hr : ∀ f ∈ ((s.refit k ys).tile k).fits, f.run < 6) :
    exec (.calibration k ys) s = .next (s.calibrated k ys) := by
  rw [exec_calibration_of_mayCalibrate h, if_neg (by simpa using hr)]

theorem exec_calibration_retired {s : State} {k : Nat} (h : s.mayCalibrate k) {ys : List (List Readings)}
    (hr : ∃ f ∈ ((s.refit k ys).tile k).fits, 6 ≤ f.run) :
    exec (.calibration k ys) s = .next ((s.calibrated k ys).retire k 2 3) := by
  rw [exec_calibration_of_mayCalibrate h, if_pos (by simpa using hr)]

/-! ### The dirty rows of a layer (R25, R107, R108) -/

/-- A programmed layer none of whose tiles has a write under way. -/
def State.layerRests (s : State) (l : Layer) : Prop :=
  l.programmed = true ∧ ∀ t ∈ l.held, (s.tile t).batch = none

/-- A tile of the layer has rows that became dirty too late for their step. -/
def State.layerLate (s : State) (l : Layer) : Prop := ∃ t ∈ l.held, (s.tile t).late = true

/-- The step has written all parameters of layer `h`, and no forward of it is left or to come. -/
def State.layerWritten (s : State) (h : Nat) (l : Layer) : Prop :=
  s.pass.launched = true ∧ l.crossed = false ∧ s.allWritten l = true ∧ s.forwardsLeft h s.stepNow = false ∧
    s.bodyAdmitted = true

/-- Every tile of the layer has begun the rewriting of its dirty rows, from the shadow epoch or the committed one. -/
def State.startCrossings (s : State) (l : Layer) (shadow : Bool) (step : Nat) : State :=
  let t := l.held.foldl (fun u k => u.startCrossing shadow step k) s
  { t with arr := { t.arr with crossings := t.arr.crossings + 1 } }

theorem layerRests_iff (s : State) (l : Layer) :
    (!l.held.all (fun t => (s.tile t).batch.isNone) || !l.programmed) = true ↔ ¬ s.layerRests l := by
  rw [← Bool.not_eq_false, not_iff_not]
  simp only [State.layerRests, Bool.or_eq_false_iff, Bool.not_eq_false', List.all_eq_true, Option.isNone_iff_eq_none,
    and_comm]

theorem layerLate_iff (s : State) (l : Layer) :
    l.held.any (fun t => (s.tile t).late) = true ↔ s.layerLate l := List.any_eq_true

theorem layerWritten_iff (s : State) (h : Nat) (l : Layer) :
    (s.pass.launched && !l.crossed && s.allWritten l && !s.forwardsLeft h s.stepNow && s.bodyAdmitted) = true ↔
      s.layerWritten h l := by
  simp only [State.layerWritten, Bool.and_eq_true, Bool.not_eq_true', and_assoc]

theorem exec_levelCrossingStart_noLayer {s : State} {h : Nat} (hl : s.layer h = none) :
    exec (.levelCrossingStart h) s = .next s := by
  change execLevelCrossingStart h s = _
  rw [execLevelCrossingStart, hl]

/-- The rows that became dirty too late go first, and take their levels from the committed epoch (R107). -/
theorem exec_levelCrossingStart_layer {s : State} {h : Nat} {l : Layer} (hl : s.layer h = some l) :
    exec (.levelCrossingStart h) s =
      if !l.held.all (fun t => (s.tile t).batch.isNone) || !l.programmed then .next s
      else if l.held.any (fun t => (s.tile t).late) then
        (if s.forwardsLeft h s.c then .next s else .next (s.startCrossings l false s.c))
      else if s.pass.launched && !l.crossed && s.allWritten l && !s.forwardsLeft h s.stepNow && s.bodyAdmitted then
        .next ((s.startCrossings l true s.stepNow).modLayer h (fun l => { l with crossed := true }))
      else .next s := by
  change execLevelCrossingStart h s = _
  rw [execLevelCrossingStart, hl]
  rfl

theorem exec_levelCrossingStart_busy {s : State} {h : Nat} {l : Layer} (hl : s.layer h = some l)
    (hr : ¬ s.layerRests l) : exec (.levelCrossingStart h) s = .next s := by
  rw [exec_levelCrossingStart_layer hl, if_pos ((layerRests_iff s l).mpr hr)]

theorem exec_levelCrossingStart_late {s : State} {h : Nat} {l : Layer} (hl : s.layer h = some l) (hr : s.layerRests l)
    (ht : s.layerLate l) :
    exec (.levelCrossingStart h) s =
      if s.forwardsLeft h s.c then .next s else .next (s.startCrossings l false s.c) := by
  rw [exec_levelCrossingStart_layer hl, if_neg (fun hg => (layerRests_iff s l).mp hg hr),
    if_pos ((layerLate_iff s l).mpr ht)]

theorem exec_levelCrossingStart_inStep {s : State} {h : Nat} {l : Layer} (hl : s.layer h = some l)
    (hr : s.layerRests l) (ht : ¬ s.layerLate l) :
    exec (.levelCrossingStart h) s =
      if s.pass.launched && !l.crossed && s.allWritten l && !s.forwardsLeft h s.stepNow && s.bodyAdmitted then
        .next ((s.startCrossings l true s.stepNow).modLayer h (fun l => { l with crossed := true }))
      else .next s := by
  rw [exec_levelCrossingStart_layer hl, if_neg (fun hg => (layerRests_iff s l).mp hg hr),
    if_neg (mt (layerLate_iff s l).mp ht)]

/-- Settles O32: each of the three commands by its own guard, in the words of the rules. -/
theorem arraysAreMaintained : Obligations.ArraysAreMaintained := by
  intro s k h l ys
  refine ⟨fun hs hd ha ht => exec_calibrationDue_of_becomesDue ⟨hs, hd, ha, (calTrigger_iff s k).mpr ht⟩,
    fun hn => exec_calibrationDue_of_not ?_, fun hm => exec_calibration_kept hm, fun hm => exec_calibration_retired hm,
    fun hm => exec_calibration_of_not hm ys, exec_levelCrossingStart_noLayer,
    fun hl => ⟨exec_levelCrossingStart_busy hl, fun hr ht hf => ?_, fun hr ht hf => ?_, fun hr ht hw => ?_,
      fun hr ht hw => ?_⟩⟩
  · rintro ⟨hs, hd, ha, ht⟩
    rcases hn with hs' | hd' | ha' | ht'
    · exact hs' hs
    · simp [hd] at hd'
    · exact ha' ha
    · exact ht' ((calTrigger_iff s k).mp ht)
  · exact (exec_levelCrossingStart_late hl hr ht).trans (if_pos hf)
  · exact (exec_levelCrossingStart_late hl hr ht).trans (if_neg (by simp [hf]))
  · exact (exec_levelCrossingStart_inStep hl hr ht).trans (if_pos ((layerWritten_iff s h l).mpr hw))
  · exact (exec_levelCrossingStart_inStep hl hr ht).trans (if_neg (mt (layerWritten_iff s h l).mp hw))

end Sys2Proof.Machine
end

section
/-! What the links carry, byte by byte (R31, R195, R196, R218, R219, R318): numbers at offsets, packed elements, and the
blocks and messages that are read back from their bytes. -/

namespace Sys2Proof.Machine

/-! ### Little-endian numbers and fields -/

theorem leBytes_length (n v : Nat) : (leBytes n v).length = n := by
  induction n generalizing v with
  | zero => rfl
  | succ n ih => simp [leBytes, ih]

theorem leNat_leBytes (n v : Nat) : leNat (leBytes n v) = v % 256 ^ n := by
  induction n generalizing v with
  | zero => simp [leBytes, leNat, Nat.mod_one]
  | succ n ih => rw [leBytes, leNat, ih, pow_succ', Nat.mod_mul (a := 256), BitVec.toNat_ofNat]

theorem leBytes_zero (n : Nat) : leBytes n 0 = List.replicate n 0 := by
  induction n with
  | zero => rfl
  | succ n ih => simpa [leBytes, List.replicate_succ] using ih

theorem numAt_append_leBytes (n v : Nat) (r : List Byte) : numAt (leBytes n v ++ r) 0 n = v % 256 ^ n := by
  rw [numAt, List.drop_zero, List.take_left' (leBytes_length n v), leNat_leBytes]

theorem numAt_leBytes (n v : Nat) : numAt (leBytes n v) 0 n = v % 256 ^ n := by
  simpa using numAt_append_leBytes n v []

theorem drop_append_leBytes {n o : Nat} (h : n ≤ o) (v : Nat) (r : List Byte) :
    (leBytes n v ++ r).drop o = r.drop (o - n) := by
  rw [List.drop_append, leBytes_length, List.drop_eq_nil_of_le (by rw [leBytes_length]; exact h), List.nil_append]

theorem numAt_append_of_le {n o : Nat} (h : n ≤ o) (v k : Nat) (r : List Byte) :
    numAt (leBytes n v ++ r) o k = numAt r (o - n) k := by
  rw [numAt, numAt, drop_append_leBytes h]

/-- Where the bit of a number is the number of a Boolean, it reads as that Boolean. -/
theorem bitOf_of_toNat {x k : Nat} {b : Bool} (h : x / 2 ^ k % 2 = b.toNat) : bitOf x k = b := by
  rw [bitOf, h]
  cases b <;> rfl

/-! ### Two's complement -/

theorem unsignedOf_lt (w : Nat) (z : Int) : unsignedOf w z < 2 ^ w := by
  have := Int.emod_lt_of_pos z (b := ((2 ^ w : Nat) : Int)) (by positivity)
  have := Int.emod_nonneg z (b := ((2 ^ w : Nat) : Int)) (by positivity)
  rw [unsignedOf]
  omega

theorem unsignedOf_natCast (w v : Nat) : unsignedOf w (v : Int) = v % 2 ^ w := by
  rw [unsignedOf, ← Int.natCast_mod, Int.toNat_natCast]

theorem signedOf_eq (w x : Nat) : signedOf (w + 1) x =
    if x % 2 ^ (w + 1) < 2 ^ w then ((x % 2 ^ (w + 1) : Nat) : Int)
    else ((x % 2 ^ (w + 1) : Nat) : Int) - (2 ^ (w + 1) : Nat) := by
  rw [signedOf]
  exact if_congr (by rw [pow_succ']; omega) rfl rfl

/-- A number of `w + 1` bits reads back from those of its two's complement. -/
theorem signedOf_unsignedOf {w : Nat} {z : Int} (lo : -(2 ^ w : Int) ≤ z) (hi : z < 2 ^ w) :
    signedOf (w + 1) (unsignedOf (w + 1) z) = z := by
  have hp : ((2 ^ (w + 1) : Nat) : Int) = 2 * 2 ^ w := by push_cast; ring
  have hn : ((2 ^ w : Nat) : Int) = 2 ^ w := by push_cast; rfl
  have hm : unsignedOf (w + 1) z % 2 ^ (w + 1) = unsignedOf (w + 1) z := Nat.mod_eq_of_lt (unsignedOf_lt _ _)
  rw [signedOf_eq, hm, hp]
  by_cases h0 : 0 ≤ z
  · have hu : ((unsignedOf (w + 1) z : Nat) : Int) = z := by
      rw [unsignedOf, hp, Int.emod_eq_of_lt h0 (by omega), Int.toNat_of_nonneg h0]
    rw [hu, if_pos (by omega)]
  · have hu : ((unsignedOf (w + 1) z : Nat) : Int) = z + 2 * 2 ^ w := by
      rw [unsignedOf, hp, ← Int.add_emod_right, Int.emod_eq_of_lt (by omega) (by omega), Int.toNat_of_nonneg (by omega)]
    rw [hu, if_neg (by omega)]
    omega

/-! ### Packed elements (R31) -/

theorem packBits_lt (w : Nat) (vs : List Int) : packBits w vs < 2 ^ (w * vs.length) := by
  induction vs with
  | nil => simp [packBits]
  | cons v r ih =>
    have hv := unsignedOf_lt w v
    rw [packBits, List.length_cons, Nat.mul_succ, Nat.add_comm (w * _), pow_add]
    calc unsignedOf w v + 2 ^ w * packBits w r
        < 2 ^ w * (packBits w r + 1) := by rw [Nat.mul_succ]; omega
      _ ≤ 2 ^ w * 2 ^ (w * r.length) := Nat.mul_le_mul_left _ ih

/-- Packed elements that fit `n` bytes lose nothing in them. -/
theorem packBits_lt_bytes {w n : Nat} {vs : List Int} (h : w * vs.length ≤ 8 * n) : packBits w vs < 256 ^ n :=
  (packBits_lt w vs).trans_le ((Nat.pow_le_pow_right Nat.two_pos h).trans_eq (pow_mul 2 8 n))

theorem packBits_cons_mod (w : Nat) (v : Int) (r : List Int) : packBits w (v :: r) % 2 ^ w = unsignedOf w v := by
  rw [packBits, Nat.add_mul_mod_self_left, Nat.mod_eq_of_lt (unsignedOf_lt w v)]

theorem packBits_cons_div (w : Nat) (v : Int) (r : List Int) : packBits w (v :: r) / 2 ^ w = packBits w r := by
  rw [packBits, Nat.add_mul_div_left _ _ (Nat.two_pow_pos w), Nat.div_eq_of_lt (unsignedOf_lt w v), Nat.zero_add]

/-- Element `k` of packed elements stands at bit `w k`. -/
theorem packBits_field (w : Nat) {vs : List Int} {k : Nat} {v : Int} (h : vs[k]? = some v) :
    packBits w vs / 2 ^ (w * k) % 2 ^ w = unsignedOf w v := by
  induction vs generalizing k with
  | nil => simp at h
  | cons x r ih =>
    cases k with
    | zero =>
      obtain rfl : x = v := by simpa using h
      rw [Nat.mul_zero, pow_zero, Nat.div_one, packBits_cons_mod]
    | succ k =>
      rw [Nat.mul_succ, Nat.add_comm (w * k), pow_add, ← Nat.div_div_eq_div_mul, packBits_cons_div]
      exact ih (by simpa using h)

theorem fieldsOf_packBits (w : Nat) (vs : List Int) :
    fieldsOf w vs.length (packBits w vs) = vs.map (unsignedOf w) := by
  induction vs with
  | nil => rfl
  | cons v r ih => rw [List.length_cons, fieldsOf, packBits_cons_mod, packBits_cons_div, ih, List.map_cons]

/-! ### Reduction blocks (R195, R196) -/

/-- A packed element as a reader takes it: a parameter is a pattern, a contribution or a sum is signed. -/
def redElem (kind v : Nat) : Int := if kind = 3 then (v : Int) else signedOf (RedBlock.elemBits kind) v

/-- The elements of a block fit the 240 bytes, and each reads back from its bits. -/
structure BodyFits (b : RedBlock) : Prop where
  length : b.body.length < 256
  bits : RedBlock.elemBits b.kind * b.body.length ≤ 8 * 240
  elems : ∀ v ∈ b.body, redElem b.kind (unsignedOf (RedBlock.elemBits b.kind) v) = v

/-- What a well-formed block's fields hold, each in its own width, and its elements. -/
structure RedFits (b : RedBlock) : Prop where
  kind : b.kind < 16
  eb : b.eb < 256
  pk : b.pk < 256
  attempt : b.attempt < 16
  bucket : b.bucket < 65536
  step : b.step < 2 ^ 32
  first : b.first < 2 ^ 24
  body : BodyFits b

/-- The body that a reader takes, as `RedBlock.ofImage` writes it. -/
theorem map_redElem (kind : Nat) (vs : List Nat) :
    (if kind = 3 then vs.map (fun v => (v : Int)) else vs.map (signedOf (RedBlock.elemBits kind))) =
      vs.map (redElem kind) := by
  unfold redElem
  split
  · simp [List.map_eq_flatMap]
  · rfl

theorem isSigned_reads {w : Nat} {v : Int} (h : isSigned (w + 1) v = true) :
    signedOf (w + 1) (unsignedOf (w + 1) v) = v := by
  simp only [isSigned, Bool.and_eq_true, decide_eq_true_eq, Nat.add_sub_cancel] at h
  exact signedOf_unsignedOf h.1 h.2

theorem isCut_and_all {m : Nat} {b : RedBlock} {p : Int → Bool} (h : (isCut m b && b.body.all p) = true) :
    b.body.length ≤ m ∧ ∀ v ∈ b.body, p v = true := by
  simp only [isCut, Bool.and_eq_true, decide_eq_true_eq, List.all_eq_true] at h
  exact ⟨h.1.2, h.2⟩

/-- Contributions and sums: signed elements, of which the block holds at most `m`. -/
theorem bodyFits_of_signed {b : RedBlock} {m w : Nat} (hw : RedBlock.elemBits b.kind = w + 1) (h3 : b.kind ≠ 3)
    (hm : m < 256) (hbits : (w + 1) * m ≤ 8 * 240) (h : (isCut m b && b.body.all (isSigned (w + 1))) = true) :
    BodyFits b := by
  obtain ⟨hl, hv⟩ := isCut_and_all h
  refine ⟨by omega, hw ▸ (Nat.mul_le_mul_left _ hl).trans hbits, fun v hm => ?_⟩
  rw [redElem, if_neg h3, hw, isSigned_reads (hv v hm)]

/-- Parameters: patterns of 16 bits. -/
theorem bodyFits_of_patterns {b : RedBlock} (h3 : b.kind = 3)
    (h : (isCut 120 b && b.body.all (fun v => decide (0 ≤ v) && decide (v < 65536))) = true) : BodyFits b := by
  obtain ⟨hl, hv⟩ := isCut_and_all h
  have hw : RedBlock.elemBits b.kind = 16 := by rw [h3]; rfl
  refine ⟨by omega, by rw [hw]; omega, fun v hm => ?_⟩
  obtain ⟨lo, hi⟩ : 0 ≤ v ∧ v < 65536 := by simpa using hv v hm
  lift v to Nat using lo
  rw [redElem, if_pos h3, hw, unsignedOf_natCast, Nat.mod_eq_of_lt (by omega)]

theorem redFits_of_wf {b : RedBlock} (h : b.wf = true) : RedFits b := by
  simp only [RedBlock.wf, Bool.and_eq_true, decide_eq_true_eq] at h
  obtain ⟨⟨⟨⟨⟨⟨⟨hk, he⟩, hp⟩, ha⟩, hu⟩, hs⟩, hf⟩, hb⟩ := h
  refine ⟨hk, he, hp, ha, hu, hs, hf, ?_⟩
  split at hb
  case isTrue k1 =>
    exact bodyFits_of_signed (w := 25) (by rw [k1]; rfl) (by omega) (by decide) (by decide) hb
  next =>
  split at hb
  case isTrue k2 =>
    exact bodyFits_of_signed (w := 39) (by rw [k2]; rfl) (by omega) (by decide) (by decide) hb
  next =>
  split at hb
  case isTrue k3 => exact bodyFits_of_patterns k3 hb
  next =>
    have he : b.body = [] := List.isEmpty_iff.1 hb
    exact ⟨by simp [he], by simp [he], by simp [he]⟩

theorem redImage_length (b : RedBlock) : b.image.length = 256 := by
  simp [RedBlock.image, leBytes_length]

/-- The ten numbers of the header and the body, each at its offset. -/
theorem numAt_redImage {b : RedBlock} (h : RedFits b) :
    numAt b.image 0 1 = b.byte0 ∧ numAt b.image 1 1 = b.eb ∧ numAt b.image 2 1 = b.pk ∧
    numAt b.image 3 1 = b.attempt ∧ numAt b.image 4 2 = b.bucket ∧ numAt b.image 6 2 = 0 ∧
    numAt b.image 8 4 = b.step ∧ numAt b.image 12 3 = b.first ∧ numAt b.image 15 1 = b.body.length ∧
    numAt b.image 16 240 = packBits (RedBlock.elemBits b.kind) b.body := by
  obtain ⟨hk, he, hp, ha, hu, hs, hf, ⟨hl, hb, -⟩⟩ := h
  have h0 : b.byte0 < 256 := by
    have := Bool.toNat_le b.nf
    have := Bool.toNat_le b.ov
    have := Bool.toNat_le b.last
    have := Bool.toNat_le b.changed
    rw [RedBlock.byte0]
    omega
  simp only [RedBlock.image, numAt_append_of_le, numAt_append_leBytes, numAt_leBytes, Nat.reduceLeDiff, Nat.reduceSub,
    Nat.mod_eq_of_lt (packBits_lt_bytes hb)]
  refine ⟨?_, ?_, ?_, ?_, ?_, ?_, ?_, ?_, ?_, trivial⟩ <;> omega

/-- KIND and the four flags of byte 0 read back. -/
theorem redByte0_fields {b : RedBlock} (hk : b.kind < 16) : b.byte0 % 16 = b.kind ∧ bitOf b.byte0 4 = b.nf ∧
    bitOf b.byte0 5 = b.ov ∧ bitOf b.byte0 6 = b.last ∧ bitOf b.byte0 7 = b.changed := by
  have := Bool.toNat_le b.nf; have := Bool.toNat_le b.ov; have := Bool.toNat_le b.last; have := Bool.toNat_le b.changed
  rw [RedBlock.byte0]
  refine ⟨by omega, ?_, ?_, ?_, ?_⟩ <;> exact bitOf_of_toNat (by omega)

theorem ofImage_redImage {b : RedBlock} (h : RedFits b) : RedBlock.ofImage b.image = b := by
  obtain ⟨n0, n1, n2, n3, n4, -, n8, n12, n15, n16⟩ := numAt_redImage h
  obtain ⟨bk, bnf, bov, bl, bc⟩ := redByte0_fields h.kind
  have hbody : (b.body.map (unsignedOf (RedBlock.elemBits b.kind))).map (redElem b.kind) = b.body := by
    rw [List.map_map]
    exact (List.map_congr_left h.body.elems).trans (List.map_id _)
  simp only [RedBlock.ofImage, n0, n1, n2, n3, n4, n8, n12, n15, n16, bk, bnf, bov, bl, bc, fieldsOf_packBits,
    map_redElem, hbody,
    Nat.mod_eq_of_lt h.attempt]

/-! ### Control messages (R218, R219) -/

theorem ctlImage_length (m : CtlMsg) : m.image.length = 256 := by
  simp [CtlMsg.image, leBytes_length]

/-- The four lanes of a digest. -/
theorem digest_of_length {l : List Nat} (h : l.length = 4) : [l.getD 0 0, l.getD 1 0, l.getD 2 0, l.getD 3 0] = l := by
  match l, h with
  | [_, _, _, _], _ => rfl

theorem digest_lane_lt {l : List Nat} (h : l.all isWord = true) (k : Nat) : l.getD k 0 < 2 ^ 64 := by
  rw [List.getD_eq_getElem?_getD]
  cases hk : l[k]? with
  | none => simp
  | some v => simpa [isWord] using List.all_eq_true.1 h v (List.mem_of_getElem? hk)

theorem ctlByte2_fields {m : CtlMsg} (hm : m.mon < 4) (hp : m.policy < 4) : m.byte2 < 256 ∧ m.byte2 % 4 = m.mon ∧
    bitOf m.byte2 2 = m.nf ∧ bitOf m.byte2 3 = m.ov ∧ bitsOf m.byte2 4 2 = m.policy ∧ bitOf m.byte2 6 = m.wide := by
  have := Bool.toNat_le m.nf; have := Bool.toNat_le m.ov; have := Bool.toNat_le m.wide
  rw [CtlMsg.byte2]
  exact ⟨by omega, by omega, bitOf_of_toNat (by omega), bitOf_of_toNat (by omega), by rw [bitsOf]; omega,
    bitOf_of_toNat (by omega)⟩

theorem ofImage_ctlImage {m : CtlMsg} (h : m.wf = true) : CtlMsg.ofImage m.image = m := by
  simp only [CtlMsg.wf, Bool.and_eq_true, decide_eq_true_eq] at h
  obtain ⟨⟨⟨⟨⟨⟨⟨⟨⟨⟨⟨⟨⟨⟨ht, hr⟩, hm⟩, hp⟩, hy⟩, hs⟩, hb⟩, hv⟩, ho⟩, hc⟩, hj⟩, hd⟩, hk⟩, hl⟩, hw⟩ := h
  obtain ⟨h2, bm, bnf, bov, bp, bw⟩ := ctlByte2_fields hm hp
  have lane (k : Nat) : m.digest.getD k 0 % 256 ^ 8 = m.digest.getD k 0 := Nat.mod_eq_of_lt (digest_lane_lt hw k)
  simp only [CtlMsg.ofImage, CtlMsg.image, numAt_append_of_le, numAt_append_leBytes, Nat.reduceLeDiff, Nat.reduceSub,
    lane, digest_of_length hl, Nat.mod_eq_of_lt (a := m.type) (b := 256 ^ 1) ht,
    Nat.mod_eq_of_lt (a := m.reason) (b := 256 ^ 1) hr, Nat.mod_eq_of_lt (a := m.byte2) (b := 256 ^ 1) h2,
    Nat.mod_eq_of_lt (a := m.replays) (b := 256 ^ 1) hy, Nat.mod_eq_of_lt (a := m.step) (b := 256 ^ 4) hs,
    Nat.mod_eq_of_lt (a := m.bcstep) (b := 256 ^ 4) hb, Nat.mod_eq_of_lt (a := m.version) (b := 256 ^ 4) hv,
    Nat.mod_eq_of_lt (a := m.origin) (b := 256 ^ 2) ho, Nat.mod_eq_of_lt (a := m.count) (b := 256 ^ 2) hc,
    Nat.mod_eq_of_lt (a := m.subject) (b := 256 ^ 2) hj, Nat.mod_eq_of_lt (a := m.detail) (b := 256 ^ 4) hd,
    Nat.mod_eq_of_lt (a := m.ckpt) (b := 256 ^ 4) hk, bm, bnf, bov, bp, bw]

theorem drop_ctlImage (m : CtlMsg) : m.image.drop 64 = List.replicate 192 0 := by
  simp only [CtlMsg.image, drop_append_leBytes, Nat.reduceLeDiff, Nat.reduceSub, List.drop_zero, leBytes_zero 192]

/-! ### Link blocks (R318, R319) -/

/-- The bytes before the zeros of a payload fit the 256, if at most 240 are bulk data. -/
theorem payload_head_length {p : Payload} (h : ∀ st off data, p = .bulk st off data → data.length ≤ 240) (ack : Nat) :
    (p.head ack).length ≤ 256 := by
  cases p with
  | ctl m => exact (ctlImage_length m).le
  | red b => exact (redImage_length b).le
  | bulk st off data =>
    have := h st off data rfl
    simp only [Payload.head, List.length_append, leBytes_length]
    omega
  | fence _ _ => simp [Payload.head, leBytes_length]
  | nak _ _ => simp [Payload.head, leBytes_length]
  | creditSync _ _ _ => simp [Payload.head, leBytes_length]
  | ident _ _ _ => simp [Payload.head, leBytes_length]
  | idle => simp [Payload.head]

theorem linkBody_length {b : LinkBlock} (h : ∀ st off data, b.pay = .bulk st off data → data.length ≤ 240) :
    b.body.length = 272 := by
  have := payload_head_length h b.ack
  simp only [LinkBlock.body, Payload.image, List.length_append, List.length_replicate, leBytes_length]
  omega

theorem linkImage_eq {b : LinkBlock} (h : ∀ st off data, b.pay = .bulk st off data → data.length ≤ 240) :
    b.image.length = 276 ∧ b.image.take 272 = b.body ∧ b.image.drop 272 = leBytes 4 (crc32c (b.image.take 272)) := by
  have hl := linkBody_length h
  have ht : b.image.take 272 = b.body := List.take_left' hl
  refine ⟨?_, ht, ?_⟩
  · rw [LinkBlock.image, List.length_append, hl, leBytes_length]
  · rw [ht]
    exact List.drop_left' hl

/-- Settles O59: every number stands at its offset, packed elements at their bits, and a reader takes back what fits. -/
theorem wireFormatsRoundTrip : Obligations.WireFormatsRoundTrip := by
  refine ⟨fun b h => ?_, fun m h => ⟨ctlImage_length m, ofImage_ctlImage h, drop_ctlImage m⟩, fun b h => linkImage_eq h⟩
  obtain ⟨-, n1, n2, n3, n4, n6, n8, n12, n15, n16⟩ := numAt_redImage (redFits_of_wf h)
  exact ⟨redImage_length b, ofImage_redImage (redFits_of_wf h), n1, n2, n3, n4, n6, n8, n12, n15,
    fun k v hv => n16 ▸ packBits_field _ hv⟩

end Sys2Proof.Machine
end

section
/-! The numbers of spec/02: packed elements (R31), integer formats (R42) and sums of contributions (R43, R44). -/

namespace Sys2Proof.Machine

/-! ### Packed elements in memory (R31) -/

/-- A 2-bit operand in the scratchpad. -/
def packedDesc : Desc := { format := 5, loc := 0 }

/-- Beyond the end of its space a byte is not written: no memory answers there. -/
theorem wrBits_absent {space b w : Nat} (hw : w < 8) (h : spaceTop space ≤ b / 8) (s : State) (v : Nat) :
    s.wrBits space b w v = s := by
  rw [State.wrBits, if_pos hw, State.wr, if_pos h]

/-- Refutes O48: beyond the end of the scratchpad no memory answers, so of the writes of 0 and of 1 to an element there
one does not read back. -/
theorem not_packedElementsReadInOrder : ¬ Obligations.PackedElementsReadInOrder := by
  intro h
  obtain ⟨-, hw⟩ := h State.reset packedDesc scratchTop (by decide) (by decide)
  have reads (v : Nat) : State.reset.opBits packedDesc (8 * scratchTop) 2 = v % 4 := by
    have := hw 0 0 v (by decide) (by decide)
    rw [wrBits_absent (by decide) (by decide)] at this
    simpa [packedDesc, fmtBits] using this
  exact absurd ((reads 0).symm.trans (reads 1)) (by decide)

/-! ### Integer formats (R42) -/

theorem rawVal_signed {f : Nat} (hf : fmtSigned f = true) (eb raw : Nat) :
    rawVal f eb raw = .fin (signedOf (fmtBits f) raw) := by
  have h : f = 9 ∨ f = 0xa ∨ f = 0xb ∨ f = 0xf := by simpa [fmtSigned, or_assoc] using hf
  rw [rawVal, if_neg (by omega), if_neg (by omega), if_neg (by omega), if_neg (by omega), if_pos hf]

theorem rawVal_unsigned {f : Nat} (hf : fmtSigned f = false) (h2 : 2 ≤ f) (h7 : f ≠ 7) (h8 : f ≠ 8) (eb raw : Nat) :
    rawVal f eb raw = .fin (raw % 2 ^ fmtBits f : Nat) := by
  rw [rawVal, if_neg (by omega), if_neg (by omega), if_neg h7, if_neg h8, if_neg (by simp [hf])]

/-- A saturated integer lies in the range of its width. -/
theorem saturateInt_range (w : Nat) (z : Int) :
    -(2 ^ w : Int) ≤ (saturateInt true (w + 1) z).val ∧ (saturateInt true (w + 1) z).val < 2 ^ w := by
  have hp : (0 : Int) < 2 ^ w := by positivity
  simp only [saturateInt, if_true, Nat.add_sub_cancel, Nat.cast_pow, Nat.cast_ofNat]
  split
  · dsimp only
    omega
  · split <;> dsimp only <;> omega

theorem toI26_range (r : Rnd) (eb : Nat) (v : Val) :
    -(2 ^ 25 : Int) ≤ (toI26 r eb v).val ∧ (toI26 r eb v).val < 2 ^ 25 := by
  rw [toI26]
  split
  · decide
  · exact saturateInt_range 25 _

theorem encElem_I26 (eb : Nat) (r : Rnd) (v : Val) : (encElem 7 eb r v).val = unsignedOf 32 (toI26 r eb v).val := rfl

theorem signedOf_unsigned_I26 {z : Int} (lo : -(2 ^ 25) ≤ z) (hi : z < 2 ^ 25) : signedOf 26 (unsignedOf 32 z) = z := by
  have hm : unsignedOf 32 z % 2 ^ 26 = unsignedOf 26 z := by
    simp only [unsignedOf]
    omega
  have hs : signedOf 26 (unsignedOf 32 z) = signedOf 26 (unsignedOf 26 z) := by
    rw [signedOf, signedOf, hm, Nat.mod_eq_of_lt (unsignedOf_lt 26 z)]
  rw [hs, signedOf_unsignedOf lo hi]

/-- Bit 25 and those above it in the container of a 26-bit integer tell its sign. -/
theorem bitOf_unsigned_I26 {z : Int} (lo : -(2 ^ 25) ≤ z) (hi : z < 2 ^ 25) {k : Nat} (h25 : 25 ≤ k) (h32 : k < 32) :
    bitOf (unsignedOf 32 z) k = decide (z < 0) := by
  apply bitOf_of_toNat
  simp only [unsignedOf]
  by_cases hz : z < 0
  · simp only [hz]
    interval_cases k <;> simp <;> omega
  · simp only [hz]
    interval_cases k <;> simp <;> omega

/-- Settles O49: each format by how its raw bits are read, and a written I26 by the range of a contribution. -/
theorem integerFormatsReadBack : Obligations.IntegerFormatsReadBack := by
  refine ⟨fun eb raw f w h => ?_, fun eb raw f w h => ?_, fun eb raw f w h => ?_, fun eb r v => ?_⟩
  · simp only [List.mem_cons, Prod.mk.injEq, List.not_mem_nil, or_false] at h
    rcases h with ⟨rfl, rfl⟩ | ⟨rfl, rfl⟩ | ⟨rfl, rfl⟩ | ⟨rfl, rfl⟩ <;>
      rw [rawVal_signed (by decide)] <;> exact congrArg (fun z : Int => Val.fin z) (signedOf_eq _ raw)
  · simp only [List.mem_cons, Prod.mk.injEq, List.not_mem_nil, or_false] at h
    rcases h with ⟨rfl, rfl⟩ | ⟨rfl, rfl⟩ | ⟨rfl, rfl⟩ | ⟨rfl, rfl⟩ | ⟨rfl, rfl⟩ | ⟨rfl, rfl⟩ <;>
      exact rawVal_unsigned (by decide) (by decide) (by decide) (by decide) eb raw
  · simp only [List.mem_cons, Prod.mk.injEq, List.not_mem_nil, or_false] at h
    rcases h with ⟨rfl, rfl⟩ | ⟨rfl, rfl⟩
    · exact congrArg (unit152 eb) (signedOf_eq 25 raw)
    · exact congrArg (unit152 eb) (signedOf_eq 39 raw)
  · obtain ⟨lo, hi⟩ := toI26_range r eb v
    rw [encElem_I26]
    exact ⟨unsignedOf_lt 32 _, signedOf_unsigned_I26 lo hi, fun k h26 h32 => by
      rw [bitOf_unsigned_I26 lo hi (by omega) h32, bitOf_unsigned_I26 lo hi (by decide) (by decide)]⟩

/-! ### Sums of contributions (R43, R44) -/

/-- Contributions sum to at most 2 ^ 25 in magnitude each. -/
theorem sum_I26_range (r : Rnd) (eb : Nat) (vs : List Val) :
    -(2 ^ 25 * vs.length : Int) ≤ (vs.map (fun v => (toI26 r eb v).val)).sum ∧
      (vs.map (fun v => (toI26 r eb v).val)).sum ≤ (2 ^ 25 - 1) * vs.length := by
  induction vs with
  | nil => simp
  | cons v vs ih =>
    have := toI26_range r eb v
    simp only [List.map_cons, List.sum_cons, List.length_cons, Nat.cast_succ]
    omega

theorem groupSum_ov (s : State) (x : Bucket) (g : Nat) : (s.groupSum x g).ov = true ↔
    (∃ k, k < x.groupLen g ∧ 0 < (toI26 .rne x.eb (s.elemVal x.grad 0 (144 * g + k))).sat) ∨
    (∃ c ∈ s.childrenIn x.b, ∃ y ∈ x.childBlocks g c, y.ov = true) := by
  simp [State.groupSum]

/-- Settles O50: each contribution lies in the range of I26, and a group's flag is one of its causes'. -/
theorem sumsStayInRange : Obligations.SumsStayInRange := by
  refine ⟨fun r eb vs h => ?_, groupSum_ov⟩
  have := sum_I26_range r eb vs
  omega

end Sys2Proof.Machine
end

section
/-! What the instructions of the grids do (R45, R144, R148 to R150, R231, R290, R292): one that runs sends its items out,
one that cannot ends, and the last item of the last tile ends its instruction. -/

namespace Sys2Proof.Machine

variable {s : State} {id : Nat} {i : Inst}

/-! ### A grid instruction runs, or fails (R144) -/

/-- The exact products of a grid instruction, in the order of its destination. -/
def productVals (s : State) (i : Inst) (p : Product) : List Val :=
  (List.range (i.d 0).count).map (s.productVal p (i.d 1) (i.d 2) (i.d 0))

/-- The products with the prior destination added, under ACC (R292). -/
def productAccs (s : State) (i : Inst) (p : Product) : List Val :=
  (List.range (i.d 0).count).map (fun k => (s.elemVal (i.d 0) 0 k).add (s.productVal p (i.d 1) (i.d 2) (i.d 0) k))

theorem runGrid_out {st : Nat} (hst : st = stOk) (hf : s.framesStatus i = stOk) (hg : s.noGrids = false) (p : Product)
    (acc : Bool) : s.runGrid i st p acc =
      (s.readFrames i).launchItems i.consuming (itemsOf (i.d 0) p.len) (i.d 0).outTiles (itemsOf (i.d 0) p.len) (i.d 0)
        (encodeVals (i.d 0) 0 (fun _ => .rne) (if acc then productAccs s i p else productVals s i p)) := by
  rw [State.runGrid, if_neg (not_not.2 hst), if_neg (not_not.2 hf), if_neg (by simp [hg])]
  cases acc <;> rfl

theorem runGrid_checkFails {st : Nat} (hst : st ≠ stOk) (p : Product) (acc : Bool) :
    s.runGrid i st p acc = s.putInst (i.end_ st) := if_pos hst

theorem runGrid_frameFails {st : Nat} (hst : st = stOk) (hf : s.framesStatus i ≠ stOk) (p : Product) (acc : Bool) :
    s.runGrid i st p acc = s.putInst (i.end_ (s.framesStatus i)) := by
  rw [State.runGrid, if_neg (not_not.2 hst), if_pos hf]
  rfl

theorem runGrid_noGrids {st : Nat} (hst : st = stOk) (hf : s.framesStatus i = stOk) (hg : s.noGrids = true) (p : Product)
    (acc : Bool) : s.runGrid i st p acc = s.putInst (i.end_ stHwUnavailable) := by
  rw [State.runGrid, if_neg (not_not.2 hst), if_neg (not_not.2 hf), if_pos hg]
  rfl

/-! ### The commands -/

theorem exec_grdFwd (h : s.mayStart 0x5000 id i) :
    exec (.grdFwd id) s = .next ((s.runGrid i (s.grdFwdStatus i) (fwdProduct i) false).afterStart id) :=
  start_eq h (fun i => s.runGrid i (s.grdFwdStatus i) (fwdProduct i) false)

theorem exec_grdDx (h : s.mayStart 0x5001 id i) :
    exec (.grdDx id) s = .next ((s.runGrid i (s.grdDxStatus i) (dxProduct i) false).afterStart id) :=
  start_eq h (fun i => s.runGrid i (s.grdDxStatus i) (dxProduct i) false)

theorem exec_grdDw (h : s.mayStart 0x5002 id i) :
    exec (.grdDw id) s = .next ((s.runGrid i (s.grdDwStatus i) (dwProduct i) (i.code.flag 6)).afterStart id) :=
  start_eq h (fun i => s.runGrid i (s.grdDwStatus i) (dwProduct i) (i.code.flag 6))

/-- Each of the three is a grid product with its own checks, product and use of ACC. -/
theorem exec_grid_runs {c : Instr} {op st : Nat} (hm : (c, op, st) ∈ [(Instr.grdFwd id, 0x5000, s.grdFwdStatus i),
      (.grdDx id, 0x5001, s.grdDxStatus i), (.grdDw id, 0x5002, s.grdDwStatus i)]) (h : s.mayStart op id i) :
    ∃ p acc, exec c s = .next ((s.runGrid i st p acc).afterStart id) := by
  simp only [List.mem_cons, Prod.mk.injEq, List.not_mem_nil, or_false] at hm
  rcases hm with ⟨rfl, rfl, rfl⟩ | ⟨rfl, rfl, rfl⟩ | ⟨rfl, rfl, rfl⟩
  · exact ⟨_, _, exec_grdFwd h⟩
  · exact ⟨_, _, exec_grdDx h⟩
  · exact ⟨_, _, exec_grdDw h⟩

theorem exec_gridItem_eq (id g : Nat) (agree : Bool) (s : State) :
    exec (.gridItem id g agree) s = execGridItem id g agree s := by rfl

/-- The last item of the last tile, with an agreeing residue and none in dispute (R144, R231). -/
theorem exec_gridItem_last {g : Nat} {r : GridRun} {d : Desc} {e : Encoded}
    (hr : s.dispatch.units.running.find? (fun r => r.grid == g && r.inst == id) = some r) (hl : r.live = true)
    (hi : s.dispatch.inst id = some i) (hrun : i.phase = .running) (h1 : i.items = 1)
    (hn : nth i.left (i.itemTile r.item) = 1) (hp : i.pend = [(d, e)])
    (hu : s.units.unsettled.all (fun u => u.2.2 != id) = true) :
    exec (.gridItem id g true) s = .next ((s.dispatch.itemEnds r).endItem i r true).dispatch ∧
    let u := (s.dispatch.itemEnds r).putInst
      { i with items := 0, otherHalf := i.otherHalf || (r.dw == decide (r.grid < 128)) }
    let t := ((s.dispatch.itemEnds r).endItem i r true).dispatch
    t.hbm = (u.wrPart d e (fun k => d.outTileOf k == i.itemTile r.item)).hbm ∧
    t.scratch = (u.wrPart d e (fun k => d.outTileOf k == i.itemTile r.item)).scratch ∧
    (t.inst id).map (fun j => (j.phase == .done && isSuccess j.status, j.pend.isEmpty)) = some (true, true) := by
  have hend := endItem_last (u := s.dispatch.itemEnds r) (r := r) (by simpa using hi) h1 hn hp hrun (by simpa using hu)
  refine ⟨?_, ?_⟩
  · rw [exec_gridItem_eq, gridItem_eq hr hi, if_neg (by simp [hl, h1])]
  · simpa only [dispatch_hbm, dispatch_scratch, dispatch_inst] using hend

/-- Settles O9: the three products by the ways a grid instruction runs, and an item by the ways it ends. -/
theorem gridInstructionsComplete : Obligations.GridInstructionsComplete := by
  intro s id i
  refine ⟨fun h hst hf hg => ?_, fun h hst hf hg => ?_, fun h hst hf hg => ?_, fun c op st hm h => ?_,
    fun g r agree hr hi => (exec_gridItem_eq id g agree s).trans (gridItem_eq hr hi),
    fun g r d e hr hl hi hrun h1 hn hp hu => ?_⟩
  · rw [exec_grdFwd h, runGrid_out hst hf hg]
    rfl
  · rw [exec_grdDx h, runGrid_out hst hf hg]
    rfl
  · rw [exec_grdDw h, runGrid_out hst hf hg]
    rfl
  · obtain ⟨p, acc, hc⟩ := exec_grid_runs hm h
    rw [hc]
    exact ⟨fun hst => by rw [runGrid_checkFails hst], fun hst hf => by rw [runGrid_frameFails hst hf],
      fun hst hf hg => by rw [runGrid_noGrids hst hf hg]⟩
  · exact ⟨_, exec_gridItem_last hr hl hi hrun h1 hn hp hu⟩

end Sys2Proof.Machine
end

section
/-! Buckets enter the interface and send their groups (R43, R44, R194, R196 to R198, R200 to R202, R226). -/

namespace Sys2Proof.Machine

variable {s : State} {x : Bucket} {i : Inst}

/-! ### A bucket of the step -/

theorem bucket_b {b : Nat} (h : s.bucket b = some x) : x.b = b := by
  simpa using List.find?_some h

/-- A bucket of the step that was replaced reads as written. -/
theorem bucket_putBucket_same {b : Nat} {y : Bucket} (h : s.bucket b = some x) (hb : y.b = b) :
    (s.putBucket y).bucket b = some y := by
  have hf : ((fun z => z.b == b) ∘ fun z : Bucket => if z.b = y.b then y else z) = fun z => z.b == b := by
    funext z
    by_cases hz : z.b = y.b
    · simp [hz]
    · simp [hz]
  have hx : s.col.buckets.find? (fun z => z.b == b) = some x := h
  rw [State.bucket, State.putBucket, List.find?_map, hf, hx]
  simp [bucket_b h, hb]

theorem freeHeld_col (s : State) (q : Nat → Bool) : (s.freeHeld q).col = s.col := by
  have fold (l : List (Nat × Nat)) (t : State) : (l.foldl (fun t x => t.freeCredit x.1 1) t).col = t.col := by
    induction l generalizing t with
    | nil => rfl
    | cons a l ih => exact (ih _).trans rfl
  exact fold _ _

/-! ### Entry (R194, R200, R201) -/

/-- The state in which the history of a bucket has been read: an uncorrectable error there is a failed check. -/
def historyRead (s : State) (x : Bucket) : State :=
  if s.poisonedRange 1 (s.f F.colHistBase + 4 * x.b) 4 then s.stateError unitNet else s

/-- A bucket probes at entry unless its history holds a non-zero peak. -/
def entryProbes (s : State) (x : Bucket) : Bool :=
  s.col.probeAll || (match s.peakOf x.b with
    | some p => p == 0
    | none => true)

/-- The bucket is in the interface, and the next one of the step is awaited. -/
def putEntered (s : State) (x : Bucket) : State :=
  let t := s.putBucket { x with
    entered := true, probing := entryProbes s x, eb := if entryProbes s x then 0 else ebOf ((s.peakOf x.b).getD 0) }
  { t with col := { t.col with next := t.col.next + 1 } }

/-- A probe is counted and goes on as far as it can. -/
def beginProbe (s : State) (x : Bucket) : State :=
  (({ s with
    col := { s.col with probes := s.col.probes + 1 },
    pup := { s.pup with acc := { s.pup.acc with probed := true } } } : State).addF F.colProbes 1).probeOn x.b

/-- The blocks that came before the bucket are taken, and their credits are free. -/
def takeHeld (s : State) (x : Bucket) : State :=
  (s.col.early.filter (fun e => e.2.bucket == x.b)).foldl (fun t e => t.takeEarly e.1 e.2)
    (({ s with col := { s.col with early := s.col.early.filter (fun e => e.2.bucket != x.b) } } : State).freeHeld
      (fun b => b == x.b))

/-- What the entry of a bucket does. -/
def enterBucket (s : State) (x : Bucket) : State :=
  let r := historyRead s x
  takeHeld (if entryProbes r x then beginProbe (putEntered r x) x else putEntered r x) x

theorem bucketEntry_enters (hb : s.bucket s.col.next = some x) (hi : s.inst x.id = some i) (hr : i.released = true)
    (he : x.entered = false) (hn : s.inInterface < 64) (ht : s.col.settleAt ≤ s.aon) :
    execBucketEntry s = .next (enterBucket s x) := by
  unfold execBucketEntry
  simp only [hb, hi]
  rw [if_neg (by simp [he, hr, hn, ht])]
  rfl

theorem bucketEntry_waits (hb : s.bucket s.col.next = some x) (hi : s.inst x.id = some i)
    (h : i.released = false ∨ 64 ≤ s.inInterface ∨ s.aon < s.col.settleAt) : execBucketEntry s = .next s := by
  unfold execBucketEntry
  simp only [hb, hi]
  rw [if_pos]
  rcases h with h | h | h <;> simp [h]

/-- With a non-zero peak in the history and nothing held, the bucket begins with the exponent of that peak. -/
theorem enterBucket_of_peak {p : Nat} (ha : s.col.probeAll = false) (hp : s.peakOf x.b = some p) (h0 : p ≠ 0)
    (hl : s.col.early = []) (hc : s.poison = []) : (enterBucket s x).col =
      { (s.putBucket { x with entered := true, probing := false, eb := min (p + 2) 0xfe }).col with
        next := s.col.next + 1 } := by
  have hread : historyRead s x = s := if_neg (by simp [State.poisonedRange, hc])
  have hprobe : entryProbes s x = false := by simp [entryProbes, ha, hp, h0]
  simp only [enterBucket, hread, hprobe, takeHeld, putEntered, hp, ebOf, State.putBucket, hl, List.filter_nil,
    List.foldl_nil, freeHeld_col, Option.getD_some, h0, if_false, Bool.false_eq_true]

theorem exec_bucketEntry_eq (s : State) : exec .bucketEntry s = execBucketEntry s := by rfl

theorem exec_bucketEntry_of_peak {p : Nat} (hb : s.bucket s.col.next = some x) (hi : s.inst x.id = some i)
    (hr : i.released = true) (he : x.entered = false) (hn : s.inInterface < 64) (ht : s.col.settleAt ≤ s.aon)
    (ha : s.col.probeAll = false) (hp : s.peakOf x.b = some p) (h0 : p ≠ 0) (hl : s.col.early = [])
    (hc : s.poison = []) : ∃ t : State, exec .bucketEntry s = .next t ∧ t.col.next = s.col.next + 1 ∧
      t.bucket x.b = some { x with entered := true, probing := false, eb := min (p + 2) 0xfe } := by
  have hcol := enterBucket_of_peak ha hp h0 hl hc
  refine ⟨_, (exec_bucketEntry_eq s).trans (bucketEntry_enters hb hi hr he hn ht), by rw [hcol], ?_⟩
  rw [State.bucket, hcol]
  exact bucket_putBucket_same ((bucket_b hb).symm ▸ hb) rfl

/-! ### The groups (R196, R197, R202) -/

theorem exec_groupSend_eq (b : Nat) (s : State) : exec (.groupSend b) s = execGroupSend b s := by rfl

/-- A bucket with its next group, as that leaves or stands for the update. -/
def withGroup (x : Bucket) (g : GroupSum) : Bucket :=
  { x with
    sent := x.sent + 1, nf := x.nf || g.nf, ov := x.ov || g.ov, pk := max x.pk g.pk, sat := x.sat + g.sat,
    nfc := x.nfc + g.nfc }

theorem groupSend_ready {b : Nat} (hb : s.bucket b = some x) (he : x.entered = true) (hp : x.probing = false)
    (hs : x.sent < x.groups) (hg : s.groupHere x x.sent = true) : execGroupSend b s = .next
      (match s.parentIn b with
      | none => if (s.groupSum x x.sent).ov && x.mayRetry then s.reReduce x
        else s.putBucket (withGroup x (s.groupSum x x.sent))
      | some r =>
        (cutBody (if (s.childrenIn b).isEmpty then 72 else 48) 3 (144 * x.sent) (s.groupSum x x.sent).sums).foldl
          (fun t c => t.sendRed r { s.blockOf x (if (s.childrenIn b).isEmpty then 1 else 2) with
            pk := (s.groupSum x x.sent).pk, nf := (s.groupSum x x.sent).nf, ov := (s.groupSum x x.sent).ov,
            first := c.1, body := c.2, last := decide (c.1 + c.2.length = x.count) })
          (s.putBucket (withGroup x (s.groupSum x x.sent)))) := by
  unfold execGroupSend
  simp only [hb]
  rw [if_neg (by simp [he, hp, hs, hg])]
  cases s.parentIn b <;> rfl

theorem groupSend_waits {b : Nat} (hb : s.bucket b = some x)
    (h : x.entered = false ∨ x.probing = true ∨ x.groups ≤ x.sent ∨ s.groupHere x x.sent = false) :
    execGroupSend b s = .next s := by
  unfold execGroupSend
  simp only [hb]
  rw [if_pos]
  rcases h with h | h | h | h <;> simp [h]

/-- Settles O26: the entry of a bucket and the sending of a group, each by its own guard. -/
theorem bucketsEnterAndSend : Obligations.BucketsEnterAndSend := by
  intro s x i b p r
  refine ⟨fun hb hi hr he hn ht => (exec_bucketEntry_eq s).trans (bucketEntry_enters hb hi hr he hn ht),
    fun hb hi hr he hn ht => exec_bucketEntry_of_peak hb hi hr he hn ht,
    fun hb hi h => (exec_bucketEntry_eq s).trans (bucketEntry_waits hb hi h),
    fun hb he hp hs hg => ?_, fun hb h => (exec_groupSend_eq b s).trans (groupSend_waits hb h)⟩
  rw [exec_groupSend_eq, groupSend_ready hb he hp hs hg]
  refine ⟨fun hr => ?_, fun hr hno => ?_, fun hr hov hm => ?_⟩
  · rw [hr]
    rfl
  · rw [hr]
    dsimp only
    rw [if_neg (by rcases hno with h | h <;> simp [h])]
    rfl
  · rw [hr]
    dsimp only
    rw [if_pos (by simp [hov, hm])]
    rfl

end Sys2Proof.Machine
end

section
/-! What the quiet commands leave alone: one lemma for each operation that they share, which says that it stores nothing,
then the commands by the operation that each goes through. -/

namespace Sys2Proof.Machine

/-! ### What is stored -/

/-- What a quiet command leaves alone: the memories, the seesaw, the tokens, the fuses, the job, the endpoint ID and the
commands that wait. -/
structure Stored where
  hbm     : List Host.Cell
  scratch : List Host.Cell
  host    : List Host.Cell
  seesaw  : Seesaw
  tokens  : List (Nat × Tok)
  fuses   : Fuses
  load    : Load
  eid     : Nat
  pending : List Instr

/-- The part of a state that a quiet command leaves alone. -/
def State.stored (s : State) : Stored :=
  ⟨s.hbm, s.scratch, s.host, s.seesaw, s.sch.tokens, s.fuses, s.load, s.eid, s.pending⟩

/-- A state put together from what `u` stores, with the rest as it may be, stores what `u` does. -/
@[simp] theorem stored_lit {u : State} {freeCtr aon : Nat} {regs : List (Nat × Nat)}
    {poison : List (Nat × Nat × Option Nat)} {sch : Sch} {val : Valley} {units : Units} {evt : Evt} {pass : Pass} {col : Col}
    {fab : Fab} {arr : Arr} {pup : Pup} {cxl : Cxl} {pwr : Power} {boot : Boot} {sec : Sec}
    {bel : Belgar} {ecc : Ecc} {out : Out} (h : sch.tokens = u.sch.tokens) :
    State.stored ⟨u.pending, freeCtr, aon, regs, u.hbm, u.scratch, u.host, poison, sch, val, units, evt, pass, col, fab,
      u.seesaw, arr, pup, u.load, cxl, pwr, boot, u.fuses, sec, bel, ecc, u.eid, out⟩ = u.stored := by
  simp only [State.stored, h]

@[simp] theorem stored_ite {c : Prop} [Decidable c] {a b : State} :
    (if c then a else b).stored = if c then a.stored else b.stored := apply_ite _ _ _ _

@[simp] theorem foldl_stored {α : Type} {g : State → α → State} (h : ∀ t a, (g t a).stored = t.stored) (l : List α)
    (s : State) : (l.foldl g s).stored = s.stored := by
  induction l generalizing s with
  | nil => rfl
  | cons a l ih => exact (ih _).trans (h s a)

/-- An outcome whose next state stores what `s` does. -/
def StoresNothing (s : State) (o : Host.Outcome State Fault Refusal) : Prop := ∀ t, o = .next t → t.stored = s.stored

@[simp] theorem storesNothing_next {s t : State} : StoresNothing s (.next t) ↔ t.stored = s.stored :=
  ⟨fun h => h t rfl, fun h _ e => by cases e; exact h⟩

@[simp] theorem storesNothing_ite {s : State} {c : Prop} [Decidable c] {a b : Host.Outcome State Fault Refusal} :
    StoresNothing s (if c then a else b) ↔ (c → StoresNothing s a) ∧ (¬ c → StoresNothing s b) := by
  split <;> simp [*]

theorem storesNothing_if {s : State} {c : Prop} [Decidable c] {a b : Host.Outcome State Fault Refusal}
    (ha : StoresNothing s a) (hb : StoresNothing s b) : StoresNothing s (if c then a else b) := by split <;> assumption

@[simp] theorem ite_fst_stored {α : Type} {c : Prop} [Decidable c] {p q : State × α} :
    (if c then p else q).1.stored = if c then p.1.stored else q.1.stored :=
  apply_ite (fun r : State × α => r.1.stored) _ _ _

/-! ### Registers, events, instructions in flight and accesses -/

@[simp] theorem setF_stored (s : State) (x : Fld) (v : Nat) : (s.setF x v).stored = s.stored := stored_lit rfl

@[simp] theorem addF_stored (s : State) (x : Fld) (n : Nat) : (s.addF x n).stored = s.stored := by
  simp [State.addF]

@[simp] theorem clearF_stored (s : State) (xs : List Fld) : (s.clearF xs).stored = s.stored := by
  simp [State.clearF]

@[simp] theorem addPoison_stored (s : State) (space line : Nat) (by_ : Option Nat) :
    (s.addPoison space line by_).stored = s.stored := by
  simp [State.addPoison]

@[simp] theorem tick_stored (s : State) : s.tick.stored = s.stored := stored_lit rfl

@[simp] theorem msi_stored (s : State) (v : Nat) : (s.msi v).stored = s.stored := by
  simp [State.msi]

@[simp] theorem putRate_stored (s : State) (code : Nat) (r : Rate) :
    (s.putRate code r).stored = s.stored := stored_lit rfl

@[simp] theorem frontPush_stored (s : State) (e : Event) : (s.frontPush e).stored = s.stored := by
  simp [State.frontPush]

@[simp] theorem raise_stored (s : State) (e0 : Event) : (s.raise e0).stored = s.stored := by
  simp [State.raise]

@[simp] theorem ev_stored (s : State) (code unit arg0 arg1 : Nat) : (s.ev code unit arg0 arg1).stored = s.stored := by
  simp [State.ev]

@[simp] theorem evI_stored (s : State) (code unit arg0 arg1 : Nat) (i : Inst) :
    (s.evI code unit arg0 arg1 i).stored = s.stored := by
  simp [State.evI]

@[simp] theorem violation_stored (s : State) (k : Nat) : (s.violation k).stored = s.stored := by
  simp [State.violation]

@[simp] theorem modPass_stored (s : State) (g : Pass → Pass) : (s.modPass g).stored = s.stored := stored_lit rfl

@[simp] theorem modPup_stored (s : State) (g : Pup → Pup) : (s.modPup g).stored = s.stored := stored_lit rfl

@[simp] theorem putFail_stored (s : State) (reason detail : Nat) : (s.putFail reason detail).stored = s.stored := by
  simp [State.putFail]

@[simp] theorem failCheck_stored (s : State) (reason detail : Nat) : (s.failCheck reason detail).stored = s.stored := by
  unfold State.failCheck
  split
  · rfl
  · split <;> simp

@[simp] theorem stateError_stored (s : State) (unit : Nat) : (s.stateError unit).stored = s.stored := by
  simp [State.stateError]

@[simp] theorem putInst_stored (s : State) (i : Inst) : (s.putInst i).stored = s.stored := stored_lit rfl

@[simp] theorem modInst_stored (s : State) (id : Nat) (g : Inst → Inst) :
    (s.modInst id g).stored = s.stored := stored_lit rfl

@[simp] theorem modAll_stored (s : State) (g : Inst → Inst) : (s.modAll g).stored = s.stored := stored_lit rfl

@[simp] theorem putQst_stored (s : State) (q : Nat) (x : QSt) : (s.putQst q x).stored = s.stored := stored_lit rfl

@[simp] theorem progress_stored (s : State) : s.progress.stored = s.stored := stored_lit rfl

@[simp] theorem pwrInt_stored (s : State) : s.pwrInt.stored = s.stored := by
  simp [State.pwrInt]

@[simp] theorem wakeUp_stored (s : State) (code : Nat) : (s.wakeUp code).stored = s.stored := by
  simp [State.wakeUp]

@[simp] theorem touchHbm_stored (s : State) : s.touchHbm.stored = s.stored := by
  simp [State.touchHbm]

@[simp] theorem latchAccess_stored (s : State) (c : Instr) : (s.latchAccess c).stored = s.stored := by
  simp [State.latchAccess]

/-- An access stores what its effect stores, and otherwise nothing. -/
theorem hostAccess_storesNothing {s : State} {c : Instr} {sec : Bool} {run : State → State}
    (h : (run s).stored = s.stored) : StoresNothing s (s.hostAccess c sec run) := by
  simp [State.hostAccess, h]

@[simp] theorem busError_stored (s : State) (o : HostOutcome) : (s.busError o).stored = s.stored := by
  unfold State.busError
  split <;> simp

/-! ### The allocators and the scheduler -/

theorem evictOldest_stored {s : State} {e : State × Nat} (h : s.evictOldest = some e) : e.1.stored = s.stored := by
  unfold State.evictOldest at h
  split at h
  · split at h
    · cases h; rfl
    · cases h
  · cases h

@[simp] theorem valleyFull_stored (s : State) : s.valleyFull.stored = s.stored := by
  simp [State.valleyFull]

@[simp] theorem putFrame_stored (s : State) (n : Nat) (f : Frame) : (s.putFrame n f).stored = s.stored := stored_lit rfl

@[simp] theorem readFrame_stored (s : State) (f : Frame) : (s.readFrame f).stored = s.stored := by
  simp [State.readFrame]

@[simp] theorem pageOut_stored (s : State) (k : Nat) : (s.pageOut k).stored = s.stored := by
  induction k generalizing s with
  | zero => rfl
  | succ k ih =>
    unfold State.pageOut
    split
    · rfl
    · split
      case h_1 e he => exact (ih e.1).trans (evictOldest_stored he)
      case h_2 => rfl

@[simp] theorem endChain_stored (s : State) (ids : List Nat) (st : Nat) : (s.endChain ids st).stored = s.stored := by
  simp [State.endChain]

@[simp] theorem fails_stored (s : State) (i : Inst) (st : Nat) : (s.fails i st).stored = s.stored := by
  simp [State.fails]

@[simp] theorem claimFails_stored (s : State) (i : Inst) : (s.claimFails i).stored = s.stored := by
  simp [State.claimFails]

@[simp] theorem fillFrame_stored (s : State) (i : Inst) (data : List Byte) (flags : Nat) :
    (s.fillFrame i data flags).stored = s.stored := by
  unfold State.fillFrame
  split
  · rfl
  · split <;> simp

@[simp] theorem finishes_stored (s : State) (i : Inst) (sat nf result : Nat) :
    (s.finishes i sat nf result).stored = s.stored := by
  simp [State.finishes]

@[simp] theorem checkFails_stored (s : State) (i : Inst) (reason detail : Nat) :
    (s.checkFails i reason detail).stored = s.stored := by
  simp [State.checkFails]

@[simp] theorem readFails_stored (s : State) (i : Inst) (reason : Nat) : (s.readFails i reason).stored = s.stored := by
  simp [State.readFails]

@[simp] theorem settleTags_stored (s : State) (id : Nat) : (s.settleTags id).stored = s.stored := by
  unfold State.settleTags
  split <;> simp

/-- A start stores what the run of its instruction stores, and otherwise nothing. -/
theorem startIf_storesNothing {s : State} {op id : Nat} {cond : Inst → Bool} {run : Inst → State}
    (h : ∀ i, (run i).stored = s.stored) : StoresNothing s (s.startIf op id cond run) := by
  unfold State.startIf
  split
  · simp
  · split
    · simp
    · split
      · simp
      · split <;> simp [h]

@[simp] theorem refreshDefer_stored (s : State) : s.refreshDefer.stored = s.stored := by
  simp [State.refreshDefer]

/-! ### The grids, the arrays and the movers -/

@[simp] theorem stampUnit_stored (s : State) (k : SleepKind) (n : Nat) :
    (s.stampUnit k n).stored = s.stored := stored_lit rfl

@[simp] theorem runItem_stored (s : State) (i : Inst) (g : Nat) : (s.runItem i g).stored = s.stored := stored_lit rfl

@[simp] theorem dispatch_stored (s : State) : s.dispatch.stored = s.stored := by
  refine foldl_stored (fun t g => ?_) _ s
  split
  · split <;> simp
  · rfl

@[simp] theorem dropRuns_stored (s : State) (p : Nat → Bool) : (s.dropRuns p).stored = s.stored := stored_lit rfl

@[simp] theorem launchItems_stored (s : State) (i : Inst) (items tiles result : Nat) (d : Desc) (e : Encoded) :
    (s.launchItems i items tiles result d e).stored = s.stored := by
  rw [State.launchItems, dispatch_stored, putInst_stored]

@[simp] theorem readFrames_stored (s : State) (i : Inst) : (s.readFrames i).stored = s.stored := by
  refine foldl_stored (fun t n => ?_) _ s
  split <;> simp

@[simp] theorem runGrid_stored (s : State) (i : Inst) (st : Nat) (p : Product) (acc : Bool) :
    (s.runGrid i st p acc).stored = s.stored := by
  simp [State.runGrid]

@[simp] theorem postTiles_stored (s : State) (id k : Nat) : (s.postTiles id k).stored = s.stored := by
  induction k generalizing s with
  | zero => rfl
  | succ k ih =>
    unfold State.postTiles
    split
    · rfl
    · simp [ih]

@[simp] theorem showQuarantine_stored (s : State) : s.showQuarantine.stored = s.stored := by
  simp only [State.showQuarantine, setF_stored]

@[simp] theorem stopGrids_stored (s : State) : s.stopGrids.stored = s.stored := by
  simp [State.stopGrids]

@[simp] theorem quarantine_stored (s : State) (k : UnitKind) (n : Nat) : (s.quarantine k n).stored = s.stored := by
  simp [State.quarantine]

@[simp] theorem tagLines_stored (s : State) (id : Nat) (l : List (Nat × Nat)) :
    (s.tagLines id l).stored = s.stored := by
  simp [State.tagLines]

@[simp] theorem runAgain_stored (s : State) (i : Inst) : (s.runAgain i).stored = s.stored := by
  unfold State.runAgain
  dsimp only
  rw [stored_lit rfl]
  simp

@[simp] theorem putTile_stored (s : State) (t : Nat) (x : Tile) : (s.putTile t x).stored = s.stored := stored_lit rfl

@[simp] theorem modTile_stored (s : State) (t : Nat) (g : Tile → Tile) : (s.modTile t g).stored = s.stored := by
  simp [State.modTile]

@[simp] theorem modTiles_stored (s : State) (g : Tile → Tile) : (s.modTiles g).stored = s.stored := stored_lit rfl

@[simp] theorem putLayer_stored (s : State) (h : Nat) (l : Layer) : (s.putLayer h l).stored = s.stored := stored_lit rfl

@[simp] theorem modLayer_stored (s : State) (h : Nat) (g : Layer → Layer) :
    (s.modLayer h g).stored = s.stored := stored_lit rfl

@[simp] theorem reevaluate_stored (s : State) (t : Nat) (shadow : Bool) (held : Nat) :
    (s.reevaluate t shadow held).stored = s.stored := by
  unfold State.reevaluate
  dsimp only
  split <;> simp

@[simp] theorem enterFallback_stored (s : State) (h route : Nat) : (s.enterFallback h route).stored = s.stored := by
  unfold State.enterFallback
  split <;> simp

@[simp] theorem fallsBack_stored (s : State) (h route : Nat) : (s.fallsBack h route).stored = s.stored := by
  simp [State.fallsBack]

@[simp] theorem leaveFallback_stored (s : State) (h : Nat) : (s.leaveFallback h).stored = s.stored := by
  unfold State.leaveFallback
  split <;> simp

@[simp] theorem endWaiters_stored (s : State) (op : Nat) : (s.endWaiters op).stored = s.stored := by
  refine foldl_stored (fun t i => ?_) _ s
  dsimp only
  split
  · split
    · split <;> simp
    · simp
  · rfl

@[simp] theorem sealTile_stored (s : State) (t : Nat) (b : Batch) : (s.sealTile t b).stored = s.stored := by
  simp [State.sealTile]

@[simp] theorem retire_stored (s : State) (t state reason : Nat) : (s.retire t state reason).stored = s.stored := by
  unfold State.retire
  dsimp only
  split
  · simp
  · split
    · simp
    · split <;> simp

@[simp] theorem columnFails_stored (s : State) (t p : Nat) : (s.columnFails t p).stored = s.stored := by
  simp [State.columnFails]

@[simp] theorem columnsFail_stored (s : State) (t : Nat) (ps : List Nat) : (s.columnsFail t ps).stored = s.stored := by
  simp [State.columnsFail]

@[simp] theorem endScrub_stored (s : State) : s.endScrub.stored = s.stored := by
  simp [State.endScrub]

@[simp] theorem startScrub_stored (s : State) (ts : List Nat) (cmd : Bool) :
    (s.startScrub ts cmd).stored = s.stored := by
  simp [State.startScrub]

@[simp] theorem scrubRow_stored (s : State) (t : Nat) (b : Batch) (r : Nat) (rest : List Nat) (bad : Bool) :
    (s.scrubRow t b r rest bad).stored = s.stored := by
  simp [State.scrubRow]

@[simp] theorem rowWritten_stored (s : State) (tile : Nat) (l : Layer) (b : Batch) (r : Nat) (rest failed : List Nat) :
    (s.rowWritten tile l b r rest failed).stored = s.stored := by
  unfold State.rowWritten
  dsimp only
  split <;> simp

@[simp] theorem startCrossing_stored (s : State) (shadow : Bool) (step t : Nat) :
    (s.startCrossing shadow step t).stored = s.stored := by
  simp [State.startCrossing]

@[simp] theorem fitOne_stored (s : State) (t p : Nat) (conv : List Readings) :
    (s.fitOne t p conv).stored = s.stored := by
  unfold State.fitOne
  dsimp only
  split <;> simp

theorem moverChecks_stored {s : State} {i : Inst} {crc : MoverCrc} {hold : State → State → Nat × Nat → State}
    {run : State → State} (hr : ∀ t, (run t).stored = t.stored) (hh : ∀ t u b, (hold t u b).stored = t.stored) :
    (s.moverChecks i crc hold run).stored = s.stored := by
  unfold State.moverChecks
  dsimp only
  split <;> simp [hr, hh]

@[simp] theorem releaseLayer_stored (s : State) (h : Nat) : (s.releaseLayer h).stored = s.stored := by
  unfold State.releaseLayer
  split <;> simp

@[simp] theorem disputeVetoes_stored (s : State) (d : Dispute) : (s.disputeVetoes d).stored = s.stored := by
  simp [State.disputeVetoes]

/-! ### The links and the reduction -/

@[simp] theorem putPort_stored (s : State) (p : Nat) (x : Port) : (s.putPort p x).stored = s.stored := stored_lit rfl

@[simp] theorem modPort_stored (s : State) (p : Nat) (g : Port → Port) : (s.modPort p g).stored = s.stored := by
  simp [State.modPort]

@[simp] theorem originate_stored (s : State) (o : Origin) : (s.originate o).stored = s.stored := stored_lit rfl

@[simp] theorem sendCtl_stored (s : State) (r : Nat) (m : CtlMsg) : (s.sendCtl r m).stored = s.stored := by
  simp [State.sendCtl]

@[simp] theorem sendAll_stored (s : State) (rs : List Nat) (m : CtlMsg) : (s.sendAll rs m).stored = s.stored := by
  simp [State.sendAll]

@[simp] theorem sendRed_stored (s : State) (r : Nat) (b : RedBlock) : (s.sendRed r b).stored = s.stored := by
  simp [State.sendRed]

@[simp] theorem sendReds_stored (s : State) (rs : List Nat) (b : RedBlock) : (s.sendReds rs b).stored = s.stored := by
  simp [State.sendReds]

@[simp] theorem freeCredit_stored (s : State) (p tc : Nat) : (s.freeCredit p tc).stored = s.stored := by
  simp [State.freeCredit]

@[simp] theorem showDigest_stored (s : State) (l : List Nat) : (s.showDigest l).stored = s.stored := by
  simp [State.showDigest]

@[simp] theorem computeDigests_stored (s : State) : s.computeDigests.stored = s.stored := by
  simp [State.computeDigests]

@[simp] theorem putBucket_stored (s : State) (x : Bucket) : (s.putBucket x).stored = s.stored := stored_lit rfl

@[simp] theorem probeOn_stored (s : State) (b : Nat) : (s.probeOn b).stored = s.stored := by
  unfold State.probeOn
  split
  · rfl
  · dsimp only
    split
    · rfl
    · split <;> simp

theorem arrive_stored {s : State} {from_ : Nat} {k : RedBlock} {act : State → Bucket → State}
    (h : ∀ t x, (act t x).stored = t.stored) : (s.arrive from_ k act).stored = s.stored := by
  unfold State.arrive
  split
  · rfl
  · split <;> simp [h]

theorem arriveDown_stored {s : State} {k : RedBlock} {act : State → Bucket → State}
    (h : ∀ t x, (act t x).stored = t.stored) : (s.arriveDown k act).stored = s.stored := arrive_stored h

@[simp] theorem retry_stored (s : State) (x : Bucket) (attempt eb : Nat) :
    (s.retry x attempt eb).stored = s.stored := by
  simp [State.retry]

@[simp] theorem reReduce_stored (s : State) (x : Bucket) : (s.reReduce x).stored = s.stored := by
  simp [State.reReduce]

@[simp] theorem takeUp_stored (from_ : Nat) (k : RedBlock) (s : State) (x : Bucket) :
    (State.takeUp from_ k s x).stored = s.stored := by
  simp [State.takeUp]

@[simp] theorem takeProbeDown_stored (k : RedBlock) (s : State) (x : Bucket) :
    (State.takeProbeDown k s x).stored = s.stored := by
  simp [State.takeProbeDown]

@[simp] theorem takeRetry_stored (k : RedBlock) (s : State) (x : Bucket) :
    (State.takeRetry k s x).stored = s.stored := by
  simp [State.takeRetry]

/-! ### Checkpoints, quotas and the pass -/

@[simp] theorem startDigest_stored (s : State) (step : Nat) : (s.startDigest step).stored = s.stored := by
  simp [State.startDigest]

@[simp] theorem judgeCkpt_stored (s : State) (step : Nat) (clean : Bool) :
    (s.judgeCkpt step clean).stored = s.stored := by
  simp [State.judgeCkpt]

@[simp] theorem digestOn_stored (s : State) (step : Nat) : (s.digestOn step).stored = s.stored := by
  unfold State.digestOn
  split
  · rfl
  · split
    · split
      · rfl
      · dsimp only
        split <;> simp
    · rfl
    · rfl

@[simp] theorem compareOwn_stored (s : State) (step : Nat) : (s.compareOwn step).stored = s.stored := by
  unfold State.compareOwn
  split
  · rfl
  · split <;> simp

@[simp] theorem setRootDigest_stored (s : State) (step : Nat) (l : List Nat) :
    (s.setRootDigest step l).stored = s.stored := stored_lit rfl

@[simp] theorem applyQuotas_stored (s : State) : s.applyQuotas.stored = s.stored := by
  unfold State.applyQuotas
  dsimp only
  split <;> simp only [ev_stored, setF_stored, refreshDefer_stored, pageOut_stored] <;> rfl

@[simp] theorem quotasIfIdle_stored (s : State) : s.quotasIfIdle.stored = s.stored := by
  simp [State.quotasIfIdle]

@[simp] theorem makeDue_stored (s : State) (ts : List Nat) : (s.makeDue ts).stored = s.stored := by
  simp [State.makeDue]

@[simp] theorem takeInfo_stored (s : State) (h : Nat) : (s.takeInfo h).stored = s.stored := by
  unfold State.takeInfo
  split
  · rfl
  · split <;> simp

@[simp] theorem setPst_stored (s : State) (k : Nat) : (s.setPst k).stored = s.stored := by
  simp [State.setPst]

@[simp] theorem answerWith_stored (s : State) (m : CtlMsg) : (s.answerWith m).stored = s.stored := by
  simp [State.answerWith]

@[simp] theorem answerVeto_stored (s : State) (r : Nat) : (s.answerVeto r).stored = s.stored := by
  simp [State.answerVeto]

@[simp] theorem answerNoCkpt_stored (s : State) : s.answerNoCkpt.stored = s.stored := by
  simp [State.answerNoCkpt]

@[simp] theorem sendTo_stored (s : State) (ds : List Nat) (m : CtlMsg) : (s.sendTo ds m).stored = s.stored := by
  simp [State.sendTo]

@[simp] theorem rideTable_stored (s : State) : s.rideTable.stored = s.stored := by
  unfold State.rideTable
  split <;> simp

@[simp] theorem answerCommit_stored (s : State) (m : CtlMsg) : (s.answerCommit m).stored = s.stored := by
  simp [State.answerCommit]

@[simp] theorem passAnswer_stored (s : State) : s.passAnswer.stored = s.stored := by
  unfold State.passAnswer
  split
  · rfl
  · split
    · simp
    · split
      · simp
      · split <;> simp

@[simp] theorem passFail_stored (s : State) (own : Bool) (m : CtlMsg) : (s.passFail own m).stored = s.stored := by
  unfold State.passFail
  split <;> simp

@[simp] theorem answerResume_stored (s : State) : s.answerResume.stored = s.stored := by
  simp [State.answerResume]

@[simp] theorem rootClear_stored (s : State) (m : CtlMsg) : (s.rootClear m).stored = s.stored := by
  simp [State.rootClear]

@[simp] theorem tryClear_stored (s : State) (detail : Nat) : (s.tryClear detail).stored = s.stored := by
  unfold State.tryClear
  dsimp only
  split
  · rfl
  · split <;> simp

@[simp] theorem tryClears_stored (s : State) : s.tryClears.stored = s.stored := by
  simp [State.tryClears]

/-! ### The fabric -/

@[simp] theorem sendCtlBlock_stored (s : State) (p : Nat) (pay : Payload) :
    (s.sendCtlBlock p pay).stored = s.stored := by
  simp [State.sendCtlBlock]

@[simp] theorem carried_stored (s : State) (p : Nat) (pay : Payload) : (s.carried p pay).stored = s.stored := by
  unfold State.carried
  split <;> simp

@[simp] theorem sendSync_stored (s : State) (p : Nat) : (s.sendSync p).stored = s.stored := by
  simp [State.sendSync]

@[simp] theorem dropLink_stored (s : State) (p : Nat) : (s.dropLink p).stored = s.stored := by
  simp [State.dropLink]

@[simp] theorem linkDown_stored (s : State) (p state reason : Nat) : (s.linkDown p state reason).stored = s.stored := by
  simp [State.linkDown]

@[simp] theorem startTraining_stored (s : State) (p : Nat) : (s.startTraining p).stored = s.stored := by
  simp [State.startTraining]

@[simp] theorem quarantinePort_stored (s : State) (p reason k : Nat) :
    (s.quarantinePort p reason k).stored = s.stored := by
  simp [State.quarantinePort]

@[simp] theorem takeIdent_stored (s : State) (p fabric tag : Nat) : (s.takeIdent p fabric tag).stored = s.stored := by
  simp [State.takeIdent]

@[simp] theorem dropUnrouted_stored (s : State) : s.dropUnrouted.stored = s.stored := by
  simp [State.dropUnrouted]

@[simp] theorem emit_stored (s : State) (p : Nat) (b : LinkBlock) : (s.emit p b).stored = s.stored := by
  simp [State.emit]

@[simp] theorem emitNew_stored (s : State) (p : Nat) (b : LinkBlock) : (s.emitNew p b).stored = s.stored := by
  simp [State.emitNew]

@[simp] theorem sendOrigin_stored (s : State) (p : Nat) (x : Nat × Origin) : (s.sendOrigin p x).stored = s.stored := by
  simp [State.sendOrigin]

@[simp] theorem sendTransit_stored (s : State) (p : Nat) (y : Nat × Nat × LinkBlock) :
    (s.sendTransit p y).stored = s.stored := by
  simp [State.sendTransit]

@[simp] theorem sendClass_stored (s : State) (p tc : Nat) : (s.sendClass p tc).stored = s.stored := by
  unfold State.sendClass
  split
  · simp
  · split <;> simp

@[simp] theorem spendTurn_stored (s : State) (p tc : Nat) : (s.spendTurn p tc).stored = s.stored := by
  simp [State.spendTurn]

@[simp] theorem sendResend_stored (s : State) (p seq : Nat) : (s.sendResend p seq).stored = s.stored := by
  unfold State.sendResend
  dsimp only
  split <;> simp

@[simp] theorem fastRetrain_stored (s : State) (p : Nat) : (s.fastRetrain p).stored = s.stored := by
  simp [State.fastRetrain]

@[simp] theorem setLanes_stored (s : State) (p lanes : Nat) : (s.setLanes p lanes).stored = s.stored := by
  simp [State.setLanes]

@[simp] theorem activate_stored (s : State) (p : Nat) : (s.activate p).stored = s.stored := by
  simp [State.activate]

@[simp] theorem fullTraining_stored (s : State) (p : Nat) : (s.fullTraining p).stored = s.stored := by
  simp [State.fullTraining]

@[simp] theorem retrainPort_stored (p : Nat) (s : State) : (State.retrainPort p s).stored = s.stored := by
  simp [State.retrainPort]

@[simp] theorem unquarantinePort_stored (p : Nat) (s : State) : (State.unquarantinePort p s).stored = s.stored := by
  simp [State.unquarantinePort]

@[simp] theorem enablePort_stored (p : Nat) (en : Bool) (s : State) : (State.enablePort p en s).stored = s.stored := by
  simp [State.enablePort]

@[simp] theorem loadRoutes_stored (s : State) : s.loadRoutes.stored = s.stored := stored_lit rfl

/-! ### The loop and the writes of the host -/

@[simp] theorem putBank_stored (s : State) (k : Nat) (i : Option Image) : (s.putBank k i).stored = s.stored := by
  simp [State.putBank]

@[simp] theorem stage_stored (s : State) (b : List Byte) : (s.stage b).1.stored = s.stored := by
  simp [State.stage]

@[simp] theorem activateBank_stored (s : State) : s.activateBank.stored = s.stored := by
  simp [State.activateBank]

@[simp] theorem takeProd_stored (s : State) (v : Nat) : (s.takeProd v).stored = s.stored := by
  simp [State.takeProd]

@[simp] theorem ringDoorbell_stored (q v : Nat) (s : State) : (State.ringDoorbell q v s).stored = s.stored := by
  simp [State.ringDoorbell]

@[simp] theorem wakeIngest_stored (s : State) : s.wakeIngest.stored = s.stored := by
  simp [State.wakeIngest]

@[simp] theorem setQueue_stored (s : State) (q v : Nat) : (s.setQueue q v).stored = s.stored := by
  simp [State.setQueue]

@[simp] theorem queueWrite_stored (q v : Nat) (s : State) : (State.queueWrite q v s).stored = s.stored := by
  simp [State.queueWrite]

@[simp] theorem quotaRegs_stored (defer : Bool) (v : Nat) (s : State) :
    (State.quotaRegs defer v s).stored = s.stored := by
  simp [State.quotaRegs]

@[simp] theorem infoWrite_stored (v : Nat) (s : State) : (State.infoWrite v s).stored = s.stored := by
  unfold State.infoWrite
  dsimp only
  split <;> simp

@[simp] theorem forceProbes_stored (s : State) : s.forceProbes.stored = s.stored := stored_lit rfl

@[simp] theorem clearQuarantine_stored (s : State) : s.clearQuarantine.stored = s.stored := by
  simp [State.clearQuarantine]

@[simp] theorem latchHead_stored (s : State) : s.latchHead.stored = s.stored := by
  simp [State.latchHead]

@[simp] theorem rateWrite_stored (v : Nat) (s : State) : (State.rateWrite v s).stored = s.stored := by
  simp [State.rateWrite]

@[simp] theorem unmask_stored (vec : Nat) (s : State) : (State.unmask vec s).stored = s.stored := by
  simp [State.unmask]

/-! ### Power, loading and the replay -/

@[simp] theorem pend_stored (s : State) (target : Nat) : (s.pend target).stored = s.stored := by
  simp [State.pend]

@[simp] theorem requestState_stored (target : Nat) (s : State) : (State.requestState target s).stored = s.stored := by
  simp [State.requestState]

@[simp] theorem keepAlive_stored (s : State) : s.keepAlive.stored = s.stored :=
  foldl_stored (fun t p => by simp) _ s

@[simp] theorem sleepAll_stored (s : State) : s.sleepAll.stored = s.stored := by
  simp [State.sleepAll]

@[simp] theorem enterRest_stored (s : State) (target : Nat) : (s.enterRest target).stored = s.stored := by
  simp only [State.enterRest, pwrInt_stored, ev_stored]
  rw [stored_lit rfl]
  simp only [setF_stored, sleepAll_stored, keepAlive_stored]

@[simp] theorem heldMove_stored (s : State) : s.heldMove.stored = s.stored := by
  simp [State.heldMove]

@[simp] theorem endDebug_stored (s : State) (cause : Nat) : (s.endDebug cause).stored = s.stored := by
  simp [State.endDebug]

@[simp] theorem dropKeys_stored (s : State) : s.dropKeys.stored = s.stored := by
  simp [State.dropKeys]

@[simp] theorem leaveKeepAlive_stored (s : State) : s.leaveKeepAlive.stored = s.stored :=
  foldl_stored (fun t p => by simp) _ s

@[simp] theorem wakeTiles_stored (s : State) (all : Bool) : (s.wakeTiles all).stored = s.stored := by
  simp [State.wakeTiles]

@[simp] theorem readClusters_stored (s : State) (temps : List Int) : (s.readClusters temps).stored = s.stored := by
  simp [State.readClusters]

@[simp] theorem releaseAll_stored (s : State) : s.releaseAll.stored = s.stored := by
  simp [State.releaseAll]

@[simp] theorem fetchPage_stored (s : State) (q b : Nat) : (s.fetchPage q b).stored = s.stored := stored_lit rfl

@[simp] theorem bgEvent_stored (s : State) (n level entry tile result : Nat) (detail : List Byte) :
    (s.bgEvent n level entry tile result detail).stored = s.stored := by
  simp [State.bgEvent]

@[simp] theorem exitReplay_stored (s : State) : s.exitReplay.stored = s.stored := by
  simp [State.exitReplay]

@[simp] theorem submitTable_stored (v : Nat) (s : State) : (State.submitTable v s).stored = s.stored := by
  simp [State.submitTable]

@[simp] theorem submitWrite_stored (v : Nat) (s : State) : (State.submitWrite v s).stored = s.stored := by
  simp [State.submitWrite]

/-! ### The window, resets, boot and security -/

theorem configAccess_storesNothing {s : State} {c : Instr} {run : State → State} (h : (run s).stored = s.stored) :
    StoresNothing s (s.configAccess c run) := by
  simp [State.configAccess, h]

@[simp] theorem commitDecoder_stored (size ways : Nat) (s : State) :
    (State.commitDecoder size ways s).stored = s.stored := by
  simp [State.commitDecoder]

@[simp] theorem streamFails_stored (s : State) (cachemem : Bool) : (s.streamFails cachemem).stored = s.stored := by
  simp [State.streamFails]

@[simp] theorem keyStream_stored (cachemem : Bool) (s : State) : (State.keyStream cachemem s).stored = s.stored := by
  simp [State.keyStream]

@[simp] theorem doeReply_stored (s : State) (r : Reply) : (s.doeReply r).stored = s.stored := stored_lit rfl

theorem spdmReply_stored {s : State} {run : State → State} (h : (run s).stored = s.stored) :
    (s.spdmReply run).stored = s.stored := by
  simp [State.spdmReply, h]

@[simp] theorem openSession_stored (s : State) : (State.openSession s).stored = s.stored :=
  spdmReply_stored (by simp)

@[simp] theorem closeSession_stored (s : State) : s.closeSession.stored = s.stored := by
  simp [State.closeSession]

@[simp] theorem enableSpace_stored (s : State) : s.enableSpace.stored = s.stored := by
  simp [State.enableSpace]

@[simp] theorem logRepair_stored (s : State) (row : Nat) : (s.logRepair row).stored = s.stored := by
  simp [State.logRepair]

@[simp] theorem eccCorrected_stored (s : State) (addr : Nat) : (s.eccCorrected addr).stored = s.stored := by
  simp [State.eccCorrected]

@[simp] theorem eccUncorrectable_stored (s : State) (addr : Nat) : (s.eccUncorrectable addr).stored = s.stored := by
  simp [State.eccUncorrectable]

@[simp] theorem awaitBoot_stored (s : State) (cause : Nat) : (s.awaitBoot cause).stored = s.stored := stored_lit rfl

@[simp] theorem useNonce_stored (s : State) : s.useNonce.stored = s.stored := by
  simp [State.useNonce]

@[simp] theorem scrubStopped_stored (s : State) (t : Nat) : (s.scrubStopped t).stored = s.stored := by
  simp [State.scrubStopped]

@[simp] theorem stopTile_stored (s : State) (t : Nat) (b : Batch) : (s.stopTile t b).stored = s.stored := by
  unfold State.stopTile
  dsimp only
  split <;> simp

@[simp] theorem readBackTile_stored (s : State) (t : Nat) : (s.readBackTile t).stored = s.stored := by
  unfold State.readBackTile
  dsimp only
  split
  · rfl
  · split
    · rfl
    · split <;> simp

@[simp] theorem resetTile_stored (t : Nat) (s : State) : (State.resetTile t s).stored = s.stored := by
  unfold State.resetTile
  split <;> simp

@[simp] theorem tileResetWrite_stored (v : Nat) (s : State) : (State.tileResetWrite v s).stored = s.stored := by
  simp [State.tileResetWrite]

@[simp] theorem goUp_stored (s : State) : s.goUp.stored = s.stored := by
  simp [State.goUp]

@[simp] theorem setEnable_stored (s : State) (b : Bool) : (s.setEnable b).stored = s.stored := stored_lit rfl

@[simp] theorem setInput_stored (s : State) (b : Bool) : (s.setInput b).stored = s.stored := stored_lit rfl

@[simp] theorem stop_stored (s : State) : s.stop.stored = s.stored := stored_lit rfl

@[simp] theorem testFails_stored (s : State) (alg : Nat) : (s.testFails alg).stored = s.stored := by
  simp [State.testFails]

theorem secCommand_stored {s : State} {cmd : Nat} {run : State → State × Option Nat}
    (h : ∀ t, (run t).1.stored = t.stored) : (State.secCommand cmd run s).stored = s.stored := by
  have hr := h (s.setF F.secCmdStatusLastCmd cmd)
  simp only [State.secCommand]
  generalize run (s.setF F.secCmdStatusLastCmd cmd) = r at hr ⊢
  obtain ⟨u, _ | st⟩ := r <;> simp_all

@[simp] theorem newNonce_stored (s : State) : s.newNonce.stored = s.stored := by
  simp only [State.newNonce, setF_stored]
  exact stored_lit rfl

@[simp] theorem nonceCmd_stored (s : State) : s.nonceCmd.stored = s.stored := secCommand_stored newNonce_stored

@[simp] theorem scrubCmd_stored (s : State) : s.scrubCmd.stored = s.stored := by
  refine secCommand_stored (fun t => ?_)
  split
  · rfl
  · simp only [startScrub_stored, setF_stored, releaseAll_stored]

@[simp] theorem secBadCommand_stored (v : Nat) (s : State) : (State.secBadCommand v s).stored = s.stored :=
  secCommand_stored (fun _ => rfl)

/-! ### The recorder, the management buses and the reads of the BARs -/

@[simp] theorem evtMessage_stored (s : State) : s.evtMessage.stored = s.stored := by
  simp [State.evtMessage]

@[simp] theorem copyRecord_stored (s : State) (x : RingRec) : (s.copyRecord x).stored = s.stored := by
  simp [State.copyRecord]

@[simp] theorem summary_stored (s : State) (code : Nat) : (s.summary code).stored = s.stored := by
  simp [State.summary]

@[simp] theorem doeAnswer_stored (s : State) (r : Reply) : (s.doeAnswer r).stored = s.stored := by
  simp [State.doeAnswer]

@[simp] theorem discover_stored (index : Nat) (s : State) : (State.discover index s).stored = s.stored := by
  simp [State.discover]

@[simp] theorem cdatAnswer_stored (s : State) : s.cdatAnswer.stored = s.stored := by
  simp [State.cdatAnswer]

@[simp] theorem certificate_stored (slot : Nat) (s : State) : (State.certificate slot s).stored = s.stored :=
  spdmReply_stored (by simp)

@[simp] theorem challenged_stored (slot : Nat) (nonce : List Byte) (s : State) :
    (State.challenged slot nonce s).stored = s.stored :=
  spdmReply_stored (by simp)

@[simp] theorem measured_stored (nonce : List Byte) (s : State) : (State.measured nonce s).stored = s.stored :=
  spdmReply_stored (by simp)

@[simp] theorem reported_stored (nonce : List Byte) (s : State) : (State.reported nonce s).stored = s.stored :=
  spdmReply_stored (by simp)

theorem mgmt_storesNothing {s : State} {run : State → State × Reply} (h : (run s).1.stored = s.stored) :
    StoresNothing s (s.mgmt run) := by
  simp [State.mgmt, h]

@[simp] theorem setUpdate_stored (s : State) (b : Bool) : (s.setUpdate b).stored = s.stored := stored_lit rfl

@[simp] theorem transfer_stored (s : State) (b : List Byte) : (s.transfer b).1.stored = s.stored := by
  unfold State.transfer
  split <;> simp

@[simp] theorem readWith_stored (s : State) (b : List Byte) : (s.readWith b).stored = s.stored := stored_lit rfl

@[simp] theorem badRead_stored (s : State) (k bytes : Nat) : (s.badRead k bytes).stored = s.stored := by
  simp [State.badRead]

@[simp] theorem bar0Read_stored (off bytes : Nat) (s : State) : (State.bar0Read off bytes s).stored = s.stored := by
  simp [State.bar0Read]

/-- A read of a BAR0 register stores nothing. -/
theorem openRead_bar0_stored (s : State) (off bytes : Nat) : (State.openRead 0 off bytes s).stored = s.stored := by
  simp [State.openRead, State.barRead]

/-! ### The commands -/

theorem execValPush_storesNothing (id : Nat) (crc : MoverCrc) (s : State) : StoresNothing s (execValPush id crc s) :=
  startIf_storesNothing (fun i => by simp [moverChecks_stored])

theorem execValDrop_storesNothing (id : Nat) (s : State) : StoresNothing s (execValDrop id s) := by
  refine startIf_storesNothing (fun i => ?_)
  dsimp only
  split
  · simp
  · split
    · simp
    · split <;> simp

theorem execArrProgram_storesNothing (id : Nat) (s : State) : StoresNothing s (execArrProgram id s) := by
  refine startIf_storesNothing (fun i => ?_)
  dsimp only
  split <;> simp

theorem execArrFallback_storesNothing (id : Nat) (s : State) : StoresNothing s (execArrFallback id s) := by
  refine startIf_storesNothing (fun i => ?_)
  dsimp only
  split <;> simp

theorem execArrCalib_storesNothing (id : Nat) (s : State) : StoresNothing s (execArrCalib id s) := by
  refine startIf_storesNothing (fun i => ?_)
  dsimp only
  split <;> simp

theorem execStall_storesNothing (s : State) : StoresNothing s (execStall s) := by
  unfold execStall
  split <;> simp

theorem execArrayArbitration_storesNothing (tile : Nat) (low high : List (List Int)) (s : State) :
    StoresNothing s (execArrayArbitration tile low high s) := by
  unfold execArrayArbitration
  split
  · simp
  · dsimp only
    split <;> simp

theorem execPartFailure_storesNothing (id unit : Nat) (s : State) : StoresNothing s (execPartFailure id unit s) := by
  unfold execPartFailure
  split
  · simp
  · dsimp only
    split
    · simp
    · split
      · split <;> simp
      · split <;> simp

theorem execFtqPost_storesNothing (s : State) : StoresNothing s (execFtqPost s) := by
  unfold execFtqPost
  split <;> simp

theorem execValleyPrefetch_storesNothing (s : State) : StoresNothing s (execValleyPrefetch s) := by
  refine storesNothing_if (by simp) ?_
  split
  · simp
  · dsimp only
    split
    · simp
    · split <;> simp

theorem execPageTransferDone_storesNothing (page : Nat) (s : State) : StoresNothing s (execPageTransferDone page s) := by
  unfold execPageTransferDone
  split <;> simp

theorem execHeadSeqRead_storesNothing (s : State) : StoresNothing s (execHeadSeqRead s) :=
  hostAccess_storesNothing (openRead_bar0_stored s _ _)

theorem execIngestStall_storesNothing (s : State) : StoresNothing s (execIngestStall s) := by
  unfold execIngestStall
  split <;> simp

theorem execFail_storesNothing (from_ : Nat) (m : CtlMsg) (s : State) : StoresNothing s (execFail from_ m s) := by
  refine storesNothing_if ?_ (by simp)
  split <;> simp

theorem execDigestCompute_storesNothing (s : State) : StoresNothing s (execDigestCompute s) := by
  refine storesNothing_next.2 ((foldl_stored (fun t g => ?_) _ _).trans (computeDigests_stored s))
  split
  · rfl
  · split <;> simp

theorem execBucketRelease_storesNothing (id : Nat) (s : State) : StoresNothing s (execBucketRelease id s) := by
  unfold execBucketRelease
  split <;> simp

theorem execGroupSend_storesNothing (b : Nat) (s : State) : StoresNothing s (execGroupSend b s) := by
  unfold execGroupSend
  split
  · simp
  · refine storesNothing_if (by simp) ?_
    dsimp only
    split <;> simp

/-- A block that comes up is taken up where its kind is the one named. -/
theorem storesNothing_takeUp (from_ : Nat) (b : RedBlock) (s : State) (k : Nat) :
    StoresNothing s (.next (if b.kind = k then s.arrive from_ b (State.takeUp from_ b) else s)) := by
  simp [arrive_stored (takeUp_stored from_ b)]

theorem execProbeDown_storesNothing (b : RedBlock) (s : State) : StoresNothing s (execProbeDown b s) := by
  simp [execProbeDown, arriveDown_stored (takeProbeDown_stored b)]

theorem execRetry_storesNothing (b : RedBlock) (s : State) : StoresNothing s (execRetry b s) := by
  simp [execRetry, arriveDown_stored (takeRetry_stored b)]

theorem execBlockSend_storesNothing (p : Nat) (s : State) : StoresNothing s (execBlockSend p s) := by
  refine storesNothing_if (by simp) ?_
  dsimp only
  split
  · simp
  · simp
  · rw [storesNothing_next]
    split
    · simp
    · split <;> simp

theorem execBlockForward_storesNothing (p : Nat) (s : State) : StoresNothing s (execBlockForward p s) := by
  unfold execBlockForward
  split
  · simp
  · refine storesNothing_if (by simp) ?_
    split <;> simp

theorem execAckTimeout_storesNothing (p : Nat) (s : State) : StoresNothing s (execAckTimeout p s) := by
  unfold execAckTimeout
  dsimp only
  split <;> simp

theorem execLevelCrossingStart_storesNothing (layer : Nat) (s : State) :
    StoresNothing s (execLevelCrossingStart layer s) := by
  unfold execLevelCrossingStart
  split <;> simp

theorem execRowWrite_storesNothing (tile : Nat) (failed : List Nat) (s : State) :
    StoresNothing s (execRowWrite tile failed s) := by
  unfold execRowWrite
  dsimp only
  split
  · simp
  · refine storesNothing_if (by simp) ?_
    split
    · simp
    · refine storesNothing_if (by simp) ?_
      split <;> simp

theorem execSuspectReprogram_storesNothing (tile : Nat) (s : State) : StoresNothing s (execSuspectReprogram tile s) := by
  unfold execSuspectReprogram
  dsimp only
  split
  · simp
  · refine storesNothing_if (by simp) (storesNothing_if (by simp) (storesNothing_if (by simp)
      (storesNothing_if ?_ (by simp))))
    split <;> simp

theorem execPatrolScrub_storesNothing (addr : Nat) (o : EccOutcome) (s : State) :
    StoresNothing s (execPatrolScrub addr o s) := by
  refine storesNothing_if (by simp) ?_
  cases o <;> simp

theorem execThrottleRelease_storesNothing (s : State) : StoresNothing s (execThrottleRelease s) := by
  unfold execThrottleRelease
  split <;> simp

theorem execGetPldmVersion_storesNothing (type : Nat) (s : State) : StoresNothing s (execGetPldmVersion type s) := by
  refine mgmt_storesNothing ?_
  split <;> rfl

theorem execGetPldmCommands_storesNothing (type : Nat) (s : State) : StoresNothing s (execGetPldmCommands type s) := by
  refine mgmt_storesNothing ?_
  split <;> rfl

theorem execGetStateSensorReadings_storesNothing (sensor : Nat) (s : State) :
    StoresNothing s (execGetStateSensorReadings sensor s) := by
  refine mgmt_storesNothing ?_
  split <;> rfl

theorem execExtensionCopy_storesNothing (s : State) : StoresNothing s (execExtensionCopy s) := by
  refine storesNothing_if (by simp) ?_
  split <;> simp

/-- A quiet command stores nothing. -/
theorem quiet_storesNothing {c : Instr} (hq : quiet c = true) (s : State) : StoresNothing s (exec c s) := by
  cases c with
  | ctlNop | ctlMark | memAlloc | memQuota | grdFwd | grdDx | grdDw | colBucket | colPass | ctlJoin | ctlFence
  | svcSeed | svcCkpt | svcScrub =>
    exact startIf_storesNothing (fun i => by simp)
  | doorbell | ingestWake | queueCfg | quotaWrite | linfoWrite | forceProbe | qclear | evtRate | msixUnmask | retrain
  | unquarantine | portEnable | routeLoad | requestIdle | requestDoze | requestDeep | tileReset | nonce | scrubAll
  | secBadCmd | replayExit =>
    exact hostAccess_storesNothing (by simp)
  | submit | decoderCommit =>
    exact storesNothing_if (by simp) (hostAccess_storesNothing (by simp))
  | ideKm | doeDiscovery | cdatTableAccess | getCertificate | challenge | getMeasurements | attestationReport
  | memorySpaceEnable | spdmSessionStart | spdmSessionEnd =>
    exact configAccess_storesNothing (by simp)
  | getEndpointId | getMctpVersionSupport | getMessageTypeSupport | getTid | getPldmTypes | getPdr | requestUpdate
  | firmwareTransfer | activateFirmware | getSensorReading =>
    exact storesNothing_if (by simp) (by simp)
  | fecUncorrectable | blockCrcFail | lossOfLock =>
    exact storesNothing_next.2 (by simp)
  | settleExpiry | ingestPoll | ready | clear | heartbeatSend | heartbeat | digestDown | digestUp | joined | table
  | resendLimit | violationLimit | linkTraining | trainingRetry | calibrationDue | calibration | wearWarn | wearRetire
  | hbmRowRepair | d3hotEntry | d0Return | dozeEntry | deepEntry | dozeExit | hbmSelfRefreshReturn | unitSleep
  | unitWake | thermalSample | pwrEnHigh | perstDeassert | entropyHealthFail | ideIntegrityFail | interruptHoldoff
  | evtLost | suppressionWindow | inputPowerApplied | cxlLinkUp =>
    exact storesNothing_if (by simp) (by simp)
  | up26 | up40 | probeUp =>
    exact storesNothing_takeUp _ _ _ _
  | valPush => exact execValPush_storesNothing _ _ _
  | valDrop => exact execValDrop_storesNothing _ _
  | arrProgram => exact execArrProgram_storesNothing _ _
  | arrFallback => exact execArrFallback_storesNothing _ _
  | arrCalib => exact execArrCalib_storesNothing _ _
  | stall => exact execStall_storesNothing _
  | arrayArbitration => exact execArrayArbitration_storesNothing _ _ _ _
  | partFailure => exact execPartFailure_storesNothing _ _ _
  | ftqPost => exact execFtqPost_storesNothing _
  | valleyPrefetch => exact execValleyPrefetch_storesNothing _
  | pageTransferDone => exact execPageTransferDone_storesNothing _ _
  | headSeqRead => exact execHeadSeqRead_storesNothing _
  | ingestStall => exact execIngestStall_storesNothing _
  | fail => exact execFail_storesNothing _ _ _
  | digestCompute => exact execDigestCompute_storesNothing _
  | bucketRelease => exact execBucketRelease_storesNothing _ _
  | groupSend => exact execGroupSend_storesNothing _ _
  | probeDown => exact execProbeDown_storesNothing _ _
  | retry => exact execRetry_storesNothing _ _
  | blockSend => exact execBlockSend_storesNothing _ _
  | blockForward => exact execBlockForward_storesNothing _ _
  | ackTimeout => exact execAckTimeout_storesNothing _ _
  | levelCrossingStart => exact execLevelCrossingStart_storesNothing _ _
  | rowWrite => exact execRowWrite_storesNothing _ _ _
  | suspectReprogram => exact execSuspectReprogram_storesNothing _ _
  | patrolScrub => exact execPatrolScrub_storesNothing _ _ _
  | throttleRelease => exact execThrottleRelease_storesNothing _
  | getPldmVersion => exact execGetPldmVersion_storesNothing _ _
  | getPldmCommands => exact execGetPldmCommands_storesNothing _ _
  | getStateSensorReadings => exact execGetStateSensorReadings_storesNothing _ _
  | extensionCopy => exact execExtensionCopy_storesNothing _
  | _ => exact absurd hq Bool.false_ne_true

theorem quietFrame_of_stored {s t : State} (h : t.stored = s.stored) : quietFrame s t := by
  simp only [State.stored, Stored.mk.injEq] at h
  obtain ⟨hhbm, hscratch, hhost, hseesaw, htokens, hfuses, hload, heid, hpending⟩ := h
  exact ⟨fun sp a => by simp only [State.rd, State.mem, hhbm, hscratch, hhost], hseesaw, htokens, hfuses, hload, heid,
    hpending⟩

/-- Settles O55: every operation that a quiet command goes through leaves what is stored as it was. -/
theorem quietCommandsStoreNothing : Obligations.QuietCommandsStoreNothing := fun _ s t hq ht =>
  quietFrame_of_stored (quiet_storesNothing hq s t ht)

end Sys2Proof.Machine
end

section
/-! The MEM instructions start with their effects (R71, R72, R82, R258, R266 to R269). -/

namespace Sys2Proof.Machine

/-! ### One equation for each instruction that may start -/

section
variable {s : State} {id : Nat} {i : Inst}

theorem exec_memAlloc (h : s.mayStart 0x1000 id i) : exec (.memAlloc id) s = .next ((if s.seesawBeyond i then
      s.fails i stIndexRange
    else s.finishes i 0 0 ((i.d 0).base + (if (i.d 0).loc = 1 ∨ (i.d 0).loc = 5 then 2 ^ 63 else 0))).afterStart id) :=
  start_eq h _

theorem exec_memFree (h : s.mayStart 0x1001 id i) (hn : s.unnamed i i.code.h0 = true) :
    let d := s.descEntry i.code.h0
    exec (.memFree id) s = .next ((if d.loc = 4 ∨ (d.valid ∧ d.loc = 2) then s.fails i stDescInvalid
      else if d.bound then ((s.releaseEntry i.code.h0 d).1.putEntry i.code.h0 (s.releaseEntry i.code.h0 d).2).finishes i 0 0 0
      else s.finishes i 0 0 0).afterStart id) :=
  startIf_eq h _ _ hn

/-- MEM.DSET of an aligned image inside HBM to an entry that is not bound. -/
theorem exec_memDset (h : s.mayStart 0x1002 id i) (hn : s.unnamed i i.code.h0 = true)
    (ha : bitsOf i.code.imm1 0 48 % 64 = 0) (htop : bitsOf i.code.imm1 0 48 + 64 ≤ hbmTop)
    (hb : (s.descEntry i.code.h0).bound = false) :
    exec (.memDset id) s = .next ((((s.wrBytes 1 (s.descAddr i.code.h0)
      ((s.rdBytes 1 (bitsOf i.code.imm1 0 48) 64).zipIdx.map (fun x =>
        if x.2 = 2 then BitVec.ofNat 8 (x.1.toNat % 32) else x.1))).unpoison 1 (s.descAddr i.code.h0) 64).putInst
      (i.finish 0 0 0)).afterStart id) := by
  have hbad : ¬ (bitsOf i.code.imm1 0 48 % 64 ≠ 0 ∨ hbmTop < bitsOf i.code.imm1 0 48 + 64) := by omega
  refine (startIf_eq h _ _ hn).trans ?_
  simp only [if_neg hbad, hb, Bool.false_and, Bool.false_eq_true, if_false]
  rfl

/-- What MEM.QUOTA does for a selection in IMM0. -/
def State.quotaRun (s : State) (i : Inst) (sel : Nat) : State :=
  if sel = 0 then s.fails i stImmInvalid
  else if bitOf sel 1 && decide (s.val.hbmQuota + s.heapFree / pageBytes < bitsOf i.code.imm1 32 32) then
    s.fails i stMemFull
  else
    let chip := if bitOf sel 0 then s.setF F.memValleyQuotaChipPages (bitsOf i.code.imm1 0 8) else s
    let hbm := if bitOf sel 1 then chip.setF F.memValleyQuotaHbmPages (bitsOf i.code.imm1 32 32) else chip
    let quotas := if bitOf sel 2 then hbm.setF F.schDeferQuota (bitsOf i.code.imm2 0 32) else hbm
    quotas.quotasIfIdle.finishes i 0 0 0

theorem exec_memQuota (h : s.mayStart 0x1003 id i) :
    exec (.memQuota id) s = .next ((s.quotaRun i i.code.imm0).afterStart id) := start_eq h _

theorem quotaRun_none : s.quotaRun i 0 = s.putInst (i.end_ stImmInvalid) := rfl

theorem quotaRun_chip : s.quotaRun i 1 =
    ((s.setF F.memValleyQuotaChipPages (bitsOf i.code.imm1 0 8)).quotasIfIdle).putInst (i.finish 0 0 0) := rfl

theorem quotaRun_hbm (hq : bitsOf i.code.imm1 32 32 ≤ s.val.hbmQuota + s.heapFree / pageBytes) : s.quotaRun i 2 =
    ((s.setF F.memValleyQuotaHbmPages (bitsOf i.code.imm1 32 32)).quotasIfIdle).putInst (i.finish 0 0 0) := by
  rw [State.quotaRun, if_neg (by decide), decide_eq_false (by omega)]
  rfl

theorem quotaRun_full (hq : s.val.hbmQuota + s.heapFree / pageBytes < bitsOf i.code.imm1 32 32) :
    s.quotaRun i 2 = s.putInst (i.end_ stMemFull) := by
  rw [State.quotaRun, if_neg (by decide), decide_eq_true hq]
  rfl

theorem quotaRun_defer : s.quotaRun i 4 =
    ((s.setF F.schDeferQuota (bitsOf i.code.imm2 0 32)).quotasIfIdle).putInst (i.finish 0 0 0) := rfl

theorem exec_memFill (h : s.mayStart 0x1004 id i) (hl : (i.d 0).loc ≤ 1) : exec (.memFill id) s =
    .next (((s.wrEncoded (i.d 0) (fillEncoded (i.d 0) i.code.imm1)).putInst (i.finish 0 0 (i.d 0).count)).afterStart id) := by
  refine (start_eq h _).trans ?_
  rw [if_neg (by omega)]
  rfl

end

/-! ### The statement -/

/-- Settles O3, an instruction at a time, by the branch that its operands choose. -/
theorem memInstructionsComplete : Obligations.MemInstructionsComplete := by
  intro s id i
  refine ⟨fun h hs => ?_, fun h hs => ?_, fun h hn hv hl => ?_, fun h hn h4 h2 => ?_, exec_memDset, fun h hq => ?_,
    fun h hq hf => ?_, fun h hq hf => ?_, fun h hq => ?_, fun h hq => ?_, exec_memFill⟩
  · rw [exec_memAlloc h, hs]
    rfl
  · rw [exec_memAlloc h, hs]
    rfl
  · have hbad : (s.descEntry i.code.h0).loc = 4 ∨ ((s.descEntry i.code.h0).valid ∧ (s.descEntry i.code.h0).loc = 2) :=
      hl.symm.imp_right (⟨hv, ·⟩)
    rw [exec_memFree h hn, if_pos hbad]
    rfl
  · rw [exec_memFree h hn, if_neg (by simp [h4, h2])]
    rfl
  · rw [exec_memQuota h, hq, quotaRun_chip]
  · rw [exec_memQuota h, hq, quotaRun_hbm hf]
  · rw [exec_memQuota h, hq, quotaRun_full hf]
  · rw [exec_memQuota h, hq, quotaRun_defer]
  · rw [exec_memQuota h, hq, quotaRun_none]

end Sys2Proof.Machine
end

section
/-! The admission of a record where its number is taken already (R60, R252). The statement ranges over every state, also
over one in which an instruction in flight bears the number that the next admission gives. The two are then told apart by
nothing: the bind that closes a chain of eight finds the older one under the number of the record, and writes it over both. -/

namespace Sys2Proof.Machine

/-- The record of a VEC.ABS that links to the open chain of its queue (R174). -/
def linkedAbs : Rec := { opcode := 0x006, iclass := 3, flags := 2, h0 := 0, h1 := 0 }

/-- Queue 0 may be served, its record links as the eighth member of the open chain, and an instruction of queue 1 already
has the number 0 that the record is to get. -/
def numberTaken : State :=
  let on := (State.reset.setF F.schCtrlRun 1).setF (F.schQCfgEn 0) 1
  let filled := ((on.setF (F.schQCfgLog2size 0) 4).setF (F.schQPtrTail 0) 1).wrBytes 1 0 linkedAbs.bytes
  let chained := filled.putQst 0 { chain := [1, 2, 3, 4, 5, 6, 7] }
  { chained with sch := { chained.sch with inflight := [{ id := 0, queue := 1 }] } }

theorem numberTaken_mayServe : numberTaken.mayServe 0 = true ∧ numberTaken.f (F.schQCfgLog2size 0) ≤ 16 ∧
    numberTaken.sch.nextId = 0 ∧ numberTaken.headRecord 0 = linkedAbs ∧ linkedAbs.valid = true := by decide +kernel

/-- After the admission every instruction in flight is one of queue 1. -/
theorem numberTaken_admission : (match exec (.recordAdmission 0) numberTaken with
    | .next t => t.sch.inflight.all (fun j => j.queue == 1)
    | _ => true) = true := by
  decide +kernel

/-- Refutes O12: where an instruction in flight bears the next number, the bind of the closing chain of eight writes it over
the record that was admitted, and no instruction of the queue is in flight. -/
theorem not_recordsAreAdmitted : ¬ Obligations.RecordsAreAdmitted := by
  intro h
  obtain ⟨hserve, hsize, -⟩ := numberTaken_mayServe
  obtain ⟨admitted, -, -⟩ := h numberTaken 0 (by decide)
  obtain ⟨t, ht, -, -, j, hj, -, hqueue, -⟩ := admitted hserve hsize
  have hall := numberTaken_admission
  rw [ht] at hall
  have hone : j.queue = 1 := by simpa using List.all_eq_true.1 hall j hj
  omega

end Sys2Proof.Machine
end

section
/-! An instruction that has ended completes with its record (R65, R253, R257), and a stall is declared (R80). -/

namespace Sys2Proof.Machine

/-! ### The completion -/

/-- The two branches of a completion's moment, part by part: CTL.MARK reads the counter and writes it to H0 where it has one;
nothing else happens (R264). -/
theorem atCompletion_eq (s : State) (i : Inst) :
    let mark := i.code.op == 0x0005 && isSuccess i.status
    s.atCompletion i = (if mark && i.has 0 then s.wrElems (i.d 0) i.code.imm2 [s.aon] else s,
      if mark then { i with result := s.aon } else i) := by
  by_cases hm : i.code.op = 0x0005 ∧ isSuccess i.status
  · simp [State.atCompletion, hm.1, hm.2]
  · have hmark : (i.code.op == 0x0005 && isSuccess i.status) = false := by
      simpa using hm
    simp [State.atCompletion, hm, hmark]

section
variable {s u : State} {id : Nat} {i j : Inst}

/-- The completion of an ended and settled instruction, as a choice among the answers of R65. -/
theorem exec_completion (hi : s.inst id = some i) (hd : i.phase = .done) (hs : s.settled i = true)
    (hu : s.atCompletion i = (u, j)) :
    let b := completionRecord j true (u.recordStep j) u.aon
    exec (.instructionCompletion id) s =
      (if !j.code.flag 0 && j.status == 0 then .next (u.completed j)
      else if (u.held j.cq).isEmpty && !u.cqIsFull j.cq then .next ((u.writeCq j.cq b).completed j)
      else if (u.held j.cq).length < 256 then
        .next (({ u with sch := { u.sch with cqHeld := mput j.cq (u.held j.cq ++ [b]) u.sch.cqHeld } } : State).completed j)
      else .next (s.noteCqFull j.cq)) := by
  dsimp only [exec, execInstructionCompletion]
  simp only [hi, hu]
  exact if_neg (by simp [hd, hs])

/-- A record is due: CR asks for it, or the status is not OK. -/
theorem recordDue (h : j.code.flag 0 = true ∨ j.status ≠ stOk) : ¬ (!j.code.flag 0 && j.status == 0) = true := by
  rcases h with h | h
  · simp [h]
  · rw [show stOk = 0 from rfl] at h
    simp [h]

end

/-! ### The statement -/

/-- Settles O13: the branches of a completion in turn, and the one of a stall that is declared. -/
theorem instructionsCompleteAndStall : Obligations.InstructionsCompleteAndStall := by
  intro s id i mark u j b
  refine ⟨fun hi hd hs => ?_, fun t hon hlate hseen => ?_⟩
  · have hu : s.atCompletion i = (u, j) := atCompletion_eq s i
    have hexec := exec_completion hi hd hs hu
    clear_value j u
    refine ⟨fun hcr hok => ?_, fun hdue => ⟨fun hempty hroom => ?_, fun hwait hless => ?_, fun hsome hfull => ?_⟩⟩
    · exact hexec.trans (if_pos (by simp only [Bool.and_eq_true, Bool.not_eq_true', beq_iff_eq]; exact ⟨hcr, hok⟩))
    all_goals rw [hexec, if_neg (recordDue hdue)]
    · exact if_pos (by rw [Bool.and_eq_true, Bool.not_eq_true']; exact ⟨hempty, hroom⟩)
    · rw [if_neg, if_pos hless]
      rw [Bool.and_eq_true, Bool.not_eq_true']
      rintro ⟨hempty, hroom⟩
      rcases hwait with h | h
      · exact absurd (hempty.symm.trans h) (by decide)
      · exact absurd (hroom.symm.trans h) (by decide)
    · rw [if_neg, if_neg (by omega)]
      rw [Bool.and_eq_true]
      rintro ⟨hempty, -⟩
      exact absurd (hempty.symm.trans hsome) (by decide)
  · have hdue : ¬ (s.aon < max s.sch.lastProgress i.since + s.f F.schStallTimeout ∨ s.sch.stallSeen = true) := by
      rw [hseen]
      simpa using hlate
    dsimp only [exec, execStall]
    rw [hon]
    exact if_neg hdue

end Sys2Proof.Machine
end

section
/-! A doorbell moves TAIL or is a violation, and a wake makes the next look at PROD due (R58, R61, R62, R305). -/

namespace Sys2Proof.Machine

/-! ### The doorbell -/

/-- In Active, with no change of power state on its way, a wake trigger finds nothing to do (R361). -/
theorem wakeUp_active {s : State} (hp : s.pst_ = 1) (hm : s.fb F.pwrStatusMoving = false) (code : Nat) :
    s.wakeUp code = s := by
  simp [State.wakeUp, hp, hm]

theorem exec_doorbell {s : State} (h : s.hostOpen) (q v : Nat) :
    exec (.doorbell q v) s = .next (if 64 ≤ q then (s.wakeUp 1).violation 5
      else if s.doorbellBad q v then (s.wakeUp 1).violation 1 else (s.wakeUp 1).setF (F.schQPtrTail q) v) :=
  hostAccess_eq h _ _ _

theorem exec_doorbell_active {s : State} (h : s.hostOpen) (hp : s.pst_ = 1) (hm : s.fb F.pwrStatusMoving = false)
    (q v : Nat) : exec (.doorbell q v) s = .next (if 64 ≤ q then s.violation 5
      else if s.doorbellBad q v then s.violation 1 else s.setF (F.schQPtrTail q) v) := by
  rw [exec_doorbell h, wakeUp_active hp hm]

/-- The records that a queue holds, and those that a doorbell would add (R61). -/
def State.heldRecords (s : State) (q : Nat) : Nat :=
  (s.f (F.schQPtrTail q) + s.qSize q - s.f (F.schQPtrHead q)) % s.qSize q
def State.addedRecords (s : State) (q v : Nat) : Nat := (v + s.qSize q - s.f (F.schQPtrTail q)) % s.qSize q

theorem heldRecords_lt (s : State) (q : Nat) : s.heldRecords q < s.qSize q := Nat.mod_lt _ (Nat.two_pow_pos _)

/-- What makes a doorbell bad (R58, R61, R62). -/
theorem doorbellBad_iff (s : State) (q v : Nat) : s.doorbellBad q v = true ↔
    s.fb (F.schQCfgEn q) = false ∨ s.qSize q ≤ v ∨ (s.fb (F.schQCfgStep q) = true ∧ s.pass.launched = true) ∨
      s.qSize q - 1 < s.heldRecords q + s.addedRecords q v := by
  have hfull : s.qSize q - 1 - s.heldRecords q < s.addedRecords q v ↔
      s.qSize q - 1 < s.heldRecords q + s.addedRecords q v := by
    have := heldRecords_lt s q
    omega
  rw [← hfull]
  simp [State.doorbellBad, State.heldRecords, State.addedRecords, or_assoc]

/-- Settles O15: a doorbell is bad as `doorbellBad_iff` says, and a wake of the ingest touches the puppeteer alone. -/
theorem doorbellsMoveTail : Obligations.DoorbellsMoveTail := by
  intro s q v size held more
  refine ⟨fun h hp hm hq hen hv hstep hfits => ?_, fun h hp hm hq hbad => ?_, fun h hp hm hq => ?_,
    fun h => exec_doorbell h q v, fun h hp => hostAccess_deep h hp _ _ _, fun h => ?_⟩
  · have hgood : ¬ s.doorbellBad q v = true := by
      rw [doorbellBad_iff]
      rintro (hoff | hbig | ⟨hst, hl⟩ | hover)
      · exact absurd (hen.symm.trans hoff) (by decide)
      · exact absurd hbig (by omega)
      · rcases hstep with h | h
        · exact absurd (hst.symm.trans h) (by decide)
        · exact absurd (hl.symm.trans h) (by decide)
      · exact absurd hover (Nat.not_lt.2 hfits)
    rw [exec_doorbell_active h hp hm, if_neg (by omega), if_neg hgood]
  · have hbad' : s.doorbellBad q v = true :=
      (doorbellBad_iff s q v).2 (hbad.imp_right (Or.imp_right (Or.imp_right And.right)))
    rw [exec_doorbell_active h hp hm, if_neg (by omega), if_pos hbad']
  · rw [exec_doorbell_active h hp hm, if_pos hq]
  · exact ⟨_, hostAccess_eq h _ _ _, rfl, rfl, rfl⟩

end Sys2Proof.Machine
end

section
/-! Submission and completion queues are configured, enabled and kept while enabled (R62, R65, R66, R254). -/

namespace Sys2Proof.Machine

theorem bitsOf_mod (v lo w : Nat) : bitsOf v lo w % 2 ^ w = bitsOf v lo w := Nat.mod_mod _ _

theorem log2Ok_of {n : Nat} (h4 : 4 ≤ n) (h16 : n ≤ 16) : log2Ok n = true := by simp [log2Ok, h4, h16]

theorem not_log2Ok {n : Nat} (h : n < 4 ∨ 16 < n) : log2Ok n = false := by
  simp only [log2Ok, Bool.and_eq_false_iff, decide_eq_false_iff_not]
  omega

/-! ### A submission queue -/

section
variable {s : State} {n v : Nat}

/-- What a write of SCH.Qn_CFG writes at once: STEP, and the rest of the configuration while the queue is off. -/
def State.queueSet (s : State) (n v : Nat) : State :=
  let t := s.setF (F.schQCfgStep n) (bitsOf v 30 1)
  if s.fb (F.schQCfgEn n) then t else t.setQueue n v

/-- A queue turned on is empty and has no account of the past. -/
def State.emptyQueue (s : State) (n : Nat) : State :=
  let t := ((s.setF (F.schQCfgEn n) 1).setF (F.schQPtrHead n) 0).setF (F.schQPtrTail n) 0
  t.putQst n { t.qst n with failed := [], fenceFrom := t.sch.nextId, fenceBad := false }

theorem exec_queueCfg (h : s.hostOpen) (hn : n < 64) : exec (.queueCfg n v) s = .next (
    if !bitOf v 31 then (s.queueSet n v).setF (F.schQCfgEn n) 0
    else if s.fb (F.schQCfgEn n) then s.queueSet n v
    else if !log2Ok (bitsOf v 16 5) then (s.queueSet n v).ev 0x0024 unitSched n 0
    else (s.queueSet n v).emptyQueue n) :=
  (hostAccess_eq h _ _ _).trans (congrArg _ (if_neg (Nat.not_le.2 hn)))

theorem queueSet_off (ho : s.fb (F.schQCfgEn n) = false) :
    s.queueSet n v = (s.setF (F.schQCfgStep n) (bitsOf v 30 1)).setQueue n v := by simp [State.queueSet, ho]

theorem queueSet_on (ho : s.fb (F.schQCfgEn n) = true) :
    s.queueSet n v = s.setF (F.schQCfgStep n) (bitsOf v 30 1) := by simp [State.queueSet, ho]

/-- The configuration of a queue that was off, as written. -/
theorem queueSet_fields (ho : s.fb (F.schQCfgEn n) = false) :
    (s.queueSet n v).f (F.schQCfgEn n) = s.f (F.schQCfgEn n) ∧ (s.queueSet n v).f (F.schQCfgStep n) = bitsOf v 30 1 ∧
    (s.queueSet n v).f (F.schQCfgCq n) = bitsOf v 24 6 ∧ (s.queueSet n v).f (F.schQCfgLog2size n) = bitsOf v 16 5 ∧
    (s.queueSet n v).f (F.schQCfgClass n) = bitsOf v 0 2 := by
  rw [queueSet_off ho]
  refine ⟨?_, ?_, ?_, ?_, ?_⟩ <;>
    simp (disch := (simp only [Fld.key, F.schQCfgEn, F.schQCfgStep, F.schQCfgCq, F.schQCfgLog2size, F.schQCfgClass]; omega))
      only [State.setQueue, f_setF_same, f_setF_other]
  · exact bitsOf_mod v 30 1
  · exact bitsOf_mod v 24 6
  · exact bitsOf_mod v 16 5
  · exact bitsOf_mod v 0 2

/-- Turning a queue on touches EN, HEAD and TAIL alone among the fields. -/
theorem emptyQueue_fields (t : State) (n : Nat) :
    (t.emptyQueue n).f (F.schQCfgEn n) = 1 ∧ (t.emptyQueue n).f (F.schQPtrHead n) = 0 ∧
    (t.emptyQueue n).f (F.schQPtrTail n) = 0 ∧ ∀ y : Fld, y.key ≠ (F.schQCfgEn n).key → y.key ≠ (F.schQPtrHead n).key →
      y.key ≠ (F.schQPtrTail n).key → (t.emptyQueue n).f y = t.f y := by
  have hregs (y : Fld) : (t.emptyQueue n).f y =
      (((t.setF (F.schQCfgEn n) 1).setF (F.schQPtrHead n) 0).setF (F.schQPtrTail n) 0).f y := f_congr rfl y
  have hHeadEn : (F.schQCfgEn n).key ≠ (F.schQPtrHead n).key := by simp only [Fld.key, F.schQCfgEn, F.schQPtrHead]; omega
  have hTailEn : (F.schQCfgEn n).key ≠ (F.schQPtrTail n).key := by simp only [Fld.key, F.schQCfgEn, F.schQPtrTail]; omega
  have hTailHead : (F.schQPtrHead n).key ≠ (F.schQPtrTail n).key := by simp [Fld.key, F.schQPtrHead, F.schQPtrTail]
  refine ⟨?_, ?_, ?_, fun y hEn hHead hTail => ?_⟩ <;> rw [hregs]
  · rw [f_setF_other hTailEn, f_setF_other hHeadEn, f_setF_same]
    rfl
  · rw [f_setF_other hTailHead, f_setF_same, Nat.zero_mod]
  · rw [f_setF_same, Nat.zero_mod]
  · rw [f_setF_other hTail, f_setF_other hHead, f_setF_other hEn]

/-- A queue that is off is enabled: its configuration as written, and empty (R62). -/
theorem exec_queueCfg_enables (h : s.hostOpen) (hn : n < 64) (ho : s.fb (F.schQCfgEn n) = false) (hv : bitOf v 31 = true)
    (h4 : 4 ≤ bitsOf v 16 5) (h16 : bitsOf v 16 5 ≤ 16) :
    ∃ t : State, exec (.queueCfg n v) s = .next t ∧ t.f (F.schQCfgEn n) = 1 ∧ t.f (F.schQCfgStep n) = bitsOf v 30 1 ∧
      t.f (F.schQCfgCq n) = bitsOf v 24 6 ∧ t.f (F.schQCfgLog2size n) = bitsOf v 16 5 ∧
      t.f (F.schQCfgClass n) = bitsOf v 0 2 ∧ t.f (F.schQPtrHead n) = 0 ∧ t.f (F.schQPtrTail n) = 0 := by
  obtain ⟨-, hStep, hCq, hSize, hClass⟩ := queueSet_fields (v := v) ho
  obtain ⟨hEn, hHead, hTail, hother⟩ := emptyQueue_fields (s.queueSet n v) n
  refine ⟨_, ?_, hEn, (hother _ ?_ ?_ ?_).trans hStep, (hother _ ?_ ?_ ?_).trans hCq, (hother _ ?_ ?_ ?_).trans hSize,
    (hother _ ?_ ?_ ?_).trans hClass, hHead, hTail⟩
  · rw [exec_queueCfg h hn, hv, ho, log2Ok_of h4 h16]
    rfl
  all_goals
    simp only [Fld.key, F.schQCfgEn, F.schQCfgStep, F.schQCfgCq, F.schQCfgLog2size, F.schQCfgClass, F.schQPtrHead,
      F.schQPtrTail]
    omega

/-! ### A completion queue -/

/-- What a write of SCH.CQn_CFG writes whether the queue is on or off: INT and VECTOR. -/
def State.cqInt (s : State) (n v : Nat) : State :=
  (s.setF (F.schCqCfgInt n) (bitsOf v 30 1)).setF (F.schCqCfgVector n) (bitsOf v 16 11)

/-- A completion queue turned on starts at TAIL 0 with its PHASE anew. -/
def State.freshCq (s : State) (n : Nat) : State :=
  let t := (s.setF (F.schCqCfgEn n) 1).setF (F.schCqPtrTail n) 0
  { t with sch := { t.sch with cqWrap := t.sch.cqWrap.filter (fun m => m != n) } }

theorem exec_cqCfg (h : s.hostOpen) (hn : n < 64) : exec (.cqCfg n v) s = .next (
    let t := if s.fb (F.schCqCfgEn n) then s.cqInt n v else (s.cqInt n v).setF (F.schCqCfgLog2size n) (bitsOf v 0 5)
    if !bitOf v 31 then t.setF (F.schCqCfgEn n) 0
    else if s.fb (F.schCqCfgEn n) then t
    else if !log2Ok (bitsOf v 0 5) then t.ev 0x0024 unitSched n 0
    else (t.freshCq n).drainCq n ((t.freshCq n).held n)) :=
  (hostAccess_eq h _ _ _).trans (congrArg _ (if_neg (Nat.not_le.2 hn)))

theorem exec_cqCfg_enables (h : s.hostOpen) (hn : n < 64) (ho : s.fb (F.schCqCfgEn n) = false) (hv : bitOf v 31 = true)
    (h4 : 4 ≤ bitsOf v 0 5) (h16 : bitsOf v 0 5 ≤ 16) : exec (.cqCfg n v) s =
      .next ((((s.cqInt n v).setF (F.schCqCfgLog2size n) (bitsOf v 0 5)).freshCq n).drainCq n (s.held n)) := by
  rw [exec_cqCfg h hn, hv, ho, log2Ok_of h4 h16]
  rfl

theorem f_freshCq (s : State) (n : Nat) (y : Fld) :
    ((s.freshCq n).drainCq n []).f y = ((s.setF (F.schCqCfgEn n) 1).setF (F.schCqPtrTail n) 0).f y := rfl

/-- The fields of a completion queue that has been turned on with no record held. -/
theorem freshCq_fields (s : State) (n v : Nat) :
    let t := (((s.cqInt n v).setF (F.schCqCfgLog2size n) (bitsOf v 0 5)).freshCq n).drainCq n []
    t.f (F.schCqCfgEn n) = 1 ∧ t.f (F.schCqCfgInt n) = bitsOf v 30 1 ∧ t.f (F.schCqCfgVector n) = bitsOf v 16 11 ∧
      t.f (F.schCqCfgLog2size n) = bitsOf v 0 5 ∧ t.f (F.schCqPtrTail n) = 0 ∧ n ∉ t.sch.cqWrap := by
  have hwrap : n ∉ s.sch.cqWrap.filter (fun m => m != n) := by simp
  refine ⟨?_, ?_, ?_, ?_, ?_, hwrap⟩ <;>
    simp (disch := (simp only [Fld.key, F.schCqCfgEn, F.schCqCfgInt, F.schCqCfgVector, F.schCqCfgLog2size,
      F.schCqPtrTail]; omega)) only [f_freshCq, State.cqInt, f_setF_same, f_setF_other]
  · exact Nat.mod_eq_of_lt (by decide : 1 < 2 ^ 1)
  · exact bitsOf_mod v 30 1
  · exact bitsOf_mod v 16 11
  · exact bitsOf_mod v 0 5
  · exact Nat.zero_mod _

theorem exec_cqHead (h : s.hostOpen) (hn : n < 64) :
    exec (.cqHead n v) s = .next ((s.setF (F.schCqPtrHead n) v).drainCq n (s.held n)) :=
  (hostAccess_eq h _ _ _).trans (congrArg _ (if_neg (Nat.not_le.2 hn)))

end

/-! ### The statement -/

/-- Settles O16, a case of EN, of the value's EN bit and of its size at a time. -/
theorem queuesAreConfigured : Obligations.QueuesAreConfigured := by
  intro s n v h hn _
  refine ⟨fun ho hv h4 h16 => exec_queueCfg_enables h hn ho hv h4 h16, fun ho hv => ?_, fun ho hv => ?_, fun ho hv => ?_,
    fun ho hv hbad => ⟨s.queueSet n v, ?_, (queueSet_fields ho).1⟩, fun ho hv h4 h16 hheld => ?_,
    ⟨fun ho => ?_, fun ho hv => ?_, fun ho hv hbad => ?_, exec_cqCfg_enables h hn⟩, exec_cqHead h hn, fun hheld => ?_⟩
  · rw [exec_queueCfg h hn, hv, ho, queueSet_on ho]
    rfl
  · rw [exec_queueCfg h hn, hv, queueSet_off ho]
    rfl
  · rw [exec_queueCfg h hn, hv, queueSet_on ho]
    rfl
  · rw [exec_queueCfg h hn, hv, ho, not_log2Ok hbad, if_neg (by decide), if_neg (by decide), if_pos Bool.not_false]
  · rw [exec_cqCfg_enables h hn ho hv h4 h16, hheld]
    exact ⟨_, rfl, freshCq_fields s n v⟩
  · rw [exec_cqCfg h hn, ho]
    cases bitOf v 31 <;> rfl
  · rw [exec_cqCfg h hn, ho, hv]
    rfl
  · rw [exec_cqCfg h hn, ho, hv, not_log2Ok hbad]
    dsimp only
    rw [if_neg (by decide), if_neg (by decide), if_pos Bool.not_false, if_neg (by decide)]
    rfl
  · rw [exec_cqHead h hn, hheld]
    exact ⟨_, rfl, (f_congr rfl _).trans (f_setF_same s (F.schCqPtrHead n) v), fun _ _ => rfl⟩

end Sys2Proof.Machine
end

section
/-! Run control and the switches take effect: STEP_LAUNCH, TOKEN_CLEAR_ALL, RUN, the quotas, ARR.LINFO, FORCE_PROBE and
QCLEAR (R58, R82, R86, R87, R102, R153, R201, R233, R247, R268). -/

namespace Sys2Proof.Machine

/-! ### Run control -/

section
variable {s : State}

theorem exec_stepLaunch (h : s.hostOpen) : exec .stepLaunch s = .next s.softLaunch := hostAccess_eq h _ _ _

/-- What STEP_LAUNCH finds where it may launch: a program, RUN, and neither loop nor pass under way (R58). -/
theorem softLaunch_free (hload : s.load.loaded = true) (hrun : s.fb F.schCtrlRun = true) (hloop : s.f F.schLoopState = 0)
    (hpass : s.passState = psIdle) (hl : s.pass.launched = false) (hr : s.pass.recover = false) : s.softLaunch =
      if s.oldBody then s.modPup (fun p => { p with swLaunch := true }) else s.takeSlot.launch false :=
  if_neg (by simp [hload, hrun, hloop, hpass, hl, hr])

theorem softLaunch_busy (h : s.load.loaded = false ∨ s.fb F.schCtrlRun = false ∨ s.f F.schLoopState ≠ 0 ∨
    s.passState ≠ psIdle ∨ s.pass.launched = true ∨ s.pass.recover = true) : s.softLaunch = s :=
  if_pos (by simpa [or_assoc] using h)

theorem exec_tokenClearAll (h : s.hostOpen) :
    exec .tokenClearAll s = .next (if s.fb F.schCtrlRun then s else s.clearTokens) := hostAccess_eq h _ _ _

theorem exec_run (h : s.hostOpen) (on : Bool) : exec (.run on) s = .next (s.setRun on) := hostAccess_eq h _ _ _

theorem setRun_resident (hr : s.resident = true) (on : Bool) : s.setRun on = s := if_pos hr

theorem setRun_on (hr : s.resident = false) : s.setRun true = s.setF F.schCtrlRun 1 := by
  rw [State.setRun, if_neg (by simp [hr])]
  rfl

theorem setRun_off (hr : s.resident = false) : s.setRun false =
    let t := s.setF F.schCtrlRun 0
    (if t.f F.schLoopState = 1 then t.setF F.schLoopState 2 else t).tryHalt := by
  rw [State.setRun, if_neg (by simp [hr])]
  rfl

theorem f_loopState_run (s : State) (v : Nat) : (s.setF F.schCtrlRun v).f F.schLoopState = s.f F.schLoopState :=
  f_setF_other (by decide) s v

/-- A loop that is HALTED stays as it is. -/
theorem setRun_off_halted (hr : s.resident = false) (hl : s.f F.schLoopState = 0) :
    s.setRun false = s.setF F.schCtrlRun 0 := by
  have hstate := (f_loopState_run s 0).trans hl
  rw [setRun_off hr]
  dsimp only
  rw [if_neg (by omega), State.tryHalt, if_pos (.inl (by omega))]

/-- A loop that runs begins to stop, and does not halt while a step is launched. -/
theorem setRun_off_running (hr : s.resident = false) (hl : s.f F.schLoopState = 1) (hp : s.pass.launched = true) :
    s.setRun false = (s.setF F.schCtrlRun 0).setF F.schLoopState 2 := by
  rw [setRun_off hr]
  dsimp only
  rw [if_pos ((f_loopState_run s 0).trans hl), State.tryHalt, if_pos (.inr hp)]

/-! ### The quotas -/

theorem exec_quotaWrite (h : s.hostOpen) (defer : Bool) (v : Nat) :
    exec (.quotaWrite defer v) s = .next (s.quotaRegs defer v) := hostAccess_eq h _ _ _

/-- An eviction changes the places of pages, and no quota. -/
theorem evictOldest_quotas {e : State × Nat} (he : s.evictOldest = some e) :
    e.1.val.hbmQuota = s.val.hbmQuota ∧ e.1.val.chipQuota = s.val.chipQuota := by
  unfold State.evictOldest at he
  split at he
  · split at he
    · obtain rfl := Option.some.inj he
      exact ⟨rfl, rfl⟩
    · exact absurd he (by simp)
  · exact absurd he (by simp)

end

theorem pageOut_quotas (s : State) (k : Nat) :
    (s.pageOut k).val.hbmQuota = s.val.hbmQuota ∧ (s.pageOut k).val.chipQuota = s.val.chipQuota := by
  induction k generalizing s with
  | zero => exact ⟨rfl, rfl⟩
  | succ k ih =>
    unfold State.pageOut
    split
    · exact ⟨rfl, rfl⟩
    · split
      case h_1 e he =>
        obtain ⟨hhbm, hchip⟩ := evictOldest_quotas he
        obtain ⟨ihhbm, ihchip⟩ := ih e.1
        exact ⟨ihhbm.trans hhbm, ihchip.trans hchip⟩
      case h_2 => exact ⟨rfl, rfl⟩

/-- The quotas in effect once the registers have been taken up: what the heap can supply, and the chip's at most 128. -/
theorem applyQuotas_quotas (s : State) :
    s.applyQuotas.val.hbmQuota =
      min (s.f F.memValleyQuotaHbmPages) ((s.heapFree + s.val.hbmQuota * pageBytes) / pageBytes) ∧
    s.applyQuotas.val.chipQuota = min 128 (s.f F.memValleyQuotaChipPages) := by
  dsimp only [State.applyQuotas]
  split
  · rw [ev_val, State.setF_val]
    exact pageOut_quotas _ _
  · exact pageOut_quotas _ _

/-- A write of MEM.VALLEY_QUOTA, as the registers show it. -/
def State.valleyQuota (s : State) (v : Nat) : State :=
  (s.setF F.memValleyQuotaHbmPages (bitsOf v 32 32)).setF F.memValleyQuotaChipPages (bitsOf v 0 8)

theorem valleyQuota_fields (s : State) (v : Nat) :
    (s.valleyQuota v).f F.memValleyQuotaHbmPages = bitsOf v 32 32 ∧
    (s.valleyQuota v).f F.memValleyQuotaChipPages = bitsOf v 0 8 := by
  refine ⟨?_, ?_⟩
  · rw [State.valleyQuota, f_setF_other (by decide), f_setF_same]
    exact Nat.mod_mod _ _
  · rw [State.valleyQuota, f_setF_same]
    exact Nat.mod_mod _ _

/-- Quotas that the heap can supply take effect whole (R82). -/
theorem valleyQuota_applied {s : State} {v : Nat}
    (hfree : bitsOf v 32 32 ≤ (s.heapFree + s.val.hbmQuota * pageBytes) / pageBytes) :
    (s.valleyQuota v).applyQuotas.val.hbmQuota = bitsOf v 32 32 ∧
    (s.valleyQuota v).applyQuotas.val.chipQuota = min 128 (bitsOf v 0 8) := by
  obtain ⟨hhbm, hchip⟩ := applyQuotas_quotas (s.valleyQuota v)
  obtain ⟨hpages, hchips⟩ := valleyQuota_fields s v
  rw [hpages] at hhbm
  rw [hchips] at hchip
  exact ⟨hhbm.trans (Nat.min_eq_left hfree), hchip⟩

/-! ### The statement -/

/-- Settles O17, a switch at a time. -/
theorem runControlAndSwitches : Obligations.RunControlAndSwitches := by
  refine ⟨fun s h => ⟨fun hload hrun hloop hpass hl hr => ⟨fun hold => ?_, fun hold => ?_⟩, fun hbusy => ?_, fun hrun => ?_,
    fun hrun => ?_, fun hr => ?_, fun hr hl => ?_, fun hr hl hp => ?_, fun hr => ?_, fun hr on => ?_⟩,
    fun s v h l ho => ⟨exec_quotaWrite ho true v, exec_quotaWrite ho false v, fun hl hfree => ?_, fun hsel hlayer => ?_,
      fun hlayer => ?_, ⟨_, hostAccess_eq ho _ _ _, rfl, rfl⟩, fun hrun => ?_, fun hrun => ?_⟩⟩
  · rw [exec_stepLaunch h, softLaunch_free hload hrun hloop hpass hl hr, if_neg (by simp [hold])]
  · rw [exec_stepLaunch h, softLaunch_free hload hrun hloop hpass hl hr, if_pos hold]
  · rw [exec_stepLaunch h, softLaunch_busy hbusy]
  · rw [exec_tokenClearAll h, if_pos hrun]
  · rw [exec_tokenClearAll h, if_neg (by simp [hrun])]
    exact ⟨_, rfl, fun _ => rfl, rfl, fun _ _ => rfl⟩
  · rw [exec_run h, setRun_on hr]
  · rw [exec_run h, setRun_off_halted hr hl]
  · rw [exec_run h, setRun_off_running hr hl hp]
  · rw [exec_run h, setRun_off hr]
  · rw [exec_run h, setRun_resident hr]
  · refine ⟨(s.valleyQuota v).applyQuotas, (exec_quotaWrite ho false v).trans (congrArg _ (if_neg ?_)),
      valleyQuota_applied hfree⟩
    show ¬ s.pass.launched = true
    simp [hl]
  · refine (hostAccess_eq ho _ _ _).trans ?_
    rw [State.infoWrite, hsel, hlayer]
  · refine (hostAccess_eq ho _ _ _).trans ?_
    rw [State.infoWrite, hlayer]
  · refine ⟨_, (hostAccess_eq ho _ _ _).trans (congrArg _ (if_neg (by simp [hrun]))), rfl, rfl⟩
  · exact (hostAccess_eq ho _ _ _).trans (congrArg _ (if_pos hrun))

end Sys2Proof.Machine
end

section
/-! PROGRAM_LOAD loads the program or refuses it (R59, R82, R84, R382, R432), and the loop advances (R58, R87, R226, R302, R303,
R306). -/

namespace Sys2Proof.Machine

/-! ### The load -/

section
variable {s : State}

theorem exec_programLoad (h : s.hostOpen) : exec .programLoad s = .next s.programLoad := hostAccess_eq h _ _ _

/-- In lifecycle BLANK or RETIRED nothing is loaded (R382). -/
theorem programLoad_refused (hl : s.f F.secStatusLifecycle = 0 ∨ s.f F.secStatusLifecycle = 3) :
    s.programLoad = s.ev 0xa007 unitSec (s.f F.secStatusLifecycle) 0 := if_pos hl

theorem programLoad_resident (h0 : s.f F.secStatusLifecycle ≠ 0) (h3 : s.f F.secStatusLifecycle ≠ 3)
    (hr : s.resident = true) : s.programLoad = s.setF F.devReplayStatusLoadRefused 1 :=
  (if_neg (not_or.2 ⟨h0, h3⟩)).trans (if_pos hr)

/-- A rank table of the wrong form, or one that does not name this device once (R84). -/
theorem programLoad_badTable (h0 : s.f F.secStatusLifecycle ≠ 0) (h3 : s.f F.secStatusLifecycle ≠ 3)
    (hr : s.resident = false) (hbad : s.tableOk = false ∨ s.ownRanks.length ≠ 1) :
    s.programLoad = s.ev 0x0025 unitSched s.ownRanks.length 0 := by
  rw [State.programLoad, if_neg (not_or.2 ⟨h0, h3⟩), if_neg (by simp [hr])]
  rcases hok : s.tableOk with _ | _
  · exact if_pos rfl
  · rw [if_neg (by decide)]
    have hlen : s.ownRanks.length ≠ 1 := hbad.resolve_left (by simp [hok])
    split
    case h_1 r hone => exact absurd (congrArg List.length hone) hlen
    case h_2 => rfl

/-- A good table: the heap decides. -/
theorem programLoad_goodTable {r : Nat} (h0 : s.f F.secStatusLifecycle ≠ 0) (h3 : s.f F.secStatusLifecycle ≠ 3)
    (hr : s.resident = false) (hok : s.tableOk = true) (hown : s.ownRanks = [r]) :
    s.programLoad =
      if hbmProgTop < s.f F.memHeapBase + s.f F.memHeapSize then s.ev 0xb001 unitSched 0 (s.f F.memHeapSize)
      else if s.f F.memHeapSize < loadBytes (s.f F.memSeesawParams) s.bucketLimit s.tableN then
        s.ev 0xb001 unitSched 0 (loadBytes (s.f F.memSeesawParams) s.bucketLimit s.tableN)
      else s.loadNow r := by
  rw [State.programLoad, if_neg (not_or.2 ⟨h0, h3⟩), if_neg (by simp [hr]), if_neg (by simp [hok]), hown]

end

/-- Settles O19, a refusal at a time in the order in which they are judged. -/
theorem programLoadsOrRefuses : Obligations.ProgramLoadsOrRefuses := by
  intro s r h
  refine ⟨fun h0 h3 hr hok hown => ?_, fun hl => ?_, fun h0 h3 hr => ?_, fun h0 h3 hr hbad => ?_⟩
  · rw [exec_programLoad h, programLoad_goodTable h0 h3 hr hok hown]
  · rw [exec_programLoad h, programLoad_refused hl]
  · rw [exec_programLoad h, programLoad_resident h0 h3 hr]
  · rw [exec_programLoad h, programLoad_badTable h0 h3 hr hbad]

/-! ### The loop -/

section
variable {s : State} {k : Nat}

/-- What the loop does at its next step: nothing without a batch, unless it replays a step that holds one (R303). -/
def State.nextStep (s : State) : State :=
  match s.pup.next with
  | .none => s
  | .next => if s.presentSlot.isSome then s.takeSlot.launch false else s
  | .replay => if s.pup.mine then s.launch true else if s.presentSlot.isSome then s.takeSlot.launch false else s

theorem exec_loopLaunch_next (hmay : s.mayLaunch = true) (hh : s.sec.halted = false) (hsw : s.pup.swLaunch = false)
    (hl : s.looping = true) (hset : s.pup.settled = true) (hp : s.pst_ < 2) : exec .loopLaunch s = .next s.nextStep := by
  dsimp only [exec, execLoopLaunch]
  rw [if_neg (by simp [hmay, hh]), if_neg (by simp [hsw]), if_neg (by simp [hl, hset, hp]), State.nextStep]
  cases s.pup.next with
  | none => rfl
  | next => cases s.presentSlot <;> simp
  | replay => cases s.pup.mine <;> cases s.presentSlot <;> simp

/-- The step that the loop launches next takes the batch that is present, or waits for one. -/
theorem nextStep_of_wantsSlot (hw : s.pup.next = .next ∨ (s.pup.next = .replay ∧ s.pup.mine = false)) :
    s.nextStep = if s.presentSlot.isSome then s.takeSlot.launch false else s := by
  rcases hw with hn | ⟨hn, hm⟩
  · rw [State.nextStep, hn]
  · rw [State.nextStep, hn]
    exact if_neg (by simp [hm])

theorem nextStep_present (hw : s.pup.next = .next ∨ (s.pup.next = .replay ∧ s.pup.mine = false))
    (hs : s.presentSlot = some k) : s.nextStep = s.takeSlot.launch false := by
  rw [nextStep_of_wantsSlot hw, hs, if_pos Option.isSome_some]

theorem nextStep_absent (hw : s.pup.next = .next ∨ (s.pup.next = .replay ∧ s.pup.mine = false))
    (hs : s.presentSlot = none) : s.nextStep = s := by
  rw [nextStep_of_wantsSlot hw, hs, if_neg (by simp)]

theorem nextStep_replay (hn : s.pup.next = .replay) (hm : s.pup.mine = true) : s.nextStep = s.launch true := by
  rw [State.nextStep, hn]
  exact if_pos hm

/-- A STEP_LAUNCH that waited is made before the loop's own (R87). -/
theorem exec_loopLaunch_software (hmay : s.mayLaunch = true) (hh : s.sec.halted = false) (hsw : s.pup.swLaunch = true) :
    exec .loopLaunch s = .next (((s.modPup (fun p => { p with swLaunch := false })).takeSlot).launch false) :=
  (if_neg (by simp [hmay, hh])).trans (if_pos hsw)

theorem exec_loopLaunch_not (hmay : s.mayLaunch = false) : exec .loopLaunch s = .next s := if_pos (by simp [hmay])

/-- The time of a wait has run out, and its event has not been raised (R306). -/
theorem exec_ingestStall {at_ : Nat} (hfrom : s.pup.waitFrom = some at_) (hseen : s.pup.stallSeen = false)
    (hw : s.pup.next = .next ∨ (s.pup.next = .replay ∧ s.pup.mine = false)) (hset : s.pup.settled = true)
    (hs : s.presentSlot = none) (hl : s.looping = true) (ht : at_ + max 1 (s.f F.schIngestCfgTimeout) * 3125 < s.aon) :
    exec .ingestStall s =
      .next ((s.modPup (fun p => { p with stallSeen := true })).ev 0x0032 unitPuppeteer 0 s.cursor) := by
  have hwants : s.wantsSlot = true := by
    rcases hw with hn | ⟨hn, hm⟩
    · simp [State.wantsSlot, hn]
    · simp [State.wantsSlot, hn, hm]
  dsimp only [exec, execIngestStall]
  rw [hfrom]
  exact if_neg (by simpa [hseen, hwants, hset, hs, hl] using ht)

end

/-- Settles O20: the loop's next step by `nextStep`, and the two clocks of its waits. -/
theorem loopAdvances : Obligations.LoopAdvances := by
  intro s k at_
  refine ⟨fun hmay hh hsw hl hset hp => ?_, exec_loopLaunch_software, exec_loopLaunch_not, fun hset ht => ?_, fun ht => ?_,
    exec_ingestStall⟩
  · rw [exec_loopLaunch_next hmay hh hsw hl hset hp]
    exact ⟨fun hn hs => congrArg _ (nextStep_present (.inl hn) hs), fun hn hm => congrArg _ (nextStep_replay hn hm),
      fun hn hm hs => congrArg _ (nextStep_present (.inr ⟨hn, hm⟩) hs), fun hw hs => congrArg _ (nextStep_absent hw hs)⟩
  · exact ⟨_, if_neg (by simpa [hset] using ht), rfl, rfl, rfl⟩
  · exact if_pos (by simp [ht])

end Sys2Proof.Machine
end

section
/-! The window reaches HBM where the decoder is committed (R72, R341 to R343, R348, R352, R363, R365, R383). -/

namespace Sys2Proof.Machine

/-! ### The effect of an access -/

section
variable {s : State} {a n size ways : Nat} {data : Option (List Byte)} {c : Instr}

theorem f_touchHbm (s : State) (x : Fld) : s.touchHbm.f x = s.f x := by
  unfold State.touchHbm
  split <;> rfl

theorem rdBytes_touchHbm (s : State) (sp a n : Nat) : s.touchHbm.rdBytes sp a n = s.rdBytes sp a n := by
  unfold State.touchHbm
  split <;> rfl

theorem poisonedRange_touchHbm (s : State) (sp a n : Nat) : s.touchHbm.poisonedRange sp a n = s.poisonedRange sp a n := by
  unfold State.touchHbm
  split <;> rfl

theorem windowAddr_touchHbm (s : State) (a : Nat) : s.touchHbm.windowAddr a = s.windowAddr a := by
  rw [State.windowAddr, State.windowAddr, f_touchHbm]

/-- A read gives the bytes at the window's base with their poison (R342, R348). -/
theorem windowTouch_read (s : State) (a n : Nat) : s.windowTouch a n none = { s.touchHbm with out := { s.touchHbm.out with
    data := s.touchHbm.out.data ++
      [(s.rdBytes 1 (s.windowAddr a) n, s.poisonedRange 1 (s.windowAddr a) n)] } } := by
  dsimp only [State.windowTouch, State.windowRead]
  rw [windowAddr_touchHbm, rdBytes_touchHbm, poisonedRange_touchHbm]

/-- A write stores the bytes there and ends their poison, unless RUN guards the table from it (R72, R348). -/
theorem windowTouch_write (s : State) (a n : Nat) (b : List Byte) : s.windowTouch a n (some b) =
    if s.fb F.schCtrlRun = true ∧ s.inTable (s.windowAddr a) b.length = true then s.touchHbm.violation 2
    else (s.touchHbm.wrBytes 1 (s.windowAddr a) b).unpoison 1 (s.windowAddr a) b.length := by
  have hrun : s.touchHbm.fb F.schCtrlRun = s.fb F.schCtrlRun := by rw [State.fb, State.fb, f_touchHbm]
  have htable : s.touchHbm.inTable (s.windowAddr a) b.length = s.inTable (s.windowAddr a) b.length := by
    simp only [State.inTable, f_touchHbm]
  dsimp only [State.windowTouch, State.windowWrite]
  rw [windowAddr_touchHbm, hrun, htable]
  exact if_congr Bool.and_eq_true_iff rfl rfl

/-! ### The accesses -/

/-- The decoder takes an access (R341, R343). -/
structure State.windowTakes (s : State) (a len : Nat) : Prop where
  committed : s.fb F.cxlStatusWinCommitted = true
  access    : s.barClosed = false
  enabled   : s.cxl.cmRefused = false
  inside    : a + len ≤ windowBytes

theorem windowTakes_iff (s : State) (a len : Nat) : s.windowTakes a len ↔
    ¬ (!s.fb F.cxlStatusWinCommitted || s.barClosed || s.cxl.cmRefused || decide (windowBytes < a + len)) = true := by
  simp only [Bool.or_eq_true, Bool.not_eq_true', decide_eq_true_eq, not_or, Bool.not_eq_false, Bool.not_eq_true, not_lt]
  exact ⟨fun ⟨h1, h2, h3, h4⟩ => ⟨⟨⟨h1, h2⟩, h3⟩, h4⟩, fun ⟨⟨⟨h1, h2⟩, h3⟩, h4⟩ => ⟨h1, h2, h3, h4⟩⟩

theorem exec_window_taken (hm : s.pcieMode = false) (ht : s.windowTakes a (accessBytes n data)) :
    exec (.windowAccess a n data) s =
      s.configAccess (.windowAccess a n data) (fun t => t.windowTouch a n data) :=
  (if_neg (by simp [hm])).trans (if_neg ((windowTakes_iff s a _).1 ht))

theorem exec_window_notTaken (hm : s.pcieMode = false) (ht : ¬ s.windowTakes a (accessBytes n data)) :
    exec (.windowAccess a n data) s = .next s :=
  (if_neg (by simp [hm])).trans (if_pos (not_not.1 (mt (windowTakes_iff s a _).2 ht)))

theorem configAccess_deep (hr : s.reachable = true) (hp : s.pst_ = 3) (run : State → State) :
    s.configAccess c run = .next (s.latchAccess c) := by
  simp [State.configAccess, hr, hp]

theorem configAccess_unreached (hr : s.reachable = false) (run : State → State) : s.configAccess c run = .next s := by
  simp [State.configAccess, hr]

/-- In CXL mode an access has no effect where the decoder does not take it or the link does not carry it. -/
theorem exec_window_noEffect (hm : s.pcieMode = false)
    (h : ¬ s.windowTakes a (accessBytes n data) ∨ s.reachable = false) : exec (.windowAccess a n data) s = .next s := by
  by_cases ht : s.windowTakes a (accessBytes n data)
  · rw [exec_window_taken hm ht, configAccess_unreached (h.resolve_left (not_not.2 ht))]
  · exact exec_window_notTaken hm ht

/-- In PCIe mode an access through BAR4 that its closed block does not turn away. -/
theorem exec_window_bar (hm : s.pcieMode = true) (h : ¬ (s.barReached && s.pst_ != 3 && s.barClosed) = true) :
    exec (.windowAccess a n data) s =
      s.hostAccess (.windowAccess a n data) false (State.barWindow a n data) :=
  (if_pos hm).trans (if_neg h)

theorem exec_window_open (hm : s.pcieMode = true) (h : s.hostOpen) :
    exec (.windowAccess a n data) s = .next (s.barWindow a n data) := by
  rw [exec_window_bar hm (by simp [h.access]), hostAccess_eq h]

theorem barWindow_mapped (hb : s.f F.cxlWinBase ≤ baseTop) (hl : a + accessBytes n data ≤ windowBytes) :
    s.barWindow a n data = s.windowTouch a n data := if_neg (by omega)

theorem barWindow_unmapped (h : ¬ (s.f F.cxlWinBase ≤ baseTop ∧ a + accessBytes n data ≤ windowBytes)) :
    s.barWindow a n data = (s.violation 5).zeroRead n data := if_pos (by omega)

/-! ### The commit of the decoder -/

theorem exec_decoderCommit (hm : s.pcieMode = false) : exec (.decoderCommit size ways) s =
    s.hostAccess (.decoderCommit size ways) s.ideShut (State.commitDecoder size ways) := if_neg (by simp [hm])

/-- The error state closes the decoder, and a stream that is not secure leaves the refusal to the commit itself (R383). -/
theorem exec_decoderCommit_runs (hm : s.pcieMode = false) (hr : s.barReached = true) (hp : s.pst_ ≠ 3)
    (h : s.boot.stopped = false ∨ s.ideShut = true) :
    exec (.decoderCommit size ways) s = .next (s.commitDecoder size ways) := by
  rw [exec_decoderCommit hm]
  rcases hide : s.ideShut with _ | _
  · have hstop : s.boot.stopped = false := h.resolve_right (by simp [hide])
    exact hostAccess_eq ⟨hr, hp, by simp [State.barClosed, hstop, hide]⟩ _ _ _
  · exact hostAccess_sec hr hp _ _

theorem exec_decoderCommit_stopped (hm : s.pcieMode = false) (hr : s.barReached = true) (hp : s.pst_ ≠ 3)
    (hs : s.boot.stopped = true) (hi : s.ideShut = false) : exec (.decoderCommit size ways) s = .next (s.violation 5) := by
  rw [exec_decoderCommit hm, hi, hostAccess_closed hr hp (by simp [State.barClosed, hs])]

theorem commitDecoder_again (hc : s.fb F.cxlStatusWinCommitted = true) : s.commitDecoder size ways = s := if_pos hc

/-- What a commit takes: the whole window at one way, from a base that the map allows, over streams that are secure. -/
theorem commitDecoder_fits (hc : s.fb F.cxlStatusWinCommitted = false)
    (h : size = windowBytes ∧ ways = 1 ∧ s.f F.cxlWinBase ≤ baseTop ∧ s.ideShut = false) :
    s.commitDecoder size ways =
      ({ s with cxl := { s.cxl with commitErr := false } } : State).setF F.cxlStatusWinCommitted 1 := by
  obtain ⟨hsize, hways, hbase, hide⟩ := h
  exact (if_neg (by simp [hc])).trans (if_neg (by simp [hsize, hways, hide, hbase]))

theorem commitDecoder_misfit (hc : s.fb F.cxlStatusWinCommitted = false)
    (h : ¬ (size = windowBytes ∧ ways = 1 ∧ s.f F.cxlWinBase ≤ baseTop ∧ s.ideShut = false)) :
    s.commitDecoder size ways = { s with cxl := { s.cxl with commitErr := true } } := by
  refine (if_neg (by simp [hc])).trans (if_pos ?_)
  rw [← Bool.not_eq_true, ← not_lt] at h
  tauto

end

/-! ### The statement -/

/-- Settles O42: an access by the mode of the port and by where it goes, a commit by what it asks for. -/
theorem windowReachesMemory : Obligations.WindowReachesMemory := by
  intro s a n size ways data base len t effect zero taken mapped fits decoder
  have hlen : len = accessBytes n data := by cases data <;> rfl
  have heffect : s.windowTouch a n data = effect := by
    cases data with
    | none => exact windowTouch_read s a n
    | some b => exact windowTouch_write s a n b
  have hzero (u : State) : u.zeroRead n data = zero u := by cases data <;> rfl
  have htaken : taken ↔ s.windowTakes a (accessBytes n data) := by
    rw [← hlen]
    exact ⟨fun ⟨h1, h2, h3, h4⟩ => ⟨h1, h2, h3, h4⟩, fun ⟨h1, h2, h3, h4⟩ => ⟨h1, h2, h3, h4⟩⟩
  have hmapped : mapped ↔ s.f F.cxlWinBase ≤ baseTop ∧ a + accessBytes n data ≤ windowBytes := by rw [← hlen]
  rw [← heffect]
  clear_value len effect zero taken mapped
  refine ⟨fun hm => ⟨fun ht hl => ?_, fun ht hr hp => ?_, fun h => ?_⟩, fun hm => ⟨fun ho hmap => ?_, fun ho hmap => ?_,
    fun hr hp => ?_, fun hr hp hc => ?_, fun hr => ?_, if_pos hm⟩, fun hm hr hp => ⟨exec_decoderCommit_stopped hm hr hp,
    fun h => ⟨fun hc => ?_, fun hc hfit => ?_, fun hc hfit => ?_⟩⟩, fun hm hr hp => ?_, fun hr => ?_⟩
  · rw [exec_window_taken hm (htaken.1 ht), configAccess_eq hl]
  · rw [exec_window_taken hm (htaken.1 ht), configAccess_deep hr hp]
  · exact exec_window_noEffect hm (h.imp_left (mt htaken.2))
  · obtain ⟨hb, hl⟩ := hmapped.1 hmap
    rw [exec_window_open hm ho, barWindow_mapped hb hl]
  · rw [exec_window_open hm ho, barWindow_unmapped (mt hmapped.2 hmap), hzero]
  · rw [exec_window_bar hm (by simp [hp]), hostAccess_deep hr hp]
  · rw [← hzero]
    exact (if_pos hm).trans (if_pos (by simp [hr, hp, hc]))
  · rw [exec_window_bar hm (by simp [hr]), hostAccess_unreached hr]
  · rw [exec_decoderCommit_runs hm hr hp h, commitDecoder_again hc]
  · rw [exec_decoderCommit_runs hm hr hp h, commitDecoder_fits hc hfit]
    rfl
  · rw [exec_decoderCommit_runs hm hr hp h, commitDecoder_misfit hc hfit]
    rfl
  · rw [exec_decoderCommit hm, hostAccess_deep hr hp]
  · cases hm : s.pcieMode with
    | true => exact if_pos hm
    | false => rw [exec_decoderCommit hm, hostAccess_unreached hr]

end Sys2Proof.Machine
end

section
/-! Tiles and layers as the state holds them: a tile or a layer read after a write, and what leaves the layers and the
instructions in flight alone. -/

namespace Sys2Proof.Machine

variable (s : State)

@[simp] theorem tile_putTile_same (t : Nat) (x : Tile) : (s.putTile t x).tile t = x := by
  unfold State.tile State.putTile
  by_cases hx : x = {}
  · simp [hx]
  · simp [hx]

@[simp] theorem layer_putLayer_same (h : Nat) (l : Layer) : (s.putLayer h l).layer h = some l := mget_mput_same h l _

@[simp] theorem layer_putTile (t h : Nat) (x : Tile) : (s.putTile t x).layer h = s.layer h := rfl

@[simp] theorem layer_ev (c u a b h : Nat) : (s.ev c u a b).layer h = s.layer h := by
  rw [State.layer, State.layer, State.ev, raise_arr]

/-- Changes of tiles leave the layers and the instructions in flight as they are. -/
theorem foldl_modTile_frame (g : Tile → Tile) (ts : List Nat) (s : State) :
    (∀ h, (ts.foldl (fun t k => t.modTile k g) s).layer h = s.layer h) ∧
      (ts.foldl (fun t k => t.modTile k g) s).sch = s.sch := by
  induction ts generalizing s with
  | nil => exact ⟨fun _ => rfl, rfl⟩
  | cons k ts ih =>
    obtain ⟨hl, hs⟩ := ih (s.modTile k g)
    exact ⟨hl, hs⟩

theorem inst_congr {s t : State} (h : t.sch = s.sch) (id : Nat) : t.inst id = s.inst id := by
  rw [State.inst, State.inst, h]

/-! ### Fallback (R139, R140) -/

/-- A layer that is placed is in fallback once it has entered it. -/
theorem enterFallback_layer {s : State} {h : Nat} {l : Layer} (hl : s.layer h = some l) (route : Nat) :
    ∃ y, (s.enterFallback h route).layer h = some y ∧ y.fallback = true := by
  rw [State.enterFallback, hl]
  dsimp only
  split
  · exact ⟨l, hl, by assumption⟩
  · refine ⟨{ l with fallback := true, route := route }, ?_, rfl⟩
    rw [layer_ev, (foldl_modTile_frame _ _ _).1, layer_putLayer_same]

theorem enterFallback_sch (h route : Nat) : (s.enterFallback h route).sch = s.sch := by
  unfold State.enterFallback
  split
  · rfl
  · split
    · rfl
    · rw [State.ev, raise_sch, (foldl_modTile_frame _ _ _).2, State.putLayer_sch]

/-- A layer that leaves fallback keeps the rest as it was. -/
theorem leaveFallback_layer {s : State} {h : Nat} {l : Layer} (hl : s.layer h = some l) :
    (s.leaveFallback h).layer h = some { l with fallback := false } := by
  rw [State.leaveFallback, hl]
  dsimp only
  split
  · rw [layer_ev, layer_putLayer_same]
  · rename_i hf
    rw [hl, ← Bool.not_eq_true _ |>.mp hf]

theorem leaveFallback_sch (h : Nat) : (s.leaveFallback h).sch = s.sch := by
  unfold State.leaveFallback
  split
  · rfl
  · split
    · rw [State.ev, raise_sch, State.putLayer_sch]
    · rfl

end Sys2Proof.Machine
end

section
/-! The ARR instructions but the forward (R103 to R105, R115, R139, R140, R285, R286, R289): one equation for each way in
which one of them ends. -/

namespace Sys2Proof.Machine

variable {s t : State} {id op h : Nat} {i : Inst} {l : Layer}

/-! ### An instruction that may start has the effect that its row gives -/

theorem start_run (h : s.mayStart op id i) {run : Inst → State} (hr : run i = t) :
    s.start op id run = .next (t.afterStart id) := by
  rw [start_eq h, hr]

theorem startIf_run (h : s.mayStart op id i) {cond : Inst → Bool} {run : Inst → State} (hc : cond i = true)
    (hr : run i = t) : s.startIf op id cond run = .next (t.afterStart id) := by
  rw [startIf_eq h cond run hc, hr]

/-! ### ARR.PLACE (R103, R285) -/

/-- The tiles that the layer of an ARR.PLACE takes (R103). -/
def Inst.placeTiles (i : Inst) : Nat := ((i.d 0).e 0 + 1023) / 1024 * (((i.d 0).e 1 + 255) / 256)

/-- A layer of `i` placed on the lowest free tiles under handle `h`, its operand bound. -/
def State.placed (s : State) (i : Inst) (h : Nat) : State :=
  let rt := ((i.d 0).e 0 + 1023) / 1024
  let ct := ((i.d 0).e 1 + 255) / 256
  let ts := s.lowestFree tileCount 0 (rt * ct)
  (((s.takeTiles h ct ts.zipIdx).putLayer h
    { wt := (i.d 0).format == 6, inDim := (i.d 0).e 0, outDim := (i.d 0).e 1, master := (i.d 1).base,
      tiles := ts.map some }).putEntry i.code.h0 { i.d 0 with base := setBits (i.d 0).base 0 16 h, bound := true }).putInst
    (i.finish 0 0 (h + rt * ct * 2 ^ 16))

theorem exec_arrPlace_free (hs : s.mayStart 0x4000 id i) (hd : (i.d 0).bound = false)
    (he : (s.descEntry i.code.h0).bound = false) (hst : s.placeStatus i i.placeTiles = stOk)
    (hh : s.freeHandle = some h) : exec (.arrPlace id) s = .next ((s.placed i h).afterStart id) := by
  refine start_run hs ?_
  rw [Inst.placeTiles] at hst
  simp only [he, hd, hst, hh, Bool.false_eq_true, if_false, ne_eq, not_true]
  rfl

theorem exec_arrPlace_fails (hs : s.mayStart 0x4000 id i) (hd : (i.d 0).bound = false)
    (he : (s.descEntry i.code.h0).bound = false) (hst : s.placeStatus i i.placeTiles ≠ stOk) :
    exec (.arrPlace id) s = .next ((s.putInst (i.end_ (s.placeStatus i i.placeTiles))).afterStart id) := by
  refine start_run hs ?_
  simp only [he, hd, Bool.false_eq_true, if_false]
  cases s.freeHandle with
  | none => rfl
  | some h => exact if_pos hst

/-! ### ARR.LREAD (R115, R286) -/

theorem lreadChecks_pass {d : Desc} (hf : d.format = (if l.wt then 6 else 5)) (hdim : d.ndim = 2) (h0 : d.e 0 = l.inDim)
    (h1 : d.e 1 = l.outDim) (hloc : d.loc ≤ 1) :
    firstFail [(d.format == (if l.wt then 6 else 5), stOperandFormat),
      (d.ndim == 2 && d.e 0 == l.inDim && d.e 1 == l.outDim, stShapeMismatch),
      (decide (d.loc ≤ 1), stDescInvalid)] = stOk := by
  simp [firstFail, hf, hdim, h0, h1, hloc]

/-! ### ARR.FALLBACK (R139, R140, R289) -/

/-- The effect of ARR.FALLBACK on its layer. -/
def State.fallbackOf (s : State) (i : Inst) (l : Layer) : State :=
  if bitOf i.code.imm0 0 then
    (if s.pass.launched then s.putLayer (i.layerOf 0) { l with pendFall := some 2, pendClear := false }
      else s.enterFallback (i.layerOf 0) 2)
  else if !l.whole then s
  else if s.pass.launched then s.putLayer (i.layerOf 0) { l with pendFall := none, pendClear := true }
  else s.leaveFallback (i.layerOf 0)

/-- RESULT says whether the layer, as the instruction leaves it, is in fallback or is to be. -/
theorem exec_arrFallback (hs : s.mayStart 0x4005 id i) (hl : s.layer (i.layerOf 0) = some l)
    (ht : s.fallbackOf i l = t) {y : Layer} (hy : t.layer (i.layerOf 0) = some y) :
    exec (.arrFallback id) s =
      .next ((t.putInst (i.finish 0 0 (natOfBool (y.fallback || y.pendFall.isSome)))).afterStart id) := by
  subst ht
  refine start_run hs ?_
  rw [State.fallbackOf] at hy ⊢
  simp only [hl, hy]
  rfl

/-- Entering fallback: at the next launch within a step, at once outside one (R139). -/
theorem fallbackOf_enters_inStep (hb : bitOf i.code.imm0 0 = true) (hp : s.pass.launched = true) :
    s.fallbackOf i l = s.putLayer (i.layerOf 0) { l with pendFall := some 2, pendClear := false } := by
  rw [State.fallbackOf, if_pos hb, if_pos hp]

theorem fallbackOf_enters (hb : bitOf i.code.imm0 0 = true) (hp : s.pass.launched = false) :
    s.fallbackOf i l = s.enterFallback (i.layerOf 0) 2 := by
  rw [State.fallbackOf, if_pos hb, if_neg (by simp [hp])]

/-- A layer that has lost a tile does not leave fallback (R140). -/
theorem fallbackOf_lost (hb : bitOf i.code.imm0 0 = false) (hw : l.whole = false) : s.fallbackOf i l = s := by
  rw [State.fallbackOf, if_neg (by simp [hb]), if_pos (by simp [hw])]

theorem fallbackOf_leaves_inStep (hb : bitOf i.code.imm0 0 = false) (hw : l.whole = true) (hp : s.pass.launched = true) :
    s.fallbackOf i l = s.putLayer (i.layerOf 0) { l with pendFall := none, pendClear := true } := by
  rw [State.fallbackOf, if_neg (by simp [hb]), if_neg (by simp [hw]), if_pos hp]

theorem fallbackOf_leaves (hb : bitOf i.code.imm0 0 = false) (hw : l.whole = true) (hp : s.pass.launched = false) :
    s.fallbackOf i l = s.leaveFallback (i.layerOf 0) := by
  rw [State.fallbackOf, if_neg (by simp [hb]), if_neg (by simp [hw]), if_neg (by simp [hp])]

theorem inst_finished (ht : t.sch = s.sch) (hi : s.inst id = some i) (n : Nat) :
    ((t.putInst (i.finish 0 0 n)).afterStart id).inst id = some (i.finish 0 0 n) := by
  have hid : i.id = id := inst_id hi
  exact (inst_afterStart _ _ _).trans (inst_putInst_same ((inst_congr ht id).trans hi) hid)

theorem layer_finished (t : State) (j : Inst) (id h : Nat) : ((t.putInst j).afterStart id).layer h = t.layer h := by
  rw [afterStart_frame]
  rfl

/-! ### A handle that names no placed layer -/

/-- Each of the six ends with DESC_UNBOUND, once the wait of its own that no layer decides is over (R286 to R289). -/
theorem exec_layer_unbound {c : Instr} {k : Nat}
    (hmem : (c, op, k) ∈ [(Instr.arrProgram id, 0x4001, 0), (.arrRelease id, 0x4002, 0), (.arrFwd id, 0x4003, 2),
      (.arrLread id, 0x4004, 1), (.arrFallback id, 0x4005, 0), (.arrCalib id, 0x4006, 0)])
    (hs : s.mayStart op id i) (hl : s.layer (i.layerOf k) = none) (hprog : op = 0x4001 → s.pass.launched = false)
    (hrel : op = 0x4002 → s.layerNamed i (i.layerOf 0) = false) (hfwd : op = 0x4003 → s.fwdMay i = true) :
    exec c s = .next ((s.putInst (i.end_ stDescUnbound)).afterStart id) := by
  simp only [List.mem_cons, Prod.mk.injEq, List.not_mem_nil, or_false] at hmem
  rcases hmem with ⟨rfl, rfl, rfl⟩ | ⟨rfl, rfl, rfl⟩ | ⟨rfl, rfl, rfl⟩ | ⟨rfl, rfl, rfl⟩ | ⟨rfl, rfl, rfl⟩ | ⟨rfl, rfl, rfl⟩
  · exact startIf_run hs (by simp [State.mayProgram, hl, hprog]) (by simp only [hl]; rfl)
  · exact startIf_run hs (by simp [hl, hrel]) (by simp only [hl]; rfl)
  · exact startIf_run hs (hfwd rfl) (by simp only [hl]; rfl)
  · exact startIf_run hs (by simp [hl]) (by simp only [hl]; rfl)
  · exact start_run hs (by simp only [hl]; rfl)
  · exact start_run hs (by simp only [hl]; rfl)

/-! ### The statement -/

/-- Settles O7: each instruction by the branch that its operands and its layer choose. -/
theorem arrayInstructionsComplete : Obligations.ArrayInstructionsComplete := by
  intro s id i h l rt ct ts cols cells
  refine ⟨exec_arrPlace_free, fun hs he => start_run hs ?placedAlready, exec_arrPlace_fails,
    fun hs hm hl => startIf_run hs hm ?program, fun hs hn hl ht => startIf_run hs (by simp [hn, hl, ht]) ?release,
    fun hs hl hseal hawake hf hdim h0 h1 hloc => startIf_run hs (by simpa [hl, hseal] using hawake) ?readBack,
    fun hs hl hb hp => ?entersInStep, fun hs hl hb hp => ?enters,
    fun hs hl hb hw => exec_arrFallback hs hl (fallbackOf_lost hb hw) hl, fun hs hl hb hw hp => ?leavesInStep,
    fun hs hl hb hw hp hpend => ?leaves, fun c op k => exec_layer_unbound, fun hs hl => start_run hs ?calib⟩
  case placedAlready =>
    simp only [he, if_true]
    rfl
  case program =>
    simp only [hl]
    rfl
  case release =>
    simp only [hl]
    rfl
  case readBack =>
    simp only [hl, lreadChecks_pass hf hdim h0 h1 hloc]
    rfl
  case entersInStep =>
    rw [exec_arrFallback hs hl (fallbackOf_enters_inStep hb hp) (layer_putLayer_same _ _ _)]
    simp [natOfBool]
  case enters =>
    obtain ⟨y, hy, hfall⟩ := enterFallback_layer hl 2
    refine ⟨_, exec_arrFallback hs hl (fallbackOf_enters hb hp) hy, ?_, ?_⟩
    · rw [hfall]
      exact inst_finished (enterFallback_sch _ _ _) hs.here 1
    · rw [layer_finished, hy, Option.map_some, hfall]
  case leavesInStep =>
    rw [exec_arrFallback hs hl (fallbackOf_leaves_inStep hb hw hp) (layer_putLayer_same _ _ _)]
    simp
  case leaves =>
    refine ⟨_, exec_arrFallback hs hl (fallbackOf_leaves hb hw hp) (leaveFallback_layer hl), ?_, ?_⟩
    · simp only [hpend]
      exact inst_finished (leaveFallback_sch _ _) hs.here 0
    · rw [layer_finished, leaveFallback_layer hl]
      rfl
  case calib => simp only [hl]

end Sys2Proof.Machine
end

section
/-! The forward of the arrays (R98, R104, R133, R139, R233, R287, R288): where it runs, and how it ends. -/

namespace Sys2Proof.Machine

variable {s : State} {id : Nat} {i : Inst} {l : Layer}

/-- What an ARR.FWD does at the place where it runs (R288). -/
def State.forwardAt (t : State) (i : Inst) (l : Layer) : FwdPlace → State
  | .tiles => t.fwdOnTiles i (i.layerOf 2) l
  | .fallback => t.fwdOnGrids i (i.layerOf 2) l false
  | .wide => t.fwdOnGrids i (i.layerOf 2) l true
  | .ideal => t.fwdIdeal i l

/-- An ARR.FWD that passed its checks and took its frame: it needs a programmed layer, and a grid anywhere but on the
tiles (R104, R233). -/
def State.forwards (t : State) (i : Inst) (l : Layer) (p : FwdPlace) : State :=
  if l.programmed = false then t.fails i stLayerUnprogrammed
  else if p ≠ .tiles ∧ t.noGrids = true then t.fails i stHwUnavailable
  else t.forwardAt i l p

/-- An ARR.FWD of a placed layer checks its record, then its frame of STASH, and then runs. -/
theorem exec_arrFwd (h : s.mayStart 0x4003 id i) (hl : s.layer (i.layerOf 2) = some l) (hm : s.fwdMay i = true) :
    exec (.arrFwd id) s = .next ((if fwdStatus i l ≠ stOk then s.fails i (fwdStatus i l)
      else if i.claim ≠ stOk then s.claimFails i
      else (s.stash i).forwards i l (s.fwdPlace i l)).afterStart id) := by
  refine (startIf_eq h _ _ hm).trans ?_
  simp only [hl, State.forwards]
  cases hp : l.programmed with
  | false => simp
  | true => cases s.fwdPlace i l <;> simp [State.forwardAt]

theorem exec_arrFwd_runs (h : s.mayStart 0x4003 id i) (hl : s.layer (i.layerOf 2) = some l) (hm : s.fwdMay i = true)
    (hst : fwdStatus i l = stOk) (hc : i.claim = stOk) :
    exec (.arrFwd id) s = .next (((s.stash i).forwards i l (s.fwdPlace i l)).afterStart id) := by
  rw [exec_arrFwd h hl hm, if_neg (not_not.2 hst), if_neg (not_not.2 hc)]

theorem forwards_unprogrammed (hp : l.programmed = false) (p : FwdPlace) :
    s.forwards i l p = s.putInst (i.end_ stLayerUnprogrammed) := if_pos hp

theorem forwards_noGrids (hp : l.programmed = true) {p : FwdPlace} (ht : p ≠ .tiles) (hg : s.noGrids = true) :
    s.forwards i l p = s.putInst (i.end_ stHwUnavailable) :=
  (if_neg (by simp [hp])).trans (if_pos ⟨ht, hg⟩)

theorem forwards_runs (hp : l.programmed = true) {p : FwdPlace} (hg : p ≠ .tiles → s.noGrids = false) :
    s.forwards i l p = s.forwardAt i l p :=
  (if_neg (by simp [hp])).trans (if_neg (fun ⟨ht, hn⟩ => by simp [hg ht] at hn))

/-- Settles O8: the checks and the frame first, then the place where the forward runs. -/
theorem arrayForwardCompletes : Obligations.ArrayForwardCompletes := by
  intro s id i l h hl hm
  refine ⟨fun hst => ?_, fun hst hc => ?_, fun hst hc => ?_⟩
  · rw [exec_arrFwd h hl hm, if_pos hst]
    rfl
  · rw [exec_arrFwd h hl hm, if_neg (not_not.2 hst), if_pos hc]
  · rw [exec_arrFwd_runs h hl hm hst hc]
    refine ⟨fun hp => ?_, fun hp ht hg => ?_, fun hp ht => ?_, fun hp ht hg => ?_, fun hp ht hg => ?_, fun hp ht hg => ?_⟩
    · rw [forwards_unprogrammed hp]
    · rw [forwards_noGrids hp ht hg]
    · rw [ht, forwards_runs hp (fun hn => absurd rfl hn)]
      rfl
    all_goals
      rw [ht, forwards_runs hp (fun _ => hg)]
      rfl

end Sys2Proof.Machine
end

section
/-! Rows are written, worn and repaired (R106, R107, R110, R111, R126, R127, R388). -/

namespace Sys2Proof.Machine

variable {s : State} {k r : Nat} {rest failed : List Nat} {b : Batch} {l : Layer}

/-! ### The levels of a row (R91, R106) -/

theorem level_setLevel_same (x : Tile) (r c : Nat) (d : Int) : (x.setLevel r c d).level r c = d := by
  by_cases hd : d = 0 <;> simp [Tile.level, Tile.setLevel, hd]

theorem level_setLevel_other {c q : Nat} (h : q ≠ c) (x : Tile) (r : Nat) (d : Int) :
    (x.setLevel r c d).level r q = x.level r q := by
  have hk : r * 256 + q ≠ r * 256 + c := by omega
  by_cases hd : d = 0
  · simp [Tile.level, Tile.setLevel, hd, mget_mdel_other hk]
  · simp [Tile.level, Tile.setLevel, hd, mget_mput_other hk]

/-- Cells of a row set one after the other: each column among them holds what it was set to. -/
theorem level_foldl_setLevel (f : Nat → Int) (r q : Nat) (cs : List Nat) (x : Tile) :
    (cs.foldl (fun y c => y.setLevel r c (f c)) x).level r q = if q ∈ cs then f q else x.level r q := by
  induction cs generalizing x with
  | nil => simp
  | cons c cs ih =>
    rw [List.foldl_cons, ih]
    by_cases hq : q = c
    · subst hq
      simp [level_setLevel_same]
    · simp [level_setLevel_other hq, hq]

theorem level_checksum (y : Tile) (cs : List (Nat × Int)) (r q : Nat) :
    ({ y with checksum := cs } : Tile).level r q = y.level r q := rfl

/-- A written row holds the levels of its batch. -/
theorem level_writeLevels (s : State) (l : Layer) (x : Tile) (b : Batch) (r : Nat) {q : Nat} (hq : q < 256) :
    (s.writeLevels l x b r).level r q = s.batchLevel l x b r q := by
  rw [State.writeLevels, level_checksum, level_foldl_setLevel (s.batchLevel l x b r), if_pos (List.mem_range.2 hq)]

/-! ### A row write ends (R106, R107) -/

/-- The batch of the tile is in the budget of the write controller, and the tile is awake. -/
def State.rowMayEnd (s : State) (k : Nat) (b : Batch) : Prop :=
  s.mayWrite k b = true ∧ (SleepKind.tile, k) ∈ s.units.awake

theorem rowMayEnd_iff (s : State) (k : Nat) (b : Batch) :
    (!s.mayWrite k b || !s.units.awake.contains (.tile, k)) = true ↔ ¬ s.rowMayEnd k b := by
  rw [← Bool.not_eq_false, not_iff_not]
  simp only [State.rowMayEnd, Bool.or_eq_false_iff, Bool.not_eq_false', List.contains_iff_mem]

theorem exec_rowWrite_noBatch (hx : (s.tile k).batch = none) : exec (.rowWrite k failed) s = .next s := by
  change execRowWrite k failed s = _
  simp only [execRowWrite, hx]

theorem exec_rowWrite_waits (hx : (s.tile k).batch = some b) (hm : ¬ s.rowMayEnd k b) :
    exec (.rowWrite k failed) s = .next s := by
  change execRowWrite k failed s = _
  simp only [execRowWrite, hx]
  exact if_pos ((rowMayEnd_iff s k b).2 hm)

theorem exec_rowWrite_noRows (hx : (s.tile k).batch = some b) (hr : b.rows = []) :
    exec (.rowWrite k failed) s = .next s := by
  change execRowWrite k failed s = _
  simp only [execRowWrite, hx, hr, ite_self]

theorem exec_rowWrite_noLayer (hx : (s.tile k).batch = some b) (hr : b.rows = r :: rest) (hk : b.kind ≠ .scrub)
    (hl : s.layer (s.tile k).layer = none) : exec (.rowWrite k failed) s = .next s := by
  change execRowWrite k failed s = _
  simp only [execRowWrite, hx, hr, if_neg hk, hl, ite_self]

section
variable (hx : (s.tile k).batch = some b) (hm : s.rowMayEnd k b) (hr : b.rows = r :: rest)
include hx hm hr

theorem exec_rowWrite_scrub (hk : b.kind = .scrub) :
    exec (.rowWrite k failed) s = .next (s.scrubRow k b r rest (!failed.isEmpty)) := by
  change execRowWrite k failed s = _
  simp only [execRowWrite, hx, hr, if_pos hk]
  exact if_neg (fun hg => (rowMayEnd_iff s k b).1 hg hm)

theorem exec_rowWrite_layer (hk : b.kind ≠ .scrub) (hl : s.layer (s.tile k).layer = some l) :
    exec (.rowWrite k failed) s = .next (s.rowWritten k l b r rest failed) := by
  change execRowWrite k failed s = _
  simp only [execRowWrite, hx, hr, if_neg hk, hl]
  exact if_neg (fun hg => (rowMayEnd_iff s k b).1 hg hm)

end

/-- The tile with row `r` of a batch written, and `rest` left (R106, R111). -/
def State.tileWritten (s : State) (k : Nat) (l : Layer) (b : Batch) (r : Nat) (rest : List Nat) : Tile :=
  { s.writeLevels l (s.tile k) b r with
    sealed := false, batch := some { b with rows := rest },
    wear := mput r (min 0xffffff ((mget r (s.tile k).wear).getD 0 + 1)) (s.tile k).wear,
    rewritten := if b.shadow && !(s.tile k).rewritten.contains r then (s.tile k).rewritten ++ [r]
      else (s.tile k).rewritten }

theorem level_tileWritten (s : State) (k : Nat) (l : Layer) (b : Batch) (r : Nat) (rest : List Nat) (q : Nat) :
    (s.tileWritten k l b r rest).level r q = (s.writeLevels l (s.tile k) b r).level r q := by
  rw [State.tileWritten, Tile.level, Tile.level]

/-- A row write that is not the last of its batch and has no failed cell. -/
theorem tile_rowWritten (s : State) (k : Nat) (l : Layer) (b : Batch) (r : Nat) (hrest : rest ≠ []) :
    (s.rowWritten k l b r rest []).tile k = s.tileWritten k l b r rest := by
  have hempty : rest.isEmpty = false := by simpa using hrest
  have ht (g : Pup → Pup) : (((s.putTile k (s.tileWritten k l b r rest)).columnsFail k []).modPup g).tile k =
      s.tileWritten k l b r rest := tile_putTile_same s k _
  rw [State.tileWritten] at ht ⊢
  simp only [State.rowWritten, List.filter_nil, ht, hempty, Bool.false_eq_true, if_false]

/-- A row write of a scrub that is not the last of its tile. -/
theorem tile_scrubRow (s : State) (k : Nat) (b : Batch) (r : Nat) (bad : Bool) (hrest : rest ≠ []) :
    (s.scrubRow k b r rest bad).tile k = { s.tile k with
      sealed := false, batch := some { b with rows := rest },
      levels := (s.tile k).levels.filter (fun c => c.1 / 256 != r), checksum := mdel r (s.tile k).checksum,
      wear := mput r (min 0xffffff ((mget r (s.tile k).wear).getD 0 + 1)) (s.tile k).wear } := by
  rw [State.scrubRow, if_neg (by simpa using hrest), tile_putTile_same]

/-! ### Wear (R111) -/

theorem exec_wearWarn_reports (hw : s.f F.arrWearCfgWarn ≤ (s.tile k).maxWear) (hn : (s.tile k).warned = false) :
    exec (.wearWarn k) s = .next ((s.putTile k { s.tile k with warned := true }).ev 0x1005 k 0 (s.tile k).maxWear) :=
  if_pos (by simp [hw, hn])

theorem exec_wearWarn_quiet (h : (s.tile k).maxWear < s.f F.arrWearCfgWarn ∨ (s.tile k).warned = true) :
    exec (.wearWarn k) s = .next s :=
  if_neg (by simpa [Nat.not_le] using fun hw => h.resolve_left (Nat.not_lt.2 hw))

theorem exec_wearRetire_retires (hw : min 10000000 (s.f F.arrWearCfgRetire) ≤ (s.tile k).maxWear)
    (hs : (s.tile k).state ≤ 1) (hb : (s.tile k).batch = none) :
    exec (.wearRetire k) s = .next (s.retire k 2 1) :=
  if_pos (by simp only [hw, hs, hb, decide_true, Option.isNone_none, Bool.and_self])

theorem exec_wearRetire_waits (h : (s.tile k).maxWear < min 10000000 (s.f F.arrWearCfgRetire) ∨ 1 < (s.tile k).state ∨
    (s.tile k).batch ≠ none) : exec (.wearRetire k) s = .next s :=
  if_neg (by
    simp only [Bool.and_eq_true, decide_eq_true_eq, Option.isNone_iff_eq_none, not_and_or, Nat.not_le]
    tauto)

/-! ### A tile under suspicion (R109, R126, R127) -/

/-- The tile holds a programmed layer and writes nothing, and no step is in progress whose pass has yet to answer. -/
def State.mayReprogram (s : State) (k : Nat) (l : Layer) : Prop :=
  (s.pass.launched = false ∨ (s.tile k).answered = true) ∧ (s.tile k).batch = none ∧ (s.tile k).state = 1 ∧
    l.programmed = true

/-- The tile is programmed again from the committed epoch, in the rows listed. -/
def State.reprogrammed (s : State) (k : Nat) (rows : List Nat) (all : Bool) : State :=
  s.putTile k (({ s.tile k with suspect := false, answered := false, sinceRe := some 0 } : Tile).begin
    { kind := .program, rows := rows, step := s.c, full := all, renew := all })

/-- The tile was programmed as a suspect one in the last 16 qualifying steps. -/
def Tile.suspectAgain (x : Tile) : Bool := x.sinceRe.any (fun n => decide (n ≤ 16))

theorem mayReprogram_iff (s : State) (k : Nat) (l : Layer) :
    ((s.pass.launched && !(s.tile k).answered) || (s.tile k).batch.isSome || (s.tile k).state != 1 || !l.programmed) = true
      ↔ ¬ s.mayReprogram k l := by
  rw [← Bool.not_eq_false, not_iff_not]
  simp only [State.mayReprogram, Bool.or_eq_false_iff, Bool.and_eq_false_iff, Bool.not_eq_false', bne_eq_false_iff_eq,
    Option.isSome_eq_false_iff, Option.isNone_iff_eq_none, and_assoc]

theorem exec_suspectReprogram_noLayer (hl : s.layer (s.tile k).layer = none) :
    exec (.suspectReprogram k) s = .next s := by
  change execSuspectReprogram k s = _
  simp only [execSuspectReprogram, hl]

theorem exec_suspectReprogram_waits (hl : s.layer (s.tile k).layer = some l) (hm : ¬ s.mayReprogram k l) :
    exec (.suspectReprogram k) s = .next s := by
  change execSuspectReprogram k s = _
  simp only [execSuspectReprogram, hl]
  exact if_pos ((mayReprogram_iff s k l).2 hm)

/-- A checksum column at fault retires the tile; a suspicion programs it again, the first time in full and soon after in
the rows that differ, and retires it where none does. -/
theorem exec_suspectReprogram_runs (hl : s.layer (s.tile k).layer = some l) (hm : s.mayReprogram k l) :
    exec (.suspectReprogram k) s = .next (
      if (s.tile k).csFault then s.retire k 2 3
      else if !(s.tile k).suspect then s
      else if (s.tile k).suspectAgain then
        (if s.staleRows l (s.tile k) = [] then s.retire k 2 3 else s.reprogrammed k (s.staleRows l (s.tile k)) false)
      else s.reprogrammed k allRows true) := by
  change execSuspectReprogram k s = _
  simp only [execSuspectReprogram, hl]
  rw [if_neg (fun hg => (mayReprogram_iff s k l).1 hg hm)]
  by_cases hc : (s.tile k).csFault = true
  · rw [if_pos hc, if_pos hc]
  rw [if_neg hc, if_neg hc]
  by_cases hs : (!(s.tile k).suspect) = true
  · rw [if_pos hs, if_pos hs]
  rw [if_neg hs, if_neg hs, Tile.suspectAgain]
  cases (s.tile k).sinceRe with
  | none => rfl
  | some n =>
    rw [Option.any_some]
    by_cases hn : n ≤ 16
    · rw [if_pos (decide_eq_true hn), if_pos (decide_eq_true hn)]
      cases s.staleRows l (s.tile k) <;> rfl
    · rw [if_neg (by simp [hn]), if_neg (by simp [hn])]
      rfl

theorem suspectAgain_false {x : Tile} (h : ∀ n, x.sinceRe = some n → 16 < n) : x.suspectAgain = false := by
  cases hx : x.sinceRe with
  | none => rw [Tile.suspectAgain, hx, Option.any_none]
  | some n => rw [Tile.suspectAgain, hx, Option.any_some, decide_eq_false (Nat.not_le.2 (h n hx))]

theorem suspectAgain_true {x : Tile} {n : Nat} (hx : x.sinceRe = some n) (hn : n ≤ 16) : x.suspectAgain = true := by
  rw [Tile.suspectAgain, hx, Option.any_some, decide_eq_true hn]

section
variable (hl : s.layer (s.tile k).layer = some l) (hm : s.mayReprogram k l)
include hl hm

theorem exec_suspectReprogram_fault (hc : (s.tile k).csFault = true) :
    exec (.suspectReprogram k) s = .next (s.retire k 2 3) := by
  rw [exec_suspectReprogram_runs hl hm, if_pos hc]

theorem exec_suspectReprogram_clean (hc : (s.tile k).csFault = false) (hs : (s.tile k).suspect = false) :
    exec (.suspectReprogram k) s = .next s := by
  rw [exec_suspectReprogram_runs hl hm, if_neg (by simp [hc]), if_pos (by simp [hs])]

theorem exec_suspectReprogram_suspect (hc : (s.tile k).csFault = false) (hs : (s.tile k).suspect = true) :
    exec (.suspectReprogram k) s = .next (if (s.tile k).suspectAgain then
        (if s.staleRows l (s.tile k) = [] then s.retire k 2 3 else s.reprogrammed k (s.staleRows l (s.tile k)) false)
      else s.reprogrammed k allRows true) := by
  rw [exec_suspectReprogram_runs hl hm, if_neg (by simp [hc]), if_neg (by simp [hs])]

theorem exec_suspectReprogram_full (hc : (s.tile k).csFault = false) (hs : (s.tile k).suspect = true)
    (hn : ∀ n, (s.tile k).sinceRe = some n → 16 < n) :
    exec (.suspectReprogram k) s = .next (s.reprogrammed k allRows true) := by
  rw [exec_suspectReprogram_suspect hl hm hc hs, if_neg (by simp [suspectAgain_false hn])]

theorem exec_suspectReprogram_again (hc : (s.tile k).csFault = false) (hs : (s.tile k).suspect = true) {n : Nat}
    (hx : (s.tile k).sinceRe = some n) (hn : n ≤ 16) : exec (.suspectReprogram k) s = .next
      (if s.staleRows l (s.tile k) = [] then s.retire k 2 3
        else s.reprogrammed k (s.staleRows l (s.tile k)) false) := by
  rw [exec_suspectReprogram_suspect hl hm hc hs, if_pos (suspectAgain_true hx hn)]

end

/-- Without a layer, or with one that waits, nothing happens. -/
theorem exec_suspectReprogram_quiet (h : s.layer (s.tile k).layer = none ∨
      (s.pass.launched = true ∧ (s.tile k).answered = false) ∨ (s.tile k).batch ≠ none ∨ (s.tile k).state ≠ 1) :
    exec (.suspectReprogram k) s = .next s := by
  cases hl : s.layer (s.tile k).layer with
  | none => exact exec_suspectReprogram_noLayer hl
  | some l =>
    refine exec_suspectReprogram_waits hl fun ⟨ha, hb, hs, _⟩ => ?_
    rcases h with h | ⟨hp, hn⟩ | h | h
    · simp [h] at hl
    · simp [hp, hn] at ha
    · exact h hb
    · exact h hs

end Sys2Proof.Machine
end

section
/-! HBM is scrubbed and its rows are repaired (R234, R347, R348, R363). -/

namespace Sys2Proof.Machine

variable {s : State} {addr row : Nat}

/-! ### Poisoned lines -/

theorem isPoisoned_addPoison_same (s : State) (space line : Nat) (by_ : Option Nat) :
    (s.addPoison space line by_).isPoisoned space line = true := by
  unfold State.addPoison
  split
  · assumption
  · simp [State.isPoisoned]

theorem f_addPoison (s : State) (space line : Nat) (by_ : Option Nat) (x : Fld) :
    (s.addPoison space line by_).f x = s.f x := by
  unfold State.addPoison
  split <;> rfl

theorem isPoisoned_touchHbm (s : State) (space line : Nat) : s.touchHbm.isPoisoned space line = s.isPoisoned space line := by
  unfold State.touchHbm
  split <;> rfl

theorem rowErrors_touchHbm (s : State) (row : Nat) : s.touchHbm.rowErrors row = s.rowErrors row := by
  unfold State.touchHbm
  split <;> rfl

/-! ### One line is read (R347, R348, R363) -/

/-- The scrub reads a line: the boot has ended, the device is not in Deep, and a line of the program space begins there. -/
def State.mayScrub (s : State) (addr : Nat) : Prop :=
  s.fb F.devBootReady = true ∧ s.pst_ ≠ 3 ∧ addr % 64 = 0 ∧ addr < hbmProgTop

theorem mayScrub_iff (s : State) (addr : Nat) :
    (!s.fb F.devBootReady || s.pst_ == 3 || addr % 64 != 0 || decide (hbmProgTop ≤ addr)) = true ↔ ¬ s.mayScrub addr := by
  rw [← Bool.not_eq_false, not_iff_not]
  simp only [State.mayScrub, Bool.or_eq_false_iff, Bool.not_eq_false', beq_eq_false_iff_ne, bne_eq_false_iff_eq,
    decide_eq_false_iff_not, Nat.not_le, and_assoc]

/-- What the reading of a line leaves, by what ECC finds in it. -/
def State.lineRead (t : State) (addr : Nat) : EccOutcome → State
  | .clean => t
  | .corrected => t.eccCorrected addr
  | .uncorrectable => if t.isPoisoned 1 (addr / 64) then t else t.eccUncorrectable addr

theorem exec_patrolScrub_reads (h : s.mayScrub addr) (o : EccOutcome) :
    exec (.patrolScrub addr o) s = .next (s.touchHbm.lineRead addr o) := by
  refine (if_neg (fun hg => (mayScrub_iff s addr).1 hg h)).trans ?_
  cases o <;> rfl

theorem exec_patrolScrub_pauses (h : ¬ s.mayScrub addr) (o : EccOutcome) : exec (.patrolScrub addr o) s = .next s :=
  if_pos ((mayScrub_iff s addr).2 h)

/-- The line of an uncorrectable error is poisoned, counted and recorded (R234, R347). -/
def State.lineLost (s : State) (addr : Nat) : State :=
  ((((s.addPoison 1 (addr / 64) none).addF F.memEccHbmUncorr 1).setF F.memEccLastValid 1).setF F.memEccLastSpace 0).setF
    F.memEccLastAddr addr

theorem lineLost_poisoned (s : State) (addr : Nat) : (s.lineLost addr).isPoisoned 1 (addr / 64) = true :=
  isPoisoned_addPoison_same s 1 (addr / 64) none

theorem lineLost_record (s : State) (addr : Nat) : (s.lineLost addr).f F.memEccLastAddr = addr % 2 ^ 48 ∧
    (s.lineLost addr).f F.memEccLastSpace = 0 ∧ (s.lineLost addr).f F.memEccLastValid = 1 := by
  refine ⟨f_setF_same _ _ _, ?_, ?_⟩
  · rw [State.lineLost, f_setF_other (by decide), f_setF_same]
    rfl
  · rw [State.lineLost, f_setF_other (by decide), f_setF_other (by decide), f_setF_same]
    rfl

theorem lineLost_counted (s : State) (addr : Nat) :
    (s.lineLost addr).f F.memEccHbmUncorr = min (2 ^ 32 - 1) (s.f F.memEccHbmUncorr + 1) := by
  rw [State.lineLost, f_setF_other (by decide), f_setF_other (by decide), f_setF_other (by decide), f_addF_same,
    f_addPoison]
  rfl

/-! ### A row is logged for repair (R347) -/

theorem exec_hbmRowRepair_logs (h : 16 ≤ s.rowErrors row) (hr : row ∉ s.ecc.repairs) : exec (.hbmRowRepair row) s = .next
    (({ s with ecc := { s.ecc with repairs := s.ecc.repairs ++ [row] } } : State).ev 0xb006 (stackUnit row) 0 row) := by
  refine (if_neg (by simpa using h)).trans ?_
  rw [State.logRepair, if_neg (by simpa using hr)]

theorem exec_hbmRowRepair_quiet (h : s.rowErrors row < 16 ∨ row ∈ s.ecc.repairs) :
    exec (.hbmRowRepair row) s = .next s := by
  by_cases hn : s.rowErrors row < 16
  · exact if_pos (by simpa using hn)
  · refine (if_neg (by simpa using hn)).trans ?_
    rw [State.logRepair, if_pos (by simpa using h.resolve_left hn)]

/-! ### The statement -/

/-- Settles O33: a row, its tile and a line of HBM, each command by its own guard. -/
theorem rowsAndMemoryAreMaintained : Obligations.RowsAndMemoryAreMaintained := by
  refine ⟨?rows, ?memory⟩
  case rows =>
    intro s k r rest failed b l x may redo
    refine ⟨exec_rowWrite_noBatch, exec_rowWrite_waits, exec_rowWrite_noRows,
      fun hx hm hr => ⟨exec_rowWrite_layer hx hm hr, exec_rowWrite_noLayer hx hr, exec_rowWrite_scrub hx hm hr⟩,
      fun hx hm hr hrest => ⟨fun hk hl => ⟨_, exec_rowWrite_layer hx hm hr hk hl, ?written⟩,
        fun hk => ⟨_, exec_rowWrite_scrub hx hm hr hk, ?scrubbed⟩⟩,
      exec_wearWarn_reports, exec_wearWarn_quiet, exec_wearRetire_retires, exec_wearRetire_waits,
      exec_suspectReprogram_quiet,
      fun hl hp => exec_suspectReprogram_waits hl (fun ⟨_, _, _, h⟩ => by simp [h] at hp), fun hl hp ha hb hs => ?suspect⟩
    case written =>
      rw [tile_rowWritten s k l b r hrest]
      exact ⟨mget_mput_same _ _ _, rfl, fun q hq =>
        (level_tileWritten s k l b r rest q).trans (level_writeLevels s l (s.tile k) b r hq)⟩
    case scrubbed =>
      rw [tile_scrubRow s k b r _ hrest]
      exact ⟨mget_mput_same _ _ _, fun c hc => by simpa using (List.mem_filter.1 hc).2⟩
    case suspect =>
      have hm : s.mayReprogram k l := ⟨ha, hb, hs, hp⟩
      refine ⟨exec_suspectReprogram_fault hl hm, exec_suspectReprogram_clean hl hm, exec_suspectReprogram_full hl hm,
        fun hc hsus n hx hn => ⟨fun hr => ?_, fun hr => ?_⟩⟩
      · rw [exec_suspectReprogram_again hl hm hc hsus hx hn, if_pos hr]
      · rw [exec_suspectReprogram_again hl hm hc hsus hx hn, if_neg hr]
        rfl
  case memory =>
    intro s addr row o t
    refine ⟨fun hboot hdeep hline htop => ?reads, fun h => exec_patrolScrub_pauses ?pauses o, exec_hbmRowRepair_logs,
      exec_hbmRowRepair_quiet⟩
    case reads =>
      have hread := exec_patrolScrub_reads (s := s) (addr := addr) ⟨hboot, hdeep, hline, htop⟩
      refine ⟨hread .clean, ?_, fun hp => ?_, fun hp => ⟨s.touchHbm.lineLost addr, ?_, lineLost_poisoned _ _, ?_⟩⟩
      · rw [hread, State.lineRead, State.eccCorrected, rowErrors_touchHbm]
        rfl
      · rw [hread, State.lineRead, isPoisoned_touchHbm, if_pos hp]
        rfl
      · rw [hread, State.lineRead, isPoisoned_touchHbm, if_neg (by simp [hp])]
        rfl
      · obtain ⟨haddr, hspace, hvalid⟩ := lineLost_record s.touchHbm addr
        exact ⟨haddr, hspace, hvalid, by rw [lineLost_counted, f_touchHbm]⟩
    case pauses =>
      rintro ⟨hboot, hdeep, hline, htop⟩
      rcases h with h | h | h | h
      · simp [hboot] at h
      · exact hdeep h
      · exact h hline
      · exact absurd htop (Nat.not_lt.2 h)

end Sys2Proof.Machine
end

section
/-! Disagreements are settled, failed parts run again and held posts are made (R127, R171, R176, R178, R232 to R234): one
equation for each command where it acts, as a choice among its ends. -/

namespace Sys2Proof.Machine

variable {s : State} {id tile unit : Nat} {i : Inst}

/-! ### A disagreement of an array (R127) -/

/-- The disagreement is settled and stands no more. -/
def State.dropDispute (s : State) (d : Dispute) : State :=
  { s with arr := { s.arr with disputes := s.arr.disputes.filter (fun y => y != d) } }

/-- A disagreement of a tile that still holds its layer: the re-read and the codes of the pass tell who is at fault. -/
theorem exec_arrayArbitration {d : Dispute} {l : Layer} (hd : s.arr.disputes.find? (fun d => d.tile == tile) = some d)
    (hl : s.layer d.layer = some l) (hx : (s.tile tile).state = 1) (hy : (s.tile tile).layer = d.layer)
    (low high : List (List Int)) : exec (.arrayArbitration tile low high) s =
      if !s.rereadAgrees l (s.tile tile) d low high then .next (((s.dropDispute d).disputeVetoes d).retire tile 3 4)
      else if s.originalAgrees l (s.tile tile) d then
        .next (((s.dropDispute d).modTile tile (fun x => { x with csFault := true })).ev 0x100b tile 0 0)
      else .next (((s.dropDispute d).modTile tile (fun x => { x with suspect := true })).disputeVetoes d) := by
  dsimp only [exec, execArrayArbitration]
  simp only [hd, hl]
  exact if_neg (by simp [hx, hy])

/-! ### A part fails (R171, R234) -/

/-- The unit of the failed part is quarantined, where it is a checked one. -/
def State.quarantineUnit (s : State) (unit : Nat) : State :=
  match unitOf unit with
  | some (k, n) => s.quarantine k n
  | none => s

/-- The lines that parts of the instruction may have written: none before its first item has ended. -/
def State.linesOfParts (s : State) (i : Inst) : List (Nat × Nat) :=
  s.partLines (if i.phase = .running ∧ i.items = i.work then []
    else i.members.flatMap (fun m => ((s.inst m).map Inst.writtenLines).getD []))

/-- A part of an instruction at work fails: a second failure is a failed check, a first one makes it run again. -/
theorem exec_partFailure (hi : s.inst id = some i)
    (hw : (i.phase = .running ∧ (0 < i.items ∨ i.code.iclass = 3)) ∨
      (s.ready i = true ∧ (i.code.iclass = 3 ∨ i.code.iclass = 6))) : exec (.partFailure id unit) s =
      let q := s.quarantineUnit unit
      if 0 < i.again then .next (q.checkFails i rsnCheck (unit * 65536))
      else .next ((q.tick.tagLines i.lead (q.linesOfParts i)).runAgain i).dispatch := by
  dsimp only [exec, execPartFailure]
  rw [hi]
  refine if_neg ?_
  simp only [Bool.not_eq_true', Bool.not_eq_false, Bool.or_eq_true, Bool.and_eq_true, beq_iff_eq, decide_eq_true_eq]
  exact hw

/-! ### Posts of finished tiles (R176, R178) -/

/-- An instruction with no tile left to post posts none. -/
theorem postTiles_posted (hi : s.inst id = some i) (h : i.made.length ≤ i.posted) (k : Nat) : s.postTiles id k = s := by
  cases k with
  | zero => rfl
  | succ k => rw [State.postTiles, hi]; exact if_pos h

/-- The next finished tile of an instruction, entered into the queue. -/
def State.postNext (s : State) (i : Inst) : State :=
  (({ s with units := { s.units with ftq := s.units.ftq ++ [(i.id, nth i.made i.posted)] } } : State).setF F.vecFtqPeak
    (max (s.f F.vecFtqPeak) (s.units.ftq.length + 1))).putInst { i with posted := i.posted + 1, held := false }

/-- An awaited tile enters the queue where there is room, and those behind it follow. -/
theorem postTiles_room (hi : s.inst i.id = some i) (hmade : i.posted < i.made.length) (ha : s.awaited i.id = true)
    (hroom : s.units.ftq.length < 4096) (k : Nat) : s.postTiles i.id (k + 1) = (s.postNext i).postTiles i.id k := by
  rw [State.postTiles, hi]
  dsimp only
  rw [if_neg (Nat.not_le.2 hmade), if_neg (by simp [ha]), if_pos hroom, List.length_append]
  rfl

/-- The last finished tile of an instruction is posted once the queue has room. -/
theorem postTiles_last (hi : s.inst i.id = some i) (hmade : i.made.length = i.posted + 1) (ha : s.awaited i.id = true)
    (hroom : s.units.ftq.length < 4096) (hk : 0 < i.tiles) : s.postTiles i.id i.tiles = s.postNext i := by
  obtain ⟨k, hk⟩ := Nat.exists_eq_add_one.2 hk
  have hnext : (s.postNext i).inst i.id = some { i with posted := i.posted + 1, held := false } :=
    inst_putInst_same (s := { s with units := _, regs := _ }) hi rfl
  rw [hk, postTiles_room hi (by omega) ha hroom, postTiles_posted hnext (Nat.le_of_eq hmade)]

theorem exec_ftqPost
    (h : s.sch.inflight.find? (fun i => i.held && (decide (s.units.ftq.length < 4096) || !s.awaited i.id)) = some i) :
    exec .ftqPost s = .next (s.postTiles i.id i.tiles) := by
  dsimp only [exec, execFtqPost]
  rw [h]

/-! ### The statement -/

/-- Settles O14: a verdict on a digital unit, on an array, a part that fails and a held post, each by its own equation. -/
theorem checksAndPostsComplete : Obligations.ChecksAndPostsComplete := by
  intro s k n id tile unit i w q
  refine ⟨fun hdis => ?digital, fun d l low high hd hl hx hy => ?array, fun hi hw => ?part,
    fun hheld hi htiles hmade ha => ?post⟩
  case digital =>
    have acts : ¬ (!s.disagrees k n id) = true := by simp [hdis]
    exact ⟨if_neg acts, if_neg acts, if_neg acts⟩
  case array =>
    have hexec := exec_arrayArbitration hd hl hx hy low high
    refine ⟨fun hr => ?_, fun hr ho => ?_, fun hr ho => ?_⟩
    · rw [hexec, hr]
      rfl
    · rw [hexec, hr, ho]
      rfl
    · rw [hexec, hr, ho]
      rfl
  case part =>
    exact ⟨fun hfirst => (exec_partFailure hi hw).trans (if_neg (by omega)),
      fun hsecond => (exec_partFailure hi hw).trans (if_pos hsecond)⟩
  case post =>
    have hroom : s.units.ftq.length < 4096 := by
      have := List.find?_some hheld
      simp only [ha, Bool.and_eq_true, Bool.not_true, Bool.or_false, decide_eq_true_eq] at this
      exact this.2
    rw [exec_ftqPost hheld, postTiles_last hi hmade ha hroom htiles]
    rfl

end Sys2Proof.Machine
end

section
/-! A sample of the sensors counts an entry to throttling in PWR.COUNTS.THROTTLES, whose 16 bits saturate (R368, the
register table of spec/15). The statement has the count saturate at 32 bits. -/

namespace Sys2Proof.Machine

variable {s : State}

/-- An interrupt writes no register. -/
theorem pwrInt_regs (s : State) : s.pwrInt.regs = s.regs := by
  unfold State.pwrInt State.msi
  split
  · split
    · rfl
    · split <;> rfl
  · rfl

/-- The readings of the clusters change no field but the count of dropped events. -/
theorem f_readClusters {x : Fld} (hx : x.key ≠ F.evtStatusDropped.key) (s : State) (temps : List Int) :
    (s.readClusters temps).f x = s.f x := by
  unfold State.readClusters
  induction (temps.take 192).zipIdx generalizing s with
  | nil => rfl
  | cons y ys ih =>
    rw [List.foldl_cons, ih]
    dsimp only
    split
    · split
      · rfl
      · exact f_ev hx _ _ _ _ _
    · rfl

/-- What a sample leaves in a field that is neither HOTTEST nor the count of dropped events, before the throttle acts. -/
theorem f_sampled {x : Fld} (hx : x.key ≠ F.evtStatusDropped.key) (hh : x.key ≠ F.pwrThermalHottest.key) (s : State)
    (temps : List Int) (v : Nat) : ((s.readClusters temps).setF F.pwrThermalHottest v).f x = s.f x :=
  (f_setF_other hh _ _).trans (f_readClusters hx s temps)

/-- A sample above THROTTLE throttles the grids, and the count of entries rises as far as its 16 bits go. -/
theorem exec_thermalSample_throttles {h : Int} (hon : s.pwr.on = true) (hdeep : s.pst_ ≠ 3) (hhot : s.throttleAt < h)
    (hcool : s.fb F.pwrThermalThrottled = false) (temps : List Int) :
    ∃ t : State, exec (.thermalSample temps h) s = .next t ∧
      t.f F.pwrCountsThrottles = min (2 ^ 16 - 1) (s.f F.pwrCountsThrottles + 1) := by
  let u := (s.readClusters temps).setF F.pwrThermalHottest (unsignedOf 16 h)
  have hu (x : Fld) (hx : x.key ≠ F.evtStatusDropped.key) (hh : x.key ≠ F.pwrThermalHottest.key) : u.f x = s.f x :=
    f_sampled hx hh s temps _
  have hat : u.throttleAt = s.throttleAt := by
    rw [State.throttleAt, hu _ (by decide) (by decide), State.throttleAt]
  have hthr : u.fb F.pwrThermalThrottled = false := by
    rw [State.fb, hu _ (by decide) (by decide)]
    exact hcool
  refine ⟨_, (if_neg (by simp [hon, hdeep])).trans (if_pos ⟨hat ▸ hhot, congrArg not hthr⟩), ?_⟩
  rw [f_congr (pwrInt_regs _), f_ev (by decide)]
  refine (f_addF_same (u.setF F.pwrThermalThrottled 1) F.pwrCountsThrottles 1).trans ?_
  rw [f_setF_other (by decide), hu _ (by decide) (by decide)]
  rfl

/-- A device that has throttled so often that its count is at its greatest value, and that does not throttle now. -/
def countFull : State := State.reset.setF F.pwrCountsThrottles 0xffff

theorem countFull_may : countFull.pwr.on = true ∧ countFull.pst_ ≠ 3 ∧ countFull.throttleAt < 441 ∧
    countFull.fb F.pwrThermalThrottled = false ∧ countFull.f F.pwrCountsThrottles = 0xffff := by decide +kernel

/-- Refutes O36: PWR.COUNTS.THROTTLES has 16 bits. From 65,535 a sample of 110.25 °C leaves it there, where the statement has
it at 65,536. -/
theorem not_unitsSleepAndTemperatureActs : ¬ Obligations.UnitsSleepAndTemperatureActs := by
  rintro ⟨-, temperature⟩
  obtain ⟨hon, hdeep, hhot, hcool, hcount⟩ := countFull_may
  obtain ⟨t, ht, hsat⟩ := exec_thermalSample_throttles hon hdeep hhot hcool (List.replicate 192 100)
  obtain ⟨sample, -⟩ := temperature countFull (List.replicate 192 100) 441
  obtain ⟨t', ht', -, -, hstated, -⟩ := sample hon hdeep (by decide) (by decide)
  obtain rfl : t = t' := Host.Outcome.next.inj (ht.symm.trans ht')
  have hraised := hstated hhot hcool
  rw [hcount] at hsat hraised
  exact absurd (hsat.symm.trans hraised) (by decide)

end Sys2Proof.Machine
end

section
/-! What an operand's write leaves alone (R31 to R34): the bytes that hold no element, no padding mantissa and no exponent of
the tensor. -/

namespace Sys2Proof.Machine

/-! ### Bytes that keep their values -/

/-- The bytes of the three spaces but those of `stored` are in `t` as they are in `s`. -/
def bytesKept (stored : Nat → Nat → Prop) (s t : State) : Prop :=
  ∀ space a : Nat, space ≤ 2 → ¬ stored space a → t.rd space a = s.rd space a

section
variable {stored : Nat → Nat → Prop} {s t u : State} {d : Desc}

theorem bytesKept_refl : bytesKept stored s s := fun _ _ _ _ => rfl

theorem bytesKept_trans (h : bytesKept stored s t) (k : bytesKept stored t u) : bytesKept stored s u :=
  fun space a hs ha => (k space a hs ha).trans (h space a hs ha)

theorem bytesKept_mono {stored' : Nat → Nat → Prop} (hs : ∀ space a, stored space a → stored' space a)
    (h : bytesKept stored s t) : bytesKept stored' s t := fun space a hle ha => h space a hle fun hc => ha (hs space a hc)

theorem bytesKept_foldl {α : Type} {g : State → α → State} {l : List α}
    (hg : ∀ x ∈ l, ∀ t, bytesKept stored t (g t x)) : bytesKept stored s (l.foldl g s) :=
  List.foldlRecOn l g bytesKept_refl fun _ h x hx => bytesKept_trans h (hg x hx _)

theorem locSpace_le (loc : Nat) : locSpace loc ≤ 2 := by
  unfold locSpace
  split
  · decide
  · split <;> decide

theorem spaceIndex_eq {space : Nat} (h : space ≤ 2) : spaceIndex space = space := by
  interval_cases space <;> rfl

/-- A byte of another space than the tensor's lies in another memory. -/
theorem spaceIndex_ne_of_ne {space loc : Nat} (hs : space ≤ 2) (h : locSpace loc ≠ space) :
    spaceIndex space ≠ spaceIndex (locSpace loc) := by
  rw [spaceIndex_eq hs, spaceIndex_eq (locSpace_le loc)]
  exact h.symm

/-- Bytes written where each lies in the tensor. -/
theorem bytesKept_wrBytes {a : Nat} {b : List Byte}
    (h : ∀ x, a ≤ x → x < a + b.length → d.touches x = true) :
    bytesKept d.storesTo s (s.wrBytes (locSpace d.loc) a b) := by
  intro space x hs hx
  refine rd_wrBytes_other b s a ?_
  by_cases hl : locSpace d.loc = space
  · refine .inr ?_
    by_contra hc
    exact hx ⟨hl, h x (by omega) (by omega)⟩
  · exact .inl (spaceIndex_ne_of_ne hs hl)

theorem bytesKept_wr {a : Nat} {b : Byte} (h : d.touches a = true) :
    bytesKept d.storesTo s (s.wr (locSpace d.loc) a b) :=
  bytesKept_wrBytes (b := [b]) fun x hl hu => by
    obtain rfl : x = a := by simp at hu; omega
    exact h

/-! ### The bytes of a tensor -/

theorem fmtBits_cases (f : Nat) : fmtBits f = 2 ∨ fmtBits f = 4 ∨ 8 ≤ fmtBits f ∧ (fmtBits f + 7) / 8 = fmtBits f / 8 := by
  unfold fmtBits
  split_ifs <;> simp

theorem fmtBits_block {f : Nat} (h : fmtBlock f = true) : fmtBits f = 8 := by
  obtain rfl | rfl | rfl : f = 2 ∨ f = 3 ∨ f = 4 := by simpa [fmtBlock, or_assoc] using h
  all_goals rfl

theorem Desc.B_pos (d : Desc) : 0 < d.B := Nat.mul_pos (by decide) (Nat.two_pow_pos _)

/-- The bytes of element `k` of a format that is no block format. -/
theorem touches_elem {k a : Nat} (hb : fmtBlock d.format = false) (hk : k < d.count)
    (hl : (d.base * 8 + d.off k * fmtBits d.format) / 8 ≤ a)
    (hu : a < (d.base * 8 + d.off k * fmtBits d.format) / 8 + (fmtBits d.format + 7) / 8) : d.touches a = true := by
  unfold Desc.touches
  refine List.any_eq_true.2 ⟨k, List.mem_range.2 hk, ?_⟩
  simp [hb, hl, hu]

/-- The mantissas, with padding, of the block of which element `k` is the first. -/
theorem touches_mantissa {k a : Nat} (hb : fmtBlock d.format = true) (hk : k < d.count) (h0 : k % d.e 0 % d.B = 0)
    (hl : d.base + d.off k ≤ a) (hu : a < d.base + d.off k + d.B) : d.touches a = true := by
  unfold Desc.touches
  refine List.any_eq_true.2 ⟨k, List.mem_range.2 hk, ?_⟩
  have hlo : (d.base * 8 + d.off k * 8) / 8 = d.base + d.off k := by omega
  simp [hb, fmtBits_block hb, hlo, h0, hl, hu]

/-- The exponent of element `k` of a block format. -/
theorem touches_exponent {k : Nat} (hb : fmtBlock d.format = true) (hk : k < d.count) : d.touches (d.expAddr k) = true := by
  unfold Desc.touches
  refine List.any_eq_true.2 ⟨k, List.mem_range.2 hk, ?_⟩
  simp [hb]

/-! ### Elements and blocks written -/

theorem bytesKept_wrBits {k v : Nat} (hb : fmtBlock d.format = false) (hk : k < d.count) : bytesKept d.storesTo s
    (s.wrBits (locSpace d.loc) (d.base * 8 + d.off k * fmtBits d.format) (fmtBits d.format) v) := by
  unfold State.wrBits
  rcases fmtBits_cases d.format with hw | hw | ⟨hw, hw8⟩
  · rw [if_pos (by omega)]
    exact bytesKept_wr (touches_elem hb hk le_rfl (by omega))
  · rw [if_pos (by omega)]
    exact bytesKept_wr (touches_elem hb hk le_rfl (by omega))
  · rw [if_neg (by omega)]
    refine bytesKept_wrBytes fun x hl hu => touches_elem hb hk hl ?_
    rwa [leBytes_length, ← hw8] at hu

/-- Elements written from flat element `k` on, as far as the tensor goes. -/
theorem bytesKept_wrElems {l : List Nat} (hb : fmtBlock d.format = false) (k : Nat) (h : k + l.length ≤ d.count) :
    bytesKept d.storesTo s (s.wrElems d k l) := by
  induction l generalizing s k with
  | nil => exact bytesKept_refl
  | cons v r ih =>
    rw [List.length_cons] at h
    exact bytesKept_trans (bytesKept_wrBits hb (by omega)) (ih (k + 1) (by omega))

theorem bytesKept_wrBlock {k : Nat} {b : Nat × List Nat} (hb : fmtBlock d.format = true) (hk : k < d.count)
    (h0 : k % d.e 0 % d.B = 0) (hl : b.2.length ≤ d.B) : bytesKept d.storesTo s (s.wrBlock d k b) := by
  refine bytesKept_trans (bytesKept_wrBytes fun x hx hu => touches_mantissa hb hk h0 hx ?_)
    (bytesKept_wr (touches_exponent hb hk))
  rw [List.length_map, List.length_append, List.length_replicate] at hu
  omega

@[simp] theorem rd_coverLines (s : State) (d : Desc) (space a : Nat) : (s.coverLines d).rd space a = s.rd space a := by
  unfold State.coverLines
  split <;> rfl

/-- An encoding that a descriptor has room for: each block begins at the first element of one of its blocks, or there are no
more elements than it has. -/
def Encoded.fits (e : Encoded) (d : Desc) : Prop :=
  if fmtBlock d.format then ∀ b ∈ e.blocks, b.1 < d.count ∧ b.1 % d.e 0 % d.B = 0 ∧ b.2.2.length ≤ d.B
  else e.elems.length ≤ d.count

theorem bytesKept_wrEncoded {e : Encoded} (h : e.fits d) : bytesKept d.storesTo s (s.wrEncoded d e) := by
  intro space a hs ha
  rw [State.wrEncoded, rd_coverLines]
  cases hb : fmtBlock d.format with
  | true =>
    rw [Encoded.fits, if_pos hb] at h
    exact bytesKept_foldl (fun b hm t => by
      obtain ⟨hk, h0, hl⟩ := h b hm
      exact bytesKept_wrBlock hb hk h0 hl) space a hs ha
  | false =>
    rw [Encoded.fits, if_neg (by simp [hb])] at h
    exact bytesKept_wrElems hb 0 (by omega) space a hs ha

/-! ### What an encoding holds -/

/-- The blocks cut from values begin at whole blocks of their rows. -/
theorem mem_cutBlocks {B n : Nat} {vs : List Val} {b : Nat × List Val} (hB : 0 < B) (h : b ∈ cutBlocks B n vs) :
    b.1 < vs.length ∧ b.1 % n % B = 0 ∧ b.2.length ≤ B := by
  obtain ⟨j, hj, rfl⟩ := List.mem_map.1 h
  rw [List.mem_range] at hj
  dsimp only
  generalize hp : (n + B - 1) / B = per at hj ⊢
  have hper : 0 < per := Nat.pos_of_ne_zero fun h0 => by simp [h0] at hj
  have hrow : j / per < vs.length / n := Nat.div_lt_of_lt_mul (by rwa [Nat.mul_comm])
  have hcol : j % per * B < n := by
    have hle : (j % per + 1) * B ≤ per * B := Nat.mul_le_mul_right B (Nat.mod_lt j hper)
    have hper' : per * B ≤ n + B - 1 := hp ▸ Nat.div_mul_le_self _ _
    rw [Nat.add_mul] at hle
    omega
  have hlen : (j / per + 1) * n ≤ vs.length := (Nat.mul_le_mul_right n hrow).trans (Nat.div_mul_le_self _ _)
  refine ⟨?_, ?_, ?_⟩
  · rw [Nat.add_mul] at hlen
    omega
  · rw [Nat.mul_comm (j / per), Nat.mul_add_mod, Nat.mod_eq_of_lt hcol, Nat.mul_mod_left]
  · rw [List.length_take]
    omega

theorem encodeBlock_length (mode : Nat → Rnd) (vs : List Val) : (encodeBlock mode vs).val.2.length = vs.length := by
  unfold encodeBlock
  dsimp only
  split_ifs <;> simp

theorem encodeFixed_length (E : Nat) (mode : Nat → Rnd) (vs : List Val) :
    (encodeFixed E mode vs).val.2.length = vs.length := by
  unfold encodeFixed
  split_ifs <;> simp

/-- As many values as the tensor has elements, or fewer, encoded. -/
theorem encodeVals_fits {vs : List Val} (eb : Nat) (mode : Nat → Rnd) (h : vs.length ≤ d.count) :
    (encodeVals d eb mode vs).fits d := by
  unfold Encoded.fits encodeVals
  cases hb : fmtBlock d.format with
  | true =>
    simp only [if_true, List.map_map, List.mem_map, Function.comp_apply]
    rintro _ ⟨b, hm, rfl⟩
    obtain ⟨hk, h0, hl⟩ := mem_cutBlocks d.B_pos hm
    refine ⟨by omega, h0, ?_⟩
    dsimp only
    split
    · rwa [encodeFixed_length]
    · rwa [encodeBlock_length]
  | false => simpa using h

/-- The pattern of a fill, once for each element (R269). -/
theorem fillEncoded_fits (d : Desc) (pattern : Nat) : (fillEncoded d pattern).fits d := by
  unfold Encoded.fits fillEncoded
  cases hb : fmtBlock d.format with
  | true =>
    simp only [if_true, List.mem_map]
    rintro _ ⟨b, hm, rfl⟩
    obtain ⟨hk, h0, hl⟩ := mem_cutBlocks d.B_pos hm
    exact ⟨by simpa using hk, h0, by simpa using hl⟩
  | false => simp

end

/-! ### The extents of a tensor -/

/-- The extents of the first dimensions, 1 for those not used, multiply to no more than the elements there are. -/
theorem prod_extents_le (l : List Nat) {n m : Nat} (h : n ≤ m) :
    ∏ k ∈ Finset.range m, (if k < n then nth l k else 1) ≤ (l.take n).prod := by
  induction l generalizing n m with
  | nil =>
    cases n with
    | zero => simp
    | succ n =>
      obtain ⟨m, rfl⟩ : ∃ m', m = m' + 1 := ⟨m - 1, by omega⟩
      simp [Finset.prod_range_succ', nth]
  | cons x l ih =>
    cases n with
    | zero => simp
    | succ n =>
      obtain ⟨m, rfl⟩ : ∃ m', m = m' + 1 := ⟨m - 1, by omega⟩
      rw [Finset.prod_range_succ', List.take_succ_cons, List.prod_cons, Nat.mul_comm x]
      simpa [nth] using Nat.mul_le_mul_right x (ih (n := n) (m := m) (by omega))

/-- A tensor of at most five dimensions has its rows' elements (R34). -/
theorem rows_mul_le_count {d : Desc} (h : d.ndim ≤ 5) : d.rows * d.e 0 ≤ d.count := by
  have hp := prod_extents_le d.ext h
  rw [List.prod_eq_foldl] at hp
  refine le_trans (le_of_eq ?_) hp
  simp only [Finset.prod_range_succ, Finset.prod_range_zero, Desc.rows, Desc.e]
  ring

end Sys2Proof.Machine
end

section
/-! The frame of an instruction of a data unit (Safety.lean's `dataFrame`), step by step: what each update that such an
instruction is made of leaves alone. -/

namespace Sys2Proof.Machine

section
variable {stored : Nat → Nat → Prop} {fields : List Fld} {ids : List Nat} {valley : Bool} {s t u : State}

theorem dataFrame_refl : dataFrame s s stored fields ids valley :=
  ⟨bytesKept_refl, fun _ _ => rfl, fun _ _ => rfl, by cases valley <;> rfl⟩

theorem dataFrame_trans (h : dataFrame s t stored fields ids valley) (k : dataFrame t u stored fields ids valley) :
    dataFrame s u stored fields ids valley := by
  refine ⟨bytesKept_trans h.bytes k.bytes, fun x hx => (k.fields x hx).trans (h.fields x hx),
    fun m hm => (k.insts m hm).trans (h.insts m hm), ?_⟩
  have hs := h.rest
  rw [← k.rest] at hs
  cases valley <;> exact hs

theorem dataFrame_foldl {α : Type} {g : State → α → State} {l : List α}
    (hg : ∀ t x, dataFrame t (g t x) stored fields ids valley) : dataFrame s (l.foldl g s) stored fields ids valley :=
  List.foldlRecOn l g dataFrame_refl fun t h x _ => dataFrame_trans h (hg t x)

/-- Bytes written, and nothing else. -/
theorem dataFrame_of_bytesFrame (hf : bytesFrame s t) (hb : bytesKept stored s t) :
    dataFrame s t stored fields ids valley := by
  refine ⟨hb, fun x _ => f_congr ?_ x, fun m _ => ?_, ?_⟩
  · rw [hf.same]
  · rw [hf.same]
    rfl
  · rw [hf.same]
    cases valley <;> rfl

theorem dataFrame_wrElems {d : Desc} {l : List Nat} (hd : ∀ space a, d.storesTo space a → stored space a)
    (hb : fmtBlock d.format = false) (hl : l.length ≤ d.count) :
    dataFrame s (s.wrElems d 0 l) stored fields ids valley :=
  dataFrame_of_bytesFrame (bytesFrame_wrElems s d 0 l) (bytesKept_mono hd (bytesKept_wrElems hb 0 (by omega)))

theorem dataFrame_wrEncoded {d : Desc} {e : Encoded} (hd : ∀ space a, d.storesTo space a → stored space a)
    (he : e.fits d) : dataFrame s (s.wrEncoded d e) stored fields ids valley := by
  refine ⟨bytesKept_mono hd (bytesKept_wrEncoded he), fun x _ => f_congr (wrEncoded_regs s d e) x, fun m _ => ?_, ?_⟩
  · rw [wrEncoded_frame]
    rfl
  · rw [wrEncoded_frame]
    cases valley <;> rfl

theorem dataFrame_addF {x : Fld} (hx : x.key ∈ fields.map Fld.key) (n : Nat) :
    dataFrame s (s.addF x n) stored fields ids valley :=
  ⟨fun _ _ _ _ => rfl, fun y hy => f_addF_other (x := x) (y := y) (fun he => hy (he ▸ hx)) s n, fun _ _ => rfl,
    by cases valley <;> rfl⟩

theorem dataFrame_putInst {j : Inst} (hj : j.id ∈ ids) : dataFrame s (s.putInst j) stored fields ids valley :=
  ⟨fun _ _ _ _ => rfl, fun _ _ => rfl, fun _ hm => inst_putInst_other fun he => hm (he ▸ hj), by cases valley <;> rfl⟩

theorem dataFrame_afterStart (id : Nat) : dataFrame s (s.afterStart id) stored fields ids valley := by
  refine ⟨fun space a _ _ => rd_afterStart s id space a, fun x _ => f_afterStart s id x,
    fun m _ => inst_afterStart s id m, ?_⟩
  rw [afterStart_frame]
  cases valley <;> rfl

theorem dataFrame_putFrame (n : Nat) (f : Frame) : dataFrame s (s.putFrame n f) stored fields ids true :=
  ⟨fun _ _ _ _ => rfl, fun _ _ => rfl, fun _ _ => rfl, rfl⟩

theorem dataFrame_fillFrame (i : Inst) (data : List Byte) (flags : Nat) :
    dataFrame s (s.fillFrame i data flags) stored fields ids true := by
  unfold State.fillFrame
  split
  · exact dataFrame_refl
  · split
    · exact dataFrame_refl
    · split
      · exact dataFrame_putFrame _ _
      · exact dataFrame_refl

theorem dataFrame_readFrames (hx : F.memValleyStateInplace.key ∈ fields.map Fld.key) (i : Inst) :
    dataFrame s (s.readFrames i) stored fields ids valley := by
  refine dataFrame_foldl fun t n => ?_
  split
  · exact dataFrame_addF hx _
  · exact dataFrame_refl

theorem dataFrame_fails {i : Inst} (hi : i.id ∈ ids) (st : Nat) :
    dataFrame s (s.fails i st) stored fields ids valley := dataFrame_putInst hi

theorem dataFrame_claimFails {i : Inst} (hi : i.id ∈ ids) (hx : F.memFailCount.key ∈ fields.map Fld.key) :
    dataFrame s (s.claimFails i) stored fields ids valley := by
  refine dataFrame_trans ?_ (dataFrame_fails hi i.claim)
  split
  · exact dataFrame_addF hx 1
  · exact dataFrame_refl

end

end Sys2Proof.Machine
end

section
/-! The row instructions (R157 to R165, R293, R294): the ways one ends, how many results its rows have, and what it leaves
alone; and the frame of a fill (R269). -/

namespace Sys2Proof.Machine

section
variable {s : State} {id op flagSlot : Nat} {i : Inst} {c : Instr} {fwd : Bool} {o : RowsOut}

/-! ### The ways a row instruction ends (R157, R294) -/

/-- The flags of the rows; a normalization raises none (R161). -/
def Inst.rowFlags (i : Inst) (fwd : Bool) (o : RowsOut) : List Nat :=
  let flags := if fwd then o.stat.map statFlags else []
  if i.code.iclass = 6 ∧ i.code.opcode ≤ 1 then flags.map (fun _ => 0) else flags

/-- The results of the rows written, and the sums over them where there are some. -/
def State.rowStored (s : State) (i : Inst) (o : RowsOut) : State :=
  let t := (s.readFrames i).wrEncoded (i.d 0) (encodeVals (i.d 0) 0 (fun _ => .rne) o.y)
  if o.cols.isEmpty then t else ((t.writeCols i 5 (o.cols.getD 0 [])).1.writeCols i 6 (o.cols.getD 1 [])).1

theorem consuming_finish_id (i : Inst) (sat nf result : Nat) : (i.consuming.finish sat nf result).id = i.id := by
  unfold Inst.consuming
  split <;> rfl

/-- A row instruction ends with the status of a check or of its frame's claim, or its checks pass and it stores the results
of its rows, their flags and its stat frame. -/
theorem runRows_cases (s : State) (i : Inst) (flagSlot : Nat) (fwd : Bool) (o : RowsOut) :
    (∃ st, s.runRows i flagSlot fwd (fun _ => o) = s.fails i st) ∨
    s.runRows i flagSlot fwd (fun _ => o) = s.claimFails i ∨
    (s.rowStatus i = stOk ∧ ∃ j : Inst, j.id = i.id ∧ s.runRows i flagSlot fwd (fun _ => o) =
      (((s.rowStored i o).noteFlags i flagSlot (i.rowFlags fwd o)).fillStat i o.stat (i.rowFlags fwd o)).putInst j) := by
  unfold State.runRows
  dsimp only
  by_cases hs : s.rowStatus i = stOk
  · rw [if_neg (not_not.2 hs)]
    by_cases hf : s.framesStatus i = stOk
    · rw [if_neg (not_not.2 hf)]
      split
      · exact .inl ⟨_, rfl⟩
      · split
        · exact .inl ⟨_, rfl⟩
        · split
          · exact .inr (.inl rfl)
          · refine .inr (.inr ⟨hs, ?_⟩)
            unfold State.rowStored
            cases o.cols.isEmpty <;> exact ⟨_, consuming_finish_id i _ _ _, rfl⟩
    · exact .inl ⟨_, if_pos hf⟩
  · exact .inl ⟨_, if_pos hs⟩

/-- The rows run on the state as it stands at the start. -/
theorem start_runRows (h : s.mayStart op id i) (run : Inst → State → RowsOut) :
    s.start op id (fun j => s.runRows j flagSlot fwd (run j)) =
      .next ((s.runRows i flagSlot fwd (fun _ => run i s)).afterStart id) := by
  rw [start_eq h]
  rfl

/-- Each row instruction runs with the results that the statement of its completion gives (R293, R294). -/
theorem exec_rowRuns (hm : (c, op, flagSlot, fwd, o) ∈ rowRuns s id i) (h : s.mayStart op id i) :
    exec c s = .next ((s.runRows i flagSlot fwd (fun _ => o)).afterStart id) := by
  simp only [rowRuns, List.mem_cons, Prod.mk.injEq, List.not_mem_nil, or_false] at hm
  rcases hm with ⟨rfl, rfl, rfl, rfl, rfl⟩ | ⟨rfl, rfl, rfl, rfl, rfl⟩ | ⟨rfl, rfl, rfl, rfl, rfl⟩ |
    ⟨rfl, rfl, rfl, rfl, rfl⟩ | ⟨rfl, rfl, rfl, rfl, rfl⟩ | ⟨rfl, rfl, rfl, rfl, rfl⟩
  all_goals exact start_runRows h _

/-! ### The roles of the slots (R293) -/

theorem firstFail_head {b : Bool} {st : Nat} {r : List (Bool × Nat)} (hst : st ≠ stOk)
    (h : firstFail ((b, st) :: r) = stOk) : b = true ∧ firstFail r = stOk := by
  cases b with
  | true => exact ⟨rfl, h⟩
  | false => exact absurd h hst

theorem roles_of_rowStatus (h : s.rowStatus i = stOk) {k : Nat} {r : RowRole} (hr : (k, r) ∈ rowRoles i.code.op) :
    i.roleFmt k r = true ∧ i.roleShape k r = true := by
  obtain ⟨hfmt, hrest⟩ := firstFail_head (by decide) h
  obtain ⟨hshape, -⟩ := firstFail_head (by decide) hrest
  exact ⟨List.all_eq_true.1 hfmt _ hr, List.all_eq_true.1 hshape _ hr⟩

/-- How many elements an operand of a role has, by the shape of x. -/
def RowRole.room (r : RowRole) (x : Desc) : Nat :=
  match r with
  | .input | .output | .mask => x.rows * x.e 0
  | .rowF32 | .rowIn | .flags => x.rows
  | .colF32 => x.e 0

theorem room_likeRow {d x : Desc} (h : d.likeRow x = true) (hn : d.ndim ≤ 5) : x.rows * x.e 0 ≤ d.count := by
  obtain ⟨hnd, hext⟩ : d.ndim = x.ndim ∧ d.ext = x.ext := by simpa [Desc.likeRow] using h
  simpa only [Desc.rows, Desc.e, hnd, hext] using rows_mul_le_count hn

theorem room_perRow {d x : Desc} (h : d.perRow x = true) (hn : d.ndim ≤ 5) : x.rows ≤ d.count := by
  obtain ⟨⟨-, h0⟩, h1, h2, h3, h4⟩ :
      (d.ndim = x.ndim ∧ d.e 0 = 1) ∧ d.e 1 = x.e 1 ∧ d.e 2 = x.e 2 ∧ d.e 3 = x.e 3 ∧ d.e 4 = x.e 4 := by
    simpa [Desc.perRow] using h
  simpa only [Desc.rows, h0, h1, h2, h3, h4, Nat.mul_one] using rows_mul_le_count hn

theorem room_perCol {d x : Desc} (h : d.perCol x = true) : x.e 0 ≤ d.count := by
  obtain ⟨hnd, h0⟩ : d.ndim = 1 ∧ d.e 0 = x.e 0 := by simpa [Desc.perCol] using h
  have hrows : d.rows = 1 := by simp [Desc.rows, Desc.e, hnd]
  simpa only [hrows, Nat.one_mul, h0] using rows_mul_le_count (d := d) (by omega)

theorem room_le_count {k : Nat} {r : RowRole} (h : i.roleShape k r = true) (hk : i.has k = true)
    (hn : (i.d k).ndim ≤ 5) : r.room (i.d 1) ≤ (i.d k).count := by
  simp only [Inst.roleShape, hk, Bool.not_true, Bool.false_or] at h
  cases r with
  | input => exact room_likeRow h hn
  | output => exact room_likeRow h hn
  | mask => exact room_likeRow h hn
  | rowF32 => exact room_perRow h hn
  | rowIn => exact room_perRow h hn
  | flags => exact room_perRow h hn
  | colF32 => exact room_perCol h

theorem flags_format {k : Nat} (h : i.roleFmt k .flags = true) (hk : i.has k = true) :
    fmtBlock (i.d k).format = false := by
  have hf : (i.d k).format = 0xe := by simpa [Inst.roleFmt, hk] using h
  rw [hf]
  rfl

/-! ### How many results the rows have -/

theorem rowsOf_length (s : State) (d : Desc) : (s.rowsOf d).length = d.rows := by simp [State.rowsOf]

theorem length_of_mem_rowsOf {d : Desc} {x : List Val} (h : x ∈ s.rowsOf d) : x.length = d.e 0 := by
  obtain ⟨r, -, rfl⟩ := List.mem_map.1 h
  simp

theorem readStats_length (s : State) (i : Inst) : (s.readStats i).length = (i.d 1).rows := by simp [State.readStats]

theorem fwdStats_length {own : List RowStat} (h : own.length = (i.d 1).rows) :
    (s.fwdStats i own).length = (i.d 1).rows := by
  unfold State.fwdStats
  split
  · exact readStats_length s i
  · exact h

theorem softRows_length (s : State) (i : Inst) (k : Nat) : (s.softRows i k).length = (i.d 1).rows := by
  simp [State.softRows, rowsOf_length]

theorem length_of_mem_softRows {k : Nat} {r : SoftRow} (h : r ∈ s.softRows i k) : r.z.length = (i.d 1).e 0 := by
  obtain ⟨x, hx, rfl⟩ := List.mem_map.1 h
  rw [softRow, List.length_map]
  exact length_of_mem_rowsOf (List.fst_mem_of_mem_zipIdx hx)

theorem normFwd_length_le (rms : Bool) (st : RowStat) (x g b : List Val) : (normFwd rms st x g b).length ≤ x.length := by
  unfold normFwd
  dsimp only
  split <;> simp [zipVals, normHat]

theorem normBwd_length_le (rms : Bool) (st : RowStat) (x dy g : List Val) :
    (normBwd rms st x dy g).1.length ≤ x.length := by
  simp [normBwd]

theorem exps_length_le (r : SoftRow) (m : Val) : (r.exps m).length ≤ r.z.length := by simp [SoftRow.exps]

theorem softFwd_length_le (r : SoftRow) (st : RowStat) : (softFwd r st).length ≤ r.z.length := by
  unfold softFwd
  split
  · simp
  · split <;> simp
  · simpa using exps_length_le r st.1
  · simpa using exps_length_le r st.1

theorem softAgain_length_le (r : SoftRow) (st : RowStat) : (softAgain r st).length ≤ r.z.length := by
  simpa [softAgain] using softFwd_length_le r st

theorem softBwd_length_le (alpha : Val) (st : RowStat) (p : List Val) (live : List Bool) (dp : List Val) :
    (softBwd alpha st p live dp).length ≤ p.length := by
  unfold softBwd
  split <;> simp [softBwd.body]

theorem lseBwd_length (st : RowStat) (p : List Val) (dl : Val) : (lseBwd st p dl).length = p.length := by
  unfold lseBwd
  split <;> simp

theorem length_flatMap_le {α β : Type} {l : List α} {g : α → List β} {m n : Nat} (hl : l.length ≤ m)
    (hg : ∀ x ∈ l, (g x).length ≤ n) : (l.flatMap g).length ≤ m * n := by
  rw [List.length_flatMap]
  refine (List.sum_le_card_nsmul _ n fun y hy => ?_).trans ?_
  · obtain ⟨x, hx, rfl⟩ := List.mem_map.1 hy
    exact hg x hx
  · rw [List.length_map, smul_eq_mul]
    exact Nat.mul_le_mul_right n hl

/-! ### What a row instruction leaves alone -/

/-- The results of a row instruction have room in the destinations of which `slots` holds the numbers. -/
structure RowsOut.fits (o : RowsOut) (i : Inst) (flagSlot : Nat) (fwd : Bool) (slots : List Nat) : Prop where
  rows  : 0 ∈ slots ∧ o.y.length ≤ (i.d 0).count
  flags : fwd = true → i.has flagSlot = true →
    flagSlot ∈ slots ∧ fmtBlock (i.d flagSlot).format = false ∧ o.stat.length ≤ (i.d flagSlot).count
  sums  : o.cols ≠ [] → ∀ k j : Nat, (k, j) ∈ [(5, 0), (6, 1)] → i.has k = true →
    k ∈ slots ∧ (o.cols.getD j []).length ≤ (i.d k).count

/-- The fields that a row instruction counts in. -/
def rowFields : List Fld :=
  [F.rowRowsMasked, F.rowRowsInf, F.rowRowsNan, F.memFailCount, F.memValleyStateInplace, F.evtStatusDropped]

/-- A byte of a destination in one of the slots. -/
def Inst.storesIn (i : Inst) (slots : List Nat) (space a : Nat) : Prop := ∃ k ∈ slots, (i.d k).storesTo space a

theorem rowFlags_length_le (i : Inst) (o : RowsOut) : (i.rowFlags true o).length ≤ o.stat.length := by
  unfold Inst.rowFlags
  dsimp only
  split <;> simp

theorem rowFlags_backward (i : Inst) (o : RowsOut) : i.rowFlags false o = [] := by
  simp [Inst.rowFlags]

section
variable {slots ids : List Nat} {valley : Bool} {t : State}

theorem dataFrame_writeCols {k : Nat} {vs : List Val}
    (h : i.has k = true → k ∈ slots ∧ vs.length ≤ (i.d k).count) :
    dataFrame t (t.writeCols i k vs).1 (i.storesIn slots) rowFields ids valley := by
  unfold State.writeCols
  split
  · rename_i hk
    obtain ⟨hm, hl⟩ := h hk
    refine dataFrame_wrEncoded (fun _ _ hs => ⟨k, hm, hs⟩) (encodeVals_fits _ _ ?_)
    split
    · simpa using hl
    · exact hl
  · exact dataFrame_refl

theorem dataFrame_noteFlags {k : Nat} {fs : List Nat} (h : fs ≠ [] → i.has k = true →
      k ∈ slots ∧ fmtBlock (i.d k).format = false ∧ fs.length ≤ (i.d k).count) :
    dataFrame t (t.noteFlags i k fs) (i.storesIn slots) rowFields ids valley := by
  have counts (a b c : Nat) : dataFrame t (((t.addF F.rowRowsMasked a).addF F.rowRowsInf b).addF F.rowRowsNan c)
      (i.storesIn slots) rowFields ids valley :=
    dataFrame_trans (dataFrame_trans (dataFrame_addF (by decide) a) (dataFrame_addF (by decide) b))
      (dataFrame_addF (by decide) c)
  have written (hk : i.has k = true) (u : State) :
      dataFrame u (u.wrElems (i.d k) 0 fs) (i.storesIn slots) rowFields ids valley := by
    by_cases hn : fs = []
    · rw [hn]
      exact dataFrame_refl
    · obtain ⟨hm, hb, hl⟩ := h hn hk
      exact dataFrame_wrElems (fun _ _ hs => ⟨k, hm, hs⟩) hb hl
  unfold State.noteFlags
  dsimp only
  split
  · exact dataFrame_trans (counts _ _ _) (written (by assumption) _)
  · exact counts _ _ _

theorem dataFrame_rowStored (ho : o.fits i flagSlot fwd slots) :
    dataFrame s (s.rowStored i o) (i.storesIn slots) rowFields ids valley := by
  obtain ⟨⟨hm, hl⟩, -, hsums⟩ := ho
  have hrows : dataFrame s ((s.readFrames i).wrEncoded (i.d 0) (encodeVals (i.d 0) 0 (fun _ => .rne) o.y))
      (i.storesIn slots) rowFields ids valley :=
    dataFrame_trans (dataFrame_readFrames (by decide) i)
      (dataFrame_wrEncoded (fun _ _ hs => ⟨0, hm, hs⟩) (encodeVals_fits _ _ hl))
  unfold State.rowStored
  dsimp only
  split
  · exact hrows
  · rename_i hc
    have hc : o.cols ≠ [] := by simpa using hc
    exact dataFrame_trans hrows (dataFrame_trans (dataFrame_writeCols (hsums hc 5 0 (by simp)))
      (dataFrame_writeCols (hsums hc 6 1 (by simp))))

/-- However a row instruction ends, it changes its destinations, its counts, the valley and itself alone. -/
theorem dataFrame_runRows (hi : i.id ∈ ids) (ho : s.rowStatus i = stOk → o.fits i flagSlot fwd slots) :
    dataFrame s (s.runRows i flagSlot fwd (fun _ => o)) (i.storesIn slots) rowFields ids true := by
  obtain ⟨st, h⟩ | h | ⟨hst, j, hj, h⟩ := runRows_cases s i flagSlot fwd o
  · rw [h]
    exact dataFrame_fails hi st
  · rw [h]
    exact dataFrame_claimFails hi (by decide)
  · rw [h]
    refine dataFrame_trans (dataFrame_trans (dataFrame_trans (dataFrame_rowStored (ho hst))
      (dataFrame_noteFlags fun hne hk => ?_)) (dataFrame_fillFrame i _ _)) (dataFrame_putInst (hj ▸ hi))
    cases fwd with
    | true =>
      obtain ⟨hm, hb, hl⟩ := (ho hst).flags rfl hk
      exact ⟨hm, hb, (rowFlags_length_le i o).trans hl⟩
    | false => exact absurd (rowFlags_backward i o) hne

end

/-! ### Each row instruction has room for its results -/

/-- The destinations of each row instruction. -/
def rowSlots (op : Nat) : List Nat :=
  match op with
  | 0x6000 => [0, 5]
  | 0x6001 => [0, 5, 6]
  | 0x6002 => [0, 3]
  | 0x6004 => [0, 3]
  | _ => [0]

theorem zero_mem_rowSlots (op : Nat) : 0 ∈ rowSlots op := by
  unfold rowSlots
  split <;> simp

/-- Results as many as the roles of their slots ask for have room. -/
theorem fits_of_roles (hst : s.rowStatus i = stOk) (hn : ∀ k ∈ rowSlots i.code.op, (i.d k).ndim ≤ 5) (h0 : i.has 0 = true)
    {r : RowRole} (hr : (0, r) ∈ rowRoles i.code.op) (hy : o.y.length ≤ r.room (i.d 1))
    (hf : fwd = true → (flagSlot, .flags) ∈ rowRoles i.code.op ∧ flagSlot ∈ rowSlots i.code.op ∧
      o.stat.length = (i.d 1).rows)
    (hc : o.cols ≠ [] → ∀ k j : Nat, (k, j) ∈ [(5, 0), (6, 1)] → (k, .colF32) ∈ rowRoles i.code.op ∧
      k ∈ rowSlots i.code.op ∧ (o.cols.getD j []).length = (i.d 1).e 0) :
    o.fits i flagSlot fwd (rowSlots i.code.op) := by
  have room {k : Nat} {r : RowRole} (hr : (k, r) ∈ rowRoles i.code.op) (hm : k ∈ rowSlots i.code.op)
      (hk : i.has k = true) : r.room (i.d 1) ≤ (i.d k).count :=
    room_le_count (roles_of_rowStatus hst hr).2 hk (hn k hm)
  refine ⟨⟨zero_mem_rowSlots _, hy.trans (room hr (zero_mem_rowSlots _) h0)⟩, fun hfwd hk => ?_, fun hne k j hkj hk => ?_⟩
  · obtain ⟨hrole, hm, hl⟩ := hf hfwd
    exact ⟨hm, flags_format (roles_of_rowStatus hst hrole).1 hk, hl.trans_le (room hrole hm hk)⟩
  · obtain ⟨hrole, hm, hl⟩ := hc hne k j hkj
    exact ⟨hm, hl.trans_le (room hrole hm hk)⟩

theorem rowRuns_fit (hm : (c, op, flagSlot, fwd, o) ∈ rowRuns s id i) (hop : i.code.op = op) (h0 : i.has 0 = true)
    (hn : ∀ k ∈ rowSlots op, (i.d k).ndim ≤ 5) (hst : s.rowStatus i = stOk) : o.fits i flagSlot fwd (rowSlots op) := by
  subst hop
  simp only [rowRuns, List.mem_cons, Prod.mk.injEq, List.not_mem_nil, or_false] at hm
  rcases hm with ⟨-, hop, rfl, rfl, rfl⟩ | ⟨-, hop, rfl, rfl, rfl⟩ | ⟨-, hop, rfl, rfl, rfl⟩ |
    ⟨-, hop, rfl, rfl, rfl⟩ | ⟨-, hop, rfl, rfl, rfl⟩ | ⟨-, hop, rfl, rfl, rfl⟩
  · refine fits_of_roles hst hn h0 (r := .output) (by simp [hop, rowRoles]) ?_ (fun _ => ?_) (fun hc => absurd rfl hc)
    · refine length_flatMap_le (by simp [rowsOf_length]) fun p hp => ?_
      exact (normFwd_length_le ..).trans_eq (length_of_mem_rowsOf (List.of_mem_zip hp).1)
    · exact ⟨by simp [hop, rowRoles], by simp [hop, rowSlots], fwdStats_length (by simp [rowsOf_length])⟩
  · refine fits_of_roles hst hn h0 (r := .output) (by simp [hop, rowRoles]) ?_ (fun hf => absurd hf (by decide))
      (fun _ k j hkj => ?_)
    · refine length_flatMap_le (by simp [rowsOf_length]) fun p hp => ?_
      obtain ⟨q, hq, rfl⟩ := List.mem_map.1 hp
      exact (normBwd_length_le ..).trans_eq (length_of_mem_rowsOf (List.of_mem_zip (List.of_mem_zip hq).1).1)
    · simp only [List.mem_cons, Prod.mk.injEq, List.not_mem_nil, or_false] at hkj
      rcases hkj with ⟨rfl, rfl⟩ | ⟨rfl, rfl⟩
      · exact ⟨by simp [hop, rowRoles], by simp [hop, rowSlots], by simp⟩
      · exact ⟨by simp [hop, rowRoles], by simp [hop, rowSlots], by simp⟩
  · refine fits_of_roles hst hn h0 (r := .output) (by simp [hop, rowRoles]) ?_ (fun _ => ?_) (fun hc => absurd rfl hc)
    · refine length_flatMap_le (by simp [softRows_length]) fun p hp => ?_
      exact (softFwd_length_le ..).trans_eq (length_of_mem_softRows (List.of_mem_zip hp).1)
    · exact ⟨by simp [hop, rowRoles], by simp [hop, rowSlots], fwdStats_length (by simp [softRows_length])⟩
  · refine fits_of_roles hst hn h0 (r := .output) (by simp [hop, rowRoles]) ?_ (fun hf => absurd hf (by decide))
      (fun hc => absurd rfl hc)
    refine length_flatMap_le (by simp [rowsOf_length]) fun q hq => ?_
    have hxr := List.of_mem_zip (List.of_mem_zip (List.of_mem_zip (List.fst_mem_of_mem_zipIdx hq)).1).1
    split
    · exact (softBwd_length_le ..).trans_eq (length_of_mem_rowsOf hxr.1)
    · exact (softBwd_length_le ..).trans ((softAgain_length_le ..).trans_eq (length_of_mem_softRows hxr.2))
  · refine fits_of_roles hst hn h0 (r := .rowF32) (by simp [hop, rowRoles]) ?_ (fun _ => ?_) (fun hc => absurd rfl hc)
    · rw [List.length_map]
      exact (fwdStats_length (by simp [softRows_length])).le
    · exact ⟨by simp [hop, rowRoles], by simp [hop, rowSlots], fwdStats_length (by simp [softRows_length])⟩
  · refine fits_of_roles hst hn h0 (r := .output) (by simp [hop, rowRoles]) ?_ (fun hf => absurd hf (by decide))
      (fun hc => absurd rfl hc)
    refine length_flatMap_le (by simp [softRows_length]) fun q hq => ?_
    rw [lseBwd_length]
    have hr := List.of_mem_zip (List.fst_mem_of_mem_zipIdx hq)
    exact (softAgain_length_le ..).trans_eq (length_of_mem_softRows hr.1)

/-! ### The statement -/

theorem exec_rowRuns_frame (hm : (c, op, flagSlot, fwd, o) ∈ rowRuns s id i) (h : s.mayStart op id i)
    (h0 : i.has 0 = true) (hn : ∀ k ∈ rowSlots op, (i.d k).ndim ≤ 5) :
    ∃ t : State, exec c s = .next t ∧ dataFrame s t (i.storesIn (rowSlots op)) rowFields [id] true :=
  ⟨_, exec_rowRuns hm h, dataFrame_trans (dataFrame_runRows (by simp [inst_id h.here]) (rowRuns_fit hm h.code h0 hn))
    (dataFrame_afterStart id)⟩

theorem exec_memFill_fails (h : s.mayStart 0x1004 id i) (hl : 1 < (i.d 0).loc) :
    exec (.memFill id) s = .next ((s.fails i stDescInvalid).afterStart id) := by
  refine (start_eq h _).trans ?_
  rw [if_pos hl]

theorem exec_memFill_frame (h : s.mayStart 0x1004 id i) :
    ∃ t : State, exec (.memFill id) s = .next t ∧ dataFrame s t (i.storesIn [0]) rowFields [id] true := by
  have hi : i.id ∈ [id] := by simp [inst_id h.here]
  by_cases hl : (i.d 0).loc ≤ 1
  · have hd (space a : Nat) (hs : (i.d 0).storesTo space a) : i.storesIn [0] space a := ⟨0, by simp, hs⟩
    exact ⟨_, exec_memFill h hl, dataFrame_trans (dataFrame_trans (dataFrame_wrEncoded hd (fillEncoded_fits _ _))
      (dataFrame_putInst (j := i.finish 0 0 _) hi)) (dataFrame_afterStart id)⟩
  · exact ⟨_, exec_memFill_fails h (by omega), dataFrame_trans (dataFrame_fails hi _) (dataFrame_afterStart id)⟩

end

/-- Settles O54: a row instruction by the frame of the six, whose results fit their operands by the checks of their roles, and
a fill by that of its write. -/
theorem rowAndFillFrame : Obligations.RowAndFillFrame := by
  intro s id i c op slots hm h h0 hn
  simp only [List.mem_cons, Prod.mk.injEq, List.not_mem_nil, or_false] at hm
  rcases hm with ⟨rfl, rfl, rfl⟩ | ⟨rfl, rfl, rfl⟩ | ⟨rfl, rfl, rfl⟩ | ⟨rfl, rfl, rfl⟩ | ⟨rfl, rfl, rfl⟩ |
    ⟨rfl, rfl, rfl⟩ | ⟨rfl, rfl, rfl⟩
  · exact exec_rowRuns_frame (List.mem_of_getElem? (i := 0) rfl) h h0 hn
  · exact exec_rowRuns_frame (List.mem_of_getElem? (i := 1) rfl) h h0 hn
  · exact exec_rowRuns_frame (List.mem_of_getElem? (i := 2) rfl) h h0 hn
  · exact exec_rowRuns_frame (List.mem_of_getElem? (i := 3) rfl) h h0 hn
  · exact exec_rowRuns_frame (List.mem_of_getElem? (i := 4) rfl) h h0 hn
  · exact exec_rowRuns_frame (List.mem_of_getElem? (i := 5) rfl) h h0 hn
  · exact exec_memFill_frame h

end Sys2Proof.Machine
end

section
/-! Where the completion of the row instructions, as stated, differs from the model: a record whose OPCODE has more than the
12 bits that R248 gives it. The statement tells ROW.NORM by ICLASS and OPCODE as one number, and the model by each of the
two. -/

namespace Sys2Proof.Machine

/-- One F32 element in HBM. -/
def oneElement (base : Nat) : Desc :=
  { loc := 1, ndim := 1, base := base, ext := [1, 0, 0, 0, 0], stride := [1, 0, 0, 0, 0] }

/-- OPCODE 0x1000 of ICLASS 5, which is 0x6000 as one number: a layer normalization of one element. -/
def wideNorm : Inst :=
  { id := 1, code := { opcode := 0x1000, iclass := 5 }
    slots := [(0, (0, oneElement 4096)), (1, (1, oneElement 8192)), (2, (2, oneElement 12288)), (3, (3, oneElement 16384))] }

/-- That instruction alone in flight, and its element NaN. -/
def wideState : State := { State.reset.wrNat 1 8192 4 0x7fc00000 with sch := { inflight := [wideNorm] } }

theorem wideNorm_mayStart : wideState.mayStart 0x6000 1 wideNorm where
  here  := by decide +kernel
  code  := by decide +kernel
  ready := by decide +kernel
  host  := by decide +kernel
  first := by decide +kernel
  deps  := by decide +kernel
  clean := by decide +kernel

/-- Its checks pass. -/
theorem wideNorm_checks : firstFail [(wideState.rowStatus wideNorm == stOk, wideState.rowStatus wideNorm),
    (wideState.framesStatus wideNorm == stOk, wideState.framesStatus wideNorm), (wideState.statKindOk wideNorm, stDescInvalid),
    (!wideState.noRows, stHwUnavailable)] = stOk := by decide +kernel

/-- The model counts the row of NaN among the flagged ones. -/
theorem exec_wideNorm_flags : ∃ t : State, exec (.rowNorm 1) wideState = .next t ∧ t.f F.rowRowsNan = 1 := by
  refine ⟨_, exec_rowRuns (List.mem_of_getElem? (i := 0) rfl) wideNorm_mayStart, ?_⟩
  rw [f_afterStart]
  decide +kernel

/-- Refutes O10: the row of the wide record has a NaN in its statistics. The model, which takes the record for no
normalization, counts the row as flagged, and the statement, which takes it for ROW.NORM, counts none. -/
theorem not_rowInstructionsComplete : ¬ Obligations.RowInstructionsComplete := by
  intro h
  obtain ⟨t, ht, hflagged⟩ := exec_wideNorm_flags
  obtain ⟨-, -, hdone⟩ := h wideState 1 wideNorm _ _ _ _ _ (List.mem_of_getElem? (i := 0) rfl) wideNorm_mayStart
  obtain ⟨sat, nf, hstated, -⟩ := hdone wideNorm_checks rfl
  rw [Host.Outcome.next.inj (ht.symm.trans hstated), f_afterStart, f_congr (State.putInst_regs _ _)] at hflagged
  exact absurd hflagged (by decide +kernel)

end Sys2Proof.Machine
end

section
/-! How a vector instruction runs (R172 to R178): its start, the checks of its chain, one equation for a member, and what the
run of a whole chain comes to; a chain of one is the plainest case. -/

namespace Sys2Proof.Machine

variable {s t : State} {id op : Nat} {i : Inst} {c : Instr}

/-! ### The start (R175, R177) -/

theorem exec_vecElementwise (s : State) (id : Nat) : ∀ p ∈ vecElementwise id, exec p.1 s = s.startVec p.2 id := by
  simp only [vecElementwise, List.forall_mem_cons]
  and_intros
  on_goal -1 => exact fun _ hp => absurd hp List.not_mem_nil
  all_goals rfl

theorem exec_vecIrregular (s : State) (id : Nat) (i : Inst) :
    ∀ x ∈ vecIrregular s id i, exec x.1 s = s.startVec x.2.1 id := by
  simp only [vecIrregular, List.forall_mem_cons]
  and_intros
  on_goal -1 => exact fun _ hp => absurd hp List.not_mem_nil
  all_goals rfl

/-- An instruction whose turn has come has not started. -/
theorem phase_of_mayStart (h : s.mayStart op id i) : i.phase = .waiting := by
  have hr := h.ready
  simp only [State.ready, Bool.and_eq_true, beq_iff_eq] at hr
  exact hr.1.1

theorem startVec_eq (h : s.mayStart (0x3000 + op) id i) (hl : i.members.head? = some id) :
    s.startVec op id = .next ((s.runVec i).afterStart id) := by
  have hp : i.phase ≠ .running := by simp [phase_of_mayStart h]
  simp only [State.startVec, h.here, if_neg hp]
  exact startIf_eq h _ _ (by simp [hl])

/-- The turn of a member after the first changes nothing. -/
theorem startVec_later (h : s.mayStart (0x3000 + op) id i) (hl : i.members.head? ≠ some id) :
    s.startVec op id = .next s := by
  have hp : i.phase ≠ .running := by simp [phase_of_mayStart h]
  simp [State.startVec, h.here, hp, State.startIf, hl]

/-- The next turn of a consumer of finished tiles. -/
theorem startVec_running (h : s.inst id = some i) (hp : i.phase = .running) (ho : i.code.op = 0x3000 + op)
    (ht : i.took ≠ []) (hl : i.members.head? = some id) : s.startVec op id =
      .next ((if i.depBad then s.starve i (i.members.filterMap s.inst)
        else s.feed i (i.members.filterMap s.inst)).settleTags id) := by
  simp [State.startVec, h, hp, ho, ht, hl]

/-! ### The ways a chain runs (R174 to R177) -/

theorem runVec_fails (h : s.chainStatus (i.members.filterMap s.inst) ≠ stOk) : s.runVec i =
    (s.consumePosts i).endChain i.members (s.chainStatus (i.members.filterMap s.inst)) := if_pos h

theorem runVec_whole (h : s.chainStatus (i.members.filterMap s.inst) = stOk) (hw : s.sourceWhole i = true) :
    s.runVec i = (s.consumePosts i).runWhole i (i.members.filterMap s.inst) := by
  simp only [State.runVec, h, ne_eq, not_true, if_false, hw, if_true]

theorem runVec_feeds (h : s.chainStatus (i.members.filterMap s.inst) = stOk) (hw : s.sourceWhole i = false) :
    s.runVec i = s.feed i (i.members.filterMap s.inst) := by
  simp only [State.runVec, h, ne_eq, not_true, if_false, hw, Bool.false_eq_true]

/-! ### One member (R172, R179 to R181) -/

/-- What a member's irregular operation gives; none for an element-wise member. -/
def State.irregularOf (s : State) (i : Inst) (a : Src0) (dst : Desc) : Option Irr :=
  match i.code.op with
  | 0x3020 => some (s.gather i dst)
  | 0x3021 => some (s.scatadd i a dst)
  | 0x3022 => some (s.segment i false)
  | 0x3023 => some (s.segment i true)
  | 0x3024 => some (s.sort i)
  | 0x3025 => some (s.topk i)
  | 0x3026 => some (s.hist i)
  | _ => none

/-- Source 0 of the next member: the previous member's result, or the tensor at slot 1. -/
def Run.source (r : Run) (i : Inst) : Src0 :=
  match r.prev with
  | some p => { d := p.1, prev := some p.2 }
  | none => { d := i.d 1 }

/-- The result of an element-wise member taken into the run. -/
def Run.elementwise (r : Run) (s : State) (i : Inst) (dst : Desc) : Run :=
  { r with
    prev := some (dst, (s.ewEncode i (r.source i) dst).1)
    counts := r.counts ++ [{ id := i.id, op := i.code.op, sat := (s.ewEncode i (r.source i) dst).1.sat
                             nf := (s.ewEncode i (r.source i) dst).1.nf
                             marks := (s.ewEncode i (r.source i) dst).2 }] }

theorem member_of_failed {r : Run} (h : r.status ≠ stOk) (last : Bool) : s.member r i last = r := if_pos h

/-- A member runs by its irregular operation, or element by element. -/
theorem member_eq {r : Run} (h : r.status = stOk) (last : Bool) : s.member r i last =
    match s.irregularOf i (r.source i) (s.memberDst i last) with
    | some x => r.irregular i (s.memberDst i last) x
    | none => r.elementwise s i (s.memberDst i last) := by
  unfold State.member
  dsimp only
  rw [if_neg (not_not.2 h)]
  clear h
  unfold State.irregularOf
  split <;> simp only [*] <;> rfl

theorem member_irregular {r : Run} (h : r.status = stOk) {last : Bool} {x : Irr}
    (hx : s.irregularOf i (r.source i) (s.memberDst i last) = some x) :
    s.member r i last = r.irregular i (s.memberDst i last) x := by rw [member_eq h, hx]

theorem member_elementwise {r : Run} (h : r.status = stOk) {last : Bool}
    (hx : s.irregularOf i (r.source i) (s.memberDst i last) = none) :
    s.member r i last = r.elementwise s i (s.memberDst i last) := by rw [member_eq h, hx]

/-! The last member writes its own slot 0 (R175). -/

theorem member_last_irregular {r : Run} {x : Irr} (h : r.status = stOk)
    (hx : s.irregularOf i (r.source i) (i.d 0) = some x) : s.member r i true = r.irregular i (i.d 0) x :=
  member_irregular (last := true) h hx

theorem member_last_elementwise {r : Run} (h : r.status = stOk) (hx : s.irregularOf i (r.source i) (i.d 0) = none) :
    s.member r i true = r.elementwise s i (i.d 0) := member_elementwise (last := true) h hx

/-- An element-wise record has no irregular operation (R172). -/
theorem irregularOf_of_lt (h : i.code.op < 0x3020) (a : Src0) (dst : Desc) : s.irregularOf i a dst = none := by
  unfold State.irregularOf
  split
  iterate 7 (· omega)
  · rfl

theorem op_of_elementwise (h : i.code.elementwise = true) : i.code.op < 0x3020 := by
  simp only [Rec.elementwise, Bool.and_eq_true, beq_iff_eq, decide_eq_true_eq] at h
  obtain ⟨hclass, hcode⟩ := h
  rw [Rec.op, hclass]
  omega

theorem op_lt_of_vecElementwise : ∀ p ∈ vecElementwise id, p.2 < 0x20 := by
  simp [vecElementwise]

/-! ### The whole run of a chain (R175) -/

/-- The results of a run stored in the destinations of the last member. -/
def Run.stored (r : Run) (s : State) (d : Desc) (e : Encoded) (last : Inst) : State :=
  let t := match r.only with
    | none => s.wrEncoded d e
    | some rows => s.wrPart d e (fun k => rows.contains (k / d.e 0))
  if r.second.isEmpty then t else t.wrElems (last.d 3) 0 r.second

/-- Every member ends with its counts, and the counts of irregular operations are raised. -/
def Run.ends (r : Run) (s : State) : State :=
  r.counts.foldl (fun t c => t.modInst c.id (fun j => j.finish c.sat c.nf c.result))
    (r.counts.foldl State.irregularCounts s)

theorem runWhole_fails {ms : List Inst} (h : (s.runMembers ms).status ≠ stOk) :
    s.runWhole i ms = s.endChain i.members (s.runMembers ms).status := if_pos h

theorem runWhole_stores {ms : List Inst} {d : Desc} {e : Encoded} {last : Inst}
    (h : (s.runMembers ms).status = stOk) (hp : (s.runMembers ms).prev = some (d, e)) (hl : ms.getLast? = some last) :
    s.runWhole i ms = (s.runMembers ms).ends ((s.runMembers ms).stored s d e last) := by
  unfold State.runWhole
  dsimp only
  rw [if_neg (not_not.2 h)]
  simp only [hp, hl]
  rfl

/-! ### A chain of one that consumes no finished tiles -/

theorem members_alone (h : i.alone) : i.members = [i.id] := by
  simp [Inst.members, h.1]

theorem filterMap_inst_alone (h : i.alone) (hi : s.inst id = some i) : i.members.filterMap s.inst = [i] := by
  simp [members_alone h, inst_id hi, hi]

theorem consumePosts_alone (h : i.alone) : s.consumePosts i = s := by
  obtain ⟨-, -, -, hp⟩ := h
  have hall : s.units.ftq.filter (fun x => i.producer != some x.1) = s.units.ftq :=
    List.filter_eq_self.2 fun x _ => by simp [hp]
  rw [State.consumePosts, hall]

theorem sourceWhole_alone (h : i.alone) : s.sourceWhole i = true := by
  obtain ⟨-, -, -, hp⟩ := h
  simp [State.sourceWhole, hp]

/-- The checks of a chain of one are those of its member (R252). -/
theorem chainStatus_alone (h : i.alone) : s.chainStatus [i] = s.memberStatus i { d := i.d 1 } true := by
  obtain ⟨-, hlink, hftq, -⟩ := h
  have hchain : s.chainOk [i] = true := by simp [State.chainOk, hlink]
  have htiles : ftqOk [i] = true := by simp [ftqOk, hftq]
  simp only [State.chainStatus, hchain, htiles, Bool.not_true, Bool.false_eq_true, if_false, List.zipIdx_cons,
    List.zipIdx_nil, List.findSome?_cons, List.findSome?_nil, List.length_singleton, Nat.zero_add, beq_self_eq_true,
    if_true]
  split
  · rename_i hst
    simp only [Option.ite_none_left_eq_some, Option.some.injEq] at hst
    exact hst.2.symm
  · rename_i hst
    simp only [ite_eq_left_iff, reduceCtorEq, imp_false, not_not] at hst
    exact hst.symm

theorem runMembers_alone (s : State) (i : Inst) : s.runMembers [i] = s.member {} i true := rfl

/-- A chain of one whose checks pass runs whole. -/
theorem startVec_alone (h : s.mayStart (0x3000 + op) id i) (ha : i.alone)
    (hst : s.memberStatus i { d := i.d 1 } true = stOk) :
    s.startVec op id = .next ((s.runWhole i [i]).afterStart id) := by
  have hms := filterMap_inst_alone ha h.here
  rw [startVec_eq h (by simp [members_alone ha, inst_id h.here]),
    runVec_whole (by rw [hms, chainStatus_alone ha, hst]) (sourceWhole_alone ha), hms, consumePosts_alone ha]

/-! ### The element-wise instructions (R172, R173) -/

theorem memberStatus_elementwise (h : i.code.op < 0x3020) (a : Src0) :
    s.memberStatus i a true = s.ewStatus i a (i.d 0) true := by
  unfold State.memberStatus
  simp only [Bool.not_true, Bool.false_and, Bool.false_eq_true, if_false]
  split
  iterate 7 (· omega)
  · rfl

theorem runMembers_elementwise (h : i.code.op < 0x3020) : s.runMembers [i] = ({} : Run).elementwise s i (i.d 0) := by
  rw [runMembers_alone, member_last_elementwise rfl (irregularOf_of_lt h _ _)]

/-- Settles O4: the chain of one runs whole, and its run is that of its one element-wise member. -/
theorem vecElementwiseComplete : Obligations.VecElementwiseComplete := by
  intro s id i c op hc h ha hst
  have hop : i.code.op < 0x3020 := by
    have := op_lt_of_vecElementwise _ hc
    simp only [h.code]
    omega
  rw [exec_vecElementwise s id _ hc, startVec_alone h ha (by rwa [memberStatus_elementwise hop])]
  have hr := runMembers_elementwise (s := s) hop
  rw [runWhole_stores (d := i.d 0) (last := i) (by rw [hr]; rfl) (by rw [hr]; rfl) rfl, hr, ← inst_id h.here]
  rfl

end Sys2Proof.Machine
end

section
/-! The irregular vector instructions as a chain of one, and the ways any chain runs (R174 to R181, R275, R276). -/

namespace Sys2Proof.Machine

variable {s t : State} {id op : Nat} {i : Inst} {c : Instr} {x : Irr}

/-! ### What an irregular instruction stores (R179 to R181) -/

/-- The checks and the result of each irregular instruction are those of its member. -/
theorem vecIrregular_member : ∀ y ∈ vecIrregular s id i, i.code.op = 0x3000 + y.2.1 →
    s.memberStatus i { d := i.d 1 } true = y.2.2.1 ∧ s.irregularOf i { d := i.d 1 } (i.d 0) = some y.2.2.2 := by
  simp only [vecIrregular, List.forall_mem_cons]
  and_intros
  on_goal -1 => exact fun _ hy => absurd hy List.not_mem_nil
  all_goals
    intro ho
    rw [State.memberStatus, State.irregularOf, ho]
    exact ⟨rfl, rfl⟩

theorem irregular_eq (h : x.status = stOk) (r : Run) (i : Inst) (dst : Desc) : r.irregular i dst x =
    { r with
      prev := some (dst, encodeVals dst 0 (fun _ => .rne) x.vals), only := x.only, second := x.second
      counts := r.counts ++ [{ id := i.id, op := i.code.op, sat := (x.counted dst).sat, nf := (x.counted dst).nf + x.nf
                               result := x.result }] } := by
  unfold Run.irregular
  rw [if_neg (not_not.2 h)]
  unfold Irr.counted
  cases x.only <;> rfl

/-- An irregular instruction counts nothing, its empty segments, or its indices out of range (R181, R189). -/
theorem irregularCounts_cases (s : State) (m : MemberCount) : s.irregularCounts m = s ∨
    s.irregularCounts m = s.addF F.vecEmptySegments m.result ∨
    ∃ j, s.irregularCounts m = (s.addF F.vecIndexOob m.result).evI 0x3101 0x3120 0 m.result j := by
  unfold State.irregularCounts
  split
  · exact .inl rfl
  · split
    · exact .inr (.inl rfl)
    · split
      · split
        · exact .inr (.inr ⟨_, rfl⟩)
        · exact .inl rfl
      · exact .inl rfl

/-- The counts change registers and the recorder alone. -/
theorem irregularCounts_memory (s : State) (m : MemberCount) : (s.irregularCounts m).hbm = s.hbm ∧
    (s.irregularCounts m).scratch = s.scratch ∧ (s.irregularCounts m).host = s.host ∧ (s.irregularCounts m).sch = s.sch := by
  rcases irregularCounts_cases s m with h | h | ⟨j, h⟩ <;> rw [h] <;> simp

/-- An irregular result written to the destinations of `i`. -/
def Irr.written (x : Irr) (s : State) (i : Inst) : State :=
  if x.second.isEmpty then x.stores s (i.d 0) else (x.stores s (i.d 0)).wrElems (i.d 3) 0 x.second

theorem written_sch (x : Irr) (s : State) (i : Inst) : (x.written s i).sch = s.sch := by
  unfold Irr.written Irr.stores
  cases x.only <;> cases x.second.isEmpty <;> simp

/-- What an irregular instruction counts, as its destination takes the results. -/
def Irr.count (x : Irr) (i : Inst) : MemberCount :=
  { id := i.id, op := i.code.op, sat := (x.counted (i.d 0)).sat, nf := (x.counted (i.d 0)).nf + x.nf, result := x.result }

/-- The run of one irregular member stores its result and counts it (R252). -/
theorem runWhole_irregular (hx : s.irregularOf i { d := i.d 1 } (i.d 0) = some x) (hs : x.status = stOk) :
    s.runWhole i [i] = ((x.written s i).irregularCounts (x.count i)).modInst i.id
      (fun j => j.finish (x.count i).sat (x.count i).nf (x.count i).result) := by
  have hr : s.runMembers [i] = ({} : Run).irregular i (i.d 0) x := member_last_irregular (r := {}) rfl hx
  rw [irregular_eq hs] at hr
  rw [runWhole_stores (d := i.d 0) (last := i) (by rw [hr]; rfl) (by rw [hr]) rfl, hr]
  unfold Run.ends Run.stored Irr.written Irr.stores
  cases x.only <;> rfl

theorem exec_vecIrregular_alone {st : Nat} (hm : (c, op, st, x) ∈ vecIrregular s id i)
    (h : s.mayStart (0x3000 + op) id i) (ha : i.alone) (hst : st = stOk) (hx : x.status = stOk) :
    exec c s = .next ((((x.written s i).irregularCounts (x.count i)).modInst id
      (fun j => j.finish (x.count i).sat (x.count i).nf (x.count i).result)).afterStart id) := by
  obtain ⟨hstatus, hof⟩ := vecIrregular_member _ hm h.code
  rw [exec_vecIrregular s id i _ hm, startVec_alone h ha (hstatus.trans hst), runWhole_irregular hof hx, inst_id h.here]

/-! ### The statement -/

/-- A command of the statements about vector instructions starts a vector instruction. -/
theorem exec_vec (hc : (c, op) ∈ vecElementwise id ∨ ∃ st x, (c, op, st, x) ∈ vecIrregular s id i) :
    exec c s = s.startVec op id := by
  rcases hc with hc | ⟨st, x, hc⟩
  · exact exec_vecElementwise s id _ hc
  · exact exec_vecIrregular s id i _ hc

/-- Settles O5: an irregular chain of one by the run of its member, and any chain by the three ways a start goes and the next
turn of a consumer. -/
theorem vecIrregularComplete : Obligations.VecIrregularComplete := by
  refine ⟨fun s id i c op st x hm h ha hst hx => ?_, fun s id i c op hc => ?_⟩
  · obtain ⟨hhbm, hscratch, hhost, hsch⟩ := irregularCounts_memory (x.written s i) (x.count i)
    refine ⟨_, x.written s i, exec_vecIrregular_alone hm h ha hst hx, rfl, hhbm, hscratch, hhost, ?_⟩
    rw [written_sch] at hsch
    simp only [State.modInst, hsch]
    rfl
  · rw [exec_vec hc]
    refine ⟨fun h hl hst => ?_, fun h hl hst hw => ?_, fun h hl hst hw => ?_, fun h hp ho ht hl hd => ?_,
      fun h hp ho ht hl hd => ?_⟩
    · rw [startVec_eq h hl, runVec_fails hst]
    · rw [startVec_eq h hl, runVec_whole hst hw]
    · rw [startVec_eq h hl, runVec_feeds hst hw]
    · rw [startVec_running h hp ho ht hl, hd]
      rfl
    · rw [startVec_running h hp ho ht hl, hd]
      rfl

end Sys2Proof.Machine
end

section
/-! The movers and the valley (R151, R152, R155, R156, R182 to R190, R271, R272, R278, R279): one equation for each way in which
one of their instructions ends, and for what moves pages in drain. -/

namespace Sys2Proof.Machine

variable {s t : State} {id : Nat} {i : Inst} {crc : MoverCrc}

/-! ### The CRCs of a mover (R188) -/

theorem moverChecks_good (hc : crc.bad = none) (hold : State → State → Nat × Nat → State) (run : State → State) :
    s.moverChecks i crc hold run = run (s.addF F.movCrcFail crc.fails) := by
  simp only [State.moverChecks, hc]

/-- The block is withheld from what ran, and the instruction fails a check of its channel. -/
theorem moverChecks_bad {b : Nat × Nat} (hc : crc.bad = some b) (hold : State → State → Nat × Nat → State)
    (run : State → State) : s.moverChecks i crc hold run =
      ((hold (s.addF F.movCrcFail crc.fails) (run (s.addF F.movCrcFail crc.fails)) b).putInst i).checkFails i rsnCheck
        ((0x3140 + i.channel) * 65536) := by
  simp only [State.moverChecks, hc]

/-! ### MOV.COPY (R182, R186, R271) -/

/-- The descriptors of a MOV.COPY. -/
def Inst.copyTotal (i : Inst) : Nat := (i.d 0).combos * (if fmtBlock (i.d 0).format then 2 else 1)

/-- Its descriptors that meet a bus error: only where an operand lies in host memory. -/
def State.copyBus (s : State) (i : Inst) : Nat :=
  if (i.d 0).loc = 2 ∨ (i.d 1).loc = 2 then min i.copyTotal (s.busErrors i.id) else 0

theorem copyBus_inside (h0 : (i.d 0).loc ≠ 2) (h1 : (i.d 1).loc ≠ 2) : s.copyBus i = 0 := if_neg (by simp [h0, h1])

theorem copyBus_host (h : (i.d 0).loc = 2 ∨ (i.d 1).loc = 2) : s.copyBus i = min i.copyTotal (s.busErrors i.id) := if_pos h

/-- What MOV.COPY makes of `s`, `w` in HEAD and its own end included. -/
def State.copied (s : State) (i : Inst) (w : Nat) : State :=
  (s.copyRun i (s.copyBus i) w).1.putInst
    (if s.copyBus i = 0 then i.finish (s.copyRun i (s.copyBus i) w).2 0 (i.copyTotal * 2 ^ 32)
     else { i.end_ stMovBad with
       sat := cap32 (s.copyRun i (s.copyBus i) w).2, result := i.copyTotal * 2 ^ 32 + s.copyBus i })

theorem copied_inside (h0 : (i.d 0).loc ≠ 2) (h1 : (i.d 1).loc ≠ 2) (w : Nat) : s.copied i w =
    (s.copyRun i 0 w).1.putInst (i.finish (s.copyRun i 0 w).2 0 (i.copyTotal * 2 ^ 32)) := by
  simp only [State.copied, copyBus_inside h0 h1, if_true]

/-- MOV.COPY whose checks pass runs its descriptors, with a free value in HEAD. -/
theorem exec_movCopy (h : s.mayStart 0x2000 id i) (hst : s.copyStatus i = stOk) : exec (.movCopy id crc) s =
    .next ((s.moverChecks i crc (i.d 0).holdCopy (fun u => u.copied i (Config.freeWord u.freeCtr))).afterStart id) := by
  refine start_run h ?_
  simp only [hst, ne_eq, not_true, if_false]
  congr 1
  funext u
  rw [State.copied, apply_ite (State.putInst _)]
  rfl

/-! ### MOV.LIST (R182 to R187, R272) -/

/-- The run of the list of a MOV.LIST on `s`. -/
def State.listed (s : State) (i : Inst) : ListRun :=
  ListRun.go { s := s, errs := s.busErrors i.id } i i.code.imm1 1048576

/-- What MOV.LIST makes of `s`, its own end included. -/
def State.listRun (s : State) (i : Inst) : State :=
  let r := s.listed i
  let t := r.s.channelDone i.channel r.done r.bad
  let res := cap32 r.done * 2 ^ 32 + cap32 r.bad
  if r.broken then
    ((t.setF (F.movChStatusChainBroken i.channel) 1).evI 0x4002 (0x3140 + i.channel) i.channel 0 i).putInst
      { i.end_ stMovChain with sat := cap32 r.sat, result := res }
  else if r.bad = 0 then t.putInst (i.finish r.sat 0 res)
  else t.putInst { i.end_ stMovBad with sat := cap32 r.sat, result := res }

/-- The host answers, or no descriptor of the list names host memory. -/
def State.listReady (s : State) (i : Inst) : Prop := s.hostReady = true ∨ s.listHost i.code.imm1 1048576 = false

theorem exec_movList (h : s.mayStart 0x2001 id i) (hh : s.listReady i) (ha : i.code.imm1 % 64 = 0) :
    exec (.movList id crc) s =
      .next ((s.moverChecks i crc (holdList i.code.imm1) (fun u => u.listRun i)).afterStart id) := by
  refine startIf_run h (by simpa [State.listReady] using hh) ?_
  rw [if_neg (not_not.2 ha)]
  rfl

theorem exec_movList_unaligned (h : s.mayStart 0x2001 id i) (hh : s.listReady i) (ha : i.code.imm1 % 64 ≠ 0) :
    exec (.movList id crc) s = .next ((s.putInst (i.end_ stImmInvalid)).afterStart id) := by
  refine startIf_run h (by simpa [State.listReady] using hh) ?_
  rw [if_pos ha]
  rfl

theorem listRun_good (hb : (s.listed i).broken = false) (h0 : (s.listed i).bad = 0) : s.listRun i =
    ((s.listed i).s.channelDone i.channel (s.listed i).done (s.listed i).bad).putInst (i.finish (s.listed i).sat 0
      (cap32 (s.listed i).done * 2 ^ 32 + cap32 (s.listed i).bad)) := by
  simp only [State.listRun, hb, h0, Bool.false_eq_true, if_false, if_true]

theorem listRun_bad (hb : (s.listed i).broken = false) (h0 : 0 < (s.listed i).bad) : s.listRun i =
    ((s.listed i).s.channelDone i.channel (s.listed i).done (s.listed i).bad).putInst { i.end_ stMovBad with
      sat := cap32 (s.listed i).sat, result := cap32 (s.listed i).done * 2 ^ 32 + cap32 (s.listed i).bad } := by
  simp only [State.listRun, hb, h0.ne', Bool.false_eq_true, if_false]

theorem listRun_broken (hb : (s.listed i).broken = true) : s.listRun i =
    ((((s.listed i).s.channelDone i.channel (s.listed i).done (s.listed i).bad).setF
      (F.movChStatusChainBroken i.channel) 1).evI 0x4002 (0x3140 + i.channel) i.channel 0 i).putInst
      { i.end_ stMovChain with
        sat := cap32 (s.listed i).sat, result := cap32 (s.listed i).done * 2 ^ 32 + cap32 (s.listed i).bad } := by
  simp only [State.listRun, hb, if_true]

/-! ### VAL.PUSH, VAL.POP and VAL.DROP (R151, R152, R278, R279) -/

theorem exec_valPush (h : s.mayStart 0x8000 id i)
    (hst : s.frameCopyStatus i (i.d 0) (i.d 1) [0, 1, 5] = stOk) (hk : i.claim = stOk) (hc : crc.bad = none) :
    exec (.valPush id crc) s = .next ((((s.addF F.movCrcFail crc.fails).fillFrame i (s.compactImage (i.d 1)) 0).putInst
      (i.finish 0 0 (i.d 0).compactBytes)).afterStart id) := by
  refine start_run h ?_
  simp only [hst, hk, ne_eq, not_true, if_false, moverChecks_good hc]
  rfl

theorem exec_valPush_unclaimed (h : s.mayStart 0x8000 id i)
    (hst : s.frameCopyStatus i (i.d 0) (i.d 1) [0, 1, 5] = stOk) (hk : i.claim ≠ stOk) :
    exec (.valPush id crc) s = .next ((s.claimFails i).afterStart id) := by
  refine start_run h ?_
  simp only [hst, hk, ne_eq, not_true, not_false_eq_true, if_false, if_true]

/-- A combination of rows copied from a frame, its exponents included. -/
def popPart (dst src : Desc) (u : State) (c : Nat) : State :=
  if fmtBlock dst.format then copyExps (copyElems u dst src c).1 dst src c else (copyElems u dst src c).1

theorem exec_valPop {x : Frame} (h : s.mayStart 0x8001 id i)
    (hst : s.frameCopyStatus i (i.d 1) (i.d 0) [0, 1] = stOk) (hf : s.framesStatus i = stOk) (hc : crc.bad = none)
    (hx : s.frame ((i.d 1).base % 2 ^ 32) = some x) :
    exec (.valPop id crc) s = .next (((((List.range (i.d 0).combos).foldl (popPart (i.d 0) (i.d 1))
      ((s.readFrame x).addF F.movCrcFail crc.fails)).coverLines (i.d 0)).putInst
      (Inst.finish { i with consume := if i.code.flag 3 then [] else [(i.d 1).base % 2 ^ 32] } 0 0
        (s.frameResult x))).afterStart id) := by
  refine start_run h ?_
  simp only [hst, hf, ne_eq, not_true, if_false, hx, moverChecks_good hc]
  rfl

theorem exec_valDrop {x : Frame} (h : s.mayStart 0x8002 id i) (hl : (i.d 1).loc = 3) (hf : s.framesStatus i = stOk)
    (hx : s.frame ((i.d 1).base % 2 ^ 32) = some x) :
    exec (.valDrop id) s = .next ((s.putInst
      (Inst.finish { i with consume := [(i.d 1).base % 2 ^ 32] } 0 0 x.bytes)).afterStart id) := by
  refine start_run h ?_
  simp only [hl, hf, ne_eq, not_true, if_false, hx]
  rfl

/-! ### Pages in drain (R155, R156) -/

/-- A page may be fetched: the device drains, fewer than four pages are in transfer, and fewer have been brought back than
the prefetch depth. -/
def State.fetches (s : State) : Prop := s.val.drain = true ∧ s.transfers < 4 ∧ s.broughtBack < s.val.prefetch

theorem exec_valleyPrefetch_room {q b : Nat} (h : s.fetches) (hq : s.newestHbm = some q)
    (hc : s.chipPages < min 128 s.val.chipQuota) (hb : s.scratchRoom pageBytes = some b) :
    exec .valleyPrefetch s = .next (s.tick.fetchPage q b) := by
  obtain ⟨hd, ht, hbb⟩ := h
  change execValleyPrefetch s = _
  simp only [execValleyPrefetch, hd, hq, hc, hb, Bool.not_true, Bool.false_or, if_true]
  rw [if_neg (by simp; omega)]

theorem exec_valleyPrefetch_exchange {q e b : Nat} (h : s.fetches) (hq : s.newestHbm = some q)
    (hc : min 128 s.val.chipQuota ≤ s.chipPages) (he : s.spentChip = some (e, b)) (hp : s.hbmPages < s.val.hbmQuota) :
    exec .valleyPrefetch s = .next (State.fetchPage { s with val := { s.val with
      pages := mput e .hbm s.val.pages, back := s.val.back.filter (fun n => n != e) } } q b) := by
  obtain ⟨hd, ht, hbb⟩ := h
  change execValleyPrefetch s = _
  simp only [execValleyPrefetch, hd, hq, hc.not_gt, he, hp.not_ge, Bool.not_true, Bool.false_or, if_false]
  rw [if_neg (by simp; omega)]

theorem exec_pageTransferDone {q b : Nat} (h : mget q s.val.pages = some (.toChip b)) :
    exec (.pageTransferDone q) s = .next { s with val := { s.val with pages := mput q (.chip b) s.val.pages } } := by
  change execPageTransferDone q s = _
  simp only [execPageTransferDone, h]

/-! ### The statement -/

/-- Settles O6: the movers by what their channel runs, with or without a withheld block, and the valley by its frames and
pages. -/
theorem moverAndValley : Obligations.MoverAndValley := by
  refine ⟨fun s id i crc => ?_, fun s id i crc => ?_⟩
  · dsimp only
    and_intros
    · intro h hst hc h0 h1
      exact ⟨_, by rw [exec_movCopy h hst, moverChecks_good hc, copied_inside h0 h1]; rfl⟩
    · intro h hst hc hl
      refine ⟨_, by rw [exec_movCopy h hst, moverChecks_good hc, State.copied, copyBus_host hl]; rfl⟩
    · intro b h hst hc h0 h1
      exact ⟨_, by rw [exec_movCopy h hst, moverChecks_bad hc, copied_inside h0 h1]; rfl⟩
    · intro h hh ha hc hb h0
      rw [exec_movList h hh ha, moverChecks_good hc, listRun_good hb h0]
      rfl
    · intro h hh ha hc hb h0
      rw [exec_movList h hh ha, moverChecks_good hc, listRun_bad hb h0]
      rfl
    · intro h hh ha hc hb
      rw [exec_movList h hh ha, moverChecks_good hc, listRun_broken hb]
      rfl
    · intro b h hh ha hc hb h0
      rw [exec_movList h hh ha, moverChecks_bad hc, listRun_good hb h0]
      rfl
    · exact exec_movList_unaligned
  · and_intros
    · exact exec_valPush
    · intro h hst hk
      rw [exec_valPush_unclaimed h hst (by rw [hk]; decide), State.claimFails, hk]
      rfl
    · intro h hst hk
      rw [exec_valPush_unclaimed h hst (by rw [hk]; decide), State.claimFails, hk]
      rfl
    · exact fun x => exec_valPop
    · exact fun x => exec_valDrop
    · exact fun q b hd ht hb => exec_valleyPrefetch_room ⟨hd, ht, hb⟩
    · exact fun q e b hd ht hb => exec_valleyPrefetch_exchange ⟨hd, ht, hb⟩
    · exact fun q b => exec_pageTransferDone

end Sys2Proof.Machine
end

section
/-! What the updates of a vector instruction leave alone: parts of a result, changes of instructions, posts and events. -/

namespace Sys2Proof.Machine

section
variable {stored : Nat → Nat → Prop} {fields : List Fld} {ids : List Nat} {valley : Bool} {s t : State} {d : Desc} {e : Encoded}

theorem bytesKept_wrPart (h : e.fits d) (p : Nat → Bool) : bytesKept d.storesTo s (s.wrPart d e p) := by
  unfold State.wrPart
  cases hb : fmtBlock d.format with
  | true =>
    rw [Encoded.fits, if_pos hb] at h
    refine bytesKept_foldl fun b hm t => ?_
    obtain ⟨hk, h0, hl⟩ := h b (List.mem_of_mem_filter hm)
    exact bytesKept_wrBlock hb hk h0 hl
  | false =>
    rw [Encoded.fits, if_neg (by simp [hb])] at h
    refine bytesKept_foldl fun v hm t => bytesKept_wrElems hb v.2 ?_
    have hv : v.2 < e.elems.length := List.snd_lt_of_mem_zipIdx (List.mem_of_mem_filter hm)
    rw [List.length_singleton]
    omega

theorem dataFrame_wrPart (hd : ∀ space a, d.storesTo space a → stored space a) (he : e.fits d) (p : Nat → Bool) :
    dataFrame s (s.wrPart d e p) stored fields ids valley :=
  dataFrame_of_bytesFrame (bytesFrame_wrPart s d e p) (bytesKept_mono hd (bytesKept_wrPart he p))

/-- `dataFrame_foldl` where the elements of the list matter. -/
theorem dataFrame_foldl_mem {α : Type} {g : State → α → State} {l : List α}
    (hg : ∀ x ∈ l, ∀ t, dataFrame t (g t x) stored fields ids valley) :
    dataFrame s (l.foldl g s) stored fields ids valley :=
  List.foldlRecOn l g dataFrame_refl fun t h x hx => dataFrame_trans h (hg x hx t)

theorem inst_modInst_other {k m : Nat} (h : m ≠ k) {g : Inst → Inst} (hg : ∀ j, (g j).id = j.id) :
    (s.modInst k g).inst m = s.inst m := by
  have hkm : (k == m) = false := by simpa using h.symm
  simp only [State.inst, State.modInst]
  induction s.sch.inflight with
  | nil => rfl
  | cons x l ih =>
    simp only [List.map_cons, List.find?_cons, ih]
    by_cases hx : x.id = k
    · simp [hx, hg, hkm]
    · simp [hx]

theorem dataFrame_modInst {k : Nat} (hk : k ∈ ids) {g : Inst → Inst} (hg : ∀ j, (g j).id = j.id) :
    dataFrame s (s.modInst k g) stored fields ids valley :=
  ⟨fun _ _ _ _ => rfl, fun _ _ => rfl, fun _ hm => inst_modInst_other (ne_of_mem_of_not_mem hk hm).symm hg, by cases valley <;> rfl⟩

theorem dataFrame_endChain {l : List Nat} (hl : ∀ m ∈ l, m ∈ ids) (st : Nat) :
    dataFrame s (s.endChain l st) stored fields ids valley := by
  refine dataFrame_foldl_mem fun m hm t => dataFrame_modInst (hl m hm) fun j => ?_
  split <;> rfl

theorem dataFrame_consumePosts (i : Inst) : dataFrame s (s.consumePosts i) stored fields ids valley :=
  ⟨fun _ _ _ _ => rfl, fun _ _ => rfl, fun _ _ => rfl, by cases valley <;> rfl⟩

theorem dataFrame_evI (hx : F.evtStatusDropped.key ∈ fields.map Fld.key) (code unit x y : Nat) (i : Inst) :
    dataFrame s (s.evI code unit x y i) stored fields ids valley := by
  have hev := (raise_frame s { code := code, unit := unit, arg0 := x, arg1 := y, queue := i.queue, index := i.index
                               opc := i.code.opcode + 4096 * i.code.iclass }).1
  refine ⟨fun space a _ _ => ?_, fun z hz => (raise_frame s _).2 z (ne_of_mem_of_not_mem hx hz).symm, fun m _ => ?_, ?_⟩
  · rw [State.evI, hev]
    rfl
  · rw [State.evI, hev]
    rfl
  · rw [State.evI, hev]
    cases valley <;> rfl

end

end Sys2Proof.Machine
end

section
/-! The results of the members of a chain have room in their destinations (R172, R175, R179 to R181, R275, R276). -/

namespace Sys2Proof.Machine

variable {s u : State} {i : Inst} {a b : Src0} {x : Irr} {r : Run}

/-! ### Element-wise results -/

theorem ewResults_length_le (s : State) (i : Inst) (a : Src0) (dst : Desc) : (s.ewResults i a dst).length ≤ dst.count := by
  unfold State.ewResults
  dsimp only
  rw [List.length_map, List.length_zip, List.length_zip]
  refine (min_le_left _ _).trans ((min_le_right _ _).trans ?_)
  split
  · simp [State.valsFor]
  · split <;> simp

theorem ewEncode_fits (s : State) (i : Inst) (a : Src0) (dst : Desc) : (s.ewEncode i a dst).1.fits dst :=
  encodeVals_fits (vs := (s.ewResults i a dst).map EwOut.val) _ _ (by simpa using ewResults_length_le s i a dst)

/-! ### Irregular results -/

/-- The elements of an irregular result have room in slot 0, and the further ones in slot 3, which is of no block format. -/
structure Irr.fits (x : Irr) (i : Inst) : Prop where
  vals   : x.vals.length ≤ (i.d 0).count
  second : x.second ≠ [] → fmtBlock (i.d 3).format = false ∧ x.second.length ≤ (i.d 3).count

/-- A result without further elements. -/
theorem fits_of_second_nil (h : x.vals.length ≤ (i.d 0).count) (hs : x.second = []) : x.fits i := ⟨h, fun hn => absurd hs hn⟩

theorem indices_length (s : State) (d : Desc) : (s.indices d).length = d.count := by simp [State.indices]

theorem gather_fits (hst : u.gatherStatus i (i.d 0) true = stOk) (hn : (i.d 0).ndim ≤ 5) :
    (s.gather i (i.d 0)).fits i := by
  obtain ⟨-, hrest⟩ := firstFail_head (by decide) hst
  obtain ⟨hshape, -⟩ := firstFail_head (by decide) hrest
  simp only [Bool.and_eq_true, beq_iff_eq] at hshape
  obtain ⟨-, hrows⟩ := hshape
  unfold State.gather
  dsimp only
  split
  · exact fits_of_second_nil (Nat.zero_le _) rfl
  · refine fits_of_second_nil (le_trans ?_ (rows_mul_le_count hn)) rfl
    exact length_flatMap_le (by rw [indices_length, hrows]) fun _ _ => by simp

theorem scatadd_fits (s : State) (i : Inst) (a : Src0) : (s.scatadd i a (i.d 0)).fits i := by
  unfold State.scatadd
  dsimp only
  split
  · exact fits_of_second_nil (Nat.zero_le _) rfl
  · exact fits_of_second_nil (by simp) rfl

theorem segment_fits (s : State) (i : Inst) (isMax : Bool) : (s.segment i isMax).fits i := by
  unfold State.segment
  dsimp only
  split
  · exact fits_of_second_nil (Nat.zero_le _) rfl
  · exact fits_of_second_nil (by simp) rfl

theorem putInOrder_length (before : (Val × Nat) → (Val × Nat) → Bool) (x : Val × Nat) (l : List (Val × Nat)) :
    (putInOrder before x l).length = l.length + 1 := by
  induction l with
  | nil => rfl
  | cons y r ih =>
    unfold putInOrder
    split <;> simp [ih]

theorem foldl_putInOrder_length (before : (Val × Nat) → (Val × Nat) → Bool) (l acc : List (Val × Nat)) :
    (l.foldl (fun a x => putInOrder before x a) acc).length = acc.length + l.length := by
  induction l generalizing acc with
  | nil => rfl
  | cons x r ih =>
    rw [List.foldl_cons, ih, putInOrder_length, List.length_cons]
    omega

theorem sortKeys_length (desc : Bool) (l : List (Val × Nat)) : (sortKeys desc l).length = l.length :=
  (foldl_putInOrder_length _ l []).trans (Nat.zero_add _)

theorem keyRows_length (s : State) (d : Desc) : (s.keyRows d).length = d.rows := by simp [State.keyRows]

theorem length_of_mem_keyRows {d : Desc} {l : List (Val × Nat)} (h : l ∈ s.keyRows d) : l.length = d.e 0 := by
  obtain ⟨r, -, rfl⟩ := List.mem_map.1 h
  simp

/-- Tensors of the same rows have room for each other's (R276). -/
theorem rows_mul_le_of_sameRows {d k : Desc} (h : d.sameRows k = true) (hn : d.ndim ≤ 5) : k.rows * k.e 0 ≤ d.count := by
  simp only [Desc.sameRows, Bool.and_eq_true, beq_iff_eq] at h
  rw [← h.1, ← h.2]
  exact rows_mul_le_count hn

theorem sort_fits (hst : u.sortStatus i = stOk) (hn : (i.d 0).ndim ≤ 5) (hn3 : (i.d 3).ndim ≤ 5) : (s.sort i).fits i := by
  obtain ⟨hfmt, hrest⟩ := firstFail_head (by decide) hst
  obtain ⟨hshape, -⟩ := firstFail_head (by decide) hrest
  simp only [Bool.and_eq_true, Bool.or_eq_true, Bool.not_eq_true', beq_iff_eq] at hfmt hshape
  obtain ⟨-, hfmt⟩ := hfmt
  obtain ⟨hkeys, hpay⟩ := hshape
  have hlen {l : List (Val × Nat)} (hl : l ∈ (s.keyRows (i.d 1)).map (sortKeys (i.code.flag 4))) :
      l.length = (i.d 1).e 0 := by
    obtain ⟨k, hk, rfl⟩ := List.mem_map.1 hl
    rw [sortKeys_length, length_of_mem_keyRows hk]
  refine ⟨?_, fun hne => ?_⟩
  · refine le_trans ?_ (rows_mul_le_of_sameRows hkeys hn)
    exact length_flatMap_le (by simp [keyRows_length]) fun l hl => by rw [List.length_map, hlen hl]
  · cases hp : i.has 2 with
    | false => simp [State.sort, hp] at hne
    | true =>
      rw [hp] at hfmt hpay
      obtain ⟨-, hfmt3⟩ := hfmt.resolve_left (by decide)
      obtain ⟨hrows2, hrows3⟩ := hpay.resolve_left (by decide)
      refine ⟨by rw [hfmt3]; rfl, le_trans ?_ (rows_mul_le_of_sameRows hrows3 hn3)⟩
      simp only [State.sort, hp, if_true]
      exact length_flatMap_le (by simp [keyRows_length]) fun l hl => by
        rw [List.length_map, hlen (List.fst_mem_of_mem_zipIdx hl)]

theorem topk_fits (hst : u.topkStatus i = stOk) (hn : (i.d 0).ndim ≤ 5) (hn3 : (i.d 3).ndim ≤ 5) : (s.topk i).fits i := by
  obtain ⟨hfmt, hrest⟩ := firstFail_head (by decide) hst
  obtain ⟨hshape, -⟩ := firstFail_head (by decide) hrest
  simp only [Bool.and_eq_true, beq_iff_eq, decide_eq_true_eq] at hfmt hshape
  obtain ⟨-, hfmt3⟩ := hfmt
  obtain ⟨⟨⟨⟨hd, hp⟩, hdrows⟩, hprows⟩, -⟩ := hshape
  have hlen {α : Type} (g : Val × Nat → α) : ((((s.keyRows (i.d 1)).map (sortKeys true)).map
      (fun l => l.take (bitsOf i.code.imm1 0 13))).flatMap (fun l => l.map g)).length ≤
        (i.d 1).rows * bitsOf i.code.imm1 0 13 := by
    refine length_flatMap_le (by simp [keyRows_length]) fun l hl => ?_
    obtain ⟨k, -, rfl⟩ := List.mem_map.1 hl
    rw [List.length_map]
    exact List.length_take_le _ _
  refine ⟨(hlen fun y => y.1).trans ?_, fun _ => ⟨by rw [hfmt3]; rfl, (hlen fun y => y.2).trans ?_⟩⟩
  · rw [← hdrows, ← hd]
    exact rows_mul_le_count hn
  · rw [← hprows, ← hp]
    exact rows_mul_le_count hn3

theorem hist_fits (hst : u.histStatus i = stOk) (hn : (i.d 0).ndim ≤ 5) : (s.hist i).fits i := by
  obtain ⟨-, hrest⟩ := firstFail_head (by decide) hst
  obtain ⟨hshape, -⟩ := firstFail_head (by decide) hrest
  simp only [Bool.and_eq_true, beq_iff_eq, decide_eq_true_eq] at hshape
  obtain ⟨hbins, hrow⟩ := hshape
  have hcount := rows_mul_le_count hn
  rw [hrow] at hcount
  refine fits_of_second_nil ?_ rfl
  rw [State.hist, List.length_map, List.length_range]
  omega

/-- A member whose checks pass as those of the last of its chain gives a result that fits, whatever state it runs on. -/
theorem irregularOf_fits (hst : u.memberStatus i a true = stOk) (hn : (i.d 0).ndim ≤ 5) (hn3 : (i.d 3).ndim ≤ 5)
    (hx : s.irregularOf i b (i.d 0) = some x) : x.fits i := by
  unfold State.irregularOf at hx
  split at hx
  case h_1 ho =>
    rw [State.memberStatus, ho] at hst
    exact Option.some.inj hx ▸ gather_fits hst hn
  case h_2 => exact Option.some.inj hx ▸ scatadd_fits s i b
  case h_3 => exact Option.some.inj hx ▸ segment_fits s i false
  case h_4 => exact Option.some.inj hx ▸ segment_fits s i true
  case h_5 ho =>
    rw [State.memberStatus, ho] at hst
    exact Option.some.inj hx ▸ sort_fits hst hn hn3
  case h_6 ho =>
    rw [State.memberStatus, ho] at hst
    exact Option.some.inj hx ▸ topk_fits hst hn hn3
  case h_7 ho =>
    rw [State.memberStatus, ho] at hst
    exact Option.some.inj hx ▸ hist_fits hst hn
  case h_8 => cases hx

end Sys2Proof.Machine
end

section
/-! The frame of a vector instruction (R172, R175, R177, R179 to R181, R189): whichever way its chain runs, it changes the
destinations of the last member, the counts of irregular operations and its members alone. -/

namespace Sys2Proof.Machine

section
variable {s u t : State} {i last : Inst} {ms init : List Inst} {r : Run}

/-! ### The checks of a chain (R174, R175) -/

/-- Where no first failure is found, no check fails. -/
theorem ok_of_findSome? {α : Type} {g : α → Nat} {l : List α}
    (h : (l.findSome? (fun x => if g x = stOk then none else some (g x))).getD stOk = stOk) : ∀ x ∈ l, g x = stOk := by
  intro x hx
  cases hf : l.findSome? (fun x => if g x = stOk then none else some (g x)) with
  | none => simpa using List.findSome?_eq_none_iff.1 hf x hx
  | some st =>
    obtain ⟨y, -, hy⟩ := List.exists_of_findSome?_eq_some hf
    rw [hf] at h
    simp only [Option.ite_none_left_eq_some, Option.some.injEq] at hy
    exact absurd (hy.2.trans h) hy.1

theorem ok_of_chainStatus (h : u.chainStatus ms = stOk) : u.chainOk ms = true ∧
    ∀ x ∈ ms.zipIdx, u.memberStatus x.1 (if x.2 = 0 then { d := x.1.d 1 }
      else { d := u.memberDst (ms.getD (x.2 - 1) {}) false, prev := some {} }) (x.2 + 1 == ms.length) = stOk := by
  unfold State.chainStatus at h
  split at h
  · exact absurd h (by decide)
  · rename_i hc
    split at h
    · exact absurd h (by decide)
    · exact ⟨by simpa using hc, ok_of_findSome? h⟩

/-- In a chain whose checks pass, those of its last member do. -/
theorem memberStatus_of_chainStatus (h : u.chainStatus (init ++ [last]) = stOk) :
    ∃ a : Src0, u.memberStatus last a true = stOk := by
  have hx := (ok_of_chainStatus h).2 (last, init.length) (by simp [List.zipIdx_append])
  simp only [List.length_append, List.length_singleton, beq_self_eq_true] at hx
  exact ⟨_, hx⟩

/-- A member of a chain before its last is element-wise or VEC.GATHER. -/
theorem kind_of_chainOk (h : u.chainOk (init ++ [last]) = true) {j : Inst} (hj : j ∈ init) :
    j.code.elementwise = true ∨ j.code.op = 0x3020 := by
  obtain ⟨k, hk, rfl⟩ := List.getElem_of_mem hj
  have hm : (init[k], k) ∈ (init ++ [last]).zipIdx := by
    rw [List.mem_zipIdx_iff_getElem?, List.getElem?_append_left hk, List.getElem?_eq_getElem hk]
  unfold State.chainOk at h
  simp only [Bool.and_eq_true, List.all_eq_true] at h
  have hx := h.2 _ hm
  simp only [Bool.or_eq_true, Bool.and_eq_true, beq_iff_eq, List.length_append, List.length_singleton] at hx
  obtain ⟨⟨⟨-, hkind⟩, -⟩, -⟩ := hx
  rcases hkind with ((he | hg) | hs) | h1
  · exact .inl he
  · exact .inr hg.2
  · omega
  · omega

/-! ### What a member adds to a run -/

/-- A member is left out after a failure, fails itself, or gives an irregular or an element-wise result. -/
theorem member_cases (s : State) (r : Run) (i : Inst) (last : Bool) : s.member r i last = r ∨
    (∃ st, st ≠ stOk ∧ s.member r i last = { r with status := st }) ∨
    (∃ x, s.irregularOf i (r.source i) (s.memberDst i last) = some x ∧ x.status = stOk ∧
      s.member r i last = r.irregular i (s.memberDst i last) x) ∨
    (s.irregularOf i (r.source i) (s.memberDst i last) = none ∧
      s.member r i last = r.elementwise s i (s.memberDst i last)) := by
  by_cases hr : r.status = stOk
  · cases hx : s.irregularOf i (r.source i) (s.memberDst i last) with
    | none => exact .inr (.inr (.inr ⟨rfl, member_elementwise hr hx⟩))
    | some x =>
      rw [member_irregular hr hx]
      by_cases hs : x.status = stOk
      · exact .inr (.inr (.inl ⟨x, rfl, hs, rfl⟩))
      · exact .inr (.inl ⟨x.status, hs, if_pos hs⟩)
  · exact .inl (member_of_failed hr last)

theorem gather_second (s : State) (i : Inst) (dst : Desc) : (s.gather i dst).second = [] := by
  unfold State.gather
  dsimp only
  split <;> rfl

/-- An element-wise member and VEC.GATHER have no further elements. -/
theorem member_second {b : Bool} (hr : r.second = []) (hk : i.code.elementwise = true ∨ i.code.op = 0x3020) :
    (s.member r i b).second = [] := by
  obtain h | ⟨st, -, h⟩ | ⟨x, hx, hs, h⟩ | ⟨-, h⟩ := member_cases s r i b
  · rw [h, hr]
  · rw [h, hr]
  · rw [h, irregular_eq hs]
    rcases hk with he | hg
    · rw [irregularOf_of_lt (op_of_elementwise he)] at hx
      cases hx
    · rw [State.irregularOf, hg] at hx
      exact Option.some.inj hx ▸ gather_second s i _
  · rw [h]
    exact hr

/-- A member counts for itself. -/
theorem id_of_mem_member_counts {b : Bool} {m : MemberCount} (hm : m ∈ (s.member r i b).counts) :
    m ∈ r.counts ∨ m.id = i.id := by
  obtain h | ⟨st, -, h⟩ | ⟨x, -, hs, h⟩ | ⟨-, h⟩ := member_cases s r i b
  · exact .inl (h ▸ hm)
  · rw [h] at hm
    exact .inl hm
  · rw [h, irregular_eq hs] at hm
    exact (List.mem_append.1 hm).imp_right fun hm => by rw [List.mem_singleton.1 hm]
  · rw [h] at hm
    exact (List.mem_append.1 hm).imp_right fun hm => by rw [List.mem_singleton.1 hm]

/-! ### The run of a chain -/

theorem id_of_mem_runMembers_counts {m : MemberCount} (hm : m ∈ (s.runMembers ms).counts) : ∃ j ∈ ms, j.id = m.id := by
  have hall : ∀ m ∈ (s.runMembers ms).counts, ∃ j ∈ ms, j.id = m.id :=
    List.foldlRecOn (motive := fun r : Run => ∀ m ∈ r.counts, ∃ j ∈ ms, j.id = m.id) _ _
      (fun _ hm => absurd hm List.not_mem_nil) fun r hr x hx m hm => by
        rcases id_of_mem_member_counts hm with hm | hm
        · exact hr m hm
        · exact ⟨x.1, List.fst_mem_of_mem_zipIdx hx, hm.symm⟩
  exact hall m hm

/-- The run of a chain is that of its last member after one without further elements. -/
theorem runMembers_last (h : u.chainOk (init ++ [last]) = true) (s : State) :
    ∃ r : Run, r.second = [] ∧ s.runMembers (init ++ [last]) = s.member r last true := by
  refine ⟨init.zipIdx.foldl (fun r x => s.member r x.1 (x.2 + 1 == (init ++ [last]).length)) {}, ?_, ?_⟩
  · exact List.foldlRecOn (motive := fun r : Run => r.second = []) _ _ rfl fun r hr x hx =>
      member_second hr (kind_of_chainOk h (List.fst_mem_of_mem_zipIdx hx))
  · simp [State.runMembers, List.zipIdx_append]

/-- A run that may be stored: it has not failed, its result is one for slot 0 of `last` with room for it, and slot 3 has room
for the further elements. -/
structure Run.fits (r : Run) (last : Inst) : Prop where
  status : r.status = stOk
  prev   : ∃ e : Encoded, r.prev = some (last.d 0, e) ∧ e.fits (last.d 0)
  second : r.second ≠ [] → fmtBlock (last.d 3).format = false ∧ r.second.length ≤ (last.d 3).count

/-- A chain whose checks pass fails on an index list, or gives a result that its last member's destinations have room for. -/
theorem runMembers_fits (h : u.chainStatus ms = stOk) (hl : ms.getLast? = some last) (hn : (last.d 0).ndim ≤ 5)
    (hn3 : (last.d 3).ndim ≤ 5) (s : State) (hok : (s.runMembers ms).status = stOk) : (s.runMembers ms).fits last := by
  obtain ⟨init, rfl⟩ := List.getLast?_eq_some_iff.1 hl
  obtain ⟨a, hst⟩ := memberStatus_of_chainStatus h
  obtain ⟨r, hr, hrun⟩ := runMembers_last (ok_of_chainStatus h).1 s
  rw [hrun] at hok ⊢
  have hr0 : r.status = stOk := by
    by_contra hne
    exact hne (member_of_failed hne true ▸ hok)
  cases hx : s.irregularOf last (r.source last) (last.d 0) with
  | none =>
    rw [member_last_elementwise hr0 hx]
    exact ⟨hr0, ⟨_, rfl, ewEncode_fits s last _ _⟩, fun hne => absurd hr hne⟩
  | some x =>
    have hfits := irregularOf_fits hst hn hn3 hx
    rw [member_last_irregular hr0 hx] at hok ⊢
    have hxs : x.status = stOk := by
      by_contra hne
      rw [Run.irregular, if_pos hne] at hok
      exact hne hok
    rw [irregular_eq hxs]
    exact ⟨hr0, ⟨_, rfl, encodeVals_fits _ _ hfits.vals⟩, hfits.second⟩

/-- A chain through which tiles flow cannot fail. -/
theorem runMembers_status_of_flows (h : flows ms = true) (s : State) : (s.runMembers ms).status = stOk :=
  List.foldlRecOn (motive := fun r : Run => r.status = stOk) _ _ rfl fun r hr x hx => by
    have he := List.all_eq_true.1 h x.1 (List.fst_mem_of_mem_zipIdx hx)
    rw [member_elementwise hr (irregularOf_of_lt (op_of_elementwise he) _ _)]
    exact hr

/-! ### What the runs leave alone -/

/-- The fields that a vector instruction counts in. -/
def vecFields : List Fld := [F.vecEmptySegments, F.vecIndexOob, F.vecFtqUsed, F.evtStatusDropped]

/-- A byte of a destination of the last member. -/
def Inst.storesVec (last : Inst) (space a : Nat) : Prop := (last.d 0).storesTo space a ∨ (last.d 3).storesTo space a

end

section
variable {stored : Nat → Nat → Prop} {ids : List Nat} {valley : Bool} {s u t : State} {i last : Inst} {ms : List Inst}
  {r : Run}

theorem dataFrame_irregularCounts (m : MemberCount) : dataFrame s (s.irregularCounts m) stored vecFields ids valley := by
  obtain h | h | ⟨j, h⟩ := irregularCounts_cases s m
  · rw [h]
    exact dataFrame_refl
  · rw [h]
    exact dataFrame_addF (by decide) _
  · rw [h]
    exact dataFrame_trans (dataFrame_addF (by decide) _) (dataFrame_evI (by decide) _ _ _ _ j)

theorem dataFrame_ends (hr : ∀ m ∈ r.counts, m.id ∈ ids) : dataFrame s (r.ends s) stored vecFields ids valley :=
  dataFrame_trans (dataFrame_foldl fun _ m => dataFrame_irregularCounts m)
    (dataFrame_foldl_mem fun m hm _ => dataFrame_modInst (hr m hm) fun _ => rfl)

theorem dataFrame_stored {e : Encoded} (he : e.fits (last.d 0))
    (hs : r.second ≠ [] → fmtBlock (last.d 3).format = false ∧ r.second.length ≤ (last.d 3).count) :
    dataFrame s (r.stored s (last.d 0) e last) last.storesVec vecFields ids valley := by
  have hfirst : dataFrame s (match r.only with
      | none => s.wrEncoded (last.d 0) e
      | some rows => s.wrPart (last.d 0) e (fun k => rows.contains (k / (last.d 0).e 0)))
      last.storesVec vecFields ids valley := by
    cases r.only with
    | none => exact dataFrame_wrEncoded (fun _ _ h => .inl h) he
    | some rows => exact dataFrame_wrPart (fun _ _ h => .inl h) he _
  unfold Run.stored
  by_cases hne : r.second = []
  · rw [hne]
    exact hfirst
  · obtain ⟨hb, hl⟩ := hs hne
    have hemp : r.second.isEmpty = false := by simpa using hne
    simp only [hemp, Bool.false_eq_true, if_false]
    exact dataFrame_trans hfirst (dataFrame_wrElems (fun _ _ h => .inr h) hb hl)

/-- What is known of a chain that runs: its checks pass, `last` is its last member, whose destinations have at most five
dimensions, and its members are among `ids`. -/
structure runsChain (u : State) (ms : List Inst) (last : Inst) (ids : List Nat) : Prop where
  checks : u.chainStatus ms = stOk
  isLast : ms.getLast? = some last
  ndim   : (last.d 0).ndim ≤ 5 ∧ (last.d 3).ndim ≤ 5
  ids    : ∀ j ∈ ms, j.id ∈ ids

theorem runsChain.fits (h : runsChain u ms last ids) (s : State) (hok : (s.runMembers ms).status = stOk) :
    (s.runMembers ms).fits last := runMembers_fits h.checks h.isLast h.ndim.1 h.ndim.2 s hok

theorem runsChain.counts (h : runsChain u ms last ids) {m : MemberCount} (hm : m ∈ (s.runMembers ms).counts) : m.id ∈ ids := by
  obtain ⟨j, hj, he⟩ := id_of_mem_runMembers_counts hm
  exact he ▸ h.ids j hj

/-- A chain that runs whole (R175). -/
theorem dataFrame_runWhole (h : runsChain u ms last i.members) :
    dataFrame s (s.runWhole i ms) last.storesVec vecFields i.members valley := by
  by_cases hok : (s.runMembers ms).status = stOk
  · obtain ⟨-, ⟨e, hp, he⟩, hs⟩ := h.fits s hok
    rw [runWhole_stores hok hp h.isLast]
    exact dataFrame_trans (dataFrame_stored he hs) (dataFrame_ends fun m => h.counts)
  · rw [runWhole_fails hok]
    exact dataFrame_endChain (fun _ hm => hm) _

/-- A chain that runs on one finished tile (R177). -/
theorem dataFrame_runTile (h : runsChain u ms last i.members) (hf : flows ms = true) (k : Nat) :
    dataFrame s (s.runTile i ms k) last.storesVec vecFields i.members valley := by
  obtain ⟨-, ⟨e, hp, he⟩, -⟩ := h.fits s (runMembers_status_of_flows hf s)
  unfold State.runTile
  simp only [hp]
  exact dataFrame_trans (dataFrame_wrPart (fun _ _ hs => .inl hs) he _)
    (dataFrame_foldl_mem fun m hm _ => dataFrame_modInst (h.counts hm) fun _ => rfl)

/-- A consumer whose producer still runs (R177). -/
theorem dataFrame_feed (h : runsChain u ms last i.members) (hi : i.id ∈ i.members) (hw : s.sourceWhole i = false) :
    dataFrame s (s.feed i ms) last.storesVec vecFields i.members valley := by
  unfold State.feed
  simp only [hw, Bool.not_false, if_true]
  have htiles : dataFrame s (if flows ms then (s.tilesFor i).foldl (fun t k => t.runTile i ms k) s else s)
      last.storesVec vecFields i.members valley := by
    split
    · exact dataFrame_foldl fun _ k => dataFrame_runTile h (by assumption) k
    · exact dataFrame_refl
  have hstarts (t : State) : dataFrame t (i.members.foldl (fun t m => t.modInst m (fun j => { j with phase := .running })) t)
      last.storesVec vecFields i.members valley :=
    dataFrame_foldl_mem fun m hm _ => dataFrame_modInst hm fun _ => rfl
  refine dataFrame_trans (dataFrame_trans (dataFrame_trans htiles (hstarts _)) ?_) (dataFrame_consumePosts i)
  exact dataFrame_modInst hi fun _ => rfl

/-- However the start of a chain goes. -/
theorem dataFrame_runVec (hi : i.id ∈ i.members) (hl : (i.members.filterMap s.inst).getLast? = some last)
    (hn : (last.d 0).ndim ≤ 5 ∧ (last.d 3).ndim ≤ 5) :
    dataFrame s (s.runVec i) last.storesVec vecFields i.members valley := by
  by_cases hst : s.chainStatus (i.members.filterMap s.inst) = stOk
  · have hc : runsChain s (i.members.filterMap s.inst) last i.members := ⟨hst, hl, hn, fun j hj => by
      obtain ⟨m, hm, hj⟩ := List.mem_filterMap.1 hj
      exact inst_id hj ▸ hm⟩
    cases hw : s.sourceWhole i with
    | true =>
      rw [runVec_whole hst hw]
      exact dataFrame_trans (dataFrame_consumePosts i) (dataFrame_runWhole hc)
    | false =>
      rw [runVec_feeds hst hw]
      exact dataFrame_feed hc hi hw
  · rw [runVec_fails hst]
    exact dataFrame_trans (dataFrame_consumePosts i) (dataFrame_endChain (fun _ hm => hm) _)

end

/-! ### The statement -/

/-- Settles O53: the turn of a later member changes nothing, and that of the first runs the chain, which keeps the frame. -/
theorem vecFrame : Obligations.VecFrame := by
  intro s id i c op hc h hn
  have hexec : exec c s = s.startVec op id := exec_vec (i := i) <| by
    simp only [List.mem_append, List.mem_map, Prod.mk.injEq] at hc
    rcases hc with hc | ⟨⟨c', op', st, x⟩, hc, rfl, rfl⟩
    · exact .inl hc
    · exact .inr ⟨st, x, hc⟩
  rw [hexec]
  by_cases hl : i.members.head? = some id
  · have hid : i.id ∈ i.members := inst_id h.here ▸ List.mem_of_mem_head? hl
    have hne : i.members.filterMap s.inst ≠ [] := fun he =>
      absurd (he ▸ List.mem_filterMap.2 ⟨id, List.mem_of_mem_head? hl, h.here⟩) List.not_mem_nil
    obtain ⟨last, hlast⟩ := Option.ne_none_iff_exists'.1 (fun he => hne (List.getLast?_eq_none_iff.1 he))
    obtain ⟨m, hm, hj⟩ := List.mem_filterMap.1 (List.mem_of_getLast? hlast)
    refine ⟨_, startVec_eq h hl, dataFrame_trans ?_ (dataFrame_afterStart id)⟩
    have hframe := dataFrame_runVec (valley := false) hid hlast (hn m hm last hj)
    exact ⟨bytesKept_mono (fun _ _ hs => ⟨last, hlast, hs⟩) hframe.bytes, hframe.fields, hframe.insts, hframe.rest⟩
  · exact ⟨s, startVec_later h hl, dataFrame_refl⟩

end Sys2Proof.Machine
end

section
/-! The tree of a bucket (R192): places and ranks correspond one to one, so parents and children agree. -/

namespace Sys2Proof.Machine

variable {s : State} {r p : Nat}

/-! ### Places and ranks of a tree -/

theorem posOf_congr {u : State} (h : s.n = u.n) (b r : Nat) : s.posOf b r = u.posOf b r := by
  rw [State.posOf, State.posOf, h]

/-- The place `r - b mod N` of a rank, moved on by `b`, is the rank again. -/
theorem sub_mod_add_mod_self {n : Nat} (hr : r < n) (b : Nat) : (r + n - b % n + b) % n = r := by
  have hb : b % n < n := Nat.mod_lt _ (by omega)
  have hsum : r + n - b % n + b = r + n * (b / n + 1) := by
    have := Nat.mod_add_div b n
    rw [Nat.mul_add_one]
    omega
  rw [hsum, Nat.add_mul_mod_self_left, Nat.mod_eq_of_lt hr]

theorem posOf_lt (hr : r < s.n) (b : Nat) : s.posOf b r < s.n := Nat.mod_lt _ (by omega)

theorem atPos_lt (hr : r < s.n) (b p : Nat) : s.atPos b p < s.n := Nat.mod_lt _ (by omega)

/-- A rank stands at its place. -/
theorem atPos_posOf (hr : r < s.n) (b : Nat) : s.atPos b (s.posOf b r) = r := by
  rw [State.atPos, State.posOf, Nat.mod_add_mod, sub_mod_add_mod_self hr]

/-- The rank at a place has that place. -/
theorem posOf_atPos (hp : p < s.n) (b : Nat) : s.posOf b (s.atPos b p) = p := by
  have hb : b % s.n < s.n := Nat.mod_lt _ (by omega)
  calc s.posOf b (s.atPos b p) = ((p + b) % s.n + (s.n - b % s.n)) % s.n := by
        rw [State.posOf, State.atPos, Nat.add_sub_assoc hb.le]
    _ = (p + s.n - b % s.n + b) % s.n := by
        rw [Nat.mod_add_mod]
        congr 1
        omega
    _ = p := sub_mod_add_mod_self hp b

theorem atPos_eq_iff (hp : p < s.n) (hr : r < s.n) (b : Nat) : s.atPos b p = r ↔ s.posOf b r = p :=
  ⟨fun h => h ▸ posOf_atPos hp b, fun h => h ▸ atPos_posOf hr b⟩

/-! ### Owner, parent and children -/

theorem owns_iff_posOf (s : State) (b : Nat) : s.owns b = true ↔ s.posOf b s.me = 0 := beq_iff_eq

theorem owns_iff (hm : s.me < s.n) (b : Nat) : s.owns b = true ↔ s.me = b % s.n := by
  rw [owns_iff_posOf, ← atPos_eq_iff (by omega) hm, State.atPos, Nat.zero_add, eq_comm]

theorem parentIn_eq_none_iff (s : State) (b : Nat) : s.parentIn b = none ↔ s.owns b = true := by
  simp [owns_iff_posOf, State.parentIn]

theorem parentIn_eq_some_iff (hm : s.me < s.n) (hr : r < s.n) (b : Nat) :
    s.parentIn b = some r ↔ s.posOf b s.me ≠ 0 ∧ s.posOf b r = (s.posOf b s.me - 1) / 2 := by
  have hlt : (s.posOf b s.me - 1) / 2 < s.n := by
    have := posOf_lt hm b
    omega
  rw [← atPos_eq_iff hlt hr]
  simp [State.parentIn]

theorem mem_childrenIn_iff (hr : r < s.n) (b : Nat) : r ∈ s.childrenIn b ↔
    s.posOf b r = 2 * s.posOf b s.me + 1 ∨ s.posOf b r = 2 * s.posOf b s.me + 2 := by
  have place : r ∈ s.childrenIn b ↔ ∃ q, (q = 2 * s.posOf b s.me + 1 ∨ q = 2 * s.posOf b s.me + 2) ∧ q < s.n ∧
      s.atPos b q = r := by
    simp [State.childrenIn, and_assoc]
  rw [place]
  constructor
  · rintro ⟨q, hq, hlt, hat⟩
    rwa [(atPos_eq_iff hlt hr b).1 hat]
  · exact fun h => ⟨_, h, posOf_lt hr b, atPos_posOf hr b⟩

/-- A parent is a rank of the job, and another one. -/
theorem parentIn_lt_ne {b : Nat} (hm : s.me < s.n) (h : s.parentIn b = some r) : r < s.n ∧ r ≠ s.me := by
  have hr : r < s.n := by
    simp only [State.parentIn, Option.ite_none_left_eq_some, Option.some.injEq] at h
    exact h.2 ▸ atPos_lt hm b _
  refine ⟨hr, ?_⟩
  rintro rfl
  obtain ⟨h0, hhalf⟩ := (parentIn_eq_some_iff hm hm b).1 h
  omega

theorem childrenIn_alone (hn : s.n = 1) (b : Nat) : s.childrenIn b = [] := by
  simp [State.childrenIn, hn]

/-- Settles O51: in terms of places, the children of place p stand at 2p + 1 and 2p + 2, and its parent at (p - 1) / 2. -/
theorem treesAgree : Obligations.TreesAgree := by
  refine ⟨fun s u b hn hs hu => ?_, fun s b hm => ⟨owns_iff hm b, parentIn_eq_none_iff s b, fun r => parentIn_lt_ne hm⟩,
    fun s b hn hm => ?_⟩
  · rw [mem_childrenIn_iff (hn ▸ hu), parentIn_eq_some_iff hu (hn ▸ hs), posOf_congr hn, posOf_congr hn]
    omega
  · have howns : s.owns b = true := (owns_iff (by omega) b).2 (by rw [hm, hn, Nat.mod_one])
    exact ⟨howns, (parentIn_eq_none_iff s b).2 howns, childrenIn_alone hn b⟩

end Sys2Proof.Machine
end

section
/-! The COL and SVC instructions and the release of a bucket (R23, R191, R203, R205, R220, R295 to R299, R389): what each does
by the status of its checks. -/

namespace Sys2Proof.Machine

variable {s : State} {id : Nat} {i : Inst}

/-! ### COL.BUCKET and BUCKET_RELEASE (R23, R191, R296) -/

/-- A bucket joins the step, and its instruction stays in flight. -/
def State.bucketJoins (s : State) (id : Nat) (i : Inst) : State :=
  let y := i.code.bucketOf
  ({ s with col := { s.col with
    buckets := s.col.buckets ++ [{ b := y.1, id := id, layer := y.2.1, first := y.2.2.1, count := y.2.2.2, grad := i.d 0 }],
    admitted := s.col.admitted ++ [y] } } : State).putInst { i with phase := .running }

theorem exec_colBucket (h : s.mayStart 0x7000 id i) : exec (.colBucket id) s = .next
    ((if s.bucketStatus i = stOk then s.bucketJoins id i else s.putInst (i.end_ (s.bucketStatus i))).afterStart id) :=
  start_run h (ite_not _ (s.putInst (i.end_ (s.bucketStatus i))) (s.bucketJoins id i))

/-- Outside a step a COL.BUCKET is not permitted, whatever else its checks find. -/
theorem bucketStatus_noStep (hs : i.step = none) : s.bucketStatus i = stNotPermitted := by
  simp [State.bucketStatus, firstFail, hs]

/-- An instruction in flight before `id` writes a part of the gradient of `i`. -/
def State.gradientPending (s : State) (id : Nat) (i : Inst) : Bool :=
  s.sch.inflight.any (fun j => decide (j.id < id) && j.access.any (fun x =>
    x.1 && (i.d 0).stor.any (fun z => x.2.overlaps s.masters z)))

theorem gradientPending_eq_false_iff : s.gradientPending id i = false ↔ ∀ j ∈ s.sch.inflight, j.id < id →
    ∀ x ∈ j.access, x.1 = true → ∀ z ∈ (i.d 0).stor, x.2.overlaps s.masters z = false := by
  simp [State.gradientPending]

theorem exec_bucketRelease (hi : s.inst id = some i) (hop : i.code.op = 0x7000) (hp : i.phase = .running)
    (hr : i.released = false) : exec (.bucketRelease id) s =
      if s.gradientPending id i then .next s else .next (s.putInst { i with released := true }) := by
  have hrun : ¬ (i.code.op ≠ 0x7000 ∨ i.phase ≠ .running ∨ i.released) := by simp [hop, hp, hr]
  have hexec : exec (.bucketRelease id) s = execBucketRelease id s := rfl
  rw [hexec, execBucketRelease]
  simp only [hi, if_neg hrun]
  rfl

/-! ### COL.PASS (R220, R297) -/

/-- The checks of a COL.PASS: its policy under VETO, then its queue. -/
def Inst.passStatus (i : Inst) : Nat :=
  firstFail [(!i.code.flag 3 || i.code.imm0 % 4 != 3, stImmInvalid), (i.step.isSome, stNotPermitted)]

/-- The pass of the rank begins with `i`. -/
def State.passBegins (s : State) (id : Nat) (i : Inst) : State :=
  (s.putInst { i with phase := .running }).modPass (fun p => { p with passId := some id, request := i.code.imm0 % 4 })

theorem exec_colPass (h : s.mayStart 0x7001 id i) : exec (.colPass id) s = .next
    ((if i.passStatus ≠ stOk then s.putInst (i.end_ i.passStatus)
      else if i.code.flag 3 then (s.passBegins id i).failCheck rsnRequest schedDetail
      else s.passBegins id i).afterStart id) :=
  start_eq h _

theorem passStatus_vetoPolicy (hv : i.code.flag 3 = true) (hp : i.code.imm0 % 4 = 3) : i.passStatus = stImmInvalid := by
  simp [Inst.passStatus, firstFail, hv, hp]

theorem passStatus_policyFits (hp : i.code.flag 3 = false ∨ i.code.imm0 % 4 ≠ 3) :
    i.passStatus = if i.step.isSome then stOk else stNotPermitted := by
  rcases hp with hp | hp <;> simp [Inst.passStatus, firstFail, hp]

theorem exec_colPass_begins (h : s.mayStart 0x7001 id i) (hs : i.step.isSome = true)
    (hp : i.code.flag 3 = false ∨ i.code.imm0 % 4 ≠ 3) : exec (.colPass id) s = .next
      ((if i.code.flag 3 then (s.passBegins id i).failCheck rsnRequest schedDetail else s.passBegins id i).afterStart id) := by
  rw [exec_colPass h, passStatus_policyFits hp, if_pos hs, if_neg (not_not.2 rfl)]

theorem exec_colPass_fails (h : s.mayStart 0x7001 id i) {st : Nat} (hst : i.passStatus = st) (hne : st ≠ stOk) :
    exec (.colPass id) s = .next ((s.putInst (i.end_ st)).afterStart id) := by
  rw [exec_colPass h, hst, if_pos hne]

/-! ### COL.UPDCFG (R203, R297) -/

/-- The image of a COL.UPDCFG is misaligned, beyond HBM or malformed. -/
def State.imageBad (s : State) (i : Inst) : Bool :=
  let a := bitsOf i.code.imm1 0 48
  a % 64 ≠ 0 || decide (hbmTop < a + 64) || !updImageOk (s.rdBytes 1 a 64)

theorem imageBad_iff : let a := bitsOf i.code.imm1 0 48
    s.imageBad i = true ↔ a % 64 ≠ 0 ∨ hbmTop < a + 64 ∨ updImageOk (s.rdBytes 1 a 64) = false := by
  simp [State.imageBad, or_assoc]

theorem exec_colUpdcfg (h : s.mayStart 0x7002 id i) : exec (.colUpdcfg id) s = .next
    ((if s.imageBad i then s.putInst (i.end_ stImmInvalid)
      else (({ s with col := { s.col with updcfg := s.col.updcfg ++
        [(bitsOf i.code.imm2 0 12, s.rdBytes 1 (bitsOf i.code.imm1 0 48) 64)] } } : State).updatesIfIdle).putInst
          (i.finish 0 0 0)).afterStart id) :=
  start_eq h _

/-! ### The SVC instructions (R298, R299, R389) -/

theorem exec_svcSeed (h : s.mayStart 0x9000 id i) (ht : s.svcTurn i = true) : exec (.svcSeed id) s = .next
    (((s.modPass (fun p => if s.pass.launched then { p with nextSeed := some i.code.imm1 } else
      { p with seed := i.code.imm1, nextSeed := none })).putInst (i.finish 0 0 0)).afterStart id) := by
  refine startIf_run h ht ?_
  cases s.pass.launched <;> rfl

/-- The status of the checks of a SVC.CKPT: its operand is checked where its flag names one. -/
def Inst.ckptStatus (i : Inst) (size : Nat) : Nat := if i.code.flag 3 then svcOperand (i.d 0) size else stOk

theorem exec_svcCkpt_waits (h : s.mayStart 0x9001 id i) (ht : s.svcTurn i = true)
    (hst : i.ckptStatus (ckptBytes s.load.params s.avgSlots s.load.buckets) = stOk) : exec (.svcCkpt id) s = .next
      (((s.putInst { i with phase := .running }).modPass (fun p => { p with ckptIds := p.ckptIds ++ [id] })).afterStart id) :=
  startIf_run h ht (if_neg (not_not.2 hst))

theorem exec_svcCkpt_fails (h : s.mayStart 0x9001 id i) (ht : s.svcTurn i = true) {st : Nat}
    (hst : i.ckptStatus (ckptBytes s.load.params s.avgSlots s.load.buckets) = st) (hne : st ≠ stOk) :
    exec (.svcCkpt id) s = .next ((s.putInst (i.end_ st)).afterStart id) := by
  subst hst
  exact startIf_run h ht (if_pos hne)

theorem exec_svcScrub_runs (h : s.mayStart 0x9002 id i) (ht : s.svcTurn i = true) (hd : s.f F.secStatusDebug ≠ 2)
    (hr : s.fb F.secScrubRunning = false) : exec (.svcScrub id) s = .next
      (((s.putInst { i with phase := .running }).startScrub s.freeTiles false).afterStart id) :=
  startIf_run h (by simp [ht, hr]) (if_neg hd)

theorem exec_svcScrub_halted (h : s.mayStart 0x9002 id i) (ht : s.svcTurn i = true) (hd : s.f F.secStatusDebug = 2) :
    exec (.svcScrub id) s = .next ((s.putInst (i.end_ stNotPermitted)).afterStart id) :=
  startIf_run h (by simp [ht, hd]) (if_pos hd)

theorem exec_svcRecord_writes (h : s.mayStart 0x9003 id i) (ht : s.svcTurn i = true)
    (hst : svcOperand (i.d 0) 256 = stOk) : exec (.svcRecord id) s = .next
      (((s.wrElems (i.d 0) 0 (s.pup.lastRec.map (fun x => x.toNat))).putInst
        (i.finish 0 0 s.pup.lastRec.length)).afterStart id) :=
  startIf_run h ht (if_neg (not_not.2 hst))

theorem exec_svcRecord_fails (h : s.mayStart 0x9003 id i) (ht : s.svcTurn i = true)
    (hst : svcOperand (i.d 0) 256 ≠ stOk) :
    exec (.svcRecord id) s = .next ((s.putInst (i.end_ (svcOperand (i.d 0) 256))).afterStart id) :=
  startIf_run h ht (if_pos hst)

/-! ### The statement -/

/-- Settles O11: each instruction by what its checks find. -/
theorem collectiveAndServiceInstructions : Obligations.CollectiveAndServiceInstructions := by
  refine ⟨fun s id i => ?_, fun s id i ht => ?_⟩
  · refine ⟨exec_colBucket, fun h hs => ?noStep, fun h hs hv => ?pass, fun h hs hv hp => ?veto,
      fun h hv hp => exec_colPass_fails h (passStatus_vetoPolicy hv hp) (by decide), fun h hp hs => ?passNoStep,
      fun h h0 h1 h2 => ?image, fun h hbad => ?imageBad, fun h => start_eq h _,
      fun hi hop hp hr => ⟨fun hclear => ?clear, fun hclear => ?pending⟩⟩
    case noStep => rw [exec_colBucket h, bucketStatus_noStep hs, if_neg (by decide)]
    case pass =>
      rw [exec_colPass_begins h hs (.inl hv), if_neg (by simp [hv])]
      rfl
    case veto =>
      rw [exec_colPass_begins h hs (.inr hp), if_pos hv]
      rfl
    case passNoStep => exact exec_colPass_fails h ((passStatus_policyFits hp).trans (by simp [hs])) (by decide)
    case image => rw [exec_colUpdcfg h, if_neg (by simp [imageBad_iff, h0, h1, h2])]
    case imageBad => rw [exec_colUpdcfg h, if_pos (imageBad_iff.2 hbad)]
    case clear =>
      rw [exec_bucketRelease hi hop hp hr, gradientPending_eq_false_iff.2 hclear]
      rfl
    case pending =>
      rw [exec_bucketRelease hi hop hp hr, if_pos (Bool.eq_true_of_not_eq_false (mt gradientPending_eq_false_iff.1 hclear))]
  · refine ⟨fun h => exec_svcSeed h ht, fun h hst => exec_svcCkpt_waits h ht ?fits, fun h hv hst => ?unfit,
      fun h => exec_svcScrub_runs h ht, fun h => exec_svcScrub_halted h ht, fun h => exec_svcRecord_writes h ht,
      fun h => exec_svcRecord_fails h ht⟩
    case fits => rcases hst with hst | hst <;> simp [Inst.ckptStatus, hst]
    case unfit => exact exec_svcCkpt_fails h ht (if_pos hv) hst

end Sys2Proof.Machine
end

section
/-! Reduction blocks that arrive (R197, R198, R201, R202, R210, R211, R215): how a block fares, what one that passes does
to its bucket, and the seven commands by these. -/

namespace Sys2Proof.Machine

variable {s : State} {c f n : Nat} {k : RedBlock} {x : Bucket} {act : State → Bucket → State} {i : Instr}

/-! ### How a block fares (R198) -/

theorem arrive_fenced (h : s.fencedFrom f = true) : s.arrive f k act = s := if_pos (by simp [h])

/-- From a rank that no fence holds back, to a loaded device, the checks decide. -/
theorem arrive_open (hl : s.load.loaded = true) (h : s.fencedFrom f = false) : s.arrive f k act = match s.arrival k with
    | .drop => s
    | .counter => if s.pass.launched then s.failCheck rsnCounter netDetail else s
    | .hold => { s with col := { s.col with early := s.col.early ++ [(f, k)] } }
    | .mismatch => s.failCheck rsnBucket netDetail
    | .good x => act s x :=
  if_neg (by simp [h, hl])

theorem arrive_good (hl : s.load.loaded = true) (h : s.fencedFrom f = false) (ha : s.arrival k = .good x) :
    s.arrive f k act = act s x := by
  rw [arrive_open hl h, ha]

theorem arrival_counter (h : k.step ≠ s.stepNow) : s.arrival k = .counter := if_pos h

theorem arrival_ended {e : Ended} (h : k.step = s.stepNow)
    (he : s.col.ends.find? (fun e => e.b == k.bucket) = some e) :
    s.arrival k = if e.attempt ≤ k.attempt && redDisagrees k e.attempt e.eb e.count then .mismatch else .drop := by
  rw [State.arrival, if_neg (not_not.2 h), he]

/-- A block that comes before its bucket has joined the step. -/
theorem arrival_noBucket (h : k.step = s.stepNow) (he : s.col.ends.find? (fun e => e.b == k.bucket) = none)
    (hb : s.bucket k.bucket = none) : s.arrival k = .hold := by
  rw [State.arrival, if_neg (not_not.2 h), he, hb]

/-- A block that comes before its bucket has entered the interface. -/
theorem arrival_notEntered (h : k.step = s.stepNow) (he : s.col.ends.find? (fun e => e.b == k.bucket) = none)
    (hb : s.bucket k.bucket = some x) (hx : x.entered = false) : s.arrival k = .hold := by
  rw [State.arrival, if_neg (not_not.2 h), he, hb]
  exact if_pos (by simp [hx])

theorem arrival_olderAttempt (h : k.step = s.stepNow) (he : s.col.ends.find? (fun e => e.b == k.bucket) = none)
    (hb : s.bucket k.bucket = some x) (hx : x.entered = true) (ha : k.attempt < x.attempt) : s.arrival k = .drop := by
  rw [State.arrival, if_neg (not_not.2 h), he, hb]
  exact (if_neg (by simp [hx])).trans (if_pos ha)

/-! ### What a block that passes does to its bucket -/

/-- The bucket with one more block of a child. -/
def Bucket.holdBlock (x : Bucket) (c : Nat) (k : RedBlock) : Bucket := { x with blocks := x.blocks ++ [(c, k)] }

/-- A block from a child is held, or at the owner its overflow starts a re-reduction (R197, R202). -/
theorem takeUp_sum (hc : c ∈ s.childrenIn x.b) (hk : k.kind ≠ 4) : State.takeUp c k s x =
    if k.ov && s.owns x.b && x.mayRetry then s.reReduce x else s.putBucket (x.holdBlock c k) := by
  rw [State.takeUp, if_neg (by simpa using hc), if_neg hk]
  rfl

theorem takeUp_held (hc : c ∈ s.childrenIn x.b) (hk : k.kind ≠ 4)
    (h : k.ov = false ∨ s.owns x.b = false ∨ x.mayRetry = false) :
    State.takeUp c k s x = s.putBucket (x.holdBlock c k) := by
  rw [takeUp_sum hc hk, if_neg]
  rcases h with h | h | h <;> simp [h]

theorem takeUp_overflows (hc : c ∈ s.childrenIn x.b) (hk : k.kind ≠ 4) (hov : k.ov = true) (ho : s.owns x.b = true)
    (hr : x.mayRetry = true) : State.takeUp c k s x = s.reReduce x := by
  rw [takeUp_sum hc hk, if_pos (by simp [hov, ho, hr])]

theorem takeUp_probe (hc : c ∈ s.childrenIn x.b) (hk : k.kind = 4) :
    State.takeUp c k s x = (s.putBucket { x with childPk := mput c k.pk x.childPk }).probeOn x.b := by
  rw [State.takeUp, if_neg (by simpa using hc), if_pos hk]

theorem takeDown_next (ho : s.owns x.b = false) (hf : k.first = x.got) : State.takeDown k s x =
    ((s.sendReds (s.childrenIn x.b) k).putShadows (s.bucketBase x + k.first)
      (k.body.map (fun z => unsignedOf 16 z))).putBucket { x with got := k.first + k.body.length } :=
  if_neg (by simp [ho, hf])

theorem takeProbeDown_probing (ho : s.owns x.b = false) (hp : x.probing = true) :
    State.takeProbeDown k s x = (s.sendReds (s.childrenIn x.b) k).putBucket (x.begin k.pk) :=
  if_neg (by simp [ho, hp])

theorem takeEnd_whole (ho : s.owns x.b = false) (hg : x.got = x.count) :
    State.takeEnd k s x = s.endBucket x k .none := by
  rw [State.takeEnd, if_neg (by simp [ho]), if_neg (not_not.2 hg)]

theorem takeEnd_early (ho : s.owns x.b = false) (hg : x.got ≠ x.count) :
    State.takeEnd k s x = s.failCheck rsnBucket netDetail := by
  rw [State.takeEnd, if_neg (by simp [ho]), if_pos hg]

theorem takeRetry_child (ho : s.owns x.b = false) : State.takeRetry k s x = s.retry x k.attempt k.eb :=
  if_neg (by simp [ho])

/-! ### The commands -/

/-- The rank that sends the blocks of a bucket down. -/
def State.downFrom (s : State) (k : RedBlock) : Nat := (s.parentIn k.bucket).getD s.me

/-- A command of a block of kind `n` that comes from rank `f`, and what the block does when it passes. -/
structure Arrives (s : State) (k : RedBlock) (i : Instr) (n f : Nat) (act : State → Bucket → State) : Prop where
  exec_eq : exec i s = .next (if k.kind = n then s.arrive f k act else s)

theorem arrives_up26 (s : State) (c : Nat) (k : RedBlock) : Arrives s k (.up26 c k) 1 c (State.takeUp c k) := ⟨rfl⟩
theorem arrives_up40 (s : State) (c : Nat) (k : RedBlock) : Arrives s k (.up40 c k) 2 c (State.takeUp c k) := ⟨rfl⟩
theorem arrives_probeUp (s : State) (c : Nat) (k : RedBlock) : Arrives s k (.probeUp c k) 4 c (State.takeUp c k) := ⟨rfl⟩
theorem arrives_down (s : State) (k : RedBlock) : Arrives s k (.down k) 3 (s.downFrom k) (State.takeDown k) := ⟨rfl⟩
theorem arrives_probeDown (s : State) (k : RedBlock) :
    Arrives s k (.probeDown k) 5 (s.downFrom k) (State.takeProbeDown k) := ⟨rfl⟩
theorem arrives_end (s : State) (k : RedBlock) : Arrives s k (.end_ k) 6 (s.downFrom k) (State.takeEnd k) := ⟨rfl⟩
theorem arrives_retry (s : State) (k : RedBlock) : Arrives s k (.retry k) 7 (s.downFrom k) (State.takeRetry k) := ⟨rfl⟩

theorem Arrives.exec_kind (ha : Arrives s k i n f act) (hk : k.kind = n) : exec i s = .next (s.arrive f k act) := by
  rw [ha.exec_eq, if_pos hk]

theorem Arrives.exec_good (ha : Arrives s k i n f act) (hk : k.kind = n) (hl : s.load.loaded = true)
    (hf : s.fencedFrom f = false) (hg : s.arrival k = .good x) : exec i s = .next (act s x) := by
  rw [ha.exec_kind hk, arrive_good hl hf hg]

/-- What becomes of a block that does not pass the checks (R198). -/
theorem Arrives.exec_refused (ha : Arrives s k i n f act) (hl : s.load.loaded = true) (hk : k.kind = n) :
    (s.fencedFrom f = true → exec i s = .next s) ∧
    (s.fencedFrom f = false → s.arrival k = .mismatch → exec i s = .next (s.failCheck rsnBucket netDetail)) ∧
    (s.fencedFrom f = false → s.arrival k = .counter → s.pass.launched = true →
      exec i s = .next (s.failCheck rsnCounter netDetail)) ∧
    (s.fencedFrom f = false → s.arrival k = .hold →
      exec i s = .next { s with col := { s.col with early := s.col.early ++ [(f, k)] } }) ∧
    (s.fencedFrom f = false → s.arrival k = .drop → exec i s = .next s) := by
  rw [ha.exec_kind hk]
  refine ⟨fun hf => by rw [arrive_fenced hf], fun hf hm => ?_, fun hf hc hp => ?_, fun hf hh => ?_, fun hf hd => ?_⟩
  · rw [arrive_open hl hf, hm]
  · rw [arrive_open hl hf, hc]
    exact congrArg _ (if_pos hp)
  · rw [arrive_open hl hf, hh]
  · rw [arrive_open hl hf, hd]

/-- The commands of arriving blocks, each with the kind it takes and the rank it comes from. -/
def arrivalRows (s : State) (c : Nat) (k : RedBlock) : List (Instr × Nat × Nat) :=
  [(.up26 c k, 1, c), (.up40 c k, 2, c), (.probeUp c k, 4, c), (.down k, 3, s.downFrom k),
    (.probeDown k, 5, s.downFrom k), (.end_ k, 6, s.downFrom k), (.retry k, 7, s.downFrom k)]

theorem arrives_of_mem (h : (i, n, f) ∈ arrivalRows s c k) : ∃ act, Arrives s k i n f act := by
  simp only [arrivalRows, List.mem_cons, Prod.mk.injEq, List.not_mem_nil, or_false] at h
  rcases h with ⟨rfl, rfl, rfl⟩ | ⟨rfl, rfl, rfl⟩ | ⟨rfl, rfl, rfl⟩ | ⟨rfl, rfl, rfl⟩ | ⟨rfl, rfl, rfl⟩ | ⟨rfl, rfl, rfl⟩ |
    ⟨rfl, rfl, rfl⟩
  · exact ⟨_, arrives_up26 s _ k⟩
  · exact ⟨_, arrives_up40 s _ k⟩
  · exact ⟨_, arrives_probeUp s _ k⟩
  · exact ⟨_, arrives_down s k⟩
  · exact ⟨_, arrives_probeDown s k⟩
  · exact ⟨_, arrives_end s k⟩
  · exact ⟨_, arrives_retry s k⟩

/-! ### The statement -/

/-- Settles O28: a block that passes the checks is taken by its kind, and one that does not is treated as R198 says. -/
theorem blocksArrive : Obligations.BlocksArrive := by
  intro s c k x hl rows
  refine ⟨fun hf ha hc => ?up, fun hf ha ho => ?down, fun i n f hmem => ?refused, arrival_counter, fun e h he => ?ended,
    fun h he => ⟨arrival_noBucket h he, arrival_notEntered h he, arrival_olderAttempt h he⟩⟩
  case up =>
    refine ⟨fun hk h => ?_, fun hk h => ?_, fun hk hov ho hr => ?_, fun hk hov ho hr => ?_, fun hk => ?_⟩
    · rw [(arrives_up26 s c k).exec_good hk hl hf ha, takeUp_held hc (by omega) h]
      rfl
    · rw [(arrives_up40 s c k).exec_good hk hl hf ha, takeUp_held hc (by omega) h]
      rfl
    · rw [(arrives_up26 s c k).exec_good hk hl hf ha, takeUp_overflows hc (by omega) hov ho hr]
    · rw [(arrives_up40 s c k).exec_good hk hl hf ha, takeUp_overflows hc (by omega) hov ho hr]
    · rw [(arrives_probeUp s c k).exec_good hk hl hf ha, takeUp_probe hc hk]
  case down =>
    refine ⟨fun hk hfirst => ?_, fun hk hp => ?_, fun hk hg => ?_, fun hk hg => ?_, fun hk => ?_⟩
    · rw [(arrives_down s k).exec_good hk hl hf ha, takeDown_next ho hfirst]
    · rw [(arrives_probeDown s k).exec_good hk hl hf ha, takeProbeDown_probing ho hp]
    · rw [(arrives_end s k).exec_good hk hl hf ha, takeEnd_whole ho hg]
    · rw [(arrives_end s k).exec_good hk hl hf ha, takeEnd_early ho hg]
    · rw [(arrives_retry s k).exec_good hk hl hf ha, takeRetry_child ho]
  case refused =>
    obtain ⟨act, h⟩ := arrives_of_mem (s := s) (c := c) hmem
    exact h.exec_refused hl
  case ended =>
    rw [arrival_ended h he]
    refine ⟨fun hlt => if_neg (by simp [hlt]), fun hle => ?_⟩
    rw [decide_eq_true hle]
    rfl

end Sys2Proof.Machine
end

section
/-! The update of a group at the owner of its bucket (R204 to R211). -/

namespace Sys2Proof.Machine

variable {s : State} {b : Nat} {x : Bucket}

/-- What the engine gives for the elements of a group (R204). -/
def State.groupUpdate (s : State) (x : Bucket) (b : Nat) : List Updated :=
  let u := s.upd x.layer
  (s.groupSum x x.done).sums.zipIdx.map (fun c =>
    updateElem u x.eb c.1 (s.param false (s.bucketBase x + 144 * x.done + c.2))
      (if u.rule = 0 then 0 else s.average b (144 * x.done + c.2)) (if s.slotValid b then s.slotTag b else u.k) s.bcNow
      (srBits s.pass.seed s.stepNow (x.first + (144 * x.done + c.2)) u.handle))

/-- The averages of a group written with the tag of their slot, which plain descent has none of (R207, R208). -/
def State.putGroupAverages (s : State) (u : UpdEntry) (x : Bucket) (b : Nat) (outs : List Updated) : State :=
  if u.rule = 0 then s
  else
    let t := outs.zipIdx.foldl (fun t o => t.putAverage b (144 * x.done + o.2) o.1.m) s
    ((t.wrNat 1 (t.slotAddr b) 2 b).wrNat 1 (t.slotAddr b + 4) 1 (unsignedOf 8 u.k)).wrNat 1 (t.slotAddr b + 8) 4 x.count

/-- The bucket with one more group updated. -/
def State.withUpdate (s : State) (x : Bucket) (outs : List Updated) : Bucket :=
  { x with
    done := x.done + 1,
    changed := x.changed || outs.zipIdx.any (fun o => o.1.w != s.param false (s.bucketBase x + 144 * x.done + o.2)),
    updNf := x.updNf || outs.any (fun o => o.nf), sumSq := x.sumSq + (outs.map (fun o => o.g.rat * o.g.rat)).sum }

/-- The parameters, averages and counts of a group written, and what is complete sent down (R207, R210). -/
def State.updatesGroup (s : State) (x : Bucket) (b : Nat) : State :=
  let outs := s.groupUpdate x b
  let put := s.putShadows (s.bucketBase x + 144 * x.done) (outs.map (fun o => o.w))
  (((put.putGroupAverages (s.upd x.layer) x b outs).addF F.colUpdSat ((outs.map (fun o => o.sat)).sum)).putBucket
    (s.withUpdate x outs)).sendDown (s.withUpdate x outs) 3

/-- The bucket `y`, all groups of which are updated, ends at its owner with its peak, flags and norm (R211). -/
def State.ownerEnds (t : State) (y : Bucket) : State :=
  t.endBucket y { t.blockOf y 6 with pk := y.pk, nf := y.nf || y.updNf, ov := y.ov, changed := y.changed }
    (if y.nf then .nonFinite else .f32 (rmsF32 y.sumSq y.count))

theorem exec_updateGroup (hb : s.bucket b = some x) : exec (.updateGroup b) s =
    if !s.owns b || decide (x.sent ≤ x.done) then .next s
    else if s.updatePoisoned x (144 * x.done) (x.groupLen x.done) then .next (s.stateError unitNet)
    else if x.done + 1 < x.groups then .next (s.updatesGroup x b)
    else .next ((s.updatesGroup x b).ownerEnds (s.withUpdate x (s.groupUpdate x b))) := by
  have hexec : exec (.updateGroup b) s = execUpdateGroup b s := rfl
  rw [hexec, execUpdateGroup, hb]
  rfl

theorem exec_updateGroup_waits (hb : s.bucket b = some x) (h : s.owns b = false ∨ x.sent ≤ x.done) :
    exec (.updateGroup b) s = .next s := by
  rw [exec_updateGroup hb, if_pos]
  rcases h with h | h <;> simp [h]

theorem exec_updateGroup_poisoned (hb : s.bucket b = some x) (ho : s.owns b = true) (hd : x.done < x.sent)
    (hp : s.updatePoisoned x (144 * x.done) (x.groupLen x.done) = true) :
    exec (.updateGroup b) s = .next (s.stateError unitNet) := by
  rw [exec_updateGroup hb, if_neg (by simp [ho, hd]), if_pos hp]

theorem exec_updateGroup_runs (hb : s.bucket b = some x) (ho : s.owns b = true) (hd : x.done < x.sent)
    (hp : s.updatePoisoned x (144 * x.done) (x.groupLen x.done) = false) : exec (.updateGroup b) s =
      if x.done + 1 < x.groups then .next (s.updatesGroup x b)
      else .next ((s.updatesGroup x b).ownerEnds (s.withUpdate x (s.groupUpdate x b))) := by
  rw [exec_updateGroup hb, if_neg (by simp [ho, hd]), if_neg (by simp [hp])]

/-- Settles O27: by what stands in the way of the group's update, and then by whether the group is the last. -/
theorem ownersUpdateGroups : Obligations.OwnersUpdateGroups := by
  intro s x b hb u base outs y put avg kept t
  refine ⟨fun ho hd hp => ⟨fun hmore => ?more, fun hlast => ?last⟩, exec_updateGroup_poisoned hb, exec_updateGroup_waits hb⟩
  case more =>
    rw [exec_updateGroup_runs hb ho hd hp, if_pos hmore]
    rfl
  case last =>
    rw [exec_updateGroup_runs hb ho hd hp, if_neg (Nat.not_lt.2 hlast)]
    rfl

end Sys2Proof.Machine
end

section
/-! The weight digest does not depend on the order of its parameters (R235). -/

namespace Sys2Proof.Machine

/-- Two words added to a lane in either order give the same sum, modulo 2^64. -/
theorem laneAdd_comm (a x y : Nat) : ((a + x) % 2 ^ 64 + y) % 2 ^ 64 = ((a + y) % 2 ^ 64 + x) % 2 ^ 64 := by
  omega

/-- A lane sums its words in any order. -/
theorem laneSum_perm {l l' : List Nat} (h : l.Perm l') (w : Nat → Nat) (a : Nat) :
    l.foldl (fun a i => (a + w i) % 2 ^ 64) a = l'.foldl (fun a i => (a + w i) % 2 ^ 64) a :=
  h.foldl_eq' (fun x _ y _ a => laneAdd_comm a (w x) (w y)) a

/-- The lanes over `P` parameters, visited in any order. -/
theorem digestLanes_perm {l : List Nat} {P : Nat} (h : l.Perm (List.range P)) (w : Nat → Nat) :
    digestLanes P w = [0, 1, 2, 3].map (fun j => l.foldl (fun a i =>
      (a + mix ((j * 2 ^ 62) ^^^ (i * 2 ^ 16) ^^^ w i)) % 2 ^ 64) 0) :=
  List.map_congr_left fun j _ => laneSum_perm h.symm (fun i => mix ((j * 2 ^ 62) ^^^ (i * 2 ^ 16) ^^^ w i)) 0

theorem param_committed (s : State) (p : Nat) : s.param false p = s.master p := by
  rw [State.param, State.master, Bool.bne_false]

/-- The digest of the last committed step is that of the committed epoch. -/
theorem digestOf_committed (s : State) : s.digestOf s.c = digestLanes s.load.params s.master := by
  rw [State.digestOf, bne_self_eq_false]
  exact congrArg _ (funext (param_committed s))

/-- Settles O52: the additions of a lane commute. -/
theorem digestIgnoresOrder : Obligations.DigestIgnoresOrder := by
  intro s l hl
  rw [digestOf_committed, digestLanes_perm hl]

end Sys2Proof.Machine
end

section
/-! The commands of the mailbox take effect, wait, or are refused (R226, R302, R309, R310, R313, R314). -/

namespace Sys2Proof.Machine

/-! ### The rows of SCH.SVC_CMD (R313) -/

section
variable {s : State} {c : Instr} {v k : Nat} {x : SvcCmd}

/-- Instruction `c` writes `v` to SCH.SVC_CMD, and command `k` is one that its row runs. -/
def IsMailboxRow (c : Instr) (v k : Nat) : Prop :=
  ∃ (mine : Nat → Bool) (run : State → SvcCmd → State), mine k = true ∧
    ∀ s : State, exec c s = s.svcRow c v mine run

/-- The rows, each with a command that it runs. -/
def mailboxRows (v : Nat) : List (Instr × Nat) :=
  [(.loopStart v, 1), (.loopStop v, 2), (.loopRestart v, 3), (.restoreHost v, 4), (.ckptNow v, 5), (.fwStage v, 6),
    (.fwActivate v, 7), (.serviceBadCmd v, 0)]

theorem isMailboxRow_of_mem (h : (c, k) ∈ mailboxRows v) : IsMailboxRow c v k := by
  simp only [mailboxRows, List.mem_cons, List.not_mem_nil, or_false, Prod.mk.injEq] at h
  rcases h with ⟨rfl, rfl⟩ | ⟨rfl, rfl⟩ | ⟨rfl, rfl⟩ | ⟨rfl, rfl⟩ | ⟨rfl, rfl⟩ | ⟨rfl, rfl⟩ | ⟨rfl, rfl⟩ |
    ⟨rfl, rfl⟩ <;>
    exact ⟨_, _, rfl, fun _ => rfl⟩

theorem exists_mailboxRow (h : c ∈ (mailboxRows v).map Prod.fst) : ∃ k, IsMailboxRow c v k := by
  obtain ⟨⟨c, k⟩, hrow, rfl⟩ := List.mem_map.1 h
  exact ⟨k, isMailboxRow_of_mem hrow⟩

theorem IsMailboxRow.refused (hc : IsMailboxRow c v k) (h : s.cmdBegins v k x) (hk : s.refusesCmd k) :
    exec c s = .next ((s.beginCmd v).endCmd 1 0) := by
  obtain ⟨mine, run, hmine, hrow⟩ := hc
  rw [hrow, refusesCmd_eq h hk c mine run hmine]

theorem IsMailboxRow.busy (hc : IsMailboxRow c v k) (ho : s.hostOpen) (hb : s.fb F.schSvcStatusBusy = true) :
    exec c s = .next (s.violation 3) := by
  obtain ⟨mine, run, -, hrow⟩ := hc
  rw [hrow, svcRow_eq ho, State.svcEffect, if_pos hb]

theorem IsMailboxRow.waits (hc : IsMailboxRow c v k) (ho : s.hostOpen) (hb : s.fb F.schSvcStatusBusy = false)
    (hr : s.svcReadable v = false) : exec c s = .next (s.svcWait v) := by
  obtain ⟨mine, run, -, hrow⟩ := hc
  rw [hrow, svcRow_eq ho, State.svcEffect, if_neg (by simp [hb]), if_pos (by simp [hr])]

/-- A code beyond the table is refused in no state (R313). -/
theorem not_refusesCmd_unlisted (hk : k = 0 ∨ 7 < k) : ¬ s.refusesCmd k := fun ⟨h1, h7, _⟩ => by omega

theorem exec_loopStart (h : s.takesCmd v 1 x) : exec (.loopStart v) s = .next ((s.beginCmd v).loopStart x) :=
  takesCmd_eq h _ _ _ rfl

theorem exec_loopStop (h : s.takesCmd v 2 x) : exec (.loopStop v) s = .next (s.beginCmd v).loopStop :=
  takesCmd_eq h _ _ _ rfl

theorem exec_loopRestart (h : s.takesCmd v 3 x) : exec (.loopRestart v) s = .next ((s.beginCmd v).loopRestart x) :=
  takesCmd_eq h _ _ _ rfl

theorem exec_restoreHost (h : s.takesCmd v 4 x) : exec (.restoreHost v) s = .next ((s.beginCmd v).restoreHost x) :=
  takesCmd_eq h _ _ _ rfl

theorem exec_ckptNow (h : s.takesCmd v 5 x) :
    exec (.ckptNow v) s = .next ((s.beginCmd v).modPass (fun p => { p with ckptCmd := true })) :=
  takesCmd_eq h _ _ _ rfl

theorem exec_fwStage (h : s.takesCmd v 6 x) : exec (.fwStage v) s = .next ((s.beginCmd v).fwStage x) :=
  takesCmd_eq h _ _ _ rfl

theorem exec_fwActivate (h : s.takesCmd v 7 x) : exec (.fwActivate v) s = .next (s.beginCmd v).fwActivate :=
  takesCmd_eq h _ _ _ rfl

theorem exec_serviceBadCmd (h : s.cmdBegins v k x) (hk : k = 0 ∨ 7 < k) :
    exec (.serviceBadCmd v) s = .next ((s.beginCmd v).endCmd 5 0) :=
  takesCmd_eq ⟨h, not_refusesCmd_unlisted hk⟩ _ _ _ (by simpa using hk)

end

/-! ### The end of a command (R313) -/

section
variable {s : State} {st r : Nat} {x : SvcCmd} {z : Fld}

/-- The registers at the end of a command: BUSY, the tag and the status change, and the count of dropped events may. -/
theorem f_endCmd_other (hz : z.key ∉ [F.schSvcStatusBusy.key, F.schSvcStatusLastTag.key, F.schSvcStatusLastStatus.key,
    F.evtStatusDropped.key]) : (s.endCmd st r).f z = s.f z := by
  simp only [List.mem_cons, List.not_mem_nil, or_false, not_or] at hz
  obtain ⟨hbusy, htag, hst, hdropped⟩ := hz
  unfold State.endCmd
  split
  · rfl
  · rw [f_ev hdropped, f_setF_other hst, f_setF_other htag, f_setF_other hbusy]
    exact f_congr (by simp) z

/-- No command is in progress after the end of one. -/
theorem busy_endCmd (hc : s.pup.cmd = some x) : (s.endCmd st r).f F.schSvcStatusBusy = 0 := by
  simp only [State.endCmd, hc]
  rw [f_ev (by decide), f_setF_other (by decide), f_setF_other (by decide), f_setF_same]
  rfl

end

/-! ### LOOP_START (R302, R313) -/

section
variable {s : State} {x : SvcCmd}

/-- The loop may be started. -/
def State.loopReady (s : State) : Prop :=
  s.f F.schLoopState = 0 ∧ s.fb F.schCtrlRun = true ∧ s.load.loaded = true ∧ s.f F.secStatusDebug ≠ 2

/-- The step limit of a LOOP_START lies ahead, or there is none, and it fits its register. -/
def State.limitFits (s : State) (x : SvcCmd) : Prop := (x.arg0 = 0 ∨ s.c < x.arg0) ∧ x.arg0 < 2 ^ 32

theorem not_loopReady_iff : ¬ s.loopReady ↔
    s.f F.schLoopState ≠ 0 ∨ !s.fb F.schCtrlRun ∨ !s.load.loaded ∨ s.f F.secStatusDebug = 2 := by
  simp only [State.loopReady, not_and_or, ne_eq, not_not, Bool.not_eq_true, Bool.not_eq_true']

theorem not_limitFits_iff : ¬ s.limitFits x ↔ (x.arg0 ≠ 0 ∧ x.arg0 ≤ s.c) ∨ 2 ^ 32 ≤ x.arg0 := by
  simp only [State.limitFits, not_and_or, not_or, not_lt, ne_eq]

theorem loopStart_badState (h : ¬ s.loopReady) : s.loopStart x = s.endCmd 1 0 := if_pos (not_loopReady_iff.1 h)

theorem loopStart_badLimit (h : s.loopReady) (hf : ¬ s.limitFits x) : s.loopStart x = s.endCmd 2 0 :=
  (if_neg (mt not_loopReady_iff.2 (not_not.2 h))).trans (if_pos (not_limitFits_iff.1 hf))

theorem loopStart_runs (h : s.loopReady) (hf : s.limitFits x) :
    s.loopStart x = ((((s.setF F.schLoopStepLimit x.arg0).setF F.schLoopState 1).setF F.schLoopReason 0).modPup
      (fun p => { p with
        ringLog2 := max 4 (min 20 (s.f F.schIngestCfgLog2)), waitFrom := some s.aon, stallSeen := false
        next := if p.mine then .replay else .next })).endCmd 0 0 :=
  (if_neg (mt not_loopReady_iff.2 (not_not.2 h))).trans (if_neg (mt not_limitFits_iff.2 (not_not.2 hf)))

end

/-! ### LOOP_STOP (R302, R313) -/

section
variable {s : State} {x : SvcCmd}

theorem loopStop_looping (h : s.looping = true) : s.loopStop = (s.setF F.schLoopState 2).tryHalt := if_neg (by simp [h])

theorem loopStop_badState (h : s.looping = false) : s.loopStop = s.endCmd 1 0 := if_pos (by simp [h])

theorem tryHalt_launched (h : s.pass.launched = true) : s.tryHalt = s := if_pos (.inr h)

/-- A loop that is to stop goes on to its end where no step, recovery or replay is out (R87). -/
theorem tryHalt_idle (h : s.f F.schLoopState = 2) (hl : s.pass.launched = false) (hr : s.pass.recover = false)
    (hn : s.pup.next ≠ .replay) : s.tryHalt = s.loopOn := by
  rw [State.tryHalt, if_neg (by simp [h, hl]), if_neg (by simp [hr]), if_neg (fun hw => hn hw.1)]

/-- The end of a loop that is to stop ends the LOOP_STOP that waits for it. -/
theorem loopOn_stopping (h : s.f F.schLoopState = 2) (hc : s.pup.cmd = some x) (hx : x.cmd = 2) :
    s.loopOn = ((s.modPup (fun p => { p with next := .none })).setF F.schLoopState 0).endCmd 0 0 := by
  have hcmd : (({ s with pup := { s.pup with next := .none } } : State).setF F.schLoopState 0).pup.cmd = some x := hc
  rw [State.loopOn, if_pos (.inl h)]
  simp only [hcmd, if_pos hx]
  rfl

theorem stopping_of_setF : (s.setF F.schLoopState 2).f F.schLoopState = 2 := f_setF_same s F.schLoopState 2

/-- A LOOP_STOP is done at once where nothing is out: the loop is HALTED and no command in progress. -/
theorem loopStop_done (h : s.looping = true) (hl : s.pass.launched = false) (hr : s.pass.recover = false)
    (hn : s.pup.next ≠ .replay) (hc : s.pup.cmd = some x) (hx : x.cmd = 2) :
    s.loopStop.f F.schLoopState = 0 ∧ s.loopStop.f F.schSvcStatusBusy = 0 := by
  rw [loopStop_looping h, tryHalt_idle stopping_of_setF hl hr hn, loopOn_stopping stopping_of_setF hc hx]
  refine ⟨?_, busy_endCmd (x := x) hc⟩
  rw [f_endCmd_other (by decide), f_setF_same]
  rfl

end

/-! ### LOOP_RESTART (R226, R313) -/

section
variable {s : State} {x : SvcCmd}

/-- A STOPPED loop runs again, its pass IDLE. -/
def State.loopsAgain (s : State) : State := ((s.setF F.schLoopState 1).setF F.schLoopReason 0).setPst psIdle

theorem loopRestart_badState (h : s.f F.schLoopState ≠ 3 ∨ s.isActive = false ∨ s.f F.secStatusDebug = 2) :
    s.loopRestart x = s.endCmd 1 0 := if_pos (by simpa using h)

/-- Where the loop may run again, the argument says how. -/
theorem loopRestart_stopped (h3 : s.f F.schLoopState = 3) (ha : s.isActive = true) (hd : s.f F.secStatusDebug ≠ 2) :
    s.loopRestart x =
      if 1 < x.arg0 then s.endCmd 2 0
      else ((if x.arg0 = 0 then (s.loopsAgain.startRecovery 0 s.stepNow).replayNext false
        else s.loopsAgain.startRecovery 3 s.stepNow).endCmd 0 0).tryClears := by
  rw [State.loopRestart, if_neg (by simp [h3, ha, hd])]
  by_cases h0 : x.arg0 = 0
  · simp only [if_pos h0]
    rfl
  · simp only [if_neg h0]
    rfl

end

/-! ### RESTORE_HOST (R310) -/

section
variable {s : State} {x : SvcCmd}

/-- The host copy that a RESTORE_HOST names checks, and is one of this rank of this job. -/
def State.hostCopyGood (s : State) (x : SvcCmd) : Prop :=
  x.arg0 + 4096 ≤ hostTop ∧ s.load.loaded = true ∧ s.ckptOk 2 x.arg0 none = true ∧
    s.hdr 2 x.arg0 24 2 = s.f F.schRankRank ∧ s.hdr 2 x.arg0 28 4 = s.n

theorem not_hostCopyGood_iff : ¬ s.hostCopyGood x ↔ hostTop < x.arg0 + 4096 ∨ !s.load.loaded ∨ !s.ckptOk 2 x.arg0 none ∨
    s.hdr 2 x.arg0 24 2 ≠ s.f F.schRankRank ∨ s.hdr 2 x.arg0 28 4 ≠ s.n := by
  simp only [State.hostCopyGood, not_and_or, not_le, Bool.not_eq_true, Bool.not_eq_true', ne_eq]

theorem restoreHost_looping (h : s.looping = true) : s.restoreHost x = s.endCmd 1 0 := if_pos h

theorem restoreHost_noHost (h : s.looping = false) (hr : s.hostReady = false) : s.restoreHost x = s.endCmd 4 0 :=
  (if_neg (by simp [h])).trans (if_pos (by simp [hr]))

theorem restoreHost_bad (h : s.looping = false) (hr : s.hostReady = true) (hg : ¬ s.hostCopyGood x) :
    s.restoreHost x = s.endCmd 2 0 :=
  (if_neg (by simp [h])).trans ((if_neg (by simp [hr])).trans (if_pos (not_hostCopyGood_iff.1 hg)))

theorem restoreHost_good (h : s.looping = false) (hr : s.hostReady = true) (hg : s.hostCopyGood x) :
    s.restoreHost x = ((((s.withdraw.abandonCkpts.restoreFrom 2 x.arg0 true).setPst psRestore).modPass
      (fun p => { p with stage := 2, target := s.hdr 2 x.arg0 8 4 })).modPup
      (fun p => { p with cmd := some { x with step := some (s.hdr 2 x.arg0 8 4) } })) :=
  (if_neg (by simp [h])).trans ((if_neg (by simp [hr])).trans
    (if_neg (mt not_hostCopyGood_iff.2 (not_not.2 hg))))

end

/-! ### FW_STAGE and FW_ACTIVATE (R314, R377) -/

section
variable {s : State} {x : SvcCmd}

/-- The length of an image lies in its range, and the image in its space. -/
def SvcCmd.imageFits (x : SvcCmd) : Prop :=
  5632 ≤ x.arg1 ∧ x.arg1 ≤ 5632 + 0x4000000 ∧ x.arg0 + x.arg1 ≤ (if x.space = 1 then hbmTop else hostTop)

theorem not_imageFits_iff : ¬ x.imageFits ↔ x.arg1 < 5632 ∨ 5632 + 0x4000000 < x.arg1 ∨
    (if x.space = 1 then hbmTop else hostTop) < x.arg0 + x.arg1 := by
  simp only [SvcCmd.imageFits, not_and_or, not_le]

/-- The image that an FW_STAGE names. -/
def State.imageAt (s : State) (x : SvcCmd) : Image := imageOf (s.rdBytes x.space x.arg0 x.arg1)

theorem fwStage_update (hu : s.boot.update = true) : s.fwStage x = s.endCmd 1 0 := if_pos hu

theorem fwStage_unfit (hu : s.boot.update = false) (hf : ¬ x.imageFits) :
    s.fwStage x = ((s.putBank s.spareBank none).setF F.schSvcStatusStaged 0).endCmd 3 0 :=
  (if_neg (by simp [hu])).trans (if_pos (not_imageFits_iff.1 hf))

/-- An image that fits is staged, and its checks decide. -/
theorem fwStage_fits (hu : s.boot.update = false) (hf : x.imageFits) : s.fwStage x =
    if s.imageFault (s.imageAt x) true = 0 then
      ((s.putBank s.spareBank (some (s.imageAt x))).setF F.schSvcStatusStaged 1).endCmd 0 0
    else ((s.putBank s.spareBank none).setF F.schSvcStatusStaged 0).endCmd 3 0 := by
  rw [State.fwStage, if_neg (by simp [hu]), if_neg (mt not_imageFits_iff.2 (not_not.2 hf))]
  simp only [State.stage, State.imageAt]
  by_cases h0 : s.imageFault (imageOf (s.rdBytes x.space x.arg0 x.arg1)) true = 0 <;> simp [h0, natOfBool]

theorem fwActivate_eq : s.fwActivate = if s.looping = false ∧ s.fb F.schSvcStatusStaged = true then
    s.activateBank.endCmd 0 0 else s.endCmd 1 0 := by
  rw [State.fwActivate]
  cases s.looping <;> cases s.fb F.schSvcStatusStaged <;> rfl

end

/-! ### The statement -/

/-- Settles O22, a command at a time. -/
theorem loopAndMailboxCommands : Obligations.LoopAndMailboxCommands := by
  refine ⟨fun s v x => ?_, fun s v x => ?_⟩
  · intro b ready fits again
    refine ⟨fun h => ?start, fun h => ?stop, fun h => ?restart, fun c k hc => ?refused⟩
    case start =>
      rw [exec_loopStart h]
      exact ⟨fun hr hf => congrArg _ (loopStart_runs hr hf), fun hr hf => congrArg _ (loopStart_badLimit hr hf),
        fun hr => congrArg _ (loopStart_badState hr)⟩
    case stop =>
      rw [exec_loopStop h]
      exact ⟨fun hl => congrArg _ (loopStop_looping hl),
        fun hl hout => congrArg _ ((loopStop_looping hl).trans (tryHalt_launched hout)),
        fun hl hout hr hn hx => ⟨_, rfl, loopStop_done hl hout hr hn h.block hx⟩,
        fun hl => congrArg _ (loopStop_badState hl)⟩
    case restart =>
      rw [exec_loopRestart h]
      refine ⟨fun h3 ha hd h1 => ?_, fun h3 ha hd h0 => ?_, fun h3 ha hd h1 => ?_,
        fun hbad => congrArg _ (loopRestart_badState hbad)⟩
      · rw [loopRestart_stopped h3 ha hd, if_neg (by omega), if_neg (by omega)]
        rfl
      · rw [loopRestart_stopped h3 ha hd, if_neg (by omega), if_pos h0]
        rfl
      · rw [loopRestart_stopped h3 ha hd, if_pos h1]
    case refused =>
      have hrow : (c, k) ∈ mailboxRows v := by
        simp only [mailboxRows, List.mem_cons, List.not_mem_nil, or_false] at hc ⊢
        tauto
      exact (isMailboxRow_of_mem hrow).refused
  · intro b good img fits rows
    refine ⟨fun h => ?restore, exec_ckptNow, fun h hu => ⟨fun hf h0 => ?staged, fun hbad => ?unfit⟩, fun h hu => ?update,
      fun h => ?activate, fun k => exec_serviceBadCmd, fun ho hb c hc => ?busy, fun ho hb hr c hc => ?waits⟩
    case restore =>
      rw [exec_restoreHost h]
      exact ⟨fun hl hr hg => congrArg _ (restoreHost_good hl hr hg), fun hl hr hg => congrArg _ (restoreHost_bad hl hr hg),
        fun hl hr => congrArg _ (restoreHost_noHost hl hr), fun hl => congrArg _ (restoreHost_looping hl)⟩
    case staged =>
      rw [exec_fwStage h]
      exact congrArg _ ((fwStage_fits hu hf).trans (if_pos h0))
    case unfit =>
      rw [exec_fwStage h]
      by_cases hf : x.imageFits
      · exact congrArg _ ((fwStage_fits hu hf).trans (if_neg (hbad.resolve_left (not_not.2 hf))))
      · exact congrArg _ (fwStage_unfit hu hf)
    case update => rw [exec_fwStage h, fwStage_update hu]
    case activate =>
      rw [exec_fwActivate h, fwActivate_eq]
      rfl
    case busy =>
      obtain ⟨k, hrow⟩ := exists_mailboxRow hc
      exact hrow.busy ho hb
    case waits =>
      obtain ⟨k, hrow⟩ := exists_mailboxRow hc
      exact hrow.waits ho hb hr

end Sys2Proof.Machine
end

section
/-! A step is decided: READY and FAIL climb the tree, and COMMIT, VETO and RESUME take effect (R26 to R28, R219 to R227,
R234, R242, R245, R247). -/

namespace Sys2Proof.Machine

/-! ### READY_SEND (R220, R234) -/

section
variable {s : State}

/-- The READYs of the children, and the rank's own combined with them. -/
def State.childReadies (s : State) : List CtlMsg := s.pass.readies.map (fun x => x.2)
def State.combinedReady (s : State) : CtlMsg := s.childReadies.foldl CtlMsg.combine s.ownReady

/-- The rank stands READY with the combined message. -/
def State.standsReady (s : State) : State :=
  ((s.copyUnbucketed.noteJumps).modPass (fun q => { q with ready := some s.combinedReady })).setPst psReady

/-- The combined READY goes to the parent, or the root answers. -/
def State.readyClimbs (s : State) : State :=
  match s.standsReady.parent with
  | some p => s.standsReady.sendCtl p s.combinedReady
  | none => s.standsReady.passAnswer

theorem exec_readySend_waits (h : s.readyDue = false) : exec .readySend s = .next s := if_pos (by simp [h])

theorem exec_readySend_poisoned (h : s.readyDue = true) (hp : s.tablePoisoned = true) :
    exec .readySend s = .next (s.failCheck rsnProgram (netDetail + eccCode)) :=
  (if_neg (by simp [h])).trans (if_pos hp)

/-- A READY that is due is judged by the messages of the children: VERSION first, then STEP and BCSTEP. -/
theorem exec_readySend_due (h : s.readyDue = true) (hp : s.tablePoisoned = false) : exec .readySend s =
    if s.childReadies.any (fun y => y.version != s.version) then .next (s.failCheck rsnTable netDetail)
    else if s.childReadies.any (fun y => y.step != s.stepNow || y.bcstep != s.bcNow) then
      .next (s.failCheck rsnCounter netDetail)
    else .next s.readyClimbs :=
  (if_neg (by simp [h])).trans (if_neg (by simp [hp]))

theorem exec_readySend_otherVersion (h : s.readyDue = true) (hp : s.tablePoisoned = false)
    (hv : ∃ y ∈ s.childReadies, y.version ≠ s.version) : exec .readySend s = .next (s.failCheck rsnTable netDetail) := by
  rw [exec_readySend_due h hp, if_pos (by simpa using hv)]

theorem exec_readySend_otherStep (h : s.readyDue = true) (hp : s.tablePoisoned = false)
    (hv : ∀ y ∈ s.childReadies, y.version = s.version)
    (hs : ∃ y ∈ s.childReadies, y.step ≠ s.stepNow ∨ y.bcstep ≠ s.bcNow) :
    exec .readySend s = .next (s.failCheck rsnCounter netDetail) := by
  rw [exec_readySend_due h hp, if_neg (by simpa using hv), if_pos (by simpa using hs)]

theorem exec_readySend_climbs (h : s.readyDue = true) (hp : s.tablePoisoned = false)
    (hall : ∀ y ∈ s.childReadies, y.version = s.version ∧ y.step = s.stepNow ∧ y.bcstep = s.bcNow) :
    exec .readySend s = .next s.readyClimbs := by
  have hv : ∀ y ∈ s.childReadies, y.version = s.version := fun y hy => (hall y hy).1
  have hs : ∀ y ∈ s.childReadies, y.step = s.stepNow ∧ y.bcstep = s.bcNow := fun y hy => (hall y hy).2
  rw [exec_readySend_due h hp, if_neg (by simpa using hv), if_neg (by simpa using hs)]

end

/-! ### READY and FAIL that arrive, and the rank's own FAIL (R220, R221, R459) -/

section
variable {s : State} {c p : Nat} {m : CtlMsg} {x : Nat × Nat}

theorem exec_ready_held (hm : m.type = 1) (hc : c ∈ s.children) (ht : s.takesReady = true) : exec (.ready c m) s = .next
    (s.modPass (fun p => { p with readies := mput c m p.readies })).passAnswer :=
  if_neg (by simp [hm, hc, ht])

theorem exec_ready_ignored (h : m.type ≠ 1 ∨ c ∉ s.children ∨ s.takesReady = false) : exec (.ready c m) s = .next s :=
  if_pos (by simpa using h)

/-- The rank has sent its FAIL, and stands FAILED unless it recovers or is stopped. -/
def State.standsFailed (s : State) : State :=
  if s.takesReady then (s.modPass (fun q => { q with failSent := true })).setPst psFailed
  else s.modPass (fun q => { q with failSent := true })

theorem exec_fail_own (hx : s.pass.fail = some x) (hsent : s.pass.failSent = false) :
    exec (.fail s.me m) s = .next (s.standsFailed.passFail true (s.ownFail x)) := by
  have hexec : exec (.fail s.me m) s = execFail s.me m s := rfl
  rw [hexec, execFail, if_pos rfl, hx]
  exact if_neg (by simp [hsent])

theorem exec_fail_nothing (h : s.pass.fail = none ∨ s.pass.failSent = true) : exec (.fail s.me m) s = .next s := by
  have hexec : exec (.fail s.me m) s = execFail s.me m s := rfl
  rw [hexec, execFail, if_pos rfl]
  rcases hx : s.pass.fail with _ | x
  · rfl
  · exact if_pos (h.resolve_left (by simp [hx]))

theorem exec_fail_child (hc : c ≠ s.me) (hm : m.type = 2) (hmem : c ∈ s.children)
    (ht : s.takesReady = true ∨ (s.takesState = true ∧ m.reason = rsnState)) :
    exec (.fail c m) s = .next (s.passFail false m) :=
  by
  refine (if_neg hc).trans (if_neg ?_)
  rcases ht with ht | ⟨ht, hr⟩
  · simp [hm, hmem, ht]
  · simp [hm, hmem, ht, hr]

/-- The rank's own FAIL always goes up. -/
theorem passFail_own : s.passFail true m = match s.parent with
    | some p => s.sendCtl p m
    | none => (s.modPass (fun q => { q with fails := q.fails ++ [m] })).passAnswer := rfl

/-- A child's FAIL goes up where none of equal or earlier reason came before it (R221). -/
theorem passFail_child_up (hp : s.parent = some p) : s.passFail false m =
    if s.pass.fails.all (fun x => decide (reasonRank m.reason < reasonRank x.reason)) then
      (s.modPass (fun q => { q with fails := q.fails ++ [m] })).sendCtl p m
    else s := by
  rw [State.passFail, hp]
  rfl

theorem passFail_child_root (hp : s.parent = none) :
    s.passFail false m = (s.modPass (fun q => { q with fails := q.fails ++ [m] })).passAnswer := by
  rw [State.passFail, hp]

end

/-! ### COMMIT, VETO and RESUME (R27, R28, R222, R226, R242, R245) -/

section
variable {s : State} {m : CtlMsg}

/-- A COMMIT goes also to the ranks and spares that a changed table brings together. -/
def State.tellsNewPartners (s : State) (table : Option CtlMsg) (m : CtlMsg) : State :=
  match table with
  | none => s
  | some x => s.sendTo (s.tableDests x) m

/-- COMMIT in a loaded program, by the part that the rank plays. -/
theorem exec_commit (hm : m.type = 3) (hl : s.load.loaded = true) : exec (.commit m) s =
    if !s.isActive then .next s.applyTable.minded
    else if s.isRoot then
      (if s.pass.answer = some m then .next ((s.tellsNewPartners s.pass.table m).commitStep m) else .next s)
    else if s.passState = psReady then
      .next (((s.sendAll s.children m).tellsNewPartners s.pass.table m).commitStep m)
    else .next s := by
  have hexec : exec (.commit m) s = execCommit m s := rfl
  rw [hexec, execCommit, if_neg (by simp [hm, hl])]
  rfl

theorem exec_commit_unloaded (hl : s.load.loaded = false) : exec (.commit m) s = .next s := if_pos (.inr (by simp [hl]))

theorem exec_commit_child (hm : m.type = 3) (ha : s.isActive = true) (hroot : s.isRoot = false) (hl : s.load.loaded = true) :
    exec (.commit m) s = if s.passState = psReady then
      .next (((s.sendAll s.children m).tellsNewPartners s.pass.table m).commitStep m) else .next s := by
  rw [exec_commit hm hl, if_neg (by simp [ha]), if_neg (by simp [hroot])]

theorem exec_commit_root (hm : m.type = 3) (ha : s.isActive = true) (hroot : s.isRoot = true) (hl : s.load.loaded = true) :
    exec (.commit m) s = if s.pass.answer = some m then .next ((s.tellsNewPartners s.pass.table m).commitStep m)
      else .next s := by
  rw [exec_commit hm hl, if_neg (by simp [ha]), if_pos hroot]

theorem exec_commit_inactive (hm : m.type = 3) (hl : s.load.loaded = true) (ha : s.isActive = false) :
    exec (.commit m) s = .next s.applyTable.minded := by
  rw [exec_commit hm hl, if_pos (by simp [ha])]

/-- A VETO that the rank may take: it is not stopped, and while it recovers only a STOP (R459). -/
theorem exec_veto (hm : m.type = 4) (ha : s.isActive = true) (hst : s.passState ≠ psStopped)
    (hr : s.pass.recover = false ∨ m.policy = 2) : exec (.veto m) s =
      if s.isRoot then (if s.pass.answer = some m then .next (s.vetoStep m) else .next s)
      else .next ((s.sendAll s.children m).vetoStep m) := by
  refine if_neg ?_
  rcases hr with hr | hr <;> simp [hm, ha, hst, hr]

theorem exec_veto_ignored (h : s.passState = psStopped ∨ (s.pass.recover = true ∧ m.policy ≠ 2)) :
    exec (.veto m) s = .next s := if_pos (.inr (.inr h))

theorem exec_resume (hm : m.type = 6) (ha : s.isActive = true) (hr : s.pass.recover = true) : exec (.resume m) s =
    if s.isRoot then (if s.pass.answer = some m then .next (s.resumeStep m) else .next s)
    else .next ((s.sendAll s.children m).resumeStep m) :=
  if_neg (by simp [hm, ha, hr])

theorem exec_resume_ignored (h : s.pass.recover = false) : exec (.resume m) s = .next s := if_pos (by simp [h])

/-- The root acts on the answer it has given alone (R222). -/
theorem exec_commit_notAnswer (hroot : s.isRoot = true) (ha : s.isActive = true) (hm : s.pass.answer ≠ some m) :
    exec (.commit m) s = .next s := by
  by_cases hskip : m.type ≠ 3 ∨ !s.load.loaded
  · exact if_pos hskip
  · simp only [not_or, not_not, Bool.not_eq_true, Bool.not_eq_false'] at hskip
    rw [exec_commit_root hskip.1 ha hroot hskip.2, if_neg hm]

theorem exec_veto_notAnswer (hroot : s.isRoot = true) (hm : s.pass.answer ≠ some m) : exec (.veto m) s = .next s := by
  have hexec : exec (.veto m) s = execVeto m s := rfl
  rw [hexec, execVeto, if_pos hroot, if_neg hm, ite_self]

theorem exec_resume_notAnswer (hroot : s.isRoot = true) (hm : s.pass.answer ≠ some m) : exec (.resume m) s = .next s := by
  have hexec : exec (.resume m) s = execResume m s := rfl
  rw [hexec, execResume, if_pos hroot, if_neg hm, ite_self]

end

/-! ### The statement -/

/-- Settles O23: what climbs the tree, and then the answers, at the root and below it. -/
theorem readyFailAndAnswers : Obligations.ReadyFailAndAnswers := by
  refine ⟨fun s c p m x => ?_, fun s m => ?_⟩
  · intro ms all ready failed first
    refine ⟨fun hd hp => ⟨fun hall => ?climbs, exec_readySend_otherVersion hd hp, exec_readySend_otherStep hd hp⟩,
      exec_readySend_poisoned, exec_readySend_waits, exec_ready_held, exec_ready_ignored, fun hx hsent => ?own,
      exec_fail_nothing, fun hc hm hmem ht => ?child⟩
    case climbs => exact exec_readySend_climbs hd hp hall
    case own =>
      rw [exec_fail_own hx hsent, passFail_own]
      rfl
    case child =>
      rw [exec_fail_child hc hm hmem ht]
      exact ⟨fun hp => congrArg _ (passFail_child_up hp), fun hp => congrArg _ (passFail_child_root hp)⟩
  · intro told
    refine ⟨fun ha hroot => ⟨fun hm hl hst _ => ?commit, fun hm hst => ?notReady, fun hm hst hr => ?veto,
        fun hm hr => ?resume⟩,
      fun ha hroot hans => ⟨fun hm hl => ?commitRoot, fun hm hst hr => ?vetoRoot, fun hm hr => ?resumeRoot⟩,
      fun hroot hans ha => ⟨exec_commit_notAnswer hroot ha hans, exec_veto_notAnswer hroot hans,
        exec_resume_notAnswer hroot hans⟩,
      exec_commit_inactive, exec_veto_ignored, exec_resume_ignored⟩
    case commit =>
      rw [exec_commit_child hm ha hroot hl, if_pos hst]
      rfl
    case notReady =>
      rcases hl : s.load.loaded
      · exact exec_commit_unloaded hl
      · rw [exec_commit_child hm ha hroot hl, if_neg hst]
    case veto => rw [exec_veto hm ha hst hr, if_neg (by simp [hroot])]
    case resume => rw [exec_resume hm ha hr, if_neg (by simp [hroot])]
    case commitRoot =>
      rw [exec_commit_root hm ha hroot hl, if_pos hans]
      rfl
    case vetoRoot => rw [exec_veto hm ha hst hr, if_pos hroot, if_pos hans]
    case resumeRoot => rw [exec_resume hm ha hr, if_pos hroot, if_pos hans]

end Sys2Proof.Machine
end

section
/-! CLEAR and ROLLBACK run, and failures are flooded to the job (R226, R239 to R243, R310, R459). -/

namespace Sys2Proof.Machine

/-! ### CLEAR (R226, R242) -/

section
variable {s : State} {c : Nat} {m : CtlMsg}

/-- A child's CLEAR is held, in place of an earlier one of its DETAIL. -/
def State.holdClear (s : State) (c : Nat) (m : CtlMsg) : State :=
  s.modPass (fun p => { p with
    clears := p.clears.filter (fun x => x.1 != c || x.2.1 != m.detail) ++ [(c, m.detail, m.count, m.ckpt)] })

theorem exec_clear (hm : m.type = 5) (hc : c ∈ s.children) (hd : m.detail ≤ 1) :
    exec (.clear c m) s = .next (s.holdClear c m).tryClears :=
  if_neg (by simp [hm, hc, hd])

theorem exec_clear_ignored (h : m.type ≠ 5 ∨ c ∉ s.children ∨ 1 < m.detail) : exec (.clear c m) s = .next s :=
  if_pos (by simpa using h)

/-- A rank that does not recover owes no CLEAR. -/
theorem tryClears_notRecovering (hr : s.pass.recover = false) : s.tryClears = s := by
  have hdue (detail : Nat) : s.tryClear detail = s := if_pos (by simp [State.clearReady, hr])
  rw [State.tryClears, hdue, hdue]

theorem mem_holdClear : (c, m.detail, m.count, m.ckpt) ∈ (s.holdClear c m).pass.clears :=
  List.mem_append_right _ (List.mem_singleton.2 rfl)

end

/-! ### ROLLBACK (R241, R242, R310, R459) -/

section
variable {s : State} {m : CtlMsg} {step : Nat}

theorem exec_rollback (hm : m.type = 7) (ha : s.isActive = true) (hr : s.pass.recover = true)
    (hst : s.passState ≠ psRestore) : exec (.rollback m) s =
      if s.isRoot then (if s.pass.answer = some m then .next (s.rollbackStep m) else .next s)
      else .next ((s.sendAll s.children m).rollbackStep m) :=
  if_neg (by simp [hm, ha, hr, hst])

theorem exec_rollbackComplete_programming (h : s.reprogramming = true) : exec .rollbackComplete s = .next s :=
  if_pos (.inr (.inr h))

/-- With the tiles programmed a RESTORE_HOST ends, or CLEAR is owed with DETAIL 1. -/
theorem exec_rollbackComplete (hst : s.passState = psRestore) (h2 : s.pass.stage = 2) (hp : s.reprogramming = false) :
    exec .rollbackComplete s = match s.restoring with
      | some step => .next (((((s.writePointer step (s.f F.colEpochSel)).setPst psIdle).modPass
          (fun p => { p with stage := 0 })).setF F.schLoopState 0).endCmd 0 step)
      | none => .next ((((s.writePointer s.pass.target (s.f F.colEpochSel)).rebind).modPass
          (fun p => { p with stage := 3 })).tryClears).minded :=
  if_neg (by simp [hst, h2, hp])

end

/-! ### Heartbeats and failed ranks (R239, R240) -/

section
variable {s : State} {f c : Nat} {m x : CtlMsg}

theorem exec_heartbeatSend (hl : s.load.loaded = true) : exec .heartbeatSend s = .next
    (if s.pass.beat + 200 ≤ s.aon then (s.sendAll s.neighbours (s.msg 8)).modPass (fun p => { p with beat := s.aon })
     else s) := by
  by_cases hdue : s.pass.beat + 200 ≤ s.aon
  · rw [if_pos hdue]
    exact if_neg (by simpa [hl, beatTicks] using hdue)
  · rw [if_neg hdue]
    exact if_pos (.inr (Nat.not_le.1 hdue))

theorem exec_heartbeat (hm : m.type = 8) (hf : f ∈ s.neighbours) :
    exec (.heartbeat f m) s = .next (s.modPass (fun p => { p with heard := mput f s.aon p.heard })) :=
  if_neg (by simp [hm, hf])

theorem exec_heartbeat_ignored (h : m.type ≠ 8 ∨ f ∉ s.neighbours) : exec (.heartbeat f m) s = .next s :=
  if_pos (by simpa using h)

theorem exec_heartbeatMiss (hl : s.load.loaded = true) (hf : f ∈ s.neighbours)
    (hsilent : (mget f s.pass.heard).getD 0 + 607 ≤ s.aon) (hn : (f, s.version) ∉ s.pass.noted) :
    exec (.heartbeatMiss f) s = .next (((s.noted f s.version).flood (s.failMsg f) none).noteFailed f) :=
  if_neg (by simpa [hl, hf, hn, missTicks] using hsilent)

theorem exec_heartbeatMiss_not (h : f ∉ s.neighbours ∨ s.aon < (mget f s.pass.heard).getD 0 + 607 ∨
    (f, s.version) ∈ s.pass.noted) : exec (.heartbeatMiss f) s = .next s :=
  if_pos (.inr (by simpa [missTicks] using h))

theorem exec_failnote (hl : s.load.loaded = true) (hm : m.type = 9) (hn : (m.origin, m.version) ∉ s.pass.noted) :
    exec (.failnote c m) s = .next (((s.noted m.origin m.version).flood m (some c)).noteFailed m.origin) :=
  if_neg (by simp [hl, hm, hn])

theorem exec_failnote_seen (hn : (m.origin, m.version) ∈ s.pass.noted) : exec (.failnote c m) s = .next s :=
  if_pos (.inr (.inr (by simpa using hn)))

/-! ### TAKEOVER (R242, R243) -/

theorem exec_takeover_arrives (hl : s.load.loaded = true) (hc : c ≠ s.f F.schRankRank) (hm : m.type = 10)
    (hv : max s.version s.pass.tko.version < m.version) :
    exec (.takeover c m) s = .next ((s.flood m (some c)).acceptTakeover m) :=
  (if_neg (by simp [hl])).trans ((if_neg hc).trans (if_neg (by simpa [hm] using hv)))

theorem exec_takeover_old (hl : s.load.loaded = true) (hc : c ≠ s.f F.schRankRank)
    (h : m.type ≠ 10 ∨ m.version ≤ max s.version s.pass.tko.version) : exec (.takeover c m) s = .next s :=
  (if_neg (by simp [hl])).trans ((if_neg hc).trans (if_pos h))

/-- The leader's own TAKEOVER is the one it proposes. -/
theorem exec_takeover_own (hl : s.load.loaded = true) : exec (.takeover (s.f F.schRankRank) m) s =
    match s.pass.tko.proposal with
    | none => .next s
    | some x => .next ((s.flood x none).acceptTakeover x) :=
  (if_neg (by simp [hl])).trans (if_pos rfl)

end

/-! ### The statement -/

/-- Settles O24: the recovery of a rank, and then the failures of others. -/
theorem recoveryRuns : Obligations.RecoveryRuns := by
  refine ⟨fun s c step m => ?_, fun s f c m x hl => ?_⟩
  · refine ⟨exec_clear, exec_clear_ignored, fun hm hc hd hr => ?held,
      fun hm ha hr hst => ⟨fun hroot => ?below, fun hroot => ?root⟩,
      fun hst h2 hp hn => ?rollback, fun hst h2 hp hn => ?restore, exec_rollbackComplete_programming⟩
    case held =>
      refine ⟨s.holdClear c m, ?_, hd ▸ mem_holdClear, rfl⟩
      rw [exec_clear hm hc (by omega), tryClears_notRecovering (s := s.holdClear c m) hr]
    case below => rw [exec_rollback hm ha hr hst, if_neg (by simp [hroot])]
    case root =>
      rw [exec_rollback hm ha hr hst, if_pos hroot]
      exact (apply_ite _ _ _ _).symm
    case rollback => rw [exec_rollbackComplete hst h2 hp, hn]
    case restore => rw [exec_rollbackComplete hst h2 hp, hn]
  · refine ⟨exec_heartbeatSend hl, exec_heartbeat, exec_heartbeat_ignored, exec_heartbeatMiss hl, exec_heartbeatMiss_not,
      exec_failnote hl, fun _ => exec_failnote_seen, exec_takeover_arrives hl, exec_takeover_old hl, fun hp => ?proposes,
      fun hp => ?silent⟩
    case proposes => rw [exec_takeover_own hl, hp]
    case silent => rw [exec_takeover_own hl, hp]

end Sys2Proof.Machine
end

section
/-! Digests are compared, checkpoints confirmed, and devices rejoin (R235, R236, R238, R244, R245, R299, R309, R313). -/

namespace Sys2Proof.Machine

/-! ### DIGEST_COMPUTE (R235, R236) -/

section
variable {s : State} {d : DigestRun} {x : List Nat}

/-- The message with which the root sends its digest of step `g` down (R236). -/
def State.digestDown (t : State) (g : Nat) (own : List Nat) : CtlMsg :=
  { type := 11, step := g, version := t.version, origin := 0, digest := own }

/-- What DIGEST_COMPUTE does next for the comparison of a step: the root sends its own digest down, and a rank that has the
root's compares. -/
def State.digestStep (t : State) (g : Nat) : State :=
  match t.pass.digs.find? (fun d => d.step == g) with
  | none => t
  | some d => (match d.own, d.root with
    | some own, none =>
      if t.isRoot then
        (((t.setRootDigest g own).sendAll t.children (t.digestDown g own)).compareOwn g).digestOn g
      else t
    | some _, some _ => (t.compareOwn g).digestOn g
    | none, _ => t)

theorem exec_digestCompute : exec .digestCompute s =
    .next ((s.computeDigests.pass.digs.map (fun d => d.step)).foldl State.digestStep s.computeDigests) := rfl

/-- The one comparison in progress has its own digest, which COL.DIGEST shows. -/
def State.ownDigest (s : State) (d : DigestRun) : State :=
  ({ s with pass := { s.pass with digs := [{ d with own := some (s.digestOf d.step) }] } } : State).showDigest
    (s.digestOf d.step)

theorem computeDigests_one (hd : s.pass.digs = [d]) (ho : d.own = none) (hp : s.digestPoisoned = false) :
    s.computeDigests = s.ownDigest d := by
  simp [State.computeDigests, State.ownDigest, hd, ho, hp]

theorem exec_digestCompute_one (hd : s.pass.digs = [d]) (ho : d.own = none) (hp : s.digestPoisoned = false) :
    exec .digestCompute s = .next ((s.ownDigest d).digestStep d.step) := by
  rw [exec_digestCompute, computeDigests_one hd ho hp]
  rfl

theorem find?_ownDigest : (s.ownDigest d).pass.digs.find? (fun e => e.step == d.step) =
    some { d with own := some (s.digestOf d.step) } :=
  List.find?_cons_of_pos (beq_self_eq_true d.step)

theorem exec_digestCompute_waits (hd : s.pass.digs = [d]) (ho : d.own = none) (hr : d.root = none)
    (hroot : (s.ownDigest d).isRoot = false) (hp : s.digestPoisoned = false) :
    exec .digestCompute s = .next (s.ownDigest d) := by
  rw [exec_digestCompute_one hd ho hp, State.digestStep, find?_ownDigest]
  simp only [hr]
  rw [if_neg (by simp [hroot])]

theorem exec_digestCompute_root (hd : s.pass.digs = [d]) (ho : d.own = none) (hr : d.root = none)
    (hroot : (s.ownDigest d).isRoot = true) (hp : s.digestPoisoned = false) :
    exec .digestCompute s = .next (((((s.ownDigest d).setRootDigest d.step (s.digestOf d.step)).sendAll
      (s.ownDigest d).children ((s.ownDigest d).digestDown d.step (s.digestOf d.step))).compareOwn d.step).digestOn
        d.step) := by
  rw [exec_digestCompute_one hd ho hp, State.digestStep, find?_ownDigest]
  simp only [hr]
  rw [if_pos hroot]

theorem exec_digestCompute_compares (hd : s.pass.digs = [d]) (ho : d.own = none) (hr : d.root = some x)
    (hp : s.digestPoisoned = false) :
    exec .digestCompute s = .next (((s.ownDigest d).compareOwn d.step).digestOn d.step) := by
  rw [exec_digestCompute_one hd ho hp, State.digestStep, find?_ownDigest]
  simp only [hr]

theorem exec_digestCompute_none (hd : s.pass.digs = []) : exec .digestCompute s = .next s.computeDigests := by
  have hnone : s.computeDigests.pass.digs = [] := by simp [State.computeDigests, hd]
  rw [exec_digestCompute, hnone]
  rfl

/-- The register that shows a digest does not say who is the root. -/
theorem isRoot_ownDigest : (s.ownDigest d).isRoot = s.isRoot := by
  have hrank : (s.ownDigest d).f F.schRankRank = s.f F.schRankRank := by
    simp only [State.ownDigest, State.showDigest]
    rw [f_setF_other (by decide), f_setF_other (by decide), f_setF_other (by decide), f_setF_other (by decide)]
    rfl
  have hassigns : (s.ownDigest d).pass.tko = s.pass.tko := rfl
  rw [State.isRoot, State.isRoot, State.me, State.me, hrank, hassigns]

end

/-! ### DIGEST_DOWN and DIGEST_UP (R236) -/

section
variable {s : State} {c : Nat} {m : CtlMsg}

/-- A comparison takes the result of child `c`, once. -/
def DigestRun.takeUp (c : Nat) (m : CtlMsg) (d : DigestRun) : DigestRun :=
  if d.step = m.step ∧ !d.ups.any (fun u => u.1 == c) then { d with ups := d.ups ++ [(c, m.count, m.subject)] } else d

theorem takeUp_step (d : DigestRun) : (d.takeUp c m).step = d.step := by
  rw [DigestRun.takeUp]
  split <;> rfl

theorem takeUp_has (d : DigestRun) (hs : d.step = m.step) : ∃ u ∈ (d.takeUp c m).ups, u.1 = c := by
  rw [DigestRun.takeUp]
  split
  case isTrue => exact ⟨(c, m.count, m.subject), by simp, rfl⟩
  case isFalse hnot => simpa [hs] using hnot

/-- The comparisons in progress with the result of child `c`. -/
def State.takeUps (s : State) (c : Nat) (m : CtlMsg) : State :=
  { s with pass := { s.pass with digs := s.pass.digs.map (DigestRun.takeUp c m) } }

theorem exec_digestUp (hm : m.type = 12) (hc : c ∈ s.children) :
    exec (.digestUp c m) s = .next ((s.takeUps c m).digestOn m.step) :=
  if_neg (by simp [hm, hc])

theorem takeUps_has : ∀ d ∈ (s.takeUps c m).pass.digs, d.step = m.step → ∃ u ∈ d.ups, u.1 = c := by
  intro d hd hs
  obtain ⟨d, -, rfl⟩ := List.mem_map.1 hd
  exact takeUp_has d (takeUp_step d ▸ hs)

theorem exec_digestUp_ignored (h : m.type ≠ 12 ∨ c ∉ s.children) : exec (.digestUp c m) s = .next s :=
  if_pos (by simpa using h)

theorem exec_digestDown (hm : m.type = 11) (hroot : s.isRoot = false) :
    exec (.digestDown m) s = .next (((((s.startDigest m.step).setRootDigest m.step m.digest).sendAll
      ((s.startDigest m.step).setRootDigest m.step m.digest).children m).compareOwn m.step).digestOn m.step) :=
  if_neg (by simp [hm, hroot])

theorem exec_digestDown_ignored (h : m.type ≠ 11 ∨ s.isRoot = true) : exec (.digestDown m) s = .next s := if_pos h

end

/-! ### CHECKPOINT_CONFIRM (R238, R309) -/

section
variable {s : State} {j : CkptJob}

/-- The oldest checkpoint whose comparison was clean and whose copies are written. -/
def State.confirmable (s : State) : Option CkptJob :=
  s.pass.ckpts.find? (fun j => j.clean && !s.buddyOut j.area && (j.host.isNone || s.hostReady))

/-- The checkpoint is taken up, its host copy written. -/
def State.takesUpCkpt (s : State) (j : CkptJob) : State :=
  (s.lateHostCopy j).setCkpts (s.pass.ckpts.filter (fun x => x != j))

/-- The area of a checkpoint reads back as its step. -/
def State.readsBack (s : State) (j : CkptJob) : Prop :=
  s.ckptOk 1 (s.areaAddr j.area) (some j.step) = true ∧ s.areaPoisoned j.area = false

/-- The step is the local checkpoint, and the instructions that waited for it end. -/
def State.confirmed (s : State) (j : CkptJob) : State :=
  j.ids.foldl (fun t id => t.modInst id (fun i => i.finish 0 0 j.step)) (s.setF F.colCkptStatusLocal j.step)

theorem not_readsBack_iff : ¬ s.readsBack j ↔
    (!s.ckptOk 1 (s.areaAddr j.area) (some j.step) || s.areaPoisoned j.area) = true := by
  simp only [State.readsBack, not_and_or, Bool.not_eq_true, Bool.not_eq_false, Bool.or_eq_true, Bool.not_eq_true']

theorem exec_checkpointConfirm_none (h : s.confirmable = none) : exec .checkpointConfirm s = .next s := by
  have hexec : exec .checkpointConfirm s = execCheckpointConfirm s := rfl
  rw [State.confirmable] at h
  rw [hexec, execCheckpointConfirm, h]

theorem exec_checkpointConfirm_sound (h : s.confirmable = some j) (hs : (s.takesUpCkpt j).readsBack j) :
    exec .checkpointConfirm s = .next (if j.cmd then ((s.takesUpCkpt j).confirmed j).endCmd 0 j.step
      else (s.takesUpCkpt j).confirmed j) := by
  have hexec : exec .checkpointConfirm s = execCheckpointConfirm s := rfl
  rw [State.confirmable] at h
  rw [hexec, execCheckpointConfirm, h]
  exact if_neg (mt not_readsBack_iff.2 (not_not.2 hs))

theorem exec_checkpointConfirm_bad (h : s.confirmable = some j) (hs : ¬ (s.takesUpCkpt j).readsBack j) :
    exec .checkpointConfirm s = .next ((s.takesUpCkpt j).waitCkpt ((s.takesUpCkpt j).pass.ckptIds ++ j.ids)
      ((s.takesUpCkpt j).pass.ckptCmd || j.cmd)) := by
  have hexec : exec .checkpointConfirm s = execCheckpointConfirm s := rfl
  rw [State.confirmable] at h
  rw [hexec, execCheckpointConfirm, h]
  exact if_pos (not_readsBack_iff.1 hs)

end

/-! ### JOIN (R83, R244, R245) -/

section
variable {s : State} {c l r p : Nat} {m : CtlMsg}

/-- The ID_TAG of the device that asks to join. -/
def joinTag (m : CtlMsg) : Nat := nth m.digest 0

/-- The entry of the table that holds the device, unless it is VACANT. -/
def State.knownEntry (s : State) (m : CtlMsg) : Option Nat :=
  s.allRanks.find? (fun r => s.rankFabric r == m.detail && s.rankState r != 3)

/-- No device of another tag stands in the table for the one that asks. -/
def State.tagFits (s : State) (m : CtlMsg) (l : Nat) : Prop :=
  s.knownEntry m = none ∨ (s.knownEntry m = some l ∧ s.rankTag l = joinTag m)

/-- The FAILED entry of the device among the spares. -/
def State.spareEntry (s : State) (m : CtlMsg) : Option Nat :=
  s.allRanks.find? (fun r => decide (s.n ≤ r) && s.rankFabric r == m.detail && s.rankTag r == joinTag m &&
    s.rankState r == 2)

/-- The first VACANT entry that none waits for. -/
def State.freeEntry (s : State) : Option Nat := s.vacant.find? (fun r => !s.pass.joins.any (fun j => j.2.2 == r))

/-- The spare that joins is assigned to the takeover that waits. -/
def State.assignJoin (s : State) (m : CtlMsg) (r : Nat) : State :=
  ((((s.wrNat 1 (s.rankAddr r + 4) 1 1).answerJoin m 1 r (max s.version s.pass.tko.version + 1)).modPass
    (fun p => { p with tko := { p.tko with waits := false } })).propose).modPass
    (fun p => { p with tko := { p.tko with waits := true } })

theorem exec_join_leader (hl : s.load.loaded = true) (hm : m.type = 13) (hlead : s.leads = true) :
    exec (.join c m) s = .next (s.takeJoin m) :=
  (if_neg (by simp [hl, hm])).trans ((if_neg (by simp [hlead])).trans (if_pos hlead))

theorem takeJoin_otherTag (hk : s.knownEntry m = some r) (ht : s.rankTag r ≠ joinTag m) : s.takeJoin m = s.refuseJoin m := by
  rw [State.knownEntry] at hk
  simp only [State.takeJoin, hk]
  exact if_pos (bne_iff_ne.2 ht)

/-- A device whose tag fits is assigned, where a takeover waits for its entry, and else recorded. -/
theorem takeJoin_tagFits (h : s.tagFits m l) : s.takeJoin m = match s.pass.tko.waits, s.spareEntry m with
    | true, some r => s.assignJoin m r
    | true, none => s.recordJoin m (joinTag m)
    | false, _ => s.recordJoin m (joinTag m) := by
  rw [State.tagFits, State.knownEntry] at h
  rcases h with hk | ⟨hk, ht⟩
  · simp only [State.takeJoin, hk]
    exact if_neg (by simp)
  · simp only [State.takeJoin, hk]
    exact if_neg (by simpa [joinTag] using ht)

theorem takeJoin_records (hw : s.pass.tko.waits = false ∨ s.spareEntry m = none) (h : s.tagFits m l) :
    s.takeJoin m = s.recordJoin m (joinTag m) := by
  rw [takeJoin_tagFits h]
  rcases hw with hw | hw
  · rw [hw]
  · rw [hw]
    cases s.pass.tko.waits <;> rfl

theorem takeJoin_assigns (hw : s.pass.tko.waits = true) (hsp : s.spareEntry m = some r) (h : s.tagFits m l) :
    s.takeJoin m = s.assignJoin m r := by
  rw [takeJoin_tagFits h, hw, hsp]

theorem recordJoin_free (h : s.freeEntry = some r) : s.recordJoin m (joinTag m) =
    (s.modPass (fun p => { p with joins := p.joins ++ [(m.detail, joinTag m, r)] })).answerJoin m 0 r
      (s.version + s.pass.joins.length + 1) := by
  rw [State.freeEntry] at h
  rw [State.recordJoin, h]

theorem recordJoin_full (h : s.freeEntry = none) : s.recordJoin m (joinTag m) = s.refuseJoin m := by
  rw [State.freeEntry] at h
  rw [State.recordJoin, h]

theorem exec_join_passesOn (hl : s.load.loaded = true) (hm : m.type = 13) (hlead : s.leads = false)
    (hc : c ≠ s.f F.schRankRank) (hldr : s.leader = some l) : exec (.join c m) s = .next (s.sendCtl l m) := by
  have hexec : exec (.join c m) s = execJoin c m s := rfl
  rw [hexec, execJoin, if_neg (by simp [hl, hm]), if_neg (by simp [hc]), if_neg (by simp [hlead]), hldr]

/-- The JOIN of this device. -/
def State.ownJoin (s : State) : CtlMsg :=
  { s.msg 13 with
    step := s.f F.colEpochStep, origin := 0xffff, detail := s.myId, digest := [s.f F.secIdTag, 0, 0, 0] }

/-- A device that stands outside the program asks its first fabric partner to join. -/
theorem exec_join_own (hl : s.load.loaded = true) (hm : m.type = 13) (hlead : s.leads = false) (hc : c = s.f F.schRankRank)
    (hp : allPorts.find? s.portUp = some p) (hout : s.isActive = false ∨ s.passState = psStopped) :
    exec (.join c m) s = .next (s.originate
      { tc := 0, dest := s.f (F.fabPPartnerFabricId p), pay := .ctl s.ownJoin, port := some p }) := by
  have hexec : exec (.join c m) s = execJoin c m s := rfl
  rw [hexec, execJoin, if_neg (by simp [hl, hm]), if_pos ⟨hc, by simp [hlead]⟩, hp]
  refine congrArg _ (if_neg ?_)
  rcases hout with hout | hout <;> simp [hout]

/-! ### JOINED and TABLE (R245) -/

theorem exec_joined (hl : s.load.loaded = true) (hm : m.type = 14) (hd : m.detail = 1) : exec (.joined m) s = .next
    (((((s.setF F.schRankRank m.subject).setF F.schRankValid 1).setPst psIdle).setF F.schLoopState 0).wakeUp 4) :=
  if_neg (by simp [hl, hm, hd])

theorem exec_joined_refused (hd : m.detail ≠ 1) : exec (.joined m) s = .next s := if_pos (.inr (.inr hd))

theorem exec_table (hl : s.load.loaded = true) (hm : m.type = 15) (h : s.isActive = false ∨ s.isRoot = false) :
    exec (.table m) s = .next ((if s.isActive then (s.sendAll s.children m).sendTo (s.tableDests m) m else s).modPass
      (fun p => { p with table := some m })) := by
  refine if_neg ?_
  rcases h with h | h <;> simp [hl, hm, h]

theorem exec_table_root (ha : s.isActive = true) (hroot : s.isRoot = true) : exec (.table m) s = .next s :=
  if_pos (.inr (.inr ⟨ha, hroot⟩))

end

/-! ### The statement -/

/-- Settles O25: the comparisons and checkpoints, and then the devices that join. -/
theorem digestsCheckpointsAndJoins : Obligations.DigestsCheckpointsAndJoins := by
  refine ⟨fun s c m j => ?_, fun s c l r m hl => ?_⟩
  · intro due kept sound done
    exact ⟨fun d hd ho hr hroot => exec_digestCompute_waits hd ho hr (isRoot_ownDigest.trans hroot),
      fun d hd ho hr hroot => exec_digestCompute_root hd ho hr (isRoot_ownDigest.trans hroot),
      fun d x => exec_digestCompute_compares, exec_digestCompute_none, exec_digestDown, exec_digestDown_ignored,
      fun hm hc => ⟨s.takeUps c m, exec_digestUp hm hc, rfl, takeUps_has⟩, exec_digestUp_ignored,
      exec_checkpointConfirm_sound, exec_checkpointConfirm_bad, exec_checkpointConfirm_none⟩
  · intro tag known entry spare own
    refine ⟨fun hm hlead => ?leader, fun hm hlead hc => exec_join_passesOn hl hm hlead hc,
      fun p hm hlead hc hp => exec_join_own hl hm hlead hc hp, exec_joined hl, fun _ => exec_joined_refused,
      fun hm ha hroot => ?table, fun _ => exec_table_root, fun hm ha => ?tableOutside⟩
    case leader =>
      rw [exec_join_leader hl hm hlead]
      exact ⟨fun hw ht he => congrArg _ ((takeJoin_records hw ht).trans (recordJoin_free he)),
        fun hw ht he => congrArg _ ((takeJoin_records hw ht).trans (recordJoin_full he)),
        fun hk ht => congrArg _ (takeJoin_otherTag hk ht), fun hw hsp ht => congrArg _ (takeJoin_assigns hw hsp ht)⟩
    case table => rw [exec_table hl hm (.inr hroot), if_pos ha]
    case tableOutside => rw [exec_table hl hm (.inl ha), if_neg (by simp [ha])]

end Sys2Proof.Machine
end

section
/-! The CTL instructions start with their effects (R73, R260 to R264). -/

namespace Sys2Proof.Machine

/-! ### Functions of the state that change tokens alone -/

/-- Beside its tokens `t` is the state `s`. -/
def State.tokensDiffer (s t : State) : Prop := t = { s with sch := { s.sch with tokens := t.sch.tokens } }

section
variable {s t u : State} {id : Nat} {i : Inst}

theorem tokensDiffer_trans (h : s.tokensDiffer t) (h' : t.tokensDiffer u) : s.tokensDiffer u := by
  rw [State.tokensDiffer] at h h' ⊢
  rw [h', h]

theorem tokensDiffer_putTok (k : Nat) (v : Option Tok) : s.tokensDiffer (s.putTok k v) := rfl

theorem tokensDiffer_signal (k : Nat) : s.tokensDiffer (s.signal k true) := by
  unfold State.signal
  split
  · rfl
  · rw [if_pos rfl]
    split
    · exact tokensDiffer_putTok _ _
    · rfl

theorem rd_of_tokensDiffer (h : s.tokensDiffer t) (space a : Nat) : t.rd space a = s.rd space a := by
  rw [h]
  rfl

theorem inst_of_tokensDiffer (h : s.tokensDiffer t) (m : Nat) : t.inst m = s.inst m := by
  rw [h]
  rfl

/-! ### The tokens of a range (R262) -/

theorem rangeOk_iff {r : Rec} : r.rangeOk = true ↔
    1 ≤ bitsOf r.imm1 0 16 ∧ 1 ≤ bitsOf r.imm1 16 16 ∧ bitsOf r.imm1 0 16 + bitsOf r.imm1 16 16 - 1 ≤ 0xffff := by
  simp [Rec.rangeOk, and_assoc]

/-- A range that ends above the last token is refused (R262). -/
theorem rangeOk_beyond {r : Rec} (h : 0xffff < bitsOf r.imm1 0 16 + bitsOf r.imm1 16 16 - 1) : ¬ r.rangeOk = true := by
  rw [rangeOk_iff]
  omega

theorem mem_range_iff {r : Rec} {k : Nat} :
    k ∈ r.range ↔ bitsOf r.imm1 0 16 ≤ k ∧ k < bitsOf r.imm1 0 16 + bitsOf r.imm1 16 16 := by
  simp only [Rec.range, List.mem_map, List.mem_range]
  constructor
  · rintro ⟨n, hn, rfl⟩
    omega
  · rintro ⟨hlo, hhi⟩
    exact ⟨k - bitsOf r.imm1 0 16, by omega, by omega⟩

theorem tokensDiffer_foldl {g : State → Nat → State} (hg : ∀ (t : State) k, t.tokensDiffer (g t k)) (l : List Nat) (s : State) :
    s.tokensDiffer (l.foldl g s) :=
  List.foldlRecOn l g rfl fun _ h _ _ => tokensDiffer_trans h (hg _ _)

/-- An update of one token at a time updates the tokens of a list, where a second update of a token changes nothing
more. -/
theorem tok_foldl {g : State → Nat → State} {upd : Option Tok → Option Tok} (hupd : ∀ x, upd (upd x) = upd x)
    (l : List Nat) (hg : ∀ t, ∀ k ∈ l, ∀ n, (g t k).tok n = if n = k then upd (t.tok n) else t.tok n) (s : State) (n : Nat) :
    (l.foldl g s).tok n = if n ∈ l then upd (s.tok n) else s.tok n := by
  induction l generalizing s with
  | nil => rfl
  | cons k l ih =>
    rw [List.foldl_cons, ih (fun t m hm => hg t m (List.mem_cons_of_mem _ hm)), hg s k List.mem_cons_self]
    by_cases hk : n = k
    · subst hk
      simp [hupd]
    · simp [hk]

/-- A token after CTL.TSET: it is SET, unless it is POISONED. -/
def setUnlessPoisoned (x : Option Tok) : Option Tok := some (if x = some .poisoned then .poisoned else .set)

theorem setUnlessPoisoned_idem (x : Option Tok) : setUnlessPoisoned (setUnlessPoisoned x) = setUnlessPoisoned x := by
  by_cases hx : x = some .poisoned <;> simp [setUnlessPoisoned, hx]

/-- An instruction that updates the tokens of its range leaves the other tokens and every byte, and finishes. -/
theorem finishes_range {g : State → Nat → State} {upd : Option Tok → Option Tok} (hi : s.inst id = some i)
    (hframe : ∀ (t : State) k, t.tokensDiffer (g t k)) (hupd : ∀ x, upd (upd x) = upd x)
    (hg : ∀ t, ∀ k ∈ i.code.range, ∀ n, (g t k).tok n = if n = k then upd (t.tok n) else t.tok n) :
    let first := bitsOf i.code.imm1 0 16
    let count := bitsOf i.code.imm1 16 16
    let u := ((i.code.range.foldl g s).finishes i 0 0 0).afterStart id
    (∀ k, first ≤ k → k < first + count → u.tok k = upd (s.tok k)) ∧
    (∀ k, k < first ∨ first + count ≤ k → u.tok k = s.tok k) ∧
    u.inst id = some (i.finish 0 0 0) ∧ ∀ sp a, u.rd sp a = s.rd sp a := by
  intro first count u
  have hs : s.tokensDiffer (i.code.range.foldl g s) := tokensDiffer_foldl hframe _ s
  have htok : ∀ k, u.tok k = if k ∈ i.code.range then upd (s.tok k) else s.tok k := fun k =>
    (tok_afterStart _ id k).trans (tok_foldl hupd _ hg s k)
  refine ⟨fun k hlo hhi => ?_, fun k hout => ?_, ?_, fun sp a => ?_⟩
  · rw [htok, if_pos (mem_range_iff.2 ⟨hlo, hhi⟩)]
  · have hk : k ∉ i.code.range := fun hmem => by
      have := mem_range_iff.1 hmem
      omega
    rw [htok, if_neg hk]
  · have hid : i.id = id := inst_id hi
    exact (inst_afterStart _ id id).trans (inst_putInst_same ((inst_of_tokensDiffer hs id).trans hi) hid)
  · exact (rd_afterStart _ id sp a).trans (rd_of_tokensDiffer hs sp a)

/-! ### One equation for each way in which an instruction ends -/

theorem exec_ctlNop (h : s.mayStart 0x0000 id i) :
    exec (.ctlNop id) s = .next ((s.putInst (i.finish 0 0 0)).afterStart id) := start_eq h _

theorem exec_ctlJoin_set (h : s.mayStart 0x0001 id i) (hset : ∀ t ∈ i.code.joinTokens, s.tok t = some .set) :
    exec (.ctlJoin id) s = .next ((s.putInst (i.finish 0 0 0)).afterStart id) := by
  have hbad : i.code.joinTokens.any (fun t => s.tok t == some .poisoned) = false := by
    rw [List.any_eq_false]
    intro t ht
    simp [hset t ht]
  have hall : i.code.joinTokens.all (fun t => s.tok t == some .set) = true := by
    simpa using hset
  refine startIf_run h (by simp only [hall, Bool.or_true]) ?_
  simp only [hbad, Bool.false_eq_true, if_false]
  rfl

theorem exec_ctlJoin_poisoned (h : s.mayStart 0x0001 id i) (hp : ∃ t ∈ i.code.joinTokens, s.tok t = some .poisoned) :
    exec (.ctlJoin id) s = .next ((s.putInst (i.end_ stDepFailed)).afterStart id) := by
  have hbad : i.code.joinTokens.any (fun t => s.tok t == some .poisoned) = true := by
    simpa using hp
  exact startIf_run h (by simp only [hbad, Bool.true_or]) (if_pos hbad)

theorem exec_ctlFence (h : s.mayStart 0x0004 id i) (hok : i.covers.2 = false)
    (hover : ∀ j ∈ s.sch.inflight, j.queue = i.queue → i.covers.1 ≤ j.id → i.id ≤ j.id) :
    exec (.ctlFence id) s = .next ((s.putInst (i.finish 0 0 0)).afterStart id) := by
  refine startIf_run h ?_ (if_neg (by simp [hok]))
  simp only [List.all_eq_true, Bool.or_eq_true, bne_iff_ne, decide_eq_true_eq]
  intro j hj
  by_cases hahead : j.queue = i.queue ∧ i.covers.1 ≤ j.id
  · exact .inr (hover j hj hahead.1 hahead.2)
  · exact .inl ((not_and_or.1 hahead).imp_right Nat.lt_of_not_le)

/-- The tensor of a CTL.MARK, where it names one, is U64 in scratchpad or HBM and has the element (R264). -/
theorem exec_ctlMark (h : s.mayStart 0x0005 id i)
    (hd : i.has 0 = true → (i.d 0).format = 0x12 ∧ (i.d 0).loc ≤ 1 ∧ i.code.imm2 < (i.d 0).count) :
    exec (.ctlMark id) s = .next (((s.evI 0x0020 unitSched (bitsOf i.code.imm1 0 32) 0 i).putInst
      (i.finish 0 0 0)).afterStart id) := by
  refine start_run h (if_pos ?_)
  split
  · rename_i h0
    obtain ⟨hf, hl, hc⟩ := hd h0
    simp [firstFail, hf, hl, hc]
  · rfl

theorem exec_ctlTset (h : s.mayStart 0x0002 id i) (hr : i.code.rangeOk = true) : exec (.ctlTset id) s =
    .next (((i.code.range.foldl (fun t k => t.signal k true) s).finishes i 0 0 0).afterStart id) :=
  start_run h (if_pos hr)

theorem exec_ctlTclr (h : s.mayStart 0x0003 id i) (hr : i.code.rangeOk = true) : exec (.ctlTclr id) s =
    .next (((i.code.range.foldl (fun t k => t.putTok k none) s).finishes i 0 0 0).afterStart id) :=
  start_run h (if_pos hr)

end

/-! ### The statement -/

/-- Settles O2: NOP, JOIN, FENCE and MARK by one equation for each end, TSET and TCLR by the tokens of their range. -/
theorem controlInstructionsComplete : Obligations.ControlInstructionsComplete := by
  refine ⟨fun s id i => ⟨exec_ctlNop, exec_ctlJoin_set, exec_ctlJoin_poisoned, exec_ctlFence,
    fun h h0 => exec_ctlMark h (by simp [h0]), fun h _ hf hl hc => exec_ctlMark h fun _ => ⟨hf, hl, hc⟩⟩,
    fun s id i => ?_⟩
  intro first count
  refine ⟨fun h hf hc hr => ⟨_, exec_ctlTset h (rangeOk_iff.2 ⟨hf, hc, hr⟩), ?set⟩,
    fun h hf hc hr => ⟨_, exec_ctlTclr h (rangeOk_iff.2 ⟨hf, hc, hr⟩), ?clear⟩,
    fun h hr => start_run h (if_neg (rangeOk_beyond hr)), fun h hr => start_run h (if_neg (rangeOk_beyond hr))⟩
  case set =>
    have hpos : ∀ k ∈ i.code.range, k ≠ 0 := fun k hk => by
      have := (mem_range_iff.1 hk).1
      omega
    exact finishes_range h.here (fun _ => tokensDiffer_signal) setUnlessPoisoned_idem
      fun t k hk n => tok_signal (hpos k hk) t n
  case clear =>
    exact finishes_range (upd := fun _ => none) h.here (fun _ k => tokensDiffer_putTok k none) (fun _ => rfl)
      fun t k _ n => tok_putTok t k n none

end Sys2Proof.Machine
end

section
/-! What every step keeps: the fuses that are blown and the canonical form of the memories (R344 to R346, R406). A step
takes the command at the front of the queue; and what the registers read after reset (R401, R407, R456). -/

namespace Sys2Proof.Machine
/-- Every command keeps the queue behind it, the blown fuses and the canonical form, by the lemma of its meaning. -/
theorem exec_keeps {z s : State} (hk : Keeps z s) (c : Instr) : OKeeps z (exec c s) := by
  cases c with
  | ctlNop => exact execCtlNop_keeps hk _
  | ctlJoin => exact execCtlJoin_keeps hk _
  | ctlTset => exact execCtlTset_keeps hk _
  | ctlTclr => exact execCtlTclr_keeps hk _
  | ctlFence => exact execCtlFence_keeps hk _
  | ctlMark => exact execCtlMark_keeps hk _
  | memAlloc => exact execMemAlloc_keeps hk _
  | memFree => exact execMemFree_keeps hk _
  | memDset => exact execMemDset_keeps hk _
  | memQuota => exact execMemQuota_keeps hk _
  | memFill => exact execMemFill_keeps hk _
  | movCopy => exact execMovCopy_keeps hk _ _
  | movList => exact execMovList_keeps hk _ _
  | vecAdd => exact execVecAdd_keeps hk _
  | vecSub => exact execVecSub_keeps hk _
  | vecMul => exact execVecMul_keeps hk _
  | vecFma => exact execVecFma_keeps hk _
  | vecMin => exact execVecMin_keeps hk _
  | vecMax => exact execVecMax_keeps hk _
  | vecAbs => exact execVecAbs_keeps hk _
  | vecNeg => exact execVecNeg_keeps hk _
  | vecAnd => exact execVecAnd_keeps hk _
  | vecOr => exact execVecOr_keeps hk _
  | vecXor => exact execVecXor_keeps hk _
  | vecNot => exact execVecNot_keeps hk _
  | vecShl => exact execVecShl_keeps hk _
  | vecShr => exact execVecShr_keeps hk _
  | vecSar => exact execVecSar_keeps hk _
  | vecCmp => exact execVecCmp_keeps hk _
  | vecSel => exact execVecSel_keeps hk _
  | vecFunc => exact execVecFunc_keeps hk _
  | vecCvt => exact execVecCvt_keeps hk _
  | vecGather => exact execVecGather_keeps hk _
  | vecScatadd => exact execVecScatadd_keeps hk _
  | vecSegsum => exact execVecSegsum_keeps hk _
  | vecSegmax => exact execVecSegmax_keeps hk _
  | vecSort => exact execVecSort_keeps hk _
  | vecTopk => exact execVecTopk_keeps hk _
  | vecHist => exact execVecHist_keeps hk _
  | valPush => exact execValPush_keeps hk _ _
  | valPop => exact execValPop_keeps hk _ _
  | valDrop => exact execValDrop_keeps hk _
  | arrPlace => exact execArrPlace_keeps hk _
  | arrProgram => exact execArrProgram_keeps hk _
  | arrRelease => exact execArrRelease_keeps hk _
  | arrFwd => exact execArrFwd_keeps hk _
  | arrLread => exact execArrLread_keeps hk _
  | arrFallback => exact execArrFallback_keeps hk _
  | arrCalib => exact execArrCalib_keeps hk _
  | grdFwd => exact execGrdFwd_keeps hk _
  | grdDx => exact execGrdDx_keeps hk _
  | grdDw => exact execGrdDw_keeps hk _
  | rowNorm => exact execRowNorm_keeps hk _
  | rowNormb => exact execRowNormb_keeps hk _
  | rowSmax => exact execRowSmax_keeps hk _
  | rowSmaxb => exact execRowSmaxb_keeps hk _
  | rowLse => exact execRowLse_keeps hk _
  | rowLseb => exact execRowLseb_keeps hk _
  | colBucket => exact execColBucket_keeps hk _
  | colPass => exact execColPass_keeps hk _
  | colUpdcfg => exact execColUpdcfg_keeps hk _
  | colAvgreset => exact execColAvgreset_keeps hk _
  | svcSeed => exact execSvcSeed_keeps hk _
  | svcCkpt => exact execSvcCkpt_keeps hk _
  | svcScrub => exact execSvcScrub_keeps hk _
  | svcRecord => exact execSvcRecord_keeps hk _
  | recordAdmission => exact execRecordAdmission_keeps hk _
  | chainClose => exact execChainClose_keeps hk _
  | instructionCompletion => exact execInstructionCompletion_keeps hk _
  | stall => exact execStall_keeps hk
  | gridItem id grid agree => exact execGridItem_keeps hk id grid agree
  | digitalArbitration => exact execDigitalArbitration_keeps hk _ _ _ _
  | arrayArbitration => exact execArrayArbitration_keeps hk _ _ _
  | partFailure => exact execPartFailure_keeps hk _ _
  | ftqPost => exact execFtqPost_keeps hk
  | valleyPrefetch => exact execValleyPrefetch_keeps hk
  | pageTransferDone => exact execPageTransferDone_keeps hk _
  | doorbell => exact execDoorbell_keeps hk _ _
  | ingestWake => exact execIngestWake_keeps hk _
  | stepLaunch => exact execStepLaunch_keeps hk
  | tokenClearAll => exact execTokenClearAll_keeps hk
  | run => exact execRun_keeps hk _
  | queueCfg => exact execQueueCfg_keeps hk _ _
  | cqCfg => exact execCqCfg_keeps hk _ _
  | cqHead => exact execCqHead_keeps hk _ _
  | quotaWrite => exact execQuotaWrite_keeps hk _ _
  | linfoWrite => exact execLinfoWrite_keeps hk _
  | forceProbe => exact execForceProbe_keeps hk
  | qclear => exact execQclear_keeps hk
  | registerWrite => exact execRegisterWrite_keeps hk _ _ _ _
  | headSeqRead => exact execHeadSeqRead_keeps hk
  | evtRate => exact execEvtRate_keeps hk _
  | msixUnmask => exact execMsixUnmask_keeps hk _
  | programLoad => exact execProgramLoad_keeps hk
  | loopLaunch => exact execLoopLaunch_keeps hk
  | settleExpiry => exact execSettleExpiry_keeps hk
  | ingestPoll => exact execIngestPoll_keeps hk _
  | ingestTake => exact execIngestTake_keeps hk _
  | batchPresent => exact execBatchPresent_keeps hk _
  | ingestStall => exact execIngestStall_keeps hk
  | loopStart => exact execLoopStart_keeps hk _
  | loopStop => exact execLoopStop_keeps hk _
  | loopRestart => exact execLoopRestart_keeps hk _
  | restoreHost => exact execRestoreHost_keeps hk _
  | ckptNow => exact execCkptNow_keeps hk _
  | fwStage => exact execFwStage_keeps hk _
  | fwActivate => exact execFwActivate_keeps hk _
  | serviceBadCmd => exact execServiceBadCmd_keeps hk _
  | readySend => exact execReadySend_keeps hk
  | ready => exact execReady_keeps hk _ _
  | fail => exact execFail_keeps hk _ _
  | commit => exact execCommit_keeps hk _
  | veto => exact execVeto_keeps hk _
  | clear => exact execClear_keeps hk _ _
  | resume => exact execResume_keeps hk _
  | rollback => exact execRollback_keeps hk _
  | rollbackComplete => exact execRollbackComplete_keeps hk
  | heartbeatSend => exact execHeartbeatSend_keeps hk
  | heartbeat => exact execHeartbeat_keeps hk _ _
  | heartbeatMiss => exact execHeartbeatMiss_keeps hk _
  | failnote => exact execFailnote_keeps hk _ _
  | takeover => exact execTakeover_keeps hk _ _
  | digestCompute => exact execDigestCompute_keeps hk
  | digestDown => exact execDigestDown_keeps hk _
  | digestUp => exact execDigestUp_keeps hk _ _
  | checkpointConfirm => exact execCheckpointConfirm_keeps hk
  | join => exact execJoin_keeps hk _ _
  | joined => exact execJoined_keeps hk _
  | table => exact execTable_keeps hk _
  | bucketRelease => exact execBucketRelease_keeps hk _
  | bucketEntry => exact execBucketEntry_keeps hk
  | groupSend => exact execGroupSend_keeps hk _
  | up26 => exact execUp26_keeps hk _ _
  | up40 => exact execUp40_keeps hk _ _
  | updateGroup => exact execUpdateGroup_keeps hk _
  | down => exact execDown_keeps hk _
  | probeUp => exact execProbeUp_keeps hk _ _
  | probeDown => exact execProbeDown_keeps hk _
  | end_ => exact execEnd_keeps hk _
  | retry => exact execRetry_keeps hk _
  | fence => exact execFence_keeps hk _ _
  | bulkData => exact execBulkData_keeps hk _ _
  | nak => exact execNak_keeps hk _ _
  | creditSync => exact execCreditSync_keeps hk _ _
  | ident => exact execIdent_keeps hk _ _
  | idle => exact execIdle_keeps hk _ _
  | blockSend => exact execBlockSend_keeps hk _
  | blockForward => exact execBlockForward_keeps hk _
  | fecUncorrectable => exact execFecUncorrectable_keeps hk _
  | blockCrcFail => exact execBlockCrcFail_keeps hk _
  | ackTimeout => exact execAckTimeout_keeps hk _
  | resendLimit => exact execResendLimit_keeps hk _
  | violationLimit => exact execViolationLimit_keeps hk _
  | linkTraining => exact execLinkTraining_keeps hk _ _ _ _ _
  | lossOfLock => exact execLossOfLock_keeps hk _
  | trainingRetry => exact execTrainingRetry_keeps hk _
  | retrain => exact execRetrain_keeps hk _
  | unquarantine => exact execUnquarantine_keeps hk _
  | portEnable => exact execPortEnable_keeps hk _ _
  | routeLoad => exact execRouteLoad_keeps hk
  | calibrationDue => exact execCalibrationDue_keeps hk _
  | calibration => exact execCalibration_keeps hk _ _
  | levelCrossingStart => exact execLevelCrossingStart_keeps hk _
  | rowWrite => exact execRowWrite_keeps hk _ _
  | wearWarn => exact execWearWarn_keeps hk _
  | wearRetire => exact execWearRetire_keeps hk _
  | suspectReprogram => exact execSuspectReprogram_keeps hk _
  | patrolScrub => exact execPatrolScrub_keeps hk _ _
  | hbmRowRepair => exact execHbmRowRepair_keeps hk _
  | requestIdle => exact execRequestIdle_keeps hk
  | requestDoze => exact execRequestDoze_keeps hk
  | requestDeep => exact execRequestDeep_keeps hk
  | d3hotEntry => exact execD3hotEntry_keeps hk
  | d0Return => exact execD0Return_keeps hk
  | dozeEntry => exact execDozeEntry_keeps hk
  | deepEntry => exact execDeepEntry_keeps hk
  | dozeExit => exact execDozeExit_keeps hk _
  | deepExit => exact execDeepExit_keeps hk _
  | hbmSelfRefreshReturn => exact execHbmSelfRefreshReturn_keeps hk
  | unitSleep => exact execUnitSleep_keeps hk _ _
  | unitWake => exact execUnitWake_keeps hk _ _
  | thermalSample => exact execThermalSample_keeps hk _ _
  | throttleRelease => exact execThrottleRelease_keeps hk
  | thermalTrip => exact execThermalTrip_keeps hk
  | pwrEnHigh => exact execPwrEnHigh_keeps hk
  | pwrEnLow => exact execPwrEnLow_keeps hk
  | powerGood => exact execPowerGood_keeps hk
  | inputOutOfRange => exact execInputOutOfRange_keeps hk _ _
  | inputPowerRemoved => exact execInputPowerRemoved_keeps hk
  | coldRstN => exact execColdRstN_keeps hk _
  | perstAssert => exact execPerstAssert_keeps hk
  | perstDeassert => exact execPerstDeassert_keeps hk
  | hotReset => exact execHotReset_keeps hk
  | busMasterEnable => exact execBusMasterEnable_keeps hk
  | devReset => exact execDevReset_keeps hk _
  | serviceReset => exact execServiceReset_keeps hk _
  | puppeteerWatchdog => exact execPuppeteerWatchdog_keeps hk
  | tileReset => exact execTileReset_keeps hk _
  | boot => exact execBoot_keeps hk _ _
  | bootWatchdog => exact execBootWatchdog_keeps hk
  | rollbackAdvance => exact execRollbackAdvance_keeps hk _
  | entropyHealthFail => exact execEntropyHealthFail_keeps hk _
  | nonce => exact execNonce_keeps hk
  | debugReq => exact execDebugReq_keeps hk _
  | debugRel => exact execDebugRel_keeps hk
  | lifecycle => exact execLifecycle_keeps hk _ _
  | keyRotate => exact execKeyRotate_keeps hk _
  | scrubAll => exact execScrubAll_keeps hk
  | features => exact execFeatures_keeps hk _
  | secBadCmd => exact execSecBadCmd_keeps hk _
  | dapAccess => exact execDapAccess_keeps hk _
  | windowAccess => exact execWindowAccess_keeps hk _ _ _
  | decoderCommit => exact execDecoderCommit_keeps hk _ _
  | cacheResponse => exact execCacheResponse_keeps hk _ _
  | hostAccessTimeout => exact execHostAccessTimeout_keeps hk _
  | ideIntegrityFail => exact execIdeIntegrityFail_keeps hk _
  | ideKm => exact execIdeKm_keeps hk _
  | doeDiscovery => exact execDoeDiscovery_keeps hk _
  | cdatTableAccess => exact execCdatTableAccess_keeps hk _
  | getCertificate => exact execGetCertificate_keeps hk _
  | challenge => exact execChallenge_keeps hk _ _
  | getMeasurements => exact execGetMeasurements_keeps hk _
  | attestationReport => exact execAttestationReport_keeps hk _
  | setEndpointId => exact execSetEndpointId_keeps hk _
  | getEndpointId => exact execGetEndpointId_keeps hk
  | getMctpVersionSupport => exact execGetMctpVersionSupport_keeps hk _
  | getMessageTypeSupport => exact execGetMessageTypeSupport_keeps hk
  | getTid => exact execGetTid_keeps hk
  | getPldmVersion => exact execGetPldmVersion_keeps hk _
  | getPldmTypes => exact execGetPldmTypes_keeps hk
  | getPldmCommands => exact execGetPldmCommands_keeps hk _
  | getPdr => exact execGetPdr_keeps hk _
  | getSensorReading => exact execGetSensorReading_keeps hk _
  | getStateSensorReadings => exact execGetStateSensorReadings_keeps hk _
  | requestUpdate => exact execRequestUpdate_keeps hk
  | firmwareTransfer => exact execFirmwareTransfer_keeps hk _
  | activateFirmware => exact execActivateFirmware_keeps hk
  | submit => exact execSubmit_keeps hk _
  | eventRecord => exact execEventRecord_keeps hk
  | interruptHoldoff => exact execInterruptHoldoff_keeps hk
  | extensionCopy => exact execExtensionCopy_keeps hk
  | evtLost => exact execEvtLost_keeps hk
  | suppressionWindow => exact execSuppressionWindow_keeps hk
  | replayEnter => exact execReplayEnter_keeps hk
  | replayExit => exact execReplayExit_keeps hk
  | kernelTable => exact execKernelTable_keeps hk
  | inputPowerApplied => exact execInputPowerApplied_keeps hk
  | cxlLinkUp => exact execCxlLinkUp_keeps hk _ _ _
  | memorySpaceEnable => exact execMemorySpaceEnable_keeps hk
  | spdmSessionStart => exact execSpdmSessionStart_keeps hk
  | spdmSessionEnd => exact execSpdmSessionEnd_keeps hk

/-- Behind the queue, a step that goes on keeps what a command keeps: it is a command, or a tick. -/
theorem goesOn_keeps {s t : State} (h : goesOn s t) : ∃ l, Keeps (s.setPending l) t := by
  unfold goesOn step at h
  split at h
  case h_1 =>
    cases h
    exact ⟨s.pending, State.idleTick_keeps (keeps_refl s)⟩
  case h_2 c rest _ => exact ⟨rest, (exec_keeps (keeps_refl _) c).next t h⟩

/-- Settles O57: a command keeps the canonical form of the three memories, and the queue is no memory. -/
theorem memoryStaysCanonical : Obligations.MemoryStaysCanonical := by
  intro s t hs ht
  obtain ⟨_, hk⟩ := goesOn_keeps ht
  exact hk.mem hs

/-- Settles O56: a command keeps every fuse that is blown, and the queue is no fuse. -/
theorem fusesNeverUnblown : Obligations.FusesNeverUnblown := by
  intro s t ht
  obtain ⟨_, hk⟩ := goesOn_keeps ht
  exact hk.fuses

/-- Settles O1: the queue's rest replaces the queue, and what `step` does is said by the queue. -/
theorem stepTakesTheFrontCommand : Obligations.StepTakesTheFrontCommand := by
  refine ⟨fun c rest s => ⟨rfl, rfl⟩, fun s h => ?_⟩
  unfold step
  rw [h]

/-- A field that the register file does not list reads as its reset value. -/
theorem f_of_unlisted {s : State} {x : Fld} (h : x.key ∉ s.regs.map Prod.fst) : s.f x = x.rst := by
  have hn : mget x.key s.regs = none := T.mget_none fun p hp hk => h (hk ▸ List.mem_map_of_mem hp)
  rw [State.f, hn, Option.getD_none]

/-- Settles O58: the register file lists four fields, and the memories list no byte. -/
theorem resetLeavesTheTableValues : Obligations.ResetLeavesTheTableValues :=
  ⟨rfl, rfl, rfl, rfl, rfl, fun _ h => f_of_unlisted h, rfl, rfl, rfl, rfl⟩

end Sys2Proof.Machine
end

section
/-! An entry to Deep counts in PWR.COUNTS.DEEP, whose 16 bits saturate (R370 and its register table). The
statement has the count saturate at 32 bits. -/

namespace Sys2Proof.Machine

/-- An idle device that a request for Deep is about to take there, and whose count of entries to Deep is at its greatest
value. -/
def deepCountFull : State := (T.rests 1 3 none).setF F.pwrCountsDeep 0xffff

theorem deepCountFull_enters : (deepCountFull.pwr.on = true ∧ (deepCountFull.pst_ = 1 ∨ deepCountFull.pst_ = 2) ∧
    deepCountFull.f F.pwrStatusPending = 3 ∧ deepCountFull.pwr.wake = none) ∧ deepCountFull.free = true ∧
    deepCountFull.haltHold = false := by decide +kernel

theorem deepCountFull_quiet : deepCountFull.portsQuiet = true ∧ deepCountFull.f F.pwrCountsDeep = 0xffff := by
  decide +kernel

theorem exec_deepEntry_countFull : ∃ t : State, exec .deepEntry deepCountFull = .next t ∧ t.f F.pwrCountsDeep = 0xffff := by
  obtain ⟨t, ht⟩ := exec_answers .deepEntry deepCountFull
  have hcount : T.after .deepEntry deepCountFull (fun u => u.f F.pwrCountsDeep == 0xffff) = true := by decide +kernel
  rw [T.after, ht] at hcount
  exact ⟨t, ht, eq_of_beq hcount⟩

/-- Refutes O35: PWR.COUNTS.DEEP has 16 bits. From 65,535 an entry to Deep leaves it there, where the statement has it at
65,536. -/
theorem not_restIsEnteredAndLeft : ¬ Obligations.RestIsEnteredAndLeft := by
  intro h
  obtain ⟨hquiet, hcount⟩ := deepCountFull_quiet
  obtain ⟨-, -, -, -, -, enters, -⟩ := h deepCountFull .doorbell
  obtain ⟨t, ht, -, -, -, -, hstated, -⟩ := enters deepCountFull_enters hquiet
  obtain ⟨u, hu, hsat⟩ := exec_deepEntry_countFull
  obtain rfl : t = u := Host.Outcome.next.inj (ht.symm.trans hu)
  rw [hcount] at hstated
  exact absurd (hsat.symm.trans hstated) (by decide)

end Sys2Proof.Machine
end

section
/-! Requests for Idle, Doze and Deep (R353, R361, R362, R365): a request is recorded, and by the state the device is in it
withdraws what pends, wakes the device, is held, or begins the move. -/

namespace Sys2Proof.Machine

section
variable {s : State}

/-! ### A request of a state -/

theorem requestState_idle_awake (hp : s.pst_ ≤ 1) : s.requestState 1 =
    (((s.setF F.pwrStatusPending 7).setF F.pwrStatusHold 0).setF F.pwrStatusMoving 0).setF F.pwrCtrlReq 1 :=
  congrArg (State.setF · F.pwrCtrlReq 1) (if_pos hp)

/-- The device leaves its rest: what pends is withdrawn, and the trigger is kept unless one came before (R361, R366). -/
theorem requestState_idle_resting (hp : 1 < s.pst_) : s.requestState 1 = (s.wakeUp 2).setF F.pwrCtrlReq 1 :=
  congrArg (State.setF · F.pwrCtrlReq 1) (if_neg (Nat.not_le.2 hp))

theorem wakeUp_resting (hp : s.pst_ ≠ 1) (code : Nat) : s.wakeUp code =
    (let t := ((s.setF F.pwrCtrlReq 0).setF F.pwrStatusPending 7).setF F.pwrStatusMoving 1
     { t with pwr := { s.pwr with wake := some (s.pwr.wake.getD code) } }) := if_neg hp

/-- A write of a field leaves two states that agree on a field in agreement on it. -/
theorem f_setF_congr {t : State} {x : Fld} (h : t.f x = s.f x) (y : Fld) (v : Nat) :
    (t.setF y v).f x = (s.setF y v).f x := by
  by_cases hk : x.key = y.key
  · simp only [State.f, State.setF, regsSet, hk]
    split <;> simp
  · rw [f_setF_other hk, f_setF_other hk, h]

theorem f_wakeUp_resting (hp : s.pst_ ≠ 1) {code : Nat} {x : Fld} (hx : x.key ≠ F.pwrCtrlReq.key) :
    (s.wakeUp code).f x = ((s.setF F.pwrStatusPending 7).setF F.pwrStatusMoving 1).f x := by
  rw [wakeUp_resting hp]
  exact f_setF_congr (f_setF_congr (f_setF_other hx s 0) F.pwrStatusPending 7) F.pwrStatusMoving 1

theorem requestState_there {n : Nat} (hn : 1 < n) (hp : s.pst_ = n) (hw : s.pwr.wake = none) : s.requestState n =
    ((s.setF F.pwrCtrlReq n).setF F.pwrStatusPending 7).setF F.pwrStatusHold 0 := by
  rw [State.requestState, if_neg (by omega), if_neg (by omega)]
  exact if_pos ⟨hp, by simp [hw]⟩

theorem requestState_pends {n : Nat} (hn : 1 < n) (h : s.pst_ ≠ n ∨ s.pwr.wake ≠ none) :
    s.requestState n = (s.setF F.pwrCtrlReq n).pend n := by
  rw [State.requestState, if_neg (by omega), if_neg (by omega)]
  refine if_neg ?_
  rintro ⟨hp, hw⟩
  exact h.elim (fun h => h hp) (fun h => h (Option.isNone_iff_eq_none.1 hw))

/-- The request pends, and its holds are shown. -/
def State.holdsShown (s : State) (n : Nat) : State := (s.setF F.pwrStatusPending n).setF F.pwrStatusHold (s.holdBits n)

theorem pend_free {n : Nat} (h : s.holdBits n = 0) : s.pend n = (s.holdsShown n).setF F.pwrStatusMoving 1 := if_pos h

theorem pend_held_again {n : Nat} (h : s.holdBits n ≠ 0) (hp : s.f F.pwrStatusPending = n) : s.pend n = s.holdsShown n :=
  (if_neg h).trans (if_pos hp)

theorem pend_held_first {n : Nat} (h : s.holdBits n ≠ 0) (hp : s.f F.pwrStatusPending ≠ n) :
    s.pend n = ((s.holdsShown n).ev 0x9002 unitPwr (s.holdBits n) 0).pwrInt := (if_neg h).trans (if_neg hp)

/-! ### The commands -/

/-- The writes of REQ, with the state that each requests. -/
def powerAsks : List (Instr × Nat) := [(.requestIdle, 1), (.requestDoze, 2), (.requestDeep, 3)]

theorem exec_powerAsk {c : Instr} {n : Nat} (h : (c, n) ∈ powerAsks) (s : State) :
    exec c s = s.hostAccess c false (State.requestState n) := by
  simp only [powerAsks, List.mem_cons, Prod.mk.injEq, List.not_mem_nil, or_false] at h
  rcases h with ⟨rfl, rfl⟩ | ⟨rfl, rfl⟩ | ⟨rfl, rfl⟩ <;> rfl

theorem exec_d3hotEntry (hr : s.reachable = true) (hd : s.cxl.d3hot = false) : exec .d3hotEntry s =
    .next (({ s with cxl := { s.cxl with d3hot := true } } : State).requestState 3) := if_neg (by simp [hr, hd])

theorem exec_d3hotEntry_not (h : s.reachable = false ∨ s.cxl.d3hot = true) : exec .d3hotEntry s = .next s :=
  if_pos (by simpa using h)

theorem exec_d0Return (hr : s.reachable = true) (hd : s.cxl.d3hot = true) : exec .d0Return s =
    .next (({ s with cxl := { s.cxl with d3hot := false } } : State).requestState 1) := if_neg (by simp [hr, hd])

theorem exec_d0Return_not (h : s.reachable = false ∨ s.cxl.d3hot = false) : exec .d0Return s = .next s :=
  if_pos (by simpa using h)

end

/-- Settles O34: each write of REQ is one host access, and what a request does is said by the state it asks for and the
state the device is in. -/
theorem powerRequestsPend : Obligations.PowerRequestsPend := by
  intro s asks
  refine ⟨fun h c hc => ?_, fun h hp c hc => ?_, fun h hp hb c hc => ?_, fun h => ⟨fun hp => ?_, fun hp => ?_,
    fun c n hc hn => ?_⟩, exec_d3hotEntry, exec_d3hotEntry_not, exec_d0Return, exec_d0Return_not⟩
  · rw [exec_powerAsk (n := c.2) hc, hostAccess_unreached h]
  · rw [exec_powerAsk (n := c.2) hc, hostAccess_deep h hp]
  · rw [exec_powerAsk (n := c.2) hc, hostAccess_closed h hp hb]
  · rw [exec_powerAsk (n := 1) (by simp [powerAsks]), hostAccess_eq h, requestState_idle_awake hp]
  · have hreq (x : Fld) (hx : x.key ≠ F.pwrCtrlReq.key) : (s.requestState 1).f x =
        ((s.setF F.pwrStatusPending 7).setF F.pwrStatusMoving 1).f x := by
      rw [requestState_idle_resting (by omega), f_setF_other hx, f_wakeUp_resting (by omega) hx]
    refine ⟨_, (exec_powerAsk (n := 1) (by simp [powerAsks]) s).trans (hostAccess_eq h _ _ _), ?_, ?_, ?_, ?_, ?_⟩
    · rw [requestState_idle_resting (by omega), f_setF_same]
      rfl
    · rw [hreq _ (by decide), f_setF_other (by decide), f_setF_same]
      rfl
    · rw [hreq _ (by decide), f_setF_same]
      rfl
    · rw [hreq _ (by decide), f_setF_other (by decide), f_setF_other (by decide)]
      exact hp
    · rw [requestState_idle_resting (by omega), wakeUp_resting (by omega)]
      rfl
  · have hn1 : 1 < n := by
      simp only [asks, List.mem_cons, Prod.mk.injEq, List.not_mem_nil, or_false] at hc
      omega
    have hrun : exec c s = .next (s.requestState n) := (exec_powerAsk hc s).trans (hostAccess_eq h _ _ _)
    rw [hrun]
    refine ⟨fun hp hw => congrArg _ (requestState_there hn1 hp hw), fun hrest => ?_⟩
    rw [requestState_pends hn1 hrest]
    have hpend : (s.setF F.pwrCtrlReq n).f F.pwrStatusPending = s.f F.pwrStatusPending := f_setF_other (by decide) s n
    exact ⟨fun h0 => congrArg _ (pend_free h0), fun h0 hp => congrArg _ (pend_held_again h0 (hpend.trans hp)),
      fun h0 hp => congrArg _ (pend_held_first h0 (hpend.trans_ne hp))⟩

end Sys2Proof.Machine
end

section
/-! Operations that show something: they write registers and tell the event recorder, and change nothing else of the state
(R12, R416). What the fuses load into registers, what a reset tells, and the end of a debug grant are such. -/

namespace Sys2Proof.Machine

/-- From `s` to `t` registers and the event recorder change alone, and of the fields those at the places `ks` alone. -/
structure Shows (ks : List Nat) (s t : State) : Prop where
  rest  : t = { s with regs := t.regs, evt := t.evt }
  field : ∀ x : Fld, x.key ∉ ks → t.f x = s.f x

section
variable {ks : List Nat} {s t u : State}

theorem shows_refl (ks : List Nat) (s : State) : Shows ks s s := ⟨rfl, fun _ _ => rfl⟩

theorem Shows.trans (h : Shows ks s t) (k : Shows ks t u) : Shows ks s u := by
  refine ⟨?_, fun x hx => (k.field x hx).trans (h.field x hx)⟩
  rw [k.rest, h.rest]

theorem Shows.mono {ls : List Nat} (h : Shows ls s t) (hl : ls ⊆ ks) : Shows ks s t :=
  ⟨h.rest, fun x hx => h.field x fun hm => hx (hl hm)⟩

theorem Shows.setF (h : Shows ks s t) {x : Fld} (hx : x.key ∈ ks) (v : Nat) : Shows ks s (t.setF x v) :=
  h.trans ⟨rfl, fun y hy => f_setF_other (y := y) (fun e => hy (e.symm ▸ hx)) t v⟩

theorem Shows.addF (h : Shows ks s t) {x : Fld} (hx : x.key ∈ ks) (n : Nat) : Shows ks s (t.addF x n) := h.setF hx _

theorem Shows.ev (h : Shows ks s t) (hd : F.evtStatusDropped.key ∈ ks) (c v a b : Nat) : Shows ks s (t.ev c v a b) := by
  obtain ⟨hrest, hf⟩ := raise_frame t { code := c, unit := v, arg0 := a, arg1 := b }
  refine h.trans ⟨?_, fun x hx => hf x (fun e => hx (e ▸ hd))⟩
  rw [State.ev, hrest]

theorem Shows.ite {c : Prop} [Decidable c] {a b : State} (ha : Shows ks s a) (hb : Shows ks s b) :
    Shows ks s (if c then a else b) := by
  split
  · exact ha
  · exact hb

theorem Shows.pending (h : Shows ks s t) : t.pending = s.pending := by rw [h.rest]
theorem Shows.aon (h : Shows ks s t) : t.aon = s.aon := by rw [h.rest]
theorem Shows.hbm (h : Shows ks s t) : t.hbm = s.hbm := by rw [h.rest]
theorem Shows.scratch (h : Shows ks s t) : t.scratch = s.scratch := by rw [h.rest]
theorem Shows.host (h : Shows ks s t) : t.host = s.host := by rw [h.rest]
theorem Shows.sch (h : Shows ks s t) : t.sch = s.sch := by rw [h.rest]
theorem Shows.fab (h : Shows ks s t) : t.fab = s.fab := by rw [h.rest]
theorem Shows.load (h : Shows ks s t) : t.load = s.load := by rw [h.rest]
theorem Shows.cxl (h : Shows ks s t) : t.cxl = s.cxl := by rw [h.rest]
theorem Shows.pwr (h : Shows ks s t) : t.pwr = s.pwr := by rw [h.rest]
theorem Shows.boot (h : Shows ks s t) : t.boot = s.boot := by rw [h.rest]
theorem Shows.fuses (h : Shows ks s t) : t.fuses = s.fuses := by rw [h.rest]
theorem Shows.sec (h : Shows ks s t) : t.sec = s.sec := by rw [h.rest]

end

/-! ### What the fuses load into registers (R396, R408, R412) -/

/-- The places of the fields that show the fuses, and of those that show the settings of the effective generation. -/
def fuseKeys : List Nat := [F.otpStatusPartial.key, F.otpStatusSealed.key, F.otpStatusRetired.key, F.otpStatusRetireBits.key,
  F.otpStatusRollback.key, F.secFwRollback.key]
def settingKeys : List Nat := [F.otpFeatures.key, F.secStatusIdeReq.key, F.secStatusLifecycle.key, F.secFwFuseGen.key]

theorem showFuses_shows (s : State) : Shows fuseKeys s s.showFuses :=
  ((((((shows_refl _ s).setF (by decide) _).setF (by decide) _).setF (by decide) _).setF (by decide) _).setF
    (by decide) _).setF (by decide) _

theorem showSettings_shows (s : State) : Shows settingKeys s s.showSettings :=
  ((((shows_refl _ s).setF (by decide) _).setF (by decide) _).setF (by decide) _).setF (by decide) _

theorem loadFuses_shows (s : State) : Shows (F.otpStatusEffective.key :: (fuseKeys ++ settingKeys)) s s.loadFuses :=
  (((shows_refl _ s).setF (by decide) _).trans ((showFuses_shows _).mono (by decide))).trans
    ((showSettings_shows _).mono (by decide))

end Sys2Proof.Machine
end

section
/-! The power sequences (R360, R445 to R448): what is left without power, and when power comes and goes. -/

namespace Sys2Proof.Machine

section
variable {s : State}

/-! ### What is left without power -/

/-- A state in which the rails are down and the power-up sequence does not run, with what the connector, the fuses and the
host keep from `s`. -/
structure Unpowered (s t : State) : Prop where
  on      : t.pwr.on = false
  rising  : t.pwr.rising = false
  enable  : t.pwr.enable = s.pwr.enable
  inputOk : t.pwr.inputOk = s.pwr.inputOk
  fuses   : t.fuses = s.fuses
  host    : t.host = s.host

/-- A state in which the device's memories are empty and no instruction is in flight. -/
structure Emptied (t : State) : Prop where
  hbm      : t.hbm = []
  scratch  : t.scratch = []
  inflight : t.sch.inflight = []

/-- What a cold reset leaves of `s`: the memories are empty, and the connector, the fuses and the host stay. -/
structure ColdFrom (s t : State) : Prop extends Emptied t where
  rising  : t.pwr.rising = false
  enable  : t.pwr.enable = s.pwr.enable
  inputOk : t.pwr.inputOk = s.pwr.inputOk
  fuses   : t.fuses = s.fuses
  host    : t.host = s.host

theorem bare_coldFrom (s : State) : ColdFrom s (s.bare true) := ⟨⟨rfl, rfl, rfl⟩, rfl, rfl, rfl, rfl, rfl⟩

/-- What is shown in registers changes nothing of it. -/
theorem ColdFrom.shows {ks : List Nat} {s t u : State} (h : ColdFrom s t) (k : Shows ks t u) : ColdFrom s u := by
  obtain ⟨⟨hh, hs, hi⟩, hr, he, ho, hf, hx⟩ := h
  exact ⟨⟨k.hbm.trans hh, k.scratch.trans hs, by rw [k.sch, hi]⟩, by rw [k.pwr, hr], by rw [k.pwr, he], by rw [k.pwr, ho],
    k.fuses.trans hf, k.host.trans hx⟩

theorem coldLost_shows (s : State) :
    Shows (F.otpStatusEffective.key :: (fuseKeys ++ settingKeys)) (s.bare true) s.coldLost := loadFuses_shows _

theorem coldLost_coldFrom (s : State) : ColdFrom s s.coldLost := (bare_coldFrom s).shows (coldLost_shows s)

/-- The rails down, and else as a cold reset leaves it. -/
theorem powerDown_eq (s : State) :
    s.powerDown = { s.coldLost with pwr := { s.coldLost.pwr with on := false } } := rfl

theorem powerDown_unpowered (s : State) : Unpowered s s.powerDown := by
  have h := coldLost_coldFrom s
  rw [powerDown_eq]
  generalize s.coldLost = t at h
  exact ⟨rfl, h.rising, h.enable, h.inputOk, h.fuses, h.host⟩

theorem powerDown_emptied (s : State) : Emptied s.powerDown := by
  have h := coldLost_coldFrom s
  rw [powerDown_eq]
  generalize s.coldLost = t at h
  exact ⟨h.hbm, h.scratch, h.inflight⟩

theorem powered_iff : s.powered = true ↔ s.pwr.on = true ∨ s.pwr.rising = true := Bool.or_eq_true_iff

/-- Whether or not there was power, there is none now. -/
theorem goDown_unpowered (s : State) : Unpowered s s.goDown := by
  unfold State.goDown
  split
  · exact powerDown_unpowered s
  · rename_i h
    rw [powered_iff, not_or, Bool.not_eq_true, Bool.not_eq_true] at h
    exact ⟨h.1, h.2, rfl, rfl, rfl, rfl⟩

theorem goDown_emptied (h : s.powered = true) : Emptied s.goDown := by
  rw [State.goDown, if_pos h]
  exact powerDown_emptied s

/-! ### Power comes -/

theorem goUp_powered (h : s.powered = true) : s.goUp = s := if_neg (by simp [h])

/-- The power-up sequence begins with PWR_EN high and the input in range, and nothing else changes. -/
theorem goUp_unpowered (h : s.powered = false) : s.goUp =
    { s with pwr := { s.pwr with rising := s.pwr.enable && s.pwr.inputOk } } := by
  unfold State.goUp
  have hr : s.pwr.rising = false := (Bool.or_eq_false_iff.1 h).2
  split
  · rename_i hu
    simp [hu.2.1, hu.2.2]
  · rename_i hu
    have : (s.pwr.enable && s.pwr.inputOk) = false := by
      rw [Bool.and_eq_false_iff]
      by_contra hc
      simp_all
    rw [this, ← hr]

/-- The sequence begins where it is not running yet, and only there. -/
theorem goUp_spec (s : State) : s.goUp.pwr.enable = s.pwr.enable ∧ s.goUp.pwr.inputOk = s.pwr.inputOk ∧
    s.goUp.pwr.on = s.pwr.on ∧
    (¬ (s.pwr.on = true ∨ s.pwr.rising = true) →
      (s.goUp.pwr.rising = true ↔ s.pwr.enable = true ∧ s.pwr.inputOk = true)) ∧
    (s.pwr.on = true ∨ s.pwr.rising = true → s.goUp.pwr.rising = s.pwr.rising) := by
  cases hp : s.powered
  · rw [goUp_unpowered hp]
    exact ⟨rfl, rfl, rfl, fun _ => Bool.and_eq_true_iff, fun h => absurd (powered_iff.2 h) (by simp [hp])⟩
  · rw [goUp_powered hp]
    exact ⟨rfl, rfl, rfl, fun h => absurd (powered_iff.1 hp) h, fun _ => rfl⟩

/-- The end of the power-up sequence: the rails are up, and a cold boot is due. -/
def State.poweredGood (t : State) : State := ({ t with pwr := { t.pwr with on := true } } : State).awaitBoot 0

theorem exec_powerGood_rising (h : s.pwr.rising = true) : exec .powerGood s = .next s.coldLost.poweredGood :=
  if_neg (by simp [h])

/-- Only what is kept without power is left. -/
theorem ColdFrom.poweredGood {t : State} (h : ColdFrom s t) : t.poweredGood.pwr.on = true ∧
    t.poweredGood.pwr.rising = false ∧ t.poweredGood.boot.awaits = some 0 ∧ t.poweredGood.hbm = [] ∧
    t.poweredGood.scratch = [] ∧ t.poweredGood.fuses = s.fuses ∧ t.poweredGood.sch.inflight = [] :=
  ⟨rfl, h.rising, rfl, h.hbm, h.scratch, h.fuses, h.inflight⟩

/-- The pin of cold reset: without power first, and then the sequence runs where PWR_EN and the input allow it. -/
theorem goDown_goUp_spec (h : s.powered = true) : s.goDown.goUp.pwr.on = false ∧ s.goDown.goUp.fuses = s.fuses ∧
    s.goDown.goUp.hbm = [] ∧ s.goDown.goUp.sch.inflight = [] ∧
    (s.goDown.goUp.pwr.rising = true ↔ s.pwr.enable = true ∧ s.pwr.inputOk = true) := by
  have hd := goDown_unpowered s
  have he := goDown_emptied h
  rw [goUp_unpowered (Bool.or_eq_false_iff.2 ⟨hd.on, hd.rising⟩), ← hd.enable, ← hd.inputOk]
  exact ⟨hd.on, hd.fuses, he.hbm, he.inflight, Bool.and_eq_true_iff⟩

end

/-- Settles O37: power that goes leaves what `Unpowered` and `Emptied` say, and power that comes starts the sequence where
PWR_EN and the input allow it. -/
theorem powerComesAndGoes : Obligations.PowerComesAndGoes := by
  unfold Obligations.PowerComesAndGoes
  intro s v us up range
  have hen := goUp_spec (s.setEnable true)
  have hin := goUp_spec (s.setInput true)
  have den := goDown_unpowered (s.setEnable false)
  have din := goDown_unpowered (s.setInput false)
  refine ⟨fun h => ⟨_, if_neg (by simp [h]), ?_⟩, fun h => if_pos h, fun h => ⟨_, if_neg (by simp [h]), ?_⟩,
    fun h => if_pos h, ⟨_, rfl, ?_⟩, ⟨_, rfl, ?_⟩, fun h => ⟨_, if_pos h, ?_⟩, fun h => if_neg h,
    fun h => ⟨_, exec_powerGood_rising h, (coldLost_coldFrom s).poweredGood⟩, fun h => if_pos (by simp [h]),
    fun h hup => ⟨_, if_neg (by omega), goDown_goUp_spec (powered_iff.2 hup)⟩, fun h => if_pos h⟩
  · obtain ⟨e, i, o, r, k⟩ := hen
    exact ⟨e, o, fun h => (r h).trans (and_iff_right rfl), k⟩
  · obtain ⟨e, i, o, r, k⟩ := hin
    exact ⟨i, o, fun h => (r h).trans (and_iff_left rfl), k⟩
  · exact ⟨den.enable, den.on, den.rising, den.fuses, den.host, fun h =>
      have he := goDown_emptied (s := s.setEnable false) (powered_iff.2 h)
      ⟨he.hbm, he.scratch, he.inflight⟩⟩
  · exact ⟨din.inputOk, din.on, din.rising, din.fuses, din.host, fun h =>
      have he := goDown_emptied (s := s.setInput false) (powered_iff.2 h)
      ⟨he.hbm, he.scratch, he.inflight⟩⟩
  · exact ⟨din.inputOk, din.on, din.rising, din.fuses, din.host⟩

end Sys2Proof.Machine
end

section
/-! What a warm reset, a service reset and a lost link leave of the state (R353, R400, R401, R403, R404). -/

namespace Sys2Proof.Machine

section
variable {s t u : State}

/-! ### A debug grant ends -/

def debugKeys : List Nat := [F.secStatusDebug.key, F.arrCtrlDbgRows256.key, F.evtStatusDropped.key]

theorem endDebug_shows (s : State) (cause : Nat) : Shows debugKeys s (s.endDebug cause) :=
  .ite (shows_refl _ s)
    ((((shows_refl _ s).setF (by decide) _).setF (by decide) _).ev (by decide) _ _ _ _)

theorem endDebug_debug (s : State) (cause : Nat) : (s.endDebug cause).f F.secStatusDebug = 0 := by
  unfold State.endDebug
  split
  · assumption
  · rw [f_ev (by decide), f_setF_other (by decide), f_setF_same]
    rfl

/-! ### A reset is told -/

def tellKeys (count : Fld) : List Nat := [F.devBootCause.key, count.key, F.evtStatusDropped.key]

theorem tellReset_shows (s : State) (cause : Nat) (count : Fld) :
    Shows (tellKeys count) s (s.tellReset cause count) :=
  (((shows_refl _ s).setF (List.mem_cons_self ..) _).addF (List.mem_cons_of_mem _ (List.mem_cons_self ..)) _).ev
    (List.mem_cons_of_mem _ (List.mem_cons_of_mem _ (List.mem_cons_self ..))) _ _ _ _

/-- The cause of the last boot shows. -/
theorem tellReset_cause (s : State) (cause : Nat) {count : Fld} (hc : F.devBootCause.key ≠ count.key) :
    (s.tellReset cause count).f F.devBootCause = cause % 16 := by
  rw [State.tellReset, f_ev (by decide), f_addF_other hc, f_setF_same]
  rfl

/-! ### Warm reset -/

/-- What a warm reset leaves of `s`; the link stays with `link` alone. -/
structure WarmFrom (s : State) (link : Bool) (t : State) : Prop where
  hbm      : t.hbm = s.hbm
  aon      : t.aon = s.aon
  fuses    : t.fuses = s.fuses
  loaded   : t.load.loaded = false
  inflight : t.sch.inflight = []
  up       : t.cxl.up = (link && s.cxl.up)
  stopped  : t.boot.stopped = s.errorState

theorem WarmFrom.shows {ks : List Nat} {link : Bool} (h : WarmFrom s link t) (k : Shows ks t u) : WarmFrom s link u :=
  ⟨k.hbm.trans h.hbm, k.aon.trans h.aon, k.fuses.trans h.fuses, by rw [k.load, h.loaded], by rw [k.sch, h.inflight],
    by rw [k.cxl, h.up], by rw [k.boot, h.stopped]⟩

theorem warmLost_warmFrom (s : State) (link : Bool) : WarmFrom s link (s.warmLost link) := by
  refine WarmFrom.shows (ks := fuseKeys ++ settingKeys) ?_
    (((showFuses_shows _).mono (by decide)).trans ((showSettings_shows _).mono (by decide)))
  refine ⟨rfl, rfl, rfl, rfl, rfl, ?_, rfl⟩
  cases link <;> rfl

/-- The error state does not depend on what is shown elsewhere. -/
theorem errorState_shows {ks : List Nat} (h : Shows ks s t) (h1 : F.secStatusSelftestFail.key ∉ ks)
    (h2 : F.devBootFail.key ∉ ks) (h3 : F.otpStatusCorrupt.key ∉ ks) : t.errorState = s.errorState := by
  simp only [State.errorState, State.fb, h.boot, h.field _ h1, h.field _ h2, h.field _ h3]

/-- A warm reset after the end of a debug grant. -/
theorem endDebug_warmLost (s : State) (cause : Nat) (link : Bool) :
    WarmFrom s link ((s.endDebug cause).warmLost link) := by
  have k := endDebug_shows s cause
  have h := warmLost_warmFrom (s.endDebug cause) link
  exact ⟨h.hbm.trans k.hbm, h.aon.trans k.aon, h.fuses.trans k.fuses, h.loaded, h.inflight, by rw [h.up, k.cxl],
    h.stopped.trans (errorState_shows k (by decide) (by decide) (by decide))⟩

/-- DEV.RESET: a warm reset that keeps the link, and a boot that is due. -/
theorem deviceReset_warmFrom (s : State) (cause : Nat) : WarmFrom s true (s.deviceReset cause) ∧
    (s.deviceReset cause).boot.awaits = some cause := by
  have h := (endDebug_warmLost s 1 true).shows (tellReset_shows _ cause F.devResetCountDevice)
  unfold State.deviceReset
  generalize ((s.endDebug 1).warmLost true).tellReset cause F.devResetCountDevice = t at h
  exact ⟨⟨h.hbm, h.aon, h.fuses, h.loaded, h.inflight, h.up, h.stopped⟩, rfl⟩

/-! ### What a restart of the puppeteer leaves of the security block -/

/-- From `s` to `t` the security block and the fuses are unchanged, and so is the debug level shown. -/
structure KeepsSec (s t : State) : Prop where
  sec   : t.sec = s.sec
  level : t.f F.secStatusDebug = s.f F.secStatusDebug
  fuses : t.fuses = s.fuses

theorem keepsSec_refl (s : State) : KeepsSec s s := ⟨rfl, rfl, rfl⟩

theorem KeepsSec.trans (h : KeepsSec s t) (k : KeepsSec t u) : KeepsSec s u :=
  ⟨k.sec.trans h.sec, k.level.trans h.level, k.fuses.trans h.fuses⟩

theorem KeepsSec.after (k : KeepsSec t u) (h : KeepsSec s t) : KeepsSec s u := h.trans k

theorem KeepsSec.same (h : KeepsSec s t) (hs : u.sec = t.sec) (hr : u.regs = t.regs) (hf : u.fuses = t.fuses) :
    KeepsSec s u := h.trans ⟨hs, f_congr hr _, hf⟩

theorem Shows.keepsSec {ks : List Nat} (h : Shows ks s t) (hd : F.secStatusDebug.key ∉ ks) : KeepsSec s t :=
  ⟨h.sec, h.field _ hd, h.fuses⟩

theorem keepsSec_ite {c : Prop} [Decidable c] {a b : State} (ha : KeepsSec s a) (hb : KeepsSec s b) :
    KeepsSec s (if c then a else b) := by split <;> assumption

theorem keepsSec_foldl {α : Type} {f : State → α → State} (hf : ∀ t x, KeepsSec t (f t x)) (l : List α) (s : State) :
    KeepsSec s (l.foldl f s) := by
  induction l generalizing s with
  | nil => exact keepsSec_refl s
  | cons x l ih => exact (hf s x).trans (ih _)

theorem keepsSec_setF (s : State) {x : Fld} (hx : F.secStatusDebug.key ≠ x.key) (v : Nat) : KeepsSec s (s.setF x v) :=
  ⟨rfl, f_setF_other hx s v, rfl⟩

theorem keepsSec_ev (s : State) (c v a b : Nat) : KeepsSec s (s.ev c v a b) :=
  ⟨by simp, f_ev (by decide) s c v a b, by simp⟩

theorem keepsSec_wrNat (s : State) (space a n v : Nat) : KeepsSec s (s.wrNat space a n v) :=
  KeepsSec.same (keepsSec_refl s) (by rw [(bytesFrame_wrNat s space a n v).same]) (by simp)
    (by rw [(bytesFrame_wrNat s space a n v).same])

/-! ### A step that is withdrawn, and a loop that stops -/

theorem keepsSec_freeHeld (s : State) (q : Nat → Bool) : KeepsSec s (s.freeHeld q) :=
  (keepsSec_foldl (f := fun (t : State) (x : Nat × Nat) => t.freeCredit x.1 1) (fun _ _ => ⟨rfl, rfl, rfl⟩) _ _).after ⟨rfl, rfl, rfl⟩

theorem keepsSec_withdrawInsts (s : State) : KeepsSec s s.withdrawInsts := by
  unfold State.withdrawInsts
  exact keepsSec_ite ((keepsSec_ev _ _ _ _ _).after ⟨rfl, rfl, rfl⟩) ⟨rfl, rfl, rfl⟩

theorem keepsSec_putTile (s : State) (n : Nat) (x : Tile) : KeepsSec s (s.putTile n x) := ⟨rfl, rfl, rfl⟩

theorem keepsSec_modTile (s : State) (n : Nat) (g : Tile → Tile) : KeepsSec s (s.modTile n g) := ⟨rfl, rfl, rfl⟩

theorem keepsSec_modLayer (s : State) (n : Nat) (g : Layer → Layer) : KeepsSec s (s.modLayer n g) := ⟨rfl, rfl, rfl⟩

theorem keepsSec_modAll (s : State) (g : Inst → Inst) : KeepsSec s (s.modAll g) := ⟨rfl, rfl, rfl⟩

theorem keepsSec_clamped (s : State) (n m : Nat) (x : Tile) :
    KeepsSec s ((s.putTile n x).addF F.arrOutStatusClamps m) :=
  (keepsSec_setF _ (by decide) _).after (keepsSec_putTile _ _ _)

theorem keepsSec_reevaluate (s : State) (n : Nat) (shadow : Bool) (held : Nat) : KeepsSec s (s.reevaluate n shadow held) := by
  unfold State.reevaluate
  dsimp only
  split
  · exact keepsSec_refl s
  · exact keepsSec_ite ((keepsSec_ev _ _ _ _ _).after ((keepsSec_modLayer _ _ _).after (keepsSec_clamped _ _ _ _)))
      (keepsSec_clamped _ _ _ _)

theorem keepsSec_endWaiters (s : State) (op : Nat) : KeepsSec s (s.endWaiters op) := by
  refine keepsSec_foldl (fun t i => ?_) _ _
  dsimp only
  split
  · split
    · split <;> exact ⟨rfl, rfl, rfl⟩
    · exact ⟨rfl, rfl, rfl⟩
  · exact keepsSec_refl t

/-- The outlier slots of a sealed tile are the committed ones again, or are chosen anew. -/
theorem keepsSec_sealSlots (s : State) (n : Nat) (b : Batch) : KeepsSec s (if b.kind = .restore then
      s.modTile n (fun x => { x with slots := x.comSlots, clamps := x.comClamps })
    else s.reevaluate n b.shadow (s.spokenFor (b.key n))) :=
  keepsSec_ite (keepsSec_modTile _ _ _) (keepsSec_reevaluate _ _ _ _)

theorem keepsSec_sealTile (s : State) (n : Nat) (b : Batch) : KeepsSec s (s.sealTile n b) := by
  unfold State.sealTile
  dsimp only
  exact (keepsSec_endWaiters _ _).after (keepsSec_ite
    ((keepsSec_modAll _ _).after ((keepsSec_sealSlots _ _ _).after (keepsSec_modTile _ _ _)))
    ((keepsSec_sealSlots _ _ _).after (keepsSec_modTile _ _ _)))

theorem keepsSec_arrVeto (s : State) : KeepsSec s s.arrVeto := by
  unfold State.arrVeto
  refine KeepsSec.after (keepsSec_foldl (fun t x => ?_) _ _) ⟨rfl, rfl, rfl⟩
  split
  · exact keepsSec_ite (keepsSec_sealTile _ _ _) (keepsSec_refl _)
  · exact keepsSec_refl _

theorem keepsSec_refreshDefer (s : State) : KeepsSec s s.refreshDefer := by
  unfold State.refreshDefer
  dsimp only
  exact (keepsSec_setF _ (by decide) _).after ((keepsSec_setF _ (by decide) _).after ⟨rfl, rfl, rfl⟩)

theorem keepsSec_colClear (s : State) : KeepsSec s s.colClear :=
  keepsSec_ite ((keepsSec_ev _ _ _ _ _).after ⟨rfl, rfl, rfl⟩) ⟨rfl, rfl, rfl⟩

/-- What a withdrawn step leaves of the scheduler, the arrays and the valley. -/
theorem keepsSec_cleared (s : State) :
    KeepsSec s (s.dropEarly.withdrawInsts.arrVeto.releaseValley false).refreshDefer := by
  have h0 : KeepsSec s s.dropEarly := (keepsSec_freeHeld _ _).after ⟨rfl, rfl, rfl⟩
  have h1 := (h0.trans (keepsSec_withdrawInsts _)).trans (keepsSec_arrVeto _)
  generalize s.dropEarly.withdrawInsts.arrVeto = t at h1
  exact (keepsSec_refreshDefer _).after (h1.trans ⟨rfl, rfl, rfl⟩)

theorem keepsSec_withdraw (s : State) : KeepsSec s s.withdraw := by
  have h := keepsSec_cleared s
  unfold State.withdraw
  dsimp only
  refine keepsSec_ite ((keepsSec_freeHeld _ _).after ⟨rfl, rfl, rfl⟩) ((keepsSec_colClear _).after ?_)
  generalize (s.dropEarly.withdrawInsts.arrVeto.releaseValley false).refreshDefer = t at h
  exact h.same rfl rfl rfl

theorem keepsSec_endCmd (s : State) (status result : Nat) : KeepsSec s (s.endCmd status result) := by
  unfold State.endCmd
  split
  · exact keepsSec_refl s
  · dsimp only
    exact (keepsSec_ev _ _ _ _ _).after ((keepsSec_setF _ (by decide) _).after ((keepsSec_setF _ (by decide) _).after
      ((keepsSec_setF _ (by decide) _).after
        (((keepsSec_wrNat _ _ _ _ _).after (keepsSec_wrNat _ _ _ _ _)).same rfl rfl rfl))))

theorem keepsSec_loopStopped (s : State) (reason : Nat) : KeepsSec s (s.loopStopped reason) := by
  have h : KeepsSec s ((s.setF F.schLoopState 3).setF F.schLoopReason reason) :=
    (keepsSec_setF s (by decide) _).trans (keepsSec_setF _ (by decide) _)
  unfold State.loopStopped
  dsimp only
  split
  · exact keepsSec_ite ((keepsSec_endCmd _ _ _).after (h.same rfl rfl rfl)) (h.same rfl rfl rfl)
  · exact h.same rfl rfl rfl

theorem keepsSec_enterStopped (s : State) (reason : Nat) : KeepsSec s (s.enterStopped reason) := by
  have h := keepsSec_withdraw s
  unfold State.enterStopped
  dsimp only
  generalize s.withdraw = t at h
  have k : KeepsSec t (t.dropAnswer.dropDigests.setPst psStopped) := (keepsSec_setF _ (by decide) _).after ⟨rfl, rfl, rfl⟩
  exact (keepsSec_loopStopped _ _).after ((h.trans k).same rfl rfl rfl)

/-! ### A service reset -/

theorem keepsSec_failCheck (s : State) (reason detail : Nat) : KeepsSec s (s.failCheck reason detail) := by
  unfold State.failCheck
  refine keepsSec_ite (keepsSec_refl s) ?_
  split
  · exact ⟨rfl, rfl, rfl⟩
  · exact keepsSec_ite ⟨rfl, rfl, rfl⟩ (keepsSec_refl s)

def nonceKeys : List Nat := [F.secNonce0.key, F.secNonce1.key, F.secNonce2.key, F.secNonce3.key]

/-- Without its nonce, a state has its four registers cleared too. -/
theorem useNonce_shows (s : State) : Shows nonceKeys { s with sec := { s.sec with nonce := none } } s.useNonce :=
  ((((shows_refl _ _).setF (by decide) _).setF (by decide) _).setF (by decide) _).setF (by decide) _

theorem useNonce_debug (s : State) : s.useNonce.f F.secStatusDebug = s.f F.secStatusDebug :=
  (useNonce_shows s).field _ (by decide)

/-- The puppeteer that restarts is not halted, and the debug level and the fuses are as they were. -/
theorem restartPuppeteer_sec (s : State) : s.restartPuppeteer.sec.halted = false ∧
    s.restartPuppeteer.f F.secStatusDebug = s.f F.secStatusDebug ∧ s.restartPuppeteer.fuses = s.fuses := by
  have hd := useNonce_debug s
  have h : KeepsSec { s.useNonce with sec := { s.useNonce.sec with halted := false } } s.restartPuppeteer := by
    unfold State.restartPuppeteer
    refine keepsSec_ite (keepsSec_refl _) (keepsSec_ite ?_ (keepsSec_ite ?_ ?_))
    · exact (keepsSec_failCheck _ _ _).trans ⟨rfl, rfl, rfl⟩
    · exact keepsSec_enterStopped _ _
    · exact keepsSec_failCheck _ _ _
  exact ⟨by rw [h.sec], h.level.trans hd, h.fuses.trans (useNonce_shows s).fuses⟩

theorem serviceReset_sec (s : State) : s.serviceReset.sec.halted = false ∧
    s.serviceReset.f F.secStatusDebug = s.f F.secStatusDebug ∧ s.serviceReset.fuses = s.fuses := by
  obtain ⟨h, d, f⟩ := restartPuppeteer_sec s
  have k := (tellReset_shows s.restartPuppeteer 4 F.devResetCountService).keepsSec (by decide)
  exact ⟨by rw [State.serviceReset, k.sec, h], k.level.trans d, k.fuses.trans f⟩

/-- The end of a grant closes the debug level, and no puppeteer stays halted. -/
theorem closeDebug_sec (s : State) (cause : Nat) : (s.closeDebug cause).sec.halted = false ∧
    (s.closeDebug cause).f F.secStatusDebug = 0 ∧ (s.closeDebug cause).fuses = s.fuses := by
  have k := endDebug_shows s cause
  unfold State.closeDebug
  dsimp only
  split
  · obtain ⟨hh, hd, hf⟩ := serviceReset_sec (s := s.endDebug cause)
    exact ⟨hh, hd.trans (endDebug_debug s cause), hf.trans k.fuses⟩
  · rename_i h
    exact ⟨by rw [k.sec]; simpa using h, endDebug_debug s cause, k.fuses⟩

theorem closeDebug_running {cause : Nat} (h : s.sec.halted = false) : s.closeDebug cause = s.endDebug cause :=
  if_neg (by simp [h])

/-! ### The link is lost -/

/-- A lost link changes nothing of the program, the fabric and the memories. -/
theorem linkLost_rest (s : State) : s.linkLost.load = s.load ∧ s.linkLost.fab = s.fab ∧ s.linkLost.hbm = s.hbm ∧
    s.linkLost.cxl.up = false ∧ s.linkLost.sec.halted = s.sec.halted ∧
    s.linkLost.f F.secStatusDebug = s.f F.secStatusDebug := by
  have k := useNonce_shows s
  have h : ∀ t : State, t.linkLost.load = t.useNonce.load ∧ t.linkLost.fab = t.useNonce.fab ∧
      t.linkLost.hbm = t.useNonce.hbm ∧ t.linkLost.cxl.up = false ∧ t.linkLost.sec.halted = t.useNonce.sec.halted ∧
      t.linkLost.f F.secStatusDebug = t.useNonce.f F.secStatusDebug := by
    intro t
    unfold State.linkLost State.dropKeys
    refine ⟨by simp, by simp, by simp, by simp, by simp, ?_⟩
    simp only [f_setF_other (x := F.cxlStatusWinCommitted) (y := F.secStatusDebug) (by decide)]
    rw [f_setF_other (by decide), f_setF_other (by decide), f_setF_other (by decide), f_setF_other (by decide),
      f_setF_other (by decide)]
    rfl
  obtain ⟨h1, h2, h3, h4, h5, h6⟩ := h s
  exact ⟨h1.trans k.load, h2.trans k.fab, h3.trans k.hbm, h4, by rw [h5, k.sec], h6.trans (useNonce_debug s)⟩

end
end Sys2Proof.Machine
end

section
/-! The resets of R304, R393 and R400 to R404. -/

namespace Sys2Proof.Machine

section
variable {s : State} {v : Nat}

/-! ### PERST# (R400) -/

/-- The state at the beginning of a PERST# warm reset. -/
def State.perstLost (s : State) : State :=
  let t := (s.endDebug 1).warmLost false
  { t with pwr := { t.pwr with perst := true } }

theorem exec_perstAssert_off (hp : s.pwr.perst = false) (ho : s.pwr.on = false) :
    exec .perstAssert s = .next { s with pwr := { s.pwr with perst := true } } :=
  (if_neg (by simp [hp])).trans (if_pos (by simp [ho]))

theorem exec_perstAssert_on (hp : s.pwr.perst = false) (ho : s.pwr.on = true) :
    exec .perstAssert s = .next (s.perstLost.tellReset 1 F.devResetCountPerst) :=
  (if_neg (by simp [hp])).trans (if_neg (by simp [ho]))

theorem perstLost_warmFrom (s : State) : WarmFrom s false s.perstLost ∧ s.perstLost.pwr.perst = true := by
  have h := endDebug_warmLost s 1 false
  unfold State.perstLost
  generalize (s.endDebug 1).warmLost false = t at h
  exact ⟨⟨h.hbm, h.aon, h.fuses, h.loaded, h.inflight, h.up, h.stopped⟩, rfl⟩

/-- After a reset the boot waits for the end of PERST#. -/
def State.bootResumes (s : State) : Prop :=
  s.pwr.on = true ∧ s.boot.awaits = none ∧ s.fb F.devBootReady = false ∧ s.boot.stopped = false

theorem exec_perstDeassert_resumes (hp : s.pwr.perst = true) (hr : s.bootResumes) :
    exec .perstDeassert s = .next (({ s with pwr := { s.pwr with perst := false } } : State).awaitBoot 1) := by
  obtain ⟨ho, ha, hb, hs⟩ := hr
  exact (if_neg (by simp [hp])).trans (congrArg _ (if_pos ⟨ho, ha, by rw [fb_congr rfl, hb]; rfl, by simp [hs]⟩))

theorem exec_perstDeassert_stays (hp : s.pwr.perst = true) (hr : ¬ s.bootResumes) :
    exec .perstDeassert s = .next { s with pwr := { s.pwr with perst := false } } := by
  refine (if_neg (by simp [hp])).trans (congrArg _ (if_neg fun h => hr ?_))
  obtain ⟨ho, ha, hb, hs⟩ := h
  exact ⟨ho, ha, by simpa [fb_congr (s := s) rfl] using hb, by simpa using hs⟩

/-! ### Hot reset (R403) -/

theorem exec_hotReset_up (ho : s.pwr.on = true) (hu : s.cxl.up = true) :
    exec .hotReset s = .next ((s.closeDebug 1).linkLost.tellReset 2 F.devResetCountHot) :=
  if_neg (by simp [ho, hu])

theorem exec_hotReset_down (h : s.pwr.on = false ∨ s.cxl.up = false) : exec .hotReset s = .next s :=
  if_pos (by simpa using h)

/-- After a hot reset the link is down and no debug grant stands. -/
theorem hotReset_link (s : State) : let t := (s.closeDebug 1).linkLost.tellReset 2 F.devResetCountHot
    t.cxl.up = false ∧ t.f F.devBootCause = 2 ∧ t.sec.halted = false ∧ t.f F.secStatusDebug = 0 := by
  obtain ⟨hh, hd, -⟩ := closeDebug_sec s 1
  obtain ⟨-, -, -, hu, hs, hf⟩ := linkLost_rest (s := s.closeDebug 1)
  have k := tellReset_shows (s.closeDebug 1).linkLost 2 F.devResetCountHot
  refine ⟨by rw [k.cxl, hu], tellReset_cause _ _ (by decide), by rw [k.sec, hs, hh], ?_⟩
  rw [k.field _ (by decide), hf, hd]

/-- The program and the fabric go on, where no puppeteer was halted. -/
theorem hotReset_rest (h : s.sec.halted = false) : let t := (s.closeDebug 1).linkLost.tellReset 2 F.devResetCountHot
    t.load = s.load ∧ t.fab = s.fab ∧ t.hbm = s.hbm := by
  have e := endDebug_shows s 1
  obtain ⟨hl, hf, hm, -, -, -⟩ := linkLost_rest (s := s.endDebug 1)
  have k := tellReset_shows (s.endDebug 1).linkLost 2 F.devResetCountHot
  simp only [closeDebug_running h]
  exact ⟨k.load.trans (hl.trans e.load), k.fab.trans (hf.trans e.fab), k.hbm.trans (hm.trans e.hbm)⟩

/-! ### The writes of DEV.RESET and DEV.TILE_RESET (R400, R404, R411) -/

theorem resetKey_iff {v type : Nat} : resetKey v type = true ↔ bitsOf v 8 8 = 0xa5 ∧ bitsOf v 0 2 = type := by
  simp [resetKey]

theorem exec_devReset (h : resetKey v 1 = true) : exec (.devReset v) s =
    s.hostAccess (.devReset v) false (State.devResetWrite v) := if_neg (by simp [h])

theorem exec_serviceReset (h : resetKey v 2 = true) : exec (.serviceReset v) s =
    s.hostAccess (.serviceReset v) false (State.devResetWrite v) := if_neg (by simp [h])

theorem exec_devReset_other (h : ¬ resetKey v 1 = true) : exec (.devReset v) s = .next s := if_pos (by simpa using h)

theorem exec_serviceReset_other (h : ¬ resetKey v 2 = true) : exec (.serviceReset v) s = .next s :=
  if_pos (by simpa using h)

theorem devResetWrite_device (h : resetKey v 1 = true) : s.devResetWrite v = s.deviceReset 3 := if_pos h

theorem devResetWrite_service (h : resetKey v 2 = true) : s.devResetWrite v = s.serviceReset := by
  have h1 : ¬ resetKey v 1 = true := fun k => by
    have a := (resetKey_iff.1 h).2
    have b := (resetKey_iff.1 k).2
    omega
  exact (if_neg h1).trans (if_pos h)

theorem exec_puppeteerWatchdog_barks (h : s.fb F.devBootReady = true ∧ s.boot.stopped = false ∧ s.sec.halted = false ∧
    s.pst_ ≠ 3) : exec .puppeteerWatchdog s = .next s.serviceReset :=
  if_neg (by simp [h.1, h.2.1, h.2.2.1, h.2.2.2])

theorem exec_puppeteerWatchdog_quiet (h : ¬ (s.fb F.devBootReady = true ∧ s.boot.stopped = false ∧
    s.sec.halted = false ∧ s.pst_ ≠ 3)) : exec .puppeteerWatchdog s = .next s := by
  refine if_pos ?_
  by_contra hc
  exact h (by simpa [and_assoc] using hc)

theorem exec_tileReset (s : State) (v : Nat) : exec (.tileReset v) s =
    s.hostAccess (.tileReset v) false (State.tileResetWrite v) := rfl

/-- A write of a reset register that acts is a host access. -/
theorem exec_resetWrite {c : Instr} (hc : c ∈ (if bitsOf v 8 8 = 0xa5 ∧ bitsOf v 0 2 = 1 then [.devReset v] else []) ++
    (if bitsOf v 8 8 = 0xa5 ∧ bitsOf v 0 2 = 2 then [.serviceReset v] else []) ++ [Instr.tileReset v]) :
    ∃ run, exec c s = s.hostAccess c false run := by
  simp only [← resetKey_iff, List.mem_append, List.mem_singleton] at hc
  rcases hc with (hc | hc) | rfl
  · split at hc
    · next h => exact List.mem_singleton.1 hc ▸ ⟨_, exec_devReset h⟩
    · simp at hc
  · split at hc
    · next h => exact List.mem_singleton.1 hc ▸ ⟨_, exec_serviceReset h⟩
    · simp at hc
  · exact ⟨_, exec_tileReset s v⟩

end

/-- Settles O38: what each reset leaves is said once, by `WarmFrom` for the warm ones and by `KeepsSec` and `Shows` for the
restart of the puppeteer. -/
theorem resetsTakeEffect : Obligations.ResetsTakeEffect := by
  unfold Obligations.ResetsTakeEffect
  intro s v dev svc tile resumes barks writes
  refine ⟨fun hp ho => ⟨_, exec_perstAssert_on hp ho, ?_⟩, exec_perstAssert_off, fun h => if_pos h,
    fun hp hr => ⟨_, exec_perstDeassert_resumes hp hr, rfl, rfl, rfl⟩, exec_perstDeassert_stays,
    fun h => if_pos (by simp [h]), fun ho hu => ⟨_, exec_hotReset_up ho hu, ?_⟩, exec_hotReset_down, fun h hd => ?_,
    fun h hs => ?_, fun h => exec_devReset_other (resetKey_iff.not.2 h), fun h => exec_serviceReset_other (resetKey_iff.not.2 h),
    exec_puppeteerWatchdog_barks, exec_puppeteerWatchdog_quiet,
    fun h ht => (hostAccess_eq h _ _ _).trans (congrArg _ (if_pos ht)),
    fun h ht => (hostAccess_eq h _ _ _).trans (congrArg _ (if_neg ht)), fun c hc => ?_⟩
  · obtain ⟨h, hperst⟩ := perstLost_warmFrom s
    have k := tellReset_shows s.perstLost 1 F.devResetCountPerst
    have w := h.shows k
    exact ⟨by rw [k.pwr, hperst], w.hbm, w.aon, w.fuses, w.loaded, w.inflight, w.up, tellReset_cause _ _ (by decide), w.stopped⟩
  · obtain ⟨h1, h2, h3, h4⟩ := hotReset_link s
    exact ⟨h1, h2, h3, h4, hotReset_rest⟩
  · have hk := resetKey_iff.2 hd
    obtain ⟨w, ha⟩ := deviceReset_warmFrom s 3
    have he : exec (.devReset v) s = .next (s.deviceReset 3) := by
      rw [exec_devReset hk, hostAccess_eq h, devResetWrite_device hk]
    exact ⟨he, _, he, ha, w.hbm, w.aon, w.loaded, w.inflight, w.up⟩
  · have hk := resetKey_iff.2 hs
    rw [exec_serviceReset hk, hostAccess_eq h, devResetWrite_service hk]
  · obtain ⟨run, he⟩ := exec_resetWrite (s := s) hc
    rw [he]
    exact ⟨fun h => hostAccess_unreached h _ _ _, fun h hp => hostAccess_deep h hp _ _ _,
      fun h hp hc => hostAccess_closed h hp hc _ _⟩

end Sys2Proof.Machine
end

section
/-! The boot, its watchdog and the rollback advance (R372, R377, R378, R397 to R399, R410). -/

namespace Sys2Proof.Machine

section
variable {s : State}

/-! ### What a boot leaves of the boot record -/

theorem foldl_boot {α : Type} {g : State → α → State} (h : ∀ t x, (g t x).boot = t.boot) (l : List α) (s : State) :
    (l.foldl g s).boot = s.boot := by
  induction l generalizing s with
  | nil => rfl
  | cons x l ih => exact (ih _).trans (h s x)

theorem ite_boot {c : Prop} [Decidable c] {a b : State} (ha : a.boot = s.boot) (hb : b.boot = s.boot) :
    (if c then a else b).boot = s.boot := by split <;> assumption

theorem derive_boot (s : State) (i : Image) : (s.derive i).boot = s.boot := ite_boot rfl rfl

theorem applyRepairs_boot (s : State) : s.applyRepairs.boot = s.boot := by
  unfold State.applyRepairs
  refine foldl_boot (fun t k => ?_) _ s
  exact ite_boot rfl (ite_boot rfl rfl)

theorem wakeArrays_boot (s : State) : s.wakeArrays.boot = s.boot := by
  unfold State.wakeArrays
  exact (foldl_boot (fun t x => ite_boot rfl (ev_boot ..)) _ _).trans (applyRepairs_boot _)

theorem wakeFits_boot (s : State) (ys : List (Nat × List (List Readings))) : (s.wakeFits ys).boot = s.boot := by
  unfold State.wakeFits
  generalize List.range tileCount = l
  refine (foldl_boot (fun t y => ?_) _ _).trans rfl
  exact ite_boot (foldl_boot (fun _ _ => ite_boot (ev_boot ..) rfl) _ _) rfl

theorem showPointer_boot (s : State) : s.showPointer.boot = s.boot := by
  unfold State.showPointer
  split <;> rfl

theorem wakeHbm_boot (s : State) (cold : Bool) : (s.wakeHbm cold).boot = s.boot := by
  unfold State.wakeHbm
  refine ite_boot rfl (ite_boot rfl ?_)
  rw [State.setF_boot, showPointer_boot, State.setF_boot]

theorem startPorts_boot (s : State) : s.startPorts.boot = s.boot := by
  unfold State.startPorts
  refine foldl_boot (fun t p => ?_) _ s
  exact ite_boot rfl rfl

theorem eraseIdentity_boot (s : State) : s.eraseIdentity.boot = s.boot := rfl

theorem foldl_scrubWhole_boot (l : List Nat) (s : State) :
    (l.foldl (fun (u : State) k => u.modTile k Tile.scrubWhole) s).boot = s.boot := by
  refine foldl_boot (fun t k => ?_) l s
  rfl

theorem scrubTiles_shown_boot (x : Nat) (s : State) : ((({ s with sec := { s.sec with scrubTime := x } } : State).setF
    F.secScrubScrubbed tileCount).setF F.secScrubFailed 0).boot = s.boot := rfl

theorem scrubTiles_boot (s : State) : s.scrubTiles.boot = s.boot :=
  (scrubTiles_shown_boot s.aon _).trans (foldl_scrubWhole_boot (List.range tileCount) s)

/-! ### Ready -/

theorem confirmBank_running (s : State) (b : Nat) : (s.confirmBank b).boot.running = s.boot.running := by
  unfold State.confirmBank
  split <;> rfl

theorem confirmBank_regs (s : State) (b : Nat) : (s.confirmBank b).regs = s.regs := by
  unfold State.confirmBank
  split <;> rfl

theorem showTrip_boot (s : State) : s.showTrip.boot = s.boot := by
  unfold State.showTrip
  split
  · rfl
  · exact ev_boot ..

theorem showTrip_f {x : Fld} (h : x.key ≠ F.pwrThermalLastTrip.key) (hd : x.key ≠ F.evtStatusDropped.key) (s : State) :
    s.showTrip.f x = s.f x := by
  unfold State.showTrip
  split
  · rfl
  · rw [f_ev hd, f_setF_other h]
    rfl

/-- The registers of step 9, before the record of a trip is shown. -/
def State.readyRegs (s : State) (b cause : Nat) (hottest : Int) : State :=
  let t := (((s.setF F.devBootCause cause).setF F.devBootBank b).setF F.schSvcStatusBank b).setF F.devBootTrial
    (natOfBool (s.boot.trial && s.boot.next == some b))
  (((t.confirmBank b).setF F.devBootReady 1).setF F.devBootStage 9).setF F.pwrThermalHottest (unsignedOf 16 hottest)

theorem readyRegs_ready (s : State) (b cause : Nat) (hottest : Int) :
    (s.readyRegs b cause hottest).f F.devBootReady = 1 := by
  unfold State.readyRegs
  rw [f_setF_other (by decide), f_setF_other (by decide), f_setF_same]
  rfl

theorem readyRegs_cause (s : State) (b cause : Nat) (hottest : Int) :
    (s.readyRegs b cause hottest).f F.devBootCause = cause % 16 := by
  unfold State.readyRegs
  rw [f_setF_other (by decide), f_setF_other (by decide), f_setF_other (by decide), f_congr (confirmBank_regs _ _),
    f_setF_other (by decide), f_setF_other (by decide), f_setF_other (by decide), f_setF_same]
  rfl

/-- Ready is told, after the record of a trip; no boot is due any more. -/
def State.readyTold (s : State) (cause : Nat) : State :=
  let t := { s.showTrip with boot := { s.showTrip.boot with awaits := none, stopped := false } }
  if cause = 0 then t.ev 0x0011 unitDevice 0 0 else t

theorem reachReady_eq (s : State) (b cause : Nat) (hottest : Int) : s.reachReady b cause hottest =
    ((s.readyRegs b cause hottest).readyTold cause).ev 0x0010 unitDevice
      (256 + 512 * b + 9 + 4096 * cause + 1024 * ((s.readyRegs b cause hottest).readyTold cause).f F.devBootTrial) 0 := rfl

theorem readyTold_boot (s : State) (cause : Nat) : (s.readyTold cause).boot.awaits = none ∧
    (s.readyTold cause).boot.running = s.boot.running := by
  have h := showTrip_boot s
  unfold State.readyTold
  generalize s.showTrip = t at h
  dsimp only
  split
  · rw [ev_boot]
    exact ⟨rfl, h ▸ rfl⟩
  · exact ⟨rfl, h ▸ rfl⟩

theorem readyTold_f {x : Fld} (h : x.key ≠ F.pwrThermalLastTrip.key) (hd : x.key ≠ F.evtStatusDropped.key) (s : State)
    (cause : Nat) : (s.readyTold cause).f x = s.f x := by
  have k := showTrip_f h hd s
  unfold State.readyTold
  generalize s.showTrip = t at k
  dsimp only
  split
  · rw [f_ev hd]
    exact k
  · exact k

/-- At ready no boot is due, and the register shows ready and the cause. -/
theorem reachReady_spec (s : State) (b cause : Nat) (hottest : Int) : let t := s.reachReady b cause hottest
    t.f F.devBootReady = 1 ∧ t.boot.awaits = none ∧ t.boot.running = s.boot.running ∧ t.f F.devBootCause = cause % 16 := by
  have hr := readyRegs_ready s b cause hottest
  have hc := readyRegs_cause s b cause hottest
  have hb : (s.readyRegs b cause hottest).boot.running = s.boot.running := confirmBank_running _ _
  rw [reachReady_eq]
  generalize s.readyRegs b cause hottest = u at hr hc hb
  obtain ⟨ha, hn⟩ := readyTold_boot u cause
  refine ⟨?_, by rw [ev_boot, ha], by rw [ev_boot, hn, hb], ?_⟩
  · rw [f_ev (by decide), readyTold_f (by decide) (by decide), hr]
  · rw [f_ev (by decide), readyTold_f (by decide) (by decide), hc]

/-- The image of a boot, its memory, arrays and ports, before ready. -/
def State.bootedWith (s : State) (b cause : Nat) (ys : List (Nat × List (List Readings))) (i : Image) : State :=
  let t := { s with boot := { s.boot with running := some i, bank := b } }
  let t := ((t.setF F.secStatusApproved 1).setF F.secFwSvn i.svn).derive i
  ((t.wakeArrays.wakeFits ys).wakeHbm (cause == 0)).startPorts

theorem bootedWith_running (s : State) (b cause : Nat) (ys : List (Nat × List (List Readings))) (i : Image) :
    (s.bootedWith b cause ys i).boot.running = some i := by
  unfold State.bootedWith
  rw [startPorts_boot, wakeHbm_boot, wakeFits_boot, wakeArrays_boot, derive_boot]
  rfl

theorem bootImage_spec (s : State) (b cause : Nat) (hottest : Int) (ys : List (Nat × List (List Readings))) (i : Image) :
    let t := s.bootImage b cause hottest ys i
    t.f F.devBootReady = 1 ∧ t.boot.awaits = none ∧ t.boot.running = some i ∧ t.f F.devBootCause = cause % 16 := by
  have hb := bootedWith_running s b cause ys i
  have he : s.bootImage b cause hottest ys i = (if (s.bootedWith b cause ys i).f F.secStatusLifecycle = 3 then
      (s.bootedWith b cause ys i).eraseIdentity.scrubTiles else s.bootedWith b cause ys i).reachReady b cause hottest := rfl
  have hr : (if (s.bootedWith b cause ys i).f F.secStatusLifecycle = 3 then
      (s.bootedWith b cause ys i).eraseIdentity.scrubTiles else s.bootedWith b cause ys i).boot.running = some i := by
    split
    · rw [scrubTiles_boot, eraseIdentity_boot, hb]
    · exact hb
  obtain ⟨h1, h2, h3, h4⟩ := reachReady_spec _ b cause hottest
  rw [he]
  exact ⟨h1, h2, h3.trans hr, h4⟩

/-! ### The choice of a bank (R377, R399) -/

/-- An event changes neither the banks nor what their checks find. -/
theorem imageFault_ev (s : State) (i : Image) (b : Bool) (c u x y : Nat) :
    (s.ev c u x y).imageFault i b = s.imageFault i b := by
  have he : (s.ev c u x y).effective = s.effective := by
    rw [State.effective, f_ev (by decide)]
    rfl
  have hk : (s.ev c u x y).keyDigests b = s.keyDigests b := by
    simp only [State.keyDigests, he, State.gen, ev_fuses]
  have hi : (s.ev c u x y).imageChecks i = s.imageChecks i := by
    funext k
    have hr : (s.ev c u x y).rollback = s.rollback := by rw [State.rollback, ev_fuses, State.rollback]
    simp only [State.imageChecks, hr, f_ev (z := F.secStatusLifecycle) (by decide)]
  rw [State.imageFault, hk, hi]
  rfl

theorem bankImage_ev (s : State) (b c u x y : Nat) : (s.ev c u x y).bankImage b = s.bankImage b := by
  simp only [State.bankImage, ev_boot]

theorem bankFault_ev (s : State) (b c u x y : Nat) : (s.ev c u x y).bankFault b = s.bankFault b := by
  rw [State.bankFault, bankImage_ev]
  unfold State.bankFault
  cases s.bankImage b
  · rfl
  · exact imageFault_ev ..

/-- The bank that a boot finds unaccepted is reported. -/
def State.refusesBank (s : State) (b : Nat) : State := s.ev 0xa002 unitSec b (s.bankFault b)

theorem acceptBank_first {b : Nat} (h : s.bankFault b = 0) : s.acceptBank b = (s, some b) := if_pos h

theorem acceptBank_other {b : Nat} (h : s.bankFault b ≠ 0) (k : (s.refusesBank b).bankFault (1 - b) = 0) :
    s.acceptBank b = (s.refusesBank b, some (1 - b)) :=
  (if_neg h).trans (if_pos ((bankFault_ev ..).symm.trans k))

theorem acceptBank_none {b : Nat} (h : s.bankFault b ≠ 0) (k : (s.refusesBank b).bankFault (1 - b) ≠ 0) :
    s.acceptBank b = ((s.refusesBank b).ev 0xa003 unitSec 0 0, none) :=
  (if_neg h).trans (if_neg fun e => k ((bankFault_ev ..).trans e))

theorem bootBank_active (h : s.boot.next = none) : s.bootBank = (s, s.boot.active) := by
  simp only [State.bootBank, h]

theorem bootBank_trial {n : Nat} (h : s.boot.next = some n) (k : s.boot.trial = false) :
    s.bootBank = ({ s with boot := { s.boot with trial := true } }, n) := by
  simp only [State.bootBank, h, k, Bool.false_eq_true, if_false]

theorem bootBank_failed {n : Nat} (h : s.boot.next = some n) (k : s.boot.trial = true) :
    s.bootBank = (({ s with boot := { s.boot with next := none, trial := false } } : State).ev 0x0012 unitDevice n 0,
      s.boot.active) := by
  simp only [State.bootBank, h, k, if_true]

/-! ### The steps of a boot (R397) -/

/-- The fuses are shown before a boot begins. -/
def State.bootShown (s : State) : State := s.showFuses.showSettings

theorem bootShown_boot (s : State) : s.bootShown.boot = s.boot :=
  (showSettings_shows _).boot.trans (showFuses_shows s).boot

/-- No earlier self-test, and no watchdog, has put the device into the error state. -/
def State.bootSound (s : State) : Prop := s.fb F.secStatusSelftestFail = false ∧ s.fb F.devBootFail = false

section
variable {cause : Nat} {r : BootReads} {i : Image} (hd : s.pwr.on = true ∧ s.boot.awaits = some cause)
include hd

theorem exec_boot_due (good : Bool) : exec (.boot good r) s = .next (s.bootSteps cause good r.hottest r.fits) := by
  obtain ⟨ho, ha⟩ := hd
  change execBoot good r s = _
  simp [execBoot, ha, ho]

theorem exec_boot_unsound (hs : ¬ s.bootSound) (good : Bool) : exec (.boot good r) s = .next s.stop := by
  rw [exec_boot_due hd]
  refine congrArg _ (if_pos ?_)
  by_contra hc
  exact hs (by simpa [State.bootSound] using hc)

variable (hs : s.bootSound)
include hs

theorem exec_boot_failed : exec (.boot false r) s = .next (s.tick.testFails (Config.freeWord s.freeCtr % 2 ^ 32)) := by
  rw [exec_boot_due hd]
  exact congrArg _ ((if_neg (by simp [hs.1, hs.2])).trans (if_pos rfl))

theorem exec_boot_corrupt (hc : s.bootShown.fuseCorrupt = true) : exec (.boot true r) s =
    .next (((s.bootShown.setF F.devBootStage 1).setF F.otpStatusCorrupt 1).ev 0xa004 unitSec
      (s.bootShown.effective.getD 0) 0).stop := by
  rw [exec_boot_due hd]
  exact congrArg _ ((if_neg (by simp [hs.1, hs.2])).trans ((if_neg (by simp)).trans (if_pos hc)))

variable (hc : s.bootShown.fuseCorrupt = false)
include hc

/-- With sound fuses a boot runs what the banks give. -/
theorem exec_boot_banks : exec (.boot true r) s =
    .next (match s.bootShown.bootBank.1.acceptBank s.bootShown.bootBank.2 with
      | (u, none) => (u.setF F.devBootStage 3).stop
      | (u, some b) => (match u.bankImage b with
        | none => u.stop
        | some i => u.bootImage b cause r.hottest r.fits i)) := by
  rw [exec_boot_due hd]
  exact congrArg _ ((if_neg (by simp [hs.1, hs.2])).trans ((if_neg (by simp)).trans (if_neg (by
    rw [State.bootShown] at hc
    simp [hc]))))

theorem exec_boot_first (hf : s.bootShown.bootBank.1.bankFault s.bootShown.bootBank.2 = 0)
    (hi : s.bootShown.bootBank.1.bankImage s.bootShown.bootBank.2 = some i) : exec (.boot true r) s =
    .next (s.bootShown.bootBank.1.bootImage s.bootShown.bootBank.2 cause r.hottest r.fits i) := by
  rw [exec_boot_banks hd hs hc, acceptBank_first hf]
  simp only [hi]

theorem exec_boot_other (hf : s.bootShown.bootBank.1.bankFault s.bootShown.bootBank.2 ≠ 0)
    (hg : (s.bootShown.bootBank.1.refusesBank s.bootShown.bootBank.2).bankFault (1 - s.bootShown.bootBank.2) = 0)
    (hi : (s.bootShown.bootBank.1.refusesBank s.bootShown.bootBank.2).bankImage (1 - s.bootShown.bootBank.2) = some i) :
    exec (.boot true r) s = .next ((s.bootShown.bootBank.1.refusesBank s.bootShown.bootBank.2).bootImage
      (1 - s.bootShown.bootBank.2) cause r.hottest r.fits i) := by
  rw [exec_boot_banks hd hs hc, acceptBank_other hf hg]
  simp only [hi]

theorem exec_boot_none (hf : s.bootShown.bootBank.1.bankFault s.bootShown.bootBank.2 ≠ 0)
    (hg : (s.bootShown.bootBank.1.refusesBank s.bootShown.bootBank.2).bankFault (1 - s.bootShown.bootBank.2) ≠ 0) :
    exec (.boot true r) s = .next ((((s.bootShown.bootBank.1.refusesBank s.bootShown.bootBank.2).ev 0xa003 unitSec 0 0).setF
      F.devBootStage 3).stop) := by
  rw [exec_boot_banks hd hs hc, acceptBank_none hf hg]

end

theorem exec_boot_idle (h : s.pwr.on = false ∨ s.boot.awaits = none) (good : Bool) (r : BootReads) :
    exec (.boot good r) s = .next s := by
  change execBoot good r s = _
  unfold execBoot
  cases ha : s.boot.awaits with
  | none => rfl
  | some cause => exact if_pos (by simpa [ha] using h)

/-- A self-test that fails stops the boot. -/
theorem testFails_spec (s : State) (alg : Nat) : (s.testFails alg).boot.stopped = true ∧
    (s.testFails alg).boot.awaits = none ∧ (s.testFails alg).f F.secStatusSelftestFail = 1 ∧
    (s.testFails alg).f F.secStatusApproved = 0 := by
  refine ⟨rfl, rfl, ?_, ?_⟩
  · change ((((s.setF F.secStatusSelftestFail 1).setF F.secStatusApproved 0).ev 0xa001 unitSec alg 0).f _) = _
    rw [f_ev (by decide), f_setF_other (by decide), f_setF_same]
    rfl
  · change ((((s.setF F.secStatusSelftestFail 1).setF F.secStatusApproved 0).ev 0xa001 unitSec alg 0).f _) = _
    rw [f_ev (by decide), f_setF_same]
    rfl

/-! ### The boot watchdog (R399) -/

/-- A boot that is due has run for ten seconds. -/
def State.bootLate (s : State) : Prop := s.pwr.on = true ∧ s.boot.awaits ≠ none ∧ s.boot.since + 31250000 ≤ s.aon

theorem exec_bootWatchdog_early (h : ¬ s.bootLate) : exec .bootWatchdog s = .next s := by
  refine if_pos ?_
  by_contra hc
  exact h (by simpa [State.bootLate, and_assoc, Option.isSome_iff_ne_none] using hc)

section
variable (hl : s.bootLate)
include hl

theorem exec_bootWatchdog_late : exec .bootWatchdog s = (if s.bootBank.1.boot.trial then
      .next (s.bootBank.1.deviceReset 5)
    else .next (((s.bootBank.1.setF F.devBootFail 1).ev 0x0013 unitDevice 0 0).stop)) := by
  obtain ⟨ho, ha, ht⟩ := hl
  exact if_neg (by simp [ho, ha, Nat.not_lt.2 ht])

theorem exec_bootWatchdog_trial (h : s.bootBank.1.boot.trial = true) :
    exec .bootWatchdog s = .next (s.bootBank.1.deviceReset 5) := (exec_bootWatchdog_late hl).trans (if_pos h)

theorem exec_bootWatchdog_fails (h : s.bootBank.1.boot.trial = false) : exec .bootWatchdog s =
    .next (((s.bootBank.1.setF F.devBootFail 1).ev 0x0013 unitDevice 0 0).stop) :=
  (exec_bootWatchdog_late hl).trans (if_neg (by simp [h]))

end

/-! ### The rollback advance (R410) -/

theorem exec_rollbackAdvance_none (h : s.boot.running = none) (o : Option Nat) :
    exec (.rollbackAdvance o) s = .next s := by
  change execRollbackAdvance o s = _
  simp only [execRollbackAdvance, h]

section
variable {i : Image} (hi : s.boot.running = some i)
include hi

theorem exec_rollbackAdvance_done (h : ¬ (s.fb F.devBootReady = true ∧ s.rollback < i.svn)) (o : Option Nat) :
    exec (.rollbackAdvance o) s = .next s := by
  change execRollbackAdvance o s = _
  simp only [execRollbackAdvance, hi]
  refine if_pos ?_
  by_contra hc
  exact h (by simpa using hc)

variable (hb : s.fb F.devBootReady = true ∧ s.rollback < i.svn)
include hb

/-- Every position below the running SVN verifies. -/
theorem exec_rollbackAdvance_full {o : Option Nat} (h : ∀ p, o = some p → ¬ (s.rollback ≤ p ∧ p < i.svn)) :
    exec (.rollbackAdvance o) s = .next ((s.putThermo (blowRange s.fuses.thermo s.rollback i.svn)).ev 0xa005 unitSec
      (s.putThermo (blowRange s.fuses.thermo s.rollback i.svn)).rollback 0) := by
  change execRollbackAdvance o s = _
  simp only [execRollbackAdvance, hi]
  refine (if_neg (by simp [hb.1, hb.2])).trans ?_
  cases o with
  | none => rfl
  | some p => exact if_neg (h p rfl)

theorem exec_rollbackAdvance_stuck {p : Nat} (h : s.rollback ≤ p ∧ p < i.svn) : exec (.rollbackAdvance (some p)) s =
    .next ((s.putThermo (blowRange s.fuses.thermo s.rollback p)).ev 0xa006 unitSec p 0) := by
  change execRollbackAdvance (some p) s = _
  simp only [execRollbackAdvance, hi]
  exact (if_neg (by simp [hb.1, hb.2])).trans (if_pos h)

end
end

/-- Settles O39: the banks are chosen as `bootBank` and `acceptBank` say, and an image that runs reaches ready by
`bootImage_spec`. -/
theorem bootsRun : Obligations.BootsRun := by
  unfold Obligations.BootsRun
  intro s cause r i p u c b x due sound late full behind
  have hu : u.boot = s.boot := bootShown_boot s
  refine ⟨fun h => ?_, fun n h k => ?_, fun n h k => ?_, fun hd hs hc => ⟨exec_boot_first hd hs hc,
    exec_boot_other hd hs hc, exec_boot_none hd hs hc⟩, bootImage_spec _ _ _ _ _ _,
    fun hd hs => ⟨_, exec_boot_failed hd hs, testFails_spec _ _⟩, exec_boot_corrupt, exec_boot_unsound,
    fun h good => exec_boot_idle h good r,
    exec_bootWatchdog_trial, exec_bootWatchdog_fails, exec_bootWatchdog_early, fun hi hb => ⟨?_, ?_, ?_⟩,
    exec_rollbackAdvance_done, exec_rollbackAdvance_none⟩
  · have e : c = (u, u.boot.active) := bootBank_active (by rw [hu, h])
    exact ⟨congrArg Prod.fst e, by rw [show b = u.boot.active from congrArg Prod.snd e, hu]⟩
  · have e : c = ({ u with boot := { u.boot with trial := true } }, n) := bootBank_trial (by rw [hu, h]) (by rw [hu, k])
    exact ⟨congrArg Prod.snd e, by rw [e]⟩
  · have e := bootBank_failed (s := u) (by rw [hu, h]) (by rw [hu, k])
    refine ⟨by rw [show b = u.boot.active from congrArg Prod.snd e, hu], ?_, ?_⟩
    · exact (congrArg (fun y : State × Nat => y.1.boot.next) e).trans (by rw [ev_boot])
    · exact (congrArg (fun y : State × Nat => y.1.boot.trial) e).trans (by rw [ev_boot])
  · exact exec_rollbackAdvance_full hi hb (by simp)
  · exact fun h k => exec_rollbackAdvance_stuck hi hb ⟨h, k⟩
  · exact fun h => exec_rollbackAdvance_full hi hb fun q e k => by
      cases e
      omega

end Sys2Proof.Machine
end

section
/-! The commands of the SEC block (R372, R385, R391, R395): when a write takes effect, what a token decides, and what a
scrub of every tile and retirement leave. -/

namespace Sys2Proof.Machine

section
variable {s : State} {c : Instr} {n : Nat} {run : State → State × Option Nat}

/-! ### A command of SEC.CMD -/

section
variable (he : exec c s = s.hostAccess c true (State.secCommand n run))
include he

theorem exec_secCommand_unreached (h : s.barReached = false) : exec c s = .next s := by
  rw [he, hostAccess_unreached h]

theorem exec_secCommand_deep (h : s.barReached = true) (hp : s.pst_ = 3) : exec c s = .next (s.latchAccess c) := by
  rw [he, hostAccess_deep h hp]

theorem exec_secCommand_busy (h : s.barReached = true) (hp : s.pst_ ≠ 3) (hb : s.fb F.secCmdStatusBusy = true) :
    exec c s = .next s := by
  rw [he, hostAccess_sec h hp, State.secCommand, if_pos hb]

theorem exec_secCommand_stopped (h : s.barReached = true) (hp : s.pst_ ≠ 3) (hb : s.fb F.secCmdStatusBusy = false)
    (hs : s.boot.stopped = true) :
    exec c s = .next ((s.setF F.secCmdStatusLastCmd n).setF F.secCmdStatusStatus 8) := by
  rw [he, hostAccess_sec h hp, State.secCommand, if_neg (by simp [hb]), if_pos hs]
  rfl

/-- A command that ends at once shows its status. -/
theorem exec_secCommand_ends (h : s.secOpen) {t : State} {st : Nat} (hr : run (s.setF F.secCmdStatusLastCmd n) = (t, some st)) :
    exec c s = .next (t.setF F.secCmdStatusStatus st) := by
  rw [he, secAccess_eq h, secCommand_eq h, hr]

omit he in
/-- The same for an effect with its status. -/
theorem exec_secCommand_status {g : State → State × Nat}
    (he : exec c s = s.hostAccess c true (State.secCommand n (fun t => secEnds (g t)))) (h : s.secOpen)
    {p : State × Nat} (hr : g (s.setF F.secCmdStatusLastCmd n) = p) :
    exec c s = .next (p.1.setF F.secCmdStatusStatus p.2) :=
  exec_secCommand_ends he h (by rw [hr]; rfl)

/-- One that goes on shows none yet. -/
theorem exec_secCommand_runs (h : s.secOpen) {t : State} (hr : run (s.setF F.secCmdStatusLastCmd n) = (t, none)) :
    exec c s = .next t := by
  rw [he, secAccess_eq h, secCommand_eq h, hr]

end

/-! ### Tokens (R391) -/

theorem withToken_good {type : Nat} {args : List Nat} {act : State → State × Nat} (h : s.tokenFault type args = 0) :
    s.withToken type args act = act s.useNonce := by
  rw [← show secDone = 0 from rfl] at h
  rw [State.withToken, if_pos h]

theorem withToken_bad {type : Nat} {args : List Nat} {act : State → State × Nat} (h : s.tokenFault type args ≠ 0) :
    s.withToken type args act =
      (s.useNonce.ev 0xa00b unitSec (s.tokenFault type args) 0, s.tokenFault type args) := by
  rw [← show secDone = 0 from rfl] at h
  rw [State.withToken, if_neg h]

/-! ### A scrub of tiles (R388, R389) -/

/-- The tiles of a list begin to be scrubbed. -/
def State.beginScrub (s : State) (ts : List Nat) : State :=
  ts.foldl (fun u k => u.modTile k (fun x => x.begin { kind := .scrub, rows := allRows })) s

theorem beginScrub_frame (s : State) (ts : List Nat) :
    (s.beginScrub ts).regs = s.regs ∧ (s.beginScrub ts).fuses = s.fuses := by
  unfold State.beginScrub
  induction ts generalizing s with
  | nil => exact ⟨rfl, rfl⟩
  | cons k ts ih =>
    obtain ⟨hr, hf⟩ := ih (s.modTile k (fun x => x.begin { kind := .scrub, rows := allRows }))
    exact ⟨hr, hf⟩

theorem startScrub_eq {ts : List Nat} (h : ts ≠ []) (cmd : Bool) : s.startScrub ts cmd =
    ({ s.beginScrub ts with sec := { (s.beginScrub ts).sec with
      scrubLeft := ts, scrubBad := [], scrubOf := ts.length, scrubCmd := cmd } } : State).setF F.secScrubRunning 1 :=
  if_pos (by simpa [State.setF] using h)

/-- A scrub that begins shows that it runs, and every tile of it is left. -/
theorem startScrub_spec {ts : List Nat} (h : ts ≠ []) (cmd : Bool) : (s.startScrub ts cmd).f F.secScrubRunning = 1 ∧
    (s.startScrub ts cmd).f F.secCmdStatusBusy = s.f F.secCmdStatusBusy ∧ (s.startScrub ts cmd).sec.scrubLeft = ts ∧
    (s.startScrub ts cmd).fuses = s.fuses := by
  obtain ⟨hr, hf⟩ := beginScrub_frame s ts
  rw [startScrub_eq h]
  generalize s.beginScrub ts = t at hr hf
  refine ⟨?_, ?_, rfl, hf⟩
  · rw [f_setF_same]
    rfl
  · rw [f_setF_other (by decide)]
    exact f_congr hr _

theorem range_tileCount_ne : List.range tileCount ≠ [] := by
  rw [ne_eq, List.range_eq_nil]
  decide

/-- A scrub of every tile for a command that is in progress. -/
def State.scrubEvery (s : State) : State := (s.setF F.secCmdStatusBusy 1).startScrub (List.range tileCount) true

theorem scrubEvery_spec (s : State) : s.scrubEvery.f F.secScrubRunning = 1 ∧ s.scrubEvery.f F.secCmdStatusBusy = 1 ∧
    s.scrubEvery.sec.scrubLeft = List.range tileCount ∧ s.scrubEvery.fuses = s.fuses := by
  obtain ⟨h1, h2, h3, h4⟩ := startScrub_spec (s := s.setF F.secCmdStatusBusy 1) range_tileCount_ne true
  rw [State.scrubEvery]
  refine ⟨h1, ?_, h3, ?_⟩
  · rw [h2, f_setF_same]
    rfl
  · rw [h4, State.setF_fuses]

/-! ### Retirement (R387) -/

theorem foldl_fuses {α : Type} {g : State → α → State} (h : ∀ t x, (g t x).fuses = t.fuses) (l : List α) (s : State) :
    (l.foldl g s).fuses = s.fuses := by
  induction l generalizing s with
  | nil => rfl
  | cons x l ih => exact (ih _).trans (h s x)

theorem releaseLayer_fuses (s : State) (h : Nat) : (s.releaseLayer h).fuses = s.fuses := by
  unfold State.releaseLayer
  split
  · rfl
  · exact foldl_fuses (g := fun (t : State) k => t.modTile k Tile.released) (fun _ _ => by rfl) _ _

theorem releaseAll_fuses (s : State) : s.releaseAll.fuses = s.fuses := by
  unfold State.releaseAll
  exact foldl_fuses (g := fun (u : State) (x : Nat × Layer) => u.releaseLayer x.1)
    (fun _ _ => releaseLayer_fuses _ _) _ _

theorem exitReplay_fuses (s : State) : s.exitReplay.fuses = s.fuses := by
  unfold State.exitReplay State.bgEvent
  split
  · rfl
  · simp only [State.setF_fuses, raise_fuses]

theorem closeDebug_fuses (s : State) (cause : Nat) : (s.closeDebug cause).fuses = s.fuses := by
  obtain ⟨-, -, hf⟩ := closeDebug_sec s cause
  exact hf

/-- Retirement blows the whole retirement word. -/
theorem retireDevice_retire (s : State) : s.retireDevice.fuses.retire = 0xffffffff := by
  unfold State.retireDevice
  dsimp only
  rw [(showSettings_shows _).fuses, (showFuses_shows _).fuses, releaseAll_fuses, exitReplay_fuses, closeDebug_fuses]
  rfl

theorem retire_none_spec (s : State) : ∃ t : State, s.retire_ none = (t, none) ∧ t.fuses.retire = 0xffffffff ∧
    t.f F.secScrubRunning = 1 ∧ t.f F.secCmdStatusBusy = 1 ∧ t.sec.scrubLeft = List.range tileCount := by
  obtain ⟨h1, h2, h3, h4⟩ := scrubEvery_spec s.retireDevice.showPending
  have hr : s.retire_ none = (s.retireDevice.showPending.scrubEvery, none) := rfl
  refine ⟨_, hr, ?_, h1, h2, h3⟩
  rw [h4, State.showPending, State.setF_fuses, retireDevice_retire]

end
end Sys2Proof.Machine
end

section
/-! LIFECYCLE, KEY_ROTATE, FEATURES and SCRUB_ALL (R384 to R389, R409). -/

namespace Sys2Proof.Machine

section
variable {s : State} {stuck : Option Nat} {target : Nat}

/-! ### A transition of the lifecycle (R384) -/

/-- The transitions that seal a new generation. -/
def seals (lc target : Nat) : Prop := (lc = 0 ∧ (target = 1 ∨ target = 2)) ∨ (lc = 1 ∧ target = 2)

theorem lifecycleTo_seals (h : seals (s.f F.secStatusLifecycle) target) : s.lifecycleTo target stuck =
    ((s.newGen (setBits s.recordBase 16 8 target) stuck).1, some (s.newGen (setBits s.recordBase 16 8 target) stuck).2) := by
  have h3 : target ≠ 3 := by
    unfold seals at h
    omega
  rw [State.lifecycleTo, if_neg (fun e => h3 e.1), if_neg (fun e => h3 e.1)]
  exact if_pos h

theorem lifecycleTo_retires (h : s.f F.secStatusLifecycle < 2) : s.lifecycleTo 3 stuck = s.retire_ stuck :=
  if_pos ⟨rfl, h⟩

/-- In SECURED retirement takes a token. -/
theorem lifecycleTo_secured (h : s.f F.secStatusLifecycle = 2) : s.lifecycleTo 3 stuck =
    if s.tokenFault 2 [3] = secDone then s.useNonce.retire_ stuck
    else (s.useNonce.ev 0xa00b unitSec (s.tokenFault 2 [3]) 0, some (s.tokenFault 2 [3])) :=
  (if_neg (by omega)).trans (if_pos ⟨rfl, h⟩)

theorem lifecycleTo_denied (h : ¬ seals (s.f F.secStatusLifecycle) target) (h3 : target ≠ 3 ∨ 2 < s.f F.secStatusLifecycle) :
    s.lifecycleTo target stuck = (s, some 1) := by
  rw [State.lifecycleTo, if_neg (by omega), if_neg (by omega)]
  exact if_neg h

theorem eq_pair_of_snd {p : State × Option Nat} {o : Option Nat} (h : p.2 = o) : p = (p.1, o) := by rw [← h]

/-- A command that retires goes on until every tile is scrubbed. -/
theorem retire_runs (s : State) (stuck : Option Nat) : s.retire_ stuck = ((s.retire_ stuck).1, none) := by
  refine eq_pair_of_snd ?_
  unfold State.retire_
  rfl

/-! ### SCRUB_ALL (R389) -/

theorem exec_scrubAll_eq (s : State) : exec .scrubAll s = s.hostAccess .scrubAll true (State.secCommand 6 (fun t =>
    if !t.mayScrubAll then (t, some secDenied) else (t.releaseAll.scrubEvery, none))) := rfl

theorem exec_scrubAll_runs (h : s.secOpen) (hm : (s.setF F.secCmdStatusLastCmd 6).mayScrubAll = true) :
    exec .scrubAll s = .next (s.setF F.secCmdStatusLastCmd 6).releaseAll.scrubEvery :=
  exec_secCommand_runs (exec_scrubAll_eq s) h (if_neg (by simp [hm]))

theorem exec_scrubAll_denied (h : s.secOpen) (hm : (s.setF F.secCmdStatusLastCmd 6).mayScrubAll = false) :
    exec .scrubAll s = .next ((s.setF F.secCmdStatusLastCmd 6).setF F.secCmdStatusStatus 1) :=
  exec_secCommand_ends (exec_scrubAll_eq s) h (if_pos (by simp [hm]))

/-! ### Keys and features (R385, R386) -/

theorem changeFeatures_denied (h : s.f F.secStatusLifecycle = 0 ∨ s.f F.secStatusLifecycle = 3) :
    s.changeFeatures stuck = (s.useNonce, 1) := if_pos h

theorem changeFeatures_token (h0 : s.f F.secStatusLifecycle ≠ 0) (h3 : s.f F.secStatusLifecycle ≠ 3) :
    s.changeFeatures stuck =
      s.withToken 4 [0] (fun u => u.newGen (setBits u.recordBase 32 32 (pieceNat u.tokenBytes 232 4)) stuck) :=
  if_neg (by simp [h0, h3])

end

/-- Settles O40: each of the four commands ends as `secCommand` has it, with the outcome of its own effect. -/
theorem fusesAreProgrammed : Obligations.FusesAreProgrammed := by
  unfold Obligations.FusesAreProgrammed
  intro s arg stuck
  dsimp only
  have hl : ∀ t o, exec (.lifecycle t o) s = s.hostAccess (.lifecycle t o) true
      (State.secCommand 4 (fun u => u.lifecycleTo t o)) := fun _ _ => rfl
  have hk : exec (.keyRotate stuck) s = s.hostAccess (.keyRotate stuck) true
      (State.secCommand 5 (fun t => secEnds (t.withToken 3 [0] (fun u => u.newGen u.rotated stuck)))) := rfl
  have hf : exec (.features stuck) s = s.hostAccess (.features stuck) true
      (State.secCommand 7 (fun t => secEnds (t.changeFeatures stuck))) := rfl
  refine ⟨fun h => ⟨fun ht => exec_secCommand_ends (hl _ _) h (lifecycleTo_seals ht), fun ht => ?_, fun ht => ?_, fun ht hb => ?_,
    fun v ht hb hv => ?_, fun hn h3 => exec_secCommand_ends (hl _ _) h (lifecycleTo_denied hn h3), fun hb => ?_, fun hb => ?_,
    fun h0 h3 hb => ?_, fun h0 h3 hb => ?_, fun ht => ?_, fun hm => ?_, exec_scrubAll_denied h⟩, fun x n hx => ?_⟩
  · obtain ⟨t, he, hs⟩ := retire_none_spec (s.setF F.secCmdStatusLastCmd 4)
    exact ⟨t, exec_secCommand_runs (hl _ _) h ((lifecycleTo_retires ht).trans he), hs⟩
  · exact exec_secCommand_runs (hl _ _) h ((lifecycleTo_retires ht).trans (retire_runs _ _))
  · exact exec_secCommand_runs (hl _ _) h (((lifecycleTo_secured ht).trans (if_pos hb)).trans (retire_runs _ _))
  · subst hb
    exact exec_secCommand_ends (hl _ _) h ((lifecycleTo_secured ht).trans (if_neg hv))
  · exact exec_secCommand_status hk h (withToken_good hb)
  · have e := exec_secCommand_status hk h (withToken_bad hb)
    dsimp only at e
    exact e
  · exact exec_secCommand_status hf h ((changeFeatures_token h0 h3).trans (withToken_good hb))
  · have e := exec_secCommand_status hf h ((changeFeatures_token h0 h3).trans (withToken_bad hb))
    dsimp only at e
    exact e
  · exact exec_secCommand_status hf h (changeFeatures_denied ht)
  · obtain ⟨h1, h2, h3, -⟩ := scrubEvery_spec (s.setF F.secCmdStatusLastCmd 6).releaseAll
    exact ⟨_, exec_scrubAll_runs h hm, h2, h1, h3⟩
  · have he : ∃ run, exec x s = s.hostAccess x true (State.secCommand n run) := by
      simp only [List.mem_cons, Prod.mk.injEq, List.not_mem_nil, or_false] at hx
      obtain ⟨rfl, rfl⟩ | ⟨rfl, rfl⟩ | ⟨rfl, rfl⟩ | ⟨rfl, rfl⟩ := hx
      · exact ⟨_, hl _ _⟩
      · exact ⟨_, hk⟩
      · exact ⟨_, exec_scrubAll_eq s⟩
      · exact ⟨_, hf⟩
    obtain ⟨run, he⟩ := he
    exact ⟨exec_secCommand_unreached he, exec_secCommand_deep he, exec_secCommand_busy he, exec_secCommand_stopped he⟩

end Sys2Proof.Machine
end

section
/-! NONCE, the debug commands, values that name no command, the health tests and the debug port (R372, R390 to R393,
R395). -/

namespace Sys2Proof.Machine

section
variable {s : State} {level : Nat}

/-! ### NONCE (R395) -/

/-- The nonce that the entropy source gives next. -/
def State.nextNonce (s : State) : Nat := Config.random s.freeCtr % 2 ^ 256

/-- The state with a nonce held, before it is shown. -/
def State.holdsNonce (s : State) : State := { s.tick with sec := { s.tick.sec with nonce := some s.nextNonce } }

theorem newNonce_eq (s : State) : s.newNonce = (((s.holdsNonce.setF F.secNonce0 s.nextNonce).setF F.secNonce1
    (s.nextNonce / 2 ^ 64)).setF F.secNonce2 (s.nextNonce / 2 ^ 128)).setF F.secNonce3 (s.nextNonce / 2 ^ 192) := rfl

theorem newNonce_shows (s : State) : Shows nonceKeys s.holdsNonce s.newNonce :=
  ((((shows_refl _ _).setF (by decide) _).setF (by decide) _).setF (by decide) _).setF (by decide) _

/-- The nonce is held, and its four words are shown. -/
theorem newNonce_spec (s : State) : s.newNonce.sec.nonce = some s.nextNonce ∧ s.newNonce.freeCtr = s.freeCtr + 1 ∧
    s.newNonce.f F.secNonce0 = s.nextNonce % 2 ^ 64 ∧ s.newNonce.f F.secNonce1 = s.nextNonce / 2 ^ 64 % 2 ^ 64 ∧
    s.newNonce.f F.secNonce2 = s.nextNonce / 2 ^ 128 % 2 ^ 64 ∧ s.newNonce.f F.secNonce3 = s.nextNonce / 2 ^ 192 % 2 ^ 64 := by
  refine ⟨by rw [(newNonce_shows s).sec]; rfl, by rw [(newNonce_shows s).rest]; rfl, ?_, ?_, ?_, ?_⟩ <;> rw [newNonce_eq]
  · rw [f_setF_other (by decide), f_setF_other (by decide), f_setF_other (by decide), f_setF_same]
    rfl
  · rw [f_setF_other (by decide), f_setF_other (by decide), f_setF_same]
    rfl
  · rw [f_setF_other (by decide), f_setF_same]
    rfl
  · rw [f_setF_same]
    rfl

/-! ### A debug level requested (R391, R392) -/

theorem debugRequest_held (h : level = s.f F.secStatusDebug) : s.debugRequest level = (s, 0) := if_pos h

theorem debugRequest_lower (h : level < s.f F.secStatusDebug) : s.debugRequest level = (s.lowerDebug, 0) :=
  (if_neg (by omega)).trans (if_pos h)

/-- Halt is denied while the loop runs or replay is resident. -/
def State.haltDenied (s : State) (level : Nat) : Prop := level = 2 ∧ (s.looping = true ∨ s.resident = true)

theorem haltDenied_iff : (level == 2 && (s.looping || s.resident)) = true ↔ s.haltDenied level := by
  simp [State.haltDenied]

section
variable (h : s.f F.secStatusDebug < level)
include h

theorem debugRequest_higher : s.debugRequest level =
    if s.f F.secStatusLifecycle ≠ 2 then
      (if level == 2 && (s.looping || s.resident) then (s, secDenied) else (s.grantDebug level, secDone))
    else if level == 2 && (s.looping || s.resident) then (s.useNonce, secDenied)
    else s.withToken 1 ([1, 2].filter (fun a => decide (level ≤ a))) (fun t => (t.grantDebug level, secDone)) :=
  (if_neg (by omega)).trans (if_neg (by omega))

theorem debugRequest_open (hl : s.f F.secStatusLifecycle ≠ 2) (hd : ¬ s.haltDenied level) :
    s.debugRequest level = (s.grantDebug level, 0) := by
  rw [debugRequest_higher h, if_pos hl]
  exact if_neg (haltDenied_iff.not.2 hd)

theorem debugRequest_open_denied (hl : s.f F.secStatusLifecycle ≠ 2) (hd : s.haltDenied level) :
    s.debugRequest level = (s, 1) := by
  rw [debugRequest_higher h, if_pos hl]
  exact if_pos (haltDenied_iff.2 hd)

theorem debugRequest_secured_denied (hl : s.f F.secStatusLifecycle = 2) (hd : s.haltDenied level) :
    s.debugRequest level = (s.useNonce, 1) := by
  rw [debugRequest_higher h, if_neg (not_not.2 hl)]
  exact if_pos (haltDenied_iff.2 hd)

/-- In SECURED a token decides; it names the level or a higher one. -/
theorem debugRequest_secured (hl : s.f F.secStatusLifecycle = 2) (hd : ¬ s.haltDenied level) (hv : level = 1 ∨ level = 2) :
    s.debugRequest level =
      s.withToken 1 (if level = 1 then [1, 2] else [2]) (fun t => (t.grantDebug level, secDone)) := by
  rw [debugRequest_higher h, if_neg (not_not.2 hl), if_neg (haltDenied_iff.not.2 hd)]
  rcases hv with rfl | rfl <;> rfl

end

/-! ### The commands (R395) -/

theorem exec_nonce_eq (s : State) : exec .nonce s = s.hostAccess .nonce true
    (State.secCommand 1 (fun t => (t.newNonce, some secDone))) := rfl

theorem exec_debugReq_eq (s : State) (arg : Nat) : exec (.debugReq arg) s = s.hostAccess (.debugReq arg) true
    (State.secCommand 2 (fun t => secEnds (if arg = 1 ∨ arg = 2 then t.debugRequest arg else (t, secBad)))) := rfl

theorem exec_debugRel_eq (s : State) : exec .debugRel s = s.hostAccess .debugRel true
    (State.secCommand 3 (fun t => (t.closeDebug 0, some secDone))) := rfl

theorem exec_secBadCmd_eq (s : State) (v : Nat) : exec (.secBadCmd v) s = s.hostAccess (.secBadCmd v) true
    (State.secCommand (bitsOf v 0 8) (fun t => (t, some secBad))) := rfl

/-- A request of a level ends with the outcome of its effect. -/
theorem exec_debugReq_level (h : s.secOpen) {arg : Nat} (ha : arg = 1 ∨ arg = 2) {t : State} {st : Nat}
    (hr : (s.setF F.secCmdStatusLastCmd 2).debugRequest arg = (t, st)) :
    exec (.debugReq arg) s = .next (t.setF F.secCmdStatusStatus st) :=
  exec_secCommand_ends (exec_debugReq_eq s arg) h (by rw [if_pos ha, hr]; rfl)

theorem exec_debugReq_bad (h : s.secOpen) {arg : Nat} (ha : ¬ (arg = 1 ∨ arg = 2)) :
    exec (.debugReq arg) s = .next ((s.setF F.secCmdStatusLastCmd 2).setF F.secCmdStatusStatus 7) :=
  exec_secCommand_ends (exec_debugReq_eq s arg) h (by rw [if_neg ha]; rfl)

/-- NONCE ends with DONE, and its nonce is shown. -/
theorem exec_nonce_spec (h : s.secOpen) : ∃ t : State, exec .nonce s = .next t ∧ t.f F.secCmdStatusStatus = 0 ∧
    t.f F.secCmdStatusLastCmd = 1 ∧ t.sec.nonce = some s.nextNonce ∧ t.f F.secNonce0 = Config.random s.freeCtr % 2 ^ 64 ∧
    t.f F.secNonce1 = s.nextNonce / 2 ^ 64 % 2 ^ 64 ∧ t.f F.secNonce2 = s.nextNonce / 2 ^ 128 % 2 ^ 64 ∧
    t.f F.secNonce3 = s.nextNonce / 2 ^ 192 % 2 ^ 64 ∧ t.freeCtr = s.freeCtr + 1 := by
  obtain ⟨hn, hc, h0, h1, h2, h3⟩ := newNonce_spec (s.setF F.secCmdStatusLastCmd 1)
  have k := newNonce_shows (s.setF F.secCmdStatusLastCmd 1)
  have hl : (s.setF F.secCmdStatusLastCmd 1).newNonce.f F.secCmdStatusLastCmd = 1 := by
    rw [k.field _ (by decide)]
    exact (f_congr (s := s.setF F.secCmdStatusLastCmd 1) rfl _).trans (f_setF_same s _ _)
  refine ⟨_, exec_secCommand_ends (exec_nonce_eq s) h rfl, f_setF_same _ _ _, ?_⟩
  generalize (s.setF F.secCmdStatusLastCmd 1).newNonce = t at hn hc h0 h1 h2 h3 hl
  exact ⟨(f_setF_other (by decide) _ _).trans hl, hn, ((f_setF_other (by decide) _ _).trans h0).trans (Nat.mod_mod_of_dvd _ (by norm_num)),
    (f_setF_other (by decide) _ _).trans h1, (f_setF_other (by decide) _ _).trans h2,
    (f_setF_other (by decide) _ _).trans h3, hc⟩

/-! ### A health test fails (R372) -/

theorem exec_entropyHealthFail_fails {alg : Nat} (h : s.pwr.on = true ∧ s.boot.stopped = false) :
    exec (.entropyHealthFail alg) s = .next (s.testFails alg) := if_neg (by simp [h.1, h.2])

theorem exec_entropyHealthFail_stays {alg : Nat} (h : ¬ (s.pwr.on = true ∧ s.boot.stopped = false)) :
    exec (.entropyHealthFail alg) s = .next s := by
  refine if_pos ?_
  by_contra hc
  exact h (by simpa using hc)

/-! ### The debug port (R390) -/

theorem exec_dapAccess_closed (h : ¬ (s.pwr.on = true ∧ s.pst_ ≠ 3) ∨ s.f F.secStatusDebug = 0) (op : DapOp) :
    exec (.dapAccess op) s = .next s := by
  refine if_pos ?_
  by_contra hc
  rcases h with h | h
  · exact h (by simp_all)
  · simp [h] at hc

section
variable (hl : s.pwr.on = true ∧ s.pst_ ≠ 3)
include hl

theorem exec_dapAccess_open (h : s.f F.secStatusDebug ≠ 0) (op : DapOp) : exec (.dapAccess op) s =
    (match s.observe op with
      | some t => .next t
      | none => if s.f F.secStatusDebug ≠ 2 then .next s else .next (s.haltAccess op)) :=
  if_neg (by simp [hl.1, hl.2, h])

theorem exec_dapAccess_observe (h : s.f F.secStatusDebug ≠ 0) {op : DapOp} {t : State} (ho : s.observe op = some t) :
    exec (.dapAccess op) s = .next t := by
  rw [exec_dapAccess_open hl h, ho]

theorem exec_dapAccess_refused (h : s.f F.secStatusDebug ≠ 0) (h2 : s.f F.secStatusDebug ≠ 2) {op : DapOp}
    (ho : s.observe op = none) : exec (.dapAccess op) s = .next s := by
  rw [exec_dapAccess_open hl h, ho]
  exact if_pos h2

theorem exec_dapAccess_halt (h : s.f F.secStatusDebug = 2) {op : DapOp} (ho : s.observe op = none) :
    exec (.dapAccess op) s = .next (s.haltAccess op) := by
  rw [exec_dapAccess_open hl (by omega), ho]
  exact if_neg (not_not.2 h)

end

theorem haltAccess_writeMem {space a : Nat} (h : space < 2 ∧ a < spaceTop space) (b : Byte) :
    s.haltAccess (.writeMem space a b) = s.touchHbm.wr space a b := if_pos h

theorem haltAccess_readMem {space a : Nat} (h : space < 2 ∧ a < spaceTop space) :
    s.haltAccess (.readMem space a) = s.touchHbm.giveData [s.rd space a] := if_pos h

theorem haltAccess_writeMem_beyond {space a : Nat} (h : ¬ (space < 2 ∧ a < spaceTop space)) (b : Byte) :
    s.haltAccess (.writeMem space a b) = s := if_neg h

theorem haltAccess_readMem_beyond {space a : Nat} (h : ¬ (space < 2 ∧ a < spaceTop space)) :
    s.haltAccess (.readMem space a) = s := if_neg h

theorem haltAccess_writeReg {off v : Nat} {xs : List Fld} (h : fieldsAt off = some xs) :
    s.haltAccess (.writeReg off v) = s.regEffect off xs (s.regWrite xs off 8 v) := by
  simp only [State.haltAccess, h]

theorem haltAccess_writeReg_none {off v : Nat} (h : fieldsAt off = none) : s.haltAccess (.writeReg off v) = s := by
  simp only [State.haltAccess, h]

end

/-- Settles O41: the commands end as `secCommand` has it with the outcome of `debugRequest`, and the port opens as
`observe` and `haltAccess` say. -/
theorem securityAndDebugCommands : Obligations.SecurityAndDebugCommands := by
  unfold Obligations.SecurityAndDebugCommands
  refine ⟨fun s arg v alg => ?_, fun s op space a b ext off unit v => ?_⟩
  · dsimp only
    refine ⟨exec_nonce_spec, fun h => ⟨exec_debugReq_bad h, fun hv hn => exec_debugReq_level h hv (debugRequest_held hn),
      fun hv hn => exec_debugReq_level h hv (debugRequest_lower hn),
      fun hv hn hl hd => exec_debugReq_level h hv (debugRequest_open hn hl hd),
      fun hv hn hl hd => exec_debugReq_level h hv (debugRequest_open_denied hn hl hd),
      fun hv hn hl hd => exec_debugReq_level h hv (debugRequest_secured_denied hn hl hd),
      fun hv hn hl hd hf => exec_debugReq_level h hv ((debugRequest_secured hn hl hd hv).trans (withToken_good hf)),
      fun hv hn hl hd hf => exec_debugReq_level h hv ((debugRequest_secured hn hl hd hv).trans (withToken_bad hf))⟩,
      fun h => exec_secCommand_ends (exec_debugRel_eq s) h rfl, fun h => exec_secCommand_ends (exec_secBadCmd_eq s v) h rfl,
      fun c n hc => ?_, fun h => ?_, exec_entropyHealthFail_stays⟩
    · have he : ∃ run, exec c s = s.hostAccess c true (State.secCommand n run) := by
        simp only [List.mem_cons, Prod.mk.injEq, List.not_mem_nil, or_false] at hc
        obtain ⟨rfl, rfl⟩ | ⟨rfl, rfl⟩ | ⟨rfl, rfl⟩ | ⟨rfl, rfl⟩ := hc
        · exact ⟨_, exec_nonce_eq s⟩
        · exact ⟨_, exec_debugReq_eq s arg⟩
        · exact ⟨_, exec_debugRel_eq s⟩
        · exact ⟨_, exec_secBadCmd_eq s v⟩
      obtain ⟨run, he⟩ := he
      exact ⟨exec_secCommand_unreached he, exec_secCommand_deep he, exec_secCommand_busy he, exec_secCommand_stopped he⟩
    · obtain ⟨hs, -, hf, ha⟩ := testFails_spec s alg
      exact ⟨_, exec_entropyHealthFail_fails h, hs, hf, ha⟩
  · refine ⟨fun h => exec_dapAccess_closed h op, fun hl h => ⟨exec_dapAccess_observe hl h rfl, exec_dapAccess_observe hl h rfl⟩,
      fun hl h h2 o ho => exec_dapAccess_refused hl h h2 ?_, fun hl h => ⟨exec_dapAccess_halt hl h rfl,
        exec_dapAccess_halt hl h rfl, exec_dapAccess_halt hl h rfl, fun hs ha => ⟨?_, ?_⟩, fun hn => ⟨?_, ?_⟩,
        exec_dapAccess_halt hl h rfl, fun xs hx => ?_, fun hx => ?_⟩⟩
    · simp only [List.mem_cons, List.not_mem_nil, or_false] at ho
      rcases ho with rfl | rfl | rfl | rfl | rfl | rfl | rfl <;> rfl
    · exact (exec_dapAccess_halt hl h rfl).trans (congrArg _ (haltAccess_writeMem ⟨hs, ha⟩ b))
    · exact (exec_dapAccess_halt hl h rfl).trans (congrArg _ (haltAccess_readMem ⟨hs, ha⟩))
    · exact (exec_dapAccess_halt hl h rfl).trans (congrArg _ (haltAccess_writeMem_beyond (by omega) b))
    · exact (exec_dapAccess_halt hl h rfl).trans (congrArg _ (haltAccess_readMem_beyond (by omega)))
    · exact (exec_dapAccess_halt hl h rfl).trans (congrArg _ (haltAccess_writeReg hx))
    · exact (exec_dapAccess_halt hl h rfl).trans (congrArg _ (haltAccess_writeReg_none hx))

end Sys2Proof.Machine
end

section
/-! What a BG-1 event and the end of replay leave (R430 to R433). -/

namespace Sys2Proof.Machine

section
variable {s t : State} {ks : List Nat}

theorem Shows.raise (h : Shows ks s t) (hd : F.evtStatusDropped.key ∈ ks) (e : Event) : Shows ks s (t.raise e) := by
  obtain ⟨hrest, hf⟩ := raise_frame t e
  exact h.trans ⟨hrest, fun x hx => hf x (fun e => hx (e ▸ hd))⟩

theorem Shows.bgEvent (h : Shows ks s t) (hd : F.evtStatusDropped.key ∈ ks) (n level entry tile result : Nat)
    (detail : List Byte) : Shows ks s (t.bgEvent n level entry tile result detail) := h.raise hd _

/-- The tables that wait are dropped, and replay is off. -/
theorem exitReplay_resident (h : s.resident = true) : s.exitReplay =
    ({ s.bgEvent 0x011 0 0 0 0 (leBytes 4 s.bel.queue.length) with
      bel := { (s.bgEvent 0x011 0 0 0 0 (leBytes 4 s.bel.queue.length)).bel with queue := [] } } : State).setF
      F.devReplayStatusState 0 := if_neg (by simp [h])

theorem exitReplay_off (h : s.resident = false) : s.exitReplay = s := if_pos (by simp [h])

theorem exitReplay_cxl (s : State) : s.exitReplay.cxl = s.cxl := by
  cases h : s.resident
  · rw [exitReplay_off h]
  · rw [exitReplay_resident h, State.setF_cxl]
    exact raise_cxl s _

theorem exitReplay_f {x : Fld} (hx : x.key ≠ F.devReplayStatusState.key) (hd : x.key ≠ F.evtStatusDropped.key) (s : State) :
    s.exitReplay.f x = s.f x := by
  cases h : s.resident
  · rw [exitReplay_off h]
  · rw [exitReplay_resident h, f_setF_other hx]
    have k := (shows_refl [F.evtStatusDropped.key] s).bgEvent (List.mem_singleton.2 rfl) 0x011 0 0 0 0
      (leBytes 4 s.bel.queue.length)
    exact (f_congr rfl x).trans (k.field x (by simpa using hd))

end
end Sys2Proof.Machine
end

section
/-! The host link, the answers of the host, IDE streams and SPDM sessions (R335, R336, R341, R346, R351, R352, R372,
R373, R380). -/

namespace Sys2Proof.Machine

section
variable {s : State} {tag : Nat} {x : HostWrite} {o : HostOutcome} {count : State → State}

/-! ### Answers of the host (R346, R352) -/

/-- The write of a tag that is out. -/
def State.writeOut (s : State) (tag : Nat) (x : HostWrite) : Prop :=
  tag % 4 = 1 ∧ s.cxl.outs.find? (fun y => y.tag == tag) = some x

/-- A read of an instruction, or one of the ingest, is out under the tag. -/
def State.instOut (s : State) (tag : Nat) : Prop := tag % 4 = 0 ∧ s.instReads (tag / 4) = true
def State.ingestOut (s : State) (tag : Nat) : Prop := tag = 2 ∧ s.ingestReads = true

theorem hostAnswer_write_ok (h : s.writeOut tag x) :
    s.hostAnswer tag none = some (s.setOuts (s.cxl.outs.filter (fun y => y.tag != tag))) := by
  obtain ⟨ht, hx⟩ := h
  rw [State.hostAnswer, if_pos ht, hx]

theorem hostAnswer_write_fails (h : s.writeOut tag x) :
    s.hostAnswer tag (some count) = some ((count s).writeFailed x) := by
  obtain ⟨ht, hx⟩ := h
  rw [State.hostAnswer, if_pos ht, hx]

theorem hostAnswer_inst_ok (h : s.instOut tag) : s.hostAnswer tag none = some s := by
  obtain ⟨ht, hi⟩ := h
  exact (if_neg (by omega)).trans ((if_pos ht).trans (if_neg (by simp [hi])))

theorem hostAnswer_inst_fails (h : s.instOut tag) : s.hostAnswer tag (some count) =
    some { count s with cxl := { (count s).cxl with badHost := (count s).cxl.badHost ++ [tag / 4] } } := by
  obtain ⟨ht, hi⟩ := h
  exact (if_neg (by omega)).trans ((if_pos ht).trans (if_neg (by simp [hi])))

theorem hostAnswer_ingest_ok (h : s.ingestOut tag) : s.hostAnswer tag none = some s := by
  have ht := h.1
  exact (if_neg (by omega)).trans ((if_neg (by omega)).trans (if_pos h))

theorem hostAnswer_ingest_fails (h : s.ingestOut tag) : s.hostAnswer tag (some count) = some (count s).ingestFailed := by
  have ht := h.1
  exact (if_neg (by omega)).trans ((if_neg (by omega)).trans (if_pos h))

/-- No request waits for the answer. -/
theorem hostAnswer_none (hw : tag % 4 = 1 → s.cxl.outs.find? (fun y => y.tag == tag) = none) (hr : ¬ s.instOut tag)
    (hi : ¬ s.ingestOut tag) (bad : Option (State → State)) : s.hostAnswer tag bad = none := by
  unfold State.hostAnswer
  split
  · next h => rw [hw h]
  · split
    · next h => exact if_pos (by simpa [State.instOut, h] using hr)
    · exact if_neg hi

theorem writeFailed_first (h : x.again = false) : s.writeFailed x =
    s.setOuts (s.cxl.outs.map (fun y => if y.tag = x.tag then { y with again := true } else y)) := if_pos (by simp [h])

/-- The second failure drops the write: it is counted and reported. -/
theorem writeFailed_again (h : x.again = true) : s.writeFailed x =
    (if x.mirror = true then
      (((s.undoWrite x).setOuts (s.cxl.outs.filter (fun y => y.tag != x.tag))).addF F.cxlHostErrLost 1).addF
        F.evtStatusMirrorLost 1
      else ((s.undoWrite x).setOuts (s.cxl.outs.filter (fun y => y.tag != x.tag))).addF F.cxlHostErrLost 1).ev 0x8003 unitCxl 0
        ((x.parts.head?.map (fun p => p.1)).getD 0) := if_neg (by simp [h])

theorem takeAnswer_ok {t : State} (h : s.hostAnswer tag none = some t) : s.takeAnswer tag .ok = t := by
  rw [State.takeAnswer, if_pos rfl, h]

theorem takeAnswer_fails (ho : o ≠ .ok) {t : State} (h : s.hostAnswer tag (some (fun t => t.busError o)) = some t) :
    s.takeAnswer tag o = t := by
  rw [State.takeAnswer, if_neg ho, h]

theorem takeAnswer_none (h : ∀ bad, s.hostAnswer tag bad = none) : s.takeAnswer tag o = s.violation 8 := by
  simp only [State.takeAnswer, h]

theorem exec_cacheResponse_open (h : s.linkOpen) : exec (.cacheResponse tag o) s = .next (s.takeAnswer tag o) :=
  configAccess_eq h _ _

theorem exec_hostAccessTimeout_off (h : s.pwr.on = false) : exec (.hostAccessTimeout tag) s = .next s :=
  if_pos (by simp [h])

theorem exec_hostAccessTimeout_some (ho : s.pwr.on = true) {t : State}
    (h : s.hostAnswer tag (some (fun t => t.addF F.cxlHostErrTimeout 1)) = some t) :
    exec (.hostAccessTimeout tag) s = .next t := by
  refine (if_neg (by simp [ho])).trans ?_
  rw [h]

theorem exec_hostAccessTimeout_none (ho : s.pwr.on = true)
    (h : s.hostAnswer tag (some (fun t => t.addF F.cxlHostErrTimeout 1)) = none) :
    exec (.hostAccessTimeout tag) s = .next s := by
  refine (if_neg (by simp [ho])).trans ?_
  rw [h]

/-! ### The link trains (R335, R441) -/

/-- The link is down, and the host offers a width and a speed that the port has. -/
def State.linkTrains (s : State) (w g : Nat) : Prop :=
  s.pwr.on = true ∧ s.pwr.perst = false ∧ s.cxl.up = false ∧ (w = 4 ∨ w = 8 ∨ w = 16) ∧ (g = 3 ∨ g = 4 ∨ g = 5)

/-- The link in its mode, width and speed. -/
def State.linkUp (s : State) (pcie : Bool) (w g : Nat) : State :=
  ((({ s with cxl := { s.cxl with up := true } } : State).setF F.cxlStatusMode (natOfBool pcie)).setF
    F.cxlStatusWidth w).setF F.cxlStatusSpeed g

/-- A narrow link is reported. -/
def State.linkTold (s : State) (pcie : Bool) (w g : Nat) : State :=
  if w < 16 then (s.linkUp pcie w g).ev 0x8001 unitCxl w 0 else s.linkUp pcie w g

/-- The port has the width and the speed. -/
theorem widthOffered {w : Nat} : (w == 4 || w == 8 || w == 16) = true ↔ w = 4 ∨ w = 8 ∨ w = 16 := by
  simp [or_assoc]

theorem speedOffered {g : Nat} : (g == 3 || g == 4 || g == 5) = true ↔ g = 3 ∨ g = 4 ∨ g = 5 := by
  simp [or_assoc]

theorem linkTrains_iff {w g : Nat} : s.linkTrains w g ↔ ¬ ((!s.pwr.on || s.pwr.perst || s.cxl.up ||
    !(w == 4 || w == 8 || w == 16) || !(g == 3 || g == 4 || g == 5)) = true) := by
  rw [State.linkTrains, ← widthOffered, ← speedOffered]
  generalize (w == 4 || w == 8 || w == 16) = p
  generalize (g == 3 || g == 4 || g == 5) = q
  simp [and_assoc]

theorem exec_cxlLinkUp_trains {cxl : Bool} {w g : Nat} (h : s.linkTrains w g) : exec (.cxlLinkUp cxl w g) s =
    .next (if !(cxl && decide (4 ≤ g)) then (s.linkTold (!(cxl && decide (4 ≤ g))) w g).exitReplay
      else s.linkTold (!(cxl && decide (4 ≤ g))) w g) := if_neg (linkTrains_iff.1 h)

theorem exec_cxlLinkUp_stays {cxl : Bool} {w g : Nat} (h : ¬ s.linkTrains w g) : exec (.cxlLinkUp cxl w g) s = .next s :=
  if_pos (not_not.1 (linkTrains_iff.not.1 h))

/-- The fields of a link that is up. -/
structure LinkShown (pcie : Bool) (w g : Nat) (t : State) : Prop where
  up    : t.cxl.up = true
  mode  : t.f F.cxlStatusMode = natOfBool pcie
  width : t.f F.cxlStatusWidth = w
  speed : t.f F.cxlStatusSpeed = g

theorem linkUp_shown {w g : Nat} (h : s.linkTrains w g) (pcie : Bool) : LinkShown pcie w g (s.linkUp pcie w g) := by
  obtain ⟨-, -, -, hw, hg⟩ := h
  unfold State.linkUp
  refine ⟨rfl, ?_, ?_, ?_⟩
  · rw [f_setF_other (by decide), f_setF_other (by decide), f_setF_same]
    cases pcie <;> rfl
  · rw [f_setF_other (by decide), f_setF_same]
    rcases hw with rfl | rfl | rfl <;> rfl
  · rw [f_setF_same]
    rcases hg with rfl | rfl | rfl <;> rfl

/-- What is shown elsewhere, and what the recorder takes, leaves the fields of the link. -/
theorem LinkShown.shows {pcie : Bool} {w g : Nat} {ks : List Nat} {t u : State} (h : LinkShown pcie w g t)
    (k : Shows ks t u) (hm : F.cxlStatusMode.key ∉ ks) (hw : F.cxlStatusWidth.key ∉ ks) (hg : F.cxlStatusSpeed.key ∉ ks) :
    LinkShown pcie w g u :=
  ⟨by rw [k.cxl, h.up], by rw [k.field _ hm, h.mode], by rw [k.field _ hw, h.width], by rw [k.field _ hg, h.speed]⟩

theorem linkTold_shown {w g : Nat} (h : s.linkTrains w g) (pcie : Bool) : LinkShown pcie w g (s.linkTold pcie w g) := by
  unfold State.linkTold
  split
  · exact (linkUp_shown h pcie).shows (ks := [F.evtStatusDropped.key]) ((shows_refl _ _).ev (by decide) _ _ _ _) (by decide)
      (by decide) (by decide)
  · exact linkUp_shown h pcie

theorem exitReplay_shown {pcie : Bool} {w g : Nat} (h : LinkShown pcie w g s) : LinkShown pcie w g s.exitReplay :=
  ⟨by rw [exitReplay_cxl, h.up], by rw [exitReplay_f (by decide) (by decide), h.mode],
    by rw [exitReplay_f (by decide) (by decide), h.width], by rw [exitReplay_f (by decide) (by decide), h.speed]⟩

/-! ### Bus mastering and memory space (R341, R403) -/

theorem enableSpace_eq (s : State) : s.enableSpace = if s.pcieMode = true then
    ({ s with cxl := { s.cxl with mse := true } } : State).setF F.cxlStatusWinCommitted 1
    else { s with cxl := { s.cxl with mse := true } } := rfl

/-! ### IDE streams (R351) -/

theorem exec_ideIntegrityFail_fails {c : Bool} (h : s.pwr.on = true ∧ s.cxl.up = true ∧ s.fb (ideFld c) = true) :
    exec (.ideIntegrityFail c) s = .next ((({ s with
      cxl := { s.cxl with ras := s.cxl.ras + 1, cmRefused := s.cxl.cmRefused || c } } : State).setF (ideFld c) 0).ev
      0x8004 unitCxl (natOfBool c) 0) :=
  (if_neg (by simp [h.1, h.2.1])).trans (congrArg _ (if_neg (by simp [h.2.2])))

theorem exec_ideIntegrityFail_stays {c : Bool} (h : ¬ (s.pwr.on = true ∧ s.cxl.up = true ∧ s.fb (ideFld c) = true)) :
    exec (.ideIntegrityFail c) s = .next s := by
  change (if _ then _ else _) = _
  split
  · rfl
  · next hc =>
    refine congrArg _ (if_pos ?_)
    by_contra hn
    simp_all

theorem fb_setF_ideFld (s : State) (c : Bool) (b : Bool) : (s.setF (ideFld c) (natOfBool b)).fb (ideFld c) = b := by
  rw [State.fb, f_setF_same]
  cases c <;> cases b <;> rfl

/-- A stream gets its keys in a session. -/
def State.keysStream (s : State) (c : Bool) : Prop :=
  s.sec.sessions ≠ 0 ∧ s.boot.stopped = false ∧ s.f F.secStatusLifecycle ≠ 3 ∧ ¬ (c = true ∧ s.pcieMode = true)

theorem keyStream_keyed {c : Bool} (h : s.keysStream c) : s.keyStream c =
    ({ s with cxl := { s.cxl with cmRefused := s.cxl.cmRefused && !c } } : State).setF (ideFld c) 1 := by
  obtain ⟨hs, hb, hl, hp⟩ := h
  exact if_neg (by simp [hs, hb, hl]; simpa using hp)

theorem keyStream_stays {c : Bool} (h : ¬ s.keysStream c) : s.keyStream c = s := by
  refine if_pos ?_
  by_contra hc
  simp only [not_or] at hc
  exact h ⟨hc.1, by simpa using hc.2.1, hc.2.2.1, hc.2.2.2⟩

/-! ### SPDM sessions (R373, R380) -/

theorem openSession_stopped (h : s.boot.stopped = true) : s.openSession = s.doeReply .doeError := if_pos h

theorem openSession_unsupported (h : s.boot.stopped = false) (hi : s.sec.identity = []) :
    s.openSession = s.doeReply .unsupported := (if_neg (by simp [h])).trans (if_pos (by simp [hi]))

theorem openSession_opens (h : s.boot.stopped = false) (hi : s.sec.identity ≠ []) : s.openSession =
    ({ s with sec := { s.sec with sessions := s.sec.sessions + 1 } } : State).doeReply (.session true) :=
  (if_neg (by simp [h])).trans (if_neg (by simp [hi]))

theorem closeSession_stopped (h : s.boot.stopped = true) : s.closeSession = s.doeReply .doeError := if_pos h

theorem closeSession_none (h : s.boot.stopped = false) (hn : s.sec.sessions = 0) :
    s.closeSession = s.doeReply .unsupported := (if_neg (by simp [h])).trans (if_pos hn)

theorem closeSession_closes (h : s.boot.stopped = false) (hn : s.sec.sessions ≠ 0) : s.closeSession =
    ({ s with sec := { s.sec with sessions := s.sec.sessions - 1 } } : State).doeReply (.session false) :=
  (if_neg (by simp [h])).trans (if_neg hn)

/-! ### Accesses to configuration space -/

/-- An access to configuration space that does not reach the device, or that the Deep latch holds. -/
theorem exec_configAccess_held {c : Instr} {run : State → State} (he : exec c s = s.configAccess c run) :
    (s.reachable = false → exec c s = .next s) ∧
      (s.reachable = true → s.pst_ = 3 → exec c s = .next (s.latchAccess c)) := by
  rw [he]
  exact ⟨fun h => configAccess_unreached h run, fun h hp => configAccess_deep h hp run⟩

end

/-- Settles O43: an answer is matched with what is out by `hostAnswer`, and each access of configuration space has the
effect of its own function. -/
theorem linkHostAndSessions : Obligations.LinkHostAndSessions := by
  unfold Obligations.LinkHostAndSessions
  refine ⟨fun s tag w g cxl x o => ?_, fun s c => ?_⟩
  · dsimp only
    refine ⟨fun h => ⟨?_, ?_, ?_, ?_, ?_, ?_, configAccess_eq h _ _, configAccess_eq h _ _⟩, ?_,
      fun ho => ⟨?_, ?_, ?_, ?_, ?_⟩, exec_hostAccessTimeout_off, exec_cxlLinkUp_trains, ?_, exec_cxlLinkUp_stays⟩
    · rintro hw rfl
      rw [exec_cacheResponse_open h]
      rcases hw with hw | hr | hi
      · rw [takeAnswer_ok (hostAnswer_write_ok hw), if_pos hw.1]
      · have ht := hr.1
        rw [takeAnswer_ok (hostAnswer_inst_ok hr), if_neg (by omega)]
      · have ht := hi.1
        rw [takeAnswer_ok (hostAnswer_ingest_ok hi), if_neg (by omega)]
    · intro hw hf ha
      rw [exec_cacheResponse_open h, takeAnswer_fails hf (hostAnswer_write_fails hw), writeFailed_first ha]
      cases o <;> rfl
    · intro hw hf ha
      rw [exec_cacheResponse_open h, takeAnswer_fails hf (hostAnswer_write_fails hw), writeFailed_again ha]
      cases o <;> rfl
    · intro hr hf
      rw [exec_cacheResponse_open h, takeAnswer_fails hf (hostAnswer_inst_fails hr)]
      cases o <;> rfl
    · intro hi hf
      rw [exec_cacheResponse_open h, takeAnswer_fails hf (hostAnswer_ingest_fails hi)]
      cases o <;> rfl
    · rintro ⟨hw, hr, hi⟩
      rw [exec_cacheResponse_open h, takeAnswer_none (hostAnswer_none hw hr hi)]
    · intro c hc
      simp only [List.mem_cons, List.not_mem_nil, or_false] at hc
      rcases hc with rfl | rfl | rfl
      · exact exec_configAccess_held (run := State.takeAnswer tag o) rfl
      · exact exec_configAccess_held (run := State.enableMaster) rfl
      · exact exec_configAccess_held (run := State.enableSpace) rfl
    · intro hw ha
      rw [exec_hostAccessTimeout_some ho (hostAnswer_write_fails hw), writeFailed_first ha]
    · intro hw ha
      rw [exec_hostAccessTimeout_some ho (hostAnswer_write_fails hw), writeFailed_again ha]
    · exact fun hr => exec_hostAccessTimeout_some ho (hostAnswer_inst_fails hr)
    · exact fun hi => exec_hostAccessTimeout_some ho (hostAnswer_ingest_fails hi)
    · rintro ⟨hw, hr, hi⟩
      exact exec_hostAccessTimeout_none ho (hostAnswer_none hw hr hi _)
    · intro ht
      refine ⟨_, exec_cxlLinkUp_trains ht, ?_⟩
      have k := linkTold_shown ht (!(cxl && decide (4 ≤ g)))
      split
      · obtain ⟨h1, h2, h3, h4⟩ := exitReplay_shown k
        exact ⟨h1, h2, h3, h4⟩
      · obtain ⟨h1, h2, h3, h4⟩ := k
        exact ⟨h1, h2, h3, h4⟩
  · dsimp only
    refine ⟨fun h => ⟨_, exec_ideIntegrityFail_fails h, fb_setF_ideFld _ c false, rfl, rfl⟩, exec_ideIntegrityFail_stays,
      fun h => ⟨fun hk => ⟨_, (configAccess_eq h _ _).trans (congrArg _ (keyStream_keyed hk)), fb_setF_ideFld _ c true, rfl⟩,
        fun hk => (configAccess_eq h _ _).trans (congrArg _ (keyStream_stays hk)),
        fun hb hi => (configAccess_eq h _ _).trans (congrArg _ (openSession_opens hb hi)),
        fun hb hi => (configAccess_eq h _ _).trans (congrArg _ (openSession_unsupported hb hi)),
        fun hb hn => (configAccess_eq h _ _).trans (congrArg _ (closeSession_closes hb hn)),
        fun hb hn => (configAccess_eq h _ _).trans (congrArg _ (closeSession_none hb hn)),
        fun hb => ⟨(configAccess_eq h _ _).trans (congrArg _ (openSession_stopped hb)),
          (configAccess_eq h _ _).trans (congrArg _ (closeSession_stopped hb))⟩⟩, fun x hx => ?_⟩
    simp only [List.mem_cons, List.not_mem_nil, or_false] at hx
    rcases hx with rfl | rfl | rfl
    · exact exec_configAccess_held (run := State.keyStream c) rfl
    · exact exec_configAccess_held (run := State.openSession) rfl
    · exact exec_configAccess_held (run := State.closeSession) rfl

end Sys2Proof.Machine
end

section
/-! Belgar replay: entering and leaving, SUBMIT and the kernel tables (R430 to R438). -/

namespace Sys2Proof.Machine

section
variable {s t : State} {q v off : Nat} {rest : List Nat}

theorem resident_iff : s.resident = true ↔ s.f F.devReplayStatusState ≠ 0 := by simp [State.resident]

theorem not_resident_iff : s.resident = false ↔ s.f F.devReplayStatusState = 0 := by simp [State.resident]

/-! ### The queues at an entry (R431) -/

/-- EN of every queue of a list cleared. -/
def State.disableQueues (s : State) (qs : List Nat) : State := qs.foldl (fun u q => u.setF (F.schQCfgEn q) 0) s

theorem schQCfgEn_key (q : Nat) : (F.schQCfgEn q).key = 0x11008 * 64 + 0x40 * 64 * q + 31 := by
  simp only [Fld.key, F.schQCfgEn]
  omega

theorem schQCfgEn_setF_zero (h : s.f (F.schQCfgEn q) = 0) (r : Nat) : (s.setF (F.schQCfgEn r) 0).f (F.schQCfgEn q) = 0 := by
  by_cases hr : r = q
  · subst hr
    rw [f_setF_same]
    rfl
  · rw [f_setF_other (by rw [schQCfgEn_key, schQCfgEn_key]; omega), h]

theorem disableQueues_keeps_zero (h : s.f (F.schQCfgEn q) = 0) (qs : List Nat) :
    (s.disableQueues qs).f (F.schQCfgEn q) = 0 := by
  induction qs generalizing s with
  | nil => exact h
  | cons r qs ih => exact ih (schQCfgEn_setF_zero h r)

theorem disableQueues_zero {qs : List Nat} (h : q ∈ qs) (s : State) : (s.disableQueues qs).f (F.schQCfgEn q) = 0 := by
  induction qs generalizing s with
  | nil => simp at h
  | cons r qs ih =>
    rcases List.mem_cons.1 h with rfl | h
    · exact disableQueues_keeps_zero (by rw [f_setF_same]; rfl) qs
    · exact ih h _

/-! ### ENTER (R430, R431) -/

/-- The native program unloaded, before replay is resident. -/
def State.unloadNative (s : State) : State :=
  let t := ((s.releaseAll.clearTokens.disableQueues (List.range 64)).zeroRange 1 tileStore (2048 * tileBytes)).unpoison 1
    tileStore (2048 * tileBytes)
  { t with load := { t.load with loaded := false }, bel := {}, pass := { t.pass with launched := false, recover := false } }

theorem enterReplay_eq (s : State) : s.enterReplay =
    ((s.unloadNative.setF F.devReplayStatusTables 0).setF F.devReplayStatusState 1).bgEvent 0x010 0 0 0 0 [] := rfl

theorem unloadNative_queues (hq : q < 64) (s : State) : s.unloadNative.f (F.schQCfgEn q) = 0 := by
  have h := disableQueues_zero (List.mem_range.2 hq) s.releaseAll.clearTokens
  unfold State.unloadNative
  generalize s.releaseAll.clearTokens.disableQueues (List.range 64) = t at h
  exact (f_congr rfl _).trans h

def replayKeys : List Nat := [F.devReplayStatusTables.key, F.devReplayStatusState.key, F.evtStatusDropped.key]

theorem enterReplay_shows (s : State) : Shows replayKeys s.unloadNative s.enterReplay := by
  rw [enterReplay_eq]
  exact (((shows_refl _ s.unloadNative).setF (by decide) 0).setF (by decide) 1).bgEvent (by decide) _ _ _ _ _ _

theorem bgEvent_f {x : Fld} (hd : x.key ≠ F.evtStatusDropped.key) (s : State) (n level entry tile result : Nat)
    (detail : List Byte) : (s.bgEvent n level entry tile result detail).f x = s.f x :=
  ((shows_refl [F.evtStatusDropped.key] s).bgEvent (List.mem_singleton.2 rfl) n level entry tile result detail).field x
    (by simpa using hd)

/-- Replay is resident, with no table queued or counted, and every queue is off. -/
theorem enterReplay_spec (s : State) : s.enterReplay.load.loaded = false ∧ s.enterReplay.f F.devReplayStatusState = 1 ∧
    s.enterReplay.f F.devReplayStatusTables = 0 ∧ s.enterReplay.bel.queue = [] ∧
    ∀ q < 64, s.enterReplay.f (F.schQCfgEn q) = 0 := by
  have k := enterReplay_shows s
  refine ⟨by rw [k.load]; rfl, ?_, ?_, by rw [k.rest]; rfl, fun q hq => ?_⟩
  · rw [enterReplay_eq, bgEvent_f (by decide), f_setF_same]
    rfl
  · rw [enterReplay_eq, bgEvent_f (by decide), f_setF_other (by decide), f_setF_same]
    rfl
  · have hk : (F.schQCfgEn q).key ∉ replayKeys := by
      rw [schQCfgEn_key]
      simp only [replayKeys, List.mem_cons, List.not_mem_nil, or_false, Fld.key, F.devReplayStatusTables,
        F.devReplayStatusState, F.evtStatusDropped]
      omega
    rw [k.field _ hk, unloadNative_queues hq]

theorem replayEntry_resident (h : s.resident = true) : s.replayEntry = s := if_pos (resident_iff.1 h)

theorem replayEntry_enters (h : s.resident = false) (hr : s.replayRefusal = 0) : s.replayEntry = s.enterReplay :=
  (if_neg (not_not.2 (not_resident_iff.1 h))).trans (if_pos hr)

theorem replayEntry_refused (h : s.resident = false) (hr : s.replayRefusal ≠ 0) :
    s.replayEntry = s.setF F.devReplayStatusRefuse s.replayRefusal :=
  (if_neg (not_not.2 (not_resident_iff.1 h))).trans (if_neg hr)

/-! ### EXIT (R433) -/

theorem exitReplay_spec (h : s.resident = true) :
    s.exitReplay.f F.devReplayStatusState = 0 ∧ s.exitReplay.bel.queue = [] := by
  rw [exitReplay_resident h]
  exact ⟨f_setF_same _ _ _, rfl⟩

/-! ### SUBMIT (R434, R435) -/

theorem submitWrite_legacy (h : s.resident = true) (hm : s.fb F.cxlStatusMode = false) :
    s.submitWrite v = s.submitTable v := if_pos (by simp [State.legacyOpen, h, hm])

theorem submitWrite_violation (h : s.resident = false) : s.submitWrite v = s.violation 7 :=
  if_neg (by simp [State.legacyOpen, h])

theorem exec_submit_pcie (hm : s.fb F.cxlStatusMode = true) : exec (.submit v) s = .next s := if_pos hm

theorem exec_submit_cxl (hm : s.fb F.cxlStatusMode = false) :
    exec (.submit v) s = s.hostAccess (.submit v) false (State.submitWrite v) := if_neg (by simp [hm])

/-- A write of the replay registers is a host access. -/
theorem exec_replayWrite {c : Instr}
    (hc : c ∈ (if s.fb F.cxlStatusMode = true then [] else [Instr.submit v]) ++ [.replayEnter, .replayExit]) :
    ∃ run, exec c s = s.hostAccess c false run := by
  rcases List.mem_append.1 hc with hc | hc
  · split at hc
    · simp at hc
    · next hm => exact List.mem_singleton.1 hc ▸ ⟨_, exec_submit_cxl (by simpa using hm)⟩
  · simp only [List.mem_cons, List.not_mem_nil, or_false] at hc
    rcases hc with rfl | rfl
    · exact ⟨State.replayEntry, rfl⟩
    · exact ⟨State.exitReplay, rfl⟩

/-! ### KERNEL_TABLE (R438) -/

/-- Replay is resident on a device that has booted and does not rest. -/
def State.tablesRun (s : State) : Prop := s.resident = true ∧ s.fb F.devBootReady = true ∧ s.pst_ < 2

theorem exec_kernelTable_runs (hq : s.bel.queue = off :: rest) (h : s.tablesRun) :
    let r := ({ s with bel := { s.bel with queue := rest, carry := List.replicate 256 0 } } : State).runTable off 0 65536
    exec .kernelTable s = .next (({ r.event r.s with bel := { (r.event r.s).bel with result := r.result } } : State).addF
      F.devReplayStatusTables 1) := by
  obtain ⟨hr, hb, hp⟩ := h
  change execKernelTable s = _
  rw [execKernelTable, hq]
  exact if_neg (by simp [hr, hb, hp])

theorem exec_kernelTable_none (hq : s.bel.queue = []) : exec .kernelTable s = .next s := by
  change execKernelTable s = _
  rw [execKernelTable, hq]

theorem exec_kernelTable_waits (h : ¬ s.tablesRun) : exec .kernelTable s = .next s := by
  change execKernelTable s = _
  unfold execKernelTable
  split
  · rfl
  · refine if_pos ?_
    by_contra hc
    exact h (by simpa [State.tablesRun, and_assoc] using hc)

end

/-- Settles O46: each write has the effect of its own function, and the oldest table runs as `runTable` says. -/
theorem replayRuns : Obligations.ReplayRuns := by
  unfold Obligations.ReplayRuns
  intro s v off rest
  dsimp only
  have enter : s.hostOpen → exec .replayEnter s = .next s.replayEntry := fun h => hostAccess_eq h _ _ _
  have leave : s.hostOpen → exec .replayExit s = .next s.exitReplay := fun h => hostAccess_eq h _ _ _
  have submit : s.hostOpen → s.fb F.cxlStatusMode = false → exec (.submit v) s = .next (s.submitWrite v) :=
    fun h hm => (exec_submit_cxl hm).trans (hostAccess_eq h _ _ _)
  refine ⟨fun h => ⟨fun hr => ?_, fun hr h0 => ?_, fun hr h0 => ?_, fun hr => ⟨_, leave h, exitReplay_spec hr⟩, fun hr => ?_,
    fun hm hr hl => ?_, fun hm hr hl => ?_, fun hm hr => ?_⟩, exec_submit_pcie, fun c hc => ?_,
    exec_kernelTable_runs, fun h => h.elim exec_kernelTable_none exec_kernelTable_waits⟩
  · rw [enter h, replayEntry_resident hr]
  · have he := (enter h).trans (congrArg _ (replayEntry_enters hr h0))
    exact ⟨he, _, he, enterReplay_spec s⟩
  · rw [enter h, replayEntry_refused hr h0]
  · rw [leave h, exitReplay_off hr]
  · rw [submit h hm, submitWrite_legacy hr hm, State.submitTable, if_pos hl]
  · rw [submit h hm, submitWrite_legacy hr hm, State.submitTable, if_neg (by omega)]
  · rw [submit h hm, submitWrite_violation hr]
  · obtain ⟨run, he⟩ := exec_replayWrite hc
    rw [he]
    exact ⟨fun h => hostAccess_unreached h _ _ _, fun h hp => hostAccess_deep h hp _ _ _,
      fun h hp hc => hostAccess_closed h hp hc _ _⟩

end Sys2Proof.Machine
end

section
/-! DOE discovery, CDAT and the SPDM requests (R336, R343, R350, R372, R380, R381). -/

namespace Sys2Proof.Machine

section
variable {s : State} {k : Nat} {nonce : List Byte} {c : Instr} {run : State → State}

/-! ### The mailbox of DOE -/

theorem doeAnswer_stopped (h : s.boot.stopped = true) (r : Reply) : s.doeAnswer r = s.doeReply .doeError :=
  congrArg s.doeReply (if_pos h)

theorem doeAnswer_runs (h : s.boot.stopped = false) (r : Reply) : s.doeAnswer r = s.doeReply r :=
  congrArg s.doeReply (if_neg (by simp [h]))

theorem spdmReply_stopped (h : s.boot.stopped = true) : s.spdmReply run = s.doeReply .doeError := if_pos h

theorem spdmReply_unsupported (h : s.boot.stopped = false) (hi : s.sec.identity = []) :
    s.spdmReply run = s.doeReply .unsupported := (if_neg (by simp [h])).trans (if_pos (by simp [hi]))

theorem spdmReply_runs (h : s.boot.stopped = false ∧ s.sec.identity ≠ []) : s.spdmReply run = run s :=
  (if_neg (by simp [h.1])).trans (if_neg (by simp [h.2]))

/-- The one function of a request of configuration space or DOE. -/
def IsConfig (s : State) (c : Instr) (run : State → State) : Prop := exec c s = s.configAccess c run

theorem IsConfig.held (h : IsConfig s c run) : (s.reachable = false → exec c s = .next s) ∧
    (s.reachable = true → s.pst_ = 3 → exec c s = .next (s.latchAccess c)) := by
  rw [show exec c s = s.configAccess c run from h]
  exact ⟨fun h => configAccess_unreached h run, fun h hp => configAccess_deep h hp run⟩

theorem IsConfig.effect (h : IsConfig s c run) (hl : s.linkOpen) : exec c s = .next (run s) :=
  Eq.trans h (configAccess_eq hl c run)

/-! ### Discovery (R350) -/

theorem discover_some {v ty : Nat} (h : s.boot.stopped = false) (ho : doeObjects[k]? = some (v, ty)) :
    s.discover k = s.doeReply (.discovery k v ty (if k + 1 < 4 then k + 1 else 0)) := by
  rw [State.discover, doeAnswer_runs h, ho]
  rfl

theorem discover_beyond (h : s.boot.stopped = false) (hk : 4 ≤ k) :
    s.discover k = s.doeReply (.discovery k 0xffff 0xff 0) := by
  rw [State.discover, doeAnswer_runs h, List.getElem?_eq_none (by simpa [doeObjects] using hk)]

/-! ### SPDM requests (R381) -/

/-- The SPDM requests, each with what it does on a device that has an identity. -/
def spdmRequests (k : Nat) (nonce : List Byte) : List (Instr × (State → State)) := [
  (.getCertificate k, fun t => t.doeReply (if k = 0 then .chain (t.chainBytes 0) else .unsupported)),
  (.challenge k nonce, fun t => if k = 0 then t.tick.doeReply (.challenge k nonce t.freeSignature) else t.doeReply .unsupported),
  (.getMeasurements nonce, fun t => t.tick.doeReply (.measurements t.measurements nonce t.freeSignature)),
  (.attestationReport nonce, fun t => t.doeReply (.report (t.chainBytes 1) (t.signedReport (t.reportHeader nonce))))]

theorem isConfig_spdm {run : State → State} (h : (c, run) ∈ spdmRequests k nonce) :
    IsConfig s c (fun t => t.spdmReply run) := by
  simp only [spdmRequests, List.mem_cons, Prod.mk.injEq, List.not_mem_nil, or_false] at h
  obtain ⟨rfl, rfl⟩ | ⟨rfl, rfl⟩ | ⟨rfl, rfl⟩ | ⟨rfl, rfl⟩ := h <;> exact rfl

/-- Every request of the list is one over SPDM. -/
theorem spdm_of_mem (hc : c ∈ [.getCertificate k, .challenge k nonce, .getMeasurements nonce, .attestationReport nonce]) :
    ∃ run, (c, run) ∈ spdmRequests k nonce := by
  simp only [List.mem_cons, List.not_mem_nil, or_false] at hc
  obtain rfl | rfl | rfl | rfl := hc
  · exact ⟨_, List.mem_cons_self ..⟩
  · exact ⟨_, List.mem_cons_of_mem _ (List.mem_cons_self ..)⟩
  · exact ⟨_, List.mem_cons_of_mem _ (List.mem_cons_of_mem _ (List.mem_cons_self ..))⟩
  · exact ⟨_, List.mem_cons_of_mem _ (List.mem_cons_of_mem _ (List.mem_cons_of_mem _ (List.mem_cons_self ..)))⟩

/-- On a device with an identity a request has its effect. -/
theorem exec_spdm (hl : s.linkOpen) (h : s.boot.stopped = false ∧ s.sec.identity ≠ []) {run : State → State}
    (hc : (c, run) ∈ spdmRequests k nonce) : exec c s = .next (run s) := by
  rw [(isConfig_spdm hc).effect hl, spdmReply_runs h]

/-- The requests of DOE, each answered by the error response in the error state. -/
theorem isConfig_doe (hc : c ∈ [.doeDiscovery k, .cdatTableAccess k] ++
      [.getCertificate k, .challenge k nonce, .getMeasurements nonce, .attestationReport nonce]) :
    ∃ run, IsConfig s c run ∧ (s.boot.stopped = true → run s = s.doeReply .doeError) := by
  rcases List.mem_append.1 hc with hc | hc
  · simp only [List.mem_cons, List.not_mem_nil, or_false] at hc
    obtain rfl | rfl := hc
    · exact ⟨State.discover k, rfl, fun h => doeAnswer_stopped h _⟩
    · exact ⟨State.cdatAnswer, rfl, fun h => doeAnswer_stopped h _⟩
  · obtain ⟨run, hr⟩ := spdm_of_mem hc
    exact ⟨_, isConfig_spdm hr, fun h => spdmReply_stopped h⟩

end

/-- Settles O44: each request is one of configuration space, and answers as `doeAnswer` or `spdmReply` says. -/
theorem deviceAttests : Obligations.DeviceAttests := by
  unfold Obligations.DeviceAttests
  intro s k nonce
  dsimp only
  refine ⟨fun hl => ⟨fun h v ty ho => ?_, fun h hk => ?_, fun h => ?_, fun h => ⟨?_, fun hk => ?_, ⟨s.freeSignature, ?_⟩,
    fun hk => ?_, ⟨s.freeSignature, ?_⟩, ?_⟩, fun h hi c hc => ?_, fun h c hc => ?_⟩, fun c hc => ?_⟩
  · exact (configAccess_eq hl _ _).trans (congrArg _ (discover_some h ho))
  · exact (configAccess_eq hl _ _).trans (congrArg _ (discover_beyond h hk))
  · exact (configAccess_eq hl _ _).trans (congrArg _ (doeAnswer_runs h _))
  · exact exec_spdm (k := 0) (nonce := nonce) hl h (List.mem_cons_self ..)
  · refine (exec_spdm (nonce := nonce) hl h (List.mem_cons_self ..)).trans ?_
    rw [if_neg hk]
    rfl
  · exact exec_spdm (k := 0) hl h (List.mem_cons_of_mem _ (List.mem_cons_self ..))
  · refine (exec_spdm hl h (List.mem_cons_of_mem _ (List.mem_cons_self ..))).trans ?_
    rw [if_neg hk]
    rfl
  · exact exec_spdm (k := k) hl h (List.mem_cons_of_mem _ (List.mem_cons_of_mem _ (List.mem_cons_self ..)))
  · exact exec_spdm (k := k) hl h
      (List.mem_cons_of_mem _ (List.mem_cons_of_mem _ (List.mem_cons_of_mem _ (List.mem_cons_self ..))))
  · obtain ⟨run, hr⟩ := spdm_of_mem hc
    rw [(isConfig_spdm hr).effect hl, spdmReply_unsupported h hi]
    rfl
  · obtain ⟨run, hr, he⟩ := isConfig_doe (s := s) hc
    rw [hr.effect hl, he h]
    rfl
  · obtain ⟨run, hr, -⟩ := isConfig_doe (s := s) hc
    exact hr.held

end Sys2Proof.Machine
end

section
/-! The requests over MCTP and PLDM for monitoring and for firmware (R377, R452 to R454). -/

namespace Sys2Proof.Machine

section
variable {s : State} {k : Nat} {run : State → State × Reply} {c : Instr}

/-! ### The management endpoint (R452) -/

/-- An answer over MCTP. -/
def State.mctpReply (s : State) (r : Reply) : State := { s with out := { s.out with mctp := s.out.mctp ++ [r] } }

theorem mgmt_off (h : s.pwr.on = false) : s.mgmt run = .next s := if_pos (by simp [h])

/-- With power a request is answered. -/
theorem mgmt_on (h : s.pwr.on = true) {t : State} {r : Reply} (hr : run s = (t, r)) : s.mgmt run = .next (t.mctpReply r) := by
  rw [State.mgmt, if_neg (by simp [h]), hr]
  rfl

/-! ### Monitoring (R453) -/

theorem eidOk_iff : eidOk k = true ↔ 8 ≤ k ∧ k < 255 := by simp [eidOk]

theorem versionKnown : [0xff, 0, 1].contains k = true ↔ k = 0 ∨ k = 1 ∨ k = 255 := by
  simp only [List.contains_iff_mem, List.mem_cons, List.not_mem_nil, or_false]
  omega

theorem pldmCommands_some (h : k = 0 ∨ k = 2 ∨ k = 5) : ∃ cs, pldmCommands k = some cs := by
  rcases h with rfl | rfl | rfl <;> exact ⟨_, rfl⟩

theorem pldmCommands_none (h0 : k ≠ 0) (h2 : k ≠ 2) (h5 : k ≠ 5) : pldmCommands k = none := by
  rw [pldmCommands, if_neg h0, if_neg h2, if_neg h5]

theorem isNumeric_iff : isNumeric k = true ↔ k < 7 := by simp [isNumeric]

theorem numericReading_hottest (s : State) : s.numericReading 0 = s.hottest := rfl

theorem stateReading_some (h7 : 7 ≤ k) (h9 : k ≤ 9) : s.stateReading k = some (if k = 7 then [(s.powerState : Int)]
    else if k = 8 then [(s.f F.secStatusLifecycle : Int)] else [(s.f F.devBootStage : Int), (s.f F.devBootFail : Int)]) := by
  rcases (by omega : k = 7 ∨ k = 8 ∨ k = 9) with rfl | rfl | rfl <;> rfl

theorem stateReading_none (h : k < 7 ∨ 9 < k) : s.stateReading k = none := by
  rw [State.stateReading, if_neg (by omega), if_neg (by omega), if_neg (by omega)]

section
variable (ho : s.pwr.on = true)
include ho

theorem exec_setEndpointId_assigned (h : 8 ≤ k ∧ k < 255) :
    exec (.setEndpointId k) s = .next (State.mctpReply { s with eid := k } (.mctp 1 0 [(k : Int)])) :=
  show execSetEndpointId k s = _ from mgmt_on ho (if_pos (eidOk_iff.2 h))

theorem exec_getTid : ∃ v, exec .getTid s =
    .next (State.mctpReply { s with freeCtr := s.freeCtr + 1 } (.pldm 0 2 0 v)) :=
  ⟨_, show execGetTid s = _ from mgmt_on ho rfl⟩

theorem exec_getMctpVersionSupport_known (h : k = 0 ∨ k = 1 ∨ k = 255) : ∃ v, exec (.getMctpVersionSupport k) s =
    .next (State.mctpReply { s with freeCtr := s.freeCtr + 1 } (.mctp 4 0 v)) :=
  ⟨_, show execGetMctpVersionSupport k s = _ from mgmt_on ho (if_pos (versionKnown.2 h))⟩

theorem exec_getPldmVersion_known (h : k = 0 ∨ k = 2 ∨ k = 5) : ∃ v, exec (.getPldmVersion k) s =
    .next (State.mctpReply { s with freeCtr := s.freeCtr + 1 } (.pldm 0 3 0 v)) := by
  obtain ⟨cs, hcs⟩ := pldmCommands_some h
  exact ⟨_, show execGetPldmVersion k s = _ from mgmt_on ho (by rw [hcs]; rfl)⟩

theorem exec_getPldmVersion_unknown (h : pldmCommands k = none) :
    exec (.getPldmVersion k) s = .next (s.mctpReply (.pldm 0 3 0x83 [])) :=
  show execGetPldmVersion k s = _ from mgmt_on ho (by rw [h])

theorem exec_getPldmCommands_unknown (h : pldmCommands k = none) :
    exec (.getPldmCommands k) s = .next (s.mctpReply (.pldm 0 5 0x83 [])) :=
  show execGetPldmCommands k s = _ from mgmt_on ho (by rw [h])

/-- The record of a sensor: its number, its kind and the next record. -/
theorem exec_getPdr_known (h1 : 1 ≤ k) (h10 : k ≤ 10) : exec (.getPdr k) s = .next (s.mctpReply (.pldm 2 0x51 0
    [((k - 1 : Nat) : Int), (if k ≤ 7 then 0 else 1), (if k < 10 then ((k + 1 : Nat) : Int) else 0)])) := by
  have hm : max 1 k = k := by omega
  have hn : ((natOfBool (!isNumeric (k - 1)) : Nat) : Int) = if k ≤ 7 then 0 else 1 := by
    by_cases h7 : k ≤ 7
    · rw [isNumeric_iff.2 (by omega), if_pos h7]
      rfl
    · rw [Bool.eq_false_iff.2 (isNumeric_iff.not.2 (by omega)), if_neg h7]
      rfl
  have hx : (((if k < sensorCount then k + 1 else 0 : Nat)) : Int) = if k < 10 then ((k + 1 : Nat) : Int) else 0 := by
    rw [show sensorCount = 10 from rfl]
    split <;> rfl
  change execGetPdr k s = _
  refine mgmt_on ho ?_
  dsimp only
  rw [hm, if_neg (show ¬ sensorCount < k from Nat.not_lt.2 h10), hn, hx]

theorem exec_getPdr_unknown (h : 10 < k) : exec (.getPdr k) s = .next (s.mctpReply (.pldm 2 0x51 0x82 [])) :=
  show execGetPdr k s = _ from mgmt_on ho (if_pos (show sensorCount < max 1 k from lt_max_of_lt_right h))

theorem exec_getSensorReading_numeric (h : k < 7) : exec (.getSensorReading k) s =
    .next (State.mctpReply { s with freeCtr := s.freeCtr + 1 } (.pldm 2 0x11 0 [s.numericReading k])) :=
  show execGetSensorReading k s = _ from mgmt_on ho (if_pos (isNumeric_iff.2 h))

theorem exec_getSensorReading_state (h : 7 ≤ k) :
    exec (.getSensorReading k) s = .next (s.mctpReply (.pldm 2 0x11 0x80 [])) :=
  show execGetSensorReading k s = _ from mgmt_on ho (if_neg (isNumeric_iff.not.2 (by omega)))

theorem exec_getStateSensorReadings_state (h7 : 7 ≤ k) (h9 : k ≤ 9) : exec (.getStateSensorReadings k) s =
    .next (s.mctpReply (.pldm 2 0x21 0 (if k = 7 then [(s.powerState : Int)] else if k = 8 then [(s.f F.secStatusLifecycle : Int)]
      else [(s.f F.devBootStage : Int), (s.f F.devBootFail : Int)]))) :=
  show execGetStateSensorReadings k s = _ from mgmt_on ho (by rw [stateReading_some h7 h9])

theorem exec_getStateSensorReadings_other (h : k < 7 ∨ 9 < k) :
    exec (.getStateSensorReadings k) s = .next (s.mctpReply (.pldm 2 0x21 0x80 [])) :=
  show execGetStateSensorReadings k s = _ from mgmt_on ho (by rw [stateReading_none h])

/-! ### Firmware update (R454) -/

variable {img : List Byte}

theorem exec_requestUpdate_begins (hu : s.boot.update = false) (hs : s.staging = false) :
    exec .requestUpdate s = .next ((s.setUpdate true).mctpReply (.pldm 5 0x10 0 [])) :=
  show execRequestUpdate s = _ from mgmt_on ho (if_neg (by simp [hu, hs]))

theorem exec_requestUpdate_refused (h : s.boot.update = true ∨ s.staging = true) :
    exec .requestUpdate s = .next (s.mctpReply (.pldm 5 0x10 0x81 [])) :=
  show execRequestUpdate s = _ from mgmt_on ho (if_pos (by simpa using h))

theorem exec_firmwareTransfer_idle (hu : s.boot.update = false) :
    exec (.firmwareTransfer img) s = .next (s.mctpReply (.pldm 5 0x16 0x80 [])) :=
  show execFirmwareTransfer img s = _ from mgmt_on ho (if_pos (by simp [hu]))

theorem exec_firmwareTransfer_takes (hu : s.boot.update = true) {t : State} (ht : s.transfer img = (t, 0)) :
    exec (.firmwareTransfer img) s = .next (t.mctpReply (.pldm 5 0x16 0 [])) :=
  show execFirmwareTransfer img s = _ from mgmt_on ho ((if_neg (by simp [hu])).trans (by rw [ht]; rfl))

theorem exec_firmwareTransfer_fails (hu : s.boot.update = true) {t : State} {n : Nat} (ht : s.transfer img = (t, n))
    (hn : n ≠ 0) : exec (.firmwareTransfer img) s = .next ((t.setUpdate false).mctpReply (.pldm 5 0x16 1 [(n : Int)])) :=
  show execFirmwareTransfer img s = _ from mgmt_on ho ((if_neg (by simp [hu])).trans (by rw [ht]; exact if_neg hn))

theorem exec_activateFirmware_idle (hu : s.boot.update = false) :
    exec .activateFirmware s = .next (s.mctpReply (.pldm 5 0x1a 0x80 [])) :=
  show execActivateFirmware s = _ from mgmt_on ho (if_pos (by simp [hu]))

theorem exec_activateFirmware_refused (hu : s.boot.update = true)
    (h : s.looping = true ∨ s.fb F.schSvcStatusStaged = false) :
    exec .activateFirmware s = .next (s.mctpReply (.pldm 5 0x1a 1 [])) :=
  show execActivateFirmware s = _ from mgmt_on ho ((if_neg (by simp [hu])).trans (if_pos (by simpa using h)))

theorem exec_activateFirmware_marks (hu : s.boot.update = true) (hl : s.looping = false)
    (hs : s.fb F.schSvcStatusStaged = true) :
    exec .activateFirmware s = .next ((s.activateBank.setUpdate false).mctpReply (.pldm 5 0x1a 0 [])) :=
  show execActivateFirmware s = _ from mgmt_on ho ((if_neg (by simp [hu])).trans (if_neg (by simp [hl, hs])))

end

/-- The bank that is not active, written, with STAGED. -/
def State.staged (s : State) (i : Option Image) (n : Nat) : State := (s.putBank s.spareBank i).setF F.schSvcStatusStaged n

theorem transfer_stopped (h : s.boot.stopped = true) (img : List Byte) :
    s.transfer img = (s.staged (some (imageOf img)) 1, 0) := if_pos h

theorem transfer_verified (h : s.boot.stopped = false) {img : List Byte} (hf : s.imageFault (imageOf img) true = 0) :
    s.transfer img = (s.staged (some (imageOf img)) 1, 0) := by
  rw [State.transfer, if_neg (by simp [h]), State.stage]
  simp only [hf, if_true]
  rfl

theorem transfer_faulty (h : s.boot.stopped = false) {img : List Byte} (hf : s.imageFault (imageOf img) true ≠ 0) :
    s.transfer img = (s.staged none 0, s.imageFault (imageOf img) true) := by
  rw [State.transfer, if_neg (by simp [h]), State.stage]
  simp only [hf, if_false, beq_eq_false_iff_ne.2 hf]
  rfl

/-- The requests for monitoring all go to the management endpoint. -/
theorem exec_asks_off (ho : s.pwr.on = false) (hc : c ∈ [.setEndpointId k, .getEndpointId, .getMctpVersionSupport k,
    .getMessageTypeSupport, .getTid, .getPldmVersion k, .getPldmTypes, .getPldmCommands k, .getPdr k, .getSensorReading k,
    .getStateSensorReadings k]) : exec c s = .next s := by
  simp only [List.mem_cons, List.not_mem_nil, or_false] at hc
  rcases hc with rfl | rfl | rfl | rfl | rfl | rfl | rfl | rfl | rfl | rfl | rfl <;> exact if_pos (by simp [ho])

theorem exec_updates_off {img : List Byte} (ho : s.pwr.on = false)
    (hc : c ∈ [.requestUpdate, .firmwareTransfer img, .activateFirmware]) : exec c s = .next s := by
  simp only [List.mem_cons, List.not_mem_nil, or_false] at hc
  rcases hc with rfl | rfl | rfl <;> exact if_pos (by simp [ho])

end

/-- Settles O45: with power every request is answered by `mgmt` with the outcome of its own function. -/
theorem managementAndFirmware : Obligations.ManagementAndFirmware := by
  unfold Obligations.ManagementAndFirmware
  refine ⟨fun s k => ?_, fun s img => ?_⟩
  · dsimp only
    refine ⟨fun ho c hc => exec_asks_off ho hc, fun ho => ⟨fun h8 h255 => exec_setEndpointId_assigned ho ⟨h8, h255⟩, fun h => ?_,
      show execGetEndpointId s = _ from mgmt_on ho rfl, exec_getMctpVersionSupport_known ho,
      fun h0 h1 h255 => ?_,
      show execGetMessageTypeSupport s = _ from mgmt_on ho rfl, exec_getTid ho,
      exec_getPldmVersion_known ho, fun h0 h2 h5 => ?_, show execGetPldmTypes s = _ from mgmt_on ho rfl,
      show execGetPldmCommands 0 s = _ from mgmt_on ho rfl, show execGetPldmCommands 2 s = _ from mgmt_on ho rfl,
      show execGetPldmCommands 5 s = _ from mgmt_on ho rfl, exec_getPdr_known ho, rfl, exec_getPdr_unknown ho,
      exec_getSensorReading_numeric ho (by omega), fun _ h => ⟨_, exec_getSensorReading_numeric ho h⟩,
      exec_getSensorReading_state ho, exec_getStateSensorReadings_state ho, exec_getStateSensorReadings_other ho⟩⟩
    · exact show execSetEndpointId k s = _ from mgmt_on ho (if_neg (eidOk_iff.not.2 (by omega)))
    · exact show execGetMctpVersionSupport k s = _ from mgmt_on ho (if_neg (versionKnown.not.2 (by omega)))
    · have h := pldmCommands_none h0 h2 h5
      exact ⟨exec_getPldmVersion_unknown ho h, exec_getPldmCommands_unknown ho h⟩
  · dsimp only
    exact ⟨fun ho c hc => exec_updates_off ho hc, fun ho => ⟨exec_requestUpdate_begins ho, exec_requestUpdate_refused ho,
      fun hu hb hf => exec_firmwareTransfer_takes ho hu (transfer_verified hb hf),
      fun hu hb hf => exec_firmwareTransfer_fails ho hu (transfer_faulty hb hf) hf,
      fun hu hb => exec_firmwareTransfer_takes ho hu (transfer_stopped hb img), exec_activateFirmware_marks ho,
      exec_activateFirmware_refused ho, fun hu => ⟨exec_firmwareTransfer_idle ho hu, exec_activateFirmware_idle ho hu⟩⟩⟩

end Sys2Proof.Machine
end

section
/-! The event recorder: records, messages, copies, losses and summaries (R417, R419, R422, R423, R427). -/

namespace Sys2Proof.Machine

section
variable {s t u : State} {e : Event} {rest : List Event} {x : RingRec} {code : Nat}

/-! ### A ring after a write (R413) -/

theorem ring_write_next (r : Ring) (size free seq : Nat) (b : List Byte) : (r.write size free seq b).next = seq + 1 := rfl

/-- The record that is written is the newest of the ring. -/
theorem ring_write_last (r : Ring) (size free seq : Nat) (b : List Byte) :
    ((r.write size free seq b).recs.getLast?).map (fun y => (y.seq, y.bytes)) = some (some seq, b) := by
  unfold Ring.write Ring.place
  simp only [List.getLast?_concat, Option.map_some]

/-! ### What a record leaves of the front end and the rings -/

/-- From `s` to `t` the front end, the always-on ring with its next number, and HBM are unchanged. -/
structure KeepsRing (s t : State) : Prop where
  front   : t.evt.front = s.evt.front
  nextSeq : t.evt.nextSeq = s.evt.nextSeq
  ring    : t.evt.ring = s.evt.ring
  hbm     : t.hbm = s.hbm

theorem keepsRing_refl (s : State) : KeepsRing s s := ⟨rfl, rfl, rfl, rfl⟩

theorem KeepsRing.trans (h : KeepsRing s t) (k : KeepsRing t u) : KeepsRing s u :=
  ⟨k.front.trans h.front, k.nextSeq.trans h.nextSeq, k.ring.trans h.ring, k.hbm.trans h.hbm⟩

theorem keepsRing_ite {c : Prop} [Decidable c] {a b : State} (ha : KeepsRing s a) (hb : KeepsRing s b) :
    KeepsRing s (if c then a else b) := by split <;> assumption

theorem keepsRing_msi (s : State) (v : Nat) : KeepsRing s (s.msi v) :=
  keepsRing_ite ⟨rfl, rfl, rfl, rfl⟩ (keepsRing_ite (keepsRing_refl s) ⟨rfl, rfl, rfl, rfl⟩)

theorem msi_evt (s : State) (v : Nat) : (s.msi v).evt = s.evt := by
  unfold State.msi
  split
  · rfl
  · split <;> rfl

/-- Host memory is written, and HBM is not. -/
theorem keepsRing_wrBytes (a : Nat) (l : List Byte) (s : State) : KeepsRing s (s.wrBytes 2 a l) := by
  induction l generalizing s a with
  | nil => exact keepsRing_refl s
  | cons b l ih =>
    refine KeepsRing.trans (t := s.wr 2 a b) ?_ (ih _ _)
    unfold State.wr
    exact keepsRing_ite (keepsRing_refl s) ⟨rfl, rfl, rfl, rfl⟩

theorem keepsRing_hostParts (parts : List (Nat × List Byte)) (s : State) :
    KeepsRing s (parts.foldl (fun (t : State) x => t.wrBytes 2 x.1 x.2) s) := by
  induction parts generalizing s with
  | nil => exact keepsRing_refl s
  | cons p parts ih => exact (keepsRing_wrBytes p.1 p.2 s).trans (ih _)

theorem keepsRing_hostWrite (s : State) (mirror : Bool) (parts : List (Nat × List Byte)) :
    KeepsRing s (s.hostWrite mirror parts) := by
  obtain ⟨hf, hn, hr, hh⟩ := keepsRing_hostParts parts s
  exact ⟨hf, hn, hr, hh⟩

theorem keepsRing_mirrorWrite (s : State) (seq : Nat) (b : List Byte) : KeepsRing s (s.mirrorWrite seq b) := by
  unfold State.mirrorWrite
  dsimp only
  have h : ∀ p q r, KeepsRing s (((s.hostWrite true p).hostWrite true q).hostWrite true r) := fun p q r =>
    ((keepsRing_hostWrite s true p).trans (keepsRing_hostWrite _ true q)).trans (keepsRing_hostWrite _ true r)
  obtain ⟨hf, hn, hr, hh⟩ := h _ _ _
  exact ⟨hf, hn, hr, hh⟩

theorem keepsRing_mirror (s : State) (seq : Nat) (b : List Byte) : KeepsRing s (s.mirror seq b) :=
  keepsRing_ite (keepsRing_refl s) (keepsRing_ite (keepsRing_mirrorWrite s seq b) ⟨rfl, rfl, rfl, rfl⟩)

theorem keepsRing_evtMessage (s : State) : KeepsRing s s.evtMessage :=
  KeepsRing.trans (t := { s with evt := { s.evt with lastMsg := some s.aon, owed := false } }) ⟨rfl, rfl, rfl, rfl⟩
    (keepsRing_msi _ _)

theorem keepsRing_evtInterrupt (s : State) (sev : Nat) : KeepsRing s (s.evtInterrupt sev) :=
  keepsRing_ite (keepsRing_refl s) (keepsRing_ite (keepsRing_evtMessage s) ⟨rfl, rfl, rfl, rfl⟩)

theorem keepsRing_noteSeq (s : State) (e : Event) (seq : Nat) : KeepsRing s (s.noteSeq e seq) :=
  keepsRing_ite (keepsRing_refl s) ⟨rfl, rfl, rfl, rfl⟩

/-! ### EVENT_RECORD (R417) -/

/-- The record taken from the front end and written, before its mirror and its message. -/
def State.recorded (s : State) (e : Event) (rest : List Event) : State :=
  let t := s.addF F.evtStatusExtGap (s.gapOf (s.nextRecord e).length)
  { t with evt := { t.evt with
    front := rest, nextSeq := s.evt.nextSeq + 1
    ring := t.evt.ring.write ringBytes (Config.freeWord s.freeCtr) s.evt.nextSeq (s.nextRecord e) } }

theorem logRecord_keepsRing (s : State) (e : Event) (rest : List Event) : KeepsRing (s.recorded e rest) (s.logRecord e rest) := by
  have h := ((keepsRing_noteSeq (s.recorded e rest) e s.evt.nextSeq).trans (keepsRing_mirror _ s.evt.nextSeq
    (s.nextRecord e))).trans (keepsRing_evtInterrupt _ (severity e))
  exact h.trans ⟨rfl, rfl, rfl, rfl⟩

/-- The first event of the front end is the newest record of the ring. -/
theorem logRecord_spec (s : State) (e : Event) (rest : List Event) : let t := s.logRecord e rest
    t.evt.front = rest ∧ t.evt.nextSeq = s.evt.nextSeq + 1 ∧ t.evt.ring.next = s.evt.nextSeq + 1 ∧
      (t.evt.ring.recs.getLast?).map (fun y => (y.seq, y.bytes)) = some (some s.evt.nextSeq, s.nextRecord e) ∧
      t.hbm = s.hbm := by
  have k := logRecord_keepsRing s e rest
  refine ⟨k.front, k.nextSeq, ?_, ?_, k.hbm⟩
  · rw [k.ring]
    rfl
  · rw [k.ring]
    exact ring_write_last _ _ _ _ _

theorem exec_eventRecord_records (ho : s.pwr.on = true) (hf : s.evt.front = e :: rest) :
    exec .eventRecord s = .next (s.logRecord e rest) := by
  refine (if_neg (by simp [ho])).trans ?_
  rw [hf]

theorem exec_eventRecord_stays (h : s.pwr.on = false ∨ s.evt.front = []) : exec .eventRecord s = .next s := by
  change execEventRecord s = _
  unfold execEventRecord
  split
  · rfl
  · next hn =>
    rw [h.resolve_left (by simpa using hn)]

/-! ### INTERRUPT_HOLDOFF (R427) -/

/-- A message that the holdoff kept back is due. -/
def State.messageDue (s : State) : Prop := s.pwr.on = true ∧ s.evt.owed = true ∧ s.holdoffOver = true

theorem exec_interruptHoldoff_due (h : s.messageDue) : exec .interruptHoldoff s =
    .next (if s.fb F.evtIntEn then s.evtMessage else { s with evt := { s.evt with owed := false } }) := by
  obtain ⟨ho, hw, hh⟩ := h
  exact if_neg (by simp [ho, hw, hh])

theorem exec_interruptHoldoff_stays (h : ¬ s.messageDue) : exec .interruptHoldoff s = .next s := by
  refine if_pos ?_
  by_contra hc
  exact h (by simpa [State.messageDue, and_assoc] using hc)

theorem evtMessage_spec (s : State) : s.evtMessage.evt.owed = false ∧ s.evtMessage.evt.lastMsg = some s.aon := by
  rw [State.evtMessage, msi_evt]
  exact ⟨rfl, rfl⟩

/-! ### EXTENSION_COPY (R419) -/

/-- HBM is reached. -/
def State.reachesHbm (s : State) : Prop := s.fb F.devBootReady = true ∧ s.pwr.selfRefresh = false ∧ s.pst_ ≠ 3

theorem exec_extensionCopy_copies (h : s.reachesHbm) (hx : s.nextCopy = some x) :
    exec .extensionCopy s = .next (s.copyRecord x) := by
  obtain ⟨hb, hr, hp⟩ := h
  refine (if_neg (by simp [hb, hr, hp])).trans ?_
  rw [hx]

theorem exec_extensionCopy_stays (h : ¬ s.reachesHbm ∨ s.nextCopy = none) : exec .extensionCopy s = .next s := by
  change execExtensionCopy s = _
  unfold execExtensionCopy
  split
  · rfl
  · next hn =>
    have hr : s.reachesHbm := by simpa [State.reachesHbm, and_assoc] using hn
    rw [h.resolve_left (not_not.2 hr)]

/-! ### EVT_LOST (R422) -/

theorem exec_evtLost_tells (h : s.pwr.on = true ∧ s.evt.dropped ≠ 0 ∧ s.evt.front.length < 256) : exec .evtLost s =
    .next (({ s with evt := { s.evt with dropped := 0 } } : State).ev 0x0002 unitEvt 0 s.evt.dropped) :=
  if_neg (by simp [h.1, h.2.1, h.2.2])

theorem exec_evtLost_stays (h : ¬ (s.pwr.on = true ∧ s.evt.dropped ≠ 0 ∧ s.evt.front.length < 256)) :
    exec .evtLost s = .next s := by
  refine if_pos ?_
  by_contra hc
  exact h (by simpa [and_assoc] using hc)

/-! ### SUPPRESSION_WINDOW (R423) -/

theorem frontPush_evt (s : State) (e : Event) : (s.frontPush e).evt.rates = s.evt.rates ∧
    (s.frontPush e).evt.ring = s.evt.ring ∧ (s.frontPush e).evt.window = s.evt.window := by
  unfold State.frontPush
  split <;> exact ⟨rfl, rfl, rfl⟩

theorem frontPush_length (s : State) (e : Event) (h : s.evt.front.length < 512) :
    (s.frontPush e).evt.front.length = s.evt.front.length + 1 := by
  rw [State.frontPush, if_pos h]
  exact List.length_append

/-- The bucket of a code has suppressed events in its window. -/
def State.suppresses (s : State) (code : Nat) : Bool := decide ((s.rateOf code).winCount ≠ 0)

theorem summary_quiet (h : s.suppresses code = false) : s.summary code = s := if_pos (by simpa [State.suppresses] using h)

/-- The summary of a code with suppressed events: its bucket starts anew, and an event is pushed. -/
theorem summary_tells (h : s.suppresses code = true) : ∃ f, s.summary code =
    (s.putRate code { s.rateOf code with winCount := 0 }).frontPush f :=
  ⟨_, if_neg (by simpa [State.suppresses] using h)⟩

theorem summary_evt (s : State) (code : Nat) :
    (s.summary code).evt.ring = s.evt.ring ∧ (s.summary code).evt.window = s.evt.window := by
  cases h : s.suppresses code
  · rw [summary_quiet h]
    exact ⟨rfl, rfl⟩
  · obtain ⟨f, hf⟩ := summary_tells h
    obtain ⟨-, hr, hw⟩ := frontPush_evt (s.putRate code { s.rateOf code with winCount := 0 }) f
    rw [hf, hr, hw]
    exact ⟨rfl, rfl⟩

theorem rateOf_congr (h : t.evt.rates = s.evt.rates) (k : Nat) : t.rateOf k = s.rateOf k := by
  rw [State.rateOf, State.rateOf, h]

/-- After its summary a code suppresses nothing. -/
theorem suppresses_summary_same (s : State) (code : Nat) : (s.summary code).suppresses code = false := by
  cases h : s.suppresses code
  · rw [summary_quiet h, h]
  · obtain ⟨f, hf⟩ := summary_tells h
    rw [hf, State.suppresses, rateOf_congr (frontPush_evt _ f).1, rateOf_putRate_same]
    rfl

theorem suppresses_summary_other {k : Nat} (hk : k ≠ code) (s : State) :
    (s.summary code).suppresses k = s.suppresses k := by
  cases h : s.suppresses code
  · rw [summary_quiet h]
  · obtain ⟨f, hf⟩ := summary_tells h
    rw [hf, State.suppresses, rateOf_congr (frontPush_evt _ f).1, rateOf_putRate_other hk]
    rfl

/-- The summaries of a list of codes. -/
def State.summaries (s : State) (codes : List Nat) : State := codes.foldl State.summary s

theorem summaries_evt (codes : List Nat) (s : State) :
    (s.summaries codes).evt.ring = s.evt.ring ∧ (s.summaries codes).evt.window = s.evt.window := by
  unfold State.summaries
  induction codes generalizing s with
  | nil => exact ⟨rfl, rfl⟩
  | cons c codes ih =>
    obtain ⟨hr, hw⟩ := ih (s.summary c)
    obtain ⟨kr, kw⟩ := summary_evt s c
    exact ⟨hr.trans kr, hw.trans kw⟩

/-- No summary makes a code suppress, and a code of the list suppresses nothing after it. -/
theorem summaries_quiet (codes : List Nat) (h : code ∈ codes ∨ s.suppresses code = false) :
    (s.summaries codes).suppresses code = false := by
  unfold State.summaries
  induction codes generalizing s with
  | nil => exact h.resolve_left (by simp)
  | cons c codes ih =>
    refine ih ?_
    by_cases hc : code = c
    · subst hc
      exact .inr (suppresses_summary_same s code)
    · rw [suppresses_summary_other hc]
      exact h.imp_left fun hm => (List.mem_cons.1 hm).resolve_left hc

/-- The front end takes one summary for each code that suppresses, as far as it has room. -/
theorem summaries_front {codes : List Nat} (hd : codes.Nodup) (s : State)
    (hl : s.evt.front.length + codes.countP s.suppresses ≤ 512) :
    (s.summaries codes).evt.front.length = s.evt.front.length + codes.countP s.suppresses := by
  unfold State.summaries
  induction codes generalizing s with
  | nil => rfl
  | cons c codes ih =>
    obtain ⟨hc, hd⟩ := List.nodup_cons.1 hd
    have hk : codes.countP (s.summary c).suppresses = codes.countP s.suppresses :=
      List.countP_congr fun k hm => by
        have hk : k ≠ c := fun e => hc (e ▸ hm)
        rw [suppresses_summary_other hk]
    have step := ih hd (s.summary c)
    rw [hk] at step
    rw [List.countP_cons] at hl ⊢
    cases h : s.suppresses c
    · rw [summary_quiet h] at step
      simp only [h, Bool.false_eq_true, if_false, Nat.add_zero] at hl ⊢
      rw [List.foldl_cons, summary_quiet h]
      exact step hl
    · obtain ⟨f, hf⟩ := summary_tells h
      simp only [h, if_true] at hl ⊢
      have hp : (s.summary c).evt.front.length = s.evt.front.length + 1 := by
        rw [hf]
        exact frontPush_length _ f (show s.evt.front.length < 512 by omega)
      rw [hp] at step
      rw [List.foldl_cons, step (by omega)]
      omega

/-- A code that the map does not list suppresses nothing. -/
theorem suppresses_unlisted (h : code ∉ s.evt.rates.map (fun x => x.1)) : s.suppresses code = false := by
  have hm : mget code s.evt.rates = none := by
    generalize s.evt.rates = m at h
    induction m with
    | nil => rfl
    | cons p m ih =>
      rw [List.map_cons, List.mem_cons, not_or] at h
      have hp : ¬ p.1 = code := fun e => h.1 e.symm
      exact (if_neg hp).trans (ih h.2)
  rw [State.suppresses, State.rateOf, hm]
  rfl

/-- In a map with distinct keys every entry is found under its key. -/
theorem mget_of_mem {α : Type} {m : List (Nat × α)} (hd : (m.map (fun x => x.1)).Nodup) {p : Nat × α} (hp : p ∈ m) :
    mget p.1 m = some p.2 := by
  induction m with
  | nil => simp at hp
  | cons q m ih =>
    rw [List.map_cons, List.nodup_cons] at hd
    rcases List.mem_cons.1 hp with rfl | hp
    · exact if_pos rfl
    · have hq : ¬ q.1 = p.1 := fun e => hd.1 (e ▸ List.mem_map_of_mem hp)
      exact (if_neg hq).trans (ih hd.2 hp)

theorem countP_suppresses (hd : (s.evt.rates.map (fun x => x.1)).Nodup) :
    (s.evt.rates.map (fun x => x.1)).countP s.suppresses = s.evt.rates.countP (fun x => x.2.winCount ≠ 0) := by
  rw [List.countP_map]
  refine List.countP_congr fun p hp => ?_
  rw [Function.comp_apply, State.suppresses, State.rateOf, mget_of_mem hd hp]
  rfl

/-- The window that has ended becomes the next. -/
def State.nextWindow (s : State) : State := { s with evt := { s.evt with window := s.aon / 3125000 } }

theorem exec_suppressionWindow_ends (h : s.pwr.on = true ∧ s.evt.window < s.aon / 3125000) :
    exec .suppressionWindow s = .next (s.nextWindow.summaries (s.evt.rates.map (fun x => x.1))) :=
  if_neg (by simp [h.1, h.2])

theorem exec_suppressionWindow_stays (h : ¬ (s.pwr.on = true ∧ s.evt.window < s.aon / 3125000)) :
    exec .suppressionWindow s = .next s := by
  refine if_pos ?_
  by_contra hc
  exact h (by simpa using hc)

/-- At the end of a window no code suppresses, and every one that did has its summary. -/
theorem nextWindow_spec (s : State) (code : Nat) : let t := s.nextWindow.summaries (s.evt.rates.map (fun x => x.1))
    t.evt.window = s.aon / 3125000 ∧ (t.rateOf code).winCount = 0 ∧ t.evt.ring = s.evt.ring ∧
      ((s.evt.rates.map (fun x => x.1)).Nodup →
        s.evt.front.length + s.evt.rates.countP (fun x => x.2.winCount ≠ 0) ≤ 512 →
        t.evt.front.length = s.evt.front.length + s.evt.rates.countP (fun x => x.2.winCount ≠ 0)) := by
  obtain ⟨hr, hw⟩ := summaries_evt (s.evt.rates.map (fun x => x.1)) s.nextWindow
  refine ⟨hw, ?_, hr, fun hd hl => ?_⟩
  · have hq := summaries_quiet (s := s.nextWindow) (code := code) (s.evt.rates.map (fun x => x.1)) (by
      by_cases hc : code ∈ s.evt.rates.map (fun x => x.1)
      · exact .inl hc
      · exact .inr (suppresses_unlisted (s := s.nextWindow) hc))
    simpa [State.suppresses] using hq
  · have hc : (s.evt.rates.map (fun x => x.1)).countP s.nextWindow.suppresses =
        s.evt.rates.countP (fun x => x.2.winCount ≠ 0) := countP_suppresses (s := s.nextWindow) hd
    have hf := summaries_front hd s.nextWindow (by rw [hc]; exact hl)
    rw [hf, hc]
    rfl

end

/-- Settles O47: a record is followed through mirror and message by `KeepsRing`, and the summaries of a window are counted
code by code. -/
theorem eventsAreRecorded : Obligations.EventsAreRecorded := by
  unfold Obligations.EventsAreRecorded
  intro s e rest x code
  dsimp only
  refine ⟨fun ho hf => ⟨_, exec_eventRecord_records ho hf, logRecord_spec s e rest⟩, exec_eventRecord_stays,
    fun h he => ⟨?_, evtMessage_spec s⟩, fun h he => ?_, exec_interruptHoldoff_stays,
    fun h hx => ⟨_, exec_extensionCopy_copies h hx, ring_write_last _ _ _ _ _, rfl, rfl⟩, exec_extensionCopy_stays,
    exec_evtLost_tells, exec_evtLost_stays, fun h => ⟨_, exec_suppressionWindow_ends h, nextWindow_spec s code⟩,
    exec_suppressionWindow_stays⟩
  · rw [exec_interruptHoldoff_due h, if_pos he]
  · rw [exec_interruptHoldoff_due h, if_neg (by simp [he])]

end Sys2Proof.Machine
end

section
/-! The ingest: the look at PROD, the entries and the batches (R305, R306, R346). -/

namespace Sys2Proof.Machine

section
variable {s : State} {k : Nat} {o : HostOutcome}

/-! ### The look at PROD -/

/-- The state after a look is due: the next one is due once POLL has passed. -/
def State.looked (s : State) : State :=
  s.modPup (fun p => { p with polled := s.aon + max 1 (min 1000 (s.f F.schIngestCfgPoll)) * 25 / 8 })

theorem looked_polled (s : State) : s.aon < s.looked.pup.polled := by
  change s.aon < s.aon + max 1 (min 1000 (s.f F.schIngestCfgPoll)) * 25 / 8
  have h : 1 ≤ max 1 (min 1000 (s.f F.schIngestCfgPoll)) := le_max_left ..
  omega

/-- A look is due: the ingest runs, has a free slot and has taken every entry that it knows of. -/
structure State.looks (s : State) (k : Nat) : Prop where
  runs : s.ingests = true
  slot : s.freeSlot = some k
  none : s.pup.prod ≤ s.cursor
  due  : s.pup.polled ≤ s.aon

theorem exec_ingestPoll_looks (h : s.looks k) : exec (.ingestPoll o) s =
    if o = .ok ∧ s.f F.schIngestBase + 8 ≤ hostTop then
      .next (s.looked.takeProd (s.looked.rdNat 2 (s.looked.f F.schIngestBase) 8))
    else .next (s.looked.busError o) :=
  if_neg (by simp [h.runs, h.slot, h.none, h.due])

theorem busError_pup (s : State) (o : HostOutcome) : (s.busError o).pup = s.pup := by
  cases o <;> rfl

theorem violation_pup (s : State) (n : Nat) : (s.violation n).pup = s.pup := ev_pup ..

/-- PROD beyond KEEP plus the ring counts as the ring's end. -/
theorem takeProd_pup (s : State) (v : Nat) : (s.takeProd v).pup =
    { s.pup with prod := min v (s.f F.schIngestKeep + s.ringSize) } := by
  unfold State.takeProd
  dsimp only
  split
  · next h =>
    rw [violation_pup, Nat.min_eq_right h.le]
    rfl
  · next h =>
    rw [Nat.min_eq_left (Nat.not_lt.1 h)]
    rfl

theorem exec_ingestPoll_ok (h : s.looks k) (hb : s.f F.schIngestBase + 8 ≤ hostTop) :
    ∃ t : State, exec (.ingestPoll .ok) s = .next t ∧
      t.pup.prod = min (s.rdNat 2 (s.f F.schIngestBase) 8) (s.f F.schIngestKeep + s.ringSize) ∧ s.aon < t.pup.polled := by
  refine ⟨_, (exec_ingestPoll_looks h).trans (if_pos ⟨rfl, hb⟩), ?_, ?_⟩ <;> rw [takeProd_pup]
  · rfl
  · exact looked_polled s

theorem exec_ingestPoll_error (h : s.looks k) (ho : o ≠ .ok) : ∃ t : State, exec (.ingestPoll o) s = .next t ∧
    t.pup.prod = s.pup.prod ∧ s.aon < t.pup.polled := by
  refine ⟨_, (exec_ingestPoll_looks h).trans (if_neg fun e => ho e.1), ?_, ?_⟩ <;> rw [busError_pup]
  · rfl
  · exact looked_polled s

/-! ### An entry (R305, R306) -/

/-- An entry lies at the cursor, and a slot is free for its batch. -/
structure State.takes (s : State) (k : Nat) : Prop where
  runs  : s.ingests = true
  slot  : s.freeSlot = some k
  entry : s.cursor < s.pup.prod

/-- The checks of an entry: its length is not 0 and fits the slot behind the header, and its address is on 64 bytes. -/
def State.entryBad (s : State) : Prop :=
  s.rdNat 2 (s.entryAddr s.cursor + 8) 4 = 0 ∨ s.f F.schBatchSize < s.rdNat 2 (s.entryAddr s.cursor + 8) 4 + 64 ∨
    s.rdNat 2 (s.entryAddr s.cursor) 8 % 64 ≠ 0

theorem exec_ingestTake_error (h : s.takes k) (ho : o ≠ .ok) :
    ∃ free, exec (.ingestTake o) s = .next ((s.readErrors o).ingestBad free) := by
  refine ⟨Config.freeWord s.freeCtr % 2 ^ 64, (if_neg (by simp [h.runs, h.entry])).trans ?_⟩
  rw [h.slot]
  exact if_pos (.inl ho)

theorem exec_ingestTake_bad (h : s.takes k) (ha : s.entryAddr s.cursor + 64 ≤ hostTop) (hb : s.entryBad) :
    exec (.ingestTake .ok) s = .next (s.ingestBad (s.rdNat 2 (s.entryAddr s.cursor + 16) 8)) := by
  refine (if_neg (by simp [h.runs, h.entry])).trans ?_
  rw [h.slot]
  exact (if_neg (by simp [ha])).trans (if_pos hb)

theorem exec_ingestTake_good (h : s.takes k) (ha : s.entryAddr s.cursor + 64 ≤ hostTop) (hb : ¬ s.entryBad) :
    exec (.ingestTake .ok) s = .next ((s.modPup (fun p => { p with readFails := 0 })).putSlot k
      { state := .filling, cursor := s.cursor, id := s.rdNat 2 (s.entryAddr s.cursor + 16) 8
        length := s.rdNat 2 (s.entryAddr s.cursor + 8) 4, addr := s.rdNat 2 (s.entryAddr s.cursor) 8 }) := by
  refine (if_neg (by simp [h.runs, h.entry])).trans ?_
  rw [h.slot]
  exact (if_neg (by simp [ha])).trans (if_neg hb)

/-! ### A batch -/

/-- The slot whose batch is being copied. -/
def State.copies (s : State) (k : Nat) : Prop :=
  [0, 1].find? (fun k => (s.batchSlot k).state == .filling) = some k

theorem exec_batchPresent_error (h : s.ingests = true) (hk : s.copies k)
    (ho : o ≠ .ok ∨ hostTop < (s.batchSlot k).addr + (s.batchSlot k).length) :
    exec (.batchPresent o) s = .next ((s.readErrors o).ingestBad (s.batchSlot k).id) := by
  change execBatchPresent o s = _
  rw [execBatchPresent, show [0, 1].find? (fun k => (s.batchSlot k).state == .filling) = some k from hk]
  exact (if_neg (by simp [h])).trans (if_pos ho)

theorem exec_batchPresent_read (h : s.ingests = true) (hk : s.copies k)
    (ha : (s.batchSlot k).addr + (s.batchSlot k).length ≤ hostTop) : exec (.batchPresent .ok) s =
    .next (((((s.wrBytes 1 (s.slotBase k + 64) (s.rdBytes 2 (s.batchSlot k).addr (s.batchSlot k).length)).wrBytes 1
      (s.slotBase k) (leBytes 8 (s.batchSlot k).id ++ leBytes 8 (s.batchSlot k).length ++ leBytes 8 (s.batchSlot k).cursor ++
        leBytes 40 0)).unpoison 1 (s.slotBase k) (64 + (s.batchSlot k).length)).putSlot k
      { s.batchSlot k with state := .present }).entryDone 1) := by
  change execBatchPresent .ok s = _
  rw [execBatchPresent, show [0, 1].find? (fun k => (s.batchSlot k).state == .filling) = some k from hk]
  exact (if_neg (by simp [h])).trans (if_neg (by simp [ha]))

end

/-- Settles O21: each of the three reads is one access, and `takeProd`, `ingestBad` and `entryDone` say what follows. -/
theorem ingestReadsTheRing : Obligations.IngestReadsTheRing := by
  unfold Obligations.IngestReadsTheRing
  intro s k
  dsimp only
  exact ⟨fun hr hs hp hd => exec_ingestPoll_ok ⟨hr, hs, hp, hd⟩, fun hr hs hp hd o => exec_ingestPoll_error ⟨hr, hs, hp, hd⟩,
    fun hr hs hp o => exec_ingestTake_error ⟨hr, hs, hp⟩, fun hr hk o => exec_batchPresent_error hr hk,
    fun hr hs hp ha hl hf hm => exec_ingestTake_good ⟨hr, hs, hp⟩ ha (not_or.2 ⟨hl, not_or.2 ⟨hf.not_gt, not_not.2 hm⟩⟩),
    fun hr hs hp ha => exec_ingestTake_bad ⟨hr, hs, hp⟩ ha, exec_batchPresent_read⟩

end Sys2Proof.Machine
end

section
/-! What leaves a port (R323), and what goes on over another (R327, R331): the equations of BLOCK_SEND by what waits, and
of BLOCK_FORWARD by what becomes of the block that is due. -/

namespace Sys2Proof.Machine

section
variable {s : State} {p q k : Nat} {b : LinkBlock}

/-! ### BLOCK_SEND (R323) -/

theorem foldl_ev_fab {α : Type} (code unit arg1 : Nat) (arg0 : α → Nat) (l : List α) (s : State) :
    (l.foldl (fun t o => t.ev code unit (arg0 o) arg1) s).fab = s.fab := by
  induction l generalizing s with
  | nil => rfl
  | cons o l ih => rw [List.foldl_cons, ih, ev_fab]

/-- To drop blocks without a way out leaves what waits for another device. -/
theorem dropUnrouted_ingress (s : State) : s.dropUnrouted.fab.ingress = s.fab.ingress := by
  rw [State.dropUnrouted, foldl_ev_fab]

/-- What a port that carries blocks sends, by its resends and its unsequenced blocks. -/
theorem exec_blockSend_up (hp : p < 12) (hup : s.portUp p = true) : exec (.blockSend p) s =
    match (s.dropUnrouted.port p).resend, (s.dropUnrouted.port p).ctl with
    | q :: _, _ => .next (s.dropUnrouted.sendResend p q)
    | [], c :: rest => .next ((s.dropUnrouted.putPort p { s.dropUnrouted.port p with ctl := rest }).emit p
        { btype := blockType c, seq := (s.dropUnrouted.port p).txSeq, pay := c })
    | [], [] => .next (if s.dropUnrouted.classWaits p 0 then s.dropUnrouted.sendClass p 0
        else (match s.dropUnrouted.turnOf p with
          | some k => (s.dropUnrouted.spendTurn p k).sendClass p k
          | none => s.dropUnrouted.emit p { btype := 0, seq := (s.dropUnrouted.port p).txSeq })) :=
  if_neg (by simp [hup, hp])

theorem exec_blockSend_resend {l : List Nat} (hp : p < 12) (hup : s.portUp p = true)
    (hr : (s.dropUnrouted.port p).resend = q :: l) : exec (.blockSend p) s = .next (s.dropUnrouted.sendResend p q) := by
  rw [exec_blockSend_up hp hup, hr]

theorem exec_blockSend_ctl {c : Payload} {rest : List Payload} (hp : p < 12) (hup : s.portUp p = true)
    (hr : (s.dropUnrouted.port p).resend = []) (hc : (s.dropUnrouted.port p).ctl = c :: rest) :
    exec (.blockSend p) s = .next ((s.dropUnrouted.putPort p { s.dropUnrouted.port p with ctl := rest }).emit p
      { btype := blockType c, seq := (s.dropUnrouted.port p).txSeq, pay := c }) := by
  rw [exec_blockSend_up hp hup, hr, hc]

/-- With no resend and no unsequenced block, TC0 goes before the turns of TC1 and TC2. -/
theorem exec_blockSend_class (hp : p < 12) (hup : s.portUp p = true) (hr : (s.dropUnrouted.port p).resend = [])
    (hc : (s.dropUnrouted.port p).ctl = []) : exec (.blockSend p) s =
      .next (if s.dropUnrouted.classWaits p 0 then s.dropUnrouted.sendClass p 0
        else (match s.dropUnrouted.turnOf p with
          | some k => (s.dropUnrouted.spendTurn p k).sendClass p k
          | none => s.dropUnrouted.emit p { btype := 0, seq := (s.dropUnrouted.port p).txSeq })) := by
  rw [exec_blockSend_up hp hup, hr, hc]

theorem exec_blockSend_down (hup : s.portUp p = false) : exec (.blockSend p) s = .next s := if_pos (by simp [hup])

theorem nextTransit_none {tc : Nat} (h : ∀ y ∈ s.fab.ingress, y.2.tc ≠ tc) : s.nextTransit p tc = none := by
  have hfind : s.fab.ingress.zipIdx.find? (fun y => y.1.2.tc == tc && s.routeTo y.1.2.dest == some p) = none :=
    List.find?_eq_none.2 fun y hy => by simp [h y.1 (List.fst_mem_of_mem_zipIdx hy)]
  simp [State.nextTransit, hfind]

theorem classWaits_of_origin {tc : Nat} {o : Nat × Origin} (h : s.nextOrigin p tc = some o) :
    s.classWaits p tc = true := by
  simp [State.classWaits, h]

/-- A block of this device leaves when none of its class is on its way. -/
theorem sendClass_origin {tc : Nat} {o : Nat × Origin} (ht : s.nextTransit p tc = none)
    (h : s.nextOrigin p tc = some o) : s.sendClass p tc = s.sendOrigin p o := by
  rw [State.sendClass, ht, h]

/-! ### BLOCK_FORWARD (R327, R331) -/

/-- The state without the block at place `k` of those that wait for another device. -/
def State.withoutIngress (s : State) (k : Nat) : State :=
  { s with fab := { s.fab with ingress := s.fab.ingress.eraseIdx k } }

theorem exec_blockForward_due (h : s.fab.ingress.zipIdx.find? (s.movesOn p) = some ((p, b), k)) :
    exec (.blockForward p) s =
      if b.tc ≠ 0 ∧ s.failedDevice b.src then
        .next (((s.withoutIngress k).addF (F.fabPViolFailedSrc p) 1).freeCredit p b.tc)
      else match s.routeTo b.dest with
        | none => .next ((((s.withoutIngress k).sendCtlBlock p (.nak 5 b.seq)).ev 0x6006 (portUnit p) b.dest 5).freeCredit
            p b.tc)
        | some e => .next ((s.spendTurn e b.tc).sendTransit e (k, (p, b))) := by
  change execBlockForward p s = _
  rw [execBlockForward, h]
  rfl

theorem exec_blockForward_failed (h : s.fab.ingress.zipIdx.find? (s.movesOn p) = some ((p, b), k)) (ht : b.tc ≠ 0)
    (hf : s.failedDevice b.src = true) : exec (.blockForward p) s =
      .next (((s.withoutIngress k).addF (F.fabPViolFailedSrc p) 1).freeCredit p b.tc) := by
  rw [exec_blockForward_due h, if_pos ⟨ht, hf⟩]

theorem exec_blockForward_alive (h : s.fab.ingress.zipIdx.find? (s.movesOn p) = some ((p, b), k))
    (ha : b.tc = 0 ∨ s.failedDevice b.src = false) : exec (.blockForward p) s =
      match s.routeTo b.dest with
      | none => .next ((((s.withoutIngress k).sendCtlBlock p (.nak 5 b.seq)).ev 0x6006 (portUnit p) b.dest 5).freeCredit
          p b.tc)
      | some e => .next ((s.spendTurn e b.tc).sendTransit e (k, (p, b))) := by
  rw [exec_blockForward_due h, if_neg]
  rintro ⟨ht, hf⟩
  rcases ha with ha | ha
  · exact ht ha
  · simp [ha] at hf

theorem exec_blockForward_none (h : s.fab.ingress.zipIdx.find? (s.movesOn p) = none) :
    exec (.blockForward p) s = .next s := by
  change execBlockForward p s = _
  rw [execBlockForward, h]

end

/-- Settles O30: BLOCK_SEND by the first of its choices that has a block, and BLOCK_FORWARD by the block that is due. -/
theorem blocksLeave : Obligations.BlocksLeave := by
  unfold Obligations.BlocksLeave
  intro s p q e k c rest l o b
  dsimp only
  refine ⟨fun hp hup => ⟨?resend, ?ctl, ?tc0, ?turn, ?idle, ?origin⟩, exec_blockSend_down,
    fun hdue => ⟨?goes, ?failed, ?noRoute⟩, exec_blockForward_none⟩
  case resend => exact exec_blockSend_resend hp hup
  case ctl => exact exec_blockSend_ctl hp hup
  case tc0 =>
    intro hr hc hw
    rw [exec_blockSend_class hp hup hr hc, if_pos hw]
  case turn =>
    intro hr hc hw n hn
    rw [exec_blockSend_class hp hup hr hc, if_neg (by simp [hw]), hn]
  case idle =>
    intro hr hc hw hn
    rw [exec_blockSend_class hp hup hr hc, if_neg (by simp [hw]), hn]
  case origin =>
    intro hr hc hin ho
    rw [exec_blockSend_class hp hup hr hc, if_pos (classWaits_of_origin ho), sendClass_origin (nextTransit_none ?_) ho]
    rwa [dropUnrouted_ingress]
  case goes =>
    intro ha he
    rw [exec_blockForward_alive hdue ha, he]
  case failed => exact exec_blockForward_failed hdue
  case noRoute =>
    intro ha he
    rw [exec_blockForward_alive hdue ha, he]
    rfl

end Sys2Proof.Machine
end

section
/-! The errors of a link (R317, R321, R332), its training (R325, R326), what the host does to a port, and the route table
(R327): the equations of each command. -/

namespace Sys2Proof.Machine

section
variable {s : State} {p : Nat}

/-! ### A port in a state -/

theorem portUp_false_of_pst {x : Nat} (h : s.pst p = x) (h2 : x ≠ pActive) (h3 : x ≠ pKeepAlive) : s.portUp p = false := by
  simp [State.portUp, h, h2, h3]

theorem not_fb_iff {x : Fld} : (!s.fb x) = true ↔ s.fb x = false := by simp

/-- After a fast retrain begins, the port trains and keeps what it holds (R325). -/
theorem fastRetrain_port (s : State) (p : Nat) :
    (s.fastRetrain p).port p = { s.port p with fast := (s.port p).equal, resent := [] } := by
  simp [State.fastRetrain, State.modPort, State.putPort, State.port]

theorem fastRetrain_pst (s : State) (p : Nat) : (s.fastRetrain p).pst p = pTraining := f_setF_same _ _ _

/-! ### Errors and timers of a link (R317, R318, R321, R332) -/

theorem exec_fecUncorrectable_up (hp : p < 12) (h : s.portUp p = true) :
    exec (.fecUncorrectable p) s = .next (s.addF (F.fabPErrFecUncorr p) 1) := congrArg _ (if_pos ⟨hp, h⟩)

theorem exec_blockCrcFail_up (hp : p < 12) (h : s.portUp p = true) :
    exec (.blockCrcFail p) s = .next (s.addF (F.fabPErrCrcFail p) 1) := congrArg _ (if_pos ⟨hp, h⟩)

theorem exec_lossOfLock_up (h : s.portUp p = true) : exec (.lossOfLock p) s = .next (s.fastRetrain p) :=
  congrArg _ (if_pos h)

/-- The tick from which the oldest block counts as not acknowledged in time (R321). -/
def State.ackLate (s : State) (p : Nat) : Nat := (s.port p).ackAt + (max 1000 (s.f F.fabLinkCfgAckTimeout) + 319) / 320

theorem exec_ackTimeout_late {seq : Nat} {b : LinkBlock} {rest : List (Nat × LinkBlock)} (h : s.portUp p = true)
    (hr : (s.port p).replay = (seq, b) :: rest) (hl : s.ackLate p ≤ s.aon) : exec (.ackTimeout p) s =
      .next (s.putPort p { s.port p with
        ackAt := s.aon, resend := if seq ∈ (s.port p).resend then (s.port p).resend else (s.port p).resend ++ [seq] }) := by
  change execAckTimeout p s = _
  rw [State.ackLate] at hl
  simp only [execAckTimeout, hr]
  rw [if_neg (by simp [h, hl])]
  simp only [List.contains_iff_mem]

theorem exec_ackTimeout_idle (h : s.portUp p = false ∨ s.aon < s.ackLate p ∨ (s.port p).replay = []) :
    exec (.ackTimeout p) s = .next s := by
  change execAckTimeout p s = _
  rw [State.ackLate] at h
  cases hr : (s.port p).replay with
  | nil => simp only [execAckTimeout, hr]
  | cons y rest =>
    simp only [execAckTimeout, hr]
    exact if_pos (by simpa [hr] using h)

theorem exec_resendLimit_reached (h : s.portUp p = true)
    (hy : ∃ y ∈ (s.port p).resent, max 1 (s.f F.fabLinkCfgResendLimit) ≤ y.2) :
    exec (.resendLimit p) s = .next (s.fastRetrain p) :=
  if_pos ⟨h, List.any_eq_true.2 (hy.imp fun _ hy => ⟨hy.1, decide_eq_true hy.2⟩)⟩

theorem exec_resendLimit_below
    (h : s.portUp p = false ∨ ∀ y ∈ (s.port p).resent, y.2 < max 1 (s.f F.fabLinkCfgResendLimit)) :
    exec (.resendLimit p) s = .next s := by
  refine if_neg fun ⟨hup, hany⟩ => ?_
  obtain ⟨y, hy, hle⟩ := List.any_eq_true.1 hany
  rcases h with h | h
  · simp [h] at hup
  · have := of_decide_eq_true hle
    have := h y hy
    omega

theorem exec_violationLimit_reached (hp : p < 12) (h0 : 0 < s.f F.fabViolCfgLimit)
    (hl : s.f F.fabViolCfgLimit ≤ s.f (F.fabPViolWindowCount p))
    (hw : s.aon < (s.port p).winAt + max 1 (s.f F.fabViolCfgWindow)) (hq : s.pst p ≠ pQuarantined) :
    exec (.violationLimit p) s = .next (s.quarantinePort p 4 (s.f (F.fabPViolLastKind p))) := by
  refine if_neg ?_
  rintro (h | h | h | h | h)
  · omega
  · omega
  · omega
  · omega
  · exact hq h

theorem exec_violationLimit_below (h : s.f F.fabViolCfgLimit = 0 ∨ s.f (F.fabPViolWindowCount p) < s.f F.fabViolCfgLimit ∨
      s.pst p = pQuarantined ∨ (s.port p).winAt + max 1 (s.f F.fabViolCfgWindow) ≤ s.aon) :
    exec (.violationLimit p) s = .next s := by
  refine if_pos (.inr ?_)
  rcases h with h | h | h | h
  · exact .inl h
  · exact .inr (.inl h)
  · exact .inr (.inr (.inr h))
  · exact .inr (.inr (.inl h))

/-! ### Training (R317, R325, R326) -/

/-- A port that may end a training: it trains, and is switched on. -/
structure State.inTraining (s : State) (p : Nat) : Prop where
  port  : p < 12
  state : s.pst p = pTraining
  on    : s.fb (F.fabPCtrlEn p) = true

section
variable {lanes fabric tag : Nat} {signal : Bool}

/-- A training that ends, by its kind, its signal and its lanes. -/
theorem exec_linkTraining_eq (h : s.inTraining p) : exec (.linkTraining p lanes signal fabric tag) s =
    if (s.port p).fast then
      (if widthOf lanes = 0 then .next (s.fullTraining p)
       else .next (((s.setLanes p (lanes % 16)).activate p).ev 0x6003 (portUnit p) 0 0))
    else if !signal then .next (s.linkDown p pDown 1)
    else if widthOf lanes = 0 then .next (s.linkDown p pDown 2)
    else if (s.takeIdent p fabric tag).pst p = pQuarantined then .next (s.takeIdent p fabric tag)
    else
      let a := ((s.takeIdent p fabric tag).setLanes p (lanes % 16)).activate p
      .next (State.ev { a with fab := { a.fab with nodeId := mput p a.myId a.fab.nodeId } } 0x6001 (portUnit p)
        (widthOf lanes) 0) :=
  if_neg (by simp [h.port, h.state, h.on])

theorem exec_linkTraining_fast (h : s.inTraining p) (hf : (s.port p).fast = true) (hw : widthOf lanes ≠ 0) :
    exec (.linkTraining p lanes signal fabric tag) s =
      .next (((s.setLanes p (lanes % 16)).activate p).ev 0x6003 (portUnit p) 0 0) := by
  rw [exec_linkTraining_eq h, if_pos hf, if_neg hw]

theorem exec_linkTraining_fastFails (h : s.inTraining p) (hf : (s.port p).fast = true) (hw : widthOf lanes = 0) :
    exec (.linkTraining p lanes signal fabric tag) s = .next (s.fullTraining p) := by
  rw [exec_linkTraining_eq h, if_pos hf, if_pos hw]

theorem exec_linkTraining_noSignal (h : s.inTraining p) (hf : (s.port p).fast = false) :
    exec (.linkTraining p lanes false fabric tag) s = .next (s.linkDown p pDown 1) := by
  rw [exec_linkTraining_eq h, if_neg (by simp [hf]), if_pos (by simp)]

theorem exec_linkTraining_noLane (h : s.inTraining p) (hf : (s.port p).fast = false) (hw : widthOf lanes = 0) :
    exec (.linkTraining p lanes true fabric tag) s = .next (s.linkDown p pDown 2) := by
  rw [exec_linkTraining_eq h, if_neg (by simp [hf]), if_neg (by simp), if_pos hw]

/-- With a signal and a lane a full training ends by the partner's identity. -/
theorem exec_linkTraining_full (h : s.inTraining p) (hf : (s.port p).fast = false) (hw : widthOf lanes ≠ 0) :
    exec (.linkTraining p lanes true fabric tag) s =
    if (s.takeIdent p fabric tag).pst p = pQuarantined then .next (s.takeIdent p fabric tag)
    else
      let a := ((s.takeIdent p fabric tag).setLanes p (lanes % 16)).activate p
      .next (State.ev { a with fab := { a.fab with nodeId := mput p a.myId a.fab.nodeId } } 0x6001 (portUnit p)
        (widthOf lanes) 0) := by
  rw [exec_linkTraining_eq h, if_neg (by simp [hf]), if_neg (by simp), if_neg hw]

theorem exec_linkTraining_off (h : s.pst p ≠ pTraining ∨ s.fb (F.fabPCtrlEn p) = false) :
    exec (.linkTraining p lanes signal fabric tag) s = .next s :=
  if_pos (.inr (h.imp_right not_fb_iff.2))

end

theorem exec_trainingRetry_due (hp : p < 12) (hd : s.pst p = pDown) (he : s.fb (F.fabPCtrlEn p) = true)
    (hl : (s.port p).failAt + 3125000 ≤ s.aon) : exec (.trainingRetry p) s = .next (s.startTraining p) :=
  if_neg (by simp [hp, hd, he, hl])

theorem exec_trainingRetry_idle
    (h : s.pst p ≠ pDown ∨ s.fb (F.fabPCtrlEn p) = false ∨ s.aon < (s.port p).failAt + 3125000) :
    exec (.trainingRetry p) s = .next s :=
  if_pos (.inr (h.imp_right (Or.imp_left not_fb_iff.2)))

/-! ### What the host does to a port (R325, R332, R334) -/

theorem retrainPort_up (h : s.portUp p = true) : s.retrainPort p = s.fastRetrain p := if_pos h

theorem retrainPort_down (hp : p < 12) (hd : s.pst p = pDown) (he : s.fb (F.fabPCtrlEn p) = true) :
    s.retrainPort p = s.startTraining p := by
  rw [State.retrainPort, if_neg (by simp [portUp_false_of_pst hd (by decide) (by decide)]), if_pos ⟨hp, hd, he⟩]

theorem unquarantinePort_other (h : s.pst p ≠ pQuarantined) : s.unquarantinePort p = s := if_pos (.inr h)

theorem unquarantinePort_on (hp : p < 12) (hq : s.pst p = pQuarantined) (he : s.fb (F.fabPCtrlEn p) = true) :
    s.unquarantinePort p =
      ((s.setF (F.fabPViolWindowCount p) 0).startTraining p).setF (F.fabPStatusDownReason p) 0 := by
  rw [State.unquarantinePort, if_neg (by simp [hp, hq])]
  exact if_pos he

theorem unquarantinePort_off (hp : p < 12) (hq : s.pst p = pQuarantined) (he : s.fb (F.fabPCtrlEn p) = false) :
    s.unquarantinePort p =
      ((s.setF (F.fabPViolWindowCount p) 0).setF (F.fabPStatusState p) pDown).setF (F.fabPStatusDownReason p) 5 := by
  rw [State.unquarantinePort, if_neg (by simp [hp, hq])]
  exact if_neg (by simp [he])

theorem enablePort_on (hp : p < 12) : s.enablePort p true =
    if s.pst p = pDown then (s.setF (F.fabPCtrlEn p) 1).startTraining p else s.setF (F.fabPCtrlEn p) 1 := by
  rw [State.enablePort, if_neg (by omega)]
  by_cases hq : s.pst p = pQuarantined
  · rw [if_neg (c := s.pst p = pDown) (by rw [hq]; decide)]
    exact if_pos hq
  · exact if_neg hq

theorem enablePort_off (hp : p < 12) : s.enablePort p false =
    if s.pst p = pQuarantined then s.setF (F.fabPCtrlEn p) 0 else (s.setF (F.fabPCtrlEn p) 0).linkDown p pDown 5 := by
  rw [State.enablePort, if_neg (by omega)]
  rfl

/-! ### The route table (R327) -/

/-- The values other than 0 of `f`, listed under their places of `l`. -/
def listed (f : Nat → Nat) (l : List Nat) : List (Nat × Nat) :=
  l.filterMap (fun k => if f k = 0 then none else some (k, f k))

/-- A list of the values other than 0 reads as the values. -/
theorem mget_listed (f : Nat → Nat) (l : List Nat) (k : Nat) :
    (mget k (listed f l)).getD 0 = if k ∈ l then f k else 0 := by
  induction l with
  | nil => simp [listed]
  | cons j l ih =>
    by_cases hj : f j = 0
    · have hskip : listed f (j :: l) = listed f l := List.filterMap_cons_none (if_pos hj)
      rw [hskip, ih]
      by_cases hkj : k = j <;> simp [hkj, hj]
    · have htake : listed f (j :: l) = (j, f j) :: listed f l := List.filterMap_cons_some (if_neg hj)
      rw [htake, mget]
      by_cases hkj : j = k
      · simp [hkj]
      · simp [hkj, ih, Ne.symm hkj]

theorem loadRoutes_routes (s : State) : s.loadRoutes.fab.routes =
    listed (fun k => s.rdNat 1 (s.f F.fabRouteBase + 2 * k) 2) (List.range 65536) := by
  rw [State.loadRoutes, listed]

theorem loadRoutes_regs (s : State) : s.loadRoutes.regs = s.regs := by
  rw [State.loadRoutes]

theorem loadRoutes_route (s : State) {k : Nat} (hk : k < 65536) :
    (mget k s.loadRoutes.fab.routes).getD 0 = s.rdNat 1 (s.f F.fabRouteBase + 2 * k) 2 := by
  rw [loadRoutes_routes, mget_listed, if_pos (List.mem_range.2 hk)]

end

/-- Settles O31: each command by the equations above, the trainings by their kind, and the route table entry by entry. -/
theorem linksAreKept : Obligations.LinksAreKept := by
  unfold Obligations.LinksAreKept
  refine ⟨?errors, ?training⟩
  case errors =>
    intro s p seq b rest
    dsimp only
    refine ⟨fun hp h => ⟨exec_fecUncorrectable_up hp h, exec_blockCrcFail_up hp h, exec_lossOfLock_up h,
        fastRetrain_pst s p, ?_, ?_⟩,
      fun h => ⟨congrArg _ (if_neg (by simp [h])), congrArg _ (if_neg (by simp [h])), congrArg _ (if_neg (by simp [h])),
        exec_ackTimeout_idle (.inl h), exec_resendLimit_below (.inl h)⟩,
      exec_ackTimeout_late, fun h => exec_ackTimeout_idle (.inr h), exec_resendLimit_reached,
      fun h => exec_resendLimit_below (.inr h), exec_violationLimit_reached, exec_violationLimit_below⟩
    · rw [fastRetrain_port]
    · rw [fastRetrain_port]
  case training =>
    intro s p lanes fabric tag hp
    dsimp only
    refine ⟨fun ht he hf => ⟨fun hw hq => ?_, fun hw hq => ?_, exec_linkTraining_noSignal ⟨hp, ht, he⟩ hf,
        exec_linkTraining_noLane ⟨hp, ht, he⟩ hf⟩,
      fun signal ht he hf => ⟨exec_linkTraining_fast ⟨hp, ht, he⟩ hf, exec_linkTraining_fastFails ⟨hp, ht, he⟩ hf⟩,
      fun signal => exec_linkTraining_off, exec_trainingRetry_due hp, exec_trainingRetry_idle, fun h => ?host⟩
    · rw [exec_linkTraining_full ⟨hp, ht, he⟩ hf hw, if_neg hq]
    · rw [exec_linkTraining_full ⟨hp, ht, he⟩ hf hw, if_pos hq]
    case host =>
      have hretrain : exec (.retrain p) s = .next (s.retrainPort p) := hostAccess_eq h _ _ _
      have hunq : exec (.unquarantine p) s = .next (s.unquarantinePort p) := hostAccess_eq h _ _ _
      have hen (on : Bool) : exec (.portEnable p on) s = .next (s.enablePort p on) := hostAccess_eq h _ _ _
      rw [hretrain, hunq, hen true, hen false]
      exact ⟨fun hup => congrArg _ (retrainPort_up hup), fun hd he => congrArg _ (retrainPort_down hp hd he),
        fun hq he => congrArg _ (unquarantinePort_on hp hq he), fun hq he => congrArg _ (unquarantinePort_off hp hq he),
        fun hq => congrArg _ (unquarantinePort_other hq), congrArg _ (enablePort_on hp), congrArg _ (enablePort_off hp),
        s.loadRoutes, hostAccess_eq h _ _ _, loadRoutes_regs s, fun k => loadRoutes_route s⟩

end Sys2Proof.Machine
end

section
/-! An arriving fabric block (R318 to R322, R326, R327, R330 to R332): how a block that a port takes in fares by its number
and its credit, what a block in its turn does, and the unsequenced blocks. -/

namespace Sys2Proof.Machine

section
variable {s a : State} {p : Nat} {b : LinkBlock} {c : Instr}

/-! ### A block reaches its port (R318, R332) -/

theorem linkIn_down (h : s.portUp p = false) : s.linkIn p b = s := if_pos (by simp [h])

theorem linkIn_bad (h : s.portUp p = true) (hb : fmtBad b = true) :
    s.linkIn p b = (s.portViolates p 1).sendCtlBlock p (.nak 3 b.seq) := by
  rw [State.linkIn, if_neg (by simp [h]), if_pos hb]

theorem linkIn_outOfWindow (h : s.portUp p = true) (hb : fmtBad b = false)
    (hw : outOfWindow b.seq (s.port p).rxSeq = true) :
    s.linkIn p b = (s.portViolates p 2).sendCtlBlock p (.nak 2 b.seq) := by
  rw [State.linkIn, if_neg (by simp [h]), if_neg (by simp [hb]), if_pos hw]

theorem linkIn_sequenced (h : s.blockIn p b a) (hq : isSequenced b = true) : s.linkIn p b = a.takeSeq p b := by
  rw [State.linkIn, if_neg (by simp [h.up]), if_neg (by simp [h.form]), if_neg (by simp [h.window])]
  dsimp only
  rw [h.acked, if_pos hq]

theorem linkIn_unsequenced (h : s.blockIn p b a) (hq : isSequenced b = false) : s.linkIn p b = a.takeUnseq p b := by
  rw [State.linkIn, if_neg (by simp [h.up]), if_neg (by simp [h.form]), if_neg (by simp [h.window])]
  dsimp only
  rw [h.acked, if_neg (by simp [hq])]

theorem exec_block (h : (c, true) ∈ blockRows p b) : exec c s = .next (s.linkIn p b) := by
  simp only [blockRows, List.mem_cons, Prod.mk.injEq, List.not_mem_nil, or_false] at h
  rcases h with ⟨rfl, h⟩ | ⟨rfl, h⟩ | ⟨rfl, h⟩ | ⟨rfl, h⟩ | ⟨rfl, -⟩
  · exact congrArg _ (if_pos (by simpa using h.symm))
  · exact congrArg _ (if_pos (by simpa using h.symm))
  · exact congrArg _ (if_pos (by simpa using h.symm))
  · exact congrArg _ (if_pos (by simpa using h.symm))
  · rfl

/-- A block does nothing where its TYPE or its class is another. -/
theorem exec_block_other (h : (c, false) ∈ blockRows p b) : exec c s = .next s := by
  simp only [blockRows, List.mem_cons, Prod.mk.injEq, List.not_mem_nil, or_false] at h
  rcases h with ⟨rfl, h⟩ | ⟨rfl, h⟩ | ⟨rfl, h⟩ | ⟨rfl, h⟩ | ⟨-, h⟩
  · exact congrArg _ (if_neg (by simpa using h.symm))
  · exact congrArg _ (if_neg (by simpa using h.symm))
  · exact congrArg _ (if_neg (by simpa using h.symm))
  · exact congrArg _ (if_neg (by simpa using h.symm))
  · cases h

theorem fence_mem (ht : b.btype = 2) : (Instr.fence p b, true) ∈ blockRows p b := by simp [blockRows, ht]
theorem bulkData_mem (ht : b.btype = 1) (hc : b.tc = 2) : (Instr.bulkData p b, true) ∈ blockRows p b := by
  simp [blockRows, ht, hc]
theorem nak_mem (ht : b.btype = 3) : (Instr.nak p b, true) ∈ blockRows p b := by simp [blockRows, ht]
theorem creditSync_mem (ht : b.btype = 4) : (Instr.creditSync p b, true) ∈ blockRows p b := by simp [blockRows, ht]
theorem idle_mem : (Instr.idle p b, true) ∈ blockRows p b := by simp [blockRows]

/-! ### A sequenced block by its number and its credit (R320, R321) -/

/-- The port after it has taken a credit for a block. -/
def State.creditSpent (a : State) (p : Nat) (b : LinkBlock) : State :=
  a.modPort p (fun y => { y with avail := modNth y.avail b.tc (· - 1) })

theorem takeSeq_before (h : 1024 < seqGap b.seq (a.port p).rxSeq ∨ (a.port p).held.any (fun h => h.1 == b.seq) = true) :
    a.takeSeq p b = a := by
  rw [State.takeSeq]
  by_cases he : 1024 < seqGap b.seq (a.port p).rxSeq
  · exact if_pos he
  · exact (if_neg he).trans (if_pos (h.resolve_left he))

theorem takeSeq_noCredit (he : seqGap b.seq (a.port p).rxSeq ≤ 1024)
    (hh : (a.port p).held.any (fun h => h.1 == b.seq) = false) (hc : nth (a.port p).avail b.tc = 0) :
    a.takeSeq p b = ((a.portViolates p 5).sendCtlBlock p (.nak 4 b.seq)).sendSync p :=
  (if_neg (by omega)).trans ((if_neg (by simp [hh])).trans (if_pos hc))

theorem takeSeq_credit (he : seqGap b.seq (a.port p).rxSeq ≤ 1024)
    (hh : (a.port p).held.any (fun h => h.1 == b.seq) = false) (hc : nth (a.port p).avail b.tc ≠ 0) :
    a.takeSeq p b = if seqGap b.seq (a.port p).rxSeq = 0 then
      ((((a.creditSpent p b).modPort p (fun y => { y with
        rxSeq := (y.rxSeq + 1) % 4096, asked := y.asked.filter (· != b.seq) })).deliver p b).deliverHeld p 1024)
    else ((a.creditSpent p b).modPort p (fun y => { y with held := y.held ++ [(b.seq, b)] })).nakGap p b.seq :=
  (if_neg (by omega)).trans ((if_neg (by simp [hh])).trans (if_neg hc))

theorem takeSeq_ahead (h0 : 0 < seqGap b.seq (a.port p).rxSeq) (he : seqGap b.seq (a.port p).rxSeq ≤ 1024)
    (hh : (a.port p).held.any (fun h => h.1 == b.seq) = false) (hc : nth (a.port p).avail b.tc ≠ 0) : a.takeSeq p b =
      ((a.creditSpent p b).modPort p (fun y => { y with held := y.held ++ [(b.seq, b)] })).nakGap p b.seq := by
  rw [takeSeq_credit he hh hc, if_neg (by omega)]

/-! ### A block in its turn (R198, R320, R330, R331) -/

/-- The port after it has taken the credit and the number of a block in its turn. -/
def State.numberTaken (a : State) (p : Nat) (b : LinkBlock) : State :=
  (a.creditSpent p b).modPort p (fun y => { y with
    rxSeq := (y.rxSeq + 1) % 4096, asked := y.asked.filter (· != b.seq) })

theorem numberTaken_carried (a : State) (p : Nat) (b : LinkBlock) :
    (a.numberTaken p b).carried p b.pay = a.turnTaken p b := rfl

/-- A block in its turn is delivered, and then what its turn frees. -/
theorem exec_inTurn (h : s.blockInTurn p b a) (hc : (c, true) ∈ blockRows p b) :
    exec c s = .next (((a.numberTaken p b).deliver p b).deliverHeld p 1024) := by
  rw [exec_block hc, linkIn_sequenced h.toblockIn h.kind, takeSeq_credit (by rw [h.turn]; omega) h.fresh h.credit,
    if_pos h.turn]
  rfl

section
variable {d : State}

theorem deliver_failed (h : s.carried p b.pay = d) (ht : b.tc ≠ 0) (hf : d.failedDevice b.src = true) :
    s.deliver p b = (d.addF (F.fabPViolFailedSrc p) 1).freeCredit p b.tc := by
  rw [State.deliver, h]
  exact if_pos ⟨ht, hf⟩

theorem deliver_fence {step version : Nat} (h : s.carried p b.pay = d) (hf : d.failedDevice b.src = false)
    (ht : b.btype = 2) (hp : b.pay = .fence step version) : s.deliver p b =
      if b.payResv then (d.portViolates p 7).freeCredit p 1 else (d.takeFence p step version).freeCredit p 1 := by
  rw [State.deliver, h, ht, hp]
  exact if_neg (by simp [hf])

/-- A block of class 2 passes a port that fences. -/
theorem deliver_tc2 (h : s.carried p b.pay = d) (hf : d.failedDevice b.src = false) (ht : b.btype = 1) (hc : b.tc = 2) :
    s.deliver p b = if b.dest ≠ d.idOn p then d.takeTransit p b else (d.takeContent p b).release p b := by
  rw [State.deliver, h, ht]
  exact (if_neg (by simp [hf])).trans (if_neg (by simp [hc]))

theorem deliver_transit (h : s.carried p b.pay = d) (hf : d.failedDevice b.src = false) (ht : b.btype = 1)
    (hc : b.tc = 2) (hd : b.dest ≠ d.idOn p) : s.deliver p b = d.takeTransit p b := by
  rw [deliver_tc2 h hf ht hc, if_pos hd]

/-- The buffer of a bulk block is free again whatever becomes of its bytes. -/
theorem release_bulk {st off : Nat} {w : List Byte} (hp : b.pay = .bulk st off w) :
    s.release p b = s.freeCredit p b.tc := by
  rw [State.release, State.holdsRed, hp]

theorem deliver_bulk {st off : Nat} {w : List Byte} (h : s.carried p b.pay = d) (hf : d.failedDevice b.src = false)
    (ht : b.btype = 1) (hc : b.tc = 2) (hd : b.dest = d.idOn p) (hp : b.pay = .bulk st off w) : s.deliver p b =
      (if b.payResv = false ∧ 1 ≤ w.length ∧ w.length ≤ 240 then d.takeBulk b.src st off w
        else d.portViolates p 7).freeCredit p 2 := by
  rw [deliver_tc2 h hf ht hc, if_neg (not_not.2 hd), release_bulk hp, hc, State.takeContent, hp]
  simp only [hc, true_and, Bool.not_eq_true']

end

/-! ### Unsequenced blocks (R318, R319, R321, R322) -/

theorem isSequenced_false (h1 : b.btype ≠ 1) (h2 : b.btype ≠ 2) : isSequenced b = false := by
  simp [isSequenced, h1, h2]

/-- An unsequenced block whose number shows a gap has what is missing asked for. -/
def State.gapAsked (a : State) (p seq : Nat) : State :=
  if seqGap seq (a.port p).rxSeq ≠ 0 ∧ seqGap seq (a.port p).rxSeq ≤ 1024 then a.nakGap p seq else a

theorem takeUnseq_nak {reason seq : Nat} (ht : b.btype = 3) (hp : b.pay = .nak reason seq) : a.takeUnseq p b =
    let u := a.gapAsked p b.seq
    if reason ≠ 1 then u
    else if (u.port p).replay.any (fun y => y.1 == seq) then
      (if seq ∈ (u.port p).resend then u else u.putPort p { u.port p with resend := (u.port p).resend ++ [seq] })
    else u.portViolates p 4 := by
  rw [State.takeUnseq, ← State.gapAsked, hp]
  simp only [ht, ne_eq, not_true_eq_false, false_or, List.contains_iff_mem]

/-- The port after its credits are set anew. -/
def Port.syncCredits (x : Port) (c0 c1 c2 : Nat) : Port :=
  { x with credit := [c0, c1, c2], grant := [max (nth x.grant 0) c0, max (nth x.grant 1) c1, max (nth x.grant 2) c2] }

theorem takeUnseq_creditSync {c0 c1 c2 : Nat} (ht : b.btype = 4) (hp : b.pay = .creditSync c0 c1 c2) :
    a.takeUnseq p b = (a.gapAsked p b.seq).modPort p (fun x => x.syncCredits c0 c1 c2) := by
  rw [State.takeUnseq, ← State.gapAsked, hp]
  exact if_neg (not_not.2 ht)

theorem takeUnseq_idle (hp : b.pay = .idle) : a.takeUnseq p b = a.gapAsked p b.seq := by
  rw [State.takeUnseq, ← State.gapAsked, hp]

theorem gapAsked_frame (a : State) (p seq : Nat) : (a.gapAsked p seq).hbm = a.hbm ∧ (a.gapAsked p seq).sch = a.sch ∧
    (a.gapAsked p seq).pass = a.pass := by
  rw [State.gapAsked]
  split
  · unfold State.nakGap
    dsimp only
    split <;> exact ⟨rfl, rfl, rfl⟩
  · exact ⟨rfl, rfl, rfl⟩

theorem exec_unsequenced (h : s.blockIn p b a) (hc : (c, true) ∈ blockRows p b) (h1 : b.btype ≠ 1) (h2 : b.btype ≠ 2) :
    exec c s = .next (a.takeUnseq p b) := by
  rw [exec_block hc, linkIn_unsequenced h (isSequenced_false h1 h2)]

/-- A CREDIT_SYNC sets the credits of its port, and leaves the memory, the schedule and the step. -/
theorem exec_creditSync_sets {c0 c1 c2 : Nat} (h : s.blockIn p b a) (ht : b.btype = 4)
    (hp : b.pay = .creditSync c0 c1 c2) : ∃ t : State, exec (.creditSync p b) s = .next t ∧
      (t.port p).credit = [c0, c1, c2] ∧ t.hbm = a.hbm ∧ t.sch = a.sch ∧ t.pass = a.pass := by
  obtain ⟨hhbm, hsch, hpass⟩ := gapAsked_frame a p b.seq
  refine ⟨(a.gapAsked p b.seq).modPort p (fun x => x.syncCredits c0 c1 c2), ?_, ?_, hhbm, hsch, hpass⟩
  · rw [exec_unsequenced h (creditSync_mem ht) (by omega) (by omega), takeUnseq_creditSync ht hp]
  · simp [State.modPort, State.putPort, State.port, Port.syncCredits]

/-! ### IDENT (R326) -/

theorem exec_ident_training {fabric tag x : Nat} (ht : b.btype = 5) (hp : b.pay = .ident fabric tag x)
    (hs : s.pst p = pTraining) (hf : (s.port p).fast = false) (hlt : p < 12) :
    exec (.ident p b) s = .next (s.takeIdent p fabric tag) := by
  have hdown : s.portUp p = false := by
    rw [State.portUp, hs]
    rfl
  change execIdent p b s = _
  rw [execIdent, hp]
  exact (if_neg (not_not.2 ht)).trans ((if_neg (by simp [hdown])).trans (if_pos (by simp [hs, hf, hlt])))

/-- On a port that is up an IDENT is malformed. -/
theorem exec_ident_up {fabric tag x : Nat} (ht : b.btype = 5) (hp : b.pay = .ident fabric tag x)
    (hup : s.portUp p = true) :
    exec (.ident p b) s = .next ((s.portViolates p 1).sendCtlBlock p (.nak 3 b.seq)) := by
  have hbad : fmtBad b = true := by simp [fmtBad, ht]
  rw [← linkIn_bad hup hbad]
  change execIdent p b s = _
  rw [execIdent, hp]
  exact (if_neg (not_not.2 ht)).trans (if_pos hup)

end

/-- Settles O29: a block in its turn by what it holds, another by its number and its credit, the unsequenced ones by their
kind, and IDENT by the state of the port. -/
theorem fabricBlocksArrive : Obligations.FabricBlocksArrive := by
  unfold Obligations.FabricBlocksArrive
  intro s a p b
  dsimp only
  refine ⟨fun step version h ht hp hf => ?fence, fun st off w h ht hc hp hf hd => ?bulk, fun h ht hc hf hd => ?transit,
    fun c hc h ht hf => ?failed, fun c hc h hq => ⟨fun hb => ?before, fun he hh ha => ?noCredit,
      fun h0 he hh ha => ?ahead⟩, fun c hc hup => ⟨fun hb => ?malformed, fun hb hw => ?window⟩,
    fun reason seq h ht hp => ?nak, fun c0 c1 c2 h ht hp => exec_creditSync_sets h ht hp,
    fun fabric tag x ht hp hs hf hlt => exec_ident_training ht hp hs hf hlt,
    fun fabric tag x ht hp hup => exec_ident_up ht hp hup, fun h ht hp => ?idle, fun c f hc h => ?nothing⟩
  case fence => rw [exec_inTurn h (fence_mem ht), deliver_fence (numberTaken_carried a p b) hf ht hp]
  case bulk => rw [exec_inTurn h (bulkData_mem ht hc), deliver_bulk (numberTaken_carried a p b) hf ht hc hd hp]
  case transit => rw [exec_inTurn h (bulkData_mem ht hc), deliver_transit (numberTaken_carried a p b) hf ht hc hd]
  case failed => rw [exec_inTurn h hc, deliver_failed (numberTaken_carried a p b) ht hf]
  case before => rw [exec_block hc, linkIn_sequenced h hq, takeSeq_before hb]
  case noCredit => rw [exec_block hc, linkIn_sequenced h hq, takeSeq_noCredit he hh ha]
  case ahead =>
    rw [exec_block hc, linkIn_sequenced h hq, takeSeq_ahead h0 he hh ha]
    rfl
  case malformed => rw [exec_block hc, linkIn_bad hup hb]
  case window => rw [exec_block hc, linkIn_outOfWindow hup hb hw]
  case nak =>
    rw [exec_unsequenced h (nak_mem ht) (by omega) (by omega), takeUnseq_nak ht hp]
    rfl
  case idle =>
    rw [exec_unsequenced h idle_mem (by omega) (by omega), takeUnseq_idle hp]
    rfl
  case nothing =>
    cases f with
    | false => exact exec_block_other hc
    | true => rw [exec_block hc, linkIn_down (h.resolve_right (by simp))]

end Sys2Proof.Machine
end
